-- ==== Sys2Proof/Word.lean ====
section
/-! DEFINITION. The word types of the ZN-16 and the sparse register and memory data they live in. -/

namespace Sys2Proof

/-- One byte of memory or of a buffer. -/
abbrev Byte := BitVec 8

/-- A 32-bit word: a vector register, an instruction word (R7, R166). -/
abbrev Word := BitVec 32

/-- A 64-bit value: a scalar register, a virtual address, a program counter (R7, R36). -/
abbrev DWord := BitVec 64

/-- A 128-bit value: the widest memory access, and a mask over up to 128 lanes (R7, R247). -/
abbrev QWord := BitVec 128

/-- Sparse data by key, kept sorted with no repeated key and no entry equal to the value an unlisted key reads as. -/
abbrev Sparse (β : Type) := List (Nat × β)

end Sys2Proof
end

