-- ==== Sys2Proof/Syntax.lean ====
section
/-! DEFINITION. The syntax: one constructor of `Instr` for every row of spec/opcode_table.json, instructions and steps of
the part's other agents alike (95_what_each_step_holds.md). Operands are decoded; no raw encoding is left in them. -/

namespace Sys2Proof

/-- The form of an encoding by LEN: 00, 01, 10, 11 (R166). -/
inductive Form where
  | base | lit | ext | extLit
  deriving DecidableEq, Repr, Inhabited

/-- Bytes of an instruction by form (R166). -/
def Form.len : Form → Nat
  | .base => 4
  | .lit => 12
  | .ext => 12
  | .extLit => 20

/-- True for the extended forms, LEN 10 and 11 (R170). -/
def Form.isExt : Form → Bool
  | .base => false
  | .lit => false
  | .ext => true
  | .extLit => true

/-- True for the forms that carry a literal, LEN 01 and 11 (R167). -/
def Form.hasLit : Form → Bool
  | .base => false
  | .lit => true
  | .ext => false
  | .extLit => true

/-- What an operand position names (R169, R171, R212).
`none` is a field the instruction gives no use; `num` is a field that holds a plain number; `gap` is one of the codes
0x650–0x6FF, which name no register and raise REGRANGE. -/
inductive Operand where
  | none
  | vec (n : BitVec 11)
  | scl (n : BitVec 6)
  | prd (n : BitVec 4)
  | int (c : BitVec 7)
  | fp (k : BitVec 4)
  | gap (c : BitVec 8)
  | num (n : BitVec 11)
  | lit (x : BitVec 64)
  deriving DecidableEq, Repr, Inhabited

/-- A guard: predicate number and GN (R164). -/
structure Guard where
  p : BitVec 4
  neg : Bool
  deriving DecidableEq, Repr, Inhabited

/-- The decoded fields an instruction may use (R168 to R174). `imm` holds IMM12, IMM16, OFF20 or OFF24, as the form gives;
`lit` holds a literal that is no operand B (a branch target). Fields without a use hold zero. -/
structure Fields where
  form : Form
  d : Operand
  a : Operand
  b : Operand
  c : Operand
  gd : Guard
  ty : BitVec 5
  md : BitVec 8
  imm : BitVec 24
  lit : BitVec 64
  deriving DecidableEq, Repr, Inhabited

/-- Integer conditions of ICMP, SCMP and WAITC (R201, R205, R262). -/
inductive Cond where
  | eq | ne | lt | le | gt | ge | ult | ule
  deriving DecidableEq, Repr, Inhabited

/-- Conditions of FCMP (R221). -/
inductive FCond where
  | eq | ne | lt | le | gt | ge | unord | ord
  deriving DecidableEq, Repr, Inhabited

/-- Operations of RDX, RSTEP and SCAN (R237). -/
inductive RedOp where
  | iadd | imin | imax | and | or | xor | fadd | fmax
  deriving DecidableEq, Repr, Inhabited

/-- Access widths of LDG, STG, LDB and STB (Table 2 of 11_isa_memory_sync.md). -/
inductive Width where
  | z8 | s8 | z16 | s16 | b32 | b64 | b128 | e
  deriving DecidableEq, Repr, Inhabited

/-- Operations of ATOM and ATOMB (R252). -/
inductive AtomOp where
  | add | min | max | and | or | xor | exch | fadd
  deriving DecidableEq, Repr, Inhabited

/-- Operations of COMM and of a commutative range (R62, R255). -/
inductive CommOp where
  | fadd | iadd | fmax | fmin | imax | imin
  deriving DecidableEq, Repr, Inhabited

/-- The dual form (R175): two operations under one guard. MAJ1, FN1, MAJ2 and FN2 stay as encoded because R176 makes a major
outside its list a PAIRING fault of the instruction; operand fields are the 8-bit fields of words 1 and 2. -/
structure DualOp where
  maj : BitVec 6
  fn : BitVec 3
  d : BitVec 8
  a : BitVec 8
  b : BitVec 8
  c : BitVec 8
  deriving DecidableEq, Repr, Inhabited

/-- A signed boot or firmware image (R367): the header and the body that the signature covers, the modulus of the key, and the signature. -/
structure Signed where
  header : List Byte
  body : List Byte
  modulus : BitVec 3072
  signature : BitVec 3072
  deriving DecidableEq, Repr, Inhabited

/-- Host AtomicOps on BAR 2 (R379, Table 9 of 07_replayed_objects_remote_ops.md). -/
inductive HostOp where
  | fetchAdd | swap | cas
  deriving DecidableEq, Repr, Inhabited

/-- The instructions and steps of the ZN-16: one constructor per row of spec/opcode_table.json. -/
inductive Instr where
  /-- NOP (R179). Changes nothing but the PC, in every form and with any body. -/
  | nop (f : Fields)
  /-- BRA (R188). Sets each guard-true lane's PC to the instruction's address plus 4 times OFF20. -/
  | bra (f : Fields)
  /-- BRA_X (R188). Extended branch to a relative IMM16 target (LEN 10) or an absolute literal target (LEN 11), under a full guard. -/
  | braX (f : Fields)
  /-- CALL (R188). Writes the return address to v62:v63 and branches to the OFF20 target. -/
  | call (f : Fields)
  /-- CALL_X (R188). Extended call to a relative IMM16 target or an absolute literal target, linking in v62:v63. -/
  | callX (f : Fields)
  /-- JMPR (R189). Jumps each lane to the target held in its register pair. -/
  | jmpr (f : Fields)
  /-- CALLR (R189). Links in v62:v63 and jumps each lane to the target held in its register pair. -/
  | callr (f : Fields)
  /-- RET (R189). Returns each lane to the address held in v62:v63. -/
  | ret (f : Fields)
  /-- BTAB (R191). Dispatches each lane through the table word that its index selects, checking for BTARGET, FETCH and ILLEGAL in that order. -/
  | btab (f : Fields)
  /-- TGT (R192). A branch-table word; executing one raises ILLEGAL. -/
  | tgt (f : Fields)
  /-- JOIN (R20). Holds lanes JOINED at this address until every live lane of the group has arrived or the IMM12 timeout passes. -/
  | join (f : Fields)
  /-- JOIN_X (R20). Extended JOIN, with a guard and a 16-bit timeout. -/
  | joinX (f : Fields)
  /-- JOIN_TIMEOUT (R20). An open JOIN episode reaches its limit, and its held lanes are released past the JOIN. -/
  | joinTimeout (g : Nat) (pc : BitVec 64)
  /-- EXIT (R12). Puts the guard-true lanes in EXITED; this may complete a JOIN episode or the exit of the team. -/
  | exit (f : Fields)
  /-- TRAP (R32). Takes a user trap with KIND 2 and the 6-bit code. -/
  | trap (f : Fields)
  /-- RETT (R33). Returns a handler-set lane to TPC and removes it from the set; the trap ends when the set is empty. -/
  | rett (f : Fields)
  /-- SLEEP (R193). Puts the guard-true lanes in TIMED for the number of core cycles held in the scalar. -/
  | sleep (f : Fields)
  /-- BKPT (R32). Takes a user trap with KIND 3. -/
  | bkpt (f : Fields)
  /-- TIMED_EXPIRY (R193). A lane's SLEEP count expires, and the lane returns to ELIGIBLE at the next instruction. -/
  | timedExpiry (g : Nat) (lane : Nat)
  /-- IADD (R195). Integer add, modulo the element width. -/
  | iadd (f : Fields)
  /-- ISUB (R195). Integer subtract, modulo the element width. -/
  | isub (f : Fields)
  /-- IADDC (R195). Add with carry in and out through p7. -/
  | iaddc (f : Fields)
  /-- ISUBB (R195). Subtract with borrow in and out through p7. -/
  | isubb (f : Fields)
  /-- IMIN (R195). Signed minimum. -/
  | imin (f : Fields)
  /-- IMAX (R195). Signed maximum. -/
  | imax (f : Fields)
  /-- UMIN (R195). Unsigned minimum. -/
  | umin (f : Fields)
  /-- UMAX (R195). Unsigned maximum. -/
  | umax (f : Fields)
  /-- IADDS (R196). Signed saturating add, extended form only. -/
  | iadds (f : Fields)
  /-- ISUBS (R196). Signed saturating subtract, extended form only. -/
  | isubs (f : Fields)
  /-- UADDS (R196). Unsigned saturating add, extended form only. -/
  | uadds (f : Fields)
  /-- USUBS (R196). Unsigned saturating subtract, extended form only. -/
  | usubs (f : Fields)
  /-- IABS (R196). Saturating absolute value, extended form only. -/
  | iabs (f : Fields)
  /-- IMUL (R197). Low 32 bits of the product. -/
  | imul (f : Fields)
  /-- IMULH (R197). High 32 bits of the signed product. -/
  | imulh (f : Fields)
  /-- UMULH (R197). High 32 bits of the unsigned product. -/
  | umulh (f : Fields)
  /-- IMAD (R197). Multiply and add the third source, modulo 2^32. -/
  | imad (f : Fields)
  /-- IDIV (R197). Signed divide, with defined results for zero and overflow. -/
  | idiv (f : Fields)
  /-- UDIV (R197). Unsigned divide. -/
  | udiv (f : Fields)
  /-- IREM (R197). Signed remainder. -/
  | irem (f : Fields)
  /-- UREM (R197). Unsigned remainder. -/
  | urem (f : Fields)
  /-- AND (R198). Bitwise AND. -/
  | and (f : Fields)
  /-- OR (R198). Bitwise OR. -/
  | or (f : Fields)
  /-- XOR (R198). Bitwise XOR. -/
  | xor (f : Fields)
  /-- ANDN (R198). a AND NOT b. -/
  | andn (f : Fields)
  /-- ORN (R198). a OR NOT b. -/
  | orn (f : Fields)
  /-- XNOR (R198). NOT (a XOR b). -/
  | xnor (f : Fields)
  /-- NOT (R198). Bitwise NOT of a. -/
  | not (f : Fields)
  /-- MOV (R198). Copies a. -/
  | mov (f : Fields)
  /-- LOP3 (R198). Any three-input bitwise function, given by the table in IMM16, extended form only. -/
  | lop3 (f : Fields)
  /-- SHL (R199). Shift left. -/
  | shl (f : Fields)
  /-- SHR (R199). Logical shift right. -/
  | shr (f : Fields)
  /-- SAR (R199). Arithmetic shift right. -/
  | sar (f : Fields)
  /-- ROL (R199). Rotate left. -/
  | rol (f : Fields)
  /-- ROR (R199). Rotate right. -/
  | ror (f : Fields)
  /-- BREV (R199). Bit reversal. -/
  | brev (f : Fields)
  /-- POPC (R199). Population count. -/
  | popc (f : Fields)
  /-- CLZ (R199). Count of leading zeros. -/
  | clz (f : Fields)
  /-- CTZ (R200). Count of trailing zeros. -/
  | ctz (f : Fields)
  /-- BFE (R200). Zero-extended bit-field extract. -/
  | bfe (f : Fields)
  /-- BFES (R200). Sign-extended bit-field extract. -/
  | bfes (f : Fields)
  /-- BFI (R200). Bit-field insert into the third source. -/
  | bfi (f : Fields)
  /-- LEA1 (R200). (a << 1) + b. -/
  | lea1 (f : Fields)
  /-- LEA2 (R200). (a << 2) + b. -/
  | lea2 (f : Fields)
  /-- LEA3 (R200). (a << 3) + b. -/
  | lea3 (f : Fields)
  /-- PRMT (R200). Byte permute of a and the third source. -/
  | prmt (f : Fields)
  /-- ICMP (R201). Integer comparison, whose condition FN selects, written to a predicate. -/
  | icmp (op : Cond) (f : Fields)
  /-- SEL (R202). Selects a or b by the predicate named in G, in every lane of the bundle. -/
  | sel (f : Fields)
  /-- PAND (R202). Predicate AND. -/
  | pand (f : Fields)
  /-- POR (R202). Predicate OR. -/
  | por (f : Fields)
  /-- PXOR (R202). Predicate XOR. -/
  | pxor (f : Fields)
  /-- PANDN (R202). Predicate AND NOT. -/
  | pandn (f : Fields)
  /-- PSET (R202). Sets a predicate to a ≠ 0. -/
  | pset (f : Fields)
  /-- P2V (R202). Packs the lane's predicates into a vector register. -/
  | p2v (f : Fields)
  /-- V2P (R202). Writes predicates 1–15 from a, under the mask in b. -/
  | v2p (f : Fields)
  /-- IADD64 (R203). 64-bit add of pairs. -/
  | iadd64 (f : Fields)
  /-- ISUB64 (R203). 64-bit subtract of pairs. -/
  | isub64 (f : Fields)
  /-- SHL64 (R203). 64-bit shift left. -/
  | shl64 (f : Fields)
  /-- SHR64 (R203). 64-bit logical shift right. -/
  | shr64 (f : Fields)
  /-- SAR64 (R203). 64-bit arithmetic shift right. -/
  | sar64 (f : Fields)
  /-- IMULW (R203). Signed 32×32 multiply to 64 bits. -/
  | imulw (f : Fields)
  /-- UMULW (R203). Unsigned 32×32 multiply to 64 bits. -/
  | umulw (f : Fields)
  /-- MOV64 (R203). Pair move. -/
  | mov64 (f : Fields)
  /-- SADD (R204). Scalar 64-bit add, once per bundle. -/
  | sadd (f : Fields)
  /-- SSUB (R204). Scalar subtract. -/
  | ssub (f : Fields)
  /-- SMUL (R204). Scalar multiply. -/
  | smul (f : Fields)
  /-- SAND (R204). Scalar AND. -/
  | sand (f : Fields)
  /-- SOR (R204). Scalar OR. -/
  | sor (f : Fields)
  /-- SXOR (R204). Scalar XOR. -/
  | sxor (f : Fields)
  /-- SSHL (R204). Scalar shift left. -/
  | sshl (f : Fields)
  /-- SSHR (R204). Scalar logical shift right. -/
  | sshr (f : Fields)
  /-- SSAR (R204). Scalar arithmetic shift right. -/
  | ssar (f : Fields)
  /-- SMIN (R204). Scalar signed minimum. -/
  | smin (f : Fields)
  /-- SMAX (R204). Scalar signed maximum. -/
  | smax (f : Fields)
  /-- SMINU (R204). Scalar unsigned minimum. -/
  | sminu (f : Fields)
  /-- SMAXU (R204). Scalar unsigned maximum. -/
  | smaxu (f : Fields)
  /-- SMOV (R204). Scalar move. -/
  | smov (f : Fields)
  /-- V2S (R204). Copies the elected lane's vector value to a scalar. -/
  | v2s (f : Fields)
  /-- S2V (R204). Copies a scalar to each guard-true lane's vector register. -/
  | s2v (f : Fields)
  /-- SCMP (R205). Scalar comparison, written to a predicate in every guard-true lane. -/
  | scmp (op : Cond) (f : Fields)
  /-- GETS (R208). Reads a special register by number into a vector or scalar. -/
  | gets (f : Fields)
  /-- SETS (R209). Writes a special register by number. -/
  | sets (f : Fields)
  /-- MOVI (R206). Moves a sign-extended immediate into each lane. -/
  | movi (f : Fields)
  /-- SMOVI (R206). Moves an immediate into a scalar. -/
  | smovi (f : Fields)
  /-- IADDI (R206). Adds an immediate to a vector register. -/
  | iaddi (f : Fields)
  /-- SADDI (R206). Adds an immediate to a scalar. -/
  | saddi (f : Fields)
  /-- RGET (R210). Reads a register whose code is computed from a scalar plus IMM16. -/
  | rget (f : Fields)
  /-- RSET (R210). Writes a register whose code is computed from a scalar plus IMM16. -/
  | rset (f : Fields)
  /-- FADD (R215). FP add. -/
  | fadd (f : Fields)
  /-- FSUB (R215). FP subtract. -/
  | fsub (f : Fields)
  /-- FMUL (R215). FP multiply. -/
  | fmul (f : Fields)
  /-- FFMA (R215). Fused multiply-add with one rounding. -/
  | ffma (f : Fields)
  /-- FMIN (R216). IEEE minimum. -/
  | fmin (f : Fields)
  /-- FMAX (R216). IEEE maximum. -/
  | fmax (f : Fields)
  /-- FMINM (R216). IEEE minimumNumber. -/
  | fminm (f : Fields)
  /-- FMAXM (R216). IEEE maximumNumber. -/
  | fmaxm (f : Fields)
  /-- FABS (R217). Clears the sign bit. -/
  | fabs (f : Fields)
  /-- FNEG (R217). Inverts the sign bit. -/
  | fneg (f : Fields)
  /-- FRND (R217). Rounds to an integral value. -/
  | frnd (f : Fields)
  /-- FFRAC (R217). Fractional part. -/
  | ffrac (f : Fields)
  /-- FCLASS (R218). Writes the class mask. -/
  | fclass (f : Fields)
  /-- FGETEXP (R217). Writes the unbiased exponent. -/
  | fgetexp (f : Fields)
  /-- FSCALE (R217). a × 2^n, rounded. -/
  | fscale (f : Fields)
  /-- FCOPYSIGN (R217). a with the sign of b. -/
  | fcopysign (f : Fields)
  /-- FRCP (R219). Reciprocal. -/
  | frcp (f : Fields)
  /-- FRSQ (R219). Reciprocal square root. -/
  | frsq (f : Fields)
  /-- FSQRT (R219). Correctly rounded square root. -/
  | fsqrt (f : Fields)
  /-- FEXP2 (R219). Base-2 exponential. -/
  | fexp2 (f : Fields)
  /-- FLOG2 (R219). Base-2 logarithm. -/
  | flog2 (f : Fields)
  /-- FSIN (R219). Sine. -/
  | fsin (f : Fields)
  /-- FCOS (R219). Cosine. -/
  | fcos (f : Fields)
  /-- FTANH (R219). Hyperbolic tangent. -/
  | ftanh (f : Fields)
  /-- FCMP (R221). FP comparison, whose condition FN selects, written to a predicate. -/
  | fcmp (op : FCond) (f : Fields)
  /-- FDIV (R222). Correctly rounded division. -/
  | fdiv (f : Fields)
  /-- HADD2 (R223). Packed FP16 add. -/
  | hadd2 (f : Fields)
  /-- HMUL2 (R223). Packed FP16 multiply. -/
  | hmul2 (f : Fields)
  /-- HFMA2 (R223). Packed FP16 fused multiply-add. -/
  | hfma2 (f : Fields)
  /-- BADD2 (R223). Packed BF16 add. -/
  | badd2 (f : Fields)
  /-- BMUL2 (R223). Packed BF16 multiply. -/
  | bmul2 (f : Fields)
  /-- BFMA2 (R223). Packed BF16 fused multiply-add. -/
  | bfma2 (f : Fields)
  /-- DOT4I (R224). Signed 4-way byte dot product plus accumulator. -/
  | dot4i (f : Fields)
  /-- DOT4U (R224). Unsigned 4-way byte dot product plus accumulator. -/
  | dot4u (f : Fields)
  /-- DOT2B (R225). BF16 2-way dot product into FP32. -/
  | dot2b (f : Fields)
  /-- DOT2H (R225). FP16 2-way dot product into FP32. -/
  | dot2h (f : Fields)
  /-- CVT (R226). Converts by the conversion code in B, with the rounding in FN. -/
  | cvt (op : BitVec 3) (f : Fields)
  /-- SHFL_IDX (R235). Reads A from the lane that the index names. -/
  | shflIdx (f : Fields)
  /-- SHFL_UP (R235). Reads A from lane l − b. -/
  | shflUp (f : Fields)
  /-- SHFL_DOWN (R235). Reads A from lane l + b. -/
  | shflDown (f : Fields)
  /-- SHFL_XOR (R235). Reads A from lane l XOR b. -/
  | shflXor (f : Fields)
  /-- SHFL_UPW (R235). Reads A from lane l − (WIDTH >> k). -/
  | shflUpw (f : Fields)
  /-- SHFL_DOWNW (R235). Reads A from lane l + (WIDTH >> k). -/
  | shflDownw (f : Fields)
  /-- SHFL_XORW (R235). Reads A from lane l XOR (WIDTH >> k). -/
  | shflXorw (f : Fields)
  /-- SHFL_ROTW (R235). Reads A from lane (l + (WIDTH >> k)) mod WIDTH. -/
  | shflRotw (f : Fields)
  /-- VOTE_ALL (R236). True in every voting lane when all their values are non-zero. -/
  | voteAll (f : Fields)
  /-- VOTE_ANY (R236). True when any voting lane's value is non-zero. -/
  | voteAny (f : Fields)
  /-- VOTE_BALLOT (R236). Writes the mask of voting lanes with non-zero values. -/
  | voteBallot (f : Fields)
  /-- VOTE_ELECT (R236). Sets the predicate only in the elected lane. -/
  | voteElect (f : Fields)
  /-- VOTE_MATCH (R236). Writes the lowest lane whose value equals the lane's own. -/
  | voteMatch (f : Fields)
  /-- VOTE_POPA (R236). Counts the voting lanes with non-zero values. -/
  | votePopa (f : Fields)
  /-- VOTE_LMASK (R236). Writes the mask of lower voting lanes with non-zero values. -/
  | voteLmask (f : Fields)
  /-- VOTE_ACTM (R236). Writes the mask of guard-true lanes. -/
  | voteActm (f : Fields)
  /-- RDX (R237). Fixed-tree reduction over the bundle, with the operation that FN selects. -/
  | rdx (op : RedOp) (f : Fields)
  /-- RSTEP (R238). One level k of the reduction tree. -/
  | rstep (op : RedOp) (f : Fields)
  /-- SCAN (R239). Fixed-tree prefix scan over lane order. -/
  | scan (op : RedOp) (f : Fields)
  /-- PUTL (R240). Each lane sends A to the lane that B names; the highest sender wins. -/
  | putl (f : Fields)
  /-- QNT (R230). Rotates and block-quantizes a register span. -/
  | qnt (f : Fields)
  /-- DEQ (R231). Dequantizes and inverse-rotates a span. -/
  | deq (f : Fields)
  /-- ROT (R232). Forward rotation of a span. -/
  | rot (f : Fields)
  /-- IROT (R232). Inverse rotation of a span. -/
  | irot (f : Fields)
  /-- SCALE (R233). Converts to an E8M0 byte, lane by lane. -/
  | scale (f : Fields)
  /-- DUAL (R175). Two vector operations under one guard, checked for PAIRING. -/
  | dual (gd : Guard) (x y : DualOp)
  /-- LDG (R249). Global load of the width that FN selects. -/
  | ldg (op : Width) (f : Fields)
  /-- STG (R250). Global store of the width that FN selects. -/
  | stg (op : Width) (f : Fields)
  /-- LDB (R251). Buffer load. -/
  | ldb (op : Width) (f : Fields)
  /-- STB (R251). Buffer store. -/
  | stb (op : Width) (f : Fields)
  /-- ATOM (R253). Global atomic of the operation that FN selects, executed at the place its scope gives. -/
  | atom (op : AtomOp) (f : Fields)
  /-- ATOM_CAS (R252). Compare-and-swap of 32, 64 or 128 bits, extended form only. -/
  | atomCas (f : Fields)
  /-- ATOMB (R254). Buffer atomic in the owning core's ABUF banks. -/
  | atomb (op : AtomOp) (f : Fields)
  /-- ATOMB_CAS (R252). Buffer compare-and-swap, extended form only. -/
  | atombCas (f : Fields)
  /-- COMM (R255). Folds each lane's value into the L1 partial of a commutative range. -/
  | comm (op : CommOp) (f : Fields)
  /-- WAIT (R256). Holds the lanes in COUNTING until the counters are at or below the thresholds. -/
  | wait (f : Fields)
  /-- FENCE_REL (R257). Release at the scope given. -/
  | fenceRel (f : Fields)
  /-- FENCE_ACQ (R257). Acquire point. -/
  | fenceAcq (f : Fields)
  /-- FENCE_FULL (R257). Release followed by an acquire point. -/
  | fenceFull (f : Fields)
  /-- FENCE_PROMOTE (R258). Remote-scope promotion of the victim team named in a scalar. -/
  | fencePromote (f : Fields)
  /-- FENCE_CFLUSH (R259). Writes back and flushes the core's L1, then invalidates its clean copies. -/
  | fenceCflush (f : Fields)
  /-- BAR_ARRIVE (R260). Release, then counts each lane's arrival and writes its token. -/
  | barArrive (f : Fields)
  /-- BAR_WAIT (R260). Sleeps in BARRIER while PHASE equals the token. -/
  | barWait (f : Fields)
  /-- BAR_SYNC (R260). Arrive, then wait. -/
  | barSync (f : Fields)
  /-- BAR_INIT (R260). Sets EXPECT and PENDING from a scalar. -/
  | barInit (f : Fields)
  /-- BAR_EXPECT (R260). Sets EXPECT for the next reload. -/
  | barExpect (f : Fields)
  /-- BAR_TEST (R260). Sets a predicate when PHASE differs from the token. -/
  | barTest (f : Fields)
  /-- RING_ACQ (R261). Reader acquire of a ring slot. -/
  | ringAcq (f : Fields)
  /-- RING_REL (R261). Reader returns a slot. -/
  | ringRel (f : Fields)
  /-- RING_PUT (R261). Writer acquire of a ring slot. -/
  | ringPut (f : Fields)
  /-- RING_PUB (R261). Release, then publishes a writer slot. -/
  | ringPub (f : Fields)
  /-- RING_INIT (R261). Initialises a ring object from a scalar. -/
  | ringInit (f : Fields)
  /-- RING_STAT (R261). Reads a word of a ring object into a scalar. -/
  | ringStat (f : Fields)
  /-- RING_WAITER_WAKE (R261). A ring counter that a waiting acquire needs becomes non-zero, and the oldest waiter of that role takes its slot. -/
  | ringWaiterWake (team : Nat) (ring : Nat) (writer : Bool)
  /-- WAITC (R262). Sends a condition monitor for the word at its home and puts the lanes in MONITOR. -/
  | waitc (op : Cond) (f : Fields)
  /-- MONITOR_WAKE (R84). A write makes a monitor's comparison true at the home; the lanes get the value and leave MONITOR. -/
  | monitorWake (m : Nat)
  /-- MONITOR_RECHECK (R84). Every 1 µs while the slice's monitors are full, the comparison repeats as a held load. -/
  | monitorRecheck (m : Nat)
  /-- HOST_MONITOR_POLL (R262). A host-window word is re-read at the hub port every 1 µs until its condition holds. -/
  | hostMonitorPoll (m : Nat) (seen : BitVec 64)
  /-- COPY (R269). Checks a copy descriptor and posts it to the core's copy engine. -/
  | copy (f : Fields)
  /-- TILE_MMA (R270). Posts a multiply-accumulate tile task. -/
  | tileMma (f : Fields)
  /-- TILE_MMAZ (R270). Posts a tile task that zeroes the accumulator first. -/
  | tileMmaz (f : Fields)
  /-- TILE_QOUT (R270). Posts a task that quantizes C out. -/
  | tileQout (f : Fields)
  /-- TILE_TROT (R270). Posts a task that inverse-rotates C. -/
  | tileTrot (f : Fields)
  /-- TILE_TZERO (R270). Posts a task that zeroes C. -/
  | tileTzero (f : Fields)
  /-- FCALL (R272). Function-store lookup per lane; miss lanes call the routine. -/
  | fcall (f : Fields)
  /-- FPROBE (R272). Function-store lookup that writes a hit predicate. -/
  | fprobe (f : Fields)
  /-- FRET (R273). Returns from a routine and sends one insert per lane. -/
  | fret (f : Fields)
  /-- FINVAL (R274). Invalidates every record of the handle on every die. -/
  | finval (f : Fields)
  /-- FSTAT (R275). Reads a function-store counter. -/
  | fstat (f : Fields)
  /-- OCALL (R277). Per-lane replayed-object method call. -/
  | ocall (f : Fields)
  /-- OSYNC (R277). Waits until the local copy has applied the log tail. -/
  | osync (f : Fields)
  /-- ORET (R278). Ends a method on the replay engine. -/
  | oret (f : Fields)
  /-- OSTAT (R279). Reads an object statistic for the issuing die. -/
  | ostat (f : Fields)
  /-- LAUNCH (R280). Checks a launch record and sends it to the distributors of its die set. -/
  | launch (f : Fields)
  /-- SNAP (R281). Requests a snapshot in an assay context. -/
  | snap (f : Fields)
  /-- BARSAVE (R286). Writes a barrier save block. -/
  | barsave (f : Fields)
  /-- BARRST (R287). Rebuilds barriers from a save block. -/
  | barrst (f : Fields)
  /-- SHOOT (R288). Broadcasts a TLB invalidation and waits for its drain. -/
  | shoot (f : Fields)
  /-- PURGE (R289). Removes everything bearing a request tag. -/
  | purge (f : Fields)
  /-- ZEROB (R290). Zeroes a buffer range. -/
  | zerob (f : Fields)
  /-- PARK (R291). Ends a save routine and parks the group. -/
  | park (f : Fields)
  /-- RFT (R292). Returns lanes from a privileged routine, restoring their state. -/
  | rft (f : Fields)
  /-- DESC (R293). Installs or removes a routine or object descriptor. -/
  | desc (f : Fields)
  /-- SYSCALL (R282). Privileged trap to the system-call routine. -/
  | syscall (f : Fields)
  /-- PFI (R283). Instruction prefetch of the target line. -/
  | pfi (f : Fields)
  /-- PFI_X (R341). Extended instruction prefetch of up to 8 lines, relative or absolute. -/
  | pfiX (f : Fields)
  /-- PFD_L1 (R263). Data prefetch into the L1. -/
  | pfdL1 (f : Fields)
  /-- PFD_SLICE (R263). Data prefetch into the local slice. -/
  | pfdSlice (f : Fields)
  /-- YIELD (R264). Passes over the group for 8 core cycles when another group is issuable. -/
  | yield (f : Fields)
  /-- HINT (R284). Trace marker, recorded when tracing is enabled. -/
  | hint (f : Fields)
  /-- LOAD_COMPLETE (R82). A load or atomic value arrives; the destination is written, and the counter retires in order. -/
  | loadComplete (r : Nat)
  /-- STORE_ACK (R69). A home acknowledges a store with its W, which is taken into WCT. -/
  | storeAck (r : Nat)
  /-- RELEASE_WCT_REACHED (R72). Local GTIME reaches WCT, and the lanes of a wide release leave COUNTING. -/
  | releaseWctReached (r : Nat)
  /-- COUNTER_RETIRE (R81). Counted operations retire in issue order; WAITs whose thresholds are met release. -/
  | counterRetire (g : Nat) (cls : Nat)
  /-- PROMOTE_REQUEST (R78). The victim core writes back and flushes its L1 and returns the largest W. -/
  | promoteRequest (r : Nat)
  /-- HOME_REQUEST (R69). A request reaches its home slice: it is ordered, assigned W, granted a lease or held. -/
  | homeRequest (r : Nat)
  /-- HELD_LOAD_RELEASE (R69). Home GTIME reaches W, and the held loads of the line are served. -/
  | heldLoadRelease (r : Nat)
  /-- REQUEST_FORWARD (R54). A request reaching a die that is not the home is forwarded. -/
  | requestForward (r : Nat)
  /-- FLIT_REOFFER (R52). A refused request flit is offered again after one circuit of its drift. -/
  | flitReoffer (r : Nat)
  /-- L1_EVICTION (R75). The L1 evicts a line, writing back its dirty bytes or flushing its partial. -/
  | l1Eviction (core : Nat) (line : Nat)
  /-- REPLICA_EVICTION (R57). A replica is dropped without notice. -/
  | replicaEviction (die : Nat) (line : Nat)
  /-- SEGMENT_DRAIN (R49). A lent segment is drained, zeroed and handed to a team. -/
  | segmentDrain (core : Nat) (weight : Bool) (seg : Nat)
  /-- GRANULE_COUNT_HALVING (R55). Every 1 ms the write counts halve, and a granule may begin to move home. -/
  | granuleCountHalving (die : Nat)
  /-- CLAIM (R55). The new home installs a claim with horizon, monitors and commutative values. -/
  | claim (gran : Nat)
  /-- FORWARD_POINTER_EXPIRY (R54). The old home's forwarding pointer lapses 1 ms after the move. -/
  | forwardPointerExpiry (die : Nat) (gran : Nat)
  /-- PARTIAL_REGISTRATION (R63). The home registers a core as partial holder and acknowledges the allocating COMM. -/
  | partialRegistration (r : Nat)
  /-- PARTIAL_FLUSH (R63). A flushed partial arrives at the home and is folded in. -/
  | partialFlush (r : Nat)
  /-- PARTIAL_RECALL (R64). A holder returns and drops its partial on recall. -/
  | partialRecall (r : Nat) (core : Nat)
  /-- COMBINE_COMPLETE (R64). All recalled partials are folded, and the waiting access is performed. -/
  | combineComplete (r : Nat)
  /-- TASK_READY (R118). A tile task's wait barriers flip and its stream predecessors drain: WAITING becomes READY. -/
  | taskReady (t : Nat)
  /-- PASS_GRANT (R119). At a pass boundary the arbiter grants the array to the highest effective priority. -/
  | passGrant (quad : Nat)
  /-- TASK_COMPLETE (R122). A task's results are written; it signals SIG and its counter operation completes. -/
  | taskComplete (t : Nat)
  /-- COPY_START (R128). A queued command starts walking when a walk slot frees. -/
  | copyStart (c : Nat)
  /-- COPY_RING_ACQUIRE (R127). A waiting command takes a ring slot when one frees. -/
  | copyRingAcquire (c : Nat)
  /-- COPY_WALK_FAULT (R126). The walk meets a translation or poison condition and stops as a replayable fault. -/
  | copyWalkFault (c : Nat)
  /-- COPY_COMPLETE (R128). A command's reads and writes are performed; it publishes or returns its slot and signals its barrier. -/
  | copyComplete (c : Nat)
  /-- STORE_LOOKUP (R135). A lookup reaches its slice and hits or misses. -/
  | storeLookup (l : Nat) (ecc : List Nat)
  /-- LOOKUP_ANSWER (R300). The answers return, and the lanes leave FCALL or FPROBE. -/
  | lookupAnswer (l : Nat)
  /-- STORE_INSERT (R138). An insert is applied: duplicate, growth or insertion with eviction. -/
  | storeInsert (i : Nat)
  /-- STORE_INVALIDATE (R142). A die invalidates a handle's records and acknowledges. -/
  | storeInvalidate (die : Nat) (v : Nat)
  /-- FINVAL_DONE (R274). Every die has acknowledged, and the FINVAL lanes leave. -/
  | finvalDone (v : Nat)
  /-- LOG_APPEND (R147). The log home numbers an append and writes it to the ring, or holds it when the ring is full. -/
  | logAppend (c : Nat)
  /-- TAIL_READ (R148). The log home answers a read of the log tail. -/
  | tailRead (c : Nat)
  /-- REPLAY_APPLY (R151). A replay engine applies the next log entry and returns its result to the caller. -/
  | replayApply (die : Nat) (o : Nat)
  /-- READ_ONLY_CALL (R148). A read-only method runs once the copy has applied every entry below T. -/
  | readOnlyCall (c : Nat)
  /-- APPLIED_REPORT (R153). A replay engine reports its applied index, and entries are trimmed. -/
  | appliedReport (die : Nat) (o : Nat)
  /-- DIGEST_REPORT (R154). A checkpoint digest arrives at the log home; the vote is decided when all have arrived. -/
  | digestReport (die : Nat) (o : Nat)
  /-- DIGEST_TIMEOUT (R154). 1 ms after the first digest, the vote is decided with missing digests as the minority. -/
  | digestTimeout (o : Nat)
  /-- RESYNC (R154). A minority die loads the majority checkpoint and replays. -/
  | resync (die : Nat) (o : Nat)
  /-- NUMBERED_REQUEST (R158). A numbered operation arrives and is checked against the receipt cache. -/
  | numberedRequest (n : Nat)
  /-- NUMBERED_REPLY (R157). The ROU receives a result, HELD, BUSY or STALE reply. -/
  | numberedReply (n : Nat)
  /-- ROU_RETRANSMIT (R157). The retransmission timer fires and the operation is resent. -/
  | rouRetransmit (n : Nat)
  /-- ROU_GIVE_UP (R157). At 256 µs the operation completes as INDETERMINATE or NOTEXEC. -/
  | rouGiveUp (n : Nat)
  /-- RECEIPT_RETIRE (R158). A DONE receipt retires once ACKW passes it and 1,256 µs have passed. -/
  | receiptRetire (die : Nat) (reqid : Nat) (rsn : BitVec 32)
  /-- HOST_ATOMIC (R160). The hub port records a receipt and sends the PCIe AtomicOp or starts a CAS loop. -/
  | hostAtomic (n : Nat)
  /-- HOST_CAS_COMPLETION (R161). A PCIe completion arrives; the loop retries, succeeds, or completes with CONTENTION or NOATOMIC. -/
  | hostCasCompletion (n : Nat) (ok : Bool) (refusedByHost : Bool) (seen : BitVec 128)
  /-- LAUNCH_RECEIVE (R345). A distributor queues a launch record in a slot. -/
  | launchReceive (die : Nat) (l : Nat)
  /-- PREDECESSOR_OBSERVED (R345). A predecessor monitor is observed true and latched. -/
  | predecessorObserved (die : Nat) (l : Nat) (i : Nat)
  /-- PLACE_CLUSTER (R349). Resources free or a launch becomes eligible, and the distributor places the next cluster that fits. -/
  | placeCluster (die : Nat)
  /-- PREEMPT_ENTRY (R358). A PREEMPT is taken at a group's instruction boundary, and its lanes enter the save routine. -/
  | preemptEntry (g : Nat)
  /-- MONITOR_TEAM_PARK (R26). The distributor parks a team whose every live lane is in MONITOR. -/
  | monitorTeamPark (team : Nat)
  /-- MONITOR_TEAM_RESTORE (R26). A wake condition becomes true, and the parked team is restored. -/
  | monitorTeamRestore (team : Nat)
  /-- TEAM_RETIRE (R351). An exited team's counters and ROU drain; its core writes back and reports the largest W. -/
  | teamRetire (team : Nat)
  /-- COMPLETION_RECORD_WRITE (R351). All dies have reported and GTIME has reached W, so the lead die writes the completion record. -/
  | completionRecordWrite (l : Nat)
  /-- MSIX_SEND (R352). H0 sends the completion MSI-X once word 0 is acknowledged. -/
  | msixSend (l : Nat)
  /-- MSIX_UNMASK (R352). A masked vector with its pending bit set is unmasked, and the message is sent. -/
  | msixUnmask (v : Nat)
  /-- GRID_FAIL (R353). An unresolvable fault fails the grid; its teams are removed and STATE 2 is written. -/
  | gridFail (f : Nat)
  /-- FAULT_RESOLVED (R361). The translation becomes present and the faulted instruction or walk replays. -/
  | faultResolved (f : Nat)
  /-- REPLAY_TIMEOUT (R361). 1 s passes without resolution, and the grid fails. -/
  | replayTimeout (f : Nat)
  /-- PRI_PAGE_RESPONSE (R361). The host answers a PRI Page Request for a replayable fault. -/
  | priPageResponse (f : Nat) (ok : Bool)
  /-- TABLE_WALK (R362). A walker completes a four-level walk, installing a translation or failing. -/
  | tableWalk (bench : Nat) (asid : Nat) (va : BitVec 64)
  /-- ATS_TRANSLATION_RESPONSE (R365). An ATS answer arrives and is cached, or counts as refused. -/
  | atsTranslationResponse (bench : Nat) (asid : Nat) (va : BitVec 64) (pa : BitVec 64) (szlg : Nat) (r : Bool) (w : Bool) (x : Bool)
  /-- ATS_INVALIDATE (R365). An ATS Invalidate Request removes entries and is completed after the drain. -/
  | atsInvalidate (asid : Nat) (va : BitVec 64) (szlg : Nat)
  /-- MODULE_RESET (R368). The module resets, and the H0 boot ROM verifies its firmware. -/
  | moduleReset (slotB : Bool) (a : Signed) (b : Signed)
  /-- DIE_BRINGUP (R368). H0 firmware brings up the dies and sends each its image. -/
  | dieBringup (mask : BitVec 64)
  /-- DIE_IMAGE_VERIFY (R367). A die's boot ROM verifies its image and runs it or stays in reset. -/
  | dieImageVerify (die : Nat) (img : Signed)
  /-- HEADFRAME_INIT (R368). A headframe core trains its ports and memory, syncs GTIME and loads its class table. -/
  | headframeInit (die : Nat) (ok : Bool) (classes : List (BitVec 64))
  /-- DISCOVERY_BUILD (R370). The lowest-strapped ZC die builds and publishes the discovery structure. -/
  | discoveryBuild
  /-- PCIE_ENABLE (R368). The hubs enable their PCIe functions. -/
  | pcieEnable
  /-- LINK_TRAINED (R369). A UCIe port finishes training and sends IDENT. -/
  | linkTrained (die : Nat) (port : Nat)
  /-- IDENT (R369). A partner's IDENT arrives and is checked. -/
  | ident (die : Nat) (port : Nat) (payload : BitVec 128)
  /-- IDENT_REPEAT (R369). Every 100 µs without the partner's IDENT, IDENT is sent again. -/
  | identRepeat (die : Nat) (port : Nat)
  /-- TIME_SEND (R372). Every 1 µs H0 sends a time message on every path. -/
  | timeSend
  /-- TIME_MESSAGE (R372). A die corrects its GTIME and sets or clears SKEW. -/
  | timeMessage (die : Nat) (err : Int)
  /-- DIE_RESET (R158). A die resets: its receipt cache empties and its incarnation rises. -/
  | dieReset (die : Nat)
  /-- LINK_LOSS (R373). A die that loses every link is marked absent. -/
  | linkLoss (die : Nat)
  /-- JDP_MESSAGE (R371). A JDP message arrives; classes 6 and 7 are dropped and counted. -/
  | jdpMessage (hdr : BitVec 384)
  /-- PEER_FRAME (R376). A peer Ethernet frame carrying a numbered access arrives. -/
  | peerFrame (hub : Nat) (hdr : BitVec 384) (data : List (BitVec 8))
  /-- HOST_BAR2_READ (R379). A host read through BAR 2, served at the home. -/
  | hostBar2Read (pa : BitVec 64) (n : Nat)
  /-- HOST_BAR2_WRITE (R379). A host write through BAR 2, as a system-scope store. -/
  | hostBar2Write (hub : Nat) (pa : BitVec 64) (data : List (BitVec 8))
  /-- HOST_ATOMICOP (R379). A host AtomicOp on BAR 2, executed at the home. -/
  | hostAtomicop (pa : BitVec 64) (op : HostOp) (n : Nat) (x : BitVec 128) (cmp : BitVec 128)
  /-- DOORBELL_START (R379). A write of 1 to DOORBELL launches the command program. -/
  | doorbellStart (slot : Nat)
  /-- DOORBELL_STOP (R379). A write of 2 to DOORBELL purges the command program's tag. -/
  | doorbellStop (slot : Nat)
  /-- CONTROL_REGISTER_WRITE (R379). Any other write to BAR 0: stored in a context slot field or ignored. -/
  | controlRegisterWrite (off : Nat) (x : BitVec 64)
  /-- GET_MEASUREMENTS (R377). SPDM request that returns signed measurement digests. -/
  | getMeasurements (ix : Nat)
  /-- PATROL_SCRUB (R381). Patrol scrub of the L2 every 1 s and of HBM every 12 h. -/
  | patrolScrub (unit : BitVec 32) (pa : Nat) (bad : Bool)
  /-- DRIFT_RESEND (R381). A corrupted drift message is resent, and delivered poisoned after 3 failures. -/
  | driftResend (r : Nat)
  /-- SELF_TEST_DUE (R383). A core falls due for its 1 ms self-test every 200 ms, and placement on it stops. -/
  | selfTestDue (core : Nat)
  /-- SELF_TEST_PREEMPT (R383). 10 ms after falling due, resident teams are pre-empted, or the test is postponed. -/
  | selfTestPreempt (core : Nat)
  /-- SELF_TEST_DONE (R383). A self-test ends; a failure quarantines the unit and kills the affected requests. -/
  | selfTestDone (unit : BitVec 32) (passed : Bool)
  /-- SCB_TIMEOUT (R385). An SCB entry is unmatched 2 µs after issue, which raises ASSAY. -/
  | scbTimeout (g : Nat)
  /-- SNAPSHOT_TIMER (R386). 1 ms since the cluster's last snapshot, a snapshot is requested. -/
  | snapshotTimer (cluster : Nat)
  /-- SNAPSHOT (R386). With counters zero and SCBs empty, each team writes its snapshot slot. -/
  | snapshot (cluster : Nat)
  /-- ROLLBACK (R387). A first ASSAY fault rolls the cluster back to its last valid snapshot. -/
  | rollback (cluster : Nat)
  /-- KILL (R390). A request is killed with STATE 4 after an uncorrectable error or second fault. -/
  | kill (rqtag : Nat) (unit : BitVec 32)
  /-- PLDM_TELEMETRY_READ (R396). Management command returning telemetry readings. -/
  | pldmTelemetryRead (island : Nat)
  /-- TELEMETRY_REFRESH (R396). Readings are refreshed every 1 ms. -/
  | telemetryRefresh (readings : List (Nat × BitVec 64))
  /-- ERROR_LOG_READ (R397). Management command returning error log entries. -/
  | errorLogRead (die : Nat) (ix : Nat)
  /-- SET_POWER_CAP (R398). The operator sets the module power cap. -/
  | setPowerCap (watts : Nat)
  /-- POWER_WINDOW (R398). End of a 1 ms averaging window: the clock is lowered if over the cap or raised one step. -/
  | powerWindow (mw : Nat)
  /-- CURRENT_LIMIT (R398). An island exceeds its current limit and lowers its clock within 10 µs. -/
  | currentLimit (island : Nat) (amps : Nat)
  /-- THERMAL_STEP (R399). At 100 °C the clock is lowered one step every 100 µs. -/
  | thermalStep (island : Nat) (temp : Nat)
  /-- THERMAL_TRIP (R399). At 110 °C the die stops, logs and resets. -/
  | thermalTrip (die : Nat) (temp : Nat)
  /-- FIRMWARE_UPDATE (R400). A PLDM update writes and verifies the inactive slot. -/
  | firmwareUpdate (img : Signed)
  /-- SECURITY_VERSION_COMMIT (R400). Operator command raising the fused security version counter. -/
  | securityVersionCommit
  /-- TRACE_ENABLE (R401). The operator enables tracing for a core into a buffer. -/
  | traceEnable (core : Nat) (va : BitVec 64) (len : Nat)
  /-- RESTORE (R402). Self-tests a quarantined unit and returns it to service or keeps it out. -/
  | restore (unit : BitVec 32) (passed : Bool)
  /-- L1_INSTRUCTION_CACHE_FILL (R340). A fill of an instruction line, sent by a demand fetch or a PFI, arrives and installs the line in the L1 instruction cache and, for a demand fetch, in the L0, and the waiting bundle may issue. -/
  | l1InstructionCacheFill (core : Nat) (line : Nat)
  /-- CONTEXT_END (R142). A context ends: its commutative partials are flushed, every function-store record of its ASID is zeroed, its object copies and logs are zeroed, and its instruction-cache lines leave. -/
  | contextEnd (asid : Nat)
  /-- PURGE_MOMENT_ON_DIE (R389). A purge of a request tag reaches a die, which at that moment removes the queued launches, teams, tasks, commands and numbered operations bearing the tag and reports the purge done. -/
  | purgeMomentOnDie (die : Nat) (p : Nat)
  /-- SHOOT_INVALIDATION_AT_TLB (R288). A SHOOT invalidation reaches a TLB, which removes its matching entries, drains the requests it already translated, and acknowledges. -/
  | shootInvalidationAtTlb (tlb : Nat) (sh : Nat)
  deriving DecidableEq, Repr, Inhabited

end Sys2Proof
end

