-- ==== Sys2Proof/Machine/Encoding.lean ====
section
/-! DEFINITION. The encoding tables: for every major, FN and SUB the format, the operand classes and widths, the types, the MOD
and IMM16 bits an instruction uses, and every ILLEGAL condition that depends on the words alone (R166 to R182). -/

namespace Sys2Proof

/-- What selects an operation: the major, FN and SUB (R170, R177). -/
structure Key where
  maj : BitVec 6
  fn : BitVec 3
  sub : BitVec 5
  deriving DecidableEq, Repr

/-- Operand classes a position accepts (R172, and each entry). `vs` is a vector or a scalar, `ssrc` a scalar or a constant,
`off` the address offset of LDG, STG, LDB and STB, `stv` the data of a store, `mem` the data of an atomic. -/
inductive Cls where
  | vec | vs | src | pred | scl | ssrc | off | stv | mem
  deriving DecidableEq, Repr

/-- How many consecutive vector registers a vector operand names: one, by TYPE, two, four, by the store or load width of FN, by
IMM16 [15] of CAS, the source or the destination of a CVT code, or a QNT span (R89, R226, R229, R248, R252). -/
inductive Wd where
  | one | ty | two | fnw | cas | cvtA | cvtD | span
  deriving DecidableEq, Repr

/-- A field of an instruction: no use; a number of the given bits in the base and extended forms; or an operand. -/
inductive Slot where
  | no
  | num (base ext : Nat)
  | opd (c : Cls) (w : Wd)
  deriving DecidableEq, Repr

/-- Base formats (R168); `x` marks an extended-only major. -/
inductive Fmt where
  | b3 | bi | bj | bo | bw | x
  deriving DecidableEq, Repr

/-- The encoding of one operation. `tys` lists the TYPEs, the default first, and is empty where TYPE is reserved; `mods` and
`imm` mask the MOD and IMM16 bits in use; `fp` marks the FP class, whose base form rounds by FMODE. -/
structure Sig where
  fmt : Fmt := .b3
  d : Slot := .no
  a : Slot := .no
  b : Slot := .no
  c : Slot := .no
  tys : List (BitVec 5) := []
  mods : BitVec 8 := 0
  fp : Bool := false
  imm : BitVec 16 := 0
  deriving DecidableEq, Repr

namespace Enc

/-- TYPE lists of R194, R201, R204, R206, R210, R213. -/
def tI4 : List (BitVec 5) := [0, 1, 8, 9]
def tI2 : List (BitVec 5) := [0, 1]
def tIP : List (BitVec 5) := [0, 1, 2, 3]
def tSel : List (BitVec 5) := [0, 1, 4, 2, 3, 5]
def tF : List (BitVec 5) := [4, 5]
def tX : List (BitVec 5) := [0, 2]

/-- True for the pair types i64, un64 and f64 (R174). -/
def isPairTy (t : BitVec 5) : Bool := t == 2 || t == 3 || t == 5

def v1 : Slot := .opd .vec .one
def vT : Slot := .opd .vec .ty
def v2 : Slot := .opd .vec .two
def sT : Slot := .opd .src .ty
def s1 : Slot := .opd .src .one
def pP : Slot := .opd .pred .one
def sc : Slot := .opd .scl .one
def sk : Slot := .opd .ssrc .one

/-- Integer vector majors (R194 to R200). -/
def iarith (fn sub : Nat) : Option Sig :=
  match sub with
  | 0 => some { d := vT, a := sT, b := sT, tys := if fn = 2 ∨ fn = 3 then tI2 else tI4 }
  | 1 => if fn < 4 then some { fmt := .x, d := vT, a := sT, b := sT, tys := tI4 }
         else if fn = 4 then some { fmt := .x, d := vT, a := sT, tys := tI4 } else none
  | _ => none

def imul (fn : Nat) : Sig :=
  if fn = 3 then { d := v1, a := s1, b := s1, c := s1, tys := tI2 } else { d := v1, a := s1, b := s1, tys := tI2 }

def logic (fn sub : Nat) : Option Sig :=
  match sub with
  | 0 => if fn < 6 then some { d := v1, a := s1, b := s1, tys := tI4 } else some { d := v1, a := s1, tys := tI4 }
  | 1 => if fn = 0 then some { fmt := .x, d := v1, a := s1, b := s1, c := s1, tys := tI4, imm := 0xFF } else none
  | _ => none

def shift (fn : Nat) : Sig :=
  if fn < 5 then { d := v1, a := s1, b := s1, tys := tI2 } else { d := v1, a := s1, tys := tI2 }

def bits (fn : Nat) : Sig :=
  if fn = 0 then { d := v1, a := s1, tys := tI2 }
  else if fn = 3 ∨ fn = 7 then { d := v1, a := s1, b := s1, c := s1, tys := tI2 }
  else { d := v1, a := s1, b := s1, tys := tI2 }

/-- PRED (R202). -/
def pred (fn : Nat) : Sig :=
  if fn = 0 then { d := vT, a := sT, b := sT, tys := tSel }
  else if fn < 5 then { d := pP, a := pP, b := pP }
  else if fn = 5 then { d := pP, a := s1 }
  else if fn = 6 then { d := v1 }
  else { a := s1, b := s1 }

/-- I64 (R203): D and A are vector pairs, but A of IMULW and UMULW is one register. -/
def i64 (fn : Nat) : Sig :=
  if fn < 2 then { d := v2, a := v2, b := .opd .src .two }
  else if fn < 5 then { d := v2, a := v2, b := s1 }
  else if fn < 7 then { d := v2, a := v1, b := s1 }
  else { d := v2, a := v2 }

/-- SALU2 (R204). S2V, whose entry names TYPEs i64 and un64, takes the 32-bit integer types too, which copy the low word (log 145). -/
def salu2 (fn : Nat) : Sig :=
  if fn < 5 then { d := sc, a := sk, b := sk }
  else if fn = 5 then { d := sc, a := sk }
  else if fn = 6 then { d := sc, a := v1 }
  else { d := vT, a := sk, tys := tIP }

/-- Floating-point majors (R213 to R226). -/
def farith (fn : Nat) : Sig :=
  if fn = 3 then { d := vT, a := sT, b := sT, c := sT, tys := tF, mods := 0x1F, fp := true }
  else { d := vT, a := sT, b := sT, tys := tF, mods := 0x1F, fp := true }

/-- FUNARY (R216, R217). B of FSCALE is one 32-bit register of any number whatever TYPE is (R217, R403, log 144). -/
def funary (fn : Nat) : Sig :=
  if fn = 4 ∨ fn = 5 then { d := v1, a := sT, tys := tF, mods := 0x1F, fp := true }
  else if fn < 6 then { d := vT, a := sT, tys := tF, mods := 0x1F, fp := true }
  else if fn = 6 then { d := vT, a := sT, b := s1, tys := tF, mods := 0x1F, fp := true }
  else { d := vT, a := sT, b := sT, tys := tF, mods := 0x1F, fp := true }

def fspec (fn : Nat) : Sig :=
  { d := vT, a := sT, tys := if fn = 2 then tF else [4], mods := 0x1F, fp := true }

def fpack (fn : Nat) : Option Sig :=
  if fn = 0 then some { d := vT, a := sT, b := sT, tys := tF, mods := 0x1F, fp := true }
  else if fn = 3 then some { d := v1, a := s1, b := s1, c := s1, tys := [6], mods := 0x1F, fp := true }
  else if fn < 4 then some { d := v1, a := s1, b := s1, tys := [6], mods := 0x1F, fp := true }
  else if fn = 6 then some { d := v1, a := s1, b := s1, c := s1, tys := [7], mods := 0x1F, fp := true }
  else if fn < 7 then some { d := v1, a := s1, b := s1, tys := [7], mods := 0x1F, fp := true }
  else none

def dot (fn : Nat) : Option Sig :=
  if fn < 4 then some { d := v1, a := s1, b := s1, c := s1, mods := 0x1F, fp := true } else none

/-- QNT (R229). Of SCALE the model takes A of any class (log 122). -/
def qnt (fn : Nat) : Option Sig :=
  if fn < 2 then some { fmt := .x, d := .opd .vec .span, a := .opd .vec .span, b := sc, mods := 0x1F, fp := true, imm := 0xF0F }
  else if fn < 4 then
    some { fmt := .x, d := .opd .vec .span, a := .opd .vec .span, b := sc, mods := 0x1F, fp := true, imm := 0xF00 }
  else if fn = 4 then some { fmt := .x, d := v1, a := s1, mods := 0x1F, fp := true } else none

/-- Cross-lane majors (R234 to R240). -/
def shfl (fn : Nat) : Sig :=
  if fn < 4 then { d := vT, a := sT, b := sT, c := sT, tys := tX, imm := 1 }
  else { d := vT, a := sT, b := .num 6 3, c := sT, tys := tX, imm := 1 }

def vote (fn : Nat) : Sig :=
  if fn < 2 ∨ fn = 3 then { d := pP, a := s1, tys := [0] }
  else if fn = 2 ∨ fn = 6 then { d := v2, a := s1, tys := [0], imm := 1 }
  else if fn = 4 then { d := v1, a := sT, tys := tX }
  else if fn = 5 then { d := v1, a := s1, tys := [0] }
  else { d := v2, tys := [0], imm := 1 }

/-- ATOM and ATOMB (R252). `wa` is the width of the address operand. -/
def atom (wa : Wd) (fn sub : Nat) : Option Sig :=
  match sub with
  | 0 => some { d := vT, a := .opd .vs wa, b := .opd .mem .ty, tys := if fn = 7 then [4] else tIP, mods := 0xFF, imm := 0xFFFF }
  | 1 => if fn = 0 then some { fmt := .x, d := .opd .vec .cas, a := .opd .vs wa, b := .opd .mem .cas, c := .opd .mem .cas,
                               tys := tX, mods := 0xFF, imm := 0xFFFF } else none
  | _ => none

def fence (fn : Nat) : Option Sig :=
  if fn = 3 then some { a := sc, b := .num 2 2 } else if fn < 5 then some { b := .num 2 2 } else none

def bar (fn : Nat) : Option Sig :=
  match fn with
  | 0 => some { d := v1, b := .num 6 6, imm := 0xFFF }
  | 1 => some { a := v1, b := .num 6 6 }
  | 2 => some { b := .num 6 6, imm := 0xFFF }
  | 3 => some { a := sc, b := .num 6 6 }
  | 4 => some { a := sc, b := .num 6 6 }
  | 5 => some { d := pP, a := v1, b := .num 6 6 }
  | _ => none

def ring (fn : Nat) : Option Sig :=
  match fn with
  | 0 => some { d := sc, b := .num 6 4 }
  | 1 => some { a := sc, b := .num 6 4 }
  | 2 => some { d := sc, b := .num 6 4 }
  | 3 => some { a := sc, b := .num 6 4 }
  | 4 => some { a := sc, b := .num 6 4 }
  | 5 => some { d := sc, b := .num 6 4, imm := 1 }
  | _ => none

def fst (fn : Nat) : Option Sig :=
  match fn with
  | 0 => some { b := sc }
  | 1 => some { d := pP, b := sc }
  | 2 => some { b := sc }
  | 3 => some { b := sc }
  | 4 => some { d := sc, a := .num 6 6, b := sc }
  | _ => none

def obj (fn : Nat) : Option Sig :=
  match fn with
  | 0 => some { b := sc }
  | 1 => some { b := sc }
  | 2 => some { }
  | 3 => some { d := sc, a := .num 6 6, b := sc }
  | _ => none

def sys (fn : Nat) : Sig :=
  match fn with
  | 0 => { a := sc, b := .num 6 6 }
  | 1 => { a := sc, b := .num 6 6 }
  | 2 => { a := sc, b := sc }
  | 3 => { a := sc }
  | 4 => { a := sc, b := sc }
  | 5 => { }
  | 6 => { }
  | _ => { a := sc, b := .num 6 6 }

def only (fn : Nat) (s : Sig) : Option Sig := if fn = 0 then some s else none

/-- The signature of each operation with SUB 0 or SUB 1 (R177, Table 11). Majors 0x00, 0x39 and 0x3C to 0x3F follow their own
rules and have none here; nor has a position the opcode map marks as undefined. GETS and SETS, whose entries name i64 and un64, take the 32-bit
integer types too and no other (R208, R209, log 145); A of SADDI and B of SADDI and SMOVI are scalars or constants (R206, log 146). -/
def sigOf (maj fn sub : Nat) : Option Sig :=
  match maj with
  | 0x08 => iarith fn sub
  | 0x0A => logic fn sub
  | 0x2A => atom .two fn sub
  | 0x2B => atom .one fn sub
  | _ =>
    if sub ≠ 0 then none else
    match maj with
    | 0x01 => only fn { fmt := .bj, imm := 0xFFFF }
    | 0x02 => only fn { fmt := .bj, imm := 0xFFFF }
    | 0x03 => if fn < 2 then some { a := .opd .vs .two } else if fn = 2 then some { } else none
    | 0x04 => only fn { fmt := .bi, a := .opd .vs .one, imm := 0xFFFF }
    | 0x06 => only fn { fmt := .bi, imm := 0xFFFF }
    | 0x07 => if fn = 1 then some { b := .num 6 6 } else if fn = 3 then some { a := sc } else if fn < 5 then some { } else none
    | 0x09 => some (imul fn)
    | 0x0B => some (shift fn)
    | 0x0C => some (bits fn)
    | 0x0D => some { d := pP, a := sT, b := sT, tys := tIP }
    | 0x0E => some (pred fn)
    | 0x0F => some (i64 fn)
    | 0x10 => some { d := sc, a := sk, b := sk }
    | 0x11 => some (salu2 fn)
    | 0x12 => some { d := pP, a := sk, b := sk }
    | 0x13 => only fn { fmt := .bi, d := .opd .vs .ty, tys := tIP, imm := 0xFFFF }
    | 0x14 => only fn { fmt := .bi, b := sT, tys := tIP, imm := 0xFFFF }
    | 0x15 => only fn { fmt := .bi, d := vT, b := sT, tys := tSel, imm := 0xFFFF }
    | 0x16 => only fn { fmt := .bi, d := sc, b := sk, imm := 0xFFFF }
    | 0x17 => only fn { fmt := .bi, d := v1, a := s1, b := s1, tys := tI2, imm := 0xFFFF }
    | 0x18 => only fn { fmt := .bi, d := sc, a := sk, b := sk, imm := 0xFFFF }
    | 0x19 => some (farith fn)
    | 0x1A => some (funary fn)
    | 0x1B => some (fspec fn)
    | 0x1C => some { d := pP, a := sT, b := sT, tys := tF, mods := 0x1F, fp := true }
    | 0x1D => fpack fn
    | 0x1E => dot fn
    | 0x1F => some { d := .opd .vec .cvtD, a := .opd .src .cvtA, b := .num 6 6, mods := 0x18, fp := true }
    | 0x20 => some (shfl fn)
    | 0x21 => some (vote fn)
    | 0x22 => some { d := v1, a := s1, mods := 0x1F, fp := true }
    | 0x23 => some { d := v1, a := s1, b := .num 6 3, mods := 0x1F, fp := true }
    | 0x24 => some { d := v1, a := s1, mods := 0x1F, fp := true, imm := 1 }
    | 0x25 => only fn { d := vT, a := sT, b := sT, tys := tX }
    | 0x26 => some { d := .opd .vec .fnw, a := .opd .vs .two, b := .opd .off .one, mods := 0xFF, imm := 0xFFFF }
    | 0x27 => if fn = 1 ∨ fn = 3 then none else
              some { d := .opd (if fn = 6 then .vec else .stv) .fnw, a := .opd .vs .two, b := .opd .off .one, mods := 0xFF,
                     imm := 0xFFFF }
    | 0x28 => if fn = 7 then none else
              some { d := .opd .vec .fnw, a := .opd .vs .one, b := .opd .off .one, mods := 0xFF, imm := 0xFFFF }
    | 0x29 => if fn = 1 ∨ fn = 3 ∨ fn = 7 then none else
              some { d := .opd (if fn = 6 then .vec else .stv) .fnw, a := .opd .vs .one, b := .opd .off .one, mods := 0xFF,
                     imm := 0xFFFF }
    | 0x2C => only fn { fmt := .bw, d := .num 6 6, a := .num 6 6, b := .num 6 6, c := .num 6 6 }
    | 0x2D => fence fn
    | 0x2E => bar fn
    | 0x2F => ring fn
    | 0x30 => some { d := vT, a := .opd .vs .two, b := sT, tys := tIP, mods := 0xFF, imm := 0xFFFF }
    | 0x31 => only fn { d := .num 6 6, a := sc }
    | 0x32 => if fn < 5 then some { a := sc } else none
    | 0x33 => fst fn
    | 0x34 => obj fn
    | 0x35 => if fn = 0 then some { d := sc, a := sc } else if fn = 1 then some { } else none
    | 0x36 => some (sys fn)
    | 0x37 => only fn { b := .num 6 0, imm := 0xFFFF }
    | 0x38 => qnt fn
    | 0x3A => if fn = 0 then some { fmt := .x, d := vT, a := sc, tys := tIP, imm := 0xFFFF }
              else if fn = 1 then some { fmt := .x, a := sc, b := sT, tys := tIP, imm := 0xFFFF } else none
    | 0x3B => if fn < 6 then some { fmt := .x, a := .opd .vs .two, b := s1, mods := 0xFF, imm := 0xFFFF } else none
    | _ => none

/-- The signature an instruction of the given form has: an extended-only operation has none in a base form (R178, R187). -/
def sigFor (form : Form) (k : Key) : Option Sig :=
  match sigOf k.maj.toNat k.fn.toNat k.sub.toNat with
  | none => none
  | some s => if s.fmt = .x ∧ form.isExt = false then none else some s

/-- True when operand class `c` accepts operand `o` (R172). The codes 0x650–0x6FF pass; they raise REGRANGE later (R171). -/
def accepts (c : Cls) (o : Operand) : Bool :=
  match o with
  | .none => false
  | .num _ => c == .off
  | .lit _ => false
  | .gap _ => true
  | .vec _ => match c with | .vec | .vs | .src | .off | .stv | .mem => true | _ => false
  | .scl _ => match c with | .vs | .src | .scl | .ssrc | .off | .stv | .mem => true | _ => false
  | .prd _ => match c with | .src | .pred => true | _ => false
  | .int _ => match c with | .src | .ssrc | .off | .stv | .mem => true | _ => false
  | .fp _ => match c with | .src | .ssrc | .stv | .mem => true | _ => false

/-- The CVT codes of Table 9 of 10_isa_vector_float_crosslane.md. -/
def cvtDefined (c : Nat) : Bool := c < 10 || (16 ≤ c && c < 36)

/-- Registers of a CVT source and destination by code (R227). -/
def cvtSrcRegs (c : Nat) : Nat :=
  if c = 1 ∨ c = 6 ∨ c = 7 ∨ (20 ≤ c ∧ c < 24) ∨ c = 26 ∨ c = 27 ∨ c = 30 ∨ c = 31 then 2 else 1
def cvtDstRegs (c : Nat) : Nat :=
  if c = 0 ∨ c = 18 ∨ c = 19 ∨ c = 22 ∨ c = 23 ∨ (28 ≤ c ∧ c < 32) then 2 else 1

/-- The plain number in a field, 0 for any other operand. -/
def numOf : Operand → Nat
  | .num n => n.toNat
  | _ => 0

/-- Consecutive vector registers an operand of width `w` names. -/
def regsOf (w : Wd) (k : Key) (f : Fields) : Nat :=
  match w with
  | .one => 1
  | .ty => if isPairTy f.ty then 2 else 1
  | .two => 2
  | .fnw => if k.fn = 5 then 2 else if k.fn = 6 then 4 else 1
  | .cas => if f.imm.getLsbD 15 then 4 else if isPairTy f.ty then 2 else 1
  | .cvtA => cvtSrcRegs (numOf f.b)
  | .cvtD => cvtDstRegs (numOf f.b)
  | .span => (f.imm.toNat / 256) % 16 + 1

/-- The alignment the first of those registers must have: a pair even, four a multiple of 4, a span any (R172, R229, R252). -/
def alignOf (w : Wd) (k : Key) (f : Fields) : Nat :=
  match w with
  | .span => 1
  | _ => regsOf w k f

/-- Why an encoding is not an instruction: each is an ILLEGAL condition of R182, step 2. -/
inductive Reject where
  | truncated
  | undefinedOperation
  | baseForm
  | dualForm
  | undefinedType
  | operandCode
  | operandClass
  | registerRule
  | descriptorRange
  | specialNumber
  | readOnly
  | conversionCode
  | blockFormat
  | literalTarget
  | indexRange
  | numberRange
  | order
  deriving DecidableEq, Repr

/-- The check of one operand position. A literal stands in for operand B and is of no class (R167). -/
def checkSlot (k : Key) (f : Fields) (s : Slot) (o : Operand) : Option Reject :=
  match s with
  | .no => none
  | .num _ _ => none
  | .opd c w =>
    match o with
    | .lit _ => none
    | .none => none
    | .vec n =>
      if accepts c o = false then some .operandClass
      else if n.toNat % alignOf w k f = 0 then none else some .registerRule
    | _ => if accepts c o then none else some .operandClass

/-- Numbers of defined special registers (R207, Table 14; R356), and those some mode lets SETS write: in user mode the RW ones, in
privileged mode also `WCT`, `TFPC`, `TMASK`, `TMASKHI`, `TCAUSE` and `TDST` (R356). -/
def specialDefined (n : Nat) : Bool :=
  n ≤ 0x00E || (0x010 ≤ n && n ≤ 0x01D) || (0x020 ≤ n && n ≤ 0x027) || (0x030 ≤ n && n ≤ 0x037) || n == 0x040 ||
  (0x800 ≤ n && n ≤ 0x80F)
def specialWritable (n : Nat) : Bool :=
  (0x012 ≤ n && n ≤ 0x015) || (0x020 ≤ n && n ≤ 0x027) || (0x030 ≤ n && n ≤ 0x037) || (0x800 ≤ n && n ≤ 0x80F)

/-- The first scalar of a descriptor of `n` must leave it within s0–s63 (R267). -/
def checkDesc (n : Nat) (o : Operand) : Option Reject :=
  match o with
  | .scl r => if r.toNat + n ≤ 64 then none else some .descriptorRange
  | _ => none

/-- ILLEGAL conditions of single entries that depend on the words alone (R182, step 2). -/
def checkEntry (k : Key) (f : Fields) : Option Reject :=
  match k.maj.toNat with
  | 0x01 => if f.form = .extLit ∧ (f.lit >>> 52 ≠ 0 ∨ f.lit &&& 3 ≠ 0) then some .literalTarget else none
  | 0x02 => if f.form = .extLit ∧ (f.lit >>> 52 ≠ 0 ∨ f.lit &&& 3 ≠ 0) then some .literalTarget else none
  | 0x13 => if specialDefined f.imm.toNat then none else some .specialNumber
  | 0x14 => if specialDefined f.imm.toNat = false then some .specialNumber
            else if specialWritable f.imm.toNat then none else some .readOnly
  | 0x1F => if cvtDefined (numOf f.b) then none else some .conversionCode
  | 0x2A => if k.sub = 1 ∧ f.imm.getLsbD 15 then checkWide f else none
  | 0x2B => if k.sub = 1 ∧ f.imm.getLsbD 15 then checkWide f else none
  | 0x31 => checkDesc 6 f.a
  | 0x32 => checkDesc 4 f.a
  | 0x33 => if k.fn = 4 ∧ 7 < numOf f.a then some .indexRange else none
  | 0x34 => if k.fn = 3 ∧ 3 < numOf f.a then some .indexRange else none
  | 0x36 => if (k.fn = 0 ∨ k.fn = 7) ∧ 1 < numOf f.b then some .numberRange else none
  | 0x38 => if k.fn.toNat < 2 ∧ (f.imm.toNat % 16 < 3 ∨ 6 < f.imm.toNat % 16) then some .blockFormat else none
  | 0x3B => if f.md.getLsbD 2 then some .order else none
  | _ => none
where
  /-- B and C of a 128-bit CAS each name four vector registers (R252). A literal has 64 bits and names none. -/
  checkWide (f : Fields) : Option Reject :=
    match f.b, f.c with
    | .vec _, .vec _ => none
    | .vec _, .gap _ => none
    | .gap _, .vec _ => none
    | .gap _, .gap _ => none
    | _, _ => some .operandClass

/-- The first ILLEGAL condition of R182, step 2, that decoded fields meet, if any. -/
def check (k : Key) (s : Sig) (f : Fields) : Option Reject :=
  if s.tys ≠ [] ∧ f.ty ∉ s.tys then some .undefinedType else
  (checkSlot k f s.d f.d <|> checkSlot k f s.a f.a <|> checkSlot k f s.b f.b <|> checkSlot k f s.c f.c) <|> checkEntry k f

end Enc
end Sys2Proof
end

