-- ==== Sys2Proof/Config.lean ====
section
/-! DEFINITION. What this implementation fixes (Table 1 of 00_scope.md) and the values the spec leaves open. -/

namespace Sys2Proof.Config

/-- Lanes of a group (R2, R207). -/
def width : Nat := 64

/-- Skew bound δ of GTIME in ticks (R2, R370). -/
def delta : Nat := 4

/-- Compute dies of the module (R1). -/
def dies : Nat := 16

/-- Cores of a die (R2). -/
def coresPerDie : Nat := 128

/-- Register pool of one bench, in registers of WIDTH × 4 bytes (R8). -/
def benchRegs : Nat := 1536

/-- Slices of a die (R51). -/
def slices : Nat := 16

/-- Bytes of the populated part of a compute die's window: POPMB 96,000 (R37, R370). -/
def populated : Nat := 96000 * 10 ^ 6

/-- GTIME ticks of one core cycle as a fraction: 5 ticks are 6 core cycles at 1.2 GHz and 1 GHz (R2). -/
def ticksPer6Cycles : Nat := 5

/-- The lower or the upper of the two representable values that bracket an inexact FRCP result: the spec leaves the
choice open (R219). An uninterpreted function of the operand, because the same input always gives the same bits (log 7). -/
opaque frcpUpper : BitVec 32 → Bool

/-- As `frcpUpper`, for FRSQ (R219, log 7). -/
opaque frsqUpper : BitVec 32 → Bool

/-- As `frcpUpper`, for FEXP2 (R219, log 7). -/
opaque fexp2Upper : BitVec 32 → Bool

/-- As `frcpUpper`, for FLOG2 (R219, log 7). -/
opaque flog2Upper : BitVec 32 → Bool

/-- The FP32 pattern this implementation returns for FSIN, taken where it lies inside the bound of R219 (log 7). -/
opaque fsinPick : BitVec 32 → BitVec 32

/-- As `fsinPick`, for FCOS (R219, log 7). -/
opaque fcosPick : BitVec 32 → BitVec 32

/-- As `fsinPick`, for FTANH (R219, log 7). -/
opaque ftanhPick : BitVec 32 → BitVec 32

/-- A value the spec leaves open where no operand decides it; applied to the counter `State.free`, which every use
advances, so that nothing constrains it (log 6). -/
opaque freeValue : Nat → BitVec 64

/-- The H0 boot ROM's bytes, which the spec does not give (R377, log 43). -/
opaque bootRom : List Byte

/-- The bytes of the class tables with MODE, of a key's modulus and exponent, and of a signature scheme's result over a message, whose layouts the spec leaves open (R367, R377,
log 43). -/
opaque tableBytes : List DWord → List Byte
opaque keyBytes : BitVec 3072 → Nat → List Byte
opaque signWith : BitVec 256 → List Byte → List Byte

/-- The security version in an image's header, whose layout the spec leaves open (R367, log 23). -/
opaque versionOf : List Byte → BitVec 32

/-- The operation codes of JDP messages, which the spec does not assign: one for each kind of request and of response, no two alike (R371, log 133). -/
opaque opcodes : Equiv.Perm (BitVec 8)

/-- The code of a kind. -/
def opcode (kind : Nat) : BitVec 8 := opcodes (BitVec.ofNat 8 kind)

/-- Which of a hub's two fabric ports carries the traffic of a die, modulo 2: the spec does not say (R393, log 116). -/
opaque portOf : Nat → Nat

/-- The MSI-X vector of error events, which the spec does not assign (R375, log 136). -/
opaque errorVector : Nat

end Sys2Proof.Config
end

