-- ==== Sys2Proof/Machine/Flags.lean ====
section
/-! DEFINITION. Floating-point arithmetic and its flags: the IEEE formats, exact values as sign, magnitude and exponent, the
one rounding of R90 to R93, and every operation and special case of 04_number_formats.md and 10_isa_vector_float_crosslane.md. -/

namespace Sys2Proof.Machine

/-- The five exception flags, bit for bit as `TRAPEN` [4:0] (R30). -/
abbrev FFlags := BitVec 5

def flagNV : FFlags := 1
def flagDZ : FFlags := 2
def flagOF : FFlags := 4
def flagUF : FFlags := 8
def flagNX : FFlags := 16

namespace Fp

/-- An IEEE-style format (R88, Table 1): exponent and fraction bits; the bias is 2^(eb − 1) − 1. -/
structure Format where
  eb : Nat
  fb : Nat
  deriving DecidableEq, Repr

def f32 : Format := ⟨8, 23⟩
def f64 : Format := ⟨11, 52⟩
def f16 : Format := ⟨5, 10⟩
def bf16 : Format := ⟨8, 7⟩

namespace Format

def bias (t : Format) : Int := (2 ^ (t.eb - 1) : Nat) - 1
/-- The exponent of the least significant bit of a subnormal. -/
def qmin (t : Format) : Int := 1 - t.bias - t.fb
/-- The magnitude bits of infinity. -/
def infBits (t : Format) : Nat := (2 ^ t.eb - 1) * 2 ^ t.fb
/-- The canonical quiet NaN (R92). -/
def nanBits (t : Format) : Nat := t.infBits + 2 ^ (t.fb - 1)
def signBit (t : Format) : Nat := 2 ^ (t.eb + t.fb)
end Format

/-- A decoded value: the magnitude of a finite non-zero number is `m` × 2^`e`. -/
inductive Val where
  | nan (signaling : Bool)
  | inf (neg : Bool)
  | zero (neg : Bool)
  | fin (neg : Bool) (m : Nat) (e : Int)
  deriving DecidableEq, Repr

/-- The value of a pattern (R88). -/
def decode (t : Format) (x : Nat) : Val :=
  let neg := x / t.signBit % 2 == 1
  let mag := x % t.signBit
  let ex := mag / 2 ^ t.fb
  let fr := mag % 2 ^ t.fb
  if t.infBits < mag then .nan (fr / 2 ^ (t.fb - 1) == 0)
  else if mag = t.infBits then .inf neg
  else if mag = 0 then .zero neg
  else if ex = 0 then .fin neg fr t.qmin
  else .fin neg (2 ^ t.fb + fr) (t.qmin + ex - 1)

/-- As `decode`, with a subnormal read as zero of its sign when flushing applies (R91). -/
def decodeFl (t : Format) (flush : Bool) (x : Nat) : Val :=
  match decode t x with
  | .fin neg m e => if flush && decide (m < 2 ^ t.fb) then .zero neg else .fin neg m e
  | v => v

/-- The pattern of magnitude bits with a sign. -/
def withSign (t : Format) (neg : Bool) (mag : Nat) : Nat := if neg then t.signBit + mag else mag

def infOf (t : Format) (neg : Bool) : Nat := withSign t neg t.infBits
def zeroOf (t : Format) (neg : Bool) : Nat := withSign t neg 0

/-- How a result is rounded: the rounding 0–4 of R90, flushing (R91) and saturation (R93). -/
structure Mode where
  rm : Nat
  flush : Bool
  sat : Bool
  deriving DecidableEq, Repr

def nearest : Mode := ⟨0, false, false⟩

/-- Rounds `m` × 2^`e` to a multiple of 2^`q`: the multiple, and whether anything was lost. -/
def roundTo (rm : Nat) (neg : Bool) (m : Nat) (e q : Int) : Nat × Bool :=
  if q ≤ e then (m * 2 ^ (e - q).toNat, false)
  else
    let sh := (q - e).toNat
    let far := decide (m.log2 + 2 < sh)
    let n := if far then 0 else m / 2 ^ sh
    let r := if far then 1 else m % 2 ^ sh
    let half := if far then 2 else 2 ^ (sh - 1)
    let up :=
      match rm with
      | 1 => false
      | 2 => !neg
      | 3 => neg
      | 4 => decide (half ≤ r)
      | _ => decide (half < r) || (decide (r = half) && decide (n % 2 = 1))
    if r = 0 then (n, false) else (if up then n + 1 else n, true)

/-- Rounds the exact value ± `m` × 2^`e`, `m` > 0, to a format: the pattern and the flags of R91 and R93. An overflow under a rounding that does not reach
infinity gives the largest finite value, as IEEE 754-2019 rounds, in a conversion too (log 120). -/
def round (t : Format) (md : Mode) (neg : Bool) (m : Nat) (e : Int) : Nat × FFlags :=
  let top := e + m.log2
  let q0 := top - t.fb
  let q := max q0 t.qmin
  let (n, nx) := roundTo md.rm neg m e q
  let mag := if n = 0 then 0 else (q - t.qmin).toNat * 2 ^ t.fb + n
  let (n0, _) := roundTo md.rm neg m e q0
  let tiny := decide (q0 < t.qmin) && decide (¬ (q0 + 1 = t.qmin ∧ n0 = 2 ^ (t.fb + 1)))
  if t.infBits ≤ mag then
    let toInf := !md.sat && (md.rm == 0 || md.rm == 4 || (md.rm == 2 && !neg) || (md.rm == 3 && neg) || decide (4 < md.rm))
    (withSign t neg (if toInf then t.infBits else t.infBits - 1), flagOF ||| flagNX)
  else if md.flush && decide (mag < 2 ^ t.fb) then (zeroOf t neg, flagUF ||| flagNX)
  else (withSign t neg mag, (if nx then flagNX else 0) ||| (if tiny && nx then flagUF else 0))

/-- The canonical NaN and NV. -/
def invalid (t : Format) : Nat × FFlags := (t.nanBits, flagNV)

/-- The canonical NaN that a NaN operand gives: NV when one is signaling (R92). -/
def nanResult (t : Format) (sig : Bool) : Nat × FFlags := (t.nanBits, if sig then flagNV else 0)

def Val.isNan : Val → Bool
  | .nan _ => true
  | _ => false

def Val.isSig : Val → Bool
  | .nan s => s
  | _ => false

def Val.isInf : Val → Bool
  | .inf _ => true
  | _ => false

def Val.isZero : Val → Bool
  | .zero _ => true
  | _ => false

def Val.neg : Val → Bool
  | .nan _ => false
  | .inf s => s
  | .zero s => s
  | .fin s _ _ => s

/-- The value with its sign inverted. -/
def Val.negate : Val → Val
  | .nan s => .nan s
  | .inf s => .inf !s
  | .zero s => .zero !s
  | .fin s m e => .fin (!s) m e

/-- Signed magnitude. -/
def signed (neg : Bool) (m : Nat) : Int := if neg then -(m : Int) else m

/-- Rounds a signed multiple of 2^`e`; an exact zero is +0, or −0 under rounding toward −∞ (R215). -/
def roundInt (t : Format) (md : Mode) (x : Int) (e : Int) : Nat × FFlags :=
  if x = 0 then (zeroOf t (md.rm == 3), 0) else round t md (decide (x < 0)) x.natAbs e

/-- The integer an exact finite value is at scale 2^`e`, `e` not above its own exponent. -/
def Val.scaled (v : Val) (e : Int) : Int :=
  match v with
  | .fin s m x => signed s (m * 2 ^ (x - e).toNat)
  | _ => 0

/-- The exponent of a finite value, or `d` for zero. -/
def Val.exp (v : Val) (d : Int) : Int :=
  match v with
  | .fin _ _ x => x
  | _ => d

/-- Sum of two non-NaN values (R215). -/
def addVal (t : Format) (md : Mode) (a b : Val) : Nat × FFlags :=
  match a, b with
  | .inf s, .inf u => if s = u then (infOf t s, 0) else invalid t
  | .inf s, _ => (infOf t s, 0)
  | _, .inf u => (infOf t u, 0)
  | .zero s, .zero u => if s = u then (zeroOf t s, 0) else (zeroOf t (md.rm == 3), 0)
  | a, b =>
    let e := min (a.exp (b.exp 0)) (b.exp (a.exp 0))
    roundInt t md (a.scaled e + b.scaled e) e

def anySig (l : List Val) : Bool := l.any Val.isSig
def anyNan (l : List Val) : Bool := l.any Val.isNan

/-- FADD of decoded operands (R215, R92). -/
def add (t : Format) (md : Mode) (a b : Val) : Nat × FFlags :=
  if anyNan [a, b] then nanResult t (anySig [a, b]) else addVal t md a b

/-- FMUL. -/
def mul (t : Format) (md : Mode) (a b : Val) : Nat × FFlags :=
  if anyNan [a, b] then nanResult t (anySig [a, b]) else
  let s := xor a.neg b.neg
  match a, b with
  | .inf _, .zero _ => invalid t
  | .zero _, .inf _ => invalid t
  | .inf _, _ => (infOf t s, 0)
  | _, .inf _ => (infOf t s, 0)
  | .fin _ m e, .fin _ n g => round t md s (m * n) (e + g)
  | _, _ => (zeroOf t s, 0)

/-- The exact product of two finite values, as a value. -/
def prod (a b : Val) : Val :=
  match a, b with
  | .fin s m e, .fin u n g => .fin (xor s u) (m * n) (e + g)
  | a, b => .zero (xor a.neg b.neg)

/-- FFMA: exact product and sum, one rounding; 0 × ∞ raises NV even when c is a quiet NaN (R215). -/
def fma (t : Format) (md : Mode) (a b c : Val) : Nat × FFlags :=
  if (a.isInf && b.isZero) || (a.isZero && b.isInf) then invalid t
  else if anyNan [a, b, c] then nanResult t (anySig [a, b, c])
  else if a.isInf || b.isInf then addVal t md (.inf (xor a.neg b.neg)) c
  else addVal t md (prod a b) c

/-- The quotient of two positive magnitudes with a sticky bit below it, to at least `p` bits. -/
def divMag (p m n : Nat) (e g : Int) : Nat × Int :=
  let k := p + 3 + n.log2
  let num := m * 2 ^ k
  let r := num % n
  (2 * (num / n) + (if r = 0 then 0 else 1), e - g - k - 1)

/-- FDIV (R222). -/
def div (t : Format) (md : Mode) (a b : Val) : Nat × FFlags :=
  if anyNan [a, b] then nanResult t (anySig [a, b]) else
  let s := xor a.neg b.neg
  match a, b with
  | .inf _, .inf _ => invalid t
  | .zero _, .zero _ => invalid t
  | .inf _, _ => (infOf t s, 0)
  | _, .inf _ => (zeroOf t s, 0)
  | .zero _, _ => (zeroOf t s, 0)
  | _, .zero _ => (infOf t s, flagDZ)
  | .fin _ m e, .fin _ n g =>
    let (q, x) := divMag (t.fb + 1) m n e g
    round t md s q x
  | _, _ => (t.nanBits, 0)

/-- The integer square root by digits: bits `k` − 1 down to 0 added to `r`. -/
def isqrtFrom (n : Nat) : Nat → Nat → Nat
  | 0, r => r
  | k + 1, r => if (r + 2 ^ k) * (r + 2 ^ k) ≤ n then isqrtFrom n k (r + 2 ^ k) else isqrtFrom n k r

def isqrt (n : Nat) : Nat := isqrtFrom n (n.log2 / 2 + 1) 0

/-- The square root of `m` × 2^`e` with a sticky bit, to at least `p` bits. -/
def sqrtMag (p m : Nat) (e : Int) : Nat × Int :=
  let k0 := 2 * (p + 2)
  let k := if (e - k0) % 2 = 0 then k0 else k0 + 1
  let n := m * 2 ^ k
  let r := isqrt n
  (2 * r + (if r * r = n then 0 else 1), (e - k) / 2 - 1)

/-- FSQRT (R219, R220). -/
def sqrt (t : Format) (md : Mode) (a : Val) : Nat × FFlags :=
  match a with
  | .nan s => nanResult t s
  | .inf neg => if neg then invalid t else (infOf t false, 0)
  | .zero neg => (zeroOf t neg, 0)
  | .fin neg m e =>
    if neg then invalid t else
    let (r, x) := sqrtMag (t.fb + 1) m e
    round t md false r x

/-- Comparison of the magnitudes of finite values at a common scale. -/
def cmpVal (a b : Val) : Ordering :=
  if a.isInf && b.isInf && a.neg == b.neg then .eq
  else if a.isInf then (if a.neg then .lt else .gt)
  else if b.isInf then (if b.neg then .gt else .lt)
  else
    let e := min (a.exp (b.exp 0)) (b.exp (a.exp 0))
    compare (a.scaled e) (b.scaled e)

/-- a < b with −0 < +0, for the minimum and maximum of R216. -/
def below (a b : Val) : Bool :=
  match cmpVal a b with
  | .lt => true
  | .gt => false
  | .eq => a.isZero && a.neg && !b.neg

/-- FMIN, FMAX, FMINM and FMAXM (R216): `x` and `y` are the operand patterns, `num` selects minimumNumber and maximumNumber. -/
def minMax (t : Format) (flush isMax num : Bool) (x y : Nat) : Nat × FFlags :=
  let a := decodeFl t flush x
  let b := decodeFl t flush y
  let out (v : Val) (z : Nat) : Nat := if v.isZero then zeroOf t v.neg else z
  let f := if anySig [a, b] then flagNV else 0
  if a.isNan && b.isNan then (t.nanBits, f)
  else if a.isNan then (if num then out b y else t.nanBits, f)
  else if b.isNan then (if num then out a x else t.nanBits, f)
  else if isMax then (if below a b then out b y else out a x, f)
  else (if below b a then out b y else out a x, f)

/-- The integer nearest to ± `m` × 2^`e` by a rounding, and whether it is inexact. -/
def toInt (rm : Nat) (neg : Bool) (m : Nat) (e : Int) : Int × Bool :=
  let (n, nx) := roundTo rm neg m e 0
  (signed neg n, nx)

/-- FRND (R217). -/
def rnd (t : Format) (md : Mode) (a : Val) : Nat × FFlags :=
  match a with
  | .nan s => nanResult t s
  | .inf s => (infOf t s, 0)
  | .zero s => (zeroOf t s, 0)
  | .fin s m e =>
    if 0 ≤ e then ((round t nearest s m e).1, 0) else
    let (n, _) := roundTo md.rm s m e 0
    (if n = 0 then zeroOf t s else (round t nearest s n 0).1, 0)

/-- FFRAC (R217). -/
def frac (t : Format) (a : Val) : Nat × FFlags :=
  match a with
  | .nan s => nanResult t s
  | .inf _ => invalid t
  | .zero s => (zeroOf t s, 0)
  | .fin s m e =>
    if 0 ≤ e then (zeroOf t s, 0) else
    let sh := (-e).toNat
    let r := if m.log2 < sh then m else m % 2 ^ sh
    (if r = 0 then zeroOf t s else (round t nearest s r e).1, 0)

/-- FCLASS (R218). -/
def fclass (t : Format) (x : Nat) : Nat :=
  match decode t x with
  | .nan true => 2 ^ 8
  | .nan false => 2 ^ 9
  | .inf true => 2 ^ 0
  | .inf false => 2 ^ 7
  | .zero true => 2 ^ 3
  | .zero false => 2 ^ 4
  | .fin true m _ => if m < 2 ^ t.fb then 2 ^ 2 else 2 ^ 1
  | .fin false m _ => if m < 2 ^ t.fb then 2 ^ 5 else 2 ^ 6

/-- FGETEXP (R217), as a 32-bit pattern. -/
def getExp (a : Val) : Nat × FFlags :=
  match a with
  | .nan _ => (0x7FFFFFFF, flagNV)
  | .inf _ => (0x7FFFFFFF, flagNV)
  | .zero _ => (0x80000000, flagNV)
  | .fin _ m e => ((BitVec.ofInt 32 (e + m.log2)).toNat, 0)

/-- FSCALE (R217). -/
def scale (t : Format) (md : Mode) (a : Val) (n : Int) : Nat × FFlags :=
  match a with
  | .nan s => nanResult t s
  | .inf s => (infOf t s, 0)
  | .zero s => (zeroOf t s, 0)
  | .fin s m e => round t md s m (e + n)

/-- FCMP (R221): the eight conditions by FN, and the flag. -/
def fcmp (fn : Nat) (a b : Val) : Bool × FFlags :=
  let nan := anyNan [a, b]
  let quiet := fn < 2 || 5 < fn
  let f := if (if quiet then anySig [a, b] else nan) then flagNV else 0
  let o := cmpVal a b
  let r := match fn with
    | 0 => !nan && o == .eq
    | 1 => nan || o != .eq
    | 2 => !nan && o == .lt
    | 3 => !nan && o != .gt
    | 4 => !nan && o == .gt
    | 5 => !nan && o != .lt
    | 6 => nan
    | _ => !nan
  (r, f)

/-- FP to FP conversion (R228). -/
def convert (src dst : Format) (md : Mode) (flushIn : Bool) (x : Nat) : Nat × FFlags :=
  match decodeFl src flushIn x with
  | .nan s => nanResult dst s
  | .inf s => (infOf dst s, 0)
  | .zero s => (zeroOf dst s, 0)
  | .fin s m e => round dst md s m e

/-- FP to a `w`-bit integer (R94, R228). -/
def toInteger (src : Format) (rm : Nat) (flush isSigned : Bool) (w x : Nat) : Nat × FFlags :=
  let lo : Int := if isSigned then -(2 ^ (w - 1) : Nat) else 0
  let hi : Int := if isSigned then (2 ^ (w - 1) : Nat) - 1 else (2 ^ w : Nat) - 1
  let enc (z : Int) : Nat := (BitVec.ofInt w z).toNat
  match decodeFl src flush x with
  | .nan _ => (0, flagNV)
  | .inf s => (enc (if s then lo else hi), flagNV)
  | .zero _ => (0, 0)
  | .fin s m e =>
    if 70 < e + m.log2 then (enc (if s then lo else hi), flagNV) else
    let (z, nx) := toInt rm s m e
    if z < lo then (enc lo, flagNV)
    else if hi < z then (enc hi, flagNV)
    else (enc z, if nx then flagNX else 0)

/-- Integer to FP (R228). -/
def ofInteger (dst : Format) (md : Mode) (z : Int) : Nat × FFlags :=
  if z = 0 then (0, 0) else round dst { md with flush := false } (decide (z < 0)) z.natAbs 0

/-- A small integer as a constant of a format, exact or rounded to nearest even (R172). -/
def constOf (t : Format) (z : Int) : Nat := (ofInteger t nearest z).1

/-- DOT2B and DOT2H (R225): products of the packed elements and the sum with `c`, one rounding to FP32. A product 0 × ∞ and infinite terms of opposite
signs raise NV whatever the other operands are, a NaN among them (log 119). -/
def dot2 (md : Mode) (a0 b0 a1 b1 c : Val) : Nat × FFlags :=
  let l := [a0, b0, a1, b1, c]
  let p (a b : Val) : Val := if anyNan [a, b] then .nan false else if a.isInf || b.isInf then .inf (xor a.neg b.neg) else prod a b
  let x := p a0 b0
  let y := p a1 b1
  let infs := [x, y, c].filter Val.isInf
  let bad := (a0.isInf && b0.isZero) || (a0.isZero && b0.isInf) || (a1.isInf && b1.isZero) || (a1.isZero && b1.isInf) ||
    (infs.any Val.neg && infs.any (fun v => !v.neg))
  if anyNan l then nanResult f32 (anySig l || bad)
  else if bad then invalid f32
  else if infs.isEmpty then
    let e := min (x.exp 1000) (min (y.exp 1000) (c.exp 1000))
    let z := x.scaled e + y.scaled e + c.scaled e
    if z = 0 then
      let allNeg := x.neg && y.neg && c.neg && x.isZero && y.isZero && c.isZero
      let allPos := !x.neg && !y.neg && !c.neg && x.isZero && y.isZero && c.isZero
      (zeroOf f32 (allNeg || (md.rm == 3 && !allPos)), 0)
    else round f32 md (decide (z < 0)) z.natAbs e
  else (infOf f32 (infs.any Val.neg), 0)

/-- The two roundings that bracket an inexact result: away from zero when `upper`, else toward zero (R219). -/
def bracket (md : Mode) (neg upper : Bool) : Mode := { md with rm := if upper then (if neg then 3 else 2) else 1 }

/-- The choice between the two values that bracket an inexact FRCP, FRSQ, FEXP2 or FLOG2 result; `up` is the greater one. -/
def pick (md : Mode) (neg up : Bool) (m : Nat) (e : Int) : Nat × FFlags :=
  round f32 (bracket md neg (xor up neg)) neg m e

/-- FRCP (R219, R220). -/
def rcp (md : Mode) (up : Bool) (a : Val) : Nat × FFlags :=
  match a with
  | .nan s => nanResult f32 s
  | .inf s => (zeroOf f32 s, 0)
  | .zero s => (infOf f32 s, flagDZ)
  | .fin s m e =>
    let (q, x) := divMag 24 1 m 0 e
    pick md s up q x

/-- FRSQ (R219, R220). -/
def rsq (md : Mode) (up : Bool) (a : Val) : Nat × FFlags :=
  match a with
  | .nan s => nanResult f32 s
  | .inf s => if s then invalid f32 else (0, 0)
  | .zero s => (infOf f32 s, flagDZ)
  | .fin true _ _ => invalid f32
  | .fin false m e =>
    let par : Nat := if e % 2 = 0 then 0 else 1
    let m2 := m * 2 ^ par
    let k := 60 + m2.log2
    let n := 2 ^ (2 * k) / m2
    let r := isqrt n
    pick md false up (2 * r + (if r * r = n ∧ n * m2 = 2 ^ (2 * k) then 0 else 1)) ((par - e) / 2 - k - 1)

/-- ln 2 × 2^128 and π × 2^160, rounded down. -/
def ln2 : Nat := 235865763225513294137944142764154484399
def pi160 : Nat := 4591442807048218921384805199743311128454155024418

/-- exp(x) − 1 for x = `x` / 2^`p`, by its series in fixed point. -/
def expm1 (p : Nat) (x : Nat) : Nat → Nat → Nat → Nat
  | 0, _, _ => 0
  | k + 1, n, term =>
    let t := term * x / 2 ^ p / n
    t + expm1 p x k (n + 1) t

/-- 2^a for a = ± `m` × 2^`e` not an integer: a magnitude that is 2^a to more than 80 bits, with a sticky bit, and its
exponent. Arguments below 2^−26 give a value beside 1, and those below −400 one far below every subnormal. -/
def exp2Mag (neg : Bool) (m : Nat) (e : Int) : Nat × Int :=
  if e + m.log2 < -26 then (if neg then (2 ^ 31 - 1, -31) else (2 ^ 30 + 1, -30))
  else if 12 < e + m.log2 then (1, if neg then -5000 else 5000)
  else
    let z := signed neg (m * 2 ^ (e + 160).toNat)
    let n := z / (2 ^ 160 : Nat)
    let f := (z % (2 ^ 160 : Nat)).toNat
    let x := f / 2 ^ 32 * ln2 / 2 ^ 128
    (2 * (2 ^ 128 + expm1 128 x 40 1 (2 ^ 128)) + 1, n - 129)

/-- FEXP2 (R219, R220). -/
def exp2 (md : Mode) (up : Bool) (a : Val) : Nat × FFlags :=
  match a with
  | .nan s => nanResult f32 s
  | .inf s => (if s then 0 else infOf f32 false, 0)
  | .zero _ => (0x3F800000, 0)
  | .fin s m e =>
    let whole := decide (0 ≤ e) || decide (m % 2 ^ (-e).toNat = 0 ∧ (-e).toNat ≤ m.log2)
    let k := signed s (m * 2 ^ (e + 160).toNat / 2 ^ 160)
    if whole && decide (e + m.log2 < 12) then round f32 (if 128 < k then { md with rm := 0 } else bracket md false up) false 1 k
    else
      let (q, x) := exp2Mag s m e
      if !s && decide (128 ≤ x + q.log2) then round f32 { md with rm := 0 } false q x
      else pick md false up q x

/-- Fraction bits of log2 y, y = `y` / 2^160 in [1, 2), by repeated squaring. -/
def log2Bits : Nat → Nat → Nat → Nat
  | 0, _, acc => acc
  | k + 1, y, acc =>
    let z := y * y / 2 ^ 160
    if 2 ^ 161 ≤ z then log2Bits k (z / 2) (2 * acc + 1) else log2Bits k z (2 * acc)

/-- FLOG2 (R219, R220). -/
def log2 (md : Mode) (up : Bool) (a : Val) : Nat × FFlags :=
  match a with
  | .nan s => nanResult f32 s
  | .inf s => if s then invalid f32 else (infOf f32 false, 0)
  | .zero _ => (infOf f32 true, flagDZ)
  | .fin true _ _ => invalid f32
  | .fin false m e =>
    let k := e + m.log2
    if m = 2 ^ m.log2 then (if k = 0 then (0, 0) else ofInteger f32 md k)
    else
      let f := log2Bits 64 (m * 2 ^ (160 - m.log2)) 0
      let v : Int := k * (2 ^ 64 : Nat) + f
      let neg := decide (v < 0)
      pick md neg up (if neg then 2 * (v.natAbs - 1) + 1 else 2 * v.natAbs + 1) (-65)

/-- The value of an FP32 pattern at scale 2^−`p`, rounded down in magnitude. -/
def fixed (p : Nat) (v : Val) : Int :=
  match v with
  | .fin s m e => signed s (if 0 ≤ e + p then m * 2 ^ (e + p).toNat else m / 2 ^ (-(e + p)).toNat)
  | _ => 0

/-- sin and cos by their series in fixed point at scale 2^−128: `n` is the index of the last term, `x2` = x². -/
def trigSeries (x2 : Nat) : Nat → Nat → Int → Int
  | 0, _, _ => 0
  | k + 1, n, term =>
    let t := -(term * x2 / (2 ^ 128 : Nat) / (n + 1) / (n + 2))
    t + trigSeries x2 k (n + 2) t

/-- sin (`isCos` false) or cos of ± `m` × 2^`e` at scale 2^−128, for arguments below 2^38. -/
def trig (isCos neg : Bool) (m : Nat) (e : Int) : Int :=
  let x : Nat := if 0 ≤ e + 160 then m * 2 ^ (e + 160).toNat else m / 2 ^ (-(e + 160)).toNat
  let w : Nat := x % (2 * pi160)
  let c : Int := if pi160 ≤ w then (w : Int) - (2 * pi160 : Nat) else w
  let r : Int := c / (2 ^ 32 : Nat)
  let x2 : Nat := (r * r / (2 ^ 128 : Nat)).toNat
  if isCos then (2 ^ 128 : Nat) + trigSeries x2 30 0 (2 ^ 128 : Nat)
  else signed neg 1 * (r + trigSeries x2 30 1 r)

/-- A value within `tol` of `ref`, both at scale 2^−`p`: the pattern `cand` where it is one, else the nearest to `ref`. -/
def within (p : Nat) (ref tol : Int) (cand : Nat) (clampOne : Bool) : Nat :=
  let c := decode f32 cand
  let x := fixed p c
  let ok := !c.isNan && !c.isInf && decide (x - ref ≤ tol) && decide (ref - x ≤ tol) &&
    (!clampOne || decide (x.natAbs ≤ 2 ^ p))
  if ok then cand
  else if ref = 0 then 0
  else (round f32 nearest (decide (ref < 0)) ref.natAbs (-(p : Int))).1

/-- The flags and the flushing of an inexact approximation (R219): NX, and UF when the result is tiny. -/
def approx (md : Mode) (x : Nat) : Nat × FFlags :=
  let sub := x % 2 ^ 31 < 2 ^ 23
  if sub then (if md.flush then x / 2 ^ 31 * 2 ^ 31 else x, flagNX ||| flagUF) else (x, flagNX)

/-- FSIN and FCOS (R219, R220): `cand` is this implementation's own choice inside the bound. -/
def sinCos (md : Mode) (isCos : Bool) (cand : Nat) (a : Val) : Nat × FFlags :=
  match a with
  | .nan s => nanResult f32 s
  | .inf _ => invalid f32
  | .zero s => (if isCos then 0x3F800000 else zeroOf f32 s, 0)
  | .fin s m e =>
    let top := e + m.log2
    if 38 ≤ top then approx md (within 128 0 (2 ^ 128 : Nat) cand true)
    else
      let mag := if 0 ≤ e + 128 then m * 2 ^ (e + 128).toNat else m / 2 ^ (-(e + 128)).toNat
      let tol := if mag ≤ 2 ^ 143 then 2 ^ 106 else mag / 2 ^ 37
      approx md (within 128 (trig isCos s m e) (tol : Nat) cand true)

/-- tanh of a positive `m` × 2^`e` at scale 2^−256. -/
def tanhFixed (m : Nat) (e : Int) : Nat :=
  let x := m * 2 ^ (e + 256 + 1).toNat
  let t := expm1 256 x 140 1 (2 ^ 256)
  t * 2 ^ 256 / (t + 2 * 2 ^ 256)

/-- FTANH (R219, R220). -/
def tanh (md : Mode) (cand : Nat) (a : Val) : Nat × FFlags :=
  match a with
  | .nan s => nanResult f32 s
  | .inf s => (withSign f32 s 0x3F800000, 0)
  | .zero s => (zeroOf f32 s, 0)
  | .fin s m e =>
    let nine := decide (e + m.log2 > 3) || (decide (e + m.log2 = 3) && decide (9 * 2 ^ (m.log2 - 3) ≤ m))
    if nine then (withSign f32 s 0x3F800000, flagNX) else
    let r := tanhFixed m e
    let ulp : Int := max ((r.log2 : Int) - 256 - 23) (-149)
    approx md (within 256 (signed s r) (2 * 2 ^ (ulp + 256).toNat : Nat) cand false)

end Fp

end Sys2Proof.Machine
end

