-- ==== Sys2Proof/Machine/Formats.lean ====
section
/-! DEFINITION. The narrow formats, the block scales, the signed block Hadamard rotation and the matrix engine's chunk, in
integers (R95 to R104, R107). A value is exact: a signed magnitude times a power of two. -/

namespace Sys2Proof.Machine

namespace Block

open Fp

/-- An exact value `m` × 2^`e`. -/
structure Dy where
  m : Int
  e : Int
  deriving DecidableEq, Repr

def Dy.zero : Dy := ⟨0, 0⟩

/-- floor(log2 |x|) of a non-zero value. -/
def Dy.top (x : Dy) : Int := x.e + x.m.natAbs.log2

/-- The exact value of a finite FP value. -/
def ofVal (v : Val) : Dy :=
  match v with
  | .fin s m e => ⟨signed s m, e⟩
  | _ => Dy.zero

/-- Rounds an exact value to a format. An exact zero is +0 in every mode, which R101 leaves open (log 112). -/
def toFp (t : Format) (md : Mode) (x : Dy) : Nat × FFlags := if x.m = 0 then (0, 0) else round t md (decide (x.m < 0)) x.m.natAbs x.e

/-- Length of the run of bits equal to `b` from bit `i` − 1 of `p` down. -/
def runLen (p : Nat) (b : Bool) : Nat → Nat
  | 0 => 0
  | i + 1 => if p.testBit i == b then 1 + runLen p b i else 0

/-- The value of a positive n-bit tapered pattern (R95). -/
def decodePos (n p : Nat) : Dy :=
  let b := p.testBit (n - 2)
  let run := runLen p b (n - 1)
  let k : Int := if b then (run : Int) - 1 else -(run : Int)
  let rem := n - 2 - run
  let rest := p % 2 ^ rem
  let ebit : Nat := if rem = 0 then 0 else rest / 2 ^ (rem - 1)
  let nf := rem - 1
  ⟨(2 ^ nf + rest % 2 ^ nf : Nat), 2 * k + ebit - nf⟩

/-- The value of an n-bit tapered pattern; none is NaR (R95). -/
def decodeT (n p0 : Nat) : Option Dy :=
  let p := p0 % 2 ^ n
  if p = 0 then some Dy.zero
  else if p = 2 ^ (n - 1) then none
  else if p.testBit (n - 1) then some ⟨-(decodePos n (2 ^ n - p)).m, (decodePos n (2 ^ n - p)).e⟩
  else some (decodePos n p)

/-- The encoding of an exact value into n bits (R96). -/
def encodeT (n : Nat) (x : Dy) : Nat :=
  if x.m = 0 then 0 else
  let mag := x.m.natAbs
  let k := x.top / 2
  let ebit := (x.top % 2).toNat
  let frac := mag - 2 ^ mag.log2
  let q :=
    if (n : Int) ≤ k then 2 ^ (n - 1) - 1
    else if k ≤ -(n : Int) then 1
    else
      let rl := if 0 ≤ k then k.toNat + 2 else (-k).toNat + 1
      let rg := if 0 ≤ k then 2 ^ (k.toNat + 2) - 2 else 1
      let s := ((rg * 2 + ebit) * 2 ^ mag.log2 + frac) * 2 ^ n
      let len := rl + 1 + mag.log2 + n
      let cut := len - (n - 1)
      let q0 := s / 2 ^ cut
      let rest := s % 2 ^ cut
      let half := 2 ^ (cut - 1)
      let q1 := if half < rest ∨ (rest = half ∧ q0 % 2 = 1) then q0 + 1 else q0
      min (max q1 1) (2 ^ (n - 1) - 1)
  if x.m < 0 then (2 ^ n - q) % 2 ^ n else q

/-- An exact value as an integer, to nearest even. -/
def nearestInt (x : Dy) : Int := if x.m = 0 then 0 else (toInt 0 (decide (x.m < 0)) x.m.natAbs x.e).1

def clamp (lo hi x : Int) : Int := min (max x lo) hi

/-- The E8M0 byte of an exact positive value (R97). -/
def scaleByte (x : Dy) : Nat := (clamp 0 254 (x.top + 127)).toNat

/-- The signed value of a byte. -/
def signedByte (p : Nat) : Int := (BitVec.ofNat 8 p).toInt

/-- The value of an element pattern under format codes 3 to 6, without its scale (R95, R98); none is NaR. -/
def element (fmt p : Nat) : Option Dy :=
  match fmt with
  | 3 => decodeT 8 p
  | 4 => decodeT 6 p
  | _ => some ⟨signedByte p, 0⟩

/-- True for the formats with a scale byte per 32 elements (R107). -/
def scaled (fmt : Nat) : Bool := 3 ≤ fmt && fmt ≤ 5

/-- The element of format `fmt` with its scale byte applied; none for NaR and for scale 0xFF (R98). -/
def scaledElement (fmt p s : Nat) : Option Dy :=
  match element fmt p with
  | none => none
  | some v => if scaled fmt then (if s = 255 then none else some ⟨v.m, v.e + s - 127⟩) else some v

/-- The largest floor(log2) of the non-zero values. -/
def maxTop : List Dy → Option Int
  | [] => none
  | x :: xs => if x.m = 0 then maxTop xs else match maxTop xs with
    | none => some x.top
    | some t => some (max x.top t)

/-- quantize_scale_block of R98: the scale byte and the patterns of up to 32 values. -/
def quantBlock (fmt : Nat) (ys : List Dy) : Nat × List Nat :=
  let top : Int := match fmt with
    | 3 => 12
    | 4 => 8
    | _ => 6
  let s : Nat := match maxTop ys with
    | none => 127
    | some t => (clamp 0 254 (t - top + 127)).toNat
  let pat (y : Dy) : Nat :=
    let z : Dy := ⟨y.m, y.e - (s - 127)⟩
    match fmt with
    | 3 => encodeT 8 z
    | 4 => encodeT 6 z
    | _ => (BitVec.ofInt 8 (clamp (-127) 127 (nearestInt z))).toNat
  (s, ys.map pat)

/-- INT8 unscaled (R98, R230). -/
def quantInt8 (y : Dy) : Nat := (BitVec.ofInt 8 (clamp (-128) 127 (nearestInt y))).toNat

/-- Block size of a rotation tag's BLK; 1 for no rotation (R113, R229). -/
def blockSize (tag : Nat) : Nat :=
  match tag % 4 with
  | 0 => 1
  | 1 => 16
  | 2 => 64
  | _ => 256

/-- SEEDIX and FP of a rotation tag (R113). -/
def seedIx (tag : Nat) : Nat := tag / 4 % 8
def fingerprint (tag : Nat) : Nat := tag / 32 % 2048

/-- True when the tag's fingerprint matches its seed register (R114). -/
def tagOk (seed : BitVec 64) (tag : Nat) : Bool := tag % 4 == 0 || fingerprint tag == seed.toNat % 2048

/-- V_k of R99. -/
def seedWord (seed : BitVec 64) : Nat → BitVec 64
  | 0 => seed
  | k + 1 => seedWord seed k * 6364136223846793005 + 1442695040888963407

/-- True when d_j is −1 (R99). -/
def negAt (seed : BitVec 64) (j : Nat) : Bool := (seedWord seed (j / 64)).getLsbD (j % 64)

/-- The butterflies of R100 over 2^k values, exact. -/
def wht : Nat → List Int → List Int
  | 0, l => l
  | k + 1, l =>
    let a := l.take (2 ^ k)
    let b := l.drop (2 ^ k)
    wht k (List.zipWith (· + ·) a b) ++ wht k (List.zipWith (· - ·) a b)

/-- Negates the elements whose d_j is −1, from position `j` on. -/
def applySigns (seed : BitVec 64) (j : Nat) : List Int → List Int
  | [] => []
  | x :: xs => (if negAt seed j then -x else x) :: applySigns seed (j + 1) xs

/-- x × 2^(24 − emax) truncated toward zero. -/
def align (emax : Int) (x : Dy) : Int :=
  let sh := x.e + 24 - emax
  if 0 ≤ sh then x.m * 2 ^ sh.toNat else signed (decide (x.m < 0)) (x.m.natAbs / 2 ^ (-sh).toNat)

/-- log2 of the block size, by BLK. -/
def blockLog (tag : Nat) : Nat :=
  match tag % 4 with
  | 0 => 0
  | 1 => 4
  | 2 => 6
  | _ => 8

/-- The forward rotation of one block of finite values (R100); BLK 0 changes nothing. -/
def rotate (tag : Nat) (seed : BitVec 64) (xs : List Dy) : List Dy :=
  if tag % 4 = 0 then xs else
  match maxTop xs with
  | none => xs.map (fun _ => Dy.zero)
  | some emax =>
    let k := blockLog tag
    (wht k (applySigns seed 0 (xs.map (align emax)))).map (fun x => ⟨x, emax - 24 - (k / 2 : Nat)⟩)

/-- The inverse rotation of one block (R101), before its rounding. -/
def unrotate (tag : Nat) (seed : BitVec 64) (xs : List Dy) : List Dy :=
  if tag % 4 = 0 then xs else
  match maxTop xs with
  | none => xs.map (fun _ => Dy.zero)
  | some emax =>
    let k := blockLog tag
    (applySigns seed 0 (wht k (xs.map (align emax)))).map (fun x => ⟨x, emax - 24 - (k / 2 : Nat)⟩)

/-- Consecutive pieces of `n` elements; `fuel` bounds their number. -/
def chunks {α : Type} (n : Nat) : Nat → List α → List (List α)
  | 0, _ => []
  | _ + 1, [] => []
  | fuel + 1, l => l.take n :: chunks n fuel (l.drop n)

/-- Quantizes finite or non-finite FP32 values in order under a tag (R98 to R102): for each element its pattern and the scale
byte of its scale block. A rotation block holding a non-finite value spoils every scale block it overlaps. -/
def quantize (fmt tag : Nat) (seed : BitVec 64) (xs : List Val) : List (Nat × Nat) :=
  let n := xs.length
  let blocks := chunks (blockSize tag) n xs
  let bad (b : List Val) : Bool := b.any (fun v => v.isNan || v.isInf)
  let spoiled : List Bool := blocks.flatMap (fun b => b.map (fun _ => bad b))
  let ys := blocks.flatMap (fun b => rotate tag seed (b.map ofVal))
  if scaled fmt then
    let each := (chunks 32 n (ys.zip spoiled)).map (fun g =>
      let hurt := g.any (fun p => p.2)
      let (s, ps) := quantBlock fmt (g.map (fun p => p.1))
      if hurt then g.map (fun _ => (match fmt with | 3 => 0x80 | 4 => 0x20 | _ => 0, 255)) else ps.map (fun p => (p, s)))
    each.flatten
  else (ys.zip spoiled).map (fun p => (if p.2 then 0 else quantInt8 p.1, 0))

/-- FP32 value of a BF16, FP16 or FP32 pattern by format code, or of an element byte-addressed page holds (R59). -/
def wideFormat (fmt : Nat) : Format :=
  match fmt with
  | 0 => f32
  | 1 => bf16
  | _ => f16

/-- E8M0 as FP32 (R59, R227): 2^(e − 127), which is subnormal for e = 0, and the canonical NaN for 0xFF. -/
def e8m0ToF32 (x : Nat) : Nat := if x % 256 = 255 then f32.nanBits else (round f32 nearest false 1 ((x % 256 : Nat) - 127)).1

/-- The FP32 value of an element of format code `fmt` under a scale byte, as an E load returns it (R59, Table 8). -/
def elementToF32 (fmt p s : Nat) : Nat :=
  match fmt with
  | 0 => p % 2 ^ 32
  | 1 => (convert bf16 f32 nearest false (p % 2 ^ 16)).1
  | 2 => (convert f16 f32 nearest false (p % 2 ^ 16)).1
  | 7 => e8m0ToF32 p
  | _ => match scaledElement fmt p s with
    | none => f32.nanBits
    | some v => (toFp f32 nearest v).1

/-- The E8M0 conversion of an FP32 value (R97, R233): the byte and NV. -/
def toE8m0 (v : Val) : Nat × FFlags :=
  match v with
  | .fin false m e => (scaleByte ⟨m, e⟩, 0)
  | _ => (255, flagNV)

/-- One operand element of a matrix product: a value, an infinity, or NaR or NaN. -/
inductive Opnd where
  | real (x : Dy)
  | inf (neg : Bool)
  | bad
  deriving DecidableEq, Repr

/-- An operand element by format code 1 or 3 to 6 (R103, R108). -/
def opnd (fmt p : Nat) : Opnd :=
  if fmt = 1 then
    match decode bf16 (p % 2 ^ 16) with
    | .nan _ => .bad
    | .inf s => .inf s
    | v => .real (ofVal v)
  else match element fmt p with
    | none => .bad
    | some v => .real v

/-- A product of R103: none is 0 × ∞. -/
def Opnd.mul (a b : Opnd) : Option Opnd :=
  match a, b with
  | .real x, .real y => some (.real ⟨x.m * y.m, x.e + y.e⟩)
  | .inf s, .inf u => some (.inf (xor s u))
  | .inf s, .real y => if y.m = 0 then none else some (.inf (xor s (decide (y.m < 0))))
  | .real x, .inf u => if x.m = 0 then none else some (.inf (xor u (decide (x.m < 0))))
  | _, _ => some .bad

/-- Removes the magnitude bits of a product below 2^`lo`, toward zero. -/
def cutBelow (lo : Int) (x : Dy) : Int :=
  if lo ≤ x.e then x.m * 2 ^ (x.e - lo).toNat else signed (decide (x.m < 0)) (x.m.natAbs / 2 ^ (lo - x.e).toNat)

/-- The chunk of R103: 32 products under the two scale bytes, rounded once to FP32. -/
def chunk (fmt : Nat) (a b : List Nat) (sa sb : Nat) : Nat :=
  let xs := a.map (opnd fmt)
  let ys := b.map (opnd fmt)
  let ps := List.zipWith Opnd.mul xs ys
  if xs.any (· == .bad) || ys.any (· == .bad) || sa == 255 || sb == 255 then f32.nanBits
  else if ps.any (· == none) then f32.nanBits
  else
    let neg := ps.any (· == some (.inf true))
    let pos := ps.any (· == some (.inf false))
    if neg && pos then f32.nanBits
    else if neg || pos then infOf f32 neg
    else
      let vs := ps.map (fun p => match p with | some (.real v) => v | _ => Dy.zero)
      match maxTop vs with
      | none => 0
      | some e =>
        let sum := (vs.map (cutBelow (e - 40))).foldl (· + ·) 0
        (roundInt f32 nearest sum (e - 40 + (sa - 127) + (sb - 127))).1

/-- The exact integer dot product of a chunk of INT8 or I8S (R104). -/
def chunkInt (a b : List Nat) : Int := (List.zipWith (fun x y => signedByte x * signedByte y) a b).foldl (· + ·) 0

/-- FP32 sum to nearest even, subnormals kept, as the matrix engine and FADD atomics form it (R103, R252). -/
def addF32 (x y : Nat) : Nat := (add f32 nearest (decode f32 x) (decode f32 y)).1

end Block

end Sys2Proof.Machine
end

