-- ==== Sys2Proof/Decode.lean ====
section
/-! DEFINITION. The decoder, total on any bytes, which names every rejection; the encoder, its inverse on well-formed
instructions; both written from Tables 3, 5 and 10 of 08_assembly_encodings_opcode_map.md. -/

namespace Sys2Proof

namespace Enc

/-- FN of `Cond` and back (R177). -/
def condOf (n : Nat) : Cond :=
  match n with
  | 0 => .eq
  | 1 => .ne
  | 2 => .lt
  | 3 => .le
  | 4 => .gt
  | 5 => .ge
  | 6 => .ult
  | _ => .ule
def condFn : Cond → BitVec 3
  | .eq => 0
  | .ne => 1
  | .lt => 2
  | .le => 3
  | .gt => 4
  | .ge => 5
  | .ult => 6
  | .ule => 7

/-- FN of `FCond` and back (R177). -/
def fCondOf (n : Nat) : FCond :=
  match n with
  | 0 => .eq
  | 1 => .ne
  | 2 => .lt
  | 3 => .le
  | 4 => .gt
  | 5 => .ge
  | 6 => .unord
  | _ => .ord
def fCondFn : FCond → BitVec 3
  | .eq => 0
  | .ne => 1
  | .lt => 2
  | .le => 3
  | .gt => 4
  | .ge => 5
  | .unord => 6
  | .ord => 7

/-- FN of `RedOp` and back (R177). -/
def redOpOf (n : Nat) : RedOp :=
  match n with
  | 0 => .iadd
  | 1 => .imin
  | 2 => .imax
  | 3 => .and
  | 4 => .or
  | 5 => .xor
  | 6 => .fadd
  | _ => .fmax
def redOpFn : RedOp → BitVec 3
  | .iadd => 0
  | .imin => 1
  | .imax => 2
  | .and => 3
  | .or => 4
  | .xor => 5
  | .fadd => 6
  | .fmax => 7

/-- FN of `Width` and back (R177). -/
def widthOf (n : Nat) : Width :=
  match n with
  | 0 => .z8
  | 1 => .s8
  | 2 => .z16
  | 3 => .s16
  | 4 => .b32
  | 5 => .b64
  | 6 => .b128
  | _ => .e
def widthFn : Width → BitVec 3
  | .z8 => 0
  | .s8 => 1
  | .z16 => 2
  | .s16 => 3
  | .b32 => 4
  | .b64 => 5
  | .b128 => 6
  | .e => 7

/-- FN of `AtomOp` and back (R177). -/
def atomOpOf (n : Nat) : AtomOp :=
  match n with
  | 0 => .add
  | 1 => .min
  | 2 => .max
  | 3 => .and
  | 4 => .or
  | 5 => .xor
  | 6 => .exch
  | _ => .fadd
def atomOpFn : AtomOp → BitVec 3
  | .add => 0
  | .min => 1
  | .max => 2
  | .and => 3
  | .or => 4
  | .xor => 5
  | .exch => 6
  | .fadd => 7

/-- FN of `CommOp` and back (R177). -/
def commOpOf (n : Nat) : Option CommOp :=
  match n with
  | 0 => some .fadd
  | 1 => some .iadd
  | 2 => some .fmax
  | 3 => some .fmin
  | 4 => some .imax
  | 5 => some .imin
  | _ => none
def commOpFn : CommOp → BitVec 3
  | .fadd => 0
  | .iadd => 1
  | .fmax => 2
  | .fmin => 3
  | .imax => 4
  | .imin => 5

/-- The instruction a key and its decoded fields name (R177, Table 11). BRA, CALL, JOIN and their extended forms share a key. -/
def build (k : Key) (f : Fields) : Option Instr :=
  match k.maj.toNat with
  | 0x01 => some (if f.form.isExt then .braX f else .bra f)
  | 0x02 => some (if f.form.isExt then .callX f else .call f)
  | 0x03 =>
    match k.fn.toNat with
    | 0 => some (.jmpr f)
    | 1 => some (.callr f)
    | 2 => some (.ret f)
    | _ => none
  | 0x04 => some (.btab f)
  | 0x06 => some (if f.form.isExt then .joinX f else .join f)
  | 0x07 =>
    match k.fn.toNat with
    | 0 => some (.exit f)
    | 1 => some (.trap f)
    | 2 => some (.rett f)
    | 3 => some (.sleep f)
    | 4 => some (.bkpt f)
    | _ => none
  | 0x08 =>
    if k.sub = 1 then
      match k.fn.toNat with
      | 0 => some (.iadds f)
      | 1 => some (.isubs f)
      | 2 => some (.uadds f)
      | 3 => some (.usubs f)
      | 4 => some (.iabs f)
      | _ => none
    else
      match k.fn.toNat with
      | 0 => some (.iadd f)
      | 1 => some (.isub f)
      | 2 => some (.iaddc f)
      | 3 => some (.isubb f)
      | 4 => some (.imin f)
      | 5 => some (.imax f)
      | 6 => some (.umin f)
      | 7 => some (.umax f)
      | _ => none
  | 0x09 =>
    match k.fn.toNat with
    | 0 => some (.imul f)
    | 1 => some (.imulh f)
    | 2 => some (.umulh f)
    | 3 => some (.imad f)
    | 4 => some (.idiv f)
    | 5 => some (.udiv f)
    | 6 => some (.irem f)
    | 7 => some (.urem f)
    | _ => none
  | 0x0a =>
    if k.sub = 1 then
      match k.fn.toNat with
      | 0 => some (.lop3 f)
      | _ => none
    else
      match k.fn.toNat with
      | 0 => some (.and f)
      | 1 => some (.or f)
      | 2 => some (.xor f)
      | 3 => some (.andn f)
      | 4 => some (.orn f)
      | 5 => some (.xnor f)
      | 6 => some (.not f)
      | 7 => some (.mov f)
      | _ => none
  | 0x0b =>
    match k.fn.toNat with
    | 0 => some (.shl f)
    | 1 => some (.shr f)
    | 2 => some (.sar f)
    | 3 => some (.rol f)
    | 4 => some (.ror f)
    | 5 => some (.brev f)
    | 6 => some (.popc f)
    | 7 => some (.clz f)
    | _ => none
  | 0x0c =>
    match k.fn.toNat with
    | 0 => some (.ctz f)
    | 1 => some (.bfe f)
    | 2 => some (.bfes f)
    | 3 => some (.bfi f)
    | 4 => some (.lea1 f)
    | 5 => some (.lea2 f)
    | 6 => some (.lea3 f)
    | 7 => some (.prmt f)
    | _ => none
  | 0x0d => some (.icmp (condOf k.fn.toNat) f)
  | 0x0e =>
    match k.fn.toNat with
    | 0 => some (.sel f)
    | 1 => some (.pand f)
    | 2 => some (.por f)
    | 3 => some (.pxor f)
    | 4 => some (.pandn f)
    | 5 => some (.pset f)
    | 6 => some (.p2v f)
    | 7 => some (.v2p f)
    | _ => none
  | 0x0f =>
    match k.fn.toNat with
    | 0 => some (.iadd64 f)
    | 1 => some (.isub64 f)
    | 2 => some (.shl64 f)
    | 3 => some (.shr64 f)
    | 4 => some (.sar64 f)
    | 5 => some (.imulw f)
    | 6 => some (.umulw f)
    | 7 => some (.mov64 f)
    | _ => none
  | 0x10 =>
    match k.fn.toNat with
    | 0 => some (.sadd f)
    | 1 => some (.ssub f)
    | 2 => some (.smul f)
    | 3 => some (.sand f)
    | 4 => some (.sor f)
    | 5 => some (.sxor f)
    | 6 => some (.sshl f)
    | 7 => some (.sshr f)
    | _ => none
  | 0x11 =>
    match k.fn.toNat with
    | 0 => some (.ssar f)
    | 1 => some (.smin f)
    | 2 => some (.smax f)
    | 3 => some (.sminu f)
    | 4 => some (.smaxu f)
    | 5 => some (.smov f)
    | 6 => some (.v2s f)
    | 7 => some (.s2v f)
    | _ => none
  | 0x12 => some (.scmp (condOf k.fn.toNat) f)
  | 0x13 => some (.gets f)
  | 0x14 => some (.sets f)
  | 0x15 => some (.movi f)
  | 0x16 => some (.smovi f)
  | 0x17 => some (.iaddi f)
  | 0x18 => some (.saddi f)
  | 0x19 =>
    match k.fn.toNat with
    | 0 => some (.fadd f)
    | 1 => some (.fsub f)
    | 2 => some (.fmul f)
    | 3 => some (.ffma f)
    | 4 => some (.fmin f)
    | 5 => some (.fmax f)
    | 6 => some (.fminm f)
    | 7 => some (.fmaxm f)
    | _ => none
  | 0x1a =>
    match k.fn.toNat with
    | 0 => some (.fabs f)
    | 1 => some (.fneg f)
    | 2 => some (.frnd f)
    | 3 => some (.ffrac f)
    | 4 => some (.fclass f)
    | 5 => some (.fgetexp f)
    | 6 => some (.fscale f)
    | 7 => some (.fcopysign f)
    | _ => none
  | 0x1b =>
    match k.fn.toNat with
    | 0 => some (.frcp f)
    | 1 => some (.frsq f)
    | 2 => some (.fsqrt f)
    | 3 => some (.fexp2 f)
    | 4 => some (.flog2 f)
    | 5 => some (.fsin f)
    | 6 => some (.fcos f)
    | 7 => some (.ftanh f)
    | _ => none
  | 0x1c => some (.fcmp (fCondOf k.fn.toNat) f)
  | 0x1d =>
    match k.fn.toNat with
    | 0 => some (.fdiv f)
    | 1 => some (.hadd2 f)
    | 2 => some (.hmul2 f)
    | 3 => some (.hfma2 f)
    | 4 => some (.badd2 f)
    | 5 => some (.bmul2 f)
    | 6 => some (.bfma2 f)
    | _ => none
  | 0x1e =>
    match k.fn.toNat with
    | 0 => some (.dot4i f)
    | 1 => some (.dot4u f)
    | 2 => some (.dot2b f)
    | 3 => some (.dot2h f)
    | _ => none
  | 0x1f => some (.cvt k.fn f)
  | 0x20 =>
    match k.fn.toNat with
    | 0 => some (.shflIdx f)
    | 1 => some (.shflUp f)
    | 2 => some (.shflDown f)
    | 3 => some (.shflXor f)
    | 4 => some (.shflUpw f)
    | 5 => some (.shflDownw f)
    | 6 => some (.shflXorw f)
    | 7 => some (.shflRotw f)
    | _ => none
  | 0x21 =>
    match k.fn.toNat with
    | 0 => some (.voteAll f)
    | 1 => some (.voteAny f)
    | 2 => some (.voteBallot f)
    | 3 => some (.voteElect f)
    | 4 => some (.voteMatch f)
    | 5 => some (.votePopa f)
    | 6 => some (.voteLmask f)
    | 7 => some (.voteActm f)
    | _ => none
  | 0x22 => some (.rdx (redOpOf k.fn.toNat) f)
  | 0x23 => some (.rstep (redOpOf k.fn.toNat) f)
  | 0x24 => some (.scan (redOpOf k.fn.toNat) f)
  | 0x25 => some (.putl f)
  | 0x26 => some (.ldg (widthOf k.fn.toNat) f)
  | 0x27 => some (.stg (widthOf k.fn.toNat) f)
  | 0x28 => some (.ldb (widthOf k.fn.toNat) f)
  | 0x29 => some (.stb (widthOf k.fn.toNat) f)
  | 0x2a => if k.sub = 1 then some (.atomCas f) else some (.atom (atomOpOf k.fn.toNat) f)
  | 0x2b => if k.sub = 1 then some (.atombCas f) else some (.atomb (atomOpOf k.fn.toNat) f)
  | 0x2c => some (.wait f)
  | 0x2d =>
    match k.fn.toNat with
    | 0 => some (.fenceRel f)
    | 1 => some (.fenceAcq f)
    | 2 => some (.fenceFull f)
    | 3 => some (.fencePromote f)
    | 4 => some (.fenceCflush f)
    | _ => none
  | 0x2e =>
    match k.fn.toNat with
    | 0 => some (.barArrive f)
    | 1 => some (.barWait f)
    | 2 => some (.barSync f)
    | 3 => some (.barInit f)
    | 4 => some (.barExpect f)
    | 5 => some (.barTest f)
    | _ => none
  | 0x2f =>
    match k.fn.toNat with
    | 0 => some (.ringAcq f)
    | 1 => some (.ringRel f)
    | 2 => some (.ringPut f)
    | 3 => some (.ringPub f)
    | 4 => some (.ringInit f)
    | 5 => some (.ringStat f)
    | _ => none
  | 0x30 => some (.waitc (condOf k.fn.toNat) f)
  | 0x31 => some (.copy f)
  | 0x32 =>
    match k.fn.toNat with
    | 0 => some (.tileMma f)
    | 1 => some (.tileMmaz f)
    | 2 => some (.tileQout f)
    | 3 => some (.tileTrot f)
    | 4 => some (.tileTzero f)
    | _ => none
  | 0x33 =>
    match k.fn.toNat with
    | 0 => some (.fcall f)
    | 1 => some (.fprobe f)
    | 2 => some (.fret f)
    | 3 => some (.finval f)
    | 4 => some (.fstat f)
    | _ => none
  | 0x34 =>
    match k.fn.toNat with
    | 0 => some (.ocall f)
    | 1 => some (.osync f)
    | 2 => some (.oret f)
    | 3 => some (.ostat f)
    | _ => none
  | 0x35 =>
    match k.fn.toNat with
    | 0 => some (.launch f)
    | 1 => some (.snap f)
    | _ => none
  | 0x36 =>
    match k.fn.toNat with
    | 0 => some (.barsave f)
    | 1 => some (.barrst f)
    | 2 => some (.shoot f)
    | 3 => some (.purge f)
    | 4 => some (.zerob f)
    | 5 => some (.park f)
    | 6 => some (.rft f)
    | 7 => some (.desc f)
    | _ => none
  | 0x37 => some (.syscall f)
  | 0x38 =>
    match k.fn.toNat with
    | 0 => some (.qnt f)
    | 1 => some (.deq f)
    | 2 => some (.rot f)
    | 3 => some (.irot f)
    | 4 => some (.scale f)
    | _ => none
  | 0x3a =>
    match k.fn.toNat with
    | 0 => some (.rget f)
    | 1 => some (.rset f)
    | _ => none
  | 0x3b => (commOpOf k.fn.toNat).map (fun op => .comm op f)
  | _ => none

/-- The key and the fields of an encoded instruction; none for NOP, TGT, the dual form, the hint region and the steps of other
agents. -/
def parts : Instr → Option (Key × Fields)
  | .bra f => some (⟨0x01, 0, 0⟩, f)
  | .braX f => some (⟨0x01, 0, 0⟩, f)
  | .call f => some (⟨0x02, 0, 0⟩, f)
  | .callX f => some (⟨0x02, 0, 0⟩, f)
  | .jmpr f => some (⟨0x03, 0, 0⟩, f)
  | .callr f => some (⟨0x03, 1, 0⟩, f)
  | .ret f => some (⟨0x03, 2, 0⟩, f)
  | .btab f => some (⟨0x04, 0, 0⟩, f)
  | .join f => some (⟨0x06, 0, 0⟩, f)
  | .joinX f => some (⟨0x06, 0, 0⟩, f)
  | .exit f => some (⟨0x07, 0, 0⟩, f)
  | .trap f => some (⟨0x07, 1, 0⟩, f)
  | .rett f => some (⟨0x07, 2, 0⟩, f)
  | .sleep f => some (⟨0x07, 3, 0⟩, f)
  | .bkpt f => some (⟨0x07, 4, 0⟩, f)
  | .iadd f => some (⟨0x08, 0, 0⟩, f)
  | .isub f => some (⟨0x08, 1, 0⟩, f)
  | .iaddc f => some (⟨0x08, 2, 0⟩, f)
  | .isubb f => some (⟨0x08, 3, 0⟩, f)
  | .imin f => some (⟨0x08, 4, 0⟩, f)
  | .imax f => some (⟨0x08, 5, 0⟩, f)
  | .umin f => some (⟨0x08, 6, 0⟩, f)
  | .umax f => some (⟨0x08, 7, 0⟩, f)
  | .iadds f => some (⟨0x08, 0, 1⟩, f)
  | .isubs f => some (⟨0x08, 1, 1⟩, f)
  | .uadds f => some (⟨0x08, 2, 1⟩, f)
  | .usubs f => some (⟨0x08, 3, 1⟩, f)
  | .iabs f => some (⟨0x08, 4, 1⟩, f)
  | .imul f => some (⟨0x09, 0, 0⟩, f)
  | .imulh f => some (⟨0x09, 1, 0⟩, f)
  | .umulh f => some (⟨0x09, 2, 0⟩, f)
  | .imad f => some (⟨0x09, 3, 0⟩, f)
  | .idiv f => some (⟨0x09, 4, 0⟩, f)
  | .udiv f => some (⟨0x09, 5, 0⟩, f)
  | .irem f => some (⟨0x09, 6, 0⟩, f)
  | .urem f => some (⟨0x09, 7, 0⟩, f)
  | .and f => some (⟨0x0a, 0, 0⟩, f)
  | .or f => some (⟨0x0a, 1, 0⟩, f)
  | .xor f => some (⟨0x0a, 2, 0⟩, f)
  | .andn f => some (⟨0x0a, 3, 0⟩, f)
  | .orn f => some (⟨0x0a, 4, 0⟩, f)
  | .xnor f => some (⟨0x0a, 5, 0⟩, f)
  | .not f => some (⟨0x0a, 6, 0⟩, f)
  | .mov f => some (⟨0x0a, 7, 0⟩, f)
  | .lop3 f => some (⟨0x0a, 0, 1⟩, f)
  | .shl f => some (⟨0x0b, 0, 0⟩, f)
  | .shr f => some (⟨0x0b, 1, 0⟩, f)
  | .sar f => some (⟨0x0b, 2, 0⟩, f)
  | .rol f => some (⟨0x0b, 3, 0⟩, f)
  | .ror f => some (⟨0x0b, 4, 0⟩, f)
  | .brev f => some (⟨0x0b, 5, 0⟩, f)
  | .popc f => some (⟨0x0b, 6, 0⟩, f)
  | .clz f => some (⟨0x0b, 7, 0⟩, f)
  | .ctz f => some (⟨0x0c, 0, 0⟩, f)
  | .bfe f => some (⟨0x0c, 1, 0⟩, f)
  | .bfes f => some (⟨0x0c, 2, 0⟩, f)
  | .bfi f => some (⟨0x0c, 3, 0⟩, f)
  | .lea1 f => some (⟨0x0c, 4, 0⟩, f)
  | .lea2 f => some (⟨0x0c, 5, 0⟩, f)
  | .lea3 f => some (⟨0x0c, 6, 0⟩, f)
  | .prmt f => some (⟨0x0c, 7, 0⟩, f)
  | .icmp op f => some (⟨0x0d, condFn op, 0⟩, f)
  | .sel f => some (⟨0x0e, 0, 0⟩, f)
  | .pand f => some (⟨0x0e, 1, 0⟩, f)
  | .por f => some (⟨0x0e, 2, 0⟩, f)
  | .pxor f => some (⟨0x0e, 3, 0⟩, f)
  | .pandn f => some (⟨0x0e, 4, 0⟩, f)
  | .pset f => some (⟨0x0e, 5, 0⟩, f)
  | .p2v f => some (⟨0x0e, 6, 0⟩, f)
  | .v2p f => some (⟨0x0e, 7, 0⟩, f)
  | .iadd64 f => some (⟨0x0f, 0, 0⟩, f)
  | .isub64 f => some (⟨0x0f, 1, 0⟩, f)
  | .shl64 f => some (⟨0x0f, 2, 0⟩, f)
  | .shr64 f => some (⟨0x0f, 3, 0⟩, f)
  | .sar64 f => some (⟨0x0f, 4, 0⟩, f)
  | .imulw f => some (⟨0x0f, 5, 0⟩, f)
  | .umulw f => some (⟨0x0f, 6, 0⟩, f)
  | .mov64 f => some (⟨0x0f, 7, 0⟩, f)
  | .sadd f => some (⟨0x10, 0, 0⟩, f)
  | .ssub f => some (⟨0x10, 1, 0⟩, f)
  | .smul f => some (⟨0x10, 2, 0⟩, f)
  | .sand f => some (⟨0x10, 3, 0⟩, f)
  | .sor f => some (⟨0x10, 4, 0⟩, f)
  | .sxor f => some (⟨0x10, 5, 0⟩, f)
  | .sshl f => some (⟨0x10, 6, 0⟩, f)
  | .sshr f => some (⟨0x10, 7, 0⟩, f)
  | .ssar f => some (⟨0x11, 0, 0⟩, f)
  | .smin f => some (⟨0x11, 1, 0⟩, f)
  | .smax f => some (⟨0x11, 2, 0⟩, f)
  | .sminu f => some (⟨0x11, 3, 0⟩, f)
  | .smaxu f => some (⟨0x11, 4, 0⟩, f)
  | .smov f => some (⟨0x11, 5, 0⟩, f)
  | .v2s f => some (⟨0x11, 6, 0⟩, f)
  | .s2v f => some (⟨0x11, 7, 0⟩, f)
  | .scmp op f => some (⟨0x12, condFn op, 0⟩, f)
  | .gets f => some (⟨0x13, 0, 0⟩, f)
  | .sets f => some (⟨0x14, 0, 0⟩, f)
  | .movi f => some (⟨0x15, 0, 0⟩, f)
  | .smovi f => some (⟨0x16, 0, 0⟩, f)
  | .iaddi f => some (⟨0x17, 0, 0⟩, f)
  | .saddi f => some (⟨0x18, 0, 0⟩, f)
  | .rget f => some (⟨0x3a, 0, 0⟩, f)
  | .rset f => some (⟨0x3a, 1, 0⟩, f)
  | .fadd f => some (⟨0x19, 0, 0⟩, f)
  | .fsub f => some (⟨0x19, 1, 0⟩, f)
  | .fmul f => some (⟨0x19, 2, 0⟩, f)
  | .ffma f => some (⟨0x19, 3, 0⟩, f)
  | .fmin f => some (⟨0x19, 4, 0⟩, f)
  | .fmax f => some (⟨0x19, 5, 0⟩, f)
  | .fminm f => some (⟨0x19, 6, 0⟩, f)
  | .fmaxm f => some (⟨0x19, 7, 0⟩, f)
  | .fabs f => some (⟨0x1a, 0, 0⟩, f)
  | .fneg f => some (⟨0x1a, 1, 0⟩, f)
  | .frnd f => some (⟨0x1a, 2, 0⟩, f)
  | .ffrac f => some (⟨0x1a, 3, 0⟩, f)
  | .fclass f => some (⟨0x1a, 4, 0⟩, f)
  | .fgetexp f => some (⟨0x1a, 5, 0⟩, f)
  | .fscale f => some (⟨0x1a, 6, 0⟩, f)
  | .fcopysign f => some (⟨0x1a, 7, 0⟩, f)
  | .frcp f => some (⟨0x1b, 0, 0⟩, f)
  | .frsq f => some (⟨0x1b, 1, 0⟩, f)
  | .fsqrt f => some (⟨0x1b, 2, 0⟩, f)
  | .fexp2 f => some (⟨0x1b, 3, 0⟩, f)
  | .flog2 f => some (⟨0x1b, 4, 0⟩, f)
  | .fsin f => some (⟨0x1b, 5, 0⟩, f)
  | .fcos f => some (⟨0x1b, 6, 0⟩, f)
  | .ftanh f => some (⟨0x1b, 7, 0⟩, f)
  | .fcmp op f => some (⟨0x1c, fCondFn op, 0⟩, f)
  | .fdiv f => some (⟨0x1d, 0, 0⟩, f)
  | .hadd2 f => some (⟨0x1d, 1, 0⟩, f)
  | .hmul2 f => some (⟨0x1d, 2, 0⟩, f)
  | .hfma2 f => some (⟨0x1d, 3, 0⟩, f)
  | .badd2 f => some (⟨0x1d, 4, 0⟩, f)
  | .bmul2 f => some (⟨0x1d, 5, 0⟩, f)
  | .bfma2 f => some (⟨0x1d, 6, 0⟩, f)
  | .dot4i f => some (⟨0x1e, 0, 0⟩, f)
  | .dot4u f => some (⟨0x1e, 1, 0⟩, f)
  | .dot2b f => some (⟨0x1e, 2, 0⟩, f)
  | .dot2h f => some (⟨0x1e, 3, 0⟩, f)
  | .cvt op f => some (⟨0x1f, op, 0⟩, f)
  | .shflIdx f => some (⟨0x20, 0, 0⟩, f)
  | .shflUp f => some (⟨0x20, 1, 0⟩, f)
  | .shflDown f => some (⟨0x20, 2, 0⟩, f)
  | .shflXor f => some (⟨0x20, 3, 0⟩, f)
  | .shflUpw f => some (⟨0x20, 4, 0⟩, f)
  | .shflDownw f => some (⟨0x20, 5, 0⟩, f)
  | .shflXorw f => some (⟨0x20, 6, 0⟩, f)
  | .shflRotw f => some (⟨0x20, 7, 0⟩, f)
  | .voteAll f => some (⟨0x21, 0, 0⟩, f)
  | .voteAny f => some (⟨0x21, 1, 0⟩, f)
  | .voteBallot f => some (⟨0x21, 2, 0⟩, f)
  | .voteElect f => some (⟨0x21, 3, 0⟩, f)
  | .voteMatch f => some (⟨0x21, 4, 0⟩, f)
  | .votePopa f => some (⟨0x21, 5, 0⟩, f)
  | .voteLmask f => some (⟨0x21, 6, 0⟩, f)
  | .voteActm f => some (⟨0x21, 7, 0⟩, f)
  | .rdx op f => some (⟨0x22, redOpFn op, 0⟩, f)
  | .rstep op f => some (⟨0x23, redOpFn op, 0⟩, f)
  | .scan op f => some (⟨0x24, redOpFn op, 0⟩, f)
  | .putl f => some (⟨0x25, 0, 0⟩, f)
  | .qnt f => some (⟨0x38, 0, 0⟩, f)
  | .deq f => some (⟨0x38, 1, 0⟩, f)
  | .rot f => some (⟨0x38, 2, 0⟩, f)
  | .irot f => some (⟨0x38, 3, 0⟩, f)
  | .scale f => some (⟨0x38, 4, 0⟩, f)
  | .ldg op f => some (⟨0x26, widthFn op, 0⟩, f)
  | .stg op f => some (⟨0x27, widthFn op, 0⟩, f)
  | .ldb op f => some (⟨0x28, widthFn op, 0⟩, f)
  | .stb op f => some (⟨0x29, widthFn op, 0⟩, f)
  | .atom op f => some (⟨0x2a, atomOpFn op, 0⟩, f)
  | .atomCas f => some (⟨0x2a, 0, 1⟩, f)
  | .atomb op f => some (⟨0x2b, atomOpFn op, 0⟩, f)
  | .atombCas f => some (⟨0x2b, 0, 1⟩, f)
  | .comm op f => some (⟨0x3b, commOpFn op, 0⟩, f)
  | .wait f => some (⟨0x2c, 0, 0⟩, f)
  | .fenceRel f => some (⟨0x2d, 0, 0⟩, f)
  | .fenceAcq f => some (⟨0x2d, 1, 0⟩, f)
  | .fenceFull f => some (⟨0x2d, 2, 0⟩, f)
  | .fencePromote f => some (⟨0x2d, 3, 0⟩, f)
  | .fenceCflush f => some (⟨0x2d, 4, 0⟩, f)
  | .barArrive f => some (⟨0x2e, 0, 0⟩, f)
  | .barWait f => some (⟨0x2e, 1, 0⟩, f)
  | .barSync f => some (⟨0x2e, 2, 0⟩, f)
  | .barInit f => some (⟨0x2e, 3, 0⟩, f)
  | .barExpect f => some (⟨0x2e, 4, 0⟩, f)
  | .barTest f => some (⟨0x2e, 5, 0⟩, f)
  | .ringAcq f => some (⟨0x2f, 0, 0⟩, f)
  | .ringRel f => some (⟨0x2f, 1, 0⟩, f)
  | .ringPut f => some (⟨0x2f, 2, 0⟩, f)
  | .ringPub f => some (⟨0x2f, 3, 0⟩, f)
  | .ringInit f => some (⟨0x2f, 4, 0⟩, f)
  | .ringStat f => some (⟨0x2f, 5, 0⟩, f)
  | .waitc op f => some (⟨0x30, condFn op, 0⟩, f)
  | .copy f => some (⟨0x31, 0, 0⟩, f)
  | .tileMma f => some (⟨0x32, 0, 0⟩, f)
  | .tileMmaz f => some (⟨0x32, 1, 0⟩, f)
  | .tileQout f => some (⟨0x32, 2, 0⟩, f)
  | .tileTrot f => some (⟨0x32, 3, 0⟩, f)
  | .tileTzero f => some (⟨0x32, 4, 0⟩, f)
  | .fcall f => some (⟨0x33, 0, 0⟩, f)
  | .fprobe f => some (⟨0x33, 1, 0⟩, f)
  | .fret f => some (⟨0x33, 2, 0⟩, f)
  | .finval f => some (⟨0x33, 3, 0⟩, f)
  | .fstat f => some (⟨0x33, 4, 0⟩, f)
  | .ocall f => some (⟨0x34, 0, 0⟩, f)
  | .osync f => some (⟨0x34, 1, 0⟩, f)
  | .oret f => some (⟨0x34, 2, 0⟩, f)
  | .ostat f => some (⟨0x34, 3, 0⟩, f)
  | .launch f => some (⟨0x35, 0, 0⟩, f)
  | .snap f => some (⟨0x35, 1, 0⟩, f)
  | .barsave f => some (⟨0x36, 0, 0⟩, f)
  | .barrst f => some (⟨0x36, 1, 0⟩, f)
  | .shoot f => some (⟨0x36, 2, 0⟩, f)
  | .purge f => some (⟨0x36, 3, 0⟩, f)
  | .zerob f => some (⟨0x36, 4, 0⟩, f)
  | .park f => some (⟨0x36, 5, 0⟩, f)
  | .rft f => some (⟨0x36, 6, 0⟩, f)
  | .desc f => some (⟨0x36, 7, 0⟩, f)
  | .syscall f => some (⟨0x37, 0, 0⟩, f)
  | _ => none

/-- True for the rows of the opcode table that are steps of other agents and have no encoding (95_what_each_step_holds.md). -/
def isEvent : Instr → Bool
  | .nop _ => false
  | .bra _ => false
  | .braX _ => false
  | .call _ => false
  | .callX _ => false
  | .jmpr _ => false
  | .callr _ => false
  | .ret _ => false
  | .btab _ => false
  | .tgt _ => false
  | .join _ => false
  | .joinX _ => false
  | .exit _ => false
  | .trap _ => false
  | .rett _ => false
  | .sleep _ => false
  | .bkpt _ => false
  | .iadd _ => false
  | .isub _ => false
  | .iaddc _ => false
  | .isubb _ => false
  | .imin _ => false
  | .imax _ => false
  | .umin _ => false
  | .umax _ => false
  | .iadds _ => false
  | .isubs _ => false
  | .uadds _ => false
  | .usubs _ => false
  | .iabs _ => false
  | .imul _ => false
  | .imulh _ => false
  | .umulh _ => false
  | .imad _ => false
  | .idiv _ => false
  | .udiv _ => false
  | .irem _ => false
  | .urem _ => false
  | .and _ => false
  | .or _ => false
  | .xor _ => false
  | .andn _ => false
  | .orn _ => false
  | .xnor _ => false
  | .not _ => false
  | .mov _ => false
  | .lop3 _ => false
  | .shl _ => false
  | .shr _ => false
  | .sar _ => false
  | .rol _ => false
  | .ror _ => false
  | .brev _ => false
  | .popc _ => false
  | .clz _ => false
  | .ctz _ => false
  | .bfe _ => false
  | .bfes _ => false
  | .bfi _ => false
  | .lea1 _ => false
  | .lea2 _ => false
  | .lea3 _ => false
  | .prmt _ => false
  | .icmp _ _ => false
  | .sel _ => false
  | .pand _ => false
  | .por _ => false
  | .pxor _ => false
  | .pandn _ => false
  | .pset _ => false
  | .p2v _ => false
  | .v2p _ => false
  | .iadd64 _ => false
  | .isub64 _ => false
  | .shl64 _ => false
  | .shr64 _ => false
  | .sar64 _ => false
  | .imulw _ => false
  | .umulw _ => false
  | .mov64 _ => false
  | .sadd _ => false
  | .ssub _ => false
  | .smul _ => false
  | .sand _ => false
  | .sor _ => false
  | .sxor _ => false
  | .sshl _ => false
  | .sshr _ => false
  | .ssar _ => false
  | .smin _ => false
  | .smax _ => false
  | .sminu _ => false
  | .smaxu _ => false
  | .smov _ => false
  | .v2s _ => false
  | .s2v _ => false
  | .scmp _ _ => false
  | .gets _ => false
  | .sets _ => false
  | .movi _ => false
  | .smovi _ => false
  | .iaddi _ => false
  | .saddi _ => false
  | .rget _ => false
  | .rset _ => false
  | .fadd _ => false
  | .fsub _ => false
  | .fmul _ => false
  | .ffma _ => false
  | .fmin _ => false
  | .fmax _ => false
  | .fminm _ => false
  | .fmaxm _ => false
  | .fabs _ => false
  | .fneg _ => false
  | .frnd _ => false
  | .ffrac _ => false
  | .fclass _ => false
  | .fgetexp _ => false
  | .fscale _ => false
  | .fcopysign _ => false
  | .frcp _ => false
  | .frsq _ => false
  | .fsqrt _ => false
  | .fexp2 _ => false
  | .flog2 _ => false
  | .fsin _ => false
  | .fcos _ => false
  | .ftanh _ => false
  | .fcmp _ _ => false
  | .fdiv _ => false
  | .hadd2 _ => false
  | .hmul2 _ => false
  | .hfma2 _ => false
  | .badd2 _ => false
  | .bmul2 _ => false
  | .bfma2 _ => false
  | .dot4i _ => false
  | .dot4u _ => false
  | .dot2b _ => false
  | .dot2h _ => false
  | .cvt _ _ => false
  | .shflIdx _ => false
  | .shflUp _ => false
  | .shflDown _ => false
  | .shflXor _ => false
  | .shflUpw _ => false
  | .shflDownw _ => false
  | .shflXorw _ => false
  | .shflRotw _ => false
  | .voteAll _ => false
  | .voteAny _ => false
  | .voteBallot _ => false
  | .voteElect _ => false
  | .voteMatch _ => false
  | .votePopa _ => false
  | .voteLmask _ => false
  | .voteActm _ => false
  | .rdx _ _ => false
  | .rstep _ _ => false
  | .scan _ _ => false
  | .putl _ => false
  | .qnt _ => false
  | .deq _ => false
  | .rot _ => false
  | .irot _ => false
  | .scale _ => false
  | .ldg _ _ => false
  | .stg _ _ => false
  | .ldb _ _ => false
  | .stb _ _ => false
  | .atom _ _ => false
  | .atomCas _ => false
  | .atomb _ _ => false
  | .atombCas _ => false
  | .comm _ _ => false
  | .wait _ => false
  | .fenceRel _ => false
  | .fenceAcq _ => false
  | .fenceFull _ => false
  | .fencePromote _ => false
  | .fenceCflush _ => false
  | .barArrive _ => false
  | .barWait _ => false
  | .barSync _ => false
  | .barInit _ => false
  | .barExpect _ => false
  | .barTest _ => false
  | .ringAcq _ => false
  | .ringRel _ => false
  | .ringPut _ => false
  | .ringPub _ => false
  | .ringInit _ => false
  | .ringStat _ => false
  | .waitc _ _ => false
  | .copy _ => false
  | .tileMma _ => false
  | .tileMmaz _ => false
  | .tileQout _ => false
  | .tileTrot _ => false
  | .tileTzero _ => false
  | .fcall _ => false
  | .fprobe _ => false
  | .fret _ => false
  | .finval _ => false
  | .fstat _ => false
  | .ocall _ => false
  | .osync _ => false
  | .oret _ => false
  | .ostat _ => false
  | .launch _ => false
  | .snap _ => false
  | .barsave _ => false
  | .barrst _ => false
  | .shoot _ => false
  | .purge _ => false
  | .zerob _ => false
  | .park _ => false
  | .rft _ => false
  | .desc _ => false
  | .syscall _ => false
  | .pfi _ => false
  | .pfiX _ => false
  | .pfdL1 _ => false
  | .pfdSlice _ => false
  | .yield _ => false
  | .hint _ => false
  | .dual _ _ _ => false
  | _ => true
/-- `n` bits of a word from bit `lo` up. -/
def fld (w : Word) (lo n : Nat) : BitVec n := w.extractLsb' lo n

/-- Fields with nothing in use. -/
def blank (form : Form) : Fields :=
  { form := form, d := .none, a := .none, b := .none, c := .none, gd := ⟨0, false⟩, ty := 0, md := 0, imm := 0, lit := 0 }

/-- The operand an 11-bit code names; none for 0x790–0x7FF (R171, Table 6). -/
def operandOf (x : BitVec 11) : Option Operand :=
  if x < 0x600 then some (.vec x)
  else if x < 0x640 then some (.scl (x.setWidth 6))
  else if x < 0x650 then some (.prd (x.setWidth 4))
  else if x < 0x700 then some (.gap (x.setWidth 8))
  else if x < 0x780 then some (.int (x.setWidth 7))
  else if x < 0x790 then some (.fp (x.setWidth 4))
  else none

/-- The code of an operand, the inverse of `operandOf`; a plain number is its own code. -/
def codeOf : Operand → BitVec 11
  | .none => 0
  | .vec n => n
  | .scl n => 0x600 + n.setWidth 11
  | .prd n => 0x640 + n.setWidth 11
  | .int c => 0x700 + c.setWidth 11
  | .fp k => 0x780 + k.setWidth 11
  | .gap c => 0x600 + c.setWidth 11
  | .num n => n
  | .lit _ => 0

/-- The low `n` bits of a field. -/
def low (n : Nat) (x : BitVec 11) : BitVec 11 := x &&& (BitVec.ofNat 11 (2 ^ n - 1))

/-- A 6-bit base field read as its slot says (R169). The offset of LDG, STG, LDB and STB is a plain number (R244). -/
def slotBase (s : Slot) (x : BitVec 6) : Operand :=
  match s with
  | .no => .none
  | .num n _ => .num (low n (x.setWidth 11))
  | .opd c _ =>
    match c with
    | .pred => .prd ((x &&& 7).setWidth 4)
    | .scl => .scl x
    | .ssrc => .scl x
    | .off => .num (x.setWidth 11)
    | _ => .vec (x.setWidth 11)

/-- An 11-bit field read as its slot says (R170, R171). -/
def slotExt (s : Slot) (x : BitVec 11) : Except Reject Operand :=
  match s with
  | .no => .ok .none
  | .num _ n => .ok (if n = 0 then .none else .num (low n x))
  | .opd _ _ =>
    match operandOf x with
    | some o => .ok o
    | none => .error .operandCode

/-- True for a slot that holds operand B in the sense of R167: a literal replaces it. -/
def takesLit (s : Slot) : Bool :=
  match s with
  | .opd _ _ => true
  | _ => false

/-- The majors whose immediate stands as operand B (R206). -/
def immB (maj : Nat) : Bool := 0x15 ≤ maj && maj ≤ 0x18

/-- The fields of a base word, LEN 00 or 01 (R168, R169). GETS and SETS keep SC as the class of their register operand and HI
as the number C (R208, R209). -/
def baseFields (form : Form) (maj : Nat) (s : Sig) (w : Word) (lit : BitVec 64) : Fields :=
  let f := { blank form with ty := s.tys.headD 0, md := if s.fp then 5 &&& s.mods else 0 }
  let b (o : Operand) : Operand := if form.hasLit && takesLit s.b then .lit lit else o
  let D := fld w 18 6
  let A := fld w 12 6
  match s.fmt with
  | .b3 => { f with d := slotBase s.d D, a := slotBase s.a A, b := b (slotBase s.b (fld w 6 6)), gd := ⟨(fld w 3 3).setWidth 4, false⟩ }
  | .bi =>
    let imm := (fld w 0 12).setWidth 24
    if maj = 0x13 then
      if A.getLsbD 1 then { f with d := .scl D, c := .num 0, imm := imm }
      else { f with d := .vec (D.setWidth 11), c := .num ((A &&& 1).setWidth 11), imm := imm }
    else if maj = 0x14 then
      if D.getLsbD 1 then { f with a := .scl A, c := .num 0, imm := imm }
      else { f with a := .vec (A.setWidth 11), c := .num ((D &&& 1).setWidth 11), imm := imm }
    else if immB maj then
      { f with d := slotBase s.d D, a := slotBase s.a A, b := b .none, imm := if form.hasLit then 0 else imm }
    else { f with d := slotBase s.d D, a := slotBase s.a A, imm := imm }
  | .bj => { f with imm := (fld w 0 20).setWidth 24, gd := ⟨(fld w 21 3).setWidth 4, (fld w 20 1) == 1⟩ }
  | .bo => { f with imm := fld w 0 24 }
  | .bw => { f with d := slotBase s.d D, a := slotBase s.a A, b := slotBase s.b (fld w 6 6), c := slotBase s.c (fld w 0 6) }
  | .x => f

/-- The fields of an extended instruction, LEN 10 or 11 (R170). -/
def extFields (form : Form) (k : Key) (s : Sig) (w0 w1 w2 : Word) (lit : BitVec 64) : Except Reject Fields := do
  let imm := fld w2 0 16 &&& s.imm
  let B := fld w1 21 11
  let d ← slotExt s.d (fld w0 13 11)
  let a ← slotExt s.a (fld w0 2 11)
  let b ←
    if form.hasLit && takesLit s.b then .ok (.lit lit)
    else if immB k.maj.toNat && (imm != 0 || B == 0) then .ok .none
    else slotExt s.b B
  let c ←
    if k.maj = 0x20 && imm == 0 then .ok .none
    else if k.maj = 0x14 then .ok (.num (low 1 (fld w0 13 11)))
    else slotExt s.c (fld w1 10 11)
  let branch := (k.maj == 0x01 || k.maj == 0x02) && form.hasLit
  .ok { form := form, d := d, a := a, b := b, c := c, gd := ⟨fld w1 6 4, (fld w1 5 1) == 1⟩,
        ty := if s.tys = [] then 0 else fld w1 0 5, md := fld w2 16 8 &&& s.mods,
        imm := if branch || (immB k.maj.toNat && form.hasLit) then 0 else imm.setWidth 24,
        lit := if branch then lit else 0 }

/-- Checked fields as an instruction. -/
def finish (k : Key) (s : Sig) (f : Fields) : Except Reject Instr :=
  match check k s f with
  | some r => .error r
  | none =>
    match build k f with
    | some i => .ok i
    | none => .error .undefinedOperation

/-- The hint region in base form: what its entries define, and NOP otherwise (R180, R263, R264, R283, R284). -/
def hintShort (form : Form) (w : Word) : Instr :=
  let gd : Guard := ⟨(fld w 3 3).setWidth 4, false⟩
  let pf : Fields := { blank form with a := .vec ((fld w 12 6).setWidth 11), gd := gd }
  match (fld w 24 6).toNat with
  | 0x3C => if form = .base then .pfi { blank form with imm := fld w 0 24 } else .nop (blank form)
  | 0x3D =>
    if (fld w 12 1) == 1 then .nop (blank form)
    else if (fld w 0 3) == 0 then .pfdL1 pf
    else if (fld w 0 3) == 1 then .pfdSlice pf
    else .nop (blank form)
  | 0x3E => if (fld w 0 24) == 0 then .yield (blank form) else .nop (blank form)
  | _ => if (fld w 0 3) == 0 then .hint { blank form with imm := (fld w 6 12).setWidth 24, gd := gd } else .nop (blank form)

/-- True for an address operand PFD may use: an even vector register or a scalar (R263). -/
def pfdBase : Operand → Bool
  | .vec n => n.toNat % 2 = 0
  | .scl _ => true
  | _ => false

/-- The hint region in extended form (R180, R263, R283). -/
def hintLong (form : Form) (w0 w1 w2 : Word) (lit : BitVec 64) : Instr :=
  let gd : Guard := ⟨fld w1 6 4, (fld w1 5 1) == 1⟩
  let fn := fld w2 29 3
  if (fld w2 24 5) != 0 then .nop (blank form) else
  match (fld w0 24 6).toNat with
  | 0x3C =>
    if fn == 0 then
      .pfiX { blank form with
        gd := gd, md := fld w2 16 8 &&& 7, imm := if form.hasLit then 0 else (fld w2 0 16).setWidth 24,
        lit := if form.hasLit then lit else 0 }
    else .nop (blank form)
  | 0x3D =>
    match operandOf (fld w0 2 11) with
    | some a =>
      if pfdBase a then
        let f : Fields := { blank form with a := a, gd := gd, imm := (fld w2 0 16).setWidth 24 }
        if fn == 0 then .pfdL1 f else if fn == 1 then .pfdSlice f else .nop (blank form)
      else .nop (blank form)
    | none => .nop (blank form)
  | _ => .nop (blank form)

/-- The form LEN names (R166). -/
def formOf (w : Word) : Form :=
  match (fld w 30 2).toNat with
  | 0 => .base
  | 1 => .lit
  | 2 => .ext
  | _ => .extLit

/-- A base form, LEN 00 or 01. -/
def decodeShort (form : Form) (w : Word) (lit : BitVec 64) : Except Reject Instr :=
  let maj := fld w 24 6
  if maj = 0 then .ok (.nop (blank form))
  else if maj = 5 then .ok (.tgt { blank form with imm := fld w 0 24 })
  else if 0x3C ≤ maj then .ok (hintShort form w)
  else if maj = 0x39 then .error .dualForm
  else if 0x38 ≤ maj then .error .baseForm
  else
    let b3 : Bool := match sigOf maj.toNat 0 0 with
      | some s => s.fmt == .b3
      | none => true
    let k : Key := ⟨maj, if b3 then fld w 0 3 else 0, 0⟩
    match sigFor form k with
    | none => .error .undefinedOperation
    | some s => finish k s (baseFields form maj.toNat s w lit)

/-- An operation of a dual form (R175, Table 10). -/
def dualOp (maj : BitVec 6) (fn : BitVec 3) (w : Word) : DualOp :=
  ⟨maj, fn, fld w 24 8, fld w 16 8, fld w 8 8, fld w 0 8⟩

/-- True for an FN that the opcode map marks "—" in a major of format B3 or an extended-only major (R177, Table 11). -/
def fnGap (maj : BitVec 6) (fn : BitVec 3) : Bool :=
  let n := fn.toNat
  match maj.toNat with
  | 0x03 => 3 ≤ n
  | 0x07 => 5 ≤ n
  | 0x1D => n == 7
  | 0x1E => 4 ≤ n
  | 0x25 => n != 0
  | 0x27 => n == 1 || n == 3
  | 0x28 => n == 7
  | 0x29 => n == 1 || n == 3 || n == 7
  | 0x2D => 5 ≤ n
  | 0x2E => 6 ≤ n
  | 0x2F => 6 ≤ n
  | 0x31 => n != 0
  | 0x32 => 5 ≤ n
  | 0x33 => 5 ≤ n
  | 0x34 => 4 ≤ n
  | 0x35 => 2 ≤ n
  | 0x37 => n != 0
  | 0x38 => 5 ≤ n
  | 0x3A => 2 ≤ n
  | 0x3B => 6 ≤ n
  | _ => false

/-- An extended form, LEN 10 or 11. -/
def decodeLong (form : Form) (w0 w1 w2 : Word) (lit : BitVec 64) : Except Reject Instr :=
  let maj := fld w0 24 6
  if maj = 0 then .ok (.nop (blank form))
  else if maj = 5 then .ok (.tgt (blank form))
  else if 0x3C ≤ maj then .ok (hintLong form w0 w1 w2 lit)
  else if maj = 0x39 then
    if form = .ext then
      let x := dualOp (fld w0 18 6) (fld w0 15 3) w1
      let y := dualOp (fld w0 9 6) (fld w0 6 3) w2
      if fnGap x.maj x.fn || fnGap y.maj y.fn then .error .undefinedOperation else .ok (.dual ⟨fld w0 2 4, (fld w0 1 1) == 1⟩ x y)
    else .error .dualForm
  else
    let k : Key := ⟨maj, fld w2 29 3, fld w2 24 5⟩
    match sigFor form k with
    | none => .error .undefinedOperation
    | some s =>
      match extFields form k s w0 w1 w2 lit with
      | .error r => .error r
      | .ok f => finish k s f

end Enc

/-- The instruction that begins with the first of these words (R166, R167). -/
def decodeWords (ws : List Word) : Except Enc.Reject Instr :=
  match ws with
  | [] => .error .truncated
  | w0 :: rest =>
    match Enc.formOf w0, rest with
    | .base, _ => Enc.decodeShort .base w0 0
    | .lit, l0 :: l1 :: _ => Enc.decodeShort .lit w0 (l1 ++ l0)
    | .ext, w1 :: w2 :: _ => Enc.decodeLong .ext w0 w1 w2 0
    | .extLit, w1 :: w2 :: l0 :: l1 :: _ => Enc.decodeLong .extLit w0 w1 w2 (l1 ++ l0)
    | _, _ => .error .truncated

/-- Little-endian words of a byte list; a rest of less than four bytes is dropped (R166). -/
def wordsOf : List Byte → List Word
  | b0 :: b1 :: b2 :: b3 :: rest => (b3 ++ b2 ++ b1 ++ b0) :: wordsOf rest
  | _ => []

/-- Little-endian bytes of words. -/
def bytesOf : List Word → List Byte
  | [] => []
  | w :: ws => Enc.fld w 0 8 :: Enc.fld w 8 8 :: Enc.fld w 16 8 :: Enc.fld w 24 8 :: bytesOf ws

/-- The form of an instruction, which fixes its length; the steps of other agents have none. -/
def Instr.form (i : Instr) : Option Form :=
  match Enc.parts i with
  | some (_, f) => some f.form
  | none =>
    match i with
    | .nop f => some f.form
    | .tgt f => some f.form
    | .dual _ _ _ => some .ext
    | .pfi f => some f.form
    | .pfiX f => some f.form
    | .pfdL1 f => some f.form
    | .pfdSlice f => some f.form
    | .yield f => some f.form
    | .hint f => some f.form
    | _ => none

/-- The decoder: the instruction at the head of a byte list, and the bytes after it. -/
def decode (bs : List Byte) : Except Enc.Reject (Instr × List Byte) :=
  match decodeWords (wordsOf (bs.take 20)) with
  | .error r => .error r
  | .ok i => .ok (i, bs.drop ((i.form.getD .base).len))

namespace Enc

/-- Base field of an operand: the register number or the number (R169). -/
def field6 : Operand → BitVec 6
  | .vec n => n.setWidth 6
  | .scl n => n
  | .prd n => n.setWidth 6
  | .num n => n.setWidth 6
  | _ => 0

/-- LEN of a form. -/
def lenBits : Form → BitVec 2
  | .base => 0
  | .lit => 1
  | .ext => 2
  | .extLit => 3

/-- 1 for true. -/
def bit (b : Bool) : BitVec 1 := if b then 1 else 0

/-- 1 when the operand is a scalar: the SC bit of GETS and SETS. -/
def scBit : Operand → BitVec 1
  | .scl _ => 1
  | _ => 0

/-- HI of GETS and SETS, kept as the number C. -/
def hiBit (c : Operand) : BitVec 1 :=
  match c with
  | .num n => n.setWidth 1
  | _ => 0

/-- The 24-bit body of a base word (R168, Table 3). -/
def body (k : Key) (s : Sig) (f : Fields) : BitVec 24 :=
  match s.fmt with
  | .b3 => field6 f.d ++ field6 f.a ++ field6 f.b ++ (f.gd.p.setWidth 3) ++ k.fn
  | .bi =>
    let imm := f.imm.setWidth 12
    if k.maj = 0x13 then field6 f.d ++ (0 : BitVec 4) ++ scBit f.d ++ hiBit f.c ++ imm
    else if k.maj = 0x14 then (0 : BitVec 4) ++ scBit f.a ++ hiBit f.c ++ field6 f.a ++ imm
    else field6 f.d ++ field6 f.a ++ imm
  | .bj => (f.gd.p.setWidth 3) ++ bit f.gd.neg ++ f.imm.setWidth 20
  | .bo => f.imm
  | .bw => field6 f.d ++ field6 f.a ++ field6 f.b ++ field6 f.c
  | .x => 0

/-- The literal an instruction carries: operand B, or the target of a branch; zero where it is ignored. -/
def litOf (f : Fields) : BitVec 64 :=
  match f.b with
  | .lit x => x
  | _ => f.lit

/-- The two literal words, low word first (R167). -/
def litWords (x : BitVec 64) : List Word := [x.setWidth 32, (x >>> 32).setWidth 32]

/-- Word 0 of an instruction: LEN, MAJ and the body (R168). -/
def word0 (form : Form) (maj : BitVec 6) (b : BitVec 24) : Word := lenBits form ++ maj ++ b

/-- The words of a base form. -/
def short (form : Form) (maj : BitVec 6) (b : BitVec 24) (lit : BitVec 64) : List Word :=
  word0 form maj b :: (if form.hasLit then litWords lit else [])

/-- The three words of an extended form and its literal (R170, Table 5). -/
def long (form : Form) (k : Key) (d a b c : BitVec 11) (gd : Guard) (ty : BitVec 5) (md : BitVec 8) (imm : BitVec 16)
    (lit : BitVec 64) : List Word :=
  [word0 form k.maj (d ++ a ++ (0 : BitVec 2)), b ++ c ++ gd.p ++ bit gd.neg ++ ty, k.fn ++ k.sub ++ md ++ imm] ++
    (if form.hasLit then litWords lit else [])

/-- The words of an instruction with a key. -/
def encodeParts (k : Key) (f : Fields) : List Word :=
  match sigFor f.form k with
  | none => []
  | some s =>
    if f.form.isExt then
      let d := if k.maj = 0x14 then (hiBit f.c).setWidth 11 else codeOf f.d
      let c := if k.maj = 0x14 then 0 else codeOf f.c
      long f.form k d (codeOf f.a) (codeOf f.b) c f.gd f.ty f.md (f.imm.setWidth 16) (litOf f)
    else short f.form k.maj (body k s f) (litOf f)

/-- The words of a hint (R263, R264, R283, R284) or of NOP and TGT, by major and FN. -/
def encodeFree (maj : BitVec 6) (fn : BitVec 3) (b : BitVec 24) (f : Fields) : List Word :=
  if f.form.isExt then long f.form ⟨maj, fn, 0⟩ 0 (codeOf f.a) 0 0 f.gd 0 f.md (f.imm.setWidth 16) f.lit
  else short f.form maj b f.lit

/-- The operand word of one operation of a dual form. -/
def dualWord (x : DualOp) : Word := x.d ++ x.a ++ x.b ++ x.c

end Enc

/-- The encoder: the words of a well-formed instruction; the empty list for a step of another agent, which has no encoding. -/
def encode (i : Instr) : List Word :=
  match i with
  | .nop f => Enc.encodeFree 0 0 0 f
  | .tgt f => Enc.encodeFree 5 0 f.imm f
  | .dual gd x y =>
    [Enc.word0 .ext 0x39 (x.maj ++ x.fn ++ y.maj ++ y.fn ++ gd.p ++ Enc.bit gd.neg ++ (0 : BitVec 1)), Enc.dualWord x, Enc.dualWord y]
  | .pfi f => Enc.encodeFree 0x3C 0 f.imm f
  | .pfiX f => Enc.encodeFree 0x3C 0 0 f
  | .pfdL1 f => Enc.encodeFree 0x3D 0 ((0 : BitVec 6) ++ Enc.field6 f.a ++ (0 : BitVec 6) ++ f.gd.p.setWidth 3 ++ (0 : BitVec 3)) f
  | .pfdSlice f => Enc.encodeFree 0x3D 1 ((0 : BitVec 6) ++ Enc.field6 f.a ++ (0 : BitVec 6) ++ f.gd.p.setWidth 3 ++ (1 : BitVec 3)) f
  | .yield f => Enc.encodeFree 0x3E 0 0 f
  | .hint f => Enc.encodeFree 0x3F 0 ((0 : BitVec 6) ++ f.imm.setWidth 12 ++ f.gd.p.setWidth 3 ++ (0 : BitVec 3)) f
  | i =>
    match Enc.parts i with
    | some (k, f) => Enc.encodeParts k f
    | none => []

/-- The instruction the decoder reads from a word numbered as spec/opcode_table.json numbers it: bits above `nbits` are zero. -/
def decodeTableWord (nbits w : Nat) : Option Instr :=
  let v := w % 2 ^ nbits
  match decode (bytesOf ((List.range 5).map (fun k => BitVec.ofNat 32 (v / 2 ^ (32 * k))))) with
  | .ok (i, _) => some i
  | .error _ => none

end Sys2Proof
end

