-- ==== Sys2Proof/Machine/State.lean ====
section
/-! DEFINITION. The state of the module as plain data: groups and lanes, teams with their buffers and objects, the cores, quads
and dies with their caches, engines and tables, the memory, the host side, and the machine right after reset. -/

namespace Sys2Proof.Machine

/-- Why the machine could stop with a fault. The spec turns every condition of an instruction into an exception that is taken
(R183, R32, R358), so no step of this model stops; the constructor is there because the machine's memory is bounded. -/
inductive Fault where
  /-- An access outside the 52-bit physical address space (R37). Raised by no meaning: R36 and R362 check every address
  before an access is formed. Safe: the machine would stop where the hardware raises DATA. -/
  | noSuchAddress
  deriving DecidableEq, Repr

/-- Why a step could be refused. -/
inductive Refusal where
  /-- An instruction the model gives no meaning. Raised by no arm of `exec`. Safe: the machine stops by name. -/
  | notModelled (mnemonic : String)
  deriving DecidableEq, Repr

/-- The causes of a privileged fault, numbered from 1 in this order (R360). -/
inductive Cause where
  | illegal | priv | regrange | pairing | fetch | data | align | bufrange | peergone | fmtstore | tagmismatch | btarget
  | remote | poison | storedesc | assay
  deriving DecidableEq, Repr, Inhabited

/-- Lane states (R23, Table 7). -/
inductive LaneState where
  | eligible | joined | barrier | ring | monitor | timed | counting | trapheld | faulted | exited
  deriving DecidableEq, Repr, Inhabited

/-- The privileged routine a lane runs (R285, R358, R359). -/
inductive Routine where
  | save | restore | syscall
  deriving DecidableEq, Repr, Inhabited

/-- What a held lane waits for. `stall` is a structural stall: the lane stays ELIGIBLE and does not issue (R16, R268); `park` marks a lane that stands
at a PARK (R291). -/
inductive Hold where
  | none
  | timed (until_ : Nat) (next : DWord)
  | wait (l s c t : BitVec 6) (next : DWord)
  | release (id : Nat)
  | barrier (code : Nat) (next : DWord)
  | ring (next : DWord)
  | monitor (id : Nat)
  | stall (id : Nat)
  | park
  deriving DecidableEq, Repr, Inhabited

/-- A pending destination: registers that cannot be read or written until operation `src` answers (R71, R146, R248). -/
structure Pend where
  reg : Nat
  n : Nat
  src : Nat
  deriving DecidableEq, Repr, Inhabited

/-- A destination whose value arrived poisoned, or whose numbered operation did not complete (R158, R248): raised at the
lane's first instruction that reads or writes it. `rcause` is 0 for poison; `pc` is the instruction that issued the operation. -/
structure Marked where
  reg : Nat
  n : Nat
  addr : DWord
  rsn : BitVec 32
  rcause : Nat
  pc : DWord
  deriving DecidableEq, Repr, Inhabited

/-- One lane (R7, R13, R23, R30, R356). `preds` bit 0 always reads 1; a lane released from a held state in core cycle `free - 1` issues from core cycle
`free` on (R26); `heldAt` says when its held trap was raised, a later one having the larger number (R32). -/
structure Lane where
  pc : DWord
  st : LaneState
  free : Nat
  hold : Hold
  preds : BitVec 16
  v : Sparse Word
  fflags : BitVec 5
  waitCount : Nat
  routine : Option Routine
  inH : Bool
  heldLen : Nat
  prpc : DWord
  prstate : DWord
  prheld : DWord
  heldAt : Nat
  pend : List Pend
  marked : List Marked
  acq : List Nat
  deriving DecidableEq, Repr, Inhabited

/-- A lane at the start of a team (R11). -/
def Lane.start (pc : DWord) : Lane :=
  { pc := pc, st := .eligible, free := 0, hold := .none, preds := 1, v := [], fflags := 0, waitCount := 0, routine := .none, inH := false,
    heldLen := 4, prpc := 0, prstate := 0, prheld := 0, heldAt := 0, pend := [], marked := [], acq := [] }

/-- An open JOIN episode (R20). -/
structure Episode where
  pc : DWord
  start : Nat
  limit : Nat
  len : Nat
  deriving DecidableEq, Repr, Inhabited

/-- A counted operation, in issue order (R81, R82). `cls` is 0 loads, 1 stores, 2 copies, 3 tiles. A load or store operation
has completed when none of its requests is outstanding; `open_` is true while an engine still works on a copy or a task. -/
structure COp where
  id : Nat
  cls : Nat
  open_ : Bool
  deriving DecidableEq, Repr, Inhabited

/-- What a request does where it is performed. -/
inductive Access where
  | load
  | store
  | atom (op : AtomOp) (ty : BitVec 5)
  | cas
  | comm (op : CommOp)
  | writeback
  | flush (op : CommOp)
  deriving DecidableEq, Repr, Inhabited

/-- How the answer of a load or atomic is written to registers (Table 2 of 11_isa_memory_sync.md, R59). -/
inductive Extend where
  | none
  | zext
  | sext (bits : Nat)
  | words (n : Nat)
  | elem (fmt : Nat)
  deriving DecidableEq, Repr, Inhabited

/-- Where a request stands: `sent` on its way, `queued` in its slice's input queue (R52), `waiting` behind a combine of its line or in the hold buffer of
a moving granule (R55, R64), `held` until a write's W (R69), `combining` while its line's partials are recalled (R64), `served` at its home, `port` at a
hub's fabric port or with the ROU. -/
inductive Stage where
  | sent
  | queued
  | waiting
  | held
  | combining
  | served
  | port
  deriving DecidableEq, Repr, Inhabited

/-- One request of one lane, or of a core's L1, on its way (R52, R66 to R69, R79). `op` is the counted operation, 0 for none; `team` is the owner of a buffer
access and `region` its region; `addr` is a physical address or a buffer offset. `combine` marks a word of a commutative range, `l1` an access that executes in
the core's L1 (R50, R75, R77), `target` is the die the request goes to, and `seq` the place it took in a queue or hold buffer (R52, R55). `resends` counts its failed
transfers on a drift (R381), `refused` says that its queue was full; `holders` and `parts` are those of the line combine it started (R64). `mask` marks, in a
store, the bits of `data` it writes, and in a `fixed` load the bits its own core's writes gave it (R66). `six` is 1 + the first bit of a T6 page's elements, 0
for other pages, and `elems` their number (R58). An `isScale` load brings the scale byte of its lane's kind E load, which that one keeps in `scale` (R59). `ways` is
the WAYMASK and `age` the AGE of its class (R363); `run` marks an atomic whose bundle has begun on its word (R247), `hurt` the poisoned blocks of a write-back (R382); `md` is the MOD of its
instruction, and `logged` that instruction's number in the issue log of its group (R384); `asid` and `bench` say under whose translation it goes, made before number `born` (R366). -/
structure Req where
  id : Nat
  op : Nat
  gid : Nat
  lane : Nat
  core : Nat
  acc : Access
  isBuf : Bool
  team : Nat
  region : Nat
  addr : Nat
  va : DWord
  n : Nat
  data : QWord
  cmp : QWord
  mask : QWord
  six : Nat
  elems : Nat
  dst : Nat
  ext : Extend
  scope : BitVec 2
  lease : BitVec 2
  repl : Bool
  lock : Bool
  combine : Bool
  l1 : Bool
  target : Nat
  stage : Stage
  hops : Nat
  seq : Nat
  refused : Bool
  resends : Nat
  fixed : Bool
  isScale : Bool
  scale : Byte
  ways : BitVec 16
  age : BitVec 2
  run : Bool
  hurt : List Nat
  md : BitVec 8
  logged : Nat
  asid : Nat
  bench : Nat
  born : Nat
  holders : List Nat
  parts : List (Nat × Nat × CommOp × Word)
  pc : DWord
  val : QWord
  w : Nat
  poisoned : Bool
  deriving DecidableEq, Repr, Inhabited

/-- A WAITC monitor (R84, R262); `at_` is the GTIME of its next comparison while it has no place of its slice's; it is `asleep` while its team is parked. -/
structure Monitor where
  id : Nat
  gid : Nat
  lane : Nat
  core : Nat
  addr : Nat
  va : DWord
  n : Nat
  six : Nat
  elems : Nat
  cond : Cond
  ty : BitVec 5
  b : DWord
  dst : Nat
  acq : Bool
  at_ : Nat
  asleep : Bool
  next : DWord
  deriving DecidableEq, Repr, Inhabited

/-- What follows when a release is over (R72, R78, R80, R257 to R262, R280). -/
inductive Cont where
  | fence (acq : Bool)
  | access (reqs : List Req) (acq : Bool) (fx : List (Nat × BitVec 5))
  | arrive (bar : Nat) (weight : Nat) (dst : Option Nat) (sync : Bool)
  | pub (ring : Nat) (addr : Word)
  | monitor (ms : List Monitor)
  | launch (sd : Nat) (va pc : DWord)
  | promote
  | cflush
  | sysop
  | syscall (code : Nat)
  deriving DecidableEq, Repr, Inhabited

/-- A release in progress (R72). `stage` 0 waits for the group's older accesses in `waits` to be performed (scope team) or acknowledged; stage 1, after the
write-backs and flushes, for the writes of the core in `waits` to be acknowledged; stage 2 for GTIME to reach WCT; stage 3 is a PROMOTE whose request is on its way
to the core in `waits` (R78). The lanes stand at `pc` and go on at `next`. -/
structure Rel where
  id : Nat
  lanes : QWord
  pc : DWord
  next : DWord
  scope : BitVec 2
  stage : Nat
  waits : List Nat
  timed : Bool
  cont : Cont
  deriving DecidableEq, Repr, Inhabited

/-- The operations of TILE (R111). -/
inductive TileOp where
  | mma | mmaz | qout | trot | tzero
  deriving DecidableEq, Repr, Inhabited

/-- The operation of an SCB entry (R384, Table 3, R295). -/
inductive Sent where
  | access (a : Access)
  | publish
  | insert
  | copy
  | tile (k : TileOp)
  | append
  | launch
  | syscall
  deriving DecidableEq, Repr, Inhabited

/-- An entry of the store-comparison buffer of an assay group (R384, Table 3): what waits for its shadow, by the number of the request, command, insert, call or release.
`op` is the operation, `addr`, `n`, `data` and `md` its address, bytes, data and MOD; `lane`, `pc` and `logged` name the lane and the instruction, and `at_` its core cycle. -/
structure Scb where
  id : Nat
  op : Sent
  lane : Nat
  pc : DWord
  addr : DWord
  n : Nat
  data : List QWord
  md : BitVec 8
  logged : Nat
  at_ : Nat
  deriving DecidableEq, Repr, Inhabited

/-- An entry of the issue log of an assay group (R384, Table 3): PC, bundle lane mask and co-issue slot. `num` counts the group's entries, and `wrote` holds the register
results of the instruction by lane and operand code, which the shadow's are compared with (R385). -/
structure Issued where
  num : Nat
  pc : DWord
  lanes : QWord
  second : Bool
  wrote : List (Nat × Nat × DWord)
  deriving DecidableEq, Repr, Inhabited

/-- An entry of the load-value queue of an assay group (R384, Table 3): the value returned to each lane, by lane and operand code, and the registers whose value has not come
yet. -/
structure Lvq where
  num : Nat
  vals : List (Nat × Nat × DWord)
  owed : List (Nat × Nat)
  deriving DecidableEq, Repr, Inhabited

/-- The group a replay engine runs as one method (R151): die, object index, log entry or read-only call, whether it may write
the state block, its results, and the instructions it has run. `call` is the caller's record. -/
structure Method where
  die : Nat
  obj : Nat
  seq : Nat
  call : Nat
  mutates : Bool
  nres : Nat
  ran : Nat
  undo : Sparse Byte
  deriving DecidableEq, Repr, Inhabited

/-- A result for a group that is parked or not yet resumed (R159, R357): KIND, first destination code, lane, values, and the mark of a REMOTE
cause. -/
structure Held where
  kind : Nat
  dst : Nat
  lane : Nat
  vals : List Word
  mark : Option Marked
  deriving DecidableEq, Repr, Inhabited

/-- One group (R7, R21, R30, R31, R81, R90, R99, R207, R356). `hurt` lists poison that reached the matrix engine or a port on the group's
behalf (R382): the SIG code of the task, 63 for none, or 64 for a port, with an address. `aside` is true from a PREEMPT to the group's next
RFT: its results and REMOTE causes are kept in `held` and in its context record (R159), and the further destinations of a lane that holds a REMOTE cause, of which the record
has one a lane, in `marks` (R357, log 104). -/
structure Group where
  uid : Nat
  team : Nat
  gid : Nat
  bench : Nat
  slot : Nat
  order : Nat
  width : Nat
  vcount : Nat
  lanes : List Lane
  s : Sparse DWord
  pendS : List (Nat × Nat)
  markedS : List Marked
  fmode : DWord
  jointo : DWord
  sseed : Sparse DWord
  trapen : DWord
  trapv : DWord
  tpc : DWord
  tfpc : DWord
  tmask : DWord
  tmaskhi : DWord
  tcause : DWord
  tdst : DWord
  utrap : Bool
  wct : Nat
  ops : List COp
  eps : List Episode
  rels : List Rel
  pcause : DWord
  ctxrec : DWord
  pscr : Sparse DWord
  since : Option Nat
  yieldTo : Nat
  preempt : Bool
  aside : Bool
  isParked : Bool
  withdrawn : List (Nat × List DWord)
  method : Option Method
  logged : Nat
  log : List Issued
  lvq : List Lvq
  scb : List Scb
  hurt : List (Nat × DWord)
  held : List Held
  marks : List (Nat × Marked)
  deriving DecidableEq, Repr, Inhabited

/-- A barrier object and its waiter bits by group (R45, R46, R358). -/
structure Bar where
  expect : BitVec 12
  pending : BitVec 12
  phase : Bool
  waiters : Sparse QWord
  deriving DecidableEq, Repr, Inhabited

/-- One acquirer waiting on a ring, in the order it reached the ring object (R127, R261): a bundle of group `gid`, or a copy
command when `copy` is not 0. -/
structure RingWait where
  reader : Bool
  gid : Nat
  lanes : QWord
  sd : Nat
  copy : Nat
  deriving DecidableEq, Repr, Inhabited

/-- A ring object, the slots held in each role in acquisition order with their done marks, the group that took each slot last, and its waiters (R47, R127, R261, R386). -/
structure Ring where
  base : Word
  slotlog : BitVec 4
  nslotm1 : BitVec 7
  free : BitVec 8
  filled : BitVec 8
  head : BitVec 7
  tail : BitVec 7
  writers : List (Nat × Bool)
  readers : List (Nat × Bool)
  owners : Sparse Nat
  waits : List RingWait
  deriving DecidableEq, Repr, Inhabited

/-- A team and what it owns (R8, R12, R38, R43, R45, R207). Sizes are the allocations rounded up to segments.
`drain` lists the lent segments (true for WBUF) still to be handed over, with the requests whose acknowledgements a begun drain waits for (R49); `owed` lists
the writes that a begun retirement waits for (R351). -/
structure Team where
  uid : Nat
  lid : Nat
  die : Nat
  core : Nat
  cluster : Nat
  teamlin : Nat
  tx : Nat
  ty : Nat
  tz : Nat
  clrank : Nat
  clsize : Nat
  asize : Nat
  wsize : Nat
  csize : Nat
  asegs : List Nat
  wsegs : List Nat
  csegs : List Nat
  abuf : Sparse Byte
  wbuf : Sparse Byte
  cbuf : Sparse Byte
  params : Sparse Byte
  poison : List Nat
  bars : List Bar
  rings : List Ring
  exited : Bool
  retired : Bool
  restoring : Bool
  masks : List (Nat × Nat × QWord)
  drain : List (Bool × Nat × Option (List Nat))
  owed : Option (List Nat)
  deriving DecidableEq, Repr, Inhabited

/-- What stands behind a snapshot slot of a cluster: the teams, groups, cluster barriers and monitors at the moment of that SEQ (R386, R387, log 47). -/
structure Snap where
  seq : BitVec 32
  teams : List Team
  groups : List Group
  bars : List Bar
  monitors : List Monitor
  deriving DecidableEq, Repr, Inhabited

/-- A cluster: its teams leave together and share cb0–cb15; assay clusters count their snapshots, the newest first in `snaps`, the last being the start (R9, R45, R386). -/
structure Cluster where
  uid : Nat
  lid : Nat
  die : Nat
  index : Nat
  quads : List Nat
  bars : List Bar
  snapSeq : BitVec 32
  snapAt : Nat
  snapDue : Bool
  snaps : List Snap
  deriving DecidableEq, Repr, Inhabited

/-- A team that is not resident: parked with the waits that restore it when all its lanes were in MONITOR (R26), or, with `snap`, rolled back to a snapshot and
placed again away from core `avoid` (R387). -/
structure Parked where
  team : Team
  groups : List Group
  monitors : List Monitor
  woken : Bool
  snap : Bool
  avoid : Option Nat
  deriving DecidableEq, Repr, Inhabited

/-- An L1 copy of a line under its lease, or a replica in a slice (R50, R57, R68). `unit` is the core, or the die for a replica; `hurt` lists the poisoned blocks it
was granted with (R382), and `age` is the insertion age of its class (R363). -/
structure Copy where
  unit : Nat
  line : Nat
  expiry : Nat
  bytes : Sparse Byte
  hurt : List Nat
  age : BitVec 2
  deriving DecidableEq, Repr, Inhabited

/-- A commutative partial of a core: the folded words of one line (R63). -/
structure Partial where
  core : Nat
  line : Nat
  op : CommOp
  words : Sparse Word
  deriving DecidableEq, Repr, Inhabited

/-- What the home keeps of a line: lease horizon, W of the last write, the end of the code 0 span, the registered partial
holders (R63, R68, R69). -/
structure Line where
  horizon : Nat
  w : Nat
  hot : Nat
  holders : List Nat
  deriving DecidableEq, Repr, Inhabited

/-- The home of a 64 KiB granule when it is not the storage die's own unmoved granule (R53 to R55). `horizon` is the one a move transferred (R86). -/
structure Granule where
  home : Nat
  movedAt : Nat
  horizon : Nat
  moving : Option Nat
  counts : Sparse (BitVec 8)
  deriving DecidableEq, Repr, Inhabited

/-- A forwarding pointer kept for 1 ms after a move (R54, R55). -/
structure Forward where
  die : Nat
  gran : Nat
  dest : Nat
  until_ : Nat
  deriving DecidableEq, Repr, Inhabited

/-- A translation held by a TLB (R364). `unit` is a bench 0–4095, or 4096 + a quad. -/
structure TlbEntry where
  unit : Nat
  asid : Nat
  va : Nat
  szlg : Nat
  pa : Nat
  r : Bool
  w : Bool
  x : Bool
  u : Bool
  cls : BitVec 4
  fattr : BitVec 6
  lock : Bool
  deriving DecidableEq, Repr, Inhabited

/-- Copy command states (R128). -/
inductive CopyStage where
  | queued | ringWait | walking
  deriving DecidableEq, Repr, Inhabited

/-- A command of a core's copy engine (R124 to R128). -/
structure CopyCmd where
  id : Nat
  op : Nat
  gid : Nat
  team : Nat
  core : Nat
  bar : Nat
  d : List DWord
  pc : DWord
  priv : Bool
  stage : CopyStage
  slot : Option Nat
  at_ : Nat
  faulted : Bool
  deriving DecidableEq, Repr, Inhabited

/-- Reservation table states other than FREE (R117). -/
inductive TaskStage where
  | waiting | ready | active | draining
  deriving DecidableEq, Repr, Inhabited

/-- A reservation table entry of a quad's matrix engine (R116). -/
structure Task where
  id : Nat
  op : Nat
  gid : Nat
  lanes : QWord
  pc : DWord
  team : Nat
  quad : Nat
  core : Nat
  kind : TileOp
  t : List DWord
  seed : DWord
  phase0 : Bool
  phase1 : Bool
  stage : TaskStage
  pass : Nat
  since : Nat
  poisoned : Bool
  deriving DecidableEq, Repr, Inhabited

/-- What the array of a quad's matrix engine keeps (R120): the task it runs, the M × N accumulators of its C row by row, and whether all were written without being read,
which clears the poison of the blocks they fill when they go back to CBUF (R382). -/
structure Accu where
  quad : Nat
  task : Nat
  words : List Nat
  clean : Bool
  deriving DecidableEq, Repr, Inhabited

/-- The state of one core that belongs to no team; a byte listed in `dirty` has its value in bits 7 to 0, bit 8 set, 1 + its
place in a T6 page's block of 12 in bits 12 to 9, 0 on other pages, and bit 13 set when it is poisoned (R58, R247, R382). `testDue` is the GTIME at which its self-test fell
due, `testAt` that at which it began, `tested` that of the last turn of the core in the rotation, and `ran` lists the launches that had a team here, each with the last GTIME; `owners` names the context for which a line of code was last fetched, and `pfis` lists the bench, context and address of each PFI
line whose translation is awaited (R50, R180, R207, R339, R341, R383,
R401). -/
structure Core where
  dirty : Sparse (BitVec 16)
  pfdrop : DWord
  icache : List Nat
  fills : List Nat
  owners : List (Nat × Nat)
  pfis : List (Nat × Nat × DWord)
  l0a : List Nat
  l0b : List Nat
  maxW : Nat
  testDue : Option Nat
  testAt : Option Nat
  tested : Nat
  trace : Option (DWord × Nat × Nat)
  ran : List (Nat × Nat)
  deriving DecidableEq, Repr, Inhabited

/-- One compute die (R158, R363, R368 to R372, R397). `state` is the discovery structure's STATE, `up` says that H0 brought it up and that no later stage has failed since its reset,
`dtype` the role its IDENT gave, `times` lists the time messages on their
way to it with the port they come over, and `victims` lists the clusters that its last pre-emption
chose (R350). -/
structure Die where
  state : Nat
  inc : BitVec 16
  gofs : Int
  skew : Bool
  cycle0 : Nat
  classes : List DWord
  claims : List (Nat × Nat)
  rsn : BitVec 32
  rsnDrops : Nat
  jdpDrops : Nat
  serial : DWord
  links : Sparse (BitVec 6)
  ready : List Nat
  keys : List (BitVec 256 × Bool)
  secver : BitVec 32
  verified : Option Signed
  log : List (List DWord)
  lost : Nat
  up : Bool
  dtype : Nat
  times : List (Nat × Nat)
  halved : Nat
  seen : Sparse (BitVec 16)
  acks : Sparse (BitVec 32)
  victims : List Nat
  deriving DecidableEq, Repr, Inhabited

/-- A die that is no compute die: a hub 16 or 17, an integrator's I/O die 18 to 31, or the die behind a memory port, 32 to 63 (R367 to R371). `ident` is the payload that its
IDENT brought. -/
structure Outer where
  num : Nat
  state : Nat
  inc : BitVec 16
  serial : DWord
  ident : BitVec 128
  links : Sparse (BitVec 6)
  ready : List Nat
  keys : List (BitVec 256 × Bool)
  secver : BitVec 32
  verified : Option Signed
  deriving DecidableEq, Repr, Inhabited

/-- A function store record (R132), in its way of the L2 (R131). -/
structure FRec where
  die : Nat
  slice : Nat
  set : Nat
  way : Nat
  handle : Nat
  asid : Nat
  n : Nat
  m : Nat
  ins : BitVec 32
  hit : BitVec 32
  key : DWord
  x0 : List Word
  rad : List Word
  y0 : List Word
  jac : List Word
  deriving DecidableEq, Repr, Inhabited

/-- A lookup of one lane (R135, R300), with its routine's descriptor. `ans` is the answer once the slice has given it: the results of a hit, or none for a miss. -/
structure FLookup where
  id : Nat
  bundle : Nat
  gid : Nat
  lane : Nat
  die : Nat
  slice : Nat
  set : Nat
  key : DWord
  handle : Nat
  asid : Nat
  desc : BitVec 1024
  x : List Word
  probe : Option (BitVec 4)
  next : DWord
  entry : DWord
  ans : Option (Option (List Word))
  deriving DecidableEq, Repr, Inhabited

/-- An insert of one lane on its way to its slice, with its routine's descriptor (R137, R138). -/
structure FInsert where
  id : Nat
  gid : Nat
  lane : Nat
  die : Nat
  core : Nat
  slice : Nat
  set : Nat
  key : DWord
  handle : Nat
  asid : Nat
  desc : BitVec 1024
  x : List Word
  f : List Word
  j : List Word
  deriving DecidableEq, Repr, Inhabited

/-- An operation that holds a bundle until every die, TLB or group has answered (R142, R281, R285 to R293), or an ATS invalidation that drains (R365, R366). -/
inductive WaitKind where
  | finval (asid handle : Nat)
  | shoot (kind : Nat) (asid : Nat) (va : DWord)
  | purge (tag : Nat)
  | snap
  | ats (asid : Nat) (va : DWord) (szlg : Nat)
  deriving DecidableEq, Repr, Inhabited

/-- Such an operation: who is held, where the lanes go on, which dies or TLBs still owe an answer, and the last number before the step at a TLB that waits for older accesses (R366). -/
structure Waiter where
  id : Nat
  gid : Nat
  lanes : QWord
  next : DWord
  kind : WaitKind
  owed : List Nat
  marks : List (Nat × Nat) := []
  deriving DecidableEq, Repr, Inhabited

/-- A replayed object at its log home (R144, R145, R153 to R155). `mtab` holds entries, MUT, NARGS and NRES; `digests` lists a die, a checkpoint and
its digest, and `firstDigest` when the first of each undecided checkpoint arrived; `minority` lists each die found in a minority with the first and last SEQ of
the range the verdict covers. -/
structure Obj where
  id : Nat
  handle : Nat
  asid : Nat
  desc : BitVec 512
  mtab : List (DWord × Bool × Nat × Nat)
  next : Nat
  trim : Nat
  agreed : Option Nat
  reports : Sparse Nat
  digests : List (Nat × Nat × DWord)
  firstDigest : List (Nat × Nat)
  minority : List (Nat × Nat × Nat)
  failed : Bool
  deriving DecidableEq, Repr, Inhabited

/-- One die's copy of an object's state block (R144, R151, R154, R279). A copy that has stopped applying holds in `resync` the first checkpoint it may
load once that is agreed; `sent` lists the checkpoints whose digests are on their way to the log home, each with the state it was taken of. -/
structure ObjCopy where
  die : Nat
  obj : Nat
  bytes : Sparse Byte
  applied : Nat
  ckBytes : Sparse Byte
  ckSeq : Option Nat
  sent : List (Nat × Sparse Byte)
  resync : Option Nat
  traps : BitVec 32
  resyncs : BitVec 32
  idleSince : Nat
  deriving DecidableEq, Repr, Inhabited

/-- Where an object call stands (R146 to R148). -/
inductive CallStage where
  | asked | held | numbered (seq : Nat) | tail (t : Nat) | running (t : Nat)
  deriving DecidableEq, Repr, Inhabited

/-- One OCALL or OSYNC of one lane (R146, R277): its caller's lane, group slot, core and die (R150), and the die `on` whose copy it runs on (R394). -/
structure Call where
  id : Nat
  gid : Nat
  lane : Nat
  slot : Nat
  core : Nat
  die : Nat
  on : Nat
  obj : Nat
  sync : Bool
  method : Nat
  args : List DWord
  stage : CallStage
  at_ : Nat
  tries : Nat
  deriving DecidableEq, Repr, Inhabited

/-- Replies of an owner to a numbered operation (R157, R158). -/
inductive Reply where
  | result (val : QWord) (w : Nat)
  | held
  | busy
  | stale
  | noAtomic
  | contention
  deriving DecidableEq, Repr, Inhabited

/-- What a numbered operation carries (R156); `peer` is an access of a peer module, which its frame performs (R376). -/
inductive Numbered where
  | atom (r : Req)
  | append (call : Call)
  | launch (lid : Nat)
  | flush (r : Req)
  | peer
  deriving DecidableEq, Repr, Inhabited

/-- A numbered operation of a die's ROU (R157, Table 7). `dst` is the die that first receives it, `copies` counts the copies sent, `replies` holds the replies
on their way back with the copy each answers, `answers` counts the frames a peer has answered (R376), and `lastBusy` says that the copy sent last was answered BUSY. -/
structure Rop where
  id : Nat
  die : Nat
  rsn : BitVec 32
  reqinc : BitVec 16
  owninc : BitVec 16
  dst : Nat
  rqtag : Nat
  what : Numbered
  isHeld : Bool
  start : Nat
  sentAt : Nat
  copies : Nat
  lastBusy : Bool
  replies : List (Nat × Reply)
  answers : Nat
  deriving DecidableEq, Repr, Inhabited

/-- The header of a JDP message, field by field (R371, Table 4). -/
structure Jdp where
  src : BitVec 6
  dst : BitVec 6
  cls : BitVec 3
  opc : BitVec 8
  reqid : BitVec 8
  rsn : BitVec 32
  owninc : BitVec 16
  reqinc : BitVec 16
  addr : BitVec 52
  asid : BitVec 12
  stamp : BitVec 64
  rqtag : BitVec 16
  plen : BitVec 16
  ackw : BitVec 32
  deriving DecidableEq, Repr, Inhabited

/-- A copy of a numbered request on its way, with the header of its message and what it carries (R156, R371); it stands before die `at_`, or hub 16 or 17. -/
structure RMsg where
  rop : Nat
  copy : Nat
  at_ : Nat
  hdr : Jdp
  what : Numbered
  deriving DecidableEq, Repr, Inhabited

/-- A receipt (R158). `done` is none while EXECUTING; the owner executes `what`, and a port's CAS loop keeps its tries and the value it last saw (R161). `place` is
its place in its slice's input queue, 0 for none, and `aside` says that it left the queue to wait for its line (R297, R64). -/
structure Receipt where
  owner : Nat
  reqid : Nat
  rsn : BitVec 32
  reqinc : BitVec 16
  rop : Nat
  copy : Nat
  what : Numbered
  done : Option Reply
  at_ : Nat
  place : Nat
  aside : Bool
  casTries : Nat
  casSeen : QWord
  deriving DecidableEq, Repr, Inhabited

/-- A launch: its record, its context, who launched it, the dies that still owe an answer to the launcher, those the record has
reached and those that queued it or held it waiting for a slot when a purge took it, the core each team last occupied by `TEAMLIN` (plus 1), and how its grid ends:
`recOwed` while its completion record is still to be written (R280, R343, R351, R353). -/
structure Grid where
  lid : Nat
  record : BitVec 2048
  asid : Nat
  by_ : Nat
  sd : Nat
  pc : DWord
  owed : List Nat
  arrived : List Nat
  queued : List Nat
  places : Sparse Nat
  reported : List Nat
  maxW : Nat
  teamsDone : Nat
  state : Nat
  cause : Nat
  unit : BitVec 32
  faultrec : DWord
  wrote : Bool
  recOwed : Bool
  msix : Bool
  rollbacks : Nat
  deriving DecidableEq, Repr, Inhabited

/-- A launch slot of a die (R345 to R350). `preds` latches the predecessors observed true; `first`, `next` and `last` bound the die's clusters, `scan` is the next
scan index, `done` counts its retired teams, `entries` holds the curve-table entries read, and `claim` lists the cores that a pre-emption frees for it. -/
structure LSlot where
  die : Nat
  lid : Nat
  at_ : Nat
  preds : List Bool
  first : Nat
  next : Nat
  last : Nat
  scan : Nat
  done : Nat
  entries : List Nat
  claim : List Nat
  deriving DecidableEq, Repr, Inhabited

/-- A privileged fault for the headframe core (R360, R361). `walk` is the copy command of a walk condition, 0 otherwise. -/
structure PFault where
  id : Nat
  gid : Nat
  walk : Nat
  cause : Cause
  access : Nat
  replay : Bool
  tout : Nat
  level : Nat
  asid : Nat
  rqtag : Nat
  pc : DWord
  addr : DWord
  lanes : QWord
  unit : BitVec 32
  gslot : Nat
  bench : Nat
  time : Nat
  rsn : BitVec 32
  rcause : Nat
  recVA : DWord
  written : Bool
  deriving DecidableEq, Repr, Inhabited

/-- A context (R355) as the headframe core reads it from memory when the context starts, and its count of fault records. -/
structure Ctx where
  asid : Nat
  va : DWord
  desc : BitVec 1024
  faultN : Nat
  deriving DecidableEq, Repr, Inhabited

/-- A context slot of BAR 0 (R379, Table 11). -/
structure HSlot where
  ctxdesc : DWord
  cmdrec : DWord
  status : DWord
  lid : Nat
  deriving DecidableEq, Repr, Inhabited

/-- What the module sends or answers to the outside (R37, R352, R361, R365, R369, R372, R374 to R379, R393, R396, R397). -/
inductive Out where
  | bar0 (hub off : Nat) (x : DWord)
  | bar2 (pa : DWord) (bytes : List Byte)
  | bar4 (hub off : Nat) (x : Word)
  | atomic (pa : DWord) (old : QWord)
  | unsupported (pa : DWord)
  | msix (v : Nat)
  | ident (die port : Nat) (payload : BitVec 128)
  | time (die port : Nat) (hdr : BitVec 384)
  | measurement (ix : Nat) (digest : BitVec 256) (signature : List Byte)
  | telemetry (island : Nat) (x : DWord) (clock : Nat) (counts : List Nat)
  | readout (bytes : List Byte)
  | refused
  | badFrame (unit : BitVec 32)
  | translation (pasid : BitVec 20) (va : DWord)
  | page (pasid : BitVec 20) (va : DWord) (write : Bool)
  | invalidated (asid : Nat) (va : DWord)
  | errlog (die ix : Nat) (entry : List DWord)
  | hostAtomic (hub rop : Nat) (pasid : BitVec 20) (pa n : Nat) (op : Access) (cmp new : QWord)
  | hostRead (pasid : BitVec 20) (pa n : Nat)
  | hostWrite (pasid : BitVec 20) (pa : Nat) (data mask : QWord)
  | peer (hub : Nat) (hdr : BitVec 384) (data : List Byte)
  deriving DecidableEq, Repr, Inhabited

/-- The hub dies, boot and the host's view (R352, R367 to R370, R375 to R379, R400). `stage` is the last boot stage passed, `disc` the die that published the discovery structure, `update` the image
that a firmware update is writing, `fresh` says that the inactive firmware slot was updated since the last reset and `trial` that the running image has not come up yet,
`clash` that two dies reported one STRAP; `mirror` is the discovery structure as published. `identAt` keeps 1 + the time at which each port, 64 × die + port, sent IDENT last, and
`timeAt` that of the last time messages. `table` is the MSI-X table of each hub in words, `runs` and `ide` are the states of the TDISP interface and of link encryption, and `device` is
the hubs' device key. -/
structure Hub where
  stage : Nat
  up0 : Bool
  enabled : Bool
  disc : Option Nat
  mirror : List DWord
  identAt : Sparse Nat
  timeAt : Nat
  slots : List (Nat × HSlot)
  vectors : Nat
  msixOn : Bool
  table : Sparse Word
  pendingV : List Nat
  runs : Bool
  ide : Bool
  device : BitVec 256
  update : Option Signed
  trial : Bool
  fwA : Option Signed
  fwB : Option Signed
  runsB : Bool
  keys : List (BitVec 256 × Bool)
  secver : BitVec 32
  measures : List (Nat × BitVec 256)
  seen : Sparse (BitVec 16)
  acks : Sparse (BitVec 32)
  drops : Sparse Nat
  jdpDrops : Nat
  fresh : Bool
  clash : Bool
  deriving DecidableEq, Repr, Inhabited

/-- A management request at H0 (R395): a command of the table, or a read of a team's buffer, of a lane's registers, or of L2 bytes that a context's address names. -/
inductive Ask where
  | command (i : Instr)
  | buffer (team region off n : Nat)
  | registers (gid lane reg n : Nat)
  | bytes (asid : Nat) (va : DWord) (n : Nat)
  deriving DecidableEq, Repr, Inhabited

/-- A RESTORE whose test runs (R402): its unit, when the test began, and its verdict so far. -/
structure Restoring where
  unit : BitVec 32
  at_ : Nat
  passed : Bool
  deriving DecidableEq, Repr, Inhabited

/-- Management state (R383, R395 to R402): the requests that wait at H0 in arrival order, the cap in watts, that of the next window and when this window began, and, by island, the
core clock in MHz, the readings and when they were taken, 1 + the time of its last step down by heat, and the current in amperes as last reported; `passed` lists the time of each
unit's last passed self-test, and `restoring` the tests of RESTORE. -/
structure Mgmt where
  queue : List Ask
  cap : Nat
  capNext : Nat
  windowAt : Nat
  clocks : Sparse Nat
  readings : Sparse DWord
  readAt : Sparse Nat
  hotSince : Sparse Nat
  amps : Sparse Nat
  quarantine : List (BitVec 32)
  passed : Sparse Nat
  restoring : List Restoring
  deriving DecidableEq, Repr, Inhabited

/-- Where the codes of R381 find an error that they cannot correct: a lane's or a group's register, a block of a team's buffer or of its constant bank, a line of a core's L1 or
instruction cache, a function store record, a copy of an object's state block, a receipt cache, claim map or reservation table, a link, or a port. -/
inductive Upset where
  | vector (gid lane reg : Nat)
  | scalar (gid reg : Nat)
  | buffer (team region off : Nat)
  | l1 (core pa : Nat)
  | code (core line : Nat)
  | record (die slice set : Nat) (key : DWord)
  | object (die obj : Nat)
  | control (die : Nat)
  | port (unit : BitVec 32)
  deriving DecidableEq, Repr, Inhabited

/-- What acts on the machine from outside its instructions and steps (log 22, log 25): the shadow of an assay group reaches its oldest instruction, with the register results
it writes and what it would send, or the second run of a pass ends with other accumulators (R384, R385); an error is found (R381); a management request arrives (R395); the host
reads or writes BAR 0 and BAR 4, sets up MSI-X, or moves the TDISP interface (R375, R378, R379). -/
inductive Outside where
  | shadow (gid : Nat) (wrote : List (Nat × Nat × DWord)) (sent : List Scb)
  | pass (quad : Nat) (again : List Nat)
  | upset (u : Upset)
  | ask (a : Ask)
  | bar0Read (hub off : Nat)
  | bar4Read (hub off : Nat)
  | bar4Write (hub off : Nat) (x : Word)
  | msix (on : Bool) (n : Nat)
  | tdisp (runs ide : Bool)
  deriving DecidableEq, Repr, Inhabited

/-- Which agent moves next (log 1). `second` is the secondary bundle of the core cycle's issue (R18). `lag` is a core cycle in which no shadow group keeps up (log 21). An `event` is a constructor of `Instr` that is a step of an agent other than a bench. -/
inductive Turn where
  | event (i : Instr)
  | issue (bench : Nat)
  | second (gid : Nat) (lanes : QWord) (pc : DWord)
  | tick
  | lag
  | outside (o : Outside)
  deriving DecidableEq, Repr, Inhabited

/-- The bundle that issues: its lanes, their common PC, and whether it is the secondary of its core cycle (R14, R17). -/
structure Bundle where
  lanes : QWord
  pc : DWord
  secondary : Bool
  deriving DecidableEq, Repr, Inhabited

/-- The whole module. `grp` is the group whose bundle issues, kept apart from the other resident groups `groups`; its team,
core and die are looked up by number, and `asked` lists the context and 64 KiB page of each ATS request that waits for its answer (R365). `agenda`, `turn`, `free` and `nextId` are the model's own (log 1, log 2, log 6). -/
structure State where
  cycle : Nat
  grp : Group
  bundle : Bundle
  groups : List Group
  teams : List Team
  clusters : List Cluster
  parked : List Parked
  grids : List Grid
  lslots : List LSlot
  ctxs : List Ctx
  mem : List Host.Cell
  poison : List Nat
  sources : List (Nat × BitVec 32)
  copies : List Copy
  replicas : List Copy
  partials : List Partial
  lines : List (Nat × Line)
  granules : List (Nat × Granule)
  forwards : List Forward
  reqs : List Req
  monitors : List Monitor
  tlbs : List TlbEntry
  asked : List (Nat × Nat)
  pwc : List (Nat × Nat × Nat × Nat × Nat)
  cores : List (Nat × Core)
  copyq : List CopyCmd
  tasks : List Task
  arrays : List Accu
  dies : List Die
  outer : List Outer
  frecs : List FRec
  ecnt : Sparse (BitVec 32)
  fcnt : List ((Nat × Nat × Nat × Nat) × BitVec 32)
  lookups : List FLookup
  inserts : List FInsert
  waiters : List Waiter
  objs : List Obj
  ocopies : List ObjCopy
  calls : List Call
  rops : List Rop
  rmsgs : List RMsg
  receipts : List Receipt
  faults : List PFault
  hub : Hub
  mgmt : Mgmt
  hostMode : Bool
  out : List Out
  nextId : Nat
  free : Nat
  agenda : List Turn
  turn : Nat
  deriving DecidableEq, Repr, Inhabited

/-- A group with no lanes: what `State.grp` holds while no group has issued (log 27). -/
def Group.none : Group :=
  { uid := 0, team := 0, gid := 0, bench := 0, slot := 0, order := 0, width := 64, vcount := 32, lanes := [], s := [],
    pendS := [], markedS := [], fmode := 0, jointo := 0x10, sseed := [], trapen := 0, trapv := 0, tpc := 0, tfpc := 0, tmask := 0,
    tmaskhi := 0, tcause := 0, tdst := 0, utrap := false, wct := 0, ops := [], eps := [], rels := [], pcause := 0,
    ctxrec := 0, pscr := [], since := .none, yieldTo := 0, preempt := false, aside := false, isParked := false, withdrawn := [],
    method := .none, logged := 0, log := [], lvq := [], scb := [], hurt := [], held := [], marks := [] }

/-- The reset value of a class table entry (R363, Table 5): WAYMASK 0x3FFF, LEASE 1 and REPL 1. -/
def classReset : DWord := 0x3FFF * 4 + 1 * 0x80000 + 1 * 0x200000

/-- The class table after reset: entry 0 also holds FSMASK 0xC000, which is reserved in the others (R363). -/
def classesReset : List DWord := (classReset + 0xC000 * 0x400000) :: List.replicate 15 classReset

/-- The four fused key slots of an unprogrammed die: digest 0, not revoked (R367, log 5). -/
def fuses : List (BitVec 256 × Bool) := List.replicate 4 (0, false)

/-- A die after module reset: absent until boot brings it up (R368, R370). -/
def Die.reset : Die :=
  { state := 0, inc := 1, gofs := 0, skew := false, cycle0 := 0, classes := classesReset, claims := [],
    rsn := 1, rsnDrops := 0, jdpDrops := 0, serial := 0, links := [], ready := [], keys := fuses, secver := 0,
    verified := .none, log := [], lost := 0, up := false, dtype := 0, times := [], halved := 0, seen := [], acks := [], victims := [] }

/-- The hubs after module reset (R368). -/
def Hub.reset : Hub :=
  { stage := 0, up0 := false, enabled := false, disc := .none, mirror := [], identAt := [], timeAt := 0, slots := [], vectors := 0, msixOn := false,
    table := [], pendingV := [], runs := false, ide := false, device := 0, update := .none, trial := false, fwA := .none, fwB := .none, runsB := false, keys := fuses, secver := 0, measures := [],
    seen := [], acks := [], drops := [], jdpDrops := 0, fresh := false, clash := false }

/-- Management state after module reset: the design point as cap and every island at the nominal clock (R2, R398). -/
def Mgmt.reset : Mgmt :=
  { queue := [], cap := 15000, capNext := 15000, windowAt := 0, clocks := [], readings := [], readAt := [], hotSince := [], amps := [], quarantine := [], passed := [],
    restoring := [] }

/-- The module right after reset: nothing placed, no memory listed, every die still in reset (R368). -/
def State.reset : State :=
  { cycle := 0, grp := Group.none, bundle := { lanes := 0, pc := 0, secondary := false }, groups := [], teams := [],
    clusters := [], parked := [], grids := [], lslots := [], ctxs := [], mem := [], poison := [], sources := [], copies := [],
    replicas := [], partials := [], lines := [], granules := [], forwards := [], reqs := [], monitors := [], tlbs := [], asked := [],
    pwc := [], cores := [], copyq := [], tasks := [], arrays := [], dies := List.replicate 16 Die.reset, outer := [], frecs := [],
    ecnt := [], fcnt := [], lookups := [], inserts := [], waiters := [], objs := [], ocopies := [], calls := [], rops := [], rmsgs := [],
    receipts := [], faults := [], hub := Hub.reset, mgmt := Mgmt.reset, hostMode := false, out := [], nextId := 1,
    free := 0, agenda := [], turn := 0 }

end Sys2Proof.Machine
end

