-- ==== Sys2Proof/Machine/Ops.lean ====
section
/-! DEFINITION. The named operations every meaning is built from: sparse data, lanes and registers, lookups, the clock, raising a
privileged fault (R183, R360), user traps (R32, R33), and privileged entry and its return (R358, R359). -/

namespace Sys2Proof.Machine

/-- What a step answers. -/
abbrev Out3 := Host.Outcome State Fault Refusal

/-! Sparse data in canonical form -/

/-- The value at a key; an unlisted key reads as `d`. -/
def sget {β : Type} (d : β) : Sparse β → Nat → β
  | [], _ => d
  | (a, x) :: m, k => if a = k then x else sget d m k

/-- Sets the value at a key, keeping keys rising and listing no entry equal to `d`. -/
def sput {β : Type} [DecidableEq β] (d : β) : Sparse β → Nat → β → Sparse β
  | [], k, x => if x = d then [] else [(k, x)]
  | (a, y) :: m, k, x =>
    if k < a then (if x = d then (a, y) :: m else (k, x) :: (a, y) :: m)
    else if k = a then (if x = d then m else (k, x) :: m)
    else (a, y) :: sput d m k x

/-- True when keys rise strictly above `lo` and no entry equals `d`. -/
def swfFrom {β : Type} [DecidableEq β] (d : β) : Nat → Sparse β → Bool
  | _, [] => true
  | lo, (a, x) :: m => decide (lo ≤ a) && decide (x ≠ d) && swfFrom d (a + 1) m

/-- The canonical form of sparse data. -/
def swf {β : Type} [DecidableEq β] (d : β) (m : Sparse β) : Bool := swfFrom d 0 m

/-- Canonical form of memory: addresses strictly rising and no listed byte equal to what an unlisted address reads as. -/
def Memory.wf (m : List Host.Cell) : Bool := swf (0 : Byte) m

/-- What a byte of memory that nothing has written reads as (log 4). -/
def Memory.unwritten : Byte := 0

/-- One byte. -/
def rdByte (m : Sparse Byte) (a : Nat) : Byte := sget Memory.unwritten m a

/-- Stores one byte. -/
def wrByte (m : Sparse Byte) (a : Nat) (x : Byte) : Sparse Byte := sput Memory.unwritten m a x

/-- `n` bytes from address `a` as a little-endian value. -/
def rdBytes (m : Sparse Byte) : Nat → Nat → Nat
  | _, 0 => 0
  | a, n + 1 => (rdByte m a).toNat + 256 * rdBytes m (a + 1) n

/-- Stores `n` bytes of a little-endian value at address `a`. -/
def wrBytes (m : Sparse Byte) (a : Nat) : Nat → Nat → Sparse Byte
  | 0, _ => m
  | n + 1, x => wrBytes (wrByte m a (BitVec.ofNat 8 x)) (a + 1) n (x / 256)

/-- Stores a byte list at address `a`. -/
def wrList (m : Sparse Byte) (a : Nat) : List Byte → Sparse Byte
  | [] => m
  | b :: bs => wrList (wrByte m a b) (a + 1) bs

/-! Lists of records -/

/-- Applies `f` to every record that satisfies `p`. -/
def updBy {α : Type} (p : α → Bool) (f : α → α) (l : List α) : List α := l.map (fun x => if p x then f x else x)

/-- The first record that satisfies `p`. -/
def findBy {α : Type} (p : α → Bool) (l : List α) : Option α := l.find? p

/-- Applies `f` to the first record that satisfies `p`. -/
def updFirst {α : Type} (p : α → Bool) (f : α → α) : List α → List α
  | [] => []
  | x :: xs => if p x then f x :: xs else x :: updFirst p f xs

/-! Lanes -/

/-- Applies `f` to every lane with its number, from number `i` on. -/
def mapLanes (f : Nat → Lane → Lane) : Nat → List Lane → List Lane
  | _, [] => []
  | i, x :: xs => f i x :: mapLanes f (i + 1) xs

/-- The lanes with their numbers, from number `i` on. -/
def numbered : Nat → List Lane → List (Nat × Lane)
  | _, [] => []
  | i, x :: xs => (i, x) :: numbered (i + 1) xs

/-- Predicate n of a lane; p0 reads true (R7). -/
def Lane.pred (x : Lane) (n : Nat) : Bool := n == 0 || x.preds.getLsbD n

/-- Writes a predicate; a write to p0 is discarded (R7). -/
def Lane.setPred (x : Lane) (n : Nat) (b : Bool) : Lane :=
  if n = 0 then x else
    let m : BitVec 16 := BitVec.ofNat 16 (2 ^ n)
    { x with preds := if b then x.preds ||| m else x.preds &&& ~~~m }

/-- Vector register n of a lane (R7). -/
def Lane.reg (x : Lane) (n : Nat) : Word := sget 0 x.v n

/-- Writes a vector register. -/
def Lane.setReg (x : Lane) (n : Nat) (w : Word) : Lane := { x with v := sput 0 x.v n w }

/-- A pair, low word in the lower register (R89). -/
def Lane.pair (x : Lane) (n : Nat) : DWord := x.reg (n + 1) ++ x.reg n

/-- Writes a pair. -/
def Lane.setPair (x : Lane) (n : Nat) (w : DWord) : Lane := (x.setReg n (w.setWidth 32)).setReg (n + 1) ((w >>> 32).setWidth 32)

/-- Writes `n` registers from register `r` with the words of a value, low word first. -/
def Lane.setWords (x : Lane) (r : Nat) : Nat → Nat → Lane
  | 0, _ => x
  | n + 1, w => (x.setReg r (BitVec.ofNat 32 w)).setWords (r + 1) n (w / 2 ^ 32)

/-- The words of `n` registers from register `r` as one value. -/
def Lane.words (x : Lane) (r : Nat) : Nat → Nat
  | 0 => 0
  | n + 1 => (x.reg r).toNat + 2 ^ 32 * x.words (r + 1) n

/-- A held lane is released in core cycle `now` and goes on at `next`, issuing in the next core cycle at the earliest (R26). -/
def Lane.wake (x : Lane) (now : Nat) (next : DWord) : Lane := { x with st := .eligible, hold := .none, pc := next, free := now + 1 }

/-- True for a lane of the issuing bundle (R14). -/
def State.inBundle (s : State) (l : Nat) : Bool := s.bundle.lanes.getLsbD l

/-- `guard(l)` of R183. -/
def guardOf (gd : Guard) (x : Lane) : Bool := xor (x.pred gd.p.toNat) gd.neg

/-- True for a guard-true lane of the bundle. -/
def State.active (s : State) (gd : Guard) (l : Nat) (x : Lane) : Bool := s.inBundle l && guardOf gd x

/-- Replaces the issuing group's lanes by `f` of each. -/
def State.onLanes (s : State) (f : Nat → Lane → Lane) : State :=
  { s with grp := { s.grp with lanes := mapLanes f 0 s.grp.lanes } }

/-- Every lane of the bundle moves past the instruction. -/
def State.advance (s : State) (len : Nat) : State :=
  s.onLanes (fun l x => if s.inBundle l then { x with pc := x.pc + BitVec.ofNat 64 len } else x)

/-- A lane-wise instruction: every lane of the bundle moves past it, and each guard-true lane makes the change `h`, all of whose
reads are of the state before (R183, R185). -/
def State.lanewise (s : State) (f : Fields) (h : Nat → Lane → Lane) : State :=
  s.onLanes (fun l x =>
    if s.inBundle l then
      let y := if guardOf f.gd x then h l x else x
      { y with pc := x.pc + BitVec.ofNat 64 f.form.len }
    else x)

/-- The guard-true lanes of the bundle in ascending order, with their numbers. -/
def State.actives (s : State) (gd : Guard) : List (Nat × Lane) :=
  (numbered 0 s.grp.lanes).filter (fun p => s.active gd p.1 p.2)

/-- The lanes of the bundle in ascending order. -/
def State.bundleLanes (s : State) : List (Nat × Lane) := (numbered 0 s.grp.lanes).filter (fun p => s.inBundle p.1)

/-- `elect()` of R183: the lowest guard-true lane of the bundle. -/
def State.elect (s : State) (gd : Guard) : Option (Nat × Lane) := (s.actives gd).head?

/-- True when some lane of the bundle has a true guard. -/
def State.anyActive (s : State) (gd : Guard) : Bool := (s.elect gd).isSome

/-- The mask with a bit set for each listed lane. -/
def maskOf (l : List Nat) : QWord := l.foldl (fun m i => m ||| BitVec.ofNat 128 (2 ^ i)) 0

/-- The mask of the guard-true lanes of the bundle. -/
def State.activeMask (s : State) (gd : Guard) : QWord := maskOf ((s.actives gd).map (fun p => p.1))

/-- Lane `l` of the issuing group. -/
def State.laneAt (s : State) (l : Nat) : Lane := s.grp.lanes.getD l default

/-! Scalars of the issuing group (R7) -/

def Group.scl (g : Group) (n : Nat) : DWord := sget 0 g.s n
def State.scl (s : State) (n : Nat) : DWord := s.grp.scl n
def State.setScl (s : State) (n : Nat) (x : DWord) : State := { s with grp := { s.grp with s := sput 0 s.grp.s n x } }

/-! Who and where -/

/-- The group with number `u` among the resident groups. -/
def State.group (s : State) (u : Nat) : Option Group := if s.grp.uid = u then some s.grp else s.groups.find? (fun g => g.uid == u)

/-- Changes the group with number `u`, wherever it stands. -/
def State.onGroup (s : State) (u : Nat) (f : Group → Group) : State :=
  { s with grp := if s.grp.uid = u then f s.grp else s.grp, groups := updBy (fun g => g.uid == u) f s.groups }

/-- The team with number `u`. -/
def State.team (s : State) (u : Nat) : Team := (s.teams.find? (fun t => t.uid == u)).getD default

/-- The grid of a team. -/
def State.gridOf (s : State) (t : Team) : Grid := (s.grids.find? (fun g => g.lid == t.lid)).getD default

/-- True when a group runs in a context launched with the assay flag (R384). -/
def State.isAssay (s : State) (u : Nat) : Bool :=
  match s.group u with
  | some g => g.method.isNone && (s.gridOf (s.team g.team)).record.getLsbD 192
  | none => false

/-- Asks for a snapshot of the cluster of an assay group (R386). -/
def State.snapNote (s : State) (u : Nat) : State :=
  if s.isAssay u then
    let c := (s.team (((s.group u).map (fun g => g.team)).getD 0)).cluster
    { s with clusters := updBy (fun x => x.uid == c) (fun x => { x with snapDue := true }) s.clusters }
  else s

/-- Changes one lane of the group with number `u`. -/
def State.onLane (s : State) (u l : Nat) (f : Lane → Lane) : State :=
  s.onGroup u (fun g => { g with lanes := mapLanes (fun i x => if i = l then f x else x) 0 g.lanes })

/-- Every resident group. -/
def State.allGroups (s : State) : List Group := s.grp :: s.groups

/-- The issuing group's team. -/
def State.myTeam (s : State) : Team := s.team s.grp.team

/-- Changes the team with number `u`. -/
def State.onTeam (s : State) (u : Nat) (f : Team → Team) : State := { s with teams := updBy (fun t => t.uid == u) f s.teams }

/-- The die a group is on. -/
def State.dieOf (s : State) (g : Group) : Nat :=
  match g.method with
  | some m => m.die
  | none => (s.team g.team).die

/-- The core of the die a group is on. -/
def State.coreOf (s : State) (g : Group) : Nat := (s.team g.team).core

/-- A core's number in the module: 128 × die + core. -/
def State.unitOf (s : State) (g : Group) : Nat := s.dieOf g * Config.coresPerDie + s.coreOf g

/-- The issuing group's grid. -/
def State.myGrid (s : State) : Grid := s.gridOf s.myTeam

/-- The context with an ASID (R355). -/
def State.ctx (s : State) (asid : Nat) : Ctx := (s.ctxs.find? (fun c => c.asid == asid)).getD default

/-- A field of a bit record. -/
def bitsOf {n : Nat} (x : BitVec n) (lo w : Nat) : Nat := (x.extractLsb' lo w).toNat

/-- One bit of a bit record. -/
def bitAt {n : Nat} (x : BitVec n) (i : Nat) : Bool := x.getLsbD i

/-- The ASID under which a group runs. -/
def State.asidOf (s : State) (g : Group) : Nat :=
  match g.method with
  | some m => ((s.objs.find? (fun o => o.id == m.obj)).getD default).asid
  | none => (s.gridOf (s.team g.team)).asid

/-- The request tag of a grid's record (R343). -/
def Grid.rqtag (g : Grid) : Nat := bitsOf g.record 200 16

/-- The die with a number. -/
def State.die (s : State) (d : Nat) : Die := s.dies.getD d default

/-- Changes a die. -/
def State.onDie (s : State) (d : Nat) (f : Die → Die) : State := { s with dies := s.dies.modify d f }

/-- The state of a core that belongs to no team. -/
def State.core (s : State) (c : Nat) : Core := ((s.cores.find? (fun p => p.1 == c)).map (fun p => p.2)).getD default

/-- Changes a core, which is listed from its first change on. -/
def State.onCore (s : State) (c : Nat) (f : Core → Core) : State :=
  if s.cores.any (fun p => p.1 == c) then { s with cores := updBy (fun p => p.1 == c) (fun p => (p.1, f p.2)) s.cores }
  else { s with cores := s.cores ++ [(c, f default)] }

/-- A fresh number for a record of the model. -/
def State.fresh (s : State) : Nat × State := (s.nextId, { s with nextId := s.nextId + 1 })

/-! The clock (R2, R372, log 8) -/

/-- Ticks of the reference clock: 5 for every 6 core cycles. -/
def State.refTime (s : State) : Nat := s.cycle * Config.ticksPer6Cycles / 6

/-- `GTIME` of a die. -/
def State.gtime (s : State) (d : Nat) : Nat := ((s.refTime : Int) + (s.die d).gofs).toNat

/-- `now` of the issuing group (R183). -/
def State.now (s : State) : Nat := s.gtime (s.dieOf s.grp)

/-! Privileged faults -/

/-- What a fault record holds beside the group's own place (R360, Table 3). `from_` is the instruction REMOTE names (R158). -/
structure FaultInfo where
  cause : Cause
  access : Nat := 0
  tout : Nat := 0
  level : Nat := 0
  addr : DWord := 0
  rsn : BitVec 32 := 0
  rcause : Nat := 0
  from_ : Option DWord := none
  deriving DecidableEq, Repr, Inhabited

/-- FETCH and DATA with TOUT 1, 2 or 5 are replayable (R361). -/
def FaultInfo.replayable (x : FaultInfo) : Bool :=
  match x.cause with
  | .fetch => true
  | .data => x.tout == 1 || x.tout == 2 || x.tout == 5
  | _ => false

/-- CAUSE of a fault record (R360). -/
def Cause.code : Cause → Nat
  | .illegal => 1
  | .priv => 2
  | .regrange => 3
  | .pairing => 4
  | .fetch => 5
  | .data => 6
  | .align => 7
  | .bufrange => 8
  | .peergone => 9
  | .fmtstore => 10
  | .tagmismatch => 11
  | .btarget => 12
  | .remote => 13
  | .poison => 14
  | .storedesc => 15
  | .assay => 16

/-- A unit ID (R392). -/
def unitId (ty die ix : Nat) : BitVec 32 := BitVec.ofNat 32 (ty * 2 ^ 28 + die * 2 ^ 24 + ix)

/-- The unit ID of a core (R392). -/
def coreUnit (c : Nat) : BitVec 32 := BitVec.ofNat 32 (c / Config.coresPerDie * 2 ^ 24 + c % Config.coresPerDie)

/-- A group between a PREEMPT and its next RFT: results for it go to its context record (R159). -/
def State.away (s : State) (u : Nat) : Bool :=
  s.parked.any (fun p => p.groups.any (fun g => g.uid == u)) || ((s.group u).map (fun g => g.aside)).getD false

/-- A group keeps a result: of the REMOTE causes one for each lane and one for each scalar, the further destinations of a lane beside them (R159, R357). -/
def Group.hold (g : Group) (h : Held) : Group :=
  if h.kind = 4 ∧ g.held.any (fun k => k.kind == 4 && k.lane == h.lane && (decide (0x600 ≤ h.dst) == decide (0x600 ≤ k.dst)) && (decide (h.dst < 0x600) || k.dst == h.dst)) then
    (if h.dst < 0x600 then { g with marks := g.marks ++ (h.mark.map (fun m => (h.lane, m))).toList } else g)
  else { g with held := g.held ++ [h] }

/-- Keeps a result for an absent group (R159, R357). -/
def State.holdResult (s : State) (u : Nat) (h : Held) : State :=
  let add (g : Group) : Group := g.hold h
  { s.onGroup u add with
    parked := s.parked.map (fun p => { p with groups := updBy (fun g => g.uid == u) add p.groups }) }

/-- Writes the results of an object call to its lane: v8 to v11 hold the results, v12 the status (R146), or v12 alone for OSYNC
(R277). The destinations stop being pending. -/
def deliverCall (c : Call) (status cause : Nat) (res : List Word) (s : State) : State :=
  let st : Word := BitVec.ofNat 32 (status + 256 * cause)
  if s.away c.gid then
    s.holdResult c.gid
      { kind := if c.sync then 2 else 1, dst := if c.sync then 12 else 8, lane := c.lane,
        vals := if c.sync then [st] else (List.range 4).map (fun i => res.getD i 0) ++ [st], mark := none }
  else
  s.onLane c.gid c.lane (fun x =>
    let y := if c.sync then x
      else (((x.setReg 8 (res.getD 0 0)).setReg 9 (res.getD 1 0)).setReg 10 (res.getD 2 0)).setReg 11 (res.getD 3 0)
    { (y.setReg 12 st) with pend := y.pend.filter (fun p => p.src != c.id) })

/-- The unit ID of a die's replay engine (R392). -/
def replayUnit (die : Nat) : BitVec 32 := BitVec.ofNat 32 (6 * 2 ^ 28 + die * 2 ^ 24)

/-- A die whose replay engine is quarantined keeps no copy of an object once no call waits for one there (R154, R394, log 123). -/
def State.dropObjCopies (s : State) : State :=
  let kept (c : ObjCopy) : Bool := !s.mgmt.quarantine.contains (replayUnit c.die) || s.calls.any (fun k => k.on == c.die && k.obj == c.obj)
  { s with
    ocopies := updBy (fun c => !kept c) (fun c => { c with bytes := [], ckBytes := [], ckSeq := none, sent := [], resync := some (c.resync.getD 0) }) s.ocopies }

/-- Ends the method a replay engine runs (R151, R152): the state block is kept after ORET or restored from the undo record after a
trap, a mutating entry counts as applied, the caller on this die receives its result, and the engine is free. -/
def endMethod (m : Method) (trapCause : Nat) (res : List Word) (s : State) : State :=
  let trapped := trapCause ≠ 0
  let after (c : ObjCopy) : ObjCopy :=
    let kept := if trapped then m.undo else c.bytes
    let mark := m.mutates && m.seq % 1024 == 1023
    { c with
      bytes := kept, applied := if m.mutates then c.applied + 1 else c.applied, traps := if trapped then c.traps + 1 else c.traps,
      idleSince := s.cycle, ckBytes := if mark then kept else c.ckBytes, ckSeq := if mark then some m.seq else c.ckSeq,
      sent := if mark then c.sent ++ [(m.seq, kept)] else c.sent }
  let s1 := { s with ocopies := updBy (fun c => c.die == m.die && c.obj == m.obj) after s.ocopies }
  let s2 := match s1.calls.find? (fun c => c.id == m.call) with
    | some c =>
      let s3 := deliverCall c (if trapped then 1 else 0) trapCause (if trapped then [] else res)
        { s1 with calls := s1.calls.filter (fun c => c.id != m.call) }
      (if m.mutates then s3.snapNote c.gid else s3).dropObjCopies
    | none => s1
  { s2 with grp := { s2.grp with lanes := s2.grp.lanes.map (fun x => { x with st := .exited }) } }

/-- The method trap of a cause (R152, Table 6). -/
def methodTrap (cause : Nat) (m : Method) (s : State) : State := endMethod m cause [] s

/-- The fault record of the issuing bundle (R360). -/
def faultRecord (x : FaultInfo) (s : State) : PFault :=
  { id := s.nextId, gid := s.grp.uid, walk := 0, cause := x.cause, access := x.access, replay := x.replayable, tout := x.tout,
    level := x.level, asid := s.asidOf s.grp, rqtag := s.myGrid.rqtag, pc := x.from_.getD s.bundle.pc, addr := x.addr, lanes := s.bundle.lanes,
    unit := coreUnit (s.unitOf s.grp), gslot := s.grp.slot, bench := s.grp.bench % 2, time := s.now, rsn := x.rsn,
    rcause := x.rcause, recVA := 0, written := false }

/-- A refused translation leaves no entry once it has failed an access of a bench to its 64 KiB: the next access asks again (R364, R365). -/
def State.forgetPage (s : State) (bench asid va : Nat) : State :=
  { s with
    tlbs := s.tlbs.filter (fun e => !(e.szlg == 0 && e.asid == asid && e.va / 65536 == va / 65536 && (e.unit == bench || e.unit == 4096 + bench / 8))) }

/-- The translation that raises a fault because it was refused, or named a host address that is absent, is forgotten. -/
def State.forgetRefused (s : State) (x : FaultInfo) : State := if x.tout = 5 ∨ x.tout = 3 then s.forgetPage s.grp.bench (s.asidOf s.grp) x.addr.toNat else s

/-- `raise(f)` of R183, the one way an instruction takes a privileged fault: no lane changes anything else, every lane of the bundle
enters FAULTED with its PC at the instruction, and the fault waits for the headframe core (R360, R361). On a replay engine any
fault is a method trap of cause 5 (R152). -/
def raiseWith (x : FaultInfo) (s : State) : State :=
  match s.grp.method with
  | some m => methodTrap 5 m s
  | none =>
    let s1 := s.onLanes (fun l y => if s.inBundle l then { y with st := .faulted, hold := .none, waitCount := 0 } else y)
    { s1.forgetRefused x with faults := s1.faults ++ [faultRecord x s], nextId := s.nextId + 1 }

/-- `raise` with no address. -/
def raise (c : Cause) (s : State) : State := raiseWith { cause := c } s

/-! User traps (R30 to R34) -/

/-- `TCAUSE` (R30, Table 12). -/
def tcause (kind : Nat) (fx : FFlags) (code : Nat) : DWord := BitVec.ofNat 64 (kind + fx.toNat * 16 + code % 64 * 1024)

/-- What a trapping instruction records: `TDST` fields (R31) with the second operation's lanes left to `second`. -/
structure TrapDst where
  dst : BitVec 11 := 0
  nodst : Bool := false
  dst2 : BitVec 11 := 0
  deriving DecidableEq, Repr, Inhabited

/-- `TDST` (R31, Table 13). -/
def tdst (d : TrapDst) (second : Bool) : DWord :=
  BitVec.ofNat 64 (d.dst.toNat + (if d.nodst then 2 ^ 15 else 0) + (if second then d.dst2.toNat * 2 ^ 16 + 2 ^ 31 else 0))

/-- A pending trap of a TRAPHELD lane in the layout of `PRHELD` (R356, Table 2). -/
def heldTrap (kind : Nat) (fx : FFlags) (code : Nat) (d : TrapDst) (second : Bool) : DWord :=
  BitVec.ofNat 64 (1 + kind * 2 + fx.toNat * 16 + code % 64 * 2 ^ 9 + d.dst.toNat * 2 ^ 15 + (if d.nodst then 2 ^ 26 else 0) +
    (if second then d.dst2.toNat * 2 ^ 27 + 2 ^ 38 else 0))

/-- The lanes TRAPHELD with a pending trap. -/
def heldLanes (g : Group) : List (Nat × Lane) := (numbered 0 g.lanes).filter (fun p => p.2.st == .trapheld)

/-- Where a trap raised now stands among those the group holds: after every earlier one, those whose lanes have not left their restore routine among them, whose ORDER is
below 2^16 (R32, R356, R359). -/
def nextHeld (g : Group) : Nat := 1 + g.lanes.foldl (fun m x => max m x.heldAt) (2 ^ 16)

/-- ORDER of `PRHELD`: the rank of a lane's held trap among those of its group (R356, Table 2). -/
def heldRank (g : Group) (x : Lane) : Nat :=
  (((heldLanes g).map (fun p => p.2.heldAt)).dedup.filter (fun n => decide (n < x.heldAt))).length

/-- A held trap as `PRHELD` shows it at an entry. -/
def heldWord (g : Group) (x : Lane) : DWord := BitVec.ofNat 64 (x.prheld.toNat % 2 ^ 48 + heldRank g x * 2 ^ 48)

/-- The trap registers and the move of the handler set into the handler (R32). `tf` is the address of the trapping instruction. -/
def enterTrap (g : Group) (tf : DWord) (len : Nat) (mask : QWord) (cause dst : DWord) (inSet : Nat → Lane → Bool) : Group :=
  { g with
    tfpc := tf, tpc := tf + BitVec.ofNat 64 len, tmask := mask.setWidth 64, tmaskhi := (mask >>> 64).setWidth 64, tcause := cause,
    tdst := dst, utrap := true,
    lanes := mapLanes (fun l x => if inSet l x then { x with st := .eligible, pc := g.trapv &&& ~~~3, inH := true } else x) 0 g.lanes }

/-- `user_trap(kind, code)` of R32 after its ILLEGAL checks, for the bundle of a group at `pc`. `raised` gives the enabled exceptions each lane raised, `second` the
lanes in which operation 2 of a dual form trapped; `inSet` gives the guard-true lanes of the bundle before the trap. -/
def trapGroup (g : Group) (pc : DWord) (kind code : Nat) (d : TrapDst) (len : Nat) (inSet : Nat → Bool) (raised : Nat → FFlags) (second : Nat → Bool) : Group :=
  let h := (numbered 0 g.lanes).filter (fun p => inSet p.1 && !p.2.inH)
  let hit := if kind = 1 then h.filter (fun p => raised p.1 != 0) else h
  if hit.isEmpty ∨ (kind = 1 ∧ g.trapv = 0) then g else
  let fx := hit.foldl (fun a p => a ||| raised p.1) 0
  let two := hit.any (fun p => second p.1)
  if g.utrap then
    let hold (l : Nat) (x : Lane) : Lane :=
      { x with st := .trapheld, pc := pc, heldLen := len, prheld := heldTrap kind (raised l) code d (second l), heldAt := nextHeld g }
    { g with lanes := mapLanes (fun l x => if h.any (fun p => p.1 == l) then hold l x else x) 0 g.lanes }
  else
    let mask := maskOf (hit.map (fun p => p.1))
    enterTrap g pc len mask (tcause kind fx code) (tdst d two) (fun l _ => h.any (fun p => p.1 == l))

/-- `user_trap` of the issuing bundle. -/
def userTrap (kind code : Nat) (d : TrapDst) (len : Nat) (inSet : Nat → Bool) (raised : Nat → FFlags) (second : Nat → Bool)
    (s : State) : State :=
  { s with grp := trapGroup s.grp s.bundle.pc kind code d len inSet raised second }

/-- When a trap has ended, the TRAPHELD lanes whose instruction was issued first take theirs, those of one instruction together, once every lane of a restored group has left its restore routine (R32, R359). R32 tests `TRAPV` when
a trap is raised, and this entry goes where it then points, to 0 where it has been cleared since (log 107). -/
def takeHeld (g : Group) : Group :=
  if g.utrap || g.lanes.any (fun x => x.routine == some .restore) then g else
  match heldLanes g with
  | [] => g
  | (l0, x0) :: rest =>
    let order := rest.foldl (fun m p => min m p.2.heldAt) x0.heldAt
    let first := ((l0, x0) :: rest).filter (fun p => p.2.heldAt == order)
    let y := (first.head?.map (fun p => p.2)).getD x0
    let set := first.filter (fun p => p.2.pc == y.pc)
    let kind := bitsOf y.prheld 1 3
    let fxOf (x : Lane) : FFlags := x.prheld.extractLsb' 4 5
    let hit := if kind = 1 then set.filter (fun p => fxOf p.2 != 0) else set
    let fx := hit.foldl (fun a p => a ||| fxOf p.2) 0
    let two := hit.any (fun p => bitAt p.2.prheld 38)
    let two2 := ((hit.find? (fun p => bitAt p.2.prheld 38)).map (fun p => p.2.prheld.extractLsb' 27 11)).getD 0
    let d : TrapDst := { dst := y.prheld.extractLsb' 15 11, nodst := bitAt y.prheld 26, dst2 := two2 }
    let g1 := enterTrap g y.pc y.heldLen (maskOf (hit.map (fun p => p.1))) (tcause kind fx (bitsOf y.prheld 9 6)) (tdst d two)
      (fun l _ => set.any (fun p => p.1 == l))
    { g1 with lanes := mapLanes (fun l x => if set.any (fun p => p.1 == l) then { x with prheld := 0, heldAt := 0 } else x) 0 g1.lanes }

/-- The trap in progress ends when its handler set is empty, and the next held one is taken (R33). -/
def settleTrap (g : Group) : Group :=
  if g.utrap && !(g.lanes.any (fun x => x.inH)) then takeHeld { g with utrap := false } else g

/-! Privileged entry (R358) -/

/-- The code of a lane state in `PRSTATE` (R356). -/
def stateCode : LaneState → Nat
  | .eligible => 0
  | .joined => 1
  | .barrier => 2
  | .ring => 3
  | .monitor => 4
  | .timed => 5
  | .counting => 6
  | .trapheld => 7
  | .faulted => 8
  | .exited => 9

/-- `priv_entry` of R358 for one lane: PC, state and pending trap are recorded and the lane goes on at `vector`, whose bits [1:0] a PC does not hold (R166). -/
def enterPriv (r : Routine) (vector resume held : DWord) (x : Lane) : Lane :=
  { x with
    prpc := resume, prstate := BitVec.ofNat 64 (stateCode x.st + (if x.inH then 16 else 0)),
    prheld := if x.st = .trapheld then held else 0, st := .eligible, hold := .none, pc := vector &&& ~~~3, routine := some r }

/-- `priv_entry` for the lanes `e` of a group: kind 1 PREEMPT, 2 SYSCALL (R358). -/
def privEntry (kind code : Nat) (r : Routine) (vector : DWord) (e : Nat → Lane → Bool) (resume : Lane → DWord) (g : Group) : Group :=
  { g with
    pcause := BitVec.ofNat 64 (kind + code % 2 ^ 16 * 2 ^ 16),
    lanes := mapLanes (fun l x =>
      if e l x then enterPriv r vector (resume x) (heldWord g x) x
      else if kind = 1 ∧ x.st = .exited then { x with prstate := 9 } else x) 0 g.lanes }

/-- True when every lane of the bundle runs a privileged routine; user mode otherwise (R181, R358). -/
def State.privileged (s : State) : Bool := s.bundleLanes.all (fun p => p.2.routine.isSome)

end Sys2Proof.Machine
end

