-- ==== Sys2Proof/Machine/Operands.lean ====
section
/-! DEFINITION. Operand values by class and type (R172, R403), destinations, the registers an instruction uses, and the decode faults
that depend on the machine: PRIV, PAIRING, REGRANGE, and POISON or REMOTE at a marked register (R181, R182, R248, R158). -/

namespace Sys2Proof.Machine

open Enc (isPairTy regsOf sigFor)

/-- The FP32 patterns of the FP constants, codes 0x780–0x78F (R171, Table 6). -/
def fpConst (k : BitVec 4) : Nat :=
  match k.toNat with
  | 0 => 0x00000000
  | 1 => 0x80000000
  | 2 => 0x3F000000
  | 3 => 0x3F800000
  | 4 => 0x40000000
  | 5 => 0x40800000
  | 6 => 0xBF000000
  | 7 => 0xBF800000
  | 8 => 0xC0000000
  | 9 => 0xC0800000
  | 10 => 0x7F800000
  | 11 => 0xFF800000
  | 12 => 0x7FC00000
  | 13 => 0x40490FDB
  | 14 => 0x3F317218
  | _ => 0x3FB8AA3B

/-- The types an operand is read in: those of R174 by code, and the ones Table 1a of 10_isa_vector_float_crosslane.md adds. -/
inductive Ty where
  | i32 | un32 | i64 | un64 | f32 | f64 | f16x2 | bf16x2 | i16x2 | i8x4 | f16lo | bf16lo | f16hi | bf16hi | f32x2
  deriving DecidableEq, Repr, Inhabited

/-- The type of a TYPE code (R174, Table 8). -/
def Ty.ofCode (t : BitVec 5) : Ty :=
  match t.toNat with
  | 0 => .i32
  | 1 => .un32
  | 2 => .i64
  | 3 => .un64
  | 4 => .f32
  | 5 => .f64
  | 6 => .f16x2
  | 7 => .bf16x2
  | 8 => .i16x2
  | _ => .i8x4

/-- True for the types a pair of registers holds. -/
def Ty.isPair : Ty → Bool
  | .i64 => true
  | .un64 => true
  | .f64 => true
  | .f32x2 => true
  | _ => false

/-- A pattern put into both halves of a word. -/
def both (x : Nat) : Nat := x % 2 ^ 16 * 0x10001

/-- An integer constant, or a predicate's 1 or 0, in a type (R172, R403). -/
def constInt (t : Ty) (z : Int) : Nat :=
  match t with
  | .i32 => (BitVec.ofInt 32 z).toNat
  | .un32 => (BitVec.ofInt 32 z).toNat
  | .i64 => (BitVec.ofInt 64 z).toNat
  | .un64 => (BitVec.ofInt 64 z).toNat
  | .f32 => Fp.constOf Fp.f32 z
  | .f64 => Fp.constOf Fp.f64 z
  | .f16x2 => both (Fp.constOf Fp.f16 z)
  | .bf16x2 => both (Fp.constOf Fp.bf16 z)
  | .i16x2 => both (BitVec.ofInt 16 z).toNat
  | .i8x4 => (BitVec.ofInt 8 z).toNat * 0x1010101
  | .f16lo => Fp.constOf Fp.f16 z
  | .bf16lo => Fp.constOf Fp.bf16 z
  | .f16hi => Fp.constOf Fp.f16 z * 2 ^ 16
  | .bf16hi => Fp.constOf Fp.bf16 z * 2 ^ 16
  | .f32x2 => Fp.constOf Fp.f32 z * (2 ^ 32 + 1)

/-- An FP constant in a type (R172, R403): its value in an FP type, its FP32 pattern in an integer type. -/
def constFp (t : Ty) (k : BitVec 4) : Nat :=
  let x := fpConst k
  let to16 (d : Fp.Format) : Nat := (Fp.convert Fp.f32 d Fp.nearest false x).1
  match t with
  | .f64 => (Fp.convert Fp.f32 Fp.f64 Fp.nearest false x).1
  | .f16x2 => both (to16 Fp.f16)
  | .bf16x2 => both (to16 Fp.bf16)
  | .f16lo => to16 Fp.f16
  | .bf16lo => to16 Fp.bf16
  | .f16hi => to16 Fp.f16 * 2 ^ 16
  | .bf16hi => to16 Fp.bf16 * 2 ^ 16
  | .f32x2 => x * (2 ^ 32 + 1)
  | _ => x

/-- `src(l, F)` of R183: the bits an operand supplies to lane `x` in a type. A scalar supplies all 64 bits to a pair type and its low
32 bits otherwise; so does the literal (R167, R172). -/
def srcVal (g : Group) (t : Ty) (x : Lane) (o : Operand) : Nat :=
  match o with
  | .vec n => if t.isPair then (x.pair n.toNat).toNat else (x.reg n.toNat).toNat
  | .scl n => if t.isPair then (g.scl n.toNat).toNat else (g.scl n.toNat).toNat % 2 ^ 32
  | .prd n => constInt t (if x.pred n.toNat then 1 else 0)
  | .int c => constInt t c.toInt
  | .fp k => constFp t k
  | .lit v => if t.isPair then v.toNat else v.toNat % 2 ^ 32
  | .none => 0
  | .num _ => 0
  | .gap _ => 0

/-- A scalar operand: a scalar register, a constant sign-extended to 64 bits, an FP constant's FP32 pattern (log 12), or the
literal (R204). -/
def sclVal (g : Group) (o : Operand) : DWord :=
  match o with
  | .scl n => g.scl n.toNat
  | .int c => c.signExtend 64
  | .fp k => BitVec.ofNat 64 (fpConst k)
  | .lit v => v
  | _ => 0

/-- The third source: C11 in the extended form, the old D in the base form (R184, R212). -/
def third (f : Fields) : Operand := if f.form.isExt then f.c else f.d

/-- `dst(l, F, x)` of R183: a vector register or pair, or a predicate; nothing is written to p0. -/
def dstVal (t : Ty) (o : Operand) (v : Nat) (x : Lane) : Lane :=
  match o with
  | .vec n => if t.isPair then x.setPair n.toNat (BitVec.ofNat 64 v) else x.setReg n.toNat (BitVec.ofNat 32 v)
  | .prd n => x.setPred n.toNat (v ≠ 0)
  | _ => x

/-- Sign extension of the low `w` bits of a number. -/
def sextNat (w x : Nat) : Int := (BitVec.ofNat w x).toInt

/-- The immediate of MOVI, SMOVI, IADDI and SADDI, sign-extended (R206). -/
def immVal (f : Fields) : Int := if f.form.isExt then sextNat 16 f.imm.toNat else sextNat 12 f.imm.toNat

/-! Registers an instruction uses -/

/-- The operand code of a register: v0 at 0, s0 at 0x600, p0 at 0x640 (R171). -/
def regCode (o : Operand) : Option Nat :=
  match o with
  | .vec n => some n.toNat
  | .scl n => some (0x600 + n.toNat)
  | .prd n => some (0x640 + n.toNat)
  | _ => none

/-- The registers one position names: the code of the first and their number. -/
def slotRegs (k : Key) (f : Fields) (sl : Slot) (o : Operand) : List (Nat × Nat) :=
  match sl with
  | .opd _ w =>
    match o with
    | .vec n => [(n.toNat, regsOf w k f)]
    | _ => ((regCode o).map (fun c => (c, 1))).toList
  | _ => []

/-- The registers an entry names beside its operands (R188, R189, R271, R146), and the scalars of a descriptor (R269, R270). -/
def fixedRegs (k : Key) (f : Fields) : List (Nat × Nat) :=
  match k.maj.toNat with
  | 0x02 => [(62, 2)]
  | 0x03 => if k.fn = 0 then [] else [(62, 2)]
  | 0x08 => if k.sub = 0 ∧ (k.fn = 2 ∨ k.fn = 3) then [(0x647, 1)] else []
  | 0x0E => if k.fn = 6 ∨ k.fn = 7 then [(0x640, 16)] else []
  | 0x31 => match f.a with | .scl n => [(0x600 + n.toNat, 6)] | _ => []
  | 0x32 => match f.a with | .scl n => [(0x600 + n.toNat, 4)] | _ => []
  | 0x33 => if k.fn = 0 then [(62, 2)] else if k.fn = 2 then [(16, 32), (62, 2)] else []
  | 0x34 => if k.fn = 0 then [(8, 5)] else if k.fn = 1 then [(12, 1)] else []
  | _ => []

/-- Every register an instruction reads or writes, its guard included. -/
def usedRegs (k : Key) (f : Fields) : List (Nat × Nat) :=
  match sigFor f.form k with
  | none => []
  | some s =>
    let own := if f.form.isExt then [] else slotRegs k f s.c f.d
    (0x640 + f.gd.p.toNat, 1) ::
      (slotRegs k f s.d f.d ++ slotRegs k f s.a f.a ++ slotRegs k f s.b f.b ++ slotRegs k f s.c f.c ++ own ++ fixedRegs k f)

/-- True for the codes that name no register, in a position the instruction uses (R171). -/
def isGap (o : Operand) : Bool :=
  match o with
  | .gap _ => true
  | _ => false

/-- REGRANGE of R171 and R172: a code that names no register, or a vector register at or above `VCOUNT`. FCALL and FPROBE check
v0–v15 later, by their descriptor (R271). -/
def outOfRange (k : Key) (f : Fields) (vcount : Nat) : Bool :=
  isGap f.d || isGap f.a || isGap f.b || isGap f.c || (usedRegs k f).any (fun r => r.1 < 0x600 && vcount < r.1 + r.2)

/-- True when two register ranges meet. -/
def meet (a b : Nat × Nat) : Bool := a.1 < b.1 + b.2 && b.1 < a.1 + a.2

/-- The first marked register of a lane among those used (R158, R248). -/
def markedUse (used : List (Nat × Nat)) (x : Lane) : Option Marked := x.marked.find? (fun m => used.any (fun r => meet r (m.reg, m.n)))

/-- The fault a mark raises: REMOTE with its cause, or POISON. -/
def markFault (m : Marked) : FaultInfo :=
  { cause := if m.rcause = 0 then .poison else .remote, addr := m.addr, rsn := m.rsn, rcause := m.rcause,
    from_ := if m.rcause = 0 then none else some m.pc }

/-- The registers among those used that a lane of the bundle reads or writes: all of them under a true guard, else its guard alone (R14, R182). -/
def touched (gd : Guard) (used : List (Nat × Nat)) (x : Lane) : List (Nat × Nat) :=
  if guardOf gd x then used else used.filter (fun r => r.1 == 0x640 + gd.p.toNat)

/-- POISON or REMOTE at the first instruction of a lane that reads or writes a marked destination (R158, R248), a scalar's under a true guard of some lane. -/
def markedFault (gd : Guard) (used : List (Nat × Nat)) (s : State) : Option FaultInfo :=
  ((s.bundleLanes.findSome? (fun p => markedUse (touched gd used p.2) p.2)) <|>
    (if s.anyActive gd then s.grp.markedS.find? (fun m => used.any (fun r => meet r (m.reg, m.n))) else none)).map markFault

/-- True for a special-register number of privileged mode (R207). -/
def privNumber (k : Key) (f : Fields) : Bool := (k.maj == 0x13 || k.maj == 0x14) && 0x800 ≤ f.imm.toNat

/-- The method-trap cause of an instruction a method may not execute (R152, Table 6). -/
def methodForbids (k : Key) (f : Fields) : Option Nat :=
  let m := k.maj.toNat
  if m = 0x07 then (if k.fn = 1 ∨ k.fn = 4 then some 6 else some 3)
  else if m = 0x13 then (if f.imm.toNat ≤ 1 ∨ f.imm = 0x013 ∨ f.imm = 0x014 then none else some 3)
  else if m = 0x14 then (if f.imm = 0x013 ∨ f.imm = 0x014 then none else some 3)
  else if m ≤ 0x25 ∨ m = 0x28 ∨ m = 0x29 ∨ m = 0x2B then none
  else if m = 0x34 ∧ k.fn = 2 then none
  else if (m = 0x35 ∧ k.fn = 1) ∨ m = 0x36 ∨ m = 0x37 ∨ (0x38 ≤ m ∧ m ≠ 0x3B) then some 3
  else some 2

/-- What stops an instruction before it starts: a decode fault of R182, steps 3 to 5, in order, or a mark. -/
inductive Stop where
  | fault (x : FaultInfo)
  | trap (cause : Nat)
  deriving DecidableEq, Repr

/-- The checks every instruction with a key makes first: a method's limits, PRIV, REGRANGE, then marked registers (R152, R182). -/
def entryStop (k : Key) (f : Fields) (s : State) : Option Stop :=
  match s.grp.method.bind (fun _ => methodForbids k f) with
  | some c => some (.trap c)
  | none =>
    if (k.maj = 0x36 || privNumber k f) && !s.privileged then some (.fault { cause := .priv })
    else if outOfRange k f s.grp.vcount then some (.fault { cause := .regrange })
    else (markedFault f.gd (usedRegs k f) s).map .fault

/-- Takes a stop: a method trap, or a privileged fault. -/
def stop (x : Stop) (s : State) : State :=
  match x with
  | .trap c => match s.grp.method with | some m => methodTrap c m s | none => raise .illegal s
  | .fault i => raiseWith i s

/-- An instruction with a key: its entry checks, then its own effect. -/
def run (k : Key) (f : Fields) (s : State) (body : State → State) : Out3 :=
  match entryStop k f s with
  | some x => .next (stop x s)
  | none => .next (body s)

/-- A lane-wise instruction: its entry checks, then `h` in every guard-true lane (R185, R214). -/
def runLanes (k : Key) (f : Fields) (s : State) (h : Nat → Lane → Lane) : Out3 := run k f s (fun s => s.lanewise f h)

/-- A scalar instruction: once when some lane has a true guard, with the lowest such lane; every lane advances (R186). -/
def runScalar (k : Key) (f : Fields) (s : State) (h : State → Nat × Lane → State) : Out3 :=
  run k f s (fun s => match s.elect f.gd with
    | some e => (h s e).advance f.form.len
    | none => s.advance f.form.len)

/-- A hint ends in `t` and raises nothing (R180); on a replay engine it is one of the instructions a method may not execute (R152, log 63). -/
def hinted (s t : State) : Out3 :=
  match s.grp.method with
  | some m => .next (methodTrap 3 m s)
  | none => .next t

/-! Floating-point instructions -/

/-- The rounding of an FP instruction: MOD RND in the extended form, `FMODE`.RM for 5 and in base forms (R90, R183 `rmode`). -/
def rmOf (g : Group) (rnd : Nat) : Nat :=
  let fm := bitsOf g.fmode 0 3
  let r := if rnd = 5 then (if 4 < fm then 0 else fm) else rnd
  if 5 < r then 0 else r

/-- The rounding mode, flushing and saturation of an FP instruction (R90, R91, R93). -/
def fpMode (g : Group) (f : Fields) : Fp.Mode :=
  { rm := rmOf g (f.md.toNat % 8), flush := f.md.getLsbD 4 || bitAt g.fmode 3, sat := f.md.getLsbD 3 }

/-- The destination field of a trapping instruction (R31). -/
def trapDst (o : Operand) : TrapDst := { dst := Enc.codeOf o, nodst := (regCode o).isNone }

/-- Completes an FP instruction: `h` gives each guard-true lane its result and the flags it raised; the flags accumulate in
`FFLAGS`, and an enabled one is taken as a user trap after completion (R183 `flag`, R214, R32). -/
def fpComplete (f : Fields) (h : Nat → Lane → Lane × FFlags) (s : State) : State :=
  let s1 := s.lanewise f (fun l x => { (h l x).1 with fflags := x.fflags ||| (h l x).2 })
  let on (l : Nat) : Bool := s.active f.gd l (s.laneAt l)
  let raised (l : Nat) : FFlags := if on l then (h l (s.laneAt l)).2 &&& s.grp.trapen.setWidth 5 else 0
  userTrap 1 0 (trapDst f.d) f.form.len on raised (fun _ => false) s1

/-- An FP instruction. -/
def runFp (k : Key) (f : Fields) (s : State) (h : Nat → Lane → Lane × FFlags) : Out3 := run k f s (fpComplete f h)

end Sys2Proof.Machine
end

