-- ==== Sys2Proof/Machine/Memory.lean ====
section
/-! DEFINITION. Global memory as an access reaches it: physical addresses, homes and slices (R37, R51, R53), the page walk and the
TLBs (R362, R364, R365), the class table (R363), page formats (R58, R310) and commutative ranges (R62). -/

namespace Sys2Proof.Machine

/-! Physical memory -/

/-- True for the host and peer windows (R37). -/
def isHost (pa : Nat) : Bool := 2 ^ 51 ≤ pa

/-- The storage die of a physical address (R37). -/
def storageDie (pa : Nat) : Nat := pa / 2 ^ 37 % 16

/-- True for a peer window, a part of the host and peer windows (R374). -/
def isPeer (pa : Nat) : Bool := isHost pa && pa / 2 ^ 50 % 2 == 1

/-- The frame of 2^`lg` bytes lies wholly inside the populated part of its window; in the host window PA[48] is zero (R37, R362, R374). -/
def frameOk (pa lg : Nat) : Bool := if isHost pa then isPeer pa || pa / 2 ^ 48 % 2 == 0 else (pa < 2 ^ 41 && pa % 2 ^ 37 + 2 ^ lg ≤ Config.populated)

/-- True for memory of a die that boot marked FAILED: its window is absent, and the granules that it stores cannot be reached (R368). -/
def State.windowGone (s : State) (pa : Nat) : Bool := !isHost pa && (s.die (storageDie pa)).state == 2

/-- What a read of a host or peer window returns: the spec describes no device there (log 28). -/
def State.hostValue (s : State) (n : Nat) : Nat :=
  ((Config.freeValue (2 * s.free)).toNat + 2 ^ 64 * (Config.freeValue (2 * s.free + 1)).toNat) % 256 ^ n

/-- Advances the counter of free values (log 6). -/
def State.useFree (s : State) : State := { s with free := s.free + 1 }

/-- `n` bytes at a physical address as the home holds them (log 26). -/
def State.readPhys (s : State) (pa n : Nat) : Nat := if isHost pa then s.hostValue n else rdBytes s.mem pa n

/-- The poisoned blocks that remain after `n` bytes at `a` are written: a write of every byte of an 8-byte block clears its marking, and a
partial write leaves it in place (R382, log 33). -/
def clearPoison (l : List Nat) (a n : Nat) : List Nat := l.filter (fun b => decide (b < a) || decide (a + n < b + 8))

/-- True when a poisoned block meets `n` bytes at `a` (R382). -/
def hurtAt (l : List Nat) (a n : Nat) : Bool := l.any (fun b => decide (b < a + n) && decide (a < b + 8))

/-- The blocks of `n` bytes at `a`, for marking. -/
def blocksOf (a n : Nat) : List Nat := (List.range ((a + n + 7) / 8 - a / 8)).map (fun i => (a / 8 + i) * 8)

/-- Marks the blocks of `n` bytes at `a` as poisoned. -/
def addPoison (l : List Nat) (a n : Nat) : List Nat := l ++ (blocksOf a n).filter (fun b => !l.contains b)

/-- Clears the poison of the blocks a write covers (R382). -/
def State.cleanse (s : State) (pa n : Nat) : State := { s with poison := clearPoison s.poison pa n }

/-- Writes the bits `mask` of an `n`-byte value at a physical address of the module's own memory; the host and peer windows are no part of it (R37). -/
def State.writePhys (s : State) (pa n : Nat) (data mask : QWord) : State :=
  if isHost pa then s else
  let old : QWord := BitVec.ofNat 128 (rdBytes s.mem pa n)
  let s1 := if mask = BitVec.ofNat 128 (2 ^ (8 * n) - 1) then s.cleanse pa n else s
  { s1 with mem := wrBytes s.mem pa n ((old &&& ~~~mask) ||| (data &&& mask)).toNat }

/-- A mask over the first `n` bytes. -/
def fullMask (n : Nat) : QWord := BitVec.ofNat 128 (2 ^ (8 * n) - 1)

/-- The 128-byte line of a physical address (R50). -/
def lineOf (pa : Nat) : Nat := pa / 128

/-- The 64 KiB granule of a physical address (R53). -/
def granuleOf (pa : Nat) : Nat := pa / 65536

/-- The exclusive OR of the four-bit fields of a number, `n` of them (R51). -/
def fold4 (n : Nat) (x : Nat) : BitVec 4 :=
  match n with
  | 0 => 0
  | n + 1 => BitVec.ofNat 4 x ^^^ fold4 n (x / 16)

/-- The home slice of a line: fold4 of PA[50:7] (R51). -/
def sliceOf (pa : Nat) : Nat := (fold4 11 (pa / 128)).toNat

/-- What is kept of a granule whose home is not settled at its storage die (R53 to R55). -/
def State.granule (s : State) (gr : Nat) : Granule :=
  ((s.granules.find? (fun p => p.1 == gr)).map (fun p => p.2)).getD
    { home := storageDie (gr * 65536), movedAt := 0, horizon := 0, moving := none, counts := [] }

/-- Changes a granule's entry. -/
def State.onGranule (s : State) (gr : Nat) (f : Granule → Granule) : State :=
  if s.granules.any (fun p => p.1 == gr) then { s with granules := updBy (fun p => p.1 == gr) (fun p => (p.1, f p.2)) s.granules }
  else { s with granules := s.granules ++ [(gr, f (s.granule gr))] }

/-- The home die of an address (R53). -/
def State.homeOf (s : State) (pa : Nat) : Nat := (s.granule (granuleOf pa)).home

/-- What the home keeps of a line (R68, R69). -/
def State.line (s : State) (ln : Nat) : Line :=
  ((s.lines.find? (fun p => p.1 == ln)).map (fun p => p.2)).getD { horizon := 0, w := 0, hot := 0, holders := [] }

/-- The lease horizon that a line's home honours: its own, and that which a move of its granule transferred (R68, R86). -/
def State.horizonOf (s : State) (ln : Nat) : Nat := max (s.line ln).horizon (s.granule (ln / 512)).horizon

/-- The lines that `n` bytes at an address touch; a packed T6 access or copy element may touch two (R58). -/
def linesOf (pa n : Nat) : List Nat := if lineOf (pa + n - 1) = lineOf pa then [lineOf pa] else [lineOf pa, lineOf (pa + n - 1)]

/-- Changes a line's entry. -/
def State.onLine (s : State) (ln : Nat) (f : Line → Line) : State :=
  if s.lines.any (fun p => p.1 == ln) then { s with lines := updBy (fun p => p.1 == ln) (fun p => (p.1, f p.2)) s.lines }
  else { s with lines := s.lines ++ [(ln, f (s.line ln))] }

/-! Commutative partials (R63, R64) -/

/-- The identity of an operation, with which the words of a partial start (R63). -/
def commIdentity : CommOp → Word
  | .fadd => 0x80000000
  | .iadd => 0
  | .fmax => 0xFF800000
  | .fmin => 0x7F800000
  | .imax => 0x80000000
  | .imin => 0x7FFFFFFF

/-- One fold, to nearest even and without traps (R63). FP32 max and min fold as maximumNumber and minimumNumber (log 93). -/
def commFold (o : CommOp) (x y : Word) : Word :=
  match o with
  | .fadd => BitVec.ofNat 32 (Block.addF32 x.toNat y.toNat)
  | .iadd => x + y
  | .fmax => BitVec.ofNat 32 (Fp.minMax Fp.f32 false true true x.toNat y.toNat).1
  | .fmin => BitVec.ofNat 32 (Fp.minMax Fp.f32 false false true x.toNat y.toNat).1
  | .imax => if x.toInt ≤ y.toInt then y else x
  | .imin => if x.toInt ≤ y.toInt then x else y

/-- True for a flush of a partial. -/
def Access.isFlush : Access → Bool
  | .flush _ => true
  | _ => false

/-- True while a flushed word of a line is on its way to its home (R63, R64). -/
def State.flushOwed (s : State) (ln : Nat) : Bool :=
  s.reqs.any (fun q => q.acc.isFlush && !q.isBuf && q.stage != .served && lineOf q.addr == ln)

/-- Folds one word of a line into memory. -/
def foldWord (ln : Nat) (m : List Host.Cell) (op : CommOp) (w : Nat × Word) : List Host.Cell :=
  let a := 128 * ln + 4 * w.1
  wrBytes m a 4 (commFold op (BitVec.ofNat 32 (rdBytes m a 4)) w.2).toNat

/-- The partials of a line in ascending (die, core) order. -/
def State.partialsOf (s : State) (ln : Nat) : List Partial :=
  (s.partials.filter (fun p => p.line == ln)).mergeSort (fun a b => decide (a.core ≤ b.core))

/-- Memory with the partials of a line folded in (R64). -/
def State.foldedMem (s : State) (ln : Nat) : List Host.Cell :=
  (s.partialsOf ln).foldl (fun m p => p.words.foldl (fun m w => foldWord ln m p.op w) m) s.mem

/-- The partials of a line are recalled from every holder and folded, for an access that combines at once (R64). -/
def State.combineNow (s : State) (ln : Nat) : State :=
  let s1 := { s with mem := s.foldedMem ln, partials := s.partials.filter (fun p => p.line != ln) }
  if (s.line ln).holders.isEmpty then s1 else s1.onLine ln (fun l => { l with holders := [] })

/-- The lines of an access are combined at once. -/
def State.combineLines (s : State) (pa n : Nat) : State := (linesOf pa n).foldl State.combineNow s

/-- The flushed words of a line on their way. -/
def State.flushesOf (s : State) (ln : Nat) : List (CommOp × Nat × Word) :=
  s.reqs.filterMap (fun q =>
    match q.acc with
    | .flush op => if q.isBuf || q.stage == .served || lineOf q.addr != ln then none else some (op, q.addr % 128 / 4, q.data.setWidth 32)
    | _ => none)

/-- `n` bytes as an access of the machine itself finds them: partials and flushed words on their way count as combined (R64). -/
def State.readCombined (s : State) (pa n : Nat) : Nat :=
  let lns := linesOf pa n
  let fold (m : List Host.Cell) (ln : Nat) : List Host.Cell :=
    (s.flushesOf ln).foldl (fun m x => foldWord ln m x.1 x.2) (({ s with mem := m } : State).foldedMem ln)
  if isHost pa || lns.all (fun ln => (s.flushesOf ln).isEmpty && !s.partials.any (fun p => p.line == ln)) then s.readPhys pa n
  else rdBytes (lns.foldl fold s.mem) pa n

/-! Translation -/

/-- On whose behalf an access is translated: ASID, bench (for its TLB), die, and whether it needs U. -/
structure Who where
  asid : Nat
  bench : Nat
  die : Nat
  user : Bool
  deriving DecidableEq, Repr, Inhabited

/-- A group's accesses; those of a privileged bundle need no U (R246). -/
def State.who (s : State) (g : Group) (priv : Bool) : Who := { asid := s.asidOf g, bench := g.bench, die := s.dieOf g, user := !priv }

/-- The accesses of the issuing bundle. -/
def State.me (s : State) : Who := s.who s.grp s.privileged

/-- An access of the machine itself for a context: its tables and records. Its bench number names no TLB. -/
def sysWho (asid die : Nat) : Who := { asid := asid, bench := 8192 + die, die := die, user := false }

/-- What an access does to its page, as ACCESS of R360 numbers it. -/
inductive Touch where
  | fetch | load | store | atomic | walk | methodFetch
  deriving DecidableEq, Repr, Inhabited

/-- ACCESS of a fault record (R360). -/
def Touch.code : Touch → Nat
  | .fetch => 1
  | .load => 2
  | .store => 3
  | .atomic => 4
  | .walk => 5
  | .methodFetch => 6

/-- The answer to a translation: the entry, a failure with its TOUT and LEVEL, or nothing yet (HOST mode, R365). -/
inductive Found where
  | page (e : TlbEntry)
  | fail (tout level : Nat)
  | awaited
  deriving DecidableEq, Repr, Inhabited

/-- log2 of the page size at a table level (R362). -/
def pageLog (lvl : Nat) : Nat :=
  match lvl with
  | 1 => 34
  | 2 => 25
  | _ => 16

/-- The table level of a page size. -/
def levelOf (szlg : Nat) : Nat := if szlg = 34 then 1 else if szlg = 25 then 2 else if szlg = 16 then 3 else 0

/-- The leaf entry of a walk. -/
def leafEntry (w : Who) (va lg : Nat) (e : DWord) : TlbEntry :=
  { unit := w.bench, asid := w.asid, va := va / 2 ^ lg * 2 ^ lg, szlg := lg, pa := bitsOf e 12 40 * 4096, r := true, w := bitAt e 1,
    x := bitAt e 2, u := bitAt e 3, cls := e.extractLsb' 6 4, fattr := e.extractLsb' 52 6, lock := bitAt e 5 }

/-- `walk` of R362 from a table at the levels `lvls`, permissions apart. -/
def walkFrom (s : State) (w : Who) (va : Nat) (t : Nat) : List Nat → Found
  | [] => .fail 1 3
  | lvl :: rest =>
    let e : DWord := BitVec.ofNat 64 (s.readPhys (t + 8 * (va / 2 ^ (43 - 9 * lvl) % 512)) 8)
    if !bitAt e 0 then .fail 1 lvl
    else if lvl = 3 ∨ bitAt e 4 then
      let lg := pageLog lvl
      let pa := bitsOf e 12 40 * 4096
      if lvl = 0 ∨ pa % 2 ^ lg ≠ 0 then .fail 1 lvl
      else if !frameOk pa lg ∨ s.windowGone pa then .fail 3 lvl
      else .page (leafEntry w va lg e)
    else walkFrom s w va (bitsOf e 12 40 * 4096) rest

/-- PTROOT of a context (R355). -/
def Ctx.ptroot (c : Ctx) : Nat := bitsOf c.desc 0 64 % 2 ^ 52

/-- The walk of a context's tables (R362). -/
def State.walk (s : State) (w : Who) (va : Nat) : Found := walkFrom s w va (s.ctx w.asid).ptroot [0, 1, 2, 3]

/-- True for a TLB entry that holds the page of an address. A host answer that gives no page stands with size 0 for its 64 KiB, and with its TOUT as `pa` (R365, R374). -/
def TlbEntry.holds (e : TlbEntry) (asid va : Nat) : Bool :=
  e.asid == asid && (if e.szlg = 0 then e.va / 65536 == va / 65536 else e.va / 2 ^ e.szlg == va / 2 ^ e.szlg)

/-- The TLB of a quad has the number 4096 + quad (R364). -/
def quadTlb (bench : Nat) : Nat := 4096 + bench / 8

/-- The translation of an address, permissions apart: the bench's TLB, the quad's, then a walk in DEVICE mode (R364, R365). -/
def State.translate (s : State) (w : Who) (va : Nat) : Found :=
  match (s.tlbs.find? (fun e => e.unit == w.bench && e.holds w.asid va)) <|>
      (s.tlbs.find? (fun e => e.unit == quadTlb w.bench && e.holds w.asid va)) with
  | some e => if e.szlg = 0 then .fail e.pa 0 else .page e
  | none => if s.hostMode then .awaited else s.walk w va

/-- Permission of a leaf for an access (R246, R362). -/
def TlbEntry.allows (e : TlbEntry) (w : Who) (t : Touch) : Bool :=
  (!w.user || e.u) &&
  (match t with
   | .fetch => e.x
   | .methodFetch => e.x
   | .load => e.r
   | .walk => e.r
   | .store => e.w
   | .atomic => e.w && e.r)

/-- The translation of an access with its checks: VA bits [63:52], the walk, a frame that is there, permissions (R36, R246, R362, R368). -/
def State.reach (s : State) (w : Who) (t : Touch) (va : Nat) : Found :=
  if 2 ^ 52 ≤ va then .fail 4 0 else
  match s.translate w va with
  | .page e => if s.windowGone e.pa then .fail 3 (levelOf e.szlg) else if e.allows w t then .page e else .fail 2 (levelOf e.szlg)
  | x => x

/-- The physical address of an address in a page. -/
def TlbEntry.phys (e : TlbEntry) (va : Nat) : Nat := e.pa + va % 2 ^ e.szlg

/-- A 64-bit word of a context's format or range table, whose page is taken as byte-addressed; none where it is not mapped (R355, log 127). -/
def State.tableWord (s : State) (w : Who) (va : Nat) : Option Nat :=
  match s.reach w .load va with
  | .page e => some (s.readCombined (e.phys va) 8)
  | _ => none

/-! Classes, formats and ranges -/

/-- The class entry that governs an access: MOD CLASS 1–15 of the issuing die, or the page's (R245, R363). -/
def State.classOf (s : State) (die : Nat) (cls : BitVec 4) (md : BitVec 8) : DWord :=
  let c := if md.toNat / 16 = 0 then cls.toNat else md.toNat / 16
  (s.die die).classes.getD c classReset

/-- WPOL, LEASE and REPL of a class (R363). -/
def wthrough (c : DWord) : Bool := bitAt c 18
def leaseCode (c : DWord) : BitVec 2 := c.extractLsb' 19 2
def replicas (c : DWord) : Bool := bitAt c 21
def wayMask (c : DWord) : BitVec 16 := c.extractLsb' 2 16
def insertAge (c : DWord) : BitVec 2 := c.extractLsb' 0 2

/-- The lease of a code, in ticks (R68, Table 5). -/
def leaseTicks (code : BitVec 2) : Nat :=
  match code.toNat with
  | 0 => 250
  | 1 => 2000
  | 2 => 16000
  | _ => 250

/-- A format table entry (R310, R355). -/
structure FmtEntry where
  fmt : Nat
  tag : Nat
  sbase : Nat
  dbase : Nat
  deriving DecidableEq, Repr, Inhabited

/-- Entry `attr` of a context's format table; none where the table is not mapped (log 29). -/
def State.fmtEntry (s : State) (w : Who) (attr : BitVec 6) : Option FmtEntry :=
  let va := bitsOf (s.ctx w.asid).desc 128 64 + 32 * attr.toNat
  let w0 := { w with user := false }
  match s.tableWord w0 va, s.tableWord w0 (va + 8), s.tableWord w0 (va + 16) with
  | some x, some y, some z => some { fmt := x / 2 ^ 8 % 16, tag := x / 2 ^ 16 % 2 ^ 16, sbase := y, dbase := z }
  | _, _, _ => none

/-- True for the formats of element-addressed pages (R58). -/
def elementCode (fmt : Nat) : Bool := 3 ≤ fmt && fmt ≤ 7

/-- The operation code of a range (R62). -/
def rangeOp (n : Nat) : Option CommOp :=
  match n with
  | 0 => some .fadd
  | 1 => some .iadd
  | 2 => some .fmax
  | 3 => some .fmin
  | 4 => some .imax
  | 5 => some .imin
  | _ => none

/-- The operation of the valid range an entry declares for an address (R62). -/
def rangeHit (va : Nat) (lo hi : Nat) : Option CommOp :=
  let base := lo % 2 ^ 52
  let len := hi % 2 ^ 35 * 128
  if hi / 2 ^ 63 % 2 = 1 ∧ base ≤ va ∧ va < base + len then rangeOp (hi / 2 ^ 35 % 16) else none

/-- The commutative range of a context that holds an address; a table that is not mapped declares none (R62, log 92). -/
def State.rangeOf (s : State) (w : Who) (va : Nat) : Option CommOp :=
  let base := bitsOf (s.ctx w.asid).desc 192 64
  let w0 := { w with user := false }
  (List.range 8).findSome? (fun i =>
    match s.tableWord w0 (base + 16 * i), s.tableWord w0 (base + 16 * i + 8) with
    | some lo, some hi => rangeHit va lo hi
    | _, _ => none)

/-! One lane's access -/

/-- A lane's access once its address is known to be good: where its bytes are and how they are held. -/
structure Spot where
  lane : Nat
  va : DWord
  pa : Nat
  n : Nat
  six : Nat
  elems : Nat
  cls : DWord
  lock : Bool
  range : Option CommOp
  fmt : Option FmtEntry
  deriving DecidableEq, Repr, Inhabited

/-- True while the translation of the context's format table, for the entry of a page, or of its range table is awaited (R58, R62, R365). -/
def State.tablesAwaited (s : State) (w : Who) (e : TlbEntry) : Bool :=
  let d := (s.ctx w.asid).desc
  let w0 := { w with user := false }
  s.translate w0 (bitsOf d 128 64 + 32 * e.fattr.toNat) == .awaited || s.translate w0 (bitsOf d 192 64) == .awaited

/-- The entry of a page's format; none where its table is not mapped (log 29). -/
def pageFmt (s : State) (w : Who) (e : TlbEntry) : Option FmtEntry := s.fmtEntry w e.fattr

/-- Where `n` VA bytes at an address of a page stand: the first frame byte, how many, and 1 + the first bit of a T6 page's packed elements, 0 for other pages (R58).
Where the page's format entry is not mapped, an access other than kind E is byte-addressed (log 92). -/
def State.frameAt (s : State) (w : Who) (e : TlbEntry) (va n : Nat) : Nat × Nat × Nat :=
  if ((pageFmt s w e).map (fun f => f.fmt)) = some 4 then
    let b := 6 * (va % 2 ^ e.szlg)
    (e.pa + b / 8, (b % 8 + 6 * n + 7) / 8, 1 + b % 8)
  else (e.phys va, n, 0)

/-- The access of `n` VA bytes at an address of a page. -/
def State.spot (s : State) (w : Who) (md : BitVec 8) (lane : Nat) (va : DWord) (n : Nat) (e : TlbEntry) : Spot :=
  let p := s.frameAt w e va.toNat n
  { lane := lane, va := va, pa := p.1, n := p.2.1, six := p.2.2, elems := n, cls := s.classOf w.die e.cls md, lock := e.lock,
    range := s.rangeOf w va.toNat, fmt := pageFmt s w e }

/-- Spreads the packed elements of a value to bytes, or packs bytes to elements (R58). -/
def spread6 : Nat → Nat → Nat
  | 0, _ => 0
  | n + 1, x => x % 64 + 256 * spread6 n (x / 64)

def pack6 : Nat → Nat → Nat
  | 0, _ => 0
  | n + 1, x => x % 64 + 64 * pack6 n (x / 256)

/-- The value of the VA bytes an access names, from its physical bytes. -/
def unpackVal (six elems x : Nat) : Nat := if six = 0 then x else spread6 elems (x / 2 ^ (six - 1))

/-- The physical bytes and the bits written, from the value of the VA bytes. -/
def packVal (six elems n x : Nat) : QWord × QWord :=
  if six = 0 then (BitVec.ofNat 128 x, fullMask n)
  else (BitVec.ofNat 128 (pack6 elems x * 2 ^ (six - 1)), BitVec.ofNat 128 ((2 ^ (6 * elems) - 1) * 2 ^ (six - 1)))

end Sys2Proof.Machine
end

