-- ==== Sys2Proof/Machine/Requests.lean ====
section
/-! DEFINITION. Requests on their way: the checks of an access (R246), the issuing core's own view (R66), what a home does with a
request (R67 to R69, R57, R63, R64), buffer accesses (R38 to R41, R79), counters (R81), releases and acquires (R72, R73), monitors. -/

namespace Sys2Proof.Machine

/-! Checks of global accesses (R246) -/

/-- The outcome of the checks of an access. -/
inductive Checked (α : Type) where
  | ok (x : α)
  | fault (x : FaultInfo)
  | awaited
  deriving DecidableEq, Repr

/-- A DATA fault (R36, R246, R362). -/
def dataFault (t : Touch) (tout level : Nat) (va : DWord) : FaultInfo :=
  { cause := .data, access := t.code, tout := tout, level := level, addr := va }

/-- Bytes of a kind E access to a page by its format (R59): 4 or 2 for byte-addressed pages, 1 for an element. -/
def elemBytes (fe : Option FmtEntry) : Nat :=
  match fe.map (fun f => f.fmt) with
  | some 0 => 4
  | some 1 => 2
  | some 2 => 2
  | _ => 1

/-- One lane's misalignment. Kind E (`n` = 0) is aligned as its page's format says (R59). -/
def misaligned (s : State) (w : Who) (t : Touch) (n : Nat) (va : DWord) : Bool :=
  if n = 0 then
    match s.reach w t va.toNat with
    | .page e => va.toNat % elemBytes (pageFmt s w e) ≠ 0
    | _ => false
  else va.toNat % n ≠ 0

/-- One lane's translation; kind E needs its format table (log 29). -/
def spotOf (s : State) (w : Who) (t : Touch) (md : BitVec 8) (n : Nat) (p : Nat × DWord) : Checked Spot :=
  match s.reach w t p.2.toNat with
  | .page e =>
    if s.tablesAwaited w e then .awaited
    else if n = 0 then
      match pageFmt s w e with
      | none => .fault (dataFault t 1 0 p.2)
      | some fe => .ok (s.spot w md p.1 p.2 (elemBytes (some fe)) e)
    else .ok (s.spot w md p.1 p.2 n e)
  | .fail tout level => .fault (dataFault t tout level p.2)
  | .awaited => .awaited

/-- Collects the lanes' outcomes; the lowest failing lane decides. -/
def collect {α : Type} : List (Checked α) → Checked (List α)
  | [] => .ok []
  | .ok x :: rest =>
    match collect rest with
    | .ok xs => .ok (x :: xs)
    | .fault i => .fault i
    | .awaited => .awaited
  | .fault i :: _ => .fault i
  | .awaited :: rest =>
    match collect rest with
    | .fault i => .fault i
    | _ => .awaited

/-- The first three checks of R246 over the guard-true lanes, each over every lane before the next. -/
def checkLanes (s : State) (w : Who) (t : Touch) (md : BitVec 8) (n : Nat) (l : List (Nat × DWord)) : Checked (List Spot) :=
  match l.find? (fun p => decide (2 ^ 52 ≤ p.2.toNat)) with
  | some p => .fault (dataFault t 4 0 p.2)
  | none =>
    match l.find? (fun p => misaligned s w t n p.2) with
    | some p => .fault { cause := .align, access := t.code, addr := p.2 }
    | none => collect (l.map (spotOf s w t md n))

/-! The issuing core's own view (R66, R75) -/

/-- True for a request that writes towards a home. -/
def Access.writes : Access → Bool
  | .load => false
  | .comm _ => false
  | _ => true

/-- True for a store or a write-back, whose bytes its own core sees until it is acknowledged. -/
def Access.puts : Access → Bool
  | .store => true
  | .writeback => true
  | _ => false

/-- Bytes `[a, a + n)` and `[b, b + m)` meet. -/
def overlap (a n b m : Nat) : Bool := decide (a < b + m) && decide (b < a + n)

/-- Moves a value placed at byte `a` to a window that begins at byte `b`. -/
def moveTo (x : QWord) (a b : Nat) : QWord := if b ≤ a then x <<< (8 * (a - b)) else x >>> (8 * (b - a))

/-- Lays the bits `m` of `x` over a value and its known bits. -/
def layOver (p : QWord × QWord) (x m : QWord) : QWord × QWord := ((p.1 &&& ~~~m) ||| (x &&& m), p.2 ||| m)

/-- A dirty byte as its core keeps it: the value, its place in a T6 page's block of 12 or 0, and whether it is poisoned (R58, R382). -/
def dirtyByte (x : Byte) (place : Nat) (hurt : Bool) : BitVec 16 :=
  0x100 ||| x.setWidth 16 ||| BitVec.ofNat 16 (512 * place) ||| (if hurt then 0x2000 else 0)

/-- The place a dirty byte keeps, and whether it is poisoned. -/
def dirtyPlace (x : BitVec 16) : Nat := (x.extractLsb' 9 4).toNat
def dirtyHurt (x : BitVec 16) : Bool := x.getLsbD 13

/-- Lays the dirty bytes of a core over a window of `n` bytes at `pa`, byte `i` first. -/
def layDirty (d : Sparse (BitVec 16)) (pa : Nat) : Nat → QWord × QWord → QWord × QWord
  | 0, p => p
  | n + 1, p =>
    let x := sget 0 d (pa + n)
    let q := if x.getLsbD 8 then layOver p ((x.setWidth 8).setWidth 128 <<< (8 * n)) (0xFF <<< (8 * n)) else p
    layDirty d pa n q

/-- A team-scope store that waits in its core for its shadow (R266). -/
def Req.inCore (r : Req) : Bool := r.acc == .store && r.stage == .port && !r.isBuf && !isHost r.addr

/-- What a core's own stores on their way and its dirty bytes give of `n` bytes at `pa`: the value and the bits known. A store that its home has ordered is
found there from then on; the dirty bytes are younger than the stores sent, and older than those that wait in the core (R66, R67, R75, log 91). -/
def State.coreView (s : State) (c pa n : Nat) : QWord × QWord :=
  let w := fullMask n
  let lay (inside : Bool) (p : QWord × QWord) (r : Req) : QWord × QWord :=
    if r.core == c && !r.isBuf && r.acc.puts && r.stage != .served && r.inCore == inside && overlap r.addr r.n pa n
    then layOver p (moveTo r.data r.addr pa) (moveTo r.mask r.addr pa &&& w) else p
  s.reqs.foldl (lay true) (layDirty (s.core c).dirty pa n (s.reqs.foldl (lay false) (0, 0)))

/-- True when bytes that a core's own writes give of a window are poisoned (R382). -/
def State.coreHurt (s : State) (c pa n : Nat) : Bool :=
  (s.core c).dirty.any (fun p => decide (pa ≤ p.1) && decide (p.1 < pa + n) && dirtyHurt p.2) ||
    s.reqs.any (fun r => r.core == c && !r.isBuf && r.acc.puts && r.stage != .served && hurtAt r.hurt pa n)

/-! Accesses of the machine itself (R355, R285) -/

/-- `n` bytes at an address of a page, as a device-scope load of the machine itself finds them; for a group it sees what its core's own stores give (R66). -/
def State.readPage (s : State) (w : Who) (e : TlbEntry) (va n : Nat) : Nat :=
  let p := s.frameAt w e va n
  let x := s.readCombined p.1 p.2.1
  if 4096 ≤ w.bench ∨ isHost p.1 then unpackVal p.2.2 n x
  else let v := s.coreView (w.bench / 2) p.1 p.2.1; unpackVal p.2.2 n (layOver (BitVec.ofNat 128 x, 0) v.1 v.2).1.toNat

/-- `n` bytes that the machine itself reads for a context, as a device-scope load; none where they are not mapped, or a translation is awaited (R355). -/
def State.readVA (s : State) (w : Who) (va n : Nat) : Option Nat :=
  match s.reach w .load va with
  | .page e => if s.tablesAwaited w e then none else some (s.readPage w e va n)
  | _ => none

/-- Reads `n` 64-bit words, the first lowest. -/
def State.readWords (s : State) (w : Who) (va : Nat) : Nat → Option Nat
  | 0 => some 0
  | n + 1 => (s.readVA w va 8).bind (fun x => (s.readWords w (va + 8) n).map (fun y => x + 2 ^ 64 * y))

/-! Copies (R50, R57, R68) -/

/-- A copy that may serve a load now: local `GTIME` < E − δ (R68). -/
def usable (now : Nat) (c : Copy) : Bool := decide (now + Config.delta < c.expiry)

/-- The usable L1 copy of a line in a core; a die out of bound serves none (R372). -/
def State.l1Copy (s : State) (c ln : Nat) : Option Copy :=
  if (s.die (c / Config.coresPerDie)).skew then none else
  s.copies.find? (fun x => x.unit == c && x.line == ln && usable (s.gtime (c / Config.coresPerDie)) x)

/-- The usable replica of a line on a die. -/
def State.replica (s : State) (d ln : Nat) : Option Copy :=
  if (s.die d).skew then none else
  s.replicas.find? (fun x => x.unit == d && x.line == ln && usable (s.gtime d) x)

/-- Bytes of a copy. -/
def Copy.read (c : Copy) (pa n : Nat) : QWord := BitVec.ofNat 128 (rdBytes c.bytes (pa % 128) n)

/-- The bytes of a line as its home holds them. -/
def lineBytes (m : List Host.Cell) (ln : Nat) : Nat → Sparse Byte → Sparse Byte
  | 0, b => b
  | k + 1, b => lineBytes m ln k (wrByte b k (rdByte m (128 * ln + k)))

/-- The die of a core's number. -/
def Req.die (r : Req) : Nat := r.core / Config.coresPerDie

/-- True when no older load or atomic of a request's lane on its bytes is still to be performed (R66, R67, log 91). -/
def State.laneFirst (s : State) (r : Req) : Bool :=
  !(s.reqs.any (fun q => decide (q.id < r.id) && !q.isBuf && !q.acc.puts && q.core == r.core && q.gid == r.gid && q.lane == r.lane &&
      q.stage != .served && overlap q.addr q.n r.addr r.n))

/-- The copy that may serve a load: its core's, or its die's (R68). A packed access that crosses into a second line goes on to the home (R58). -/
def State.nearCopy (s : State) (r : Req) : Option Copy :=
  if (linesOf r.addr r.n).length = 1 then (s.l1Copy r.core (lineOf r.addr)) <|> (s.replica r.die (lineOf r.addr)) else none

/-- The value of a load known without its home, and whether it is poisoned: its own core's bytes over an L1 copy or a replica (R66, R68, R70). None where the
load has to go on or to wait for an older one of its lane, and always for a word of a commutative range (R64). A `fixed` load takes no younger bytes. -/
def State.localVal (s : State) (r : Req) : Option (QWord × Bool) :=
  if r.combine ∨ isHost r.addr ∨ !s.laneFirst r then none
  else if r.fixed then (if r.mask = fullMask r.n then some (r.data, false) else none)
  else
    let v := s.coreView r.core r.addr r.n
    let hurt := s.coreHurt r.core r.addr r.n
    if v.2 = fullMask r.n then some (v.1, hurt) else
    (s.nearCopy r).map (fun c => ((layOver (c.read r.addr r.n, 0) v.1 v.2).1, hurt || hurtAt c.hurt r.addr r.n))

/-- The loads of a lane that a younger access of it would change take what their core's own bytes are now (R66). -/
def State.fixLoads (s : State) (gid lane core pa n : Nat) : State :=
  { s with
    reqs := updBy
      (fun q => !q.isBuf && q.acc == .load && !q.fixed && !q.combine && !isHost q.addr && q.gid == gid && q.lane == lane && q.core == core &&
        q.stage != .served && overlap q.addr q.n pa n)
      (fun q => { q with data := (s.coreView core q.addr q.n).1, mask := (s.coreView core q.addr q.n).2, fixed := true }) s.reqs }

/-! Sending -/

/-- The 1,024 sets of a claim map (R54, log 94). -/
def claimSet (gr : Nat) : Nat := gr % 1024

/-- Where a die sends a request (R54): itself when it is the home; else, at the storage die, the home it keeps; else its claim map's entry, or the
storage die. -/
def State.routeOf (s : State) (d pa : Nat) : Nat :=
  if s.homeOf pa = d ∨ storageDie pa = d then s.homeOf pa
  else match (s.die d).claims.find? (fun p => p.1 == granuleOf pa && p.2 != d) with
  | some p => p.2
  | none => storageDie pa

/-- A claim map with an entry installed or corrected: 8 ways, the oldest entry of a full set leaves (R54, log 94). -/
def installClaim (gr home : Nat) (l : List (Nat × Nat)) : List (Nat × Nat) :=
  let rest := l.filter (fun p => p.1 != gr)
  let set := rest.filter (fun p => claimSet p.1 == claimSet gr)
  (if set.length < 8 then rest else rest.erase (set.headD (0, 0))) ++ [(gr, home)]

/-- The requester installs the current home in its claim map (R54). -/
def State.learnHome (s : State) (die pa : Nat) : State :=
  s.onDie die (fun d => { d with claims := installClaim (granuleOf pa) (s.homeOf pa) d.claims })

/-- In an assay context what leaves the core waits in the group's SCB for its shadow (R266, R385). -/
def State.scbAdd (s : State) (uid : Nat) (e : Scb) : State :=
  if s.isAssay uid then
    s.onGroup uid (fun g => if (g.lanes.getD e.lane default).routine.isSome then g else { g with scb := g.scb ++ [{ e with at_ := s.cycle }] })
  else s

/-- What an instruction of the issuing bundle sends out under number `id`, other than an access, waits for its shadow (R295, R385). -/
def State.scbNote (s : State) (id : Nat) (op : Sent) (md : BitVec 8) (addr : DWord) (data : List QWord) : State :=
  s.scbAdd s.grp.uid
    { id := id, op := op, lane := (s.bundleLanes.head?.map (fun p => p.1)).getD 0, pc := s.bundle.pc, addr := addr, n := 0, data := data, md := md,
      logged := s.grp.logged, at_ := 0 }

/-- True while entry `id` of a group waits for its shadow (R385). -/
def State.unmatched (s : State) (uid id : Nat) : Bool := ((s.group uid).map (fun g => g.scb.any (fun e => e.id == id))).getD false

/-- True while some shadow of an assay group's cluster is behind: what a rollback must not repeat stays in its core until all have agreed (R385 to R387, log 21). -/
def State.behind (s : State) (uid : Nat) : Bool :=
  s.isAssay uid && s.allGroups.any (fun g => g.method.isNone && (s.team g.team).cluster == (s.team (((s.group uid).map (fun x => x.team)).getD 0)).cluster &&
    !(g.log.isEmpty && g.scb.isEmpty))

/-- True for a request that a re-execution may make again: loads, and stores to the device's own memory (R386, R387). -/
def Req.repeatable (r : Req) : Bool := r.acc == .load || (r.acc == .store && !isHost r.addr) || r.gid == 0

/-- True while a request waits for its shadow, or, where it must not be repeated, for every shadow of its cluster (R385, R387). -/
def State.inScb (s : State) (r : Req) : Bool := s.unmatched r.gid r.id || (!r.repeatable && s.behind r.gid)

/-- Appends a request under a fresh number. -/
def State.addReq (s : State) (r : Req) : State :=
  let s1 := { s with reqs := s.reqs ++ [{ r with id := s.nextId }], nextId := s.nextId + 1 }
  if r.acc = .load then s1
  else
    s1.scbAdd r.gid
      { id := s.nextId, op := .access r.acc, lane := r.lane, pc := r.pc, addr := r.va, n := r.n, data := [r.data, r.cmp], md := r.md, logged := r.logged, at_ := 0 }

/-- Removes a request. -/
def State.dropReq (s : State) (id : Nat) : State := { s with reqs := s.reqs.filter (fun r => r.id != id) }

/-- Changes a request. -/
def State.onReq (s : State) (id : Nat) (f : Req → Req) : State := { s with reqs := updBy (fun r => r.id == id) f s.reqs }

/-- The request with a number. -/
def State.req (s : State) (id : Nat) : Option Req := s.reqs.find? (fun r => r.id == id)

/-- The bits `mask` of `n` bytes at `pa`, as far as they lie in a line, laid over that line's bytes. -/
def overBytes (ln pa : Nat) (data mask : QWord) : Nat → Sparse Byte → Sparse Byte
  | 0, b => b
  | n + 1, b =>
    let a := pa + n
    let m : Byte := (mask >>> (8 * n)).setWidth 8
    let x : Byte := (data >>> (8 * n)).setWidth 8
    overBytes ln pa data mask n (if lineOf a = ln then wrByte b (a % 128) ((rdByte b (a % 128) &&& ~~~m) ||| (x &&& m)) else b)

/-- A store towards the home updates the core's L1 copies and removes the die's replicas (R57, R66). -/
def State.touchCopies (s : State) (c pa n : Nat) (data mask : QWord) : State :=
  let put (x : Copy) : Copy :=
    { x with bytes := overBytes x.line pa data mask n x.bytes, hurt := if mask = fullMask n then clearPoison x.hurt pa n else x.hurt }
  { s with
    copies := updBy (fun x => x.unit == c && (linesOf pa n).contains x.line) put s.copies
    replicas := s.replicas.filter (fun x => !(x.unit == c / Config.coresPerDie && (linesOf pa n).contains x.line)) }

/-- Drops the copies of `n` bytes that a core's L1 and its die hold. -/
def State.dropCopies (s : State) (c pa n : Nat) : State :=
  { s with
    copies := s.copies.filter (fun x => !(x.unit == c && (linesOf pa n).contains x.line))
    replicas := s.replicas.filter (fun x => !(x.unit == c / Config.coresPerDie && (linesOf pa n).contains x.line)) }

/-- Clears dirty bytes. -/
def cleanBytes (d : Sparse (BitVec 16)) (pa : Nat) : Nat → Sparse (BitVec 16)
  | 0 => d
  | n + 1 => cleanBytes (sput 0 d (pa + n) 0) pa n

/-- Bytes of a store sent to the home supersede the core's dirty bytes: a byte written whole is dirty no more, one written in part
takes the new bits (R66, log 31). -/
def supersedeBytes (d : Sparse (BitVec 16)) (pa : Nat) (data mask : QWord) : Nat → Sparse (BitVec 16)
  | 0 => d
  | n + 1 =>
    let m : BitVec 8 := (mask >>> (8 * n)).setWidth 8
    let x : BitVec 8 := (data >>> (8 * n)).setWidth 8
    let old := sget 0 d (pa + n)
    let b : BitVec 16 :=
      if m = 0xFF then 0 else if old = 0 then 0 else (old &&& 0xFF00) ||| (((old.setWidth 8) &&& ~~~m) ||| (x &&& m)).setWidth 16
    supersedeBytes (sput 0 d (pa + n) b) pa data mask n

/-- A store towards the home takes its bits from the older stores of its core that wait in the core (R66, R67). -/
def State.supersedeWaiting (s : State) (c pa n : Nat) (mask : QWord) : State :=
  { s with
    reqs := updBy (fun r => r.inCore && r.core == c && overlap r.addr r.n pa n) (fun r => { r with mask := r.mask &&& ~~~(moveTo mask pa r.addr) }) s.reqs }

/-- A store of the core towards its home: it updates the copies and supersedes dirty bytes and what waits in the core (R66, R83). -/
def State.touchCore (s : State) (c pa n : Nat) (data mask : QWord) : State :=
  (((s.touchCopies c pa n data mask).supersedeWaiting c pa n mask)).onCore c (fun k => { k with dirty := supersedeBytes k.dirty pa data mask n })

/-- Makes the bytes that have bits in `mask` dirty with a value. `place` is 1 + the place of the first byte in a T6 page's block of 12, 0 on other pages. -/
def dirtyBytes (d : Sparse (BitVec 16)) (pa : Nat) (x mask : QWord) (place : Nat) (hurt : Nat → Bool) : Nat → Sparse (BitVec 16)
  | 0 => d
  | n + 1 =>
    let b := dirtyByte ((x >>> (8 * n)).setWidth 8) (if place = 0 then 0 else 1 + (place - 1 + n) % 12) (hurt (pa + n))
    dirtyBytes (if (mask >>> (8 * n)).setWidth 8 = (0 : Byte) then d else sput 0 d (pa + n) b) pa x mask place hurt n

/-- 1 + the place of a T6 access's first byte in its page's block of 12, which 16 aligned VA bytes fill; 0 for other accesses (R58). -/
def Req.place12 (r : Req) : Nat := if r.six = 0 then 0 else 1 + 6 * (r.va.toNat % 16) / 8 % 12

/-- True when a dirty byte goes home with the one before it: inside a 16-byte block, or inside a T6 page's block of 12, so that no aligned access is torn (R247). -/
def joins (a : Nat) (x y : BitVec 16) : Bool :=
  if dirtyPlace x = 0 then dirtyPlace y == 0 && (a + 1) % 16 != 0 else dirtyPlace y == dirtyPlace x + 1

/-- Consecutive dirty bytes gathered to write-backs, in address order: address, bytes, data, and the poisoned blocks. -/
def gather : List (Nat × BitVec 16) → List (Nat × Nat × QWord × List Nat)
  | [] => []
  | (a, x) :: rest =>
    let b : QWord := (x.setWidth 8).setWidth 128
    let h := if dirtyHurt x then [a / 8 * 8] else []
    match gather rest, rest with
    | (a2, n2, v2, h2) :: more, (_, y) :: _ =>
      if a2 = a + 1 ∧ joins a x y then (a, n2 + 1, (v2 <<< 8) ||| b, h ++ h2.filter (fun k => !h.contains k)) :: more
      else (a, 1, b, h) :: (a2, n2, v2, h2) :: more
    | _, _ => [(a, 1, b, h)]

/-- A write-back request of a core. -/
def wbReq (s : State) (c : Nat) (p : Nat × Nat × QWord × List Nat) : Req :=
  { (default : Req) with
    core := c, acc := .writeback, addr := p.1, n := p.2.1, data := p.2.2.1, mask := fullMask p.2.1, scope := 2, lease := 1,
    repl := true, target := s.routeOf (c / Config.coresPerDie) p.1, stage := .sent, hurt := p.2.2.2 }

/-- Writes back the dirty bytes of a core that satisfy `p`: they leave towards their homes (R49, R50, R72, R75, R78, R259). -/
def State.writeBack (s : State) (c : Nat) (p : Nat → Bool) : State :=
  let d := (s.core c).dirty
  let rs := (gather (d.filter (fun e => p e.1))).map (wbReq s c)
  let send (t : State) (r : Req) : State := (t.touchCopies c r.addr r.n r.data r.mask).addReq r
  rs.foldl send (s.onCore c (fun k => { k with dirty := d.filter (fun e => !p e.1) }))

/-! Numbered operations (R156, R157) -/

/-- The number by which the fabric port of a window's hub is an owner: 16 for H0 and 17 for H1, by PA[49] (R160, R371, R374). -/
def hubOf (pa : Nat) : Nat := 16 + pa / 2 ^ 49 % 2

/-- A hub is passed over for a window by the traffic of a die whose fabric port there is held down, and for a peer whose Ethernet port is (R374, R393, log 116). -/
def State.hubDown (s : State) (hub die pa : Nat) : Bool :=
  let out (ty ix : Nat) : Bool := s.mgmt.quarantine.contains (unitId ty (hub - 16) ix)
  out 9 (Config.portOf die % 2) || (isPeer pa && out 10 (pa / 2 ^ 46 % 8))

/-- The hub that serves a window for a die: the one that its address names, or the other one while that is held down (R393). -/
def State.hubFor (s : State) (die pa : Nat) : Nat :=
  let h := hubOf pa
  if s.hubDown h die pa && !s.hubDown (33 - h) die pa then 33 - h else h

/-- No hub takes a die's traffic to a window (R393). -/
def State.hubsDown (s : State) (die pa : Nat) : Bool := s.hubDown 16 die pa && s.hubDown 17 die pa

/-- True for the number of a hub's port. -/
def isHub (d : Nat) : Bool := 16 ≤ d

/-- The incarnation of an owner as a requester knows it. -/
def State.incOf (s : State) (d : Nat) : BitVec 16 := if d < 16 then (s.die d).inc else 1

/-- `ACKW` of a requester: the oldest RSN it has not completed (R156). -/
def State.ackw (s : State) (die : Nat) : BitVec 32 := ((s.rops.find? (fun r => r.die == die)).map (fun r => r.rsn)).getD (s.die die).rsn

/-- The header as 384 bits, and the header that 384 bits give; reserved bits are zero (R371, Table 4). -/
def Jdp.word (h : Jdp) : BitVec 384 :=
  BitVec.ofNat 384 (h.src.toNat + 2 ^ 6 * h.dst.toNat + 2 ^ 12 * h.cls.toNat + 2 ^ 16 * h.opc.toNat + 2 ^ 24 * h.reqid.toNat + 2 ^ 32 * h.rsn.toNat +
    2 ^ 64 * h.owninc.toNat + 2 ^ 80 * h.reqinc.toNat + 2 ^ 96 * h.addr.toNat + 2 ^ 148 * h.asid.toNat + 2 ^ 160 * h.stamp.toNat +
    2 ^ 224 * h.rqtag.toNat + 2 ^ 240 * h.plen.toNat + 2 ^ 256 * h.ackw.toNat)
def Jdp.ofWord (x : BitVec 384) : Jdp :=
  { src := x.extractLsb' 0 6, dst := x.extractLsb' 6 6, cls := x.extractLsb' 12 3, opc := x.extractLsb' 16 8, reqid := x.extractLsb' 24 8,
    rsn := x.extractLsb' 32 32, owninc := x.extractLsb' 64 16, reqinc := x.extractLsb' 80 16, addr := x.extractLsb' 96 52, asid := x.extractLsb' 148 12,
    stamp := x.extractLsb' 160 64, rqtag := x.extractLsb' 224 16, plen := x.extractLsb' 240 16, ackw := x.extractLsb' 256 32 }

/-- The fields of a numbered request's header by which its owner knows it (R156). -/
def RMsg.rsn (m : RMsg) : BitVec 32 := m.hdr.rsn
def RMsg.reqinc (m : RMsg) : BitVec 16 := m.hdr.reqinc
def RMsg.owninc (m : RMsg) : BitVec 16 := m.hdr.owninc
def RMsg.ackw (m : RMsg) : BitVec 32 := m.hdr.ackw

/-- The number of a request's requester at its owner: a die of the module by its REQID, and the requesters of peers after those (R158, R376). -/
def RMsg.die (m : RMsg) : Nat := if m.what = .peer then 256 + m.hdr.reqid.toNat else m.hdr.reqid.toNat

/-- The kind of a numbered request, by which its operation code is chosen, its class, its address, its context and its payload bytes (R371, log 133). -/
def Numbered.kind : Numbered → Nat
  | .atom r => match r.acc with | .load => 0 | .store => 1 | _ => 2
  | .append _ => 3
  | .launch _ => 4
  | .flush _ => 5
  | .peer => 6
def Numbered.cls : Numbered → BitVec 3
  | .append _ => 4
  | _ => 0
def Numbered.addr : Numbered → Nat
  | .atom r => r.addr
  | .flush r => r.addr
  | _ => 0
def State.numberedAsid (s : State) : Numbered → Nat
  | .atom r => r.asid
  | .append c => ((s.objs.find? (fun o => o.id == c.obj)).map (fun o => o.asid)).getD 0
  | .launch lid => ((s.grids.find? (fun g => g.lid == lid)).map (fun g => g.asid)).getD 0
  | _ => 0
def Numbered.bytes : Numbered → Nat
  | .atom r => match r.acc with | .load => 0 | .cas => 2 * r.n | _ => r.n
  | .append c => 8 * c.args.length
  | .launch _ => 256
  | .flush _ => 4
  | .peer => 0

/-- A copy for a window whose hubs are both held down is lost (R157, R393). -/
def State.portLost (s : State) (r : Rop) : Bool :=
  match r.what with
  | .atom q => isHub r.dst && s.hubDown r.dst r.die q.addr
  | _ => false

/-- The header of a copy of a numbered operation: it carries the requester's ACKW as it is then (R156, R371, R389). -/
def State.ropHeader (s : State) (r : Rop) : Jdp :=
  { src := BitVec.ofNat 6 r.die, dst := BitVec.ofNat 6 r.dst, cls := r.what.cls, opc := Config.opcode r.what.kind, reqid := BitVec.ofNat 8 r.die, rsn := r.rsn,
    owninc := r.owninc, reqinc := r.reqinc, addr := BitVec.ofNat 52 r.what.addr, asid := BitVec.ofNat 12 (s.numberedAsid r.what), stamp := 0,
    rqtag := BitVec.ofNat 16 r.rqtag, plen := BitVec.ofNat 16 r.what.bytes, ackw := s.ackw r.die }

/-- A copy of a numbered operation leaves (R156, R157). -/
def State.sendCopy (s : State) (r : Rop) : State :=
  if s.portLost r then s else
  { s with rmsgs := s.rmsgs ++ [{ rop := r.id, copy := r.copies, at_ := r.dst, hdr := s.ropHeader r, what := r.what }] }

/-- The RSN after one: they rise modulo 2^32, and 0 is that of unnumbered messages (R156, R371, log 113). -/
def nextRsn (r : BitVec 32) : BitVec 32 := if r + 1 = 0 then 1 else r + 1

/-- A numbered operation of a die gets the next RSN and is sent (R156, R157). -/
def State.newRop (s : State) (die dst rqtag : Nat) (what : Numbered) : State :=
  let d := s.die die
  let r : Rop :=
    { id := s.nextId, die := die, rsn := d.rsn, reqinc := d.inc, owninc := s.incOf dst, dst := dst, rqtag := rqtag, what := what,
      isHeld := false, start := s.gtime die, sentAt := s.gtime die, copies := 1, lastBusy := false, replies := [], answers := 0 }
  ({ (s.onDie die (fun d => { d with rsn := nextRsn d.rsn })) with rops := s.rops ++ [r], nextId := s.nextId + 1 }).sendCopy r

/-- At most 2^20 operations of a requester are outstanding; beyond that the bundle stalls (R156). -/
def State.ropsFull (s : State) (die more : Nat) : Bool := decide (2 ^ 20 < (s.rops.filter (fun r => r.die == die)).length + more)

/-- A request tag that no record carries: that of an operation no group owns. -/
def noTag : Nat := 65536

/-- The request tag under which a group runs. -/
def State.tagOf (s : State) (uid : Nat) : Nat := ((s.group uid).map (fun g => (s.gridOf (s.team g.team)).rqtag)).getD 0

/-- The PASID that a context's accesses to the host carry in HOST mode (R355, R374). -/
def State.pasidOf (s : State) (asid : Nat) : BitVec 20 :=
  if s.hostMode then ((s.ctxs.find? (fun c => c.asid == asid)).map (fun c => c.desc.extractLsb' 76 20)).getD 0 else 0

/-- A write of the machine itself to a window (R374, R376): the host's leaves with the context's PASID, and a peer's is a numbered operation of the die that no group waits for. -/
def State.hostPut (s : State) (asid core pa n : Nat) (data mask : QWord) : State :=
  if isPeer pa then
    let r : Req := { (default : Req) with core := core, acc := .store, addr := pa, n := n, data := data, mask := mask, asid := asid, scope := 3, stage := .port }
    s.newRop r.die (s.hubFor r.die pa) noTag (.atom r)
  else { s with out := s.out ++ [.hostWrite (s.pasidOf asid) pa data mask] }

/-- A flush request for one word of a partial (R63). -/
def flushReq (s : State) (pt : Partial) (p : Nat × Word) : Req :=
  { (default : Req) with
    core := pt.core, acc := .flush pt.op, addr := 128 * pt.line + 4 * p.1, n := 4, data := p.2.setWidth 128, mask := fullMask 4,
    scope := 2, lease := 1, repl := true, target := s.routeOf (pt.core / Config.coresPerDie) (128 * pt.line), stage := .sent }

/-- A flush leaves for the home; across dies it is a numbered operation under no request tag (R63, R156). While the die's ROU has its 2^20 operations
outstanding it waits at the port for a number. -/
def State.sendFlush (s : State) (r : Req) : State :=
  if s.homeOf r.addr = r.die then s.addReq r
  else
    let q : Req := { r with id := s.nextId, stage := .port }
    let s1 := s.addReq q
    if s.ropsFull r.die 1 then s1 else s1.newRop r.die r.target noTag (.flush q)

/-- Flushes the commutative partials of a core that satisfy `p` (R63). -/
def State.flushPartials (s : State) (c : Nat) (p : Partial → Bool) : State :=
  let mine (x : Partial) : Bool := x.core == c && p x
  let rs := (s.partials.filter mine).flatMap (fun x => x.words.map (flushReq s x))
  let send (t : State) (r : Req) : State :=
    { t.sendFlush r with replicas := t.replicas.filter (fun x => !(x.unit == c / Config.coresPerDie && x.line == lineOf r.addr)) }
  rs.foldl send { s with partials := s.partials.filter (fun x => !mine x) }

/-! The L1's sets and ways (R48, R50) -/

/-- The lines a core's L1 holds: copies, dirty lines and partials. -/
def State.l1Lines (s : State) (c : Nat) : List Nat :=
  ((s.copies.filter (fun x => x.unit == c && usable (s.gtime (c / Config.coresPerDie)) x)).map (fun x => x.line) ++ (s.core c).dirty.map (fun e => lineOf e.1) ++
    (s.partials.filter (fun p => p.core == c)).map (fun p => p.line)).dedup

/-- True for a core out of service, or whose copy engine is (R393). -/
def State.coreIsOut (s : State) (c : Nat) : Bool :=
  [0, 8].any (fun ty => s.mgmt.quarantine.contains (unitId ty (c / Config.coresPerDie) (c % Config.coresPerDie)))

/-- The ways of a core's L1: its own 8, and one for each ABUF and WBUF segment that no team owns (R48); a core out of service lends none (R393). -/
def State.l1Ways (s : State) (c : Nat) : Nat :=
  if s.coreIsOut c then 8 else 64 - ((s.teams.filter (fun t => t.die * Config.coresPerDie + t.core == c)).map (fun t => t.asegs.length + t.wsegs.length)).sum

/-- A line leaves a core's L1: dirty bytes are written back and a partial is flushed (R50, R63, R75). -/
def State.evictLine (s : State) (c ln : Nat) : State :=
  let s1 := (s.writeBack c (fun a => lineOf a == ln)).flushPartials c (fun p => p.line == ln)
  { s1 with copies := s1.copies.filter (fun x => !(x.unit == c && x.line == ln)) }

/-- Makes room for a line in its set, PA[13:7], of a core's L1. Replacement is not architectural (R50): the line that leaves is a free choice (log 6). -/
def State.makeRoom (s : State) (c ln : Nat) : State :=
  let here := (s.l1Lines c).filter (fun x => x % 128 == ln % 128)
  if here.contains ln ∨ here.length < s.l1Ways c then s
  else match here[(Config.freeValue s.free).toNat % here.length]? with
  | some v => (s.evictLine c v).useFree
  | none => s

/-- What a core's L1 finds of `n` bytes below its own writes: its copy, or the home's bytes where it has none (log 30). -/
def State.underL1 (s : State) (c pa n : Nat) : QWord :=
  match s.l1Copy c (lineOf pa), linesOf pa n with
  | some k, [_] => k.read pa n
  | _, _ => BitVec.ofNat 128 (s.readPhys pa n)

/-- True when the 8-byte block of an address stands poisoned in a core's L1 (R382). -/
def State.l1Hurt (s : State) (c a : Nat) : Bool :=
  let b := a / 8 * 8
  s.coreHurt c b 8 || (match s.l1Copy c (lineOf b) with | some k => k.hurt.contains b | none => !isHost b && s.poison.contains b)

/-- A team-scope store in the L1: the bytes become dirty; a byte written in part takes the rest from what the core sees, and a block that was poisoned and is not
written whole stays so (R75, R382, log 30). -/
def State.writeL1 (s0 : State) (c pa n : Nat) (data mask : QWord) (place : Nat) : State :=
  let s := (linesOf pa n).foldl (fun t ln => t.makeRoom c ln) s0
  let whole (a : Nat) : Bool := mask == fullMask n && decide (pa ≤ a / 8 * 8) && decide (a / 8 * 8 + 8 ≤ pa + n)
  let seen := s.coreView c pa n
  let base := (layOver (s.underL1 c pa n, 0) seen.1 seen.2).1
  let v := (base &&& ~~~mask) ||| (data &&& mask)
  let clear (x : Copy) : Copy := if mask = fullMask n then { x with hurt := clearPoison x.hurt pa n } else x
  ({ s with copies := updBy (fun x => x.unit == c) clear s.copies }).onCore c (fun k =>
    { k with dirty := dirtyBytes k.dirty pa v mask place (fun a => !whole a && s.l1Hurt c a) n })

/-! At the home -/

/-- The time at the home of an address. -/
def State.homeNow (s : State) (pa : Nat) : Nat := s.gtime (s.homeOf pa)

/-- The write completion time a write of `n` bytes reaching the home now is given (R69). -/
def State.nextW (s : State) (pa n : Nat) : Nat :=
  (linesOf pa n).foldl (fun m ln => max m (max (max (s.homeNow pa) (s.horizonOf ln) + Config.delta) (s.line ln).w)) 0

/-- True when the last write of every line of `n` bytes at `pa` has reached its W, so that a device-scope load of them is not held (R69). -/
def State.settled (s : State) (pa n : Nat) : Bool :=
  isHost pa || s.lines.all (fun q => decide (128 * q.1 + 128 ≤ pa) || decide (pa + n ≤ 128 * q.1) || decide (q.2.w ≤ s.homeNow pa))

/-- True when `n` bytes at an address of a page can be read at once by a device-scope load of the machine (R69, R365). -/
def State.pageReady (s : State) (w : Who) (e : TlbEntry) (va n : Nat) : Bool :=
  !s.tablesAwaited w e && (let p := s.frameAt w e va n; s.settled p.1 p.2.1)

/-- Counts a write of a compute die to a granule, saturating at 255 (R55). -/
def countWrite (d : Nat) (g : Granule) : Granule :=
  if 16 ≤ d then g else
  let c := sget 0 g.counts d
  { g with counts := sput 0 g.counts d (if c = 255 then 255 else c + 1) }

/-- True for a granule whose counts stand in the table of a slice of a die: that of its first line's slice at its home (R55, log 95). -/
def countedAt (home slice : Nat) (p : Nat × Granule) : Bool := p.2.home == home && sliceOf (p.1 * 65536) == slice && !p.2.counts.isEmpty

/-- Counts a write of die `d` to a granule. The granules stand in the order of their last writes: a table of 4,096 granules that is full loses the counts of
the one least recently written (R55). -/
def State.noteWrite (s : State) (d gr : Nat) : State :=
  let g := s.granule gr
  let rest := s.granules.filter (fun p => p.1 != gr)
  let table := rest.filter (countedAt g.home (sliceOf (gr * 65536)))
  let kept := if table.length < 4096 then rest
    else updBy (fun p => some p.1 == table.head?.map (fun q => q.1)) (fun p => (p.1, { p.2 with counts := [] })) rest
  { s with granules := kept ++ [(gr, countWrite d g)] }

/-- The bits of a write that reach memory: once stage 6 has begun none of the discovery structure's, which is read-only (R370, log 134). -/
def State.openMask (s : State) (pa : Nat) (mask : QWord) : Nat → QWord
  | 0 => mask
  | n + 1 =>
    let m := s.openMask pa mask n
    match s.hub.disc with
    | some d => if 6 ≤ s.hub.stage ∧ d * 2 ^ 37 ≤ pa + n ∧ pa + n < d * 2 ^ 37 + 2112 then m &&& ~~~((0xFF : QWord) <<< (8 * n)) else m
    | none => m

/-- Orders a write of the machine's own at its home: the lines' W and code 0 span, the granule's count, and the bytes (R67 to R69, R55). -/
def State.orderRaw (s : State) (d : Nat) (lease : BitVec 2) (pa n : Nat) (data mask : QWord) : State :=
  let now := s.homeNow pa
  let w := s.nextW pa n
  let mark (t : State) (ln : Nat) : State :=
    t.onLine ln (fun l => { l with w := w, hot := if now < s.horizonOf ln ∧ lease ≠ 3 then now + 1000000 else l.hot })
  (((linesOf pa n).foldl mark s).noteWrite d (granuleOf pa)).writePhys pa n data mask

/-- Orders a write at its home, what is read-only left as it is (R370). -/
def State.orderWrite (s : State) (d : Nat) (lease : BitVec 2) (pa n : Nat) (data mask : QWord) : State :=
  s.orderRaw d lease pa n data (s.openMask pa mask n)

/-- The lease code the home grants by: 0 in the span after a write under a horizon, unless the code is 3 (R68). -/
def grantCode (now : Nat) (l : Line) (lease : BitVec 2) : BitVec 2 := if now < l.hot ∧ lease ≠ 3 then 0 else lease

/-- The poisoned blocks of a line (R382). -/
def State.lineHurt (s : State) (ln : Nat) : List Nat := s.poison.filter (fun b => decide (128 * ln < b + 8) && decide (b < 128 * ln + 128))

/-- A copy of a line in its core's L1, in the place of an older one (R50). -/
def State.putCopy (s : State) (c : Copy) : State :=
  let s1 := s.makeRoom c.unit c.line
  { s1 with copies := s1.copies.filter (fun x => !(x.unit == c.unit && x.line == c.line)) ++ [c] }

/-- The ways of a slice that a class may allocate in, less those out of service (R363, R393). -/
def State.wayCount (s : State) (die slice : Nat) (m : BitVec 16) : Nat :=
  ((List.range 16).filter (fun i => m.getLsbD i && !s.mgmt.quarantine.contains (unitId 2 die (16 * slice + i)))).length

/-- A replica of a line in its die's slice: slice and set are the line's (R51), and its class bounds the ways of the set. Of a full set one of the
replicas of the oldest insertion age leaves; which of them is a free choice (R57, R363, log 6, log 142). -/
def State.putReplica (s : State) (ways : BitVec 16) (c : Copy) : State :=
  let rest := s.replicas.filter (fun x => !(x.unit == c.unit && x.line == c.line))
  let set := rest.filter (fun x => x.unit == c.unit && sliceOf (128 * x.line) == sliceOf (128 * c.line) && x.line % 4096 == c.line % 4096 &&
    usable (s.gtime c.unit) x)
  if set.length < s.wayCount c.unit (sliceOf (128 * c.line)) ways then { s with replicas := rest ++ [c] }
  else
    let age := set.foldl (fun m x => min m x.age.toNat) 3
    let old := set.filter (fun x => x.age.toNat == age)
    match old[(Config.freeValue s.free).toNat % old.length]? with
  | some v => { s.useFree with replicas := rest.erase v ++ [c] }
  | none => s

/-- LEASE_GRANT (R68): the home grants a lease with expiry E and raises the horizon; the line is copied to the requesting L1, and
to the die's slice when the class allows replicas (a slice prefetch fills no L1 line). No lease is granted while a write's W lies ahead, on a combined line, or by a
die out of bound (R372). -/
def State.grantLease (s : State) (r : Req) : State :=
  let ln := lineOf r.addr
  let l := s.line ln
  let now := s.homeNow r.addr
  let home := s.homeOf r.addr
  if isHost r.addr ∨ r.combine ∨ now < l.w ∨ (s.die home).skew then s else
  let code := grantCode now l r.lease
  let e := now + leaseTicks code
  if code = 3 ∧ r.die ≠ home then s else
  let s1 := s.onLine ln (fun l => { l with horizon := max l.horizon e })
  let cp : Copy := { unit := r.core, line := ln, expiry := e, bytes := lineBytes s.mem ln 128 [], hurt := s.lineHurt ln, age := r.age }
  let s2 := if r.acc = .load ∧ r.l1 then s1 else s1.putCopy cp
  if r.die ≠ home ∧ r.repl ∧ code ≠ 3 then s2.putReplica r.ways { cp with unit := r.die } else s2

/-- The word an atomic writes (R252, Table 5), on `w`-bit patterns. -/
def atomApply (o : AtomOp) (ty : BitVec 5) (w m b : Nat) : Nat :=
  let sg := ty == 0 || ty == 2
  let le : Bool := if sg then decide (sextNat w m ≤ sextNat w b) else decide (m ≤ b)
  match o with
  | .add => (m + b) % 2 ^ w
  | .min => if le then m else b
  | .max => if le then b else m
  | .and => m &&& b
  | .or => m ||| b
  | .xor => m ^^^ b
  | .exch => b
  | .fadd => Block.addF32 m b

/-- What an atomic request makes of the value `m` of its bytes. -/
def Req.newVal (r : Req) (m : Nat) : Nat :=
  match r.acc with
  | .atom op ty => atomApply op ty (8 * r.elems) m r.data.toNat
  | .cas => if m = r.cmp.toNat then r.data.toNat else m
  | _ => m

/-- Two atomics of one bundle on one word (R247). -/
def Req.sibling (r q : Req) : Bool :=
  q.op == r.op && r.op != 0 && q.gid == r.gid && q.isBuf == r.isBuf && q.team == r.team && q.region == r.region && q.addr == r.addr
    && q.n == r.n

/-- True for a poisoned block among the `n` bytes at an address (R382). -/
def State.poisonedAt (s : State) (pa n : Nat) : Bool := !isHost pa && hurtAt s.poison pa n

/-- Performs one atomic at the home of its word: the answer and its W stand in the request; its bundle has then begun on the word (R69, R77, R247). -/
def State.atomHome (s : State) (r : Req) : State :=
  let old := s.readPhys r.addr r.n
  let hurt := r.poisoned || s.poisonedAt r.addr r.n
  let m := unpackVal r.six r.elems old
  let (d, k) := packVal r.six r.elems r.n (r.newVal m)
  let w := s.nextW r.addr r.n
  let s0 := ((s.orderWrite r.die r.lease r.addr r.n d k).dropCopies r.core r.addr r.n).useFree
  let s1 := if hurt then { s0 with poison := addPoison s0.poison r.addr r.n } else s0
  let begun (q : Req) : Bool := r.sibling q && q.id != r.id && q.stage != .served
  ({ s1 with reqs := updBy begun (fun q => { q with run := true }) s1.reqs }).onReq r.id
    (fun q => { q with stage := .served, val := BitVec.ofNat 128 old, w := w, poisoned := hurt })

/-- Performs a team-scope atomic in the L1: the word as the core sees it over `under`, written back dirty, poisoned when what it read was (R75, R77, R382). -/
def State.atomL1 (under : QWord) (hurt : Bool) (s0 : State) (r : Req) : State :=
  let s := (linesOf r.addr r.n).foldl (fun t ln => t.makeRoom r.core ln) s0
  let seen := s.coreView r.core r.addr r.n
  let old := (layOver (under, 0) seen.1 seen.2).1
  let m := unpackVal r.six r.elems old.toNat
  let (d, k) := packVal r.six r.elems r.n (r.newVal m)
  let v := (old &&& ~~~k) ||| (d &&& k)
  let bad := (hurt && seen.2 != fullMask r.n) || s.coreHurt r.core r.addr r.n
  (s.onCore r.core (fun c => { c with dirty := dirtyBytes c.dirty r.addr v k r.place12 (fun a => bad || s.l1Hurt r.core a) r.n })).onReq r.id
    (fun q => { q with stage := .served, val := old, poisoned := bad })

/-- The unperformed atomics of a bundle on the word of one of them, in ascending lane order (R247). -/
def State.siblings (s : State) (r : Req) : List Req := s.reqs.filter (fun q => r.sibling q && q.stage != .served && q.stage != .port)

/-- Performs a team-scope atomic and, in ascending lane order, the others of its bundle on the same word, which need no fetch of their own (R77, R247, log 128). -/
def State.atomsL1 (s : State) (under : QWord) (hurt : Bool) (r : Req) : State := (s.siblings r).foldl (State.atomL1 under hurt) s

/-- Folds a flushed word into the home value; with its last flush on its way the core leaves the holder set, unless it holds a new partial of the line
(R63). -/
def State.flushHome (s : State) (r : Req) (op : CommOp) : State :=
  let old := s.readPhys r.addr 4
  let w := s.nextW r.addr 4
  let v := commFold op (BitVec.ofNat 32 old) (r.data.setWidth 32)
  let s1 := s.orderWrite r.die r.lease r.addr 4 (v.setWidth 128) (fullMask 4)
  let more := s1.reqs.any (fun q => q.id != r.id && q.core == r.core && q.acc.isFlush && lineOf q.addr == lineOf r.addr && q.stage != .served) ||
    s1.partials.any (fun p => p.core == r.core && p.line == lineOf r.addr)
  let s2 := if more then s1 else s1.onLine (lineOf r.addr) (fun l => { l with holders := l.holders.filter (fun c => c != r.core) })
  s2.onReq r.id (fun q => { q with stage := .served, w := w })

/-- Serves a load at its home: the value with its own core's bytes laid over it, and a lease (R66, R68). -/
def State.loadHome (s : State) (r : Req) : State :=
  let x : QWord := BitVec.ofNat 128 (s.readPhys r.addr r.n)
  let k := if r.fixed then (r.data, r.mask) else if isHost r.addr ∨ r.combine then (0, 0) else s.coreView r.core r.addr r.n
  let v := (layOver (x, 0) k.1 k.2).1
  (s.grantLease r).onReq r.id (fun q => { q with stage := .served, val := v, poisoned := r.poisoned || s.poisonedAt r.addr r.n })

/-- Performs a store or a write-back at its home; data that arrived poisoned marks its blocks (R381, R382). -/
def State.storeHome (s : State) (r : Req) : State :=
  let s1 := (s.orderWrite r.die r.lease r.addr r.n r.data r.mask).touchCopies r.core r.addr r.n r.data r.mask
  let s2 := s1.onReq r.id (fun q => { q with stage := .served, w := s.nextW r.addr r.n })
  let s3 := { s2 with poison := s2.poison ++ r.hurt.filter (fun b => !s2.poison.contains b) }
  if r.poisoned then { s3 with poison := addPoison s3.poison r.addr r.n } else s3

/-- A team-scope atomic fetches its line under its lease and is performed in the L1 with its bundle's others on the word (R77); while one of those has an older
access of its lane to wait for, it stays in its core. -/
def State.fetchAtoms (s : State) (r : Req) : State :=
  let s1 := (linesOf r.addr r.n).foldl (fun t ln => t.grantLease { r with addr := max r.addr (128 * ln) }) s
  if (s1.siblings r).all s1.laneFirst then s1.atomsL1 (BitVec.ofNat 128 (s.readPhys r.addr r.n)) (r.poisoned || s.poisonedAt r.addr r.n) r
  else s1.onReq r.id (fun q => { q with stage := .sent, seq := 0 })

/-- Performs a request at its home (R69, R77). -/
def State.serveHome (s : State) (r : Req) : State :=
  match r.acc with
  | .load => s.loadHome r
  | .store => s.storeHome r
  | .writeback => s.storeHome r
  | .flush op => s.flushHome r op
  | .atom _ _ => if r.l1 then s.fetchAtoms r else s.atomHome r
  | .cas => if r.l1 then s.fetchAtoms r else s.atomHome r
  | .comm _ => s

/-! Input queues of slices (R52, R296, R297) -/

/-- True for a load that its core's L1 or its die's slice answers: it does not go to the home (R68). -/
def State.staysHere (s : State) (r : Req) : Bool := r.acc == .load && (s.localVal r).isSome

/-- True for requests to one slice of one die. -/
def Req.sameSlice (r q : Req) : Bool := q.target == r.target && sliceOf q.addr == sliceOf r.addr && !q.isBuf && !isHost q.addr

/-- True for a numbered request that no owner has received (R156). -/
def State.unreceived (s : State) (q : Req) : Bool :=
  q.stage == .port && !(s.receipts.any (fun x => match x.what with | .atom y => y.id == q.id | .flush y => y.id == q.id | _ => false))

/-- The header under which an unnumbered request goes from its die to the die it is sent to (R371, Table 4). -/
def State.reqHeader (s : State) (r : Req) : Jdp :=
  { src := BitVec.ofNat 6 r.die, dst := BitVec.ofNat 6 r.target, cls := (Numbered.atom r).cls, opc := Config.opcode (Numbered.atom r).kind, reqid := BitVec.ofNat 8 r.die, rsn := 0,
    owninc := s.incOf r.target, reqinc := s.incOf r.die, addr := BitVec.ofNat 52 r.addr, asid := BitVec.ofNat 12 r.asid, stamp := 0, rqtag := BitVec.ofNat 16 (s.tagOf r.gid),
    plen := BitVec.ofNat 16 (Numbered.atom r).bytes, ackw := s.ackw r.die }

/-- Two messages from one source to one destination in one class (R371). -/
def Jdp.sameFlow (a b : Jdp) : Bool := a.src == b.src && a.dst == b.dst && a.cls == b.cls

/-- True for requests that cross from one die to another in one flow (R371). -/
def State.oneFlow (s : State) (r q : Req) : Bool := q.target != q.die && (s.reqHeader r).sameFlow (s.reqHeader q)

/-- True when nothing has to reach the slice before a request: no older request of its core to the slice, nor one that was forwarded before it, no older
access of its lane to its bytes on another way, and no older request between its dies that has not arrived (R52, R55, R67, R296, R371, log 91). -/
def State.firstToSlice (s : State) (r : Req) : Bool :=
  !(s.reqs.any (fun q => q.id != r.id && !q.isBuf && !isHost q.addr &&
      ((decide (q.id < r.id) && q.stage == .sent && q.hops == 0 && !q.refused && s.oneFlow r q && !s.inScb q && !s.staysHere q) ||
       (r.sameSlice q && q.core == r.core && decide (q.id < r.id) && (q.stage == .sent || s.unreceived q)) ||
       (r.sameSlice q && q.stage == .sent && q.seq != 0 && decide (q.seq < r.seq)) ||
       (q.core == r.core && q.gid == r.gid && q.lane == r.lane && decide (q.id < r.id) && overlap q.addr q.n r.addr r.n &&
         (q.stage == .port || (q.stage != .served && !r.sameSlice q))))))

/-- The access of a numbered atomic or flush. -/
def Numbered.access : Numbered → Option Req
  | .atom r => some r
  | .flush r => some r
  | _ => none

/-- The accesses that numbered requests left at a slice, not yet performed: their places, whether they stepped aside to wait for their lines, and what they access. -/
def State.portWork (s : State) (die slice : Nat) : List (Nat × Bool × Req) :=
  s.receipts.filterMap (fun x =>
    match x.what.access with
    | some q => if x.owner == die && x.done.isNone && x.place != 0 && sliceOf q.addr == slice then some (x.place, x.aside, q) else none
    | none => none)

/-- The places taken in the input queue of a slice (R297). -/
def State.queueAt (s : State) (die slice : Nat) : List Nat :=
  (s.reqs.filter (fun q => q.stage == .queued && q.target == die && !q.isBuf && !isHost q.addr && sliceOf q.addr == slice)).map (fun q => q.seq) ++
    ((s.portWork die slice).filter (fun p => !p.2.1)).map (fun p => p.1)

/-- True while a slice's input queue has room, 32 entries (R52). -/
def State.roomAt (s : State) (die slice : Nat) : Bool := decide ((s.queueAt die slice).length < 32)

/-- True while the input queue of a request's slice has room. -/
def State.queueRoom (s : State) (r : Req) : Bool := s.roomAt r.target (sliceOf r.addr)

/-- True while a slice's hold buffer for moving granules has room, 64 entries (R55). -/
def State.holdRoom (s : State) (r : Req) : Bool :=
  decide ((s.reqs.filter (fun q => r.sameSlice q && q.stage == .waiting && (s.granule (granuleOf q.addr)).moving.isSome)).length < 64)

/-- True while a request has to be held: its granule moves. A flush is not, since an open combine of its line may wait for it (R55, R64). -/
def State.isMoving (s : State) (r : Req) : Bool := (s.granule (granuleOf r.addr)).moving.isSome && !r.acc.isFlush

/-- A request takes its place in its slice's queue, or in the hold buffer while its granule moves; one that finds it full is offered again (R52, R55). -/
def State.enqueue (s : State) (r : Req) : State :=
  let moving := s.isMoving r
  if if moving then s.holdRoom r else s.queueRoom r then
    { (s.onReq r.id (fun q => { q with stage := if moving then .waiting else .queued, seq := s.nextId })) with nextId := s.nextId + 1 }
  else s.onReq r.id (fun q => { q with refused := true })

/-- True for a line whose combine is open, that an access waits for since before `seq`, or on a word of which an atomic's bundle has begun and has a lane left
(R64, R247). -/
def State.lineBusy (s : State) (seq ln : Nat) : Bool :=
  s.reqs.any (fun q => !q.isBuf && (linesOf q.addr q.n).contains ln &&
      (q.stage == .combining || (q.run && q.stage != .served) || (q.stage == .waiting && decide (q.seq < seq)))) ||
    (s.portWork (s.homeOf (128 * ln)) (sliceOf (128 * ln))).any (fun p => p.2.1 && (linesOf p.2.2.addr p.2.2.n).contains ln && decide (p.1 < seq))

/-- True when an access of place `seq` has to wait for its lines. A later lane of a bundle that has begun waits for nothing but a combine, an earlier lane, and a bundle
that began on another word (R64, R247). -/
def State.linesBusy (s : State) (seq : Nat) (r : Req) : Bool :=
  if s.reqs.any (fun q => q.id == r.id && q.run) then
    s.reqs.any (fun q => q.id != r.id && !q.isBuf && (linesOf q.addr q.n).any (linesOf r.addr r.n).contains &&
      (q.stage == .combining || (q.run && q.stage != .served && (if r.sibling q then decide (q.id < r.id) else overlap q.addr q.n r.addr r.n))))
  else (linesOf r.addr r.n).any (fun ln => s.lineBusy seq ln)

/-- True when a slice serves a request next: the first of its queue (R297), or one that waits no more for its line. -/
def State.turnOf (s : State) (r : Req) : Bool :=
  match r.stage with
  | .queued => !((s.queueAt r.target (sliceOf r.addr)).any (fun k => decide (k < r.seq)))
  | .waiting => (s.granule (granuleOf r.addr)).moving.isNone && !s.linesBusy r.seq r
  | _ => false

/-- The home begins a request (R64, R69): the lines of a word of a range are combined first, and a load, or an L1 atomic's fetch, before the last write's W is held. -/
def State.begin_ (s0 : State) (r : Req) : State :=
  let s := s0.learnHome r.die r.addr
  let lns := linesOf r.addr r.n
  let h := (lns.flatMap (fun ln => (s.line ln).holders)).dedup
  let reads := r.acc == .load || (r.l1 && !r.acc.puts)
  if r.combine ∧ r.stage ≠ .combining ∧ (!h.isEmpty ∨ lns.any s.flushOwed) then
    s.onReq r.id (fun x => { x with stage := .combining, holders := h, parts := [] })
  else if reads && lns.any (fun ln => decide (s.homeNow r.addr < (s.line ln).w)) then s.onReq r.id (fun q => { q with stage := .held })
  else s.serveHome r

/-- The next step of a request at its home, whose performance is `go`: it is accepted, or its slice begins it, or it waits behind a combine of its line; a flush
waits for no combine (R52, R64, R297). -/
def State.atHome (s : State) (r : Req) (go : State → Req → State) : State :=
  if r.isBuf ∨ isHost r.addr ∨ r.refused ∨ s.windowGone r.addr ∨ r.target ≠ s.homeOf r.addr then s
  else if r.stage = .sent then (if !s.inScb r && !s.staysHere r && s.firstToSlice r then s.enqueue r else s)
  else if !s.turnOf r then s
  else if r.stage = .queued ∧ !r.acc.isFlush ∧ s.linesBusy r.seq r then s.onReq r.id (fun q => { q with stage := .waiting })
  else go s r

/-! Buffers (R38 to R41, R79) -/

/-- The team a region of the issuing team names: itself for regions 0 to 3, the team of a cluster rank for 4 to 15 (R38). -/
def State.peer (s : State) (t : Team) (rank : Nat) : Option Team :=
  s.teams.find? (fun x => x.die == t.die && x.cluster == t.cluster && x.lid == t.lid && x.clrank == rank)

/-- A buffer access resolved: its address as the lane gives it, owner, the owner's region, offset, bytes. -/
structure BufSpot where
  lane : Nat
  addr : Nat
  team : Nat
  region : Nat
  off : Nat
  n : Nat
  deriving DecidableEq, Repr, Inhabited

/-- Who touches a buffer (R41, Table 3). -/
inductive BufUse where
  | load | store | atomic | copyIn | copyOut | index | operand | result | accum
  deriving DecidableEq, Repr

/-- True when Table 3 allows a use in a region. -/
def BufUse.allowed (u : BufUse) (region : Nat) : Bool :=
  match u with
  | .load => true
  | .store => region != 3
  | .atomic => region == 0 || decide (4 ≤ region)
  | .copyIn => region == 0 || region == 1
  | .copyOut => region == 0 || region == 2
  | .index => region == 0 || region == 3
  | .operand => region == 0 || region == 1
  | .result => region == 0 || region == 1
  | .accum => region == 2

/-- The bound of a region of a team. -/
def Team.bound (t : Team) (region : Nat) : Nat :=
  match region with
  | 0 => t.asize
  | 1 => t.wsize
  | 2 => t.csize
  | 3 => 65536
  | _ => 0

/-- The check of R39 that fails first in a lane, by its place in R39's order: 0 bound, 1 rank, 2 region 3, 3 engine, 4 exited, 5
alignment. A peer rank that names no team has no bound, so its rank fails. -/
def bufFails (s : State) (t : Team) (u : BufUse) (n : Nat) (addr : Nat) : List Bool :=
  let region := addr / 2 ^ 28 % 16
  let off := addr % 2 ^ 28
  let o := if region < 4 then some t else s.peer t (region - 4)
  let bound := match o with | some x => if region < 4 then x.bound region else x.asize | none => 2 ^ 28
  [decide (bound < off + n), decide (4 ≤ region) && decide (t.clsize ≤ region - 4), (u == .store || u == .atomic) && region == 3,
   !u.allowed region, decide (4 ≤ region) && (match o with | some x => x.exited | none => true), decide (off % n ≠ 0)]

/-- The fault of R39's i-th check. -/
def bufCause (i : Nat) : Cause := if i = 4 then .peergone else if i = 5 then .align else .bufrange

/-- The resolved access; regions 4 to 15 reach the peer's ABUF. -/
def bufSpot (s : State) (t : Team) (n lane addr : Nat) : BufSpot :=
  let region := addr / 2 ^ 28 % 16
  let o := if region < 4 then t else (s.peer t (region - 4)).getD t
  { lane := lane, addr := addr, team := o.uid, region := if region < 4 then region else 0, off := addr % 2 ^ 28, n := n }

/-- The checks of R39 over lanes, each over every lane before the next. -/
def checkBuf (s : State) (t : Team) (u : BufUse) (code : Nat) (n : Nat) (l : List (Nat × Nat)) : Checked (List BufSpot) :=
  match (List.range 6).findSome? (fun i => (l.find? (fun p => (bufFails s t u n p.2).getD i false)).map (fun p => (i, p.2))) with
  | some (i, a) => .fault { cause := bufCause i, access := code, addr := BitVec.ofNat 64 a }
  | none => .ok (l.map (fun p => bufSpot s t n p.1 p.2))

/-- `n` bytes of a region of a team; region 3 is the view of its launch's parameter block (R43). -/
def Team.read (t : Team) (region off n : Nat) : Nat :=
  match region with
  | 0 => rdBytes t.abuf off n
  | 1 => rdBytes t.wbuf off n
  | 2 => rdBytes t.cbuf off n
  | _ => rdBytes t.params off n

/-- Writes `n` bytes of a region of a team. -/
def Team.write (t : Team) (region off n x : Nat) : Team :=
  match region with
  | 0 => { t with abuf := wrBytes t.abuf off n x }
  | 1 => { t with wbuf := wrBytes t.wbuf off n x }
  | 2 => { t with cbuf := wrBytes t.cbuf off n x }
  | _ => t

/-- Reads a team's region. -/
def State.readBuf (s : State) (tu region off n : Nat) : Nat :=
  let t := s.team tu
  t.read region off n

/-- Writes a team's region; a write clears the poison of its bytes. -/
def State.writeBuf (s : State) (tu region off n x : Nat) : State :=
  s.onTeam tu (fun t =>
    let k := 2 ^ 28 * region + off
    { t.write region off n x with poison := clearPoison t.poison k n })

/-- True when no older access of the same lane to the same bytes of a buffer is still to be performed, and none of the same bundle but another atomic on the same
word (R66, R79, R247). -/
def State.bufReady (s : State) (r : Req) : Bool :=
  !(s.reqs.any (fun q => decide (q.id < r.id) && q.isBuf && q.stage == .sent && q.gid == r.gid && (q.lane == r.lane || (q.op == r.op && !(r.sibling q && r.acc.writes && r.acc != .store))) &&
      q.team == r.team && q.region == r.region && overlap q.addr q.n r.addr r.n))

/-- True for a poisoned buffer byte. -/
def State.bufPoison (s : State) (r : Req) : Bool :=
  hurtAt (s.team r.team).poison (2 ^ 28 * r.region + r.addr) r.n

/-- Performs an atomic in the owning core's banks (R77, R254). -/
def State.atomBank (s : State) (r : Req) : State :=
  let old := s.readBuf r.team r.region r.addr r.n
  (s.writeBuf r.team r.region r.addr r.n (r.newVal old)).onReq r.id
    (fun q => { q with stage := .served, val := BitVec.ofNat 128 old, poisoned := s.bufPoison r })

/-- True when a buffer atomic and the others of its bundle on the same word can be performed: none of them has an older access to wait for (R79, R247). -/
def State.bundleReady (s : State) (r : Req) : Bool := s.bufReady r && (s.siblings r).all s.bufReady

/-- Performs a buffer atomic and, in ascending lane order, the others of its bundle on the same word (R247). -/
def State.atomsBank (s : State) (r : Req) : State := (s.siblings r).foldl State.atomBank s

/-! Delivery (R82, R248) -/

/-- The register value of a load's or atomic's answer (Table 2 of 11_isa_memory_sync.md, R58, R59). -/
def Req.regVal (r : Req) : Nat :=
  let x := unpackVal r.six r.elems r.val.toNat
  match r.ext with
  | .none => 0
  | .zext => x
  | .sext b => (BitVec.ofInt 32 (sextNat b x)).toNat
  | .words _ => x
  | .elem fmt => Block.elementToF32 fmt x r.scale.toNat

/-- Words a load's answer fills. -/
def Extend.words_ : Extend → Nat
  | .none => 0
  | .words n => n
  | _ => 1

/-- Gives a lane its answer: the registers take the value, or are marked when it arrived poisoned, and are pending no more. -/
def State.deliver (s : State) (r : Req) : State :=
  let n := r.ext.words_
  let v := r.regVal
  let mark : Marked := { reg := r.dst, n := n, addr := r.va, rsn := 0, rcause := 0, pc := r.pc }
  let s0 := if r.acc = .load then s else s.snapNote r.gid
  (s0.onLane r.gid r.lane (fun x =>
    let y := if n = 0 then x else if r.poisoned then { x with marked := x.marked ++ [mark] } else x.setWords r.dst n v
    { y with pend := y.pend.filter (fun p => p.src != r.id) })).dropReq r.id

/-! Counters (R81) -/

/-- True when nothing of a counted operation is outstanding. -/
def State.opDone (s : State) (o : COp) : Bool := !o.open_ && !(s.reqs.any (fun r => r.op == o.id))

/-- Retires the completed operations of a class that no older uncompleted one precedes. -/
def retireOps (done : COp → Bool) (cls : Nat) : List COp → List COp
  | [] => []
  | o :: rest =>
    if o.cls = cls then (if done o then retireOps done cls rest else o :: rest)
    else o :: retireOps done cls rest

/-- A WAIT threshold (R256): 63 is not tested. -/
def under (n : Nat) (t : BitVec 6) : Bool := t == 63 || decide (n ≤ t.toNat)

/-- Lanes held at WAIT whose thresholds now hold go on (R256). -/
def releaseWaits (now : Nat) (g : Group) : Group :=
  let c (k : Nat) : Nat := (g.ops.filter (fun o => o.cls == k)).length
  { g with lanes := g.lanes.map (fun x =>
      match x.hold with
      | .wait l s cp t next =>
        if under (c 0) l && under (c 1) s && under (c 2) cp && under (c 3) t then x.wake now next else x
      | _ => x) }

/-- Adds a counted operation of the issuing group; its number is the fresh one. -/
def State.count (s : State) (cls : Nat) (isOpen : Bool) : State :=
  { s with grp := { s.grp with ops := s.grp.ops ++ [{ id := s.nextId, cls := cls, open_ := isOpen }] }, nextId := s.nextId + 1 }

/-- Closes an engine's operation. -/
def State.closeOp (s : State) (gid id : Nat) : State :=
  s.onGroup gid (fun g => { g with ops := updBy (fun o => o.id == id) (fun o => { o with open_ := false }) g.ops })

/-- The class counter is at its bound, so the bundle stalls at issue (R81). -/
def counterFull (g : Group) (cls : Nat) : Bool := decide (62 ≤ (g.ops.filter (fun o => o.cls == cls)).length)

/-- The loads and atomics of a group that have not returned: an acquire point waits for them (R73). -/
def State.acquireSet (s : State) (g : Group) : List Nat := (g.ops.filter (fun o => o.cls == 0 && !s.opDone o)).map (fun o => o.id)

/-- Puts an acquire point in lanes of a group (R73). -/
def State.acquire (s : State) (gid : Nat) (p : Nat → Bool) : State :=
  s.onGroup gid (fun g =>
    let a := s.acquireSet g
    { g with lanes := mapLanes (fun l x => if p l then { x with acq := a } else x) 0 g.lanes })

/-- True for a lane of the issuing group whose younger accesses an acquire point still holds: an older load or atomic has not returned, be it still behind
its own release (R73). -/
def State.acqHeld (s : State) (x : Lane) : Bool := s.grp.ops.any (fun o => x.acq.contains o.id && !s.opDone o)

end Sys2Proof.Machine
end

