-- ==== Sys2Proof/Machine/Release.lean ====
section
/-! DEFINITION. What a bundle's accesses become when they issue, numbered operations (R156), barriers (R45, R46, R260), rings (R47, R261),
posting a launch (R280, R344), and releases with what follows them (R72, R78, R80, R257 to R262). -/

namespace Sys2Proof.Machine

/-! Accesses that issue -/

/-- True for an access that is numbered: an atomic at system scope, in a host window, or of cluster or device scope with its home on another die, and every access of a peer
window (R156, R253, R376). -/
def State.isNumbered (s : State) (r : Req) : Bool :=
  match r.acc with
  | .atom _ _ => !r.isBuf && !r.l1 && (isHost r.addr || r.scope == 3 || (r.scope != 0 && s.homeOf r.addr != r.die))
  | .cas => !r.isBuf && !r.l1 && (isHost r.addr || r.scope == 3 || (r.scope != 0 && s.homeOf r.addr != r.die))
  | .load => !r.isBuf && isPeer r.addr
  | .store => !r.isBuf && isPeer r.addr
  | _ => false

/-- Makes the destination registers of a request pending (R71, R248). -/
def State.pending (s : State) (r : Req) : State :=
  let n := r.ext.words_
  if n = 0 then s else s.onLane r.gid r.lane (fun x => { x with pend := x.pend ++ [{ reg := r.dst, n := n, src := s.nextId }] })

/-- True when a core holds a partial of a line. -/
def State.hasPartial (s : State) (c addr : Nat) : Bool := s.partials.any (fun p => p.core == c && p.line == lineOf addr)

/-- Folds a COMM into its core's partial; the first one of a line allocates the partial line, at the operation's identity (R63). -/
def State.foldPartial (s : State) (c addr : Nat) (op : CommOp) (v : Word) : State :=
  let k := addr % 128 / 4
  let put (p : Partial) : Partial :=
    let old := ((p.words.find? (fun e => e.1 == k)).map (fun e => e.2)).getD (commIdentity op)
    { p with words := p.words.filter (fun e => e.1 != k) ++ [(k, commFold op old v)] }
  let s1 := if s.hasPartial c addr then s
    else
      let s0 := s.makeRoom c (lineOf addr)
      { s0 with partials := s0.partials ++ [{ core := c, line := lineOf addr, op := op, words := [] }] }
  { s1 with partials := updBy (fun p => p.core == c && p.line == lineOf addr) put s1.partials }

/-- An access goes to its die's ROU as a numbered operation (R156). -/
def State.sendNumbered (s : State) (r : Req) : State :=
  let q : Req := { r with id := s.nextId, stage := .port }
  (s.addReq q).newRop r.die (if isHost r.addr then s.hubFor r.die r.addr else r.target) (s.tagOf r.gid) (.atom q)

/-- A global store issues (R50, R66, R75). A team-scope store to a write-back page stays in the L1; in an assay context it waits at its core for its shadow
first (R266). Any other goes to its home or to a host window. -/
def State.issueStore (s : State) (r : Req) : State :=
  if isPeer r.addr then s.sendNumbered r
  else if isHost r.addr then s.addReq { r with stage := .port }
  else if r.scope = 0 ∧ r.l1 ∧ !r.combine then
    if s.isAssay r.gid then s.addReq { r with stage := .port } else s.writeL1 r.core r.addr r.n r.data r.mask r.place12
  else (s.touchCore r.core r.addr r.n r.data r.mask).addReq { r with target := s.routeOf r.die r.addr, op := if r.scope = 0 then 0 else r.op }

/-- A global atomic issues (R77, R156, R253). Dirty bytes that it would pass by on its way home are written back first (log 31); a numbered one goes to the
ROU. -/
def State.issueAtom (s : State) (r0 : Req) : State :=
  let r := { r0 with target := s.routeOf r0.die r0.addr }
  if r.l1 then (s.pending r).addReq r
  else
    let inside (a : Nat) : Bool := decide (r.addr ≤ a) && decide (a < r.addr + r.n)
    let s1 := (s.writeBack r.core inside).dropCopies r.core r.addr r.n
    if s.isNumbered r then (s1.pending r).sendNumbered r
    else (s1.pending r).addReq r

/-- One request issues (R50, R63, R66, R75, R249 to R255). A COMM folds at once where its partial stands; an older load of the lane takes what it has to see of its
core's own bytes before a store or atomic of the lane changes them. -/
def State.issueReq (s : State) (r : Req) : State :=
  if r.isBuf then (s.pending r).addReq r else
  match r.acc with
  | .load =>
    if isPeer r.addr then (s.pending r).sendNumbered r
    else (s.pending r).addReq { r with target := s.routeOf r.die r.addr, stage := if isHost r.addr then .port else .sent }
  | .store => (s.fixLoads r.gid r.lane r.core r.addr r.n).issueStore r
  | .comm op =>
    if s.hasPartial r.core r.addr && !s.isAssay r.gid then s.foldPartial r.core r.addr op (r.data.setWidth 32)
    else s.addReq { r with target := s.routeOf r.die r.addr }
  | _ => (s.fixLoads r.gid r.lane r.core r.addr r.n).issueAtom r

/-- The requests of a bundle issue in ascending lane order (R247). -/
def State.issueReqs (s : State) (rs : List Req) : State := rs.foldl State.issueReq s

/-! Barriers (R45, R46, R110, R260) -/

/-- The cluster of a team. -/
def State.clusterOf (s : State) (t : Team) : Cluster := (s.clusters.find? (fun c => c.uid == t.cluster)).getD default

/-- The barrier object of a code as a team names it: codes 48 to 63 are the cluster's (R110). -/
def State.bar (s : State) (t : Team) (code : Nat) : Bar :=
  if code < 48 then (s.team t.uid).bars.getD code default else (s.clusterOf t).bars.getD (code - 48) default

/-- Changes a barrier object. -/
def State.onBar (s : State) (t : Team) (code : Nat) (f : Bar → Bar) : State :=
  if code < 48 then s.onTeam t.uid (fun x => { x with bars := x.bars.modify code f })
  else { s with clusters := updBy (fun c => c.uid == t.cluster) (fun c => { c with bars := c.bars.modify (code - 48) f }) s.clusters }

/-- The key of a group's waiter bits: its number in the team, and in the cluster with the team's rank. -/
def waiterKey (t : Team) (code gid : Nat) : Nat := if code < 48 then gid else 16 * t.clrank + gid

/-- Counts arrivals one at a time: the barrier, and whether its phase flipped (R46). -/
def countArrivals : Nat → Bar → Bar × Bool
  | 0, b => (b, false)
  | n + 1, b =>
    if b.pending = 0 then (b, false)
    else if b.pending = 1 then
      let (c, _) := countArrivals n { b with phase := !b.phase, pending := b.expect, waiters := [] }
      (c, true)
    else countArrivals n { b with pending := b.pending - 1 }

/-- True when a team shares a barrier with team `t`: the team itself, or the cluster's teams. -/
def sharesBar (t : Team) (code : Nat) (x : Team) : Bool := if code < 48 then x.uid == t.uid else x.cluster == t.cluster

/-- The lanes of a group that wait on a barrier go on at an acquire point (R46, R80). -/
def wakeBar (s : State) (code : Nat) (g : Group) : Group :=
  let a := s.acquireSet g
  { g with lanes := g.lanes.map (fun x =>
      match x.hold with
      | .barrier c next => if c = code then { x.wake s.cycle next with acq := a } else x
      | _ => x) }

/-- BARRIER_PHASE_FLIP (R46): every lane in BARRIER waiting on the old phase becomes ELIGIBLE. -/
def State.flip (s : State) (t : Team) (code : Nat) : State :=
  let f (g : Group) : Group := if sharesBar t code (s.team g.team) then wakeBar s code g else g
  { s with grp := f s.grp, groups := s.groups.map f }

/-- `w` arrivals at a barrier (R46, R260). -/
def State.arrive (s : State) (t : Team) (code w : Nat) : State :=
  let (b, flipped) := countArrivals w (s.bar t code)
  let s1 := s.onBar t code (fun _ => b)
  if flipped then s1.flip t code else s1

/-- An engine's signal: one arrival, none for code 63 of a tile or copy that names no barrier (R110, R122, R128). -/
def State.signal (s : State) (tu code : Nat) : State := if code = 63 then s else s.arrive (s.team tu) code 1

/-- A barrier code beyond the team's allotment (R45). Cluster barriers are never beyond it. -/
def barBeyond (t : Team) (code : Nat) : Bool := decide (code < 48) && decide (t.bars.length ≤ code)

/-- One lane's arrival and token: the token is the phase just before its own first arrival (R260). -/
def State.arriveLane (s : State) (uid : Nat) (t : Team) (code w : Nat) (dst : Option Nat) (l : Nat) : State :=
  let ph : Word := if (s.bar t code).phase then 1 else 0
  let s1 := match dst with
    | some r => s.onLane uid l (fun x => x.setReg r ph)
    | none => s
  s1.arrive t code w

/-- Lane `l` waits on a barrier until the flip and goes on at `next`; it keeps a waiter bit (R46, R260, R358). -/
def State.sleepBar (s : State) (uid : Nat) (t : Team) (code : Nat) (next : DWord) (l : Nat) : State :=
  let gid := ((s.group uid).map (fun g => g.gid)).getD 0
  let k := waiterKey t code gid
  let s1 := s.onBar t code (fun b => { b with waiters := sput 0 b.waiters k (sget 0 b.waiters k ||| BitVec.ofNat 128 (2 ^ l)) })
  s1.onLane uid l (fun x => { x with st := .barrier, hold := .barrier code next })

/-- The lanes with the phases they took as tokens. -/
def arriveAll (uid : Nat) (t : Team) (code w : Nat) (dst : Option Nat) : List Nat → State → State × List (Nat × Bool)
  | [], s => (s, [])
  | l :: rest, s =>
    let ph := (s.bar t code).phase
    let (s1, toks) := arriveAll uid t code w dst rest (s.arriveLane uid t code w dst l)
    (s1, (l, ph) :: toks)

/-- WAIT with each lane's token (R260): it sleeps while PHASE is its token, and passes at an acquire point otherwise. -/
def waitAll (uid : Nat) (t : Team) (code : Nat) (next : DWord) : List (Nat × Bool) → State → State
  | [], s => s
  | (l, tok) :: rest, s =>
    let s1 := if (s.bar t code).phase = tok then s.sleepBar uid t code next l
      else (s.onLane uid l (fun x => x.wake s.cycle next)).acquire uid (fun i => i == l)
    waitAll uid t code next rest s1

/-! Rings (R47, R261) -/

/-- Slots of a ring. -/
def Ring.slots (r : Ring) : Nat := r.nslotm1.toNat + 1

/-- The buffer address of slot `k`. -/
def Ring.slotAddr (r : Ring) (k : Nat) : Word := r.base + BitVec.ofNat 32 (k * 2 ^ (r.slotlog.toNat + 7))

/-- The slot after slot `k`. -/
def Ring.after (r : Ring) (k : BitVec 7) : BitVec 7 := if k.toNat + 1 = r.slots then 0 else k + 1

/-- Takes slot HEAD for a writer, or slot TAIL for a reader: the slot and the ring; none when there is none to take. -/
def Ring.take (r : Ring) (reader : Bool) : Option (Nat × Ring) :=
  if reader then
    if r.filled = 0 then none
    else some (r.tail.toNat, { r with filled := r.filled - 1, tail := r.after r.tail, readers := r.readers ++ [(r.tail.toNat, false)] })
  else
    if r.free = 0 then none
    else some (r.head.toNat, { r with free := r.free - 1, head := r.after r.head, writers := r.writers ++ [(r.head.toNat, false)] })

/-- Slot `k` is held by group `u` (R386). -/
def Ring.heldBy (r : Ring) (k u : Nat) : Ring := { r with owners := sput 0 r.owners k u }

/-- The run of done slots from the oldest held one, and the rest. -/
def doneRun : List (Nat × Bool) → Nat × List (Nat × Bool)
  | [] => (0, [])
  | (k, d) :: rest => if d then let (n, l) := doneRun rest; (n + 1, l) else (0, (k, d) :: rest)

/-- Marks a held slot done; the counter of the other role rises by the run of done slots (R261). None when the slot is not held. -/
def Ring.give (r : Ring) (reader : Bool) (k : Nat) : Option Ring :=
  let held := if reader then r.readers else r.writers
  if held.any (fun p => p.1 == k && !p.2) then
    let (n, l) := doneRun (updFirst (fun p => p.1 == k && !p.2) (fun p => (p.1, true)) held)
    if reader then some { r with readers := l, free := r.free + BitVec.ofNat 8 n }
    else some { r with writers := l, filled := r.filled + BitVec.ofNat 8 n }
  else none

/-- The held slot of a role whose address is `a`. -/
def Ring.heldAt (r : Ring) (reader : Bool) (a : Word) : Option Nat :=
  ((if reader then r.readers else r.writers).find? (fun p => r.slotAddr p.1 == a && !p.2)).map (fun p => p.1)

/-- A ring of a team. -/
def Team.ring (t : Team) (n : Nat) : Ring := t.rings.getD n default

/-- Changes a ring of a team. -/
def State.onRing (s : State) (tu n : Nat) (f : Ring → Ring) : State := s.onTeam tu (fun t => { t with rings := t.rings.modify n f })

/-- The lanes of a mask leave RING with the slot's address in s[sd]; a reader is at an acquire point (R261). -/
def State.ringLeave (s : State) (uid : Nat) (lanes : QWord) (reader : Bool) (sd : Nat) (addr : Word) : State :=
  let s1 := s.onGroup uid (fun g =>
    { g with
      s := sput 0 g.s sd (addr.setWidth 64)
      lanes := mapLanes (fun l x =>
        match x.hold with
        | .ring next => if lanes.getLsbD l then x.wake s.cycle next else x
        | _ => x) 0 g.lanes })
  if reader then s1.acquire uid (fun l => lanes.getLsbD l) else s1

/-! LAUNCH (R280, R344) -/

/-- A request begins with the first launch of its tag while none of the tag runs, with no rollback behind it (R387, R388, log 140). -/
def State.freshTag (s : State) (tag : Nat) : State :=
  if s.grids.any (fun g => g.rqtag == tag && g.state == 0) then s
  else { s with grids := updBy (fun g => g.rqtag == tag) (fun g => { g with rollbacks := 0 }) s.grids }

/-- The fields of a launch record (R343) that the checks and the distributors use. -/
def recGX (r : BitVec 2048) : Nat := bitsOf r 64 32 + 1
def recGY (r : BitVec 2048) : Nat := bitsOf r 96 32 + 1
def recGZ (r : BitVec 2048) : Nat := bitsOf r 128 32 + 1
def recTeams (r : BitVec 2048) : Nat := recGX r * recGY r * recGZ r
def recVcount (r : BitVec 2048) : Nat := bitsOf r 160 11
def recGroups (r : BitVec 2048) : Nat := bitsOf r 176 5
def recQuads (r : BitVec 2048) : Nat := bitsOf r 184 2
def recCol (r : BitVec 2048) : Bool := bitAt r 186
def recCurve (r : BitVec 2048) : Nat := bitsOf r 187 3
def recAssay (r : BitVec 2048) : Bool := bitAt r 192
def recSealed (r : BitVec 2048) : Bool := bitAt r 193
def recIrq (r : BitVec 2048) : Bool := bitAt r 194
def recPrio (r : BitVec 2048) : Nat := bitsOf r 195 3
def recDies (r : BitVec 2048) : BitVec 16 := r.extractLsb' 216 16
def recNbar (r : BitVec 2048) : Nat := bitsOf r 232 6
def recNring (r : BitVec 2048) : Nat := bitsOf r 238 5
def recAbuf (r : BitVec 2048) : Nat := bitsOf r 256 20
def recWbuf (r : BitVec 2048) : Nat := bitsOf r 276 20
def recCbuf (r : BitVec 2048) : Nat := bitsOf r 296 20
def recCompva (r : BitVec 2048) : Nat := bitsOf r 320 64
def recCurveva (r : BitVec 2048) : Nat := bitsOf r 384 64
def recParamva (r : BitVec 2048) : Nat := bitsOf r 448 64
def recParamlen (r : BitVec 2048) : Nat := bitsOf r 512 17
def recKdesc (r : BitVec 2048) : Nat := bitsOf r 576 64
def recPva (r : BitVec 2048) (i : Nat) : Nat := bitsOf r (640 + 128 * i) 64
def recPval (r : BitVec 2048) (i : Nat) : Word := r.extractLsb' (640 + 128 * i + 64) 32
def recPcmp (r : BitVec 2048) (i : Nat) : Nat := bitsOf r (640 + 128 * i + 96) 3

/-- The dies of a record's set in ascending order. -/
def dieList (r : BitVec 2048) : List Nat := (List.range 16).filter (fun d => (recDies r).getLsbD d)

/-- True while the interface, which TDISP assigns, is not in the RUN state with IDE active: SEALED launches are refused in HOST mode (R375, R378, log 32). -/
def State.tdispRefuses (s : State) : Bool := !(s.hub.runs && s.hub.ide)

/-- The first cause of Table 2 that makes a record INVALID, 0 for none (R344). A die that the discovery structure marks ABSENT or FAILED cannot be named (R368). A kernel
descriptor is aligned to 64 bytes as its section is (R308, log 132). -/
def invalidCause (s : State) (r : BitVec 2048) : Nat :=
  let entry := bitsOf r 0 64
  let q := recQuads r
  let v := recVcount r
  let k := (recGroups r + 1) / 2 * (if recAssay r then 2 else 1)
  if 2 ^ 52 ≤ entry ∨ entry % 4 ≠ 0 then 1
  else if 2 ^ 32 < recTeams r ∨ (q ≠ 0 ∧ recTeams r % (4 * q) ≠ 0) then 2
  else if v = 0 ∨ v % 32 ≠ 0 ∨ 1536 < v ∨ recGroups r = 0 ∨ 16 < recGroups r ∨ 524288 < recAbuf r ∨ 393216 < recWbuf r ∨ 262144 < recCbuf r
      ∨ 48 < recNbar r ∨ 16 < recNring r ∨ (recAssay r ∧ 768 < v) then 3
  else if q = 0 ∨ 5 ≤ recCurve r ∨ (recCurve r = 4 ∧ recCurveva r % 4 ≠ 0) then 4
  else if recDies r = 0 ∨ (dieList r).any (fun d => (s.die d).state == 0 || (s.die d).state == 2) then 5
  else if recCompva r % 64 ≠ 0 ∨ recParamva r % 16 ≠ 0 ∨ recKdesc r % 64 ≠ 0 ∨ 65536 < recParamlen r then 6
  else if (List.range 4).any (fun i => recPva r i ≠ 0 && (recPva r i % 4 ≠ 0 || decide (2 ^ 52 ≤ recPva r i))) then 7
  else if recSealed r && s.hostMode && s.tdispRefuses then 8
  else if 16 < k ∨ 1536 < k * v then 9
  else 0

/-- Writes a LAUNCH status to the launcher's scalar, which is pending no more (R280); a launch by a doorbell has no launcher (R379). -/
def State.launchStatus (s : State) (uid sd src : Nat) (status : DWord) : State :=
  if uid = 0 then s else
  if s.away uid then
    s.holdResult uid
      { kind := 3, dst := 0x600 + sd, lane := 0, vals := [status.setWidth 32, (status >>> 32).setWidth 32], mark := none }
  else (s.snapNote uid).onGroup uid (fun g => { g with s := sput 0 g.s sd status, pendS := g.pendS.filter (fun p => p.2 != src) })

/-- The launch record at an address as a group's LAUNCH reads it now. -/
def State.recordAt (s : State) (g : Group) (va : DWord) : BitVec 2048 :=
  BitVec.ofNat 2048 ((s.readWords { s.who g false with user := false } va.toNat 32).getD 0)

/-- The page of a launch record: true when it can be read now, false while a translation is awaited or a write of its lines has not reached its W, and none when it is
no longer mapped (R69, R280). -/
def State.recordReady (s : State) (g : Group) (va : DWord) : Option Bool :=
  let w : Who := { s.who g false with user := false }
  match s.reach w .load va.toNat with
  | .page e => some (s.pageReady w e va.toNat 256)
  | .awaited => some false
  | .fail _ _ => none

/-- LAUNCH after its release (R280): the record is read at the home and checked; an INVALID one is queued nowhere, a good one is sent to the
distributor of every die of its set, to each other die as a numbered operation. -/
def State.postLaunch (s : State) (uid sd : Nat) (va pc : DWord) : State :=
  match s.group uid with
  | none => s
  | some g =>
    let die := s.dieOf g
    let r := s.recordAt g va
    let cause := invalidCause s r
    let lid := s.nextId
    let s1 := { s with nextId := s.nextId + 1 }
    if cause ≠ 0 then s1.launchStatus uid sd 0 (BitVec.ofNat 64 (1 + 256 * cause)) else
    let dies := dieList r
    let gr : Grid :=
      { lid := lid, record := r, asid := s.asidOf g, by_ := uid, sd := sd, pc := pc, owed := dies, arrived := dies.filter (fun d => d == die),
        queued := [], places := [], reported := [], maxW := 0, teamsDone := 0, state := 0, cause := 0, unit := 0, faultrec := 0,
        wrote := false, recOwed := false, msix := false, rollbacks := 0 }
    let s2 := (s1.onGroup uid (fun g => { g with pendS := g.pendS ++ [(sd, lid)] }))
    let s3 := { s2.freshTag gr.rqtag with grids := (s2.freshTag gr.rqtag).grids ++ [gr] }
    (dies.filter (fun d => d != die)).foldl (fun t d => t.newRop die d (s.tagOf uid) (.launch lid)) s3

/-! Releases (R72) -/

/-- The flags a lane raises, from those of the bundle. -/
def flagsOf (fx : List (Nat × FFlags)) (l : Nat) : FFlags := ((fx.find? (fun p => p.1 == l)).map (fun p => p.2)).getD 0

/-- A store whose lanes raised flags is over: an enabled one is taken as a user trap (R32, R102, R183). -/
def storeTrap (pc : DWord) (len : Nat) (fx : List (Nat × FFlags)) (g : Group) : Group :=
  trapGroup g pc 1 0 { nodst := true } len (fun l => fx.any (fun p => p.1 == l)) (fun l => flagsOf fx l &&& g.trapen.setWidth 5) (fun _ => false)

/-- The lanes `m` of a group go on at `next`. -/
def Group.resume (g : Group) (now : Nat) (m : QWord) (next : DWord) : Group :=
  { g with lanes := mapLanes (fun l x => if m.getLsbD l then x.wake now next else x) 0 g.lanes }

/-- The older accesses of a group that a release waits for first: its requests, and its older releases that hold accesses back (R72). -/
def State.olderOf (s : State) (g : Group) : List Nat :=
  (s.reqs.filter (fun r => r.gid == g.uid && g.uid != 0)).map (fun r => r.id) ++
    (g.rels.filter (fun r => match r.cont with | .access _ _ _ => true | _ => false)).map (fun r => r.id)

/-- The writes of a core on their way home. -/
def State.coreWrites (s : State) (core : Nat) : List Nat :=
  (s.reqs.filter (fun r => !r.isBuf && r.core == core && r.acc.writes)).map (fun r => r.id)

/-- True while an access is not performed for a scope: at team scope until it is written into the core's L1 or banks, answered, or sent towards its home, and
acknowledged for wider scopes (R72). -/
def State.reqOwed (s : State) (scope : BitVec 2) (r : Req) : Bool :=
  scope != 0 || (r.stage != .served && (r.isBuf || r.acc != .store || (r.scope == 0 && r.l1) || s.inScb r))

/-- True while a release still waits for request or release `id`. -/
def State.relOwes (s : State) (g : Group) (scope : BitVec 2) (id : Nat) : Bool :=
  s.reqs.any (fun r => r.id == id && s.reqOwed scope r) || g.rels.any (fun r => r.id == id)

/-- The lanes of a mask in ascending order. -/
def lanesOf (m : QWord) : List Nat := (List.range 128).filter (fun l => m.getLsbD l)

/-- A monitor's word is looked at at its home: dirty bytes of it are written back first (R84, log 31). -/
def State.watch (s : State) (k : Monitor) : State :=
  { (s.writeBack k.core (fun a => decide (k.addr ≤ a) && decide (a < k.addr + k.n))) with monitors := s.monitors ++ [k] }

/-- What follows a release that is over, for its lanes `m` which go on at `next`. After an arrival no engine signals any more in the core cycle (R46); a LAUNCH whose record
is no longer mapped is executed again. -/
def State.follow (s : State) (uid : Nat) (m : QWord) (next : DWord) (c : Cont) : State :=
  let go (t : State) : State := t.onGroup uid (fun g => g.resume s.cycle m next)
  let acq (a : Bool) (t : State) : State := if a then t.acquire uid (fun l => m.getLsbD l) else t
  match c with
  | .fence a => acq a (go s)
  | .access rs a fx =>
    let pc := (rs.head?.map (fun r => r.pc)).getD 0
    (acq a (go ((s.issueReqs rs).closeOp uid ((rs.head?.map (fun r => r.op)).getD 0)))).onGroup uid (storeTrap pc (next - pc).toNat fx)
  | .arrive code w dst sync =>
    let t := s.team (((s.group uid).map (fun g => g.team)).getD 0)
    let (s1, toks) := arriveAll uid t code w dst (lanesOf m) { s with turn := max 1 s.turn }
    if sync then waitAll uid t code next toks s1 else go s1
  | .pub n addr =>
    let t := s.team (((s.group uid).map (fun g => g.team)).getD 0)
    let s1 := s.onRing t.uid n (fun r => match r.heldAt false addr with | some k => (r.give false k).getD r | none => r)
    go s1
  | .monitor ms =>
    let s1 := s.onGroup uid (fun g =>
      { g with lanes := mapLanes (fun l x =>
          match ms.find? (fun k => k.lane == l) with
          | some k => if m.getLsbD l then { x with st := .monitor, hold := .monitor k.id } else x
          | none => x) 0 g.lanes })
    ms.foldl State.watch s1
  | .launch sd va pc =>
    if ((s.group uid).bind (fun g => s.recordReady g va)).isNone then s.onGroup uid (fun g => g.resume s.cycle m pc) else go (s.postLaunch uid sd va pc)
  | .promote => acq true (go s)
  | .cflush =>
    let core := ((s.group uid).map (fun g => s.unitOf g)).getD 0
    go { s with copies := s.copies.filter (fun c => c.unit != core) }
  | .sysop => go s
  | .syscall code =>
    let v := ((s.group uid).map (fun g => (s.ctx (s.asidOf g)).desc.extractLsb' 576 64)).getD 0
    s.onGroup uid (fun g => privEntry 2 code .syscall v (fun l _ => m.getLsbD l) (fun x => x.pc) (g.resume s.cycle m next))

/-- Ends a release: it leaves the group, what follows it happens, and younger releases wait for the accesses it let go. -/
def State.endRel (s : State) (g : Group) (r : Rel) : State :=
  let s1 := s.onGroup g.uid (fun g => { g with rels := g.rels.filter (fun x => x.id != r.id) })
  let s2 := (if r.scope = 0 then s1 else s1.snapNote g.uid).follow g.uid r.lanes r.next r.cont
  let new := (s2.reqs.filter (fun q => decide (s1.nextId ≤ q.id))).map (fun q => q.id)
  s2.onGroup g.uid (fun g => { g with rels := g.rels.map (fun x => if x.waits.contains r.id then { x with waits := x.waits ++ new } else x) })

/-- Raises the WCT of a group. -/
def State.raiseWct (s : State) (uid w : Nat) : State := s.onGroup uid (fun g => { g with wct := max g.wct w })

/-- A release goes on in a later stage, with what it waits for there. -/
def State.relTo (s : State) (uid id stage : Nat) (waits : List Nat) : State :=
  s.onGroup uid (fun g => { g with rels := updBy (fun x => x.id == id) (fun x => { x with stage := stage, waits := waits }) g.rels })

/-- Every dirty byte of a core is written back and every partial of it is flushed (R72, R78, R259). -/
def State.flushCore (s : State) (core : Nat) : State := (s.writeBack core (fun _ => true)).flushPartials core (fun _ => true)

/-- What follows a release can be done now: the requester's ROU has room for the numbered operations it sends, and a launch record can be read (R69, R156, R280). -/
def State.mayFollow (s : State) (g : Group) (r : Rel) : Bool :=
  match r.cont with
  | .access rs _ _ => !s.ropsFull (s.dieOf g) (rs.filter s.isNumbered).length
  | .launch _ va _ =>
    match s.recordReady g va with
    | none => true
    | some b => b && !s.ropsFull (s.dieOf g) ((dieList (s.recordAt g va)).filter (fun d => d != s.dieOf g)).length
  | _ => true

/-- One step of a release of group `g`, or none while it waits (R72): with the older accesses performed, a wide one sends the core's dirty bytes and partials home; with
every write that its core sent acknowledged it takes their W and waits for `GTIME` to reach `WCT`. What a release holds for its shadow goes on when that agrees
(R266). -/
def State.relStep (s : State) (g : Group) (r : Rel) : Option State :=
  let core := s.unitOf g
  let waiting := r.waits.any (s.relOwes { g with rels := g.rels.filter (fun x => x.id != r.id) } r.scope)
  match r.stage with
  | 0 =>
    let once : Bool := match r.cont with | .launch _ _ _ => s.behind g.uid | _ => false
    if waiting || once || s.unmatched g.uid r.id then none
    else if r.scope = 0 then (if s.mayFollow g r then some (s.endRel g r) else none)
    else let s1 := s.flushCore core; some (s1.relTo g.uid r.id 1 (s1.coreWrites core))
  | 1 =>
    if waiting then none
    else if !r.timed then (if s.mayFollow g r then some (s.endRel g r) else none)
    else some ((if r.cont = .promote then s else s.raiseWct g.uid (s.core core).maxW).relTo g.uid r.id 2 [])
  | 2 => if g.wct ≤ s.gtime (s.dieOf g) ∧ s.mayFollow g r then some (s.endRel g r) else none
  | _ => none

/-- The group that holds a release, and the release. -/
def State.findRel (s : State) (id : Nat) : Option (Group × Rel) :=
  s.allGroups.findSome? (fun g => (g.rels.find? (fun r => r.id == id)).map (fun r => (g, r)))

/-- A release goes on as far as it can, at most `n` steps. -/
def State.relRun (id : Nat) : Nat → State → State
  | 0, s => s
  | n + 1, s =>
    match s.findRel id with
    | some (g, r) =>
      match s.relStep g r with
      | some t => State.relRun id n t
      | none => s
    | none => s

/-- Lanes `m` of the issuing group wait in COUNTING for a release, which goes on at once as far as it can (R23, R72). -/
def State.holdRel (s : State) (m : QWord) (r : Rel) : State :=
  let hold (l : Nat) (x : Lane) : Lane := if m.getLsbD l then { x with st := .counting, hold := .release r.id } else x
  State.relRun r.id 3
    { s with nextId := r.id + 1, grp := { s.grp with rels := s.grp.rels ++ [r], lanes := mapLanes hold 0 s.grp.lanes } }

/-- A release of the issuing bundle's lanes `m` starts (R72); when nothing is owed it is over at once. -/
def State.release (s : State) (scope : BitVec 2) (m : QWord) (len : Nat) (cont : Cont) : State :=
  s.holdRel m
    { id := s.nextId, lanes := m, pc := s.bundle.pc, next := s.bundle.pc + BitVec.ofNat 64 len, scope := scope, stage := 0,
      waits := s.olderOf s.grp, timed := scope != 0, cont := cont }

/-- An acknowledgement with W reaches the core: the storing group's WCT takes it, and so does that of every group whose release waits for
the request; the core keeps the largest (R69, R72, R78, R351). -/
def State.tellW (s : State) (r : Req) (w : Nat) : State :=
  let f (g : Group) : Group := if g.uid = r.gid ∨ g.rels.any (fun x => x.waits.contains r.id) then { g with wct := max g.wct w } else g
  let s1 := if (s.core r.core).maxW < w then s.onCore r.core (fun c => { c with maxW := w }) else s
  { s1 with grp := f s1.grp, groups := s1.groups.map f }

end Sys2Proof.Machine
end

