-- ==== Sys2Proof/Machine/MemInstr.lean ====
section
/-! DEFINITION. Global and buffer accesses of a bundle: LDG, STG, LDB, STB, ATOM, ATOMB, CAS, COMM, WAITC and the prefetch hints
(R244 to R255, R262 to R264). -/

namespace Sys2Proof.Machine

/-! Addresses (R244) -/

/-- Bytes of a width; 0 for kind E (Table 2). -/
def widthBytes : Width → Nat
  | .z8 => 1
  | .s8 => 1
  | .z16 => 2
  | .s16 => 2
  | .b32 => 4
  | .b64 => 8
  | .b128 => 16
  | .e => 0

/-- Offset of LDG, STG, LDB and STB: scaled in the base form, B + IMM16 otherwise. -/
def offsetOf (g : Group) (f : Fields) (size : Nat) (x : Lane) : Int :=
  match f.b with
  | .num n => sextNat 6 n.toNat * (size : Int)
  | o => sextNat 32 (srcVal g .i32 x o) + sextNat 16 f.imm.toNat

/-- The base: a pair or a scalar. -/
def baseVA (g : Group) (f : Fields) (x : Lane) : DWord := BitVec.ofNat 64 (srcVal g .i64 x f.a)

/-- A lane's VA with an offset, modulo 2^64. -/
def vaWith (g : Group) (f : Fields) (off : Int) (x : Lane) : DWord := baseVA g f x + BitVec.ofInt 64 off

/-- A lane's buffer address with an offset, modulo 2^32. -/
def bufWith (g : Group) (f : Fields) (off : Int) (x : Lane) : Nat :=
  (BitVec.ofNat 32 (srcVal g .i32 x f.a) + BitVec.ofInt 32 off).toNat

/-- IMM16 as a signed offset. -/
def immOff (f : Fields) : Int := sextNat 16 f.imm.toNat

/-- The offset of CAS: IMM16 [14:0] (R252). -/
def casOff (f : Fields) : Int := sextNat 15 f.imm.toNat

/-! MOD of the memory class (R173, R245) -/

def scopeOf (f : Fields) : BitVec 2 := f.md.extractLsb' 0 2
def acqOf (f : Fields) : Bool := f.md.getLsbD 2
def relOf (f : Fields) : Bool := f.md.getLsbD 3

/-! Requests of a bundle -/

/-- A request of a lane's global access. -/
def spotReq (s : State) (f : Fields) (acc : Access) (sp : Spot) : Req :=
  { (default : Req) with
    gid := s.grp.uid, lane := sp.lane, core := s.unitOf s.grp, acc := acc, addr := sp.pa, va := sp.va, n := sp.n, six := sp.six,
    elems := sp.elems, mask := fullMask sp.n, scope := if isHost sp.pa then 3 else scopeOf f, lease := leaseCode sp.cls,
    repl := replicas sp.cls, ways := wayMask sp.cls, age := insertAge sp.cls, lock := sp.lock, combine := sp.range.isSome && !isHost sp.pa, stage := .sent, pc := s.bundle.pc,
    md := f.md, logged := s.grp.logged, asid := s.asidOf s.grp, bench := s.grp.bench, born := s.nextId }

/-- A request of a lane's buffer access. -/
def bufReq (s : State) (f : Fields) (acc : Access) (sp : BufSpot) : Req :=
  { (default : Req) with
    gid := s.grp.uid, lane := sp.lane, core := s.unitOf s.grp, acc := acc, isBuf := true, team := sp.team, region := sp.region,
    addr := sp.off, va := BitVec.ofNat 64 sp.addr, n := sp.n, elems := sp.n, mask := fullMask sp.n, scope := scopeOf f, stage := .sent, pc := s.bundle.pc,
    md := f.md, logged := s.grp.logged }

/-- A register number of a vector operand. -/
def vecNum (o : Operand) : Nat :=
  match o with
  | .vec n => n.toNat
  | _ => 0

/-- How a width fills its destination (Table 2, R59). -/
def widthExt (w : Width) : Extend :=
  match w with
  | .z8 => .zext
  | .s8 => .sext 8
  | .z16 => .zext
  | .s16 => .sext 16
  | .b32 => .words 1
  | .b64 => .words 2
  | .b128 => .words 4
  | .e => .zext

/-- The data of a store (Table 2): constants as f32 for kind E and as integers otherwise. -/
def storeVal (g : Group) (w : Width) (o : Operand) (x : Lane) : Nat :=
  match w with
  | .b64 => srcVal g .i64 x o
  | .b128 => x.words (vecNum o) 4
  | .e => srcVal g .f32 x o
  | .b32 => srcVal g .i32 x o
  | .z16 => srcVal g .i32 x o % 2 ^ 16
  | .s16 => srcVal g .i32 x o % 2 ^ 16
  | _ => srcVal g .i32 x o % 2 ^ 8

/-- The lane of the issuing group a spot belongs to. -/
def atLane (s : State) (l : Nat) : Lane := s.laneAt l

/-- The guard-false lanes of the bundle move past the instruction. -/
def State.passFalse (s : State) (f : Fields) : State :=
  s.onLanes (fun l x => if s.inBundle l && !guardOf f.gd x then { x with pc := x.pc + BitVec.ofNat 64 f.form.len } else x)

/-- The scope of an access's own release: SCOPE, whatever window the access goes to (R245, log 147); COMM ignores the field, and the model takes device (R255, log 96). -/
def relScope (rs : List Req) (f : Fields) : BitVec 2 :=
  match rs.head?.map Req.acc with
  | some (.comm _) => 2
  | _ => scopeOf f

/-- A bundle's counted accesses, already checked (R249, R250, R251, R253, R255): a release first when the order asks for it, then the accesses,
then an acquire point. The operation is the fresh number; it stays open while its release lasts. `fx` holds the flags that lanes raise (R97, R102). -/
def accessGo (cls : Nat) (f : Fields) (rs : List Req) (fx : List (Nat × FFlags)) (s0 : State) : State :=
  let s := s0.onLanes (fun l x => { x with fflags := x.fflags ||| flagsOf fx l })
  let op := s.nextId
  let rs1 := rs.map (fun r => { r with op := op })
  let m := s.activeMask f.gd
  if relOf f then
    ((s.count cls true).passFalse f).release (relScope rs f) m f.form.len (.access rs1 (acqOf f) fx)
  else
    let s1 := ((s.count cls false).issueReqs rs1).advance f.form.len
    let s2 := if acqOf f then s1.acquire s.grp.uid (fun l => m.getLsbD l) else s1
    { s2 with grp := storeTrap s.bundle.pc f.form.len fx s2.grp }

/-- A REMOTE cause not raised yet in a lane that issues another numbered atomic: it is raised there (R158). -/
def remoteFirst (s : State) (rs : List Req) : Option Marked :=
  rs.findSome? (fun r => if s.isNumbered r then (s.laneAt r.lane).marked.find? (fun m => m.rcause != 0) else none)

/-- A counted access of a bundle: its checks over the guard-true lanes, then its requests, and the flags that lanes raise. A bundle with no guard-true lane counts and
completes at once (R248). -/
def accessFx (cls : Nat) (f : Fields) (s : State) (check : List (Nat × Lane) → Checked (List Req)) (fx : List (Nat × Lane) → List (Nat × FFlags)) : State :=
  match s.actives f.gd with
  | [] => (s.count cls false).advance f.form.len
  | l =>
    match check l with
    | .ok rs =>
      match remoteFirst s rs with
      | some m => raiseWith (markFault m) s
      | none => accessGo cls f rs (fx l) s
    | .fault i => raiseWith i s
    | .awaited => s

/-- A counted access that raises no flags. -/
def access (cls : Nat) (f : Fields) (s : State) (check : List (Nat × Lane) → Checked (List Req)) : State := accessFx cls f s check (fun _ => [])

/-- The checks of global lanes, then one request for each. -/
def perSpot (s : State) (f : Fields) (t : Touch) (n : Nat) (ea : Lane → DWord) (mk : Spot → Req) (l : List (Nat × Lane)) :
    Checked (List Req) :=
  match checkLanes s s.me t f.md n (l.map (fun p => (p.1, ea p.2))) with
  | .ok sp => .ok (sp.map mk)
  | .fault i => .fault i
  | .awaited => .awaited

/-! LDG (R249) -/

/-- The scale byte of an element as an access of its own page (R59, R61), or the lane's DATA fault; none for a format without scales. -/
def scaleSpot (s : State) (t : Touch) (md : BitVec 8) (sp : Spot) : Checked (Option Spot) :=
  match sp.fmt with
  | none => .ok none
  | some fe =>
    let va := fe.sbase + (sp.va.toNat - fe.dbase) / 32
    if !elementCode fe.fmt then .ok none
    else if sp.va.toNat < fe.dbase then .fault (dataFault t 0 0 sp.va)
    else if !Block.scaled fe.fmt then .ok none
    else match s.reach s.me t va with
      | .page e => if s.tablesAwaited s.me e then .awaited else .ok (some { s.spot s.me md sp.lane (BitVec.ofNat 64 va) 1 e with va := sp.va })
      | .fail a b => .fault (dataFault t a b sp.va)
      | .awaited => .awaited

/-- A load request. -/
def loadReq (s : State) (f : Fields) (w : Width) (sp : Spot) : Req :=
  { spotReq s f .load sp with dst := vecNum f.d, ext := widthExt w }

/-- The requests of a kind E load: the element, and its scale byte (R59). -/
def elemLoad (s : State) (f : Fields) (sp : Spot) (sc : Option Spot) : List Req :=
  { spotReq s f .load sp with dst := vecNum f.d, ext := .elem ((sp.fmt.map (fun e => e.fmt)).getD 0) } ::
    (sc.map (fun k => { spotReq s f .load k with isScale := true })).toList

/-- LDG of kind E: the page's format decides what each lane reads (R59). -/
def ldgE (s : State) (f : Fields) (l : List (Nat × Lane)) : Checked (List Req) :=
  match checkLanes s s.me .load f.md 0 (l.map (fun p => (p.1, vaWith s.grp f (offsetOf s.grp f 1 p.2) p.2))) with
  | .ok sps =>
    match collect (sps.map (scaleSpot s .load f.md)) with
    | .ok scs => .ok ((sps.zip scs).flatMap (fun p => elemLoad s f p.1 p.2))
    | .fault i => .fault i
    | .awaited => .awaited
  | .fault i => .fault i
  | .awaited => .awaited

/-- LDG (R249). -/
def execLdg (w : Width) (f : Fields) (s : State) : Out3 :=
  run ⟨0x26, Enc.widthFn w, 0⟩ f s (fun s =>
    access 0 f s (fun l =>
      if w = .e then ldgE s f l
      else perSpot s f .load (widthBytes w) (fun x => vaWith s.grp f (offsetOf s.grp f (widthBytes w) x) x) (loadReq s f w) l))

/-! STG (R250, R60) -/

/-- A store request of a value of VA bytes: team-scope stores to write-back pages stay in the L1 (R50, R75). -/
def storeReq (s : State) (f : Fields) (sp : Spot) (v : Nat) : Req :=
  let (d, m) := packVal sp.six sp.elems sp.n v
  { spotReq s f .store sp with data := d, mask := m, l1 := !wthrough sp.cls }

/-- The element number of a lane's address, from the data base (R59, R60). -/
def elemIx (fe : FmtEntry) (sp : Spot) : Nat := sp.va.toNat - fe.dbase

/-- The block-store condition of R60: every element of each G-aligned block that is touched is named exactly once, and G ≤ 64. -/
def blocksWhole (g : Nat) (ixs : List Nat) : Bool :=
  decide (g ≤ 64) && ixs.all (fun i => (List.range g).all (fun j => (ixs.filter (fun k => k == i / g * g + j)).length == 1))

/-- The elements of one G-block in order, quantized under the page's tag: for each lane its pattern, and the scale of each 32 (R60, R102). Values for an E8M0 page
are converted as they are, whatever its tag's BLK (R97, log 97). -/
def quantBlockOf (g : Group) (fe : FmtEntry) (xs : List (Spot × Nat)) : List (Spot × Nat × Nat) :=
  let seed : DWord := sget 0 g.sseed (Block.seedIx fe.tag)
  let vals := xs.map (fun p => Fp.decode Fp.f32 p.2)
  let q := if fe.fmt = 7 then vals.map (fun v => ((Block.toE8m0 v).1, 0)) else Block.quantize fe.fmt fe.tag seed vals
  (xs.zip q).map (fun p => (p.1.1, p.2.1, p.2.2))

/-- Inserts by a key, after the equal ones. -/
def insertBy {α : Type} (key : α → Nat) (p : α) : List α → List α
  | [] => [p]
  | q :: rest => if key p ≤ key q then p :: q :: rest else q :: insertBy key p rest

/-- Sorts by a key; equal ones keep their order. -/
def sortBy {α : Type} (key : α → Nat) (l : List α) : List α := l.foldr (insertBy key) []

/-- The stores of a block store: the elements, and one scale byte for each 32 (R60, R61). -/
def blockReqs (s : State) (f : Fields) (fe : FmtEntry) (sps : List (Spot × Option Spot)) : List Req :=
  let g := max 32 (Block.blockSize fe.tag)
  let sorted := sortBy (fun (p : Spot × Nat) => elemIx fe p.1) (sps.map (fun p => (p.1, storeVal s.grp .e f.d (atLane s p.1.lane))))
  let els := (Block.chunks g sorted.length sorted).flatMap (quantBlockOf s.grp fe)
  let scaleOf (sp : Spot) : Option Spot := (sps.find? (fun p => p.1.lane == sp.lane)).bind (fun p => p.2)
  els.map (fun e => storeReq s f e.1 e.2.1) ++
    (els.filter (fun e => elemIx fe e.1 % 32 == 0)).filterMap (fun e => (scaleOf e.1).map (fun k => storeReq s f k e.2.2))

/-- A kind E store to a byte-addressed page: the value rounded by `FMODE`.RM (R60, R250), and not flushed by `FMODE`.FTZ (R91, log 67). -/
def elemStoreVal (g : Group) (fmt v : Nat) : Nat :=
  let md : Fp.Mode := { rm := rmOf g 5, flush := false, sat := false }
  match fmt with
  | 1 => (Fp.convert Fp.f32 Fp.bf16 md false v).1
  | 2 => (Fp.convert Fp.f32 Fp.f16 md false v).1
  | _ => v

/-- The stores of a bundle's kind E lanes once addresses and scale bytes are good. Lanes on byte-addressed pages store by themselves;
those on element-addressed pages make block stores under their page's entry (R60). The stores leave in lane order (R247, R296). -/
def storesE (s : State) (f : Fields) (sps : List (Spot × Option Spot)) : Checked (List Req) :=
  let isEl (p : Spot × Option Spot) : Bool := match p.1.fmt with | some fe => elementCode fe.fmt | none => false
  let plain := (sps.filter (fun p => !isEl p)).map (fun p =>
    storeReq s f p.1 (elemStoreVal s.grp ((p.1.fmt.map (fun e => e.fmt)).getD 0) (storeVal s.grp .e f.d (atLane s p.1.lane))))
  let els := sps.filter isEl
  let fes := (els.filterMap (fun p => p.1.fmt)).eraseDups
  let group (fe : FmtEntry) : List (Spot × Option Spot) := els.filter (fun p => p.1.fmt == some fe)
  let bad (fe : FmtEntry) : Bool := !blocksWhole (max 32 (Block.blockSize fe.tag)) ((group fe).map (fun p => elemIx fe p.1))
  let lowest (l : List (Spot × Option Spot)) : DWord := (l.head?.map (fun p => p.1.va)).getD 0
  match fes.find? bad with
  | some fe => .fault { cause := .fmtstore, access := 3, addr := lowest (group fe) }
  | none =>
    match fes.find? (fun fe => !Block.tagOk (sget 0 s.grp.sseed (Block.seedIx fe.tag)) fe.tag) with
    | some fe => .fault { cause := .tagmismatch, access := 3, addr := lowest (group fe) }
    | none => .ok (sortBy (fun r => r.lane) (plain ++ fes.flatMap (fun fe => blockReqs s f fe (group fe))))

/-- STG of kind E. -/
def stgE (s : State) (f : Fields) (l : List (Nat × Lane)) : Checked (List Req) :=
  match checkLanes s s.me .store f.md 0 (l.map (fun p => (p.1, vaWith s.grp f (offsetOf s.grp f 1 p.2) p.2))) with
  | .ok sps =>
    match collect (sps.map (scaleSpot s .store f.md)) with
    | .ok scs => storesE s f (sps.zip scs)
    | .fault i => .fault i
    | .awaited => .awaited
  | .fault i => .fault i
  | .awaited => .awaited

/-- The NV that a lane of a block store raises: a zero, negative or non-finite value for an E8M0 page, a non-finite one for any other (R97, R102). -/
def elemFlags (fe : FmtEntry) (x : Nat) : FFlags :=
  let v := Fp.decode Fp.f32 x
  if fe.fmt = 7 then (Block.toE8m0 v).2 else if v.isNan || v.isInf then flagNV else 0

/-- The flags that the guard-true lanes of a kind E store raise: none on byte-addressed pages (R250). -/
def stgFlags (s : State) (f : Fields) (l : List (Nat × Lane)) : List (Nat × FFlags) :=
  match checkLanes s s.me .store f.md 0 (l.map (fun p => (p.1, vaWith s.grp f (offsetOf s.grp f 1 p.2) p.2))) with
  | .ok sps => sps.map (fun sp => (sp.lane, match sp.fmt with
      | some fe => if elementCode fe.fmt then elemFlags fe (storeVal s.grp .e f.d (atLane s sp.lane)) else 0
      | none => 0))
  | _ => []

/-- STG (R250). -/
def execStg (w : Width) (f : Fields) (s : State) : Out3 :=
  run ⟨0x27, Enc.widthFn w, 0⟩ f s (fun s =>
    accessFx 1 f s (fun l =>
      if w = .e then stgE s f l
      else perSpot s f .store (widthBytes w) (fun x => vaWith s.grp f (offsetOf s.grp f (widthBytes w) x) x)
        (fun sp => storeReq s f sp (storeVal s.grp w f.d (atLane s sp.lane))) l)
      (fun l => if w = .e then stgFlags s f l else []))

/-! Buffers (R251, R254) -/

/-- The copy of an object's state on a die. -/
def State.ocopy (s : State) (die obj : Nat) : ObjCopy := (s.ocopies.find? (fun c => c.die == die && c.obj == obj)).getD default

/-- STATELEN of an object (R144). -/
def Obj.statelen (o : Obj) : Nat := bitsOf o.desc 192 17

/-- A method's buffer access (R152): region 0 below STATELEN, naturally aligned, and no store by a read-only method; otherwise the cause
of its trap. -/
def methodAccess (s : State) (m : Method) (writes : Bool) (n addr : Nat) : Option Nat :=
  let o := (s.objs.find? (fun o => o.id == m.obj)).getD default
  if addr / 2 ^ 28 ≠ 0 ∨ o.statelen < addr + n then some 1
  else if addr % n ≠ 0 then some 5
  else if writes && !m.mutates then some 4
  else none

/-- A method's access to its state block, which is performed at once: `h` gives the stored bytes from the old ones, `back` what the
destination takes. -/
def methodBuf (m : Method) (f : Fields) (n : Nat) (writes : Bool) (ea : Lane → Nat) (h : Lane → Nat → Nat) (back : Lane → Nat → Lane)
    (s : State) : State :=
  match s.elect f.gd with
  | none => s.advance f.form.len
  | some (_, x) =>
    match methodAccess s m writes n (ea x) with
    | some c => methodTrap c m s
    | none =>
      let old := rdBytes (s.ocopy m.die m.obj).bytes (ea x) n
      let put (c : ObjCopy) : ObjCopy := { c with bytes := wrBytes c.bytes (ea x) n (h x old) }
      let s1 := if writes then { s with ocopies := updBy (fun c => c.die == m.die && c.obj == m.obj) put s.ocopies } else s
      s1.lanewise f (fun _ y => back y old)

/-- The checks of buffer lanes, then one request for each. -/
def perBuf (s : State) (u : BufUse) (code n : Nat) (ea : Lane → Nat) (mk : BufSpot → Req) (l : List (Nat × Lane)) : Checked (List Req) :=
  match checkBuf s s.myTeam u code n (l.map (fun p => (p.1, ea p.2))) with
  | .ok sp => .ok (sp.map mk)
  | .fault i => .fault i
  | .awaited => .awaited

/-- The register value of a load of a width. -/
def widthLoad (w : Width) (v : Nat) : Nat :=
  match widthExt w with
  | .sext b => (BitVec.ofInt 32 (sextNat b v)).toNat
  | _ => v

/-- LDB (R251). -/
def execLdb (w : Width) (f : Fields) (s : State) : Out3 :=
  run ⟨0x28, Enc.widthFn w, 0⟩ f s (fun s =>
    let n := widthBytes w
    let ea (x : Lane) : Nat := bufWith s.grp f (offsetOf s.grp f n x) x
    match s.grp.method with
    | some m => methodBuf m f n false ea (fun _ o => o) (fun y o => y.setWords (vecNum f.d) (widthExt w).words_ (widthLoad w o)) s
    | none => access 0 f s (perBuf s .load 2 n ea (fun sp => { bufReq s f .load sp with dst := vecNum f.d, ext := widthExt w })))

/-- STB (R251). -/
def execStb (w : Width) (f : Fields) (s : State) : Out3 :=
  run ⟨0x29, Enc.widthFn w, 0⟩ f s (fun s =>
    let n := widthBytes w
    let ea (x : Lane) : Nat := bufWith s.grp f (offsetOf s.grp f n x) x
    match s.grp.method with
    | some m => methodBuf m f n true ea (fun x _ => storeVal s.grp w f.d x) (fun y _ => y) s
    | none => access 1 f s (perBuf s .store 3 n ea (fun sp =>
        { bufReq s f .store sp with data := BitVec.ofNat 128 (storeVal s.grp w f.d (atLane s sp.lane)) })))

/-! Atomics (R252 to R254) -/

/-- Bytes of an atomic's type. -/
def atomBytes (ty : BitVec 5) : Nat := if Enc.isPairTy ty then 8 else 4

/-- An operand of an atomic of `n` bytes. -/
def atomOperand (g : Group) (n : Nat) (o : Operand) (x : Lane) : QWord :=
  if n = 16 then BitVec.ofNat 128 (x.words (vecNum o) 4)
  else if n = 8 then BitVec.ofNat 128 (srcVal g .i64 x o)
  else BitVec.ofNat 128 (srcVal g .i32 x o)

/-- An FADD operand takes constants as f32. -/
def faddOperand (g : Group) (ty : BitVec 5) (n : Nat) (o : Operand) (x : Lane) : QWord :=
  if ty = 4 then BitVec.ofNat 128 (srcVal g .f32 x o) else atomOperand g n o x

/-- Bytes of CAS (R252). -/
def casBytes (f : Fields) : Nat := if f.imm.getLsbD 15 then 16 else atomBytes f.ty

/-- An atomic's request of a global lane. Team scope executes in the L1, or at the home for a write-through page (R253). -/
def atomSpot (s : State) (f : Fields) (acc : Access) (b c : Lane → QWord) (sp : Spot) : Req :=
  let r := spotReq s f acc sp
  let x := atLane s sp.lane
  { r with
    dst := vecNum f.d, ext := .words ((sp.elems + 3) / 4), data := b x, cmp := c x
    l1 := decide (r.scope = 0) && !wthrough sp.cls && !r.combine }

/-- ATOM (R253). -/
def execAtom (op : AtomOp) (f : Fields) (s : State) : Out3 :=
  run ⟨0x2A, Enc.atomOpFn op, 0⟩ f s (fun s =>
    access 0 f s (perSpot s f .atomic (atomBytes f.ty) (fun x => vaWith s.grp f (immOff f) x)
      (atomSpot s f (.atom op f.ty) (fun x => faddOperand s.grp f.ty (atomBytes f.ty) f.b x) (fun _ => 0))))

/-- The compare-and-swap form of ATOM (R252, R253). -/
def execAtomCas (f : Fields) (s : State) : Out3 :=
  run ⟨0x2A, 0, 1⟩ f s (fun s =>
    access 0 f s (perSpot s f .atomic (casBytes f) (fun x => vaWith s.grp f (casOff f) x)
      (atomSpot s f .cas (fun x => atomOperand s.grp (casBytes f) f.b x) (fun x => atomOperand s.grp (casBytes f) f.c x))))

/-- An atomic's request of a buffer lane. -/
def atomBuf (s : State) (f : Fields) (acc : Access) (b c : Lane → QWord) (sp : BufSpot) : Req :=
  let x := atLane s sp.lane
  { bufReq s f acc sp with dst := vecNum f.d, ext := .words ((sp.n + 3) / 4), data := b x, cmp := c x }

/-- ATOMB or its compare-and-swap form: in a method on the state block, elsewhere in the owning core's banks (R152, R254). -/
def bufAtomic (acc : Access) (n : Nat) (off : Int) (b c : Lane → QWord) (f : Fields) (s : State) : State :=
  let ea (x : Lane) : Nat := bufWith s.grp f off x
  match s.grp.method with
  | some m =>
    let new (x : Lane) (o : Nat) : Nat := ({ (default : Req) with acc := acc, elems := n, data := b x, cmp := c x }).newVal o
    methodBuf m f n true ea new (fun y o => y.setWords (vecNum f.d) ((n + 3) / 4) o) s
  | none => access 0 f s (perBuf s .atomic 4 n ea (atomBuf s f acc b c))

/-- ATOMB (R254). -/
def execAtomb (op : AtomOp) (f : Fields) (s : State) : Out3 :=
  run ⟨0x2B, Enc.atomOpFn op, 0⟩ f s (fun s =>
    bufAtomic (.atom op f.ty) (atomBytes f.ty) (immOff f) (fun x => faddOperand s.grp f.ty (atomBytes f.ty) f.b x) (fun _ => 0) f s)

/-- The compare-and-swap form of ATOMB (R252, R254). -/
def execAtombCas (f : Fields) (s : State) : Out3 :=
  run ⟨0x2B, 0, 1⟩ f s (fun s =>
    bufAtomic .cas (casBytes f) (casOff f) (fun x => atomOperand s.grp (casBytes f) f.b x) (fun x => atomOperand s.grp (casBytes f) f.c x) f s)

/-! COMM (R255) -/

/-- The value folded: a constant of FADD, FMAX or FMIN as f32 (R172). -/
def commVal (g : Group) (op : CommOp) (o : Operand) (x : Lane) : Nat :=
  match op with
  | .fadd => srcVal g .f32 x o
  | .fmax => srcVal g .f32 x o
  | .fmin => srcVal g .f32 x o
  | _ => srcVal g .i32 x o

/-- A COMM request of a lane, or DATA where its range does not name the operation. -/
def commSpot (s : State) (f : Fields) (op : CommOp) (sp : Spot) : Checked Req :=
  if sp.range = some op then
    .ok { spotReq s f (.comm op) sp with data := BitVec.ofNat 128 (commVal s.grp op f.b (atLane s sp.lane)) }
  else .fault (dataFault .store 0 0 sp.va)

/-- COMM (R255). -/
def execComm (op : CommOp) (f : Fields) (s : State) : Out3 :=
  run ⟨0x3B, Enc.commOpFn op, 0⟩ f s (fun s =>
    access 1 f s (fun l =>
      match checkLanes s s.me .store f.md 4 (l.map (fun p => (p.1, vaWith s.grp f (immOff f) p.2))) with
      | .ok sps => collect (sps.map (commSpot s f op))
      | .fault i => .fault i
      | .awaited => .awaited))

/-! WAITC (R262) -/

/-- The monitor of a lane; its number is `id`. -/
def monitorOf (s : State) (f : Fields) (c : Cond) (sp : Spot) (id : Nat) : Monitor :=
  { id := id, gid := s.grp.uid, lane := sp.lane, core := s.unitOf s.grp, addr := sp.pa, va := sp.va, n := sp.n, six := sp.six, elems := sp.elems,
    cond := c, ty := f.ty,
    b := BitVec.ofNat 64 (srcVal s.grp (Ty.ofCode f.ty) (atLane s sp.lane) f.b), dst := vecNum f.d, acq := acqOf f, at_ := 0, asleep := false,
    next := s.bundle.pc + BitVec.ofNat 64 f.form.len }

/-- Numbers the monitors of a bundle. -/
def monitorsOf (s : State) (f : Fields) (c : Cond) : Nat → List Spot → List Monitor
  | _, [] => []
  | id, sp :: rest => monitorOf s f c sp id :: monitorsOf s f c (id + 1) rest

/-- The lanes of the monitors wait: D is pending throughout (R262). -/
def pendMonitors (ms : List Monitor) (n : Nat) (s : State) : State :=
  { s with
    nextId := s.nextId + ms.length
    grp := { s.grp with
      lanes := mapLanes (fun l x =>
        match ms.find? (fun k => k.lane == l) with
        | some k => { x with pend := x.pend ++ [{ reg := k.dst, n := n, src := k.id }] }
        | none => x) 0 s.grp.lanes } }

/-- WAITC (R262): the checks of a load, a word of a range being DATA; then a release if ordered, then every lane is in MONITOR. -/
def execWaitc (c : Cond) (f : Fields) (s : State) : Out3 :=
  run ⟨0x30, Enc.condFn c, 0⟩ f s (fun s =>
    match s.actives f.gd with
    | [] => s.advance f.form.len
    | l =>
      match checkLanes s s.me .load f.md (atomBytes f.ty) (l.map (fun p => (p.1, vaWith s.grp f (immOff f) p.2))) with
      | .ok sps =>
        match sps.find? (fun sp => sp.range.isSome) with
        | some sp => raiseWith (dataFault .load 0 0 sp.va) s
        | none =>
          let ms := monitorsOf s f c s.nextId sps
          let s1 := (pendMonitors ms (if Enc.isPairTy f.ty then 2 else 1) s).passFalse f
          let m := s.activeMask f.gd
          if relOf f then s1.release (if scopeOf f = 3 then 3 else 2) m f.form.len (.monitor ms)
          else s1.follow s.grp.uid m (s.bundle.pc + BitVec.ofNat 64 f.form.len) (.monitor ms)
      | .fault i => raiseWith i s
      | .awaited => s)

/-! Prefetch hints (R263, R264) -/

/-- A lane's prefetch: a weak team-scope load that fills no register, or one dropped prefetch counted in `PFDROP`. -/
def prefetch (slice : Bool) (f : Fields) (s : State) (p : Nat × Lane) : State :=
  let va := vaWith s.grp f (immOff f) p.2
  match s.reach s.me .load va.toNat with
  | .page e =>
    let sp := s.spot s.me 0 p.1 va 1 e
    if isHost sp.pa then s
    else s.addReq { spotReq s { f with md := 0 } .load sp with
      addr := sp.pa / 128 * 128, n := 1, mask := 0, six := 0, ext := .none, l1 := slice, target := s.routeOf (s.dieOf s.grp) sp.pa }
  | _ => s.onCore (s.unitOf s.grp) (fun c => { c with pfdrop := c.pfdrop + 1 })

/-- True while the translation of a lane's prefetch is awaited (R263, R365). -/
def pfAwaited (s : State) (f : Fields) (p : Nat × Lane) : Bool := s.reach s.me .load (vaWith s.grp f (immOff f) p.2).toNat == .awaited

/-- True when a hint's address register exists; a hint raises no fault (R180). -/
def hintBase (s : State) (f : Fields) : Bool :=
  match f.a with
  | .vec n => decide (n.toNat + 2 ≤ s.grp.vcount)
  | _ => true

/-- PFD in either kind: each guard-true lane's line. Only a line that cannot be translated is dropped, so the hint issues once every answer is there (log 98). -/
def pfd (slice : Bool) (f : Fields) (s : State) : State :=
  if hintBase s f && (s.actives f.gd).any (pfAwaited s f) then s
  else if hintBase s f then ((s.actives f.gd).foldl (prefetch slice f) s).advance f.form.len else s.advance f.form.len

/-- PFD FN 0, into the L1 (R263). -/
def execPfdL1 (f : Fields) (s : State) : Out3 := hinted s (pfd false f s)

/-- PFD FN 1, into the local slice (R263). -/
def execPfdSlice (f : Fields) (s : State) : Out3 := hinted s (pfd true f s)

/-- YIELD (R264): the bench passes over the group for its next 8 core cycles while another is issuable. -/
def execYield (f : Fields) (s : State) : Out3 :=
  hinted s ({ s with grp := { s.grp with yieldTo := s.cycle + 8 } }.advance f.form.len)

end Sys2Proof.Machine
end

