-- ==== Sys2Proof/Machine/Control.lean ====
section
/-! DEFINITION. Branches, calls, branch tables, JOIN and lane control (R20, R179, R188 to R193, R30 to R33), and instruction fetch (R166). -/

namespace Sys2Proof.Machine

/-! Fetch (R166) -/

/-- The kind of a fetch: a replay engine's is a method fetch (R360). -/
def fetchTouch (g : Group) : Touch := if g.method.isSome then .methodFetch else .fetch

/-- The word of code at an address of a page, on a T6 page from its packed elements (R58, R166). -/
def State.codeWord (s : State) (w : Who) (e : TlbEntry) (va : DWord) : Word :=
  let p := s.frameAt w e va.toNat 4
  BitVec.ofNat 32 (unpackVal p.2.2 4 (s.readPhys p.1 p.2.1))

/-- The instruction word at an address for the issuing group, or the FETCH fault of R166 with the address of the word. -/
def fetchWord (s : State) (w : Who) (va : DWord) : Checked Word :=
  match s.reach w (fetchTouch s.grp) va.toNat with
  | .page e => if s.tablesAwaited w e then .awaited else .ok (s.codeWord w e va)
  | .fail tout level => .fault { cause := .fetch, access := (fetchTouch s.grp).code, tout := tout, level := level, addr := va }
  | .awaited => .awaited

/-- FETCH of an instruction or a table word (R191, R342, R360): the lanes of the bundle are FAULTED, and a refused translation is forgotten. On a replay engine it is
resolved as a replayable fault and ends no method (R152). -/
def fetchFault (x : FaultInfo) (s : State) : State :=
  let s1 := s.onLanes (fun l y => if s.inBundle l then { y with st := .faulted, hold := .none, waitCount := 0 } else y)
  { s1.forgetRefused x with faults := s1.faults ++ [faultRecord x s], nextId := s.nextId + 1 }

/-- `n` words from an address, the first failing one deciding. -/
def fetchWords (s : State) (w : Who) (va : DWord) : Nat → Checked (List Word)
  | 0 => .ok []
  | n + 1 =>
    match fetchWord s w va with
    | .ok x =>
      match fetchWords s w (va + 4) n with
      | .ok xs => .ok (x :: xs)
      | .fault i => .fault i
      | .awaited => .awaited
    | .fault i => .fault i
    | .awaited => .awaited

/-! Branches and calls (R179, R188) -/

/-- NOP (R179). -/
def execNop (f : Fields) (s : State) : Out3 := .next (s.advance f.form.len)

/-- The target of BRA and CALL: OFF20 in the base forms, IMM16 in LEN 10, the literal in LEN 11 (R188). -/
def branchTarget (f : Fields) (pc : DWord) : DWord :=
  match f.form with
  | .base => pc + BitVec.ofInt 64 (4 * sextNat 20 f.imm.toNat)
  | .lit => pc + BitVec.ofInt 64 (4 * sextNat 20 f.imm.toNat)
  | .ext => pc + BitVec.ofInt 64 (4 * sextNat 16 f.imm.toNat)
  | .extLit => f.lit

/-- Moves the guard-true lanes to their targets and the others past the instruction, linking in v62:v63 for a call (R188, R189). -/
def State.transfer (s : State) (f : Fields) (link : Bool) (t : Lane → DWord) : State :=
  s.onLanes (fun l x =>
    if s.inBundle l then
      let next := x.pc + BitVec.ofNat 64 f.form.len
      if guardOf f.gd x then { (if link then x.setPair 62 next else x) with pc := t x } else { x with pc := next }
    else x)

/-- BRA in the base forms (R188). -/
def execBra (f : Fields) (s : State) : Out3 := run ⟨0x01, 0, 0⟩ f s (fun s => s.transfer f false (fun x => branchTarget f x.pc))

/-- BRA in the extended forms (R188). -/
def execBraX (f : Fields) (s : State) : Out3 := run ⟨0x01, 0, 0⟩ f s (fun s => s.transfer f false (fun x => branchTarget f x.pc))

/-- CALL in the base forms (R188). -/
def execCall (f : Fields) (s : State) : Out3 := run ⟨0x02, 0, 0⟩ f s (fun s => s.transfer f true (fun x => branchTarget f x.pc))

/-- CALL in the extended forms (R188). -/
def execCallX (f : Fields) (s : State) : Out3 := run ⟨0x02, 0, 0⟩ f s (fun s => s.transfer f true (fun x => branchTarget f x.pc))

/-- A jump through registers: ALIGN over every guard-true lane first (R189). -/
def jumpReg (f : Fields) (link : Bool) (t : Lane → DWord) (s : State) : State :=
  match (s.actives f.gd).find? (fun p => bitsOf (t p.2) 0 2 ≠ 0) with
  | some p => raiseWith { cause := .align, addr := t p.2 } s
  | none => s.transfer f link t

/-- The launch of the issuing group was sealed (R190). -/
def State.isSealed (s : State) : Bool := s.grp.method.isNone && recSealed s.myGrid.record

/-- JMPR and CALLR are refused in sealed contexts whatever the guards (R190). -/
def jumpTo (f : Fields) (link : Bool) (s : State) : State :=
  if s.isSealed then raise .illegal s else jumpReg f link (fun x => baseVA s.grp f x) s

/-- JMPR (R189). -/
def execJmpr (f : Fields) (s : State) : Out3 := run ⟨0x03, 0, 0⟩ f s (jumpTo f false)

/-- CALLR (R189). -/
def execCallr (f : Fields) (s : State) : Out3 := run ⟨0x03, 1, 0⟩ f s (jumpTo f true)

/-- RET (R189). -/
def execRet (f : Fields) (s : State) : Out3 := run ⟨0x03, 2, 0⟩ f s (jumpReg f false (fun x => x.pair 62))

/-! Branch tables (R191, R192) -/

/-- The number of table words: IMM12 or IMM16, unsigned. -/
def tableLen (f : Fields) : Nat := f.imm.toNat

/-- The address of a lane's table word. -/
def tableEntry (g : Group) (f : Fields) (x : Lane) : DWord :=
  x.pc + BitVec.ofNat 64 (f.form.len + 4 * (srcVal g .un32 x f.a))

/-- A table word is a base TGT: LEN 00 and MAJ 0x05 (R191). -/
def isTgt (w : Word) : Bool := bitsOf w 24 8 == 5

/-- BTAB: BTARGET, FETCH, ILLEGAL over every guard-true lane in turn, then the transfers (R191). -/
def btab (f : Fields) (s : State) : State :=
  let l := s.actives f.gd
  if l.any (fun p => decide (tableLen f ≤ srcVal s.grp .un32 p.2 f.a)) then raise .btarget s
  else match collect (l.map (fun p => fetchWord s s.me (tableEntry s.grp f p.2))) with
  | .fault i => fetchFault i s
  | .awaited => s
  | .ok ws =>
    if ws.any (fun w => !isTgt w) then raise .illegal s
    else
      let words := (l.map (fun p => p.1)).zip ws
      s.onLanes (fun i x =>
        if s.inBundle i then
          match words.find? (fun q => q.1 == i) with
          | some q => { x with pc := tableEntry s.grp f x + BitVec.ofInt 64 (4 * sextNat 24 q.2.toNat) }
          | none => { x with pc := x.pc + BitVec.ofNat 64 (f.form.len + 4 * tableLen f) }
        else x)

/-- BTAB (R191). -/
def execBtab (f : Fields) (s : State) : Out3 := run ⟨0x04, 0, 0⟩ f s (btab f)

/-- TGT raises ILLEGAL whenever a lane executes it (R192). -/
def execTgt (_ : Fields) (s : State) : Out3 := .next (raise .illegal s)

/-! JOIN (R20 to R22) -/

/-- The timeout of a JOIN in units of 8 core cycles: 0 selects `JOINTO`. -/
def joinTime (g : Group) (f : Fields) : Nat := if f.imm = 0 then bitsOf g.jointo 0 16 else f.imm.toNat

/-- `join(t8)` (R20). On a replay engine it passes at once (R152). -/
def joinAt (f : Fields) (s : State) : State :=
  let t := joinTime s.grp f
  if t = 0 ∨ s.grp.method.isSome then s.advance f.form.len
  else if !s.anyActive f.gd then s.advance f.form.len
  else
    let pc := s.bundle.pc
    let s1 := s.onLanes (fun l x =>
      if s.inBundle l then
        if guardOf f.gd x then { x with st := .joined } else { x with pc := x.pc + BitVec.ofNat 64 f.form.len }
      else x)
    if s.grp.eps.any (fun e => e.pc == pc) then s1
    else { s1 with grp := { s1.grp with eps := s1.grp.eps ++ [{ pc := pc, start := s.cycle, limit := 8 * t, len := f.form.len }] } }

/-- JOIN in the base form, whose guard is always true (R20). -/
def execJoin (f : Fields) (s : State) : Out3 := run ⟨0x06, 0, 0⟩ f s (joinAt f)

/-- JOIN in the extended form (R20). -/
def execJoinX (f : Fields) (s : State) : Out3 := run ⟨0x06, 0, 0⟩ f s (joinAt f)

/-- The lanes held at an episode's address, and whether they are all the live lanes of the group (R20). -/
def joinHeld (g : Group) (pc : DWord) (x : Lane) : Bool := g.eps.any (fun e => e.pc == pc) && x.st == .joined && x.pc == pc

/-- An episode ends when every live lane is held there or its time is over (R20). -/
def episodeOver (g : Group) (now : Nat) (e : Episode) : Bool :=
  g.lanes.all (fun x => x.st == .exited || joinHeld g e.pc x) || decide (e.limit ≤ now - e.start)

/-- Releases an episode's lanes past the JOIN and closes it (R20, R26). -/
def closeEpisode (now : Nat) (e : Episode) (g : Group) : Group :=
  { g with
    lanes := g.lanes.map (fun x => if joinHeld g e.pc x then x.wake now (x.pc + BitVec.ofNat 64 e.len) else x)
    eps := g.eps.filter (fun y => y.pc != e.pc) }

/-- Closes every episode of a group that is over, at the end of a core cycle (R20). -/
def closeDue (now : Nat) (g : Group) : Group := (g.eps.filter (episodeOver g now)).foldl (fun g e => closeEpisode now e g) g

/-- True when no lane of a group can issue any more in this core cycle: its bench has had its turn, or none is ELIGIBLE and free. -/
def State.cycleOver (s : State) (g : Group) : Bool :=
  decide (g.bench + 2 ≤ s.turn) || !(g.lanes.any (fun x => x.st == .eligible && decide (x.free ≤ s.cycle)))

/-- JOIN_TIMEOUT (R20): the episode at `pc` in group `g` is over, by its time or because every live lane has arrived. Lanes that reach the JOIN in this core cycle
join the release, so it comes after them. -/
def execJoinTimeout (g : Nat) (pc : BitVec 64) (s : State) : Out3 :=
  .next (match (s.group g).bind (fun x => if s.cycleOver x then x.eps.find? (fun e => e.pc == pc && episodeOver x s.cycle e) else none) with
    | some e => s.onGroup g (closeEpisode s.cycle e)
    | none => s)

/-! Lane control (R193, R30 to R33) -/

/-- A poisoned destination that no instruction has named (R248). -/
def poisonMark (x : Lane) : Option Marked := x.marked.find? (fun m => m.rcause == 0)

/-- True when every lane of every group of a team has exited (R12). -/
def State.teamDone (s : State) (tu : Nat) : Bool :=
  (s.allGroups.filter (fun g => g.team == tu && g.uid != 0)).all (fun g => g.lanes.all (fun x => x.st == .exited))

/-- EXIT (R12, R193): POISON for an unread poisoned destination (R248), else the lanes leave execution and their handler set (R33). -/
def exitLanes (f : Fields) (s : State) : State :=
  match (s.actives f.gd).findSome? (fun p => poisonMark p.2) with
  | some m => raiseWith (markFault m) s
  | none =>
    let s1 := s.onLanes (fun l x =>
      if s.inBundle l then
        if guardOf f.gd x then { x with st := .exited, hold := .none, inH := false, acq := [] }
        else { x with pc := x.pc + BitVec.ofNat 64 f.form.len }
      else x)
    let s2 := { s1 with grp := settleTrap s1.grp }
    if s2.teamDone s2.grp.team then s2.onTeam s2.grp.team (fun t => { t with exited := true }) else s2

/-- EXIT (R193). -/
def execExit (f : Fields) (s : State) : Out3 := run ⟨0x07, 0, 0⟩ f s (exitLanes f)

/-- TRAP and BKPT (R32, R33): nothing without a guard-true lane; ILLEGAL from a handler lane or with no handler; else the trap. -/
def softTrap (kind code : Nat) (f : Fields) (s : State) : State :=
  let l := s.actives f.gd
  if l.isEmpty then s.advance f.form.len
  else if l.any (fun p => p.2.inH) || s.grp.trapv == 0 then raise .illegal s
  else userTrap kind code { nodst := true } f.form.len (fun i => s.active f.gd i (s.laneAt i)) (fun _ => 0) (fun _ => false)
    (s.advance f.form.len)

/-- The number in a field. -/
def numOf (o : Operand) : Nat :=
  match o with
  | .num n => n.toNat
  | _ => 0

/-- TRAP (R193): KIND 2 with the code. -/
def execTrap (f : Fields) (s : State) : Out3 := run ⟨0x07, 1, 0⟩ f s (softTrap 2 (numOf f.b) f)

/-- BKPT (R193): KIND 3. -/
def execBkpt (f : Fields) (s : State) : Out3 := run ⟨0x07, 4, 0⟩ f s (softTrap 3 0 f)

/-- RETT (R33): every guard-true lane must be in the handler set; it goes to `TPC` and leaves the set, and the trap ends with it. -/
def rett (f : Fields) (s : State) : State :=
  if (s.actives f.gd).any (fun p => !p.2.inH) then raise .illegal s
  else
    let s1 := s.onLanes (fun l x =>
      if s.inBundle l then
        if guardOf f.gd x then { x with pc := s.grp.tpc &&& ~~~3, inH := false } else { x with pc := x.pc + BitVec.ofNat 64 f.form.len }
      else x)
    { s1 with grp := settleTrap s1.grp }

/-- RETT (R193). -/
def execRett (f : Fields) (s : State) : Out3 := run ⟨0x07, 2, 0⟩ f s (rett f)

/-- SLEEP (R193): TIMED for n core cycles, the PC staying at the SLEEP (R26); n = 0 only advances. -/
def sleep (f : Fields) (s : State) : State :=
  let n := (sclVal s.grp f.a).toNat % 2 ^ 32
  s.onLanes (fun l x =>
    if s.inBundle l then
      let next := x.pc + BitVec.ofNat 64 f.form.len
      if guardOf f.gd x ∧ n ≠ 0 then { x with st := .timed, hold := .timed (s.cycle + n) next } else { x with pc := next }
    else x)

/-- SLEEP (R193). -/
def execSleep (f : Fields) (s : State) : Out3 := run ⟨0x07, 3, 0⟩ f s (sleep f)

/-- A TIMED lane whose time has come goes on at the next instruction, from the next core cycle on (R26, R193). -/
def wakeTimed (now : Nat) (x : Lane) : Lane :=
  match x.hold with
  | .timed t next => if x.st = .timed ∧ t ≤ now then x.wake now next else x
  | _ => x

/-- TIMED_EXPIRY (R193). -/
def execTimedExpiry (g lane : Nat) (s : State) : Out3 := .next (s.onLane g lane (wakeTimed s.cycle))

end Sys2Proof.Machine
end

