-- ==== Sys2Proof/Machine/Integer.lean ====
section
/-! DEFINITION. The integer instructions of the vector benches: majors 0x08 to 0x0F, 0x15 and 0x17 (R194 to R203, R206). -/

namespace Sys2Proof.Machine

/-! Element values, as naturals below 2^w -/

/-- Two's-complement value of a `w`-bit pattern, and the pattern of an integer. -/
def toS (w x : Nat) : Int := sextNat w x
def ofS (w : Nat) (z : Int) : Nat := (BitVec.ofInt w z).toNat

/-- Applies an element operation at each element of a packed type, with nothing carried between elements (R194). -/
def elems (t : Ty) (op : Nat → Nat → Nat → Nat) (a b : Nat) : Nat :=
  let at_ (w i : Nat) : Nat := op w (a / 2 ^ (w * i) % 2 ^ w) (b / 2 ^ (w * i) % 2 ^ w) % 2 ^ w * 2 ^ (w * i)
  match t with
  | .i16x2 => at_ 16 0 + at_ 16 1
  | .i8x4 => at_ 8 0 + at_ 8 1 + at_ 8 2 + at_ 8 3
  | _ => op 32 (a % 2 ^ 32) (b % 2 ^ 32) % 2 ^ 32

/-- IARITH FN 0, 1 and 4 to 7 on elements of width w (R195). -/
def iarithOp (fn w a b : Nat) : Nat :=
  match fn with
  | 0 => (a + b) % 2 ^ w
  | 1 => (2 ^ w + a - b) % 2 ^ w
  | 4 => if toS w a ≤ toS w b then a else b
  | 5 => if toS w a ≤ toS w b then b else a
  | 6 => min a b
  | _ => max a b

/-- IARITH SUB 1 on elements of width w (R196). -/
def isatOp (fn w a b : Nat) : Nat :=
  let lo : Int := -(2 ^ (w - 1) : Nat)
  let hi : Int := (2 ^ (w - 1) : Nat) - 1
  match fn with
  | 0 => ofS w (Block.clamp lo hi (toS w a + toS w b))
  | 1 => ofS w (Block.clamp lo hi (toS w a - toS w b))
  | 2 => min (a + b) (2 ^ w - 1)
  | 3 => a - b
  | _ => ofS w (Block.clamp lo hi (toS w a).natAbs)

/-- The type an instruction's TYPE names. -/
def tyOf (f : Fields) : Ty := Ty.ofCode f.ty

/-- Sources A and B and the third source of a lane in a type. -/
def srcA (g : Group) (t : Ty) (f : Fields) (x : Lane) : Nat := srcVal g t x f.a
def srcB (g : Group) (t : Ty) (f : Fields) (x : Lane) : Nat := srcVal g t x f.b
def srcC (g : Group) (t : Ty) (f : Fields) (x : Lane) : Nat := srcVal g t x (third f)

/-- A lane's change by IARITH SUB 0 (R195). IADDC and ISUBB read and write p7. -/
def iarithLane (fn : Nat) (g : Group) (f : Fields) (x : Lane) : Lane :=
  let t := tyOf f
  let a := srcA g t f x
  let b := srcB g t f x
  let c := if x.pred 7 then 1 else 0
  match fn with
  | 2 => (dstVal t f.d ((a + b + c) % 2 ^ 32) x).setPred 7 (2 ^ 32 ≤ a + b + c)
  | 3 => (dstVal t f.d ((2 ^ 33 + a - b - c) % 2 ^ 32) x).setPred 7 (a < b + c)
  | _ => dstVal t f.d (elems t (iarithOp fn) a b) x

/-- A lane's change by IARITH SUB 1 (R196). -/
def isatLane (fn : Nat) (g : Group) (f : Fields) (x : Lane) : Lane :=
  let t := tyOf f
  dstVal t f.d (elems t (isatOp fn) (srcA g t f x) (srcB g t f x)) x

/-- Signed quotient rounded toward zero, and the division corners of R197. -/
def idivOp (a b : Nat) : Nat :=
  if b = 0 then 2 ^ 32 - 1 else ofS 32 ((toS 32 a).tdiv (toS 32 b))
def iremOp (a b : Nat) : Nat := if b = 0 then a else ofS 32 ((toS 32 a).tmod (toS 32 b))
def udivOp (a b : Nat) : Nat := if b = 0 then 2 ^ 32 - 1 else a / b
def uremOp (a b : Nat) : Nat := if b = 0 then a else a % b

/-- IMUL operations on 32-bit values (R197). -/
def imulOp (fn a b c : Nat) : Nat :=
  match fn with
  | 0 => a * b % 2 ^ 32
  | 1 => ofS 64 (toS 32 a * toS 32 b) / 2 ^ 32
  | 2 => a * b / 2 ^ 32
  | 3 => (a * b + c) % 2 ^ 32
  | 4 => idivOp a b
  | 5 => udivOp a b
  | 6 => iremOp a b
  | _ => uremOp a b

def imulLane (fn : Nat) (g : Group) (f : Fields) (x : Lane) : Lane :=
  let t := tyOf f
  dstVal t f.d (imulOp fn (srcA g t f x) (srcB g t f x) (srcC g t f x)) x

/-- Bitwise complement of a word. -/
def not32 (x : Nat) : Nat := 2 ^ 32 - 1 - x % 2 ^ 32

/-- LOGIC operations (R198). -/
def logicOp (fn a b : Nat) : Nat :=
  match fn with
  | 0 => a &&& b
  | 1 => a ||| b
  | 2 => a ^^^ b
  | 3 => a &&& not32 b
  | 4 => a ||| not32 b
  | 5 => not32 (a ^^^ b)
  | 6 => not32 a
  | _ => a

def logicLane (fn : Nat) (g : Group) (f : Fields) (x : Lane) : Lane :=
  let t := tyOf f
  dstVal t f.d (logicOp fn (srcA g t f x) (srcB g t f x)) x

/-- One entry of LOP3's table as a term over whole words: the bits where a, b and c have the index's values (R198). -/
def lop3Term (tab i a b c : Nat) : Nat :=
  let pick (n v : Nat) : Nat := if i.testBit n then v else not32 v
  if tab.testBit i then pick 0 a &&& pick 1 b &&& pick 2 c else 0

/-- LOP3 (R198). -/
def lop3Op (tab a b c : Nat) : Nat := ((List.range 8).map (fun i => lop3Term tab i a b c)).foldl (· ||| ·) 0

def lop3Lane (g : Group) (f : Fields) (x : Lane) : Lane :=
  let t := tyOf f
  dstVal t f.d (lop3Op (f.imm.toNat % 256) (srcA g t f x) (srcB g t f x) (srcC g t f x)) x

/-- Bits `n` − 1 down to 0 of a word reversed. -/
def brev (x : Nat) : Nat → Nat
  | 0 => 0
  | n + 1 => (if x.testBit n then 2 ^ (31 - n) else 0) + brev x n

/-- 1 bits among bits `n` − 1 down to 0. -/
def popc (x : Nat) : Nat → Nat
  | 0 => 0
  | n + 1 => (if x.testBit n then 1 else 0) + popc x n

/-- Zeros above the highest 1 bit, and below the lowest; 32 for zero. -/
def clz (x : Nat) : Nat := if x % 2 ^ 32 = 0 then 32 else 31 - (x % 2 ^ 32).log2
def ctzFrom (x : Nat) : Nat → Nat → Nat
  | 0, _ => 32
  | n + 1, i => if x.testBit i then i else ctzFrom x n (i + 1)
def ctz (x : Nat) : Nat := ctzFrom x 32 0

/-- Rotation left within 32 bits. -/
def rol (a n : Nat) : Nat := (a * 2 ^ (n % 32)) % 2 ^ 32 + a / 2 ^ (32 - n % 32)

/-- SHIFT operations (R199). -/
def shiftOp (fn a n : Nat) : Nat :=
  match fn with
  | 0 => if 32 ≤ n then 0 else a * 2 ^ n % 2 ^ 32
  | 1 => if 32 ≤ n then 0 else a / 2 ^ n
  | 2 => ofS 32 (toS 32 a / (2 ^ min n 31 : Nat))
  | 3 => rol a n
  | 4 => rol a (32 - n % 32)
  | 5 => brev a 32
  | 6 => popc a 32
  | _ => clz a

def shiftLane (fn : Nat) (g : Group) (f : Fields) (x : Lane) : Lane :=
  let t := tyOf f
  dstVal t f.d (shiftOp fn (srcA g t f x) (srcB g t f x)) x

/-- The bit field of BFE, BFES and BFI: its lowest bit and its width w′ (R200). -/
def fieldOf (b : Nat) : Nat × Nat :=
  let lo := b % 64
  let hi := b / 256 % 64
  if 32 ≤ lo ∨ hi < lo then (0, 0) else (lo, min hi 31 - lo + 1)

/-- Byte i of PRMT (R200). -/
def prmtByte (a b c i : Nat) : Nat :=
  let sel := b / 2 ^ (3 * i) % 8
  if b.testBit (12 + i) then 0 else (a + c * 2 ^ 32) / 2 ^ (8 * sel) % 256

/-- BITS operations (R200). -/
def bitsOp (fn a b c : Nat) : Nat :=
  let (lo, w) := fieldOf b
  match fn with
  | 0 => ctz a
  | 1 => a / 2 ^ lo % 2 ^ w
  | 2 => if w = 0 then 0 else ofS 32 (toS w (a / 2 ^ lo))
  | 3 => c - c / 2 ^ lo % 2 ^ w * 2 ^ lo + a % 2 ^ w * 2 ^ lo
  | 4 => (a * 2 + b) % 2 ^ 32
  | 5 => (a * 4 + b) % 2 ^ 32
  | 6 => (a * 8 + b) % 2 ^ 32
  | _ => prmtByte a b c 0 + prmtByte a b c 1 * 2 ^ 8 + prmtByte a b c 2 * 2 ^ 16 + prmtByte a b c 3 * 2 ^ 24

def bitsLane (fn : Nat) (g : Group) (f : Fields) (x : Lane) : Lane :=
  let t := tyOf f
  dstVal t f.d (bitsOp fn (srcA g t f x) (srcB g t f x) (srcC g t f x)) x

/-- A condition on two `w`-bit patterns; `uns` makes LT, LE, GT and GE unsigned (R201). -/
def condHolds (c : Cond) (uns : Bool) (w a b : Nat) : Bool :=
  let x : Int := if uns then a else toS w a
  let y : Int := if uns then b else toS w b
  match c with
  | .eq => a == b
  | .ne => a != b
  | .lt => decide (x < y)
  | .le => decide (x ≤ y)
  | .gt => decide (y < x)
  | .ge => decide (y ≤ x)
  | .ult => decide (a < b)
  | .ule => decide (a ≤ b)

/-- True for the unsigned types un32 and un64. -/
def Ty.isUn : Ty → Bool
  | .un32 => true
  | .un64 => true
  | _ => false

/-- Width of an integer type. -/
def Ty.width (t : Ty) : Nat := if t.isPair then 64 else 32

def icmpLane (c : Cond) (g : Group) (f : Fields) (x : Lane) : Lane :=
  let t := tyOf f
  dstVal t f.d (if condHolds c t.isUn t.width (srcA g t f x) (srcB g t f x) then 1 else 0) x

/-! Majors 0x08 to 0x0C -/

def execIadd (f : Fields) (s : State) : Out3 := runLanes ⟨0x08, 0, 0⟩ f s (fun _ x => iarithLane 0 s.grp f x)
def execIsub (f : Fields) (s : State) : Out3 := runLanes ⟨0x08, 1, 0⟩ f s (fun _ x => iarithLane 1 s.grp f x)
def execIaddc (f : Fields) (s : State) : Out3 := runLanes ⟨0x08, 2, 0⟩ f s (fun _ x => iarithLane 2 s.grp f x)
def execIsubb (f : Fields) (s : State) : Out3 := runLanes ⟨0x08, 3, 0⟩ f s (fun _ x => iarithLane 3 s.grp f x)
def execImin (f : Fields) (s : State) : Out3 := runLanes ⟨0x08, 4, 0⟩ f s (fun _ x => iarithLane 4 s.grp f x)
def execImax (f : Fields) (s : State) : Out3 := runLanes ⟨0x08, 5, 0⟩ f s (fun _ x => iarithLane 5 s.grp f x)
def execUmin (f : Fields) (s : State) : Out3 := runLanes ⟨0x08, 6, 0⟩ f s (fun _ x => iarithLane 6 s.grp f x)
def execUmax (f : Fields) (s : State) : Out3 := runLanes ⟨0x08, 7, 0⟩ f s (fun _ x => iarithLane 7 s.grp f x)
def execIadds (f : Fields) (s : State) : Out3 := runLanes ⟨0x08, 0, 1⟩ f s (fun _ x => isatLane 0 s.grp f x)
def execIsubs (f : Fields) (s : State) : Out3 := runLanes ⟨0x08, 1, 1⟩ f s (fun _ x => isatLane 1 s.grp f x)
def execUadds (f : Fields) (s : State) : Out3 := runLanes ⟨0x08, 2, 1⟩ f s (fun _ x => isatLane 2 s.grp f x)
def execUsubs (f : Fields) (s : State) : Out3 := runLanes ⟨0x08, 3, 1⟩ f s (fun _ x => isatLane 3 s.grp f x)
def execIabs (f : Fields) (s : State) : Out3 := runLanes ⟨0x08, 4, 1⟩ f s (fun _ x => isatLane 4 s.grp f x)

def execImul (f : Fields) (s : State) : Out3 := runLanes ⟨0x09, 0, 0⟩ f s (fun _ x => imulLane 0 s.grp f x)
def execImulh (f : Fields) (s : State) : Out3 := runLanes ⟨0x09, 1, 0⟩ f s (fun _ x => imulLane 1 s.grp f x)
def execUmulh (f : Fields) (s : State) : Out3 := runLanes ⟨0x09, 2, 0⟩ f s (fun _ x => imulLane 2 s.grp f x)
def execImad (f : Fields) (s : State) : Out3 := runLanes ⟨0x09, 3, 0⟩ f s (fun _ x => imulLane 3 s.grp f x)
def execIdiv (f : Fields) (s : State) : Out3 := runLanes ⟨0x09, 4, 0⟩ f s (fun _ x => imulLane 4 s.grp f x)
def execUdiv (f : Fields) (s : State) : Out3 := runLanes ⟨0x09, 5, 0⟩ f s (fun _ x => imulLane 5 s.grp f x)
def execIrem (f : Fields) (s : State) : Out3 := runLanes ⟨0x09, 6, 0⟩ f s (fun _ x => imulLane 6 s.grp f x)
def execUrem (f : Fields) (s : State) : Out3 := runLanes ⟨0x09, 7, 0⟩ f s (fun _ x => imulLane 7 s.grp f x)

def execAnd (f : Fields) (s : State) : Out3 := runLanes ⟨0x0A, 0, 0⟩ f s (fun _ x => logicLane 0 s.grp f x)
def execOr (f : Fields) (s : State) : Out3 := runLanes ⟨0x0A, 1, 0⟩ f s (fun _ x => logicLane 1 s.grp f x)
def execXor (f : Fields) (s : State) : Out3 := runLanes ⟨0x0A, 2, 0⟩ f s (fun _ x => logicLane 2 s.grp f x)
def execAndn (f : Fields) (s : State) : Out3 := runLanes ⟨0x0A, 3, 0⟩ f s (fun _ x => logicLane 3 s.grp f x)
def execOrn (f : Fields) (s : State) : Out3 := runLanes ⟨0x0A, 4, 0⟩ f s (fun _ x => logicLane 4 s.grp f x)
def execXnor (f : Fields) (s : State) : Out3 := runLanes ⟨0x0A, 5, 0⟩ f s (fun _ x => logicLane 5 s.grp f x)
def execNot (f : Fields) (s : State) : Out3 := runLanes ⟨0x0A, 6, 0⟩ f s (fun _ x => logicLane 6 s.grp f x)
def execMov (f : Fields) (s : State) : Out3 := runLanes ⟨0x0A, 7, 0⟩ f s (fun _ x => logicLane 7 s.grp f x)
def execLop3 (f : Fields) (s : State) : Out3 := runLanes ⟨0x0A, 0, 1⟩ f s (fun _ x => lop3Lane s.grp f x)

def execShl (f : Fields) (s : State) : Out3 := runLanes ⟨0x0B, 0, 0⟩ f s (fun _ x => shiftLane 0 s.grp f x)
def execShr (f : Fields) (s : State) : Out3 := runLanes ⟨0x0B, 1, 0⟩ f s (fun _ x => shiftLane 1 s.grp f x)
def execSar (f : Fields) (s : State) : Out3 := runLanes ⟨0x0B, 2, 0⟩ f s (fun _ x => shiftLane 2 s.grp f x)
def execRol (f : Fields) (s : State) : Out3 := runLanes ⟨0x0B, 3, 0⟩ f s (fun _ x => shiftLane 3 s.grp f x)
def execRor (f : Fields) (s : State) : Out3 := runLanes ⟨0x0B, 4, 0⟩ f s (fun _ x => shiftLane 4 s.grp f x)
def execBrev (f : Fields) (s : State) : Out3 := runLanes ⟨0x0B, 5, 0⟩ f s (fun _ x => shiftLane 5 s.grp f x)
def execPopc (f : Fields) (s : State) : Out3 := runLanes ⟨0x0B, 6, 0⟩ f s (fun _ x => shiftLane 6 s.grp f x)
def execClz (f : Fields) (s : State) : Out3 := runLanes ⟨0x0B, 7, 0⟩ f s (fun _ x => shiftLane 7 s.grp f x)

def execCtz (f : Fields) (s : State) : Out3 := runLanes ⟨0x0C, 0, 0⟩ f s (fun _ x => bitsLane 0 s.grp f x)
def execBfe (f : Fields) (s : State) : Out3 := runLanes ⟨0x0C, 1, 0⟩ f s (fun _ x => bitsLane 1 s.grp f x)
def execBfes (f : Fields) (s : State) : Out3 := runLanes ⟨0x0C, 2, 0⟩ f s (fun _ x => bitsLane 2 s.grp f x)
def execBfi (f : Fields) (s : State) : Out3 := runLanes ⟨0x0C, 3, 0⟩ f s (fun _ x => bitsLane 3 s.grp f x)
def execLea1 (f : Fields) (s : State) : Out3 := runLanes ⟨0x0C, 4, 0⟩ f s (fun _ x => bitsLane 4 s.grp f x)
def execLea2 (f : Fields) (s : State) : Out3 := runLanes ⟨0x0C, 5, 0⟩ f s (fun _ x => bitsLane 5 s.grp f x)
def execLea3 (f : Fields) (s : State) : Out3 := runLanes ⟨0x0C, 6, 0⟩ f s (fun _ x => bitsLane 6 s.grp f x)
def execPrmt (f : Fields) (s : State) : Out3 := runLanes ⟨0x0C, 7, 0⟩ f s (fun _ x => bitsLane 7 s.grp f x)

/-! Comparisons and predicates -/

/-- ICMP (R201). -/
def execIcmp (c : Cond) (f : Fields) (s : State) : Out3 :=
  runLanes ⟨0x0D, Enc.condFn c, 0⟩ f s (fun _ x => icmpLane c s.grp f x)

/-- SEL (R202): every lane of the bundle writes, and G and GN select. -/
def execSel (f : Fields) (s : State) : Out3 :=
  let t := tyOf f
  let pick (x : Lane) : Nat := if guardOf f.gd x then srcA s.grp t f x else srcB s.grp t f x
  run ⟨0x0E, 0, 0⟩ f s (fun s => s.onLanes (fun l x =>
    if s.inBundle l then { (dstVal t f.d (pick x) x) with pc := x.pc + BitVec.ofNat 64 f.form.len } else x))

/-- The predicate a predicate operand names; a literal in its place supplies its bit 0 (R167, log 48). -/
def prdVal (x : Lane) (o : Operand) : Bool :=
  match o with
  | .prd n => x.pred n.toNat
  | .lit v => v.getLsbD 0
  | _ => false

/-- Writes predicate D of a lane (R202). -/
def predLane (f : Fields) (op : Bool → Bool → Bool) (x : Lane) : Lane :=
  dstVal .i32 f.d (if op (prdVal x f.a) (prdVal x f.b) then 1 else 0) x

def execPand (f : Fields) (s : State) : Out3 := runLanes ⟨0x0E, 1, 0⟩ f s (fun _ x => predLane f (fun a b => a && b) x)
def execPor (f : Fields) (s : State) : Out3 := runLanes ⟨0x0E, 2, 0⟩ f s (fun _ x => predLane f (fun a b => a || b) x)
def execPxor (f : Fields) (s : State) : Out3 := runLanes ⟨0x0E, 3, 0⟩ f s (fun _ x => predLane f (fun a b => xor a b) x)
def execPandn (f : Fields) (s : State) : Out3 := runLanes ⟨0x0E, 4, 0⟩ f s (fun _ x => predLane f (fun a b => a && !b) x)

/-- PSET (R202). -/
def execPset (f : Fields) (s : State) : Out3 :=
  runLanes ⟨0x0E, 5, 0⟩ f s (fun _ x => dstVal .i32 f.d (srcVal s.grp .i32 x f.a) x)

/-- P2V (R202): bit n is predicate n, and bit 0 is 1. -/
def execP2v (f : Fields) (s : State) : Out3 :=
  runLanes ⟨0x0E, 6, 0⟩ f s (fun _ x => dstVal .i32 f.d ((x.preds ||| 1).toNat) x)

/-- V2P (R202): predicates 1 to 15 chosen by B take the bits of A. -/
def execV2p (f : Fields) (s : State) : Out3 :=
  runLanes ⟨0x0E, 7, 0⟩ f s (fun _ x =>
    let a : BitVec 16 := BitVec.ofNat 16 (srcVal s.grp .i32 x f.a)
    let b : BitVec 16 := BitVec.ofNat 16 (srcVal s.grp .i32 x f.b) &&& ~~~1
    { x with preds := (x.preds &&& ~~~b) ||| (a &&& b) })

/-! Sixty-four-bit integers (R203) -/

/-- I64 operations on a 64-bit A, or the low word of A for IMULW and UMULW, and a B of 64 or 32 bits (R203). -/
def i64Op (fn a b : Nat) : Nat :=
  match fn with
  | 0 => (a + b) % 2 ^ 64
  | 1 => (2 ^ 64 + a - b) % 2 ^ 64
  | 2 => if 64 ≤ b then 0 else a * 2 ^ b % 2 ^ 64
  | 3 => if 64 ≤ b then 0 else a / 2 ^ b
  | 4 => ofS 64 (toS 64 a / (2 ^ min b 63 : Nat))
  | 5 => ofS 64 (toS 32 a * toS 32 b)
  | 6 => a * b
  | _ => a

/-- The types of A and B of an I64 operation. -/
def i64Lane (fn : Nat) (ta tb : Ty) (g : Group) (f : Fields) (x : Lane) : Lane :=
  dstVal .i64 f.d (i64Op fn (srcVal g ta x f.a) (srcVal g tb x f.b)) x

def execIadd64 (f : Fields) (s : State) : Out3 := runLanes ⟨0x0F, 0, 0⟩ f s (fun _ x => i64Lane 0 .i64 .i64 s.grp f x)
def execIsub64 (f : Fields) (s : State) : Out3 := runLanes ⟨0x0F, 1, 0⟩ f s (fun _ x => i64Lane 1 .i64 .i64 s.grp f x)
def execShl64 (f : Fields) (s : State) : Out3 := runLanes ⟨0x0F, 2, 0⟩ f s (fun _ x => i64Lane 2 .i64 .i32 s.grp f x)
def execShr64 (f : Fields) (s : State) : Out3 := runLanes ⟨0x0F, 3, 0⟩ f s (fun _ x => i64Lane 3 .i64 .i32 s.grp f x)
def execSar64 (f : Fields) (s : State) : Out3 := runLanes ⟨0x0F, 4, 0⟩ f s (fun _ x => i64Lane 4 .i64 .i32 s.grp f x)
def execImulw (f : Fields) (s : State) : Out3 := runLanes ⟨0x0F, 5, 0⟩ f s (fun _ x => i64Lane 5 .i32 .i32 s.grp f x)
def execUmulw (f : Fields) (s : State) : Out3 := runLanes ⟨0x0F, 6, 0⟩ f s (fun _ x => i64Lane 6 .i32 .i32 s.grp f x)
def execMov64 (f : Fields) (s : State) : Out3 := runLanes ⟨0x0F, 7, 0⟩ f s (fun _ x => i64Lane 7 .i64 .i64 s.grp f x)

/-! Immediates (R206) -/

/-- Operand B of MOVI and IADDI: the literal or the constant in B11, else the immediate, read as an integer. -/
def immB32 (g : Group) (t : Ty) (f : Fields) (x : Lane) : Nat :=
  match f.b with
  | .none => (BitVec.ofInt t.width (immVal f)).toNat
  | o => srcVal g t x o

def execMovi (f : Fields) (s : State) : Out3 :=
  runLanes ⟨0x15, 0, 0⟩ f s (fun _ x => dstVal (tyOf f) f.d (immB32 s.grp (tyOf f) f x) x)

def execIaddi (f : Fields) (s : State) : Out3 :=
  runLanes ⟨0x17, 0, 0⟩ f s (fun _ x =>
    dstVal (tyOf f) f.d ((srcA s.grp (tyOf f) f x + immB32 s.grp (tyOf f) f x) % 2 ^ 32) x)

end Sys2Proof.Machine
end

