-- ==== Sys2Proof/Machine/Scalar.lean ====
section
/-! DEFINITION. The scalar unit: majors 0x10 to 0x12, 0x16 and 0x18, V2S and S2V (R186, R204 to R206). -/

namespace Sys2Proof.Machine

/-- SALU and SALU2 operations on 64-bit values; `fn` counts on from SALU into SALU2 (R204, Table 12). -/
def saluOp (fn : Nat) (a b : DWord) : DWord :=
  match fn with
  | 0 => a + b
  | 1 => a - b
  | 2 => a * b
  | 3 => a &&& b
  | 4 => a ||| b
  | 5 => a ^^^ b
  | 6 => if 64 ≤ b.toNat then 0 else a <<< b.toNat
  | 7 => if 64 ≤ b.toNat then 0 else a >>> b.toNat
  | 8 => a.sshiftRight (min b.toNat 63)
  | 9 => if a.toInt ≤ b.toInt then a else b
  | 10 => if a.toInt ≤ b.toInt then b else a
  | 11 => if a.toNat ≤ b.toNat then a else b
  | 12 => if a.toNat ≤ b.toNat then b else a
  | _ => a

/-- Writes the scalar a destination names. -/
def State.putScl (s : State) (o : Operand) (x : DWord) : State :=
  match o with
  | .scl n => s.setScl n.toNat x
  | _ => s

/-- A SALU or SALU2 instruction. -/
def salu (k : Key) (fn : Nat) (f : Fields) (s : State) : Out3 :=
  runScalar k f s (fun s _ => s.putScl f.d (saluOp fn (sclVal s.grp f.a) (sclVal s.grp f.b)))

def execSadd (f : Fields) (s : State) : Out3 := salu ⟨0x10, 0, 0⟩ 0 f s
def execSsub (f : Fields) (s : State) : Out3 := salu ⟨0x10, 1, 0⟩ 1 f s
def execSmul (f : Fields) (s : State) : Out3 := salu ⟨0x10, 2, 0⟩ 2 f s
def execSand (f : Fields) (s : State) : Out3 := salu ⟨0x10, 3, 0⟩ 3 f s
def execSor (f : Fields) (s : State) : Out3 := salu ⟨0x10, 4, 0⟩ 4 f s
def execSxor (f : Fields) (s : State) : Out3 := salu ⟨0x10, 5, 0⟩ 5 f s
def execSshl (f : Fields) (s : State) : Out3 := salu ⟨0x10, 6, 0⟩ 6 f s
def execSshr (f : Fields) (s : State) : Out3 := salu ⟨0x10, 7, 0⟩ 7 f s
def execSsar (f : Fields) (s : State) : Out3 := salu ⟨0x11, 0, 0⟩ 8 f s
def execSmin (f : Fields) (s : State) : Out3 := salu ⟨0x11, 1, 0⟩ 9 f s
def execSmax (f : Fields) (s : State) : Out3 := salu ⟨0x11, 2, 0⟩ 10 f s
def execSminu (f : Fields) (s : State) : Out3 := salu ⟨0x11, 3, 0⟩ 11 f s
def execSmaxu (f : Fields) (s : State) : Out3 := salu ⟨0x11, 4, 0⟩ 12 f s
def execSmov (f : Fields) (s : State) : Out3 := salu ⟨0x11, 5, 0⟩ 13 f s

/-- V2S (R204): the elected lane's register, zero-extended. -/
def execV2s (f : Fields) (s : State) : Out3 :=
  runScalar ⟨0x11, 6, 0⟩ f s (fun s e => s.putScl f.d (BitVec.ofNat 64 (srcVal s.grp .i32 e.2 f.a)))

/-- S2V (R204): each guard-true lane's register takes the low word, or a pair all 64 bits. -/
def execS2v (f : Fields) (s : State) : Out3 :=
  runLanes ⟨0x11, 7, 0⟩ f s (fun _ x => dstVal (tyOf f) f.d (sclVal s.grp f.a).toNat x)

/-- SCMP (R205): one comparison, written to predicate D of every guard-true lane. -/
def execScmp (c : Cond) (f : Fields) (s : State) : Out3 :=
  runLanes ⟨0x12, Enc.condFn c, 0⟩ f s (fun _ x =>
    dstVal .i32 f.d (if condHolds c false 64 (sclVal s.grp f.a).toNat (sclVal s.grp f.b).toNat then 1 else 0) x)

/-- Operand B of SMOVI and SADDI: the literal or the code in B11, else the immediate (R206). -/
def immB64 (g : Group) (f : Fields) : DWord :=
  match f.b with
  | .none => BitVec.ofInt 64 (immVal f)
  | o => sclVal g o

def execSmovi (f : Fields) (s : State) : Out3 :=
  runScalar ⟨0x16, 0, 0⟩ f s (fun s _ => s.putScl f.d (immB64 s.grp f))

def execSaddi (f : Fields) (s : State) : Out3 :=
  runScalar ⟨0x18, 0, 0⟩ f s (fun s _ => s.putScl f.d (sclVal s.grp f.a + immB64 s.grp f))

end Sys2Proof.Machine
end

