-- ==== Sys2Proof/Machine/Special.lean ====
section
/-! DEFINITION. The special registers (R207, R356), GETS and SETS (R208, R209), and registers named at run time (R210). -/

namespace Sys2Proof.Machine

/-- A group counter: the operations of its class that have not retired (R81). -/
def Group.counter (g : Group) (cls : Nat) : Nat := (g.ops.filter (fun o => o.cls == cls)).length

/-- A 32-bit dimension of a launch record plus 1 (R343). -/
def Grid.dim (g : Grid) (i : Nat) : Nat := bitsOf g.record (64 + 32 * i) 32 + 1

/-- VA of a team's save area, or of its second half in an assay context (R355, R356). -/
def saveArea (c : Ctx) (g : Grid) (t : Team) : DWord :=
  let stride := bitsOf c.desc 704 32
  c.desc.extractLsb' 640 64 + BitVec.ofNat 64 (t.teamlin * stride + (if bitAt g.record 192 then stride / 2 else 0))

/-- A special register as lane `l` sees it (R207, Table 14; R356, Table 2). -/
def readSpecial (s : State) (l : Nat) (x : Lane) (n : Nat) : DWord :=
  let g := s.grp
  let t := s.myTeam
  let d := s.gridOf t
  let nat (k : Nat) : DWord := BitVec.ofNat 64 k
  if 0x020 ≤ n ∧ n ≤ 0x027 then sget 0 g.sseed (n - 0x020)
  else if 0x808 ≤ n ∧ n ≤ 0x80F then sget 0 g.pscr (n - 0x808)
  else
  match n with
  | 0x000 => nat l
  | 0x001 => nat g.width
  | 0x002 => nat g.gid
  | 0x003 => nat t.tx
  | 0x004 => nat t.ty
  | 0x005 => nat t.tz
  | 0x006 => nat t.teamlin
  | 0x007 => nat t.clrank
  | 0x008 => nat t.clsize
  | 0x009 => nat (d.dim 0)
  | 0x00A => nat (d.dim 1)
  | 0x00B => nat (d.dim 2)
  | 0x00C => nat (s.coreOf g)
  | 0x00D => nat (s.coreOf g / 4)
  | 0x00E => nat (s.dieOf g)
  | 0x010 => nat s.now
  | 0x011 => nat (s.cycle - (s.die (s.dieOf g)).cycle0)
  | 0x012 => nat g.wct
  | 0x013 => g.fmode
  | 0x014 => x.fflags.setWidth 64
  | 0x015 => g.jointo
  | 0x016 => nat d.rqtag
  | 0x017 => s.bundle.lanes.setWidth 64
  | 0x018 => (s.bundle.lanes >>> 64).setWidth 64
  | 0x019 => nat g.vcount
  | 0x01A => nat (g.counter 0)
  | 0x01B => nat (g.counter 1)
  | 0x01C => nat (g.counter 2)
  | 0x01D => nat (g.counter 3)
  | 0x030 => g.trapen
  | 0x031 => g.trapv
  | 0x032 => g.tpc
  | 0x033 => g.tfpc
  | 0x034 => g.tmask
  | 0x035 => g.tmaskhi
  | 0x036 => g.tcause
  | 0x037 => g.tdst
  | 0x040 => (s.core (s.unitOf g)).pfdrop
  | 0x800 => x.prpc
  | 0x801 => x.prstate
  | 0x802 => g.pcause
  | 0x803 => g.ctxrec
  | 0x804 => (s.ctx d.asid).va
  | 0x805 => saveArea (s.ctx d.asid) d t
  | 0x806 => if g.utrap then 1 else 0
  | 0x807 => x.prheld
  | _ => 0

/-- GETS (R208). -/
def execGets (f : Fields) (s : State) : Out3 :=
  let n := f.imm.toNat
  let k : Key := ⟨0x13, 0, 0⟩
  match f.d with
  | .scl r => runScalar k f s (fun s e => s.setScl r.toNat (readSpecial s e.1 e.2 n))
  | _ => runLanes k f s (fun l x =>
      let v := readSpecial s l x n
      dstVal (tyOf f) f.d (if Enc.numOf f.c = 1 then v.toNat / 2 ^ 32 else v.toNat) x)

/-- The bits of a special register that hold fields; the rest read as zero (R4). -/
def specialMask (n : Nat) : DWord :=
  match n with
  | 0x013 => 0xF
  | 0x014 => 0x1F
  | 0x015 => 0xFFFF
  | 0x030 => 0x1F
  | 0x032 => ~~~3
  | 0x800 => ~~~3
  | 0x036 => 0xFDFF
  | 0x037 => 0x87FF87FF
  | 0x801 => 0x1F
  | 0x806 => 1
  | 0x807 => 0xFFFF007FFFFFFFFF
  | _ => ~~~0

/-- True for a register of lane scope that SETS may write. -/
def laneSpecial (n : Nat) : Bool := n == 0x014 || n == 0x800 || n == 0x801 || n == 0x807

/-- Writes a lane-scope register. -/
def setLaneSpecial (n : Nat) (v : DWord) (x : Lane) : Lane :=
  match n with
  | 0x014 => { x with fflags := v.setWidth 5 }
  | 0x800 => { x with prpc := v }
  | 0x801 => { x with prstate := v }
  | _ => { x with prheld := v }

/-- Writes a group-scope register. -/
def setGroupSpecial (n : Nat) (v : DWord) (g : Group) : Group :=
  if 0x020 ≤ n ∧ n ≤ 0x027 then { g with sseed := sput 0 g.sseed (n - 0x020) v }
  else if 0x808 ≤ n ∧ n ≤ 0x80F then { g with pscr := sput 0 g.pscr (n - 0x808) v }
  else
  match n with
  | 0x012 => { g with wct := v.toNat }
  | 0x013 => { g with fmode := v }
  | 0x015 => { g with jointo := v }
  | 0x030 => { g with trapen := v }
  | 0x031 => { g with trapv := v }
  | 0x032 => { g with tpc := v }
  | 0x033 => { g with tfpc := v }
  | 0x034 => { g with tmask := v }
  | 0x035 => { g with tmaskhi := v }
  | 0x036 => { g with tcause := v }
  | 0x037 => { g with tdst := v }
  | 0x803 => { g with ctxrec := v }
  | 0x806 => { g with utrap := bitAt v 0 }
  | _ => g

/-- The source of SETS: A in the base form, B in the extended form. -/
def setsSrc (f : Fields) : Operand := if f.form.isExt then f.b else f.a

/-- True for a 64-bit source: a scalar, the literal, or a pair; a predicate and a constant are 32-bit sources under any TYPE (R209). -/
def setsWide (f : Fields) : Bool :=
  match setsSrc f with
  | .scl _ => true
  | .lit _ => true
  | .vec _ => isPair f
  | _ => false
where
  isPair (f : Fields) : Bool := Enc.isPairTy f.ty

/-- The value SETS gives a register that holds `old`, from lane `x` (R209). -/
def setsVal (g : Group) (f : Fields) (n : Nat) (old : DWord) (x : Lane) : DWord :=
  let v := match setsSrc f with
    | .scl r => g.scl r.toNat
    | .lit v => v
    | o => BitVec.ofNat 64 (srcVal g (tyOf f) x o)
  let w : DWord :=
    if setsWide f then v
    else if Enc.numOf f.c = 1 then (v.setWidth 32) ++ (old.setWidth 32)
    else (old.extractLsb' 32 32) ++ (v.setWidth 32)
  w &&& specialMask n

/-- True for a register that user mode reads only and privileged mode may write, and for one no mode may write (R356). -/
def userReadOnly (n : Nat) : Bool := n == 0x012 || (0x033 ≤ n && n ≤ 0x037)
def alwaysReadOnly (n : Nat) : Bool := n == 0x802 || n == 0x804 || n == 0x805

/-- SETS (R209). Writing a register that is read-only raises ILLEGAL at step 2 of R182, before PRIV. -/
def execSets (f : Fields) (s : State) : Out3 :=
  let n := f.imm.toNat
  let k : Key := ⟨0x14, 0, 0⟩
  if ((userReadOnly n && !s.privileged) || alwaysReadOnly n) && s.grp.method.isNone then .next (raise .illegal s)
  else if laneSpecial n then
    runLanes k f s (fun l x => setLaneSpecial n (setsVal s.grp f n (readSpecial s l x n) x) x)
  else
    runScalar k f s (fun s e => { s with grp := setGroupSpecial n (setsVal s.grp f n (readSpecial s e.1 e.2 n) e.2) s.grp })

/-! RIDX (R210) -/

/-- The operand code RGET and RSET compute. -/
def ridxCode (f : Fields) (s : State) : Nat := ((sclVal s.grp f.a).toNat % 2 ^ 16 + f.imm.toNat) % 2 ^ 16

/-- The checks of R210 in order. -/
def ridxFault (f : Fields) (s : State) : Option Cause :=
  let k := ridxCode f s
  if 0x64F < k then some .regrange
  else if k < 0x600 ∧ s.grp.vcount ≤ k then some .regrange
  else if Enc.isPairTy f.ty ∧ (0x600 ≤ k ∨ k % 2 = 1) then some .illegal
  else none

/-- The operand a computed code names. -/
def ridxOperand (k : Nat) : Operand :=
  if k < 0x600 then .vec (BitVec.ofNat 11 k) else if k < 0x640 then .scl (BitVec.ofNat 6 k) else .prd (BitVec.ofNat 4 k)

/-- RGET or RSET: the checks of R210 and of the register the code names, over a bundle with a guard-true lane, then the effect. -/
def ridx (fn : BitVec 3) (f : Fields) (s : State) (body : Nat → State → State) : Out3 :=
  run ⟨0x3A, fn, 0⟩ f s (fun s =>
    if s.anyActive f.gd then
      match ridxFault f s with
      | some c => raise c s
      | none =>
        let k := ridxCode f s
        match markedFault f.gd [(k, if Enc.isPairTy f.ty then 2 else 1)] s with
        | some i => raiseWith i s
        | none => body k s
    else s.advance f.form.len)

/-- RGET (R210): each guard-true lane's destination takes the register's value. -/
def execRget (f : Fields) (s : State) : Out3 :=
  ridx 0 f s (fun k s => s.lanewise f (fun _ x => dstVal (tyOf f) f.d (srcVal s.grp (tyOf f) x (ridxOperand k)) x))

/-- RSET (R210): a vector or predicate per guard-true lane, a scalar once. -/
def execRset (f : Fields) (s : State) : Out3 :=
  ridx 1 f s (fun k s =>
    match ridxOperand k with
    | .scl r => match s.elect f.gd with
      | some e => (s.setScl r.toNat (BitVec.ofNat 64 (srcVal s.grp (tyOf f) e.2 f.b))).advance f.form.len
      | none => s.advance f.form.len
    | o => s.lanewise f (fun _ x => dstVal (tyOf f) o (srcVal s.grp (tyOf f) x f.b) x))

end Sys2Proof.Machine
end

