-- ==== Sys2Proof/Machine/Sync.lean ====
section
/-! DEFINITION. WAIT, fences, barriers and rings (R256 to R261). -/

namespace Sys2Proof.Machine

/-! WAIT (R256) -/

/-- WAIT: the guard-true lanes are COUNTING until the counters meet the thresholds (R81, R256). -/
def waitCounters (f : Fields) (s : State) : State :=
  let t (o : Operand) : BitVec 6 := BitVec.ofNat 6 (numOf o)
  let g := s.grp
  let c (k : Nat) : Nat := g.counter k
  let ok := under (c 0) (t f.d) && under (c 1) (t f.a) && under (c 2) (t f.b) && under (c 3) (t f.c)
  s.onLanes (fun l x =>
    if s.inBundle l then
      let next := x.pc + BitVec.ofNat 64 f.form.len
      if guardOf f.gd x && !ok then { x with st := .counting, hold := .wait (t f.d) (t f.a) (t f.b) (t f.c) next } else { x with pc := next }
    else x)

/-- POISON of a task or port that touched poison on the group's behalf: the first entry that satisfies `p` is raised and leaves (R382). -/
def hurtOr (p : Nat → Bool) (s : State) (body : State → State) : State :=
  match s.grp.hurt.find? (fun e => p e.1) with
  | some e =>
    let s1 := raiseWith { cause := .poison, addr := e.2 } s
    { s1 with grp := { s1.grp with hurt := s1.grp.hurt.erase e } }
  | none => body s

/-- WAIT (R256); a WAIT on `CNTTL` after a poisoned task raises POISON (R382). -/
def execWait (f : Fields) (s : State) : Out3 :=
  run ⟨0x2C, 0, 0⟩ f s (fun s =>
    if s.anyActive f.gd && numOf f.c != 63 then hurtOr (fun c => decide (c < 64)) s (waitCounters f) else waitCounters f s)

/-! Fences (R257 to R259) -/

/-- B [1:0] of a fence. -/
def fenceScope (f : Fields) : BitVec 2 := BitVec.ofNat 2 (numOf f.b)

/-- A fence acts when some lane has a true guard; the other lanes advance at once (R257). -/
def fence (f : Fields) (s : State) (h : QWord → State → State) : State :=
  if s.anyActive f.gd then h (s.activeMask f.gd) (s.passFalse f) else s.advance f.form.len

/-- FENCE REL (R257). -/
def execFenceRel (f : Fields) (s : State) : Out3 :=
  run ⟨0x2D, 0, 0⟩ f s (fun s => fence f s (fun m t => t.release (fenceScope f) m f.form.len (.fence false)))

/-- FENCE ACQ (R257): the acquire point of the acting lanes. -/
def execFenceAcq (f : Fields) (s : State) : Out3 :=
  run ⟨0x2D, 1, 0⟩ f s (fun s =>
    if s.anyActive f.gd then (s.advance f.form.len).acquire s.grp.uid (fun l => (s.activeMask f.gd).getLsbD l) else s.advance f.form.len)

/-- FENCE FULL (R257): the release, then the acquire point. -/
def execFenceFull (f : Fields) (s : State) : Out3 :=
  run ⟨0x2D, 2, 0⟩ f s (fun s => fence f s (fun m t => t.release (fenceScope f) m f.form.len (.fence true)))

/-- PROMOTE (R78, R258): a request to the core the victim team last occupied, or straight to the wait for WCT when there is no such team. -/
def promote (f : Fields) (m : QWord) (s : State) : State :=
  let lin := (sclVal s.grp f.a).toNat % 2 ^ 32
  let core := sget 0 s.myGrid.places lin
  let r : Rel :=
    { id := s.nextId, lanes := m, pc := s.bundle.pc, next := s.bundle.pc + BitVec.ofNat 64 f.form.len, scope := 2,
      stage := if core = 0 then 2 else 3, waits := if core = 0 then [] else [core - 1], timed := true, cont := .promote }
  s.holdRel m r

/-- FENCE PROMOTE (R258). -/
def execFencePromote (f : Fields) (s : State) : Out3 := run ⟨0x2D, 3, 0⟩ f s (fun s => fence f s (promote f))

/-- CFLUSH (R259): every dirty byte and partial of the core goes home; after the acknowledgements the clean copies are dropped. -/
def cflush (f : Fields) (m : QWord) (s : State) : State :=
  let core := s.unitOf s.grp
  let s1 := s.flushCore core
  let new := (s1.reqs.filter (fun r => decide (s.nextId ≤ r.id))).map (fun r => r.id)
  s1.holdRel m
    { id := s1.nextId, lanes := m, pc := s.bundle.pc, next := s.bundle.pc + BitVec.ofNat 64 f.form.len, scope := 2, stage := 1,
      waits := new, timed := false, cont := .cflush }

/-- FENCE CFLUSH (R259). -/
def execFenceCflush (f : Fields) (s : State) : Out3 := run ⟨0x2D, 4, 0⟩ f s (fun s => fence f s (cflush f))

/-! Barriers (R260) -/

/-- The barrier code. -/
def barCode (f : Fields) : Nat := numOf f.b % 64

/-- Arrivals of each lane: IMM16 [11:0] of ARRIVE and SYNC, 0 meaning 1. -/
def barWeight (f : Fields) : Nat := if f.imm.toNat % 4096 = 0 then 1 else f.imm.toNat % 4096

/-- A BAR operation on a bundle with a guard-true lane, after the check of its allotment (R45). -/
def barOp (fn : BitVec 3) (f : Fields) (s : State) (h : State → State) : Out3 :=
  run ⟨0x2E, fn, 0⟩ f s (fun s =>
    if !s.anyActive f.gd then s.advance f.form.len
    else if barBeyond s.myTeam (barCode f) then raise .bufrange s
    else if fn = 1 ∨ fn = 2 then hurtOr (fun c => c == barCode f && c != 63) s h
    else h s)

/-- The scope of an arrival's release: team, or cluster for a cluster barrier (R80). -/
def barScope (f : Fields) : BitVec 2 := if barCode f < 48 then 0 else 1

/-- BAR ARRIVE (R260). -/
def execBarArrive (f : Fields) (s : State) : Out3 :=
  barOp 0 f s (fun s => (s.passFalse f).release (barScope f) (s.activeMask f.gd) f.form.len
    (.arrive (barCode f) (barWeight f) (some (vecNum f.d)) false))

/-- BAR WAIT (R260). -/
def execBarWait (f : Fields) (s : State) : Out3 :=
  barOp 1 f s (fun s =>
    let toks := (s.actives f.gd).map (fun p => (p.1, bitAt (BitVec.ofNat 32 (srcVal s.grp .un32 p.2 f.a)) 0))
    waitAll s.grp.uid s.myTeam (barCode f) (s.bundle.pc + BitVec.ofNat 64 f.form.len) toks (s.passFalse f))

/-- BAR SYNC (R260): ARRIVE, then WAIT with each lane's own token. -/
def execBarSync (f : Fields) (s : State) : Out3 :=
  barOp 2 f s (fun s => (s.passFalse f).release (barScope f) (s.activeMask f.gd) f.form.len
    (.arrive (barCode f) (barWeight f) none true))

/-- BAR INIT (R260). -/
def execBarInit (f : Fields) (s : State) : Out3 :=
  barOp 3 f s (fun s =>
    let a : BitVec 12 := (sclVal s.grp f.a).setWidth 12
    (s.onBar s.myTeam (barCode f) (fun b => { b with expect := a, pending := a })).advance f.form.len)

/-- BAR EXPECT (R260). -/
def execBarExpect (f : Fields) (s : State) : Out3 :=
  barOp 4 f s (fun s => (s.onBar s.myTeam (barCode f) (fun b => { b with expect := (sclVal s.grp f.a).setWidth 12 })).advance f.form.len)

/-- True in a lane whose token's phase has ended (R260 TEST). -/
def tested (s : State) (f : Fields) (x : Lane) : Bool :=
  (s.bar s.myTeam (barCode f)).phase != bitAt (BitVec.ofNat 32 (srcVal s.grp .un32 x f.a)) 0

/-- BAR TEST (R260): a lane that tests true is at an acquire point. -/
def execBarTest (f : Fields) (s : State) : Out3 :=
  barOp 5 f s (fun s =>
    let hit (l : Nat) : Bool := s.active f.gd l (s.laneAt l) && tested s f (s.laneAt l)
    (s.lanewise f (fun _ x => dstVal .i32 f.d (if tested s f x then 1 else 0) x)).acquire s.grp.uid hit)

/-! Rings (R261) -/

/-- The ring number. -/
def ringNum (f : Fields) : Nat := numOf f.b % 16

/-- The scalar a field names. -/
def sclNum (o : Operand) : Nat :=
  match o with
  | .scl n => n.toNat
  | _ => 0

/-- A RING operation: once per bundle with a guard-true lane, after the check of its allotment (R45, R261). -/
def ringOp (fn : BitVec 3) (f : Fields) (s : State) (h : Ring → State → State) : Out3 :=
  run ⟨0x2F, fn, 0⟩ f s (fun s =>
    if !s.anyActive f.gd then s.advance f.form.len
    else if s.myTeam.rings.length ≤ ringNum f then raise .bufrange s
    else h (s.myTeam.ring (ringNum f)) s)

/-- ACQ or PUT (R261): the next slot at once when one is there and no earlier acquirer of the role waits; otherwise the guard-true lanes are
in RING. -/
def ringTake (reader : Bool) (f : Fields) (r : Ring) (s : State) : State :=
  let n := ringNum f
  let m := s.activeMask f.gd
  match (if r.waits.any (fun w => w.reader == reader) then none else r.take reader) with
  | some (k, r1) =>
    let s1 := ((s.onRing s.myTeam.uid n (fun _ => r1.heldBy k s.grp.uid)).setScl (sclNum f.d) ((r.slotAddr k).setWidth 64)).advance f.form.len
    if reader then s1.acquire s.grp.uid (fun l => m.getLsbD l) else s1
  | none =>
    let w : RingWait := { reader := reader, gid := s.grp.uid, lanes := m, sd := sclNum f.d, copy := 0 }
    let next := s.bundle.pc + BitVec.ofNat 64 f.form.len
    ((s.passFalse f).onRing s.myTeam.uid n (fun r => { r with waits := r.waits ++ [w] })).onLanes (fun l x =>
      if m.getLsbD l then { x with st := .ring, hold := .ring next } else x)

/-- RING ACQ (R261). -/
def execRingAcq (f : Fields) (s : State) : Out3 := ringOp 0 f s (ringTake true f)

/-- RING PUT (R261). -/
def execRingPut (f : Fields) (s : State) : Out3 := ringOp 2 f s (ringTake false f)

/-- RING REL (R261). -/
def execRingRel (f : Fields) (s : State) : Out3 :=
  ringOp 1 f s (fun r s =>
    match (r.heldAt true ((sclVal s.grp f.a).setWidth 32)).bind (r.give true) with
    | some r1 => (s.onRing s.myTeam.uid (ringNum f) (fun _ => r1)).advance f.form.len
    | none => raise .bufrange s)

/-- RING PUB (R261): the slot must be held by a writer; the team-scope release comes first, and in an assay context the match of its shadow (R266). -/
def execRingPub (f : Fields) (s : State) : Out3 :=
  ringOp 3 f s (fun r s =>
    let a : Word := (sclVal s.grp f.a).setWidth 32
    if (r.heldAt false a).isNone then raise .bufrange s
    else ((s.passFalse f).scbNote s.nextId .publish f.md (a.setWidth 64) []).release 0 (s.activeMask f.gd) f.form.len (.pub (ringNum f) a))

/-- True when a ring may be set up as `x` describes (R261). -/
def ringFits (t : Team) (r : Ring) (x : DWord) : Bool :=
  let base := bitsOf x 0 32
  let size := (bitsOf x 36 7 + 1) * 2 ^ (bitsOf x 32 4 + 7)
  let region := base / 2 ^ 28
  decide (bitsOf x 32 4 < 10) && decide (region < 3) && decide (base % 2 ^ 28 + size ≤ t.bound region)
    && r.writers.isEmpty && r.readers.isEmpty && !(r.waits.any (fun w => w.copy != 0))

/-- RING INIT (R261). -/
def execRingInit (f : Fields) (s : State) : Out3 :=
  ringOp 4 f s (fun r s =>
    let x := sclVal s.grp f.a
    if ringFits s.myTeam r x then
      let n : BitVec 7 := x.extractLsb' 36 7
      let r1 : Ring := { r with
        base := x.setWidth 32, slotlog := x.extractLsb' 32 4, nslotm1 := n, free := n.setWidth 8 + 1, filled := 0, head := 0, tail := 0 }
      (s.onRing s.myTeam.uid (ringNum f) (fun _ => r1)).advance f.form.len
    else raise .bufrange s)

/-- The two words of a ring object (R47, Table 5). -/
def Ring.word0 (r : Ring) : DWord := 0#5 ++ r.filled ++ r.free ++ r.nslotm1 ++ r.slotlog ++ r.base
def Ring.word1 (r : Ring) : DWord := BitVec.ofNat 64 (r.head.toNat + 256 * r.tail.toNat)

/-- A ring object from its two words; who holds which slot stays. -/
def Ring.ofWords (r : Ring) (a b : DWord) : Ring :=
  { r with
    base := a.extractLsb' 0 32, slotlog := a.extractLsb' 32 4, nslotm1 := a.extractLsb' 36 7, free := a.extractLsb' 43 8, filled := a.extractLsb' 51 8
    head := b.extractLsb' 0 7, tail := b.extractLsb' 8 7 }

/-- RING STAT (R261). -/
def execRingStat (f : Fields) (s : State) : Out3 :=
  ringOp 5 f s (fun r s => (s.setScl (sclNum f.d) (if f.imm.getLsbD 0 then r.word1 else r.word0)).advance f.form.len)

/-- RING_WAITER_WAKE (R127, R261): the acquirer of a role that reached the ring first takes a slot that is there; a bundle leaves RING.
A copy command takes its slot by COPY_RING_ACQUIRE. -/
def execRingWaiterWake (team ring : Nat) (writer : Bool) (s : State) : Out3 :=
  let r := (s.team team).ring ring
  .next (match r.waits.find? (fun w => w.reader != writer) with
    | none => s
    | some w =>
      if w.copy ≠ 0 then s else
      match r.take w.reader with
      | none => s
      | some (k, r1) =>
        let s1 := s.onRing team ring (fun _ => { r1.heldBy k w.gid with waits := r1.waits.erase w })
        s1.ringLeave w.gid w.lanes w.reader w.sd (r.slotAddr k))

end Sys2Proof.Machine
end

