-- ==== Sys2Proof/Machine/Engines.lean ====
section
/-! DEFINITION. The copy engine and the matrix engine: COPY and TILE, and the steps of both engines (R108 to R128, R267 to R270). -/

namespace Sys2Proof.Machine

/-- `n` consecutive scalars from s`a`. -/
def Group.scalars (g : Group) (a : Nat) : Nat → List DWord
  | 0 => []
  | n + 1 => g.scl a :: g.scalars (a + 1) n

/-- A buffer area lies in one of the regions `rs` within a team's bound. -/
def inRegions (t : Team) (rs : List Nat) (a n : Nat) : Bool := rs.contains (a / 2 ^ 28) && decide (a % 2 ^ 28 + n ≤ t.bound (a / 2 ^ 28))

/-- `n` bytes of a team's buffers at a buffer address. -/
def Team.rd (t : Team) (a n : Nat) : Nat := t.read (a / 2 ^ 28) (a % 2 ^ 28) n

/-- Writes `n` bytes of a team's buffers at a buffer address. -/
def Team.wr (t : Team) (a n x : Nat) : Team := t.write (a / 2 ^ 28) (a % 2 ^ 28) n x

/-- Bytes that hold the six bits of packed element `k` (R108). -/
def sixBytes (k : Nat) : Nat := (6 * k % 8 + 13) / 8

/-- Packed element `k` of six bits from a buffer address (R108). -/
def Team.rd6 (t : Team) (a k : Nat) : Nat := t.rd (a + 6 * k / 8) (sixBytes k) / 2 ^ (6 * k % 8) % 64

/-- Writes packed element `k`. -/
def Team.wr6 (t : Team) (a k x : Nat) : Team :=
  let old := t.rd (a + 6 * k / 8) (sixBytes k)
  let m := 2 ^ (6 * k % 8)
  t.wr (a + 6 * k / 8) (sixBytes k) (old - old / m % 64 * m + x % 64 * m)

/-! Copy descriptors (R124) -/

def copyBase (d : List DWord) : Nat := (d.getD 0 0).toNat
def copyExtent (d : List DWord) (i : Nat) : Int := bitsOf (d.getD 1 0) (21 * i) 21
/-- Strides are read as unsigned (log 99). -/
def copyStride (d : List DWord) (i : Nat) : Int := bitsOf (d.getD 2 0) (32 * i) 32
def copyOrigin (d : List DWord) (i : Nat) : Int := sextNat 21 (bitsOf (d.getD 3 0) (21 * i) 21)
def copyWindow (d : List DWord) (i : Nat) : Nat := bitsOf (d.getD 4 0) (16 * i) 16
def copyFmt (d : List DWord) : Nat := bitsOf (d.getD 4 0) 48 4
def copyOp (d : List DWord) : Nat := bitsOf (d.getD 4 0) 52 4
def copyRing (d : List DWord) : Nat := bitsOf (d.getD 4 0) 56 8
def copyBuf (d : List DWord) : Nat := bitsOf (d.getD 5 0) 0 32
def copyFill (d : List DWord) : Nat := bitsOf (d.getD 5 0) 32 32

/-- Elements of the window; 0 for an empty command (R127). -/
def copyCount (d : List DWord) : Nat := copyWindow d 0 * copyWindow d 1 * copyWindow d 2

/-- Element size in VA bytes (R124). -/
def elemSize (fmt : Nat) : Nat := if fmt = 0 then 4 else if fmt ≤ 2 then 2 else 1

/-- Buffer bytes of the window; T6 packs its elements. -/
def copyBytes (d : List DWord) : Nat := if copyFmt d = 4 then copyCount d * 6 / 8 else copyCount d * elemSize (copyFmt d)

/-- True for the commands that read their buffer. -/
def copyOut (d : List DWord) : Bool := copyOp d == 1 || copyOp d == 4

/-- True for the commands with an index list. -/
def copyIndexed (d : List DWord) : Bool := copyOp d == 3 || copyOp d == 4

/-- True for a command that takes a ring slot (R127). -/
def usesRing (d : List DWord) : Bool := copyRing d != 255 && copyCount d != 0

/-- The buffer address of a command: that of its ring slot when it takes one. -/
def copyAt (t : Team) (d : List DWord) (slot : Option Nat) : Nat :=
  match slot with
  | some k => ((t.ring (copyRing d)).slotAddr k).toNat
  | none => copyBuf d

/-- The buffer address the window is checked at: the ring's first slot when RING names one (R126). -/
def copyWindowAt (t : Team) (d : List DWord) : Nat := if copyRing d = 255 then copyBuf d else (t.ring (copyRing d)).base.toNat

/-- BUFRANGE of R126 with its ADDR (log 17): the window, the ring and its slot size, the index list, the completion barrier. -/
def copyBad (t : Team) (bar : Nat) (d : List DWord) : Option Nat :=
  if copyRing d ≠ 255 ∧ t.rings.length ≤ copyRing d then some 0
  else if !inRegions t (if copyOut d then [0, 2] else [0, 1]) (copyWindowAt t d) (copyBytes d) then some (copyWindowAt t d)
  else if copyRing d ≠ 255 ∧ 2 ^ ((t.ring (copyRing d)).slotlog.toNat + 7) < copyBytes d then some 0
  else if copyIndexed d && !inRegions t [0, 3] (copyFill d) (4 * copyWindow d 1) then some (copyFill d)
  else if bar ≠ 63 ∧ barBeyond t bar then some 0
  else none

/-- ALIGN of R126 with its ADDR. BASE has no use in a fill (R125), nor BUF beside a ring (R124), and neither is checked there (log 17). -/
def copyMisaligned (d : List DWord) : Option Nat :=
  let e := elemSize (copyFmt d)
  if copyRing d = 255 ∧ copyBuf d % e ≠ 0 then some (copyBuf d)
  else if copyOp d ≠ 5 ∧ copyBase d % e ≠ 0 then some (copyBase d)
  else if copyIndexed d ∧ copyFill d % 4 ≠ 0 then some (copyFill d)
  else none

/-- The checks of R126 in order. -/
def copyFault (t : Team) (bar : Nat) (d : List DWord) : Option FaultInfo :=
  if 5 < copyOp d ∨ 7 < copyFmt d ∨ (copyFmt d = 4 ∧ (copyOp d = 2 ∨ copyWindow d 0 % 4 ≠ 0)) then some { cause := .illegal }
  else match copyBad t bar d with
  | some a => some { cause := .bufrange, addr := BitVec.ofNat 64 a }
  | none => (copyMisaligned d).map (fun a => { cause := .align, addr := BitVec.ofNat 64 a })

/-- Adds a command to its core's engine under counted operation `op` (R127, R128): one that takes a ring slot reaches the ring object at once
and waits there in order. -/
def State.postCopy (s : State) (g : Group) (op bar : Nat) (d : List DWord) (pc : DWord) (priv : Bool) : State :=
  let wait := usesRing d
  let c : CopyCmd :=
    { id := s.nextId, op := op, gid := g.uid, team := g.team, core := s.unitOf g, bar := bar, d := d, pc := pc, priv := priv,
      stage := if wait then .ringWait else .queued, slot := none, at_ := 0, faulted := false }
  let w : RingWait := { reader := copyOut d, gid := g.uid, lanes := 0, sd := 0, copy := c.id }
  let s1 := { s with copyq := s.copyq ++ [c], nextId := s.nextId + 1 }
  if wait then s1.onRing g.team (copyRing d) (fun r => { r with waits := r.waits ++ [w] }) else s1

/-- COPY (R269). -/
def execCopy (f : Fields) (s : State) : Out3 :=
  run ⟨0x31, 0, 0⟩ f s (fun s =>
    if !s.anyActive f.gd then (s.count 2 false).advance f.form.len
    else
      let d := s.grp.scalars (sclNum f.a) 6
      let bar := numOf f.d % 64
      match copyFault s.myTeam bar d with
      | some i => raiseWith i s
      | none =>
        (((s.count 2 true).postCopy s.grp s.nextId bar d s.bundle.pc s.privileged).scbNote (s.nextId + 1) .copy f.md (d.getD 0 0) (d.map (fun x => x.setWidth 128))).advance f.form.len)

/-! The walk (R125) -/

/-- The commands' record. -/
def State.copyCmd (s : State) (id : Nat) : Option CopyCmd := s.copyq.find? (fun c => c.id == id)

/-- Changes a command. -/
def State.onCopy (s : State) (id : Nat) (f : CopyCmd → CopyCmd) : State := { s with copyq := updBy (fun c => c.id == id) f s.copyq }

/-- Element `t` of the walk as (i, j, k). -/
def walkIx (d : List DWord) (t : Nat) : Nat × Nat × Nat :=
  (t % copyWindow d 0, t / copyWindow d 0 % copyWindow d 1, t / (copyWindow d 0 * copyWindow d 1))

/-- The element's number in the buffer; a transpose swaps dimensions 0 and 1. -/
def walkNum (d : List DWord) (t : Nat) : Nat :=
  let (i, j, k) := walkIx d t
  if copyOp d = 2 then (k * copyWindow d 0 + i) * copyWindow d 1 + j else t

/-- The coordinates of an element; a gather or scatter takes its row from the index list. -/
def walkCoord (tm : Team) (d : List DWord) (t : Nat) : Int × Int × Int :=
  let (i, j, k) := walkIx d t
  (copyOrigin d 0 + i, if copyIndexed d then sextNat 32 (tm.rd (copyFill d + 4 * j) 4) else copyOrigin d 1 + j, copyOrigin d 2 + k)

/-- The VA of the element with some coordinates. -/
def elemVA (d : List DWord) (c : Int × Int × Int) : DWord :=
  BitVec.ofInt 64 (copyBase d + (c.1 + c.2.1 * copyStride d 0 + c.2.2 * copyStride d 1) * elemSize (copyFmt d))

/-- The element's VA when it is in bounds. -/
def walkVA (tm : Team) (d : List DWord) (t : Nat) : Option DWord :=
  let c := walkCoord tm d t
  if 0 ≤ c.1 ∧ c.1 < copyExtent d 0 ∧ 0 ≤ c.2.1 ∧ c.2.1 < copyExtent d 1 ∧ 0 ≤ c.2.2 ∧ c.2.2 < copyExtent d 2 then some (elemVA d c) else none

/-- The fill value: the low bits of FILL, and 0 for a gather. -/
def fillOf (d : List DWord) : Nat :=
  if copyOp d = 3 then 0 else if copyFmt d = 4 then copyFill d % 64 else copyFill d % 2 ^ (8 * elemSize (copyFmt d))

/-- Reads element `n` of the window at buffer address `a`. -/
def Team.rdElem (t : Team) (d : List DWord) (a n : Nat) : Nat :=
  if copyFmt d = 4 then t.rd6 a n else t.rd (a + n * elemSize (copyFmt d)) (elemSize (copyFmt d))

/-- Writes element `n` of the window at buffer address `a`. -/
def Team.wrElem (t : Team) (d : List DWord) (a n x : Nat) : Team :=
  if copyFmt d = 4 then t.wr6 a n x else t.wr (a + n * elemSize (copyFmt d)) (elemSize (copyFmt d)) x

/-- Where the bytes of element `n` stand in the buffer. -/
def elemAt (d : List DWord) (a n : Nat) : Nat := if copyFmt d = 4 then a + 6 * n / 8 else a + n * elemSize (copyFmt d)

/-- What one element of a walk does: it goes on, meets a condition, or waits for a line. -/
inductive Walk where
  | on (s : State)
  | cond (x : FaultInfo)
  | wait

/-- On whose behalf a command walks. -/
def copyWho (s : State) (c : CopyCmd) : Who :=
  let g := (s.group c.gid).getD default
  { asid := s.asidOf g, bench := g.bench, die := s.dieOf g, user := !c.priv }

/-- A write that core `c` has sent to the slice of `pa` and that is not ordered yet: a write of its engine comes after it (R52, R67). -/
def writeOwed (s : State) (c pa : Nat) : Bool :=
  s.reqs.any (fun q => !q.isBuf && q.acc != .load && q.core == c && q.stage != .served && sliceOf q.addr == sliceOf pa && !isHost q.addr &&
    q.target == s.routeOf (c / Config.coresPerDie) pa)

/-- True when `n` bytes may be read (`out` false) or written by the engine of core `c` now: no accepted request stands before it in the slice's queue, which takes and
begins it in one core cycle; the granule is settled, and the lines are not busy, nor a flush of them on its way; for a read the last write's W is reached, and for a write no
older write of the core to the slice is on its way (R52, R64, R69, R83, R297, log 129). -/
def lineFree (s : State) (c : Nat) (out : Bool) (pa n : Nat) : Bool :=
  isHost pa || ((s.granule (granuleOf pa)).moving.isNone && !(out && writeOwed s c pa) && (s.queueAt (s.homeOf pa) (sliceOf pa)).isEmpty &&
    (linesOf pa n).all (fun ln => (out || decide ((s.line ln).w ≤ s.homeNow pa)) && !s.flushOwed ln && !s.lineBusy s.nextId ln))

/-- A global read of an element: a device-scope load at the home that keeps no copy (R83). -/
def walkRead (s : State) (c : CopyCmd) (sp : Spot) (a n : Nat) : State :=
  let s1 := if sp.range.isSome then s.combineLines sp.pa sp.n else s
  let x := unpackVal sp.six sp.elems (s1.readPhys sp.pa sp.n)
  let hurt := s1.poisonedAt sp.pa sp.n
  let s2 := if isHost sp.pa then { s1.useFree with out := s1.out ++ [.hostRead (s.pasidOf (copyWho s c).asid) sp.pa sp.n] } else s1
  s2.onTeam c.team (fun t =>
    let u := t.wrElem c.d a n x
    if hurt then { u with poison := addPoison u.poison (elemAt c.d a n) (elemSize (copyFmt c.d)) } else u)

/-- A global write of an element: a device-scope store from the command's core, with its W in `WCT` (R83, R82); poison travels with it, and
poison that leaves by a port is consumed there (R382). -/
def walkWrite (s : State) (c : CopyCmd) (sp : Spot) (a n : Nat) : State :=
  let t := s.team c.team
  let (d, m) := packVal sp.six sp.elems sp.n (t.rdElem c.d a n)
  let hurt := hurtAt t.poison (elemAt c.d a n) (elemSize (copyFmt c.d))
  let s1 := if sp.range.isSome && !isHost sp.pa then s.combineLines sp.pa sp.n else s
  let w := s1.nextW sp.pa sp.n
  let s2 := if isHost sp.pa then s1.hostPut (copyWho s c).asid c.core sp.pa sp.n d m
    else s1.orderWrite (c.core / Config.coresPerDie) (leaseCode sp.cls) sp.pa sp.n d m
  if isHost sp.pa then
    if hurt then s2.onGroup c.gid (fun g => { g with hurt := g.hurt ++ [(64, sp.va)] }) else s2
  else
    let s3 := (s2.touchCore c.core sp.pa sp.n d m).raiseWct c.gid w
    if hurt then { s3 with poison := addPoison s3.poison sp.pa sp.n } else s3

/-- Element `t` of a walk (R125, R126). -/
def walkElem (c : CopyCmd) (a t : Nat) (s : State) : Walk :=
  let tm := s.team c.team
  let n := walkNum c.d t
  let (_, j, _) := walkIx c.d t
  if copyOp c.d = 5 then .on (s.onTeam c.team (fun u => u.wrElem c.d a n (fillOf c.d)))
  else if copyIndexed c.d ∧ hurtAt tm.poison (copyFill c.d + 4 * j) 4 then .cond { cause := .poison, access := 5, addr := elemVA c.d (walkCoord tm c.d t) }
  else
    match walkVA tm c.d t with
    | none => .on (if copyOut c.d then s else s.onTeam c.team (fun u => u.wrElem c.d a n (fillOf c.d)))
    | some va =>
      let w := copyWho s c
      match s.reach w (if copyOut c.d then .store else .load) va.toNat with
      | .fail tout level => .cond (dataFault .walk tout level va)
      | .awaited => .wait
      | .page e =>
        let sp := s.spot w 0 0 va (elemSize (copyFmt c.d)) e
        if s.tablesAwaited w e || !lineFree s c.core (copyOut c.d) sp.pa sp.n then .wait
        else .on (if copyOut c.d then walkWrite s c sp a n else walkRead s c sp a n)

/-- Walks `fuel` elements from element `t`: the state reached, the element reached, and what stopped it. -/
def walkFromTo (c : CopyCmd) (a : Nat) : Nat → Nat → State → State × Nat × Option (Option FaultInfo)
  | 0, t, s => (s, t, none)
  | fuel + 1, t, s =>
    match walkElem c a t s with
    | .on s1 => walkFromTo c a fuel (t + 1) s1
    | .cond x => (s, t, some (some x))
    | .wait => (s, t, some none)

/-- The rest of a command's walk, whose blocks of the window are written whole when it fills a buffer. -/
def walkRest (s : State) (c : CopyCmd) : State × Nat × Option (Option FaultInfo) :=
  let a := copyAt (s.team c.team) c.d c.slot
  let s1 := if copyOut c.d ∨ c.at_ ≠ 0 then s else s.onTeam c.team (fun t => { t with poison := clearPoison t.poison a (copyBytes c.d) })
  walkFromTo c a (copyCount c.d - c.at_) c.at_ s1

/-- The fault record of a walk condition (R126, R360). -/
def walkFault (s : State) (c : CopyCmd) (x : FaultInfo) : PFault :=
  let g := (s.group c.gid).getD default
  { id := s.nextId, gid := c.gid, walk := c.id, cause := x.cause, access := 5, replay := true, tout := x.tout, level := x.level,
    asid := s.asidOf g, rqtag := (s.gridOf (s.team c.team)).rqtag, pc := c.pc, addr := x.addr, lanes := 0, unit := coreUnit c.core,
    gslot := g.slot, bench := g.bench % 2, time := s.gtime (s.dieOf g), rsn := 0, rcause := 0, recVA := 0, written := false }

/-! Fault records (R360) -/

/-- The words of a fault record (R360, Table 3). -/
def PFault.words (f : PFault) : List Nat :=
  [f.cause.code + f.access % 16 * 2 ^ 8 + (if f.replay then 2 ^ 12 else 0) + f.tout % 8 * 2 ^ 13 + f.level % 4 * 2 ^ 16 + f.rqtag % 2 ^ 16 * 2 ^ 32
     + f.asid % 2 ^ 12 * 2 ^ 48,
   f.pc.toNat, f.addr.toNat, (f.lanes.setWidth 64).toNat, ((f.lanes >>> 64).setWidth 64).toNat,
   f.unit.toNat + f.gslot % 32 * 2 ^ 32 + f.bench % 2 * 2 ^ 37, f.time, f.rsn.toNat + f.rcause % 256 * 2 ^ 32]

/-- The VA of a context's next fault record; none when FAULTVA is 0 (R360). -/
def State.faultVA (s : State) (asid : Nat) : Option Nat :=
  let c := s.ctx asid
  if bitsOf c.desc 736 64 = 0 then none else some (bitsOf c.desc 736 64 + 64 * (c.faultN % 2 ^ bitsOf c.desc 800 4))

/-- The address of a context's next fault record; none when there is none or its page is not mapped writable. -/
def State.faultSlot (s : State) (asid die : Nat) : Option (Nat × TlbEntry) :=
  (s.faultVA asid).bind (fun va =>
    match s.reach (sysWho asid die) .store va with
    | .page e => some (va, e)
    | _ => none)

/-- The die whose headframe core writes a fault's record. -/
def PFault.die (f : PFault) : Nat := f.unit.toNat / 2 ^ 24 % 16

/-- True while the record of a fault waits for the translation of its slot (R365). -/
def State.slotAwaited (s : State) (f : PFault) : Bool :=
  !f.written && ((s.faultVA f.asid).map (fun va => s.reach (sysWho f.asid f.die) .store va == .awaited)).getD false

/-- The machine stores `n` bytes at a place of a page (`State.frameAt`) as a device-scope store of its die; words of a range are combined first (R58, R64). -/
def State.putAt (s : State) (w : Who) (p : Nat × Nat × Nat) (n x : Nat) : State :=
  let (d, m) := packVal p.2.2 n p.2.1 x
  if isHost p.1 then s.hostPut w.asid (w.die * Config.coresPerDie) p.1 p.2.1 d m else (s.combineLines p.1 p.2.1).orderWrite w.die 1 p.1 p.2.1 d m

/-- The same at an address of a page. -/
def State.putPage (s : State) (w : Who) (e : TlbEntry) (va n x : Nat) : State := s.putAt w (s.frameAt w e va n) n x

/-- Writes a fault record as device-scope stores and counts it; its VA is 0 when none could be written. -/
def State.putFault (s : State) (f : PFault) : State × Nat :=
  match s.faultSlot f.asid f.die with
  | none => (s, 0)
  | some (va, e) =>
    let s1 := ((List.range 8).zip f.words).foldl (fun t p => t.putPage (sysWho f.asid f.die) e (va + 8 * p.1) 8 p.2) s
    ({ s1 with ctxs := updBy (fun c => c.asid == f.asid) (fun c => { c with faultN := c.faultN + 1 }) s1.ctxs }, va)

/-- FAULT_RECORD (R360): the headframe core writes the record of a fault that waits for it, once; it waits while the slot's translation is awaited. -/
def State.recordFault (s : State) (id : Nat) : State :=
  match s.faults.find? (fun f => f.id == id) with
  | none => s
  | some f =>
    if f.written || s.slotAwaited f then s else
    let (s1, va) := s.putFault f
    { s1 with faults := updBy (fun x => x.id == id) (fun x => { x with written := true, recVA := BitVec.ofNat 64 va }) s1.faults }

/-- A replayable fault is passed on with its record: to the driver in DEVICE mode, and in HOST mode as a PRI Page Request with the context's PASID (R361). -/
def State.passFault (s : State) (id : Nat) : State :=
  let s1 := s.recordFault id
  match s1.faults.find? (fun f => f.id == id), s.faults.find? (fun f => f.id == id) with
  | some f, some old =>
    if s.hostMode && f.replay && f.written && !old.written then
      { s1 with out := s1.out ++ [.page (s.pasidOf f.asid) f.addr (f.access == 3 || f.access == 4)] }
    else s1
  | _, _ => s1

/-- COPY_RING_ACQUIRE (R127): the command takes a slot when it is the first waiter of its role and one is there. -/
def execCopyRingAcquire (id : Nat) (s : State) : Out3 :=
  .next (match s.copyCmd id with
    | some c =>
      let r := (s.team c.team).ring (copyRing c.d)
      match r.waits.find? (fun w => w.reader == copyOut c.d) with
      | some w =>
        if w.copy = id ∧ c.stage = .ringWait ∧ !s.unmatched c.gid id then
          match r.take w.reader with
          | some (k, r1) =>
            (s.onRing c.team (copyRing c.d) (fun _ => { r1.heldBy k c.gid with waits := r1.waits.erase w })).onCopy id
              (fun c => { c with stage := .queued, slot := some k })
          | none => s
        else s
      | none => s
    | none => s)

/-- COPY_START (R128): the first queued command of a core starts while fewer than four of its commands walk. -/
def execCopyStart (id : Nat) (s : State) : Out3 :=
  .next (match s.copyCmd id with
    | some c =>
      let first := ((s.copyq.filter (fun x => x.core == c.core && x.stage == .queued)).head?.map (fun x => x.id)) == some id
      let walks := (s.copyq.filter (fun x => x.core == c.core && x.stage == .walking)).length
      if first ∧ walks < 4 ∧ !s.unmatched c.gid id then s.onCopy id (fun c => { c with stage := .walking }) else s
    | none => s)

/-- COPY_WALK_FAULT (R126): the walk stops at the element that meets a condition, and the headframe core writes its record. -/
def execCopyWalkFault (id : Nat) (s : State) : Out3 :=
  .next (match s.copyCmd id with
    | some c =>
      if c.stage = .walking ∧ !c.faulted then
        match walkRest s c with
        | (s1, t, some (some x)) =>
          let w := copyWho s c
          let s2 := (if x.tout = 5 ∨ x.tout = 3 then s1.forgetPage w.bench w.asid x.addr.toNat else s1).onCopy id (fun c => { c with at_ := t, faulted := true })
          ({ s2 with faults := s2.faults ++ [walkFault s2 c x], nextId := s2.nextId + 1 }).passFault s2.nextId
        | _ => s
      else s
    | none => s)

/-- COPY_COMPLETE (R127, R128, R82): every read and write is performed, the slot is published or returned, the counted operation closes and the
completion barrier takes its arrival. Engine signals of a core cycle come before the arrivals of its lanes, so none is given once a bench has had its turn
(R46). -/
def execCopyComplete (id : Nat) (s : State) : Out3 :=
  .next (match s.copyCmd id with
    | some c =>
      if c.stage = .walking ∧ !c.faulted ∧ (s.turn = 0 ∨ c.bar = 63) then
        match walkRest s c with
        | (s1, _, none) =>
          let give (r : Ring) : Ring := match c.slot with | some k => (r.give (copyOut c.d) k).getD r | none => r
          let s2 := if c.slot.isSome then s1.onRing c.team (copyRing c.d) give else s1
          let s3 := { s2 with copyq := s2.copyq.filter (fun x => x.id != id) }
          (s3.closeOp c.gid c.op).signal c.team c.bar
        | _ => s
      else s
    | none => s)

/-! Tile descriptors (R109) -/

def tileA (t : List DWord) : Nat := bitsOf (t.getD 0 0) 0 32
def tileB (t : List DWord) : Nat := bitsOf (t.getD 0 0) 32 32
def tileC (t : List DWord) : Nat := bitsOf (t.getD 1 0) 0 32
def tileM (t : List DWord) : Nat := bitsOf (t.getD 1 0) 32 9 + 1
def tileN (t : List DWord) : Nat := bitsOf (t.getD 1 0) 41 9 + 1
def tileK (t : List DWord) : Nat := 32 * (bitsOf (t.getD 1 0) 50 6 + 1)
def tileStream (t : List DWord) : Nat := bitsOf (t.getD 1 0) 56 3
def tilePrio (t : List DWord) : Nat := bitsOf (t.getD 1 0) 59 3
def tileAfmt (t : List DWord) : Nat := bitsOf (t.getD 2 0) 0 4
def tileBfmt (t : List DWord) : Nat := bitsOf (t.getD 2 0) 4 4
def tileMode (t : List DWord) : Nat := bitsOf (t.getD 2 0) 8 4
def tileAtag (t : List DWord) : Nat := bitsOf (t.getD 2 0) 12 16
def tileBtag (t : List DWord) : Nat := bitsOf (t.getD 2 0) 28 16
def tileSig (t : List DWord) : Nat := bitsOf (t.getD 2 0) 44 6
def tileWait (t : List DWord) (i : Nat) : Nat := bitsOf (t.getD 2 0) (50 + 6 * i) 6
def tileAstr (t : List DWord) : Nat := bitsOf (t.getD 3 0) 0 16
def tileBstr (t : List DWord) : Nat := bitsOf (t.getD 3 0) 16 16
def tileCstr (t : List DWord) : Nat := bitsOf (t.getD 3 0) 32 16
def tileQscale (t : List DWord) : Nat := bitsOf (t.getD 3 0) 48 8

/-- True for MMA and MMAZ. -/
def TileOp.multiplies : TileOp → Bool
  | .mma => true
  | .mmaz => true
  | _ => false

/-- Bytes of a row of `cols` elements. -/
def rowBytes (fmt cols : Nat) : Nat := if fmt = 0 then 4 * cols else if fmt ≤ 2 then 2 * cols else if fmt = 4 then 6 * cols / 8 else cols

/-- Bytes of an operand or output area, its scale area included (R108). -/
def areaBytes (fmt rows cols stride : Nat) : Nat :=
  let row := rowBytes fmt cols
  let plain := (rows - 1) * stride + row
  if Block.scaled fmt then max plain (rows * stride + rows * (cols / 32)) else plain

/-- The areas a task uses beside C: address, bytes and stride. -/
def tileAreas (op : TileOp) (t : List DWord) : List (Nat × Nat × Nat) :=
  match op with
  | .qout => [(tileA t, areaBytes (tileAfmt t) (tileM t) (tileN t) (tileAstr t), tileAstr t)]
  | .trot => []
  | .tzero => []
  | _ => [(tileA t, areaBytes (tileAfmt t) (tileM t) (tileK t) (tileAstr t), tileAstr t),
          (tileB t, areaBytes (tileBfmt t) (tileN t) (tileK t) (tileBstr t), tileBstr t)]

/-- Bytes of C. -/
def tileCBytes (t : List DWord) : Nat := areaBytes 0 (tileM t) (tileN t) (tileCstr t)

/-- ILLEGAL of R112. -/
def tileIllegal (op : TileOp) (t : List DWord) : Bool :=
  let f := tileAfmt t
  decide (256 < tileM t) || decide (256 < tileN t) || decide (1 < tileMode t) || (tileMode t == 1 && op == .trot) ||
  (op.multiplies && (f != tileBfmt t || !(f == 1 || f == 3 || f == 4 || f == 5 || f == 6) ||
    (if f = 5 ∨ f = 6 then tileMode t != 1 else tileMode t != 0))) ||
  (op == .qout && (decide (6 < f) || (decide (3 ≤ f) && tileN t % 32 != 0))) ||
  ((op == .qout || op == .trot) && tileN t % Block.blockSize (tileAtag t) != 0)

/-- BUFRANGE of R112 with its ADDR: the first area that does not fit, 0 for a barrier code (log 17). -/
def tileBad (tm : Team) (op : TileOp) (t : List DWord) : Option Nat :=
  match (tileAreas op t).find? (fun a => !inRegions tm [0, 1] a.1 a.2.1) with
  | some a => some a.1
  | none =>
    if !inRegions tm [2] (tileC t) (tileCBytes t) then some (tileC t)
    else if [tileSig t, tileWait t 0, tileWait t 1].any (fun b => b != 63 && barBeyond tm b) then some 0
    else none

/-- ALIGN of R112 with its ADDR: the first address that is no multiple of 16, 0 for a stride (log 17). -/
def tileMisaligned (op : TileOp) (t : List DWord) : Option Nat :=
  match ((tileAreas op t).map (fun a => a.1) ++ [tileC t]).find? (fun a => a % 16 != 0) with
  | some a => some a
  | none => if (tileCstr t :: (tileAreas op t).map (fun a => a.2.2)).any (fun x => x % 16 != 0) then some 0 else none

/-- TAGMISMATCH of R114. -/
def tileTagBad (g : Group) (op : TileOp) (t : List DWord) : Bool :=
  (op.multiplies && tileAtag t != tileBtag t) ||
  (op != .tzero && !Block.tagOk (sget 0 g.sseed (Block.seedIx (tileAtag t))) (tileAtag t))

/-- The checks of R112 and R114 in order. -/
def tileFault (g : Group) (tm : Team) (op : TileOp) (t : List DWord) : Option FaultInfo :=
  if tileIllegal op t then some { cause := .illegal }
  else match tileBad tm op t with
  | some a => some { cause := .bufrange, addr := BitVec.ofNat 64 a }
  | none =>
    match tileMisaligned op t with
    | some a => some { cause := .align, addr := BitVec.ofNat 64 a }
    | none => if tileTagBad g op t then some { cause := .tagmismatch } else none

/-- The PHASE a wait barrier has now; code 63 names none. -/
def State.phaseOf (s : State) (t : Team) (code : Nat) : Bool := if code = 63 then false else (s.bar t code).phase

/-- Adds a task to the quad's table under counted operation `op`, with all it captures at post (R114, R116). -/
def State.postTile (s : State) (g : Group) (op : Nat) (lanes : QWord) (pc : DWord) (kind : TileOp) (t : List DWord) : State :=
  let tm := s.team g.team
  let x : Task :=
    { id := s.nextId, op := op, gid := g.uid, lanes := lanes, pc := pc, team := g.team, quad := s.unitOf g / 4, core := s.unitOf g, kind := kind, t := t,
      seed := sget 0 g.sseed (Block.seedIx (tileAtag t)), phase0 := s.phaseOf tm (tileWait t 0), phase1 := s.phaseOf tm (tileWait t 1),
      stage := .waiting, pass := 0, since := s.cycle, poisoned := false }
  { s with tasks := s.tasks ++ [x], nextId := s.nextId + 1 }

/-- A TILE operation (R270). -/
def tile (fn : BitVec 3) (op : TileOp) (f : Fields) (s : State) : Out3 :=
  run ⟨0x32, fn, 0⟩ f s (fun s =>
    if !s.anyActive f.gd then (s.count 3 false).advance f.form.len
    else
      let t := s.grp.scalars (sclNum f.a) 4
      match tileFault s.grp s.myTeam op t with
      | some i => raiseWith i s
      | none =>
        (((s.count 3 true).postTile s.grp s.nextId (s.activeMask f.gd) s.bundle.pc op t).scbNote (s.nextId + 1) (.tile op) f.md (t.getD 0 0)
          (t.map (fun x => x.setWidth 128))).advance f.form.len)

/-- TILE MMA (R111, R270). -/
def execTileMma (f : Fields) (s : State) : Out3 := tile 0 .mma f s
/-- TILE MMAZ (R111, R270). -/
def execTileMmaz (f : Fields) (s : State) : Out3 := tile 1 .mmaz f s
/-- TILE QOUT (R111, R270). -/
def execTileQout (f : Fields) (s : State) : Out3 := tile 2 .qout f s
/-- TILE TROT (R111, R270). -/
def execTileTrot (f : Fields) (s : State) : Out3 := tile 3 .trot f s
/-- TILE TZERO (R111, R270). -/
def execTileTzero (f : Fields) (s : State) : Out3 := tile 4 .tzero f s

/-! Passes (R111, R103, R104) -/

/-- Operand element `k` of the row at buffer address `a` (R108). -/
def operandElem (t : Team) (fmt a k : Nat) : Nat :=
  if fmt = 1 then t.rd (a + 2 * k) 2 else if fmt = 4 then t.rd6 a k else t.rd (a + k) 1

/-- Chunk `c` of a row, 32 elements. -/
def operandChunk (t : Team) (fmt a c : Nat) : List Nat := (List.range 32).map (fun k => operandElem t fmt a (32 * c + k))

/-- The scale byte of row `r` and chunk `c` of an operand; 127 for unscaled formats. -/
def operandScale (t : Team) (fmt a rows stride k r c : Nat) : Nat :=
  if Block.scaled fmt then t.rd (a + rows * stride + r * (k / 32) + c) 1 else 127

/-- The address of C's word (m, n). -/
def cAt (t : List DWord) (m n : Nat) : Nat := tileC t + m * tileCstr t + 4 * n

/-- One accumulation of a pass into C's word (m, n). -/
def mmaWord (zero : Bool) (t : List DWord) (c m n : Nat) (tm : Team) : Team :=
  let f := tileAfmt t
  let a := operandChunk tm f (tileA t + m * tileAstr t) c
  let b := operandChunk tm f (tileB t + n * tileBstr t) c
  let acc := if zero then 0 else tm.rd (cAt t m n) 4
  let v := if tileMode t = 1 then (BitVec.ofNat 32 acc + BitVec.ofInt 32 (Block.chunkInt a b)).toNat
    else Block.addF32 acc (Block.chunk f a b (operandScale tm f (tileA t) (tileM t) (tileAstr t) (tileK t) m c)
      (operandScale tm f (tileB t) (tileN t) (tileBstr t) (tileK t) n c))
  tm.wr (cAt t m n) 4 v

/-- Applies `f` to every (m, n) of the tile, rows ascending. -/
def eachWord (t : List DWord) (f : Nat → Nat → Team → Team) (tm : Team) : Team :=
  (List.range (tileM t)).foldl (fun x m => (List.range (tileN t)).foldl (fun y n => f m n y) x) tm

/-- `v[n]` of QOUT (R111). -/
def qoutVal (t : List DWord) (x : Nat) : Nat :=
  if tileMode t = 0 then x
  else if tileQscale t = 255 then Fp.f32.nanBits
  else (Fp.roundInt Fp.f32 Fp.nearest (sextNat 32 x) ((tileQscale t : Int) - 127)).1

/-- Row `m` of C. -/
def cRow (tm : Team) (t : List DWord) (m : Nat) : List Nat := (List.range (tileN t)).map (fun n => tm.rd (cAt t m n) 4)

/-- Writes one output element, and the scale byte before the first of each 32 (R108, R111). -/
def qoutPut (t : List DWord) (m : Nat) (tm : Team) (e : Nat × Nat × Nat) : Team :=
  let f := tileAfmt t
  let n := e.1
  let row := tileA t + m * tileAstr t
  let u := if f = 0 then tm.wr (row + 4 * n) 4 e.2.1 else if f ≤ 2 then tm.wr (row + 2 * n) 2 e.2.1
    else if f = 4 then tm.wr6 row n e.2.1 else tm.wr (row + n) 1 e.2.1
  if Block.scaled f ∧ n % 32 = 0 then u.wr (tileA t + tileM t * tileAstr t + m * (tileN t / 32) + n / 32) 1 e.2.2 else u

/-- Row `m` of QOUT. -/
def qoutRow (seed : DWord) (t : List DWord) (tm : Team) (m : Nat) : Team :=
  let f := tileAfmt t
  let v := (cRow tm t m).map (qoutVal t)
  let q : List (Nat × Nat) :=
    if f = 0 then v.map (fun x => (x, 0))
    else if f = 1 then v.map (fun x => ((Fp.convert Fp.f32 Fp.bf16 Fp.nearest false x).1, 0))
    else if f = 2 then v.map (fun x => ((Fp.convert Fp.f32 Fp.f16 Fp.nearest false x).1, 0))
    else Block.quantize f (tileAtag t) seed (v.map (Fp.decode Fp.f32))
  ((List.range (tileN t)).zip q).foldl (qoutPut t m) tm

/-- One block of TROT: its inverse rotation rounded to FP32, or the canonical NaN throughout (R101, R111). -/
def trotBlock (tag : Nat) (seed : DWord) (b : List Nat) : List Nat :=
  let vs := b.map (Fp.decode Fp.f32)
  if vs.any (fun v => v.isNan || v.isInf) then b.map (fun _ => Fp.f32.nanBits)
  else (Block.unrotate tag seed (vs.map Block.ofVal)).map (fun x => (Block.toFp Fp.f32 Fp.nearest x).1)

/-- Row `m` of TROT; block code 0 changes nothing. -/
def trotRow (seed : DWord) (t : List DWord) (tm : Team) (m : Nat) : Team :=
  if tileAtag t % 4 = 0 then tm else
  let row := cRow tm t m
  let ys := (Block.chunks (Block.blockSize (tileAtag t)) row.length row).flatMap (trotBlock (tileAtag t) seed)
  ((List.range (tileN t)).zip ys).foldl (fun u p => u.wr (cAt t m p.1) 4 p.2) tm

/-- What pass `c` of a task does to the team's buffers (R111). -/
def passOn (x : Task) (tm : Team) : Team :=
  match x.kind with
  | .mma => eachWord x.t (fun m n => mmaWord false x.t x.pass m n) tm
  | .mmaz => eachWord x.t (fun m n => mmaWord (x.pass == 0) x.t x.pass m n) tm
  | .qout => (List.range (tileM x.t)).foldl (qoutRow x.seed x.t) tm
  | .trot => (List.range (tileM x.t)).foldl (trotRow x.seed x.t) tm
  | .tzero => eachWord x.t (fun m n u => u.wr (cAt x.t m n) 4 0) tm

/-- A QOUT writes its output whole: the blocks that its rows and scale bytes fill lose their poison (R382). -/
def passClean (x : Task) (tm : Team) : Team :=
  if x.kind = .qout then
    let f := tileAfmt x.t
    let rows := (List.range (tileM x.t)).foldl (fun l m => clearPoison l (tileA x.t + m * tileAstr x.t) (rowBytes f (tileN x.t))) tm.poison
    { tm with poison := if Block.scaled f then clearPoison rows (tileA x.t + tileM x.t * tileAstr x.t) (tileM x.t * (tileN x.t / 32)) else rows }
  else tm

/-- True when a pass reads poison as an operand; `loads` says that it loads the words of C (R120, R382). -/
def passHurt (x : Task) (tm : Team) (loads : Bool) : Bool :=
  (loads && hurtAt tm.poison (tileC x.t) (tileCBytes x.t)) || (x.kind.multiplies && (tileAreas x.kind x.t).any (fun a => hurtAt tm.poison a.1 a.2.1))

/-- Passes of a task. -/
def Task.passes (x : Task) : Nat := if x.kind.multiplies then tileK x.t / 32 else 1

/-- A task by number. -/
def State.task (s : State) (id : Nat) : Option Task := s.tasks.find? (fun x => x.id == id)

/-- Changes a task. -/
def State.onTask (s : State) (id : Nat) (f : Task → Task) : State := { s with tasks := updBy (fun x => x.id == id) f s.tasks }

/-- True when a wait barrier's PHASE differs from the captured one (R118). -/
def flipped (s : State) (tm : Team) (code : Nat) (ph : Bool) : Bool := code == 63 || (s.bar tm code).phase != ph

/-- TASK_READY (R118). -/
def execTaskReady (id : Nat) (s : State) : Out3 :=
  .next (match s.task id with
    | some x =>
      let tm := s.team x.team
      let older := s.tasks.any (fun y => decide (y.id < id) && y.team == x.team && tileStream y.t == tileStream x.t && y.stage != .draining)
      if x.stage = .waiting ∧ flipped s tm (tileWait x.t 0) x.phase0 ∧ flipped s tm (tileWait x.t 1) x.phase1 ∧ !older ∧ !s.unmatched x.gid id then
        s.onTask id (fun y => { y with stage := .ready, since := s.cycle })
      else s
    | none => s)

/-- Effective priority (R119). -/
def effective (now : Nat) (x : Task) : Nat := min 7 (tilePrio x.t + (now - x.since) / 4096)

/-- `x` beats `y` for the array: higher effective priority, then the task in the array, then the earlier post (R119). -/
def beats (now cur : Nat) (x y : Task) : Bool :=
  let a := effective now x
  let b := effective now y
  decide (b < a) || (a == b && (x.id + 1 == cur || (y.id + 1 != cur && decide (x.id ≤ y.id))))

/-- What the array of a quad keeps; none before its first task and once a task has completed (R120). -/
def State.array (s : State) (quad : Nat) : Option Accu := s.arrays.find? (fun a => a.quad == quad)

/-- The array of a quad keeps `a` from now on, or nothing. -/
def State.setArray (s : State) (quad : Nat) (a : Option Accu) : State := { s with arrays := s.arrays.filter (fun x => x.quad != quad) ++ a.toList }

/-- The task the arbiter of a quad chooses (R119). -/
def State.arbiter (s : State) (quad : Nat) : Option Task :=
  let cur := ((s.array quad).map (fun a => a.task + 1)).getD 0
  let l := s.tasks.filter (fun x => x.quad == quad && (x.stage == .ready || x.stage == .active) && decide (x.pass < x.passes))
  l.find? (fun x => l.all (fun y => beats s.cycle cur x y))

/-- The words of C in a team's CBUF, row by row. -/
def cWords (t : List DWord) (tm : Team) : List Nat := (List.range (tileM t)).flatMap (cRow tm t)

/-- C's words laid into a team's CBUF, row by row. -/
def layWords (t : List DWord) (w : List Nat) (tm : Team) : Team :=
  eachWord t (fun m n u => u.wr (cAt t m n) 4 (w.getD (m * tileN t + n) 0)) tm

/-- The array of a quad writes the accumulators of the task it runs back to CBUF, and keeps none; those of a task that was removed are lost with it (R120, R123). -/
def State.writeArray (s : State) (quad : Nat) : State :=
  match s.array quad with
  | none => s
  | some a =>
    let s1 := s.setArray quad none
    match s.task a.task with
    | none => s1
    | some x =>
      s1.onTeam x.team (fun tm =>
        let u := layWords x.t a.words tm
        if a.clean then { u with poison := (List.range (tileM x.t)).foldl (fun l m => clearPoison l (cAt x.t m 0) (4 * tileN x.t)) u.poison } else u)

/-- One pass of a task over a team's buffers with its accumulators laid into C: the buffers, in which C stands as before, and the accumulators after it (R111, R120). -/
def runPass (x : Task) (acc : List Nat) (tm : Team) : Team × List Nat :=
  let done := passOn x (layWords x.t acc tm)
  (layWords x.t (cWords x.t tm) done, cWords x.t done)

/-- The array of a quad runs one pass of a task: it changes to the task first, when it ran another, and loads its C words, but for the first pass of MMAZ (R120). -/
def State.pass (s0 : State) (quad : Nat) (x : Task) : State :=
  let mine := (s0.array quad).filter (fun a => a.task == x.id)
  let s := if mine.isSome then s0 else s0.writeArray quad
  let tm := s.team x.team
  let fresh := x.kind == .tzero || (x.kind == .mmaz && x.pass == 0)
  let r := runPass x ((mine.map (fun a => a.words)).getD (cWords x.t tm)) tm
  let hurt := passHurt x tm (mine.isNone && !fresh)
  let last := decide (x.passes ≤ x.pass + 1)
  ((s.onTeam x.team (fun _ => passClean x r.1)).onTask x.id (fun y =>
    { y with pass := y.pass + 1, since := s.cycle, stage := if last then .draining else .active, poisoned := y.poisoned || hurt })).setArray quad
      (some { quad := quad, task := x.id, words := r.2, clean := fresh || (mine.map (fun a => a.clean)).getD false })

/-- PASS_GRANT (R119, R120): one pass of the chosen task. In an assay context the pass runs twice, and the results agree (R385); `.pass` in the agenda is a second run that does
not. -/
def execPassGrant (quad : Nat) (s : State) : Out3 :=
  .next (match s.arbiter quad with
    | some x => s.pass quad x
    | none => s)

/-- Raises a fault in lanes `m` of a group that are held at an instruction: they are FAULTED with their PC there (R360, R382). -/
def State.faultHeld (s : State) (uid : Nat) (m : QWord) (x : FaultInfo) : State :=
  match s.group uid with
  | none => s
  | some g =>
    let pc := ((lanesOf m).head?.map (fun l => (g.lanes.getD l default).pc)).getD 0
    let rec_ : PFault :=
      { id := s.nextId, gid := uid, walk := 0, cause := x.cause, access := x.access, replay := x.replayable, tout := x.tout, level := x.level,
        asid := s.asidOf g, rqtag := (s.gridOf (s.team g.team)).rqtag, pc := x.from_.getD pc, addr := x.addr, lanes := m, unit := coreUnit (s.unitOf g),
        gslot := g.slot, bench := g.bench % 2, time := s.gtime (s.dieOf g), rsn := x.rsn, rcause := x.rcause, recVA := 0, written := false }
    let s1 := s.onGroup uid (fun g =>
      { g with lanes := mapLanes (fun l y => if m.getLsbD l then { y with st := .faulted, hold := .none, waitCount := 0 } else y) 0 g.lanes })
    { s1 with faults := s1.faults ++ [rec_], nextId := s.nextId + 1 }

/-- The lanes of a group that wait in BARRIER on a code. -/
def barWaiters (g : Group) (code : Nat) : QWord :=
  maskOf (((numbered 0 g.lanes).filter (fun p => match p.2.hold with | .barrier c _ => c == code | _ => false)).map (fun p => p.1))

/-- A task that consumed poison (R382): the lanes of its group that wait on its SIG barrier take POISON; those at WAIT execute it again and
take it there; when no lane waits the mark stays with the group. -/
def State.tilePoison (s : State) (x : Task) : State :=
  let sig := tileSig x.t
  let va : DWord := BitVec.ofNat 64 (tileC x.t)
  match s.group x.gid with
  | none => s
  | some g =>
    let m := barWaiters g sig
    if sig ≠ 63 ∧ m ≠ 0 then s.faultHeld x.gid m { cause := .poison, addr := va }
    else s.onGroup x.gid (fun g =>
      { g with
        hurt := g.hurt ++ [(sig, va)]
        lanes := g.lanes.map (fun l =>
          match l.hold with
          | .wait _ _ _ t _ => if t = 63 then l else l.wake s.cycle l.pc
          | _ => l) })

/-- TASK_COMPLETE (R120, R122): what the array still keeps of the task goes to CBUF; then the signal, before any bench of the core cycle has had its turn (R46), then the counted operation. -/
def execTaskComplete (id : Nat) (s : State) : Out3 :=
  .next (match s.task id with
    | some x =>
      if x.stage = .draining ∧ (s.turn = 0 ∨ tileSig x.t = 63) then
        let s0 := if (s.array x.quad).any (fun a => a.task == id) then s.writeArray x.quad else s
        let s1 := { s0 with tasks := s0.tasks.filter (fun y => y.id != id) }
        let s2 := if x.poisoned then s1.tilePoison x else s1
        (s2.signal x.team (tileSig x.t)).closeOp x.gid x.op
      else s
    | none => s)

end Sys2Proof.Machine
end

