-- ==== Sys2Proof/Machine/Store.lean ====
section
/-! DEFINITION. The function store: descriptors, keys, records, FCALL, FPROBE, FRET, FINVAL and FSTAT, and the slices' steps
(R129 to R143, R271 to R275, R300, R301). -/

namespace Sys2Proof.Machine

/-! Descriptors (R130) -/

def rdN (d : BitVec 1024) : Nat := bitsOf d 32 4
def rdM (d : BitVec 1024) : Nat := bitsOf d 36 4
def rdQuota (d : BitVec 1024) : Nat := bitsOf d 40 5
/-- ENTRY of a routine descriptor as a PC, whose bits [1:0] are zero (R166, log 131). -/
def rdEntry (d : BitVec 1024) : DWord := d.extractLsb' 64 64 &&& ~~~3
def rdPitch (d : BitVec 1024) (i : Nat) : Int := (d.extractLsb' (128 + 8 * i) 8).toInt
def rdAtol (d : BitVec 1024) : Word := d.extractLsb' 192 32
def rdRtol (d : BitVec 1024) : Word := d.extractLsb' 224 32
def rdR0 (d : BitVec 1024) (i : Nat) : Word := d.extractLsb' (256 + 32 * i) 32
def rdRmax (d : BitVec 1024) (i : Nat) : Word := d.extractLsb' (512 + 32 * i) 32

/-- What a handle's table entry gives: the descriptor, STOREDESC, or nothing yet in HOST mode. -/
inductive Desc (n : Nat) where
  | ok (d : BitVec n)
  | bad
  | awaited

/-- A descriptor of `n` bits from a context's table of `count` entries at `base`, checked as R130 says. A table entry that is not mapped counts as
invalid (log 34). -/
def State.tableDesc (s : State) (n : Nat) (asid die base count handle : Nat) : Desc n :=
  let w := sysWho asid die
  let va := base + n / 8 * handle
  if count ≤ handle then .bad
  else match s.reach w .load va with
  | .awaited => .awaited
  | _ =>
    match s.readWords w va (n / 64) with
    | none => .bad
    | some x =>
      let d : BitVec n := BitVec.ofNat n x
      if bitAt d 63 ∧ bitsOf d 16 12 = asid then .ok d else .bad

/-- The routine descriptor of a handle as a group sees it. -/
def State.routine (s : State) (g : Group) (handle : Nat) : Desc 1024 :=
  let c := s.ctx (s.asidOf g)
  s.tableDesc 1024 (s.asidOf g) (s.dieOf g) (bitsOf c.desc 256 64) (bitsOf c.desc 384 16) handle

/-! Keys (R134) -/

/-- True for a finite FP32 pattern. -/
def finite32 (x : Word) : Bool := (x.extractLsb' 23 8) != 255

/-- A finite FP32 pattern in units of 2^−149. -/
def fix32 (x : Word) : Int :=
  match Fp.decode Fp.f32 x.toNat with
  | .fin neg m e => Fp.signed neg (m * 2 ^ (e + 149).toNat)
  | _ => 0

/-- floor(x × 2^−k) of a finite pattern. -/
def cellOf (k : Int) (x : Word) : Int := let z := fix32 x * 2 ^ (1000 - k).toNat; z / 2 ^ 1149

/-- The cells of an argument vector; none for NOKEY. -/
def cellsOf (d : BitVec 1024) (x : List Word) : Option (List Int) :=
  let cs := (x.zip (List.range x.length)).map (fun p => cellOf (rdPitch d p.2) p.1)
  if x.all finite32 ∧ cs.all (fun c => decide (-(2 ^ 31) ≤ c) && decide (c ≤ 2 ^ 31 - 1)) then some cs else none

/-- The cell key. -/
def cellKey (handle asid : Nat) (cs : List Int) : DWord :=
  cs.foldl (fun h c => (h ^^^ (BitVec.ofInt 32 c).setWidth 64) * 6364136223846793005 + 1442695040888963407)
    (BitVec.ofNat 64 (handle + asid * 2 ^ 16))

/-- Store sets of a slice: 16 consecutive L2 sets each (R131). -/
def setsPerSlice : Nat := 256

def keySlice (h : DWord) : Nat := bitsOf h 60 4
def keySet (h : DWord) : Nat := bitsOf h 52 8 % setsPerSlice

/-- True for an L2 way that a die's class table reserves for its store (R131, R363). -/
def State.storeWay (s : State) (die way : Nat) : Bool := bitAt ((s.die die).classes.getD 0 classReset) (22 + way)

/-- The reserved ways of a slice that are in service (R131, R393). -/
def State.storeWays (s : State) (die slice : Nat) : List Nat :=
  (List.range 16).filter (fun i => s.storeWay die i && !s.mgmt.quarantine.contains (unitId 2 die (16 * slice + i)))

/-- Records a store set of a slice holds: 8 for each such way (R131). -/
def State.storeRoom (s : State) (die slice : Nat) : Nat := 8 * (s.storeWays die slice).length

/-! Counters (R143, R301) -/

/-- A counter of a routine on a die. -/
def State.fcounter (s : State) (die asid handle ix : Nat) : BitVec 32 :=
  ((s.fcnt.find? (fun p => p.1 == (die, asid, handle, ix))).map (fun p => p.2)).getD 0

/-- Counts one event. -/
def State.fbump (s : State) (die asid handle ix : Nat) : State :=
  { s with
    fcnt := s.fcnt.filter (fun p => p.1 != (die, asid, handle, ix)) ++ [((die, asid, handle, ix), s.fcounter die asid handle ix + 1)] }

/-- The event count of a slice (R133). -/
def State.eventCount (s : State) (die slice : Nat) : BitVec 32 := sget 0 s.ecnt (16 * die + slice)

/-- ECNT rises by one. -/
def State.tickSlice (s : State) (die slice : Nat) : State :=
  { s with ecnt := sput 0 s.ecnt (16 * die + slice) (s.eventCount die slice + 1) }

/-- The age of a stamp. -/
def ageOf (now stamp : BitVec 32) : Nat := (now - stamp).toNat

/-! The store's arithmetic (R135) -/

/-- d_i = x_i − x0_i, to nearest even. -/
def storeDiff (x x0 : Word) : Word :=
  BitVec.ofNat 32 (Fp.add Fp.f32 Fp.nearest (Fp.decode Fp.f32 x.toNat) (Fp.decode Fp.f32 x0.toNat).negate).1

/-- Magnitude pattern. -/
def mag32 (x : Word) : Word := x &&& 0x7FFFFFFF

/-- The differences from a record's centre. -/
def FRec.diffs (q : FRec) (x : List Word) : List Word := List.zipWith storeDiff x q.x0

/-- True when a record's region contains the argument. -/
def FRec.contains (q : FRec) (x : List Word) : Bool :=
  (List.zipWith (fun d r => decide (mag32 d ≤ mag32 r)) (q.diffs x) q.rad).all (fun b => b)

/-- The correction of result `j`. -/
def FRec.correct (q : FRec) (d : List Word) (j : Nat) : Word :=
  ((List.range q.n).foldl (fun y i =>
    BitVec.ofNat 32 (Fp.fma Fp.f32 Fp.nearest (Fp.decode Fp.f32 (q.jac.getD (j * q.n + i) 0).toNat) (Fp.decode Fp.f32 (d.getD i 0).toNat)
      (Fp.decode Fp.f32 y.toNat)).1) (q.y0.getD j 0))

/-- The results of a hit. -/
def FRec.answer (q : FRec) (x : List Word) : List Word := (List.range q.m).map (q.correct (q.diffs x))

/-- A record in the set a key names. -/
def FRec.inSet (q : FRec) (die slice set : Nat) : Bool := q.die == die && q.slice == slice && q.set == set

/-- A record matches an argument (R134): routine, context, key, and the cell of its centre. -/
def FRec.matches_ (q : FRec) (d : BitVec 1024) (handle asid : Nat) (key : DWord) (x : List Word) : Bool :=
  q.handle == handle && q.asid == asid && q.key == key && cellsOf d q.x0 == cellsOf d x

/-- Orders records newest INSSTAMP first. -/
def newestFirst (now : BitVec 32) (l : List FRec) : List FRec := l.mergeSort (fun a b => decide (ageOf now a.ins ≤ ageOf now b.ins))

/-! FCALL and FPROBE (R272) -/

/-- The argument registers of a lane. -/
def argsOf (x : Lane) (r n : Nat) : List Word := (List.range n).map (fun i => x.reg (r + i))

/-- A miss: FPROBE writes false and goes on; FCALL links and goes to ENTRY. The lane issues from the next core cycle on (R135). -/
def missLane (now : Nat) (probe : Option (BitVec 4)) (next entry : DWord) (x : Lane) : Lane :=
  match probe with
  | some p => (x.setPred p.toNat false).wake now next
  | none => (x.setPair 62 next).wake now entry

/-- A hit: the results, the predicate of FPROBE, and the next instruction. -/
def hitLane (now : Nat) (probe : Option (BitVec 4)) (next : DWord) (y : List Word) (x : Lane) : Lane :=
  let z := ((List.range y.length).zip y).foldl (fun (u : Lane) p => u.setReg (8 + p.1) p.2) x
  match probe with
  | some p => (z.setPred p.toNat true).wake now next
  | none => z.wake now next

/-- One lane's lookup: NOKEY is a miss at once, counted on the die; anything else visits its slice (R135). -/
def lookupLane (d : BitVec 1024) (handle bundle : Nat) (probe : Option (BitVec 4)) (len : Nat) (s : State) (p : Nat × Lane) : State :=
  let g := s.grp
  let die := s.dieOf g
  let asid := s.asidOf g
  let next := p.2.pc + BitVec.ofNat 64 len
  let x := argsOf p.2 0 (rdN d)
  match cellsOf d x with
  | none => (s.fbump die asid handle 1).onLane g.uid p.1 (missLane s.cycle probe next (rdEntry d))
  | some cs =>
    let h := cellKey handle asid cs
    let l : FLookup :=
      { id := s.nextId, bundle := bundle, gid := g.uid, lane := p.1, die := die, slice := keySlice h, set := keySet h, key := h,
        handle := handle, asid := asid, desc := d, x := x, probe := probe, next := next, entry := rdEntry d, ans := none }
    ({ s with lookups := s.lookups ++ [l], nextId := s.nextId + 1 }).onLane g.uid p.1 (fun y => { y with hold := .stall bundle })

/-- The handle an FST instruction names. -/
def handleOf (f : Fields) (s : State) : Nat := (sclVal s.grp f.b).toNat % 2 ^ 16

/-- An FST operation: nothing without a guard-true lane; then the handle checks (R271). -/
def fst (fn : BitVec 3) (f : Fields) (s : State) (body : BitVec 1024 → State → State) : Out3 :=
  run ⟨0x33, fn, 0⟩ f s (fun s =>
    if !s.anyActive f.gd then s.advance f.form.len
    else match s.routine s.grp (handleOf f s) with
      | .bad => raise .storedesc s
      | .awaited => s
      | .ok d => body d s)

/-- FCALL or FPROBE: the ranges that depend on the descriptor, then the lookups in ascending lane order (R271, R272, R300). -/
def lookups (f : Fields) (probe : Option (BitVec 4)) (d : BitVec 1024) (s : State) : State :=
  let used := [(0, rdN d), (8, rdM d)]
  if s.grp.vcount < max (rdN d) (8 + rdM d) then raise .regrange s
  else match markedFault f.gd used s with
  | some i => raiseWith i s
  | none =>
    let s1 := { (s.passFalse f) with nextId := s.nextId + 1 }
    (s.actives f.gd).foldl (lookupLane d (handleOf f s) s.nextId probe f.form.len) s1

/-- FCALL (R272). -/
def execFcall (f : Fields) (s : State) : Out3 := fst 0 f s (lookups f none)

/-- FPROBE (R272). -/
def execFprobe (f : Fields) (s : State) : Out3 :=
  fst 1 f s (lookups f (some (match f.d with | .prd p => p | _ => 0)))

/-! FRET (R273, R137) -/

/-- One lane's insert; NOKEY or a non-finite f or J sends nothing and counts a rejected insert (R137). -/
def insertLane (d : BitVec 1024) (handle : Nat) (s : State) (p : Nat × Lane) : State :=
  let g := s.grp
  let die := s.dieOf g
  let asid := s.asidOf g
  let x := argsOf p.2 0 (rdN d)
  let fs := argsOf p.2 8 (rdM d)
  let js := argsOf p.2 16 (rdN d * rdM d)
  match cellsOf d x with
  | some cs =>
    if fs.all finite32 ∧ js.all finite32 then
      let h := cellKey handle asid cs
      let i : FInsert :=
        { id := s.nextId, gid := g.uid, lane := p.1, die := die, core := s.unitOf g, slice := keySlice h, set := keySet h, key := h, handle := handle,
          asid := asid, desc := d, x := x, f := fs, j := js }
      ({ s with inserts := s.inserts ++ [i], nextId := s.nextId + 1 }).scbNote s.nextId .insert 0 h ((x ++ fs ++ js).map (fun (w : Word) => w.setWidth 128))
    else s.fbump die asid handle 6
  | none => s.fbump die asid handle 6

/-- FRET (R273). -/
def execFret (f : Fields) (s : State) : Out3 :=
  fst 2 f s (fun d s =>
    match markedFault f.gd [(0, rdN d), (8, rdM d)] s with
    | some i => raiseWith i s
    | none =>
      match (s.actives f.gd).find? (fun p => bitsOf (p.2.pair 62) 0 2 ≠ 0) with
      | some p => raiseWith { cause := .align, addr := p.2.pair 62 } s
      | none =>
        let s1 := (s.actives f.gd).foldl (insertLane d (handleOf f s)) s
        s1.onLanes (fun l x =>
          if s.inBundle l then
            if guardOf f.gd x then { x with pc := x.pair 62 } else { x with pc := x.pc + BitVec.ofNat 64 f.form.len }
          else x))

/-! Held bundles (R268) -/

/-- The dies that are live. -/
def State.liveDies (s : State) : List Nat := (List.range 16).filter (fun d => (s.die d).state == 1)

/-- Holds the guard-true lanes of the bundle by a structural stall until waiter `k` is answered; the others advance (R268). -/
def State.holdFor (s : State) (f : Fields) (k : WaitKind) (owed : List Nat) : State :=
  let id := s.nextId
  let m := s.activeMask f.gd
  let w : Waiter :=
    { id := id, gid := s.grp.uid, lanes := m, next := s.bundle.pc + BitVec.ofNat 64 f.form.len, kind := k, owed := owed }
  let s1 := (s.passFalse f).onLanes (fun l x => if m.getLsbD l then { x with hold := .stall id } else x)
  { s1 with waiters := s1.waiters ++ [w], nextId := id + 1 }

/-- The waiter with a number. -/
def State.waiter (s : State) (id : Nat) : Option Waiter := s.waiters.find? (fun w => w.id == id)

/-- The lanes of a waiter leave together, to issue from the next core cycle on, and it is forgotten (R268). -/
def State.leave (s : State) (w : Waiter) : State :=
  ({ s with waiters := s.waiters.filter (fun x => x.id != w.id) }).onGroup w.gid (fun g =>
    { g with lanes := mapLanes (fun l x =>
        match x.hold with
        | .stall i => if w.lanes.getLsbD l && i == w.id then x.wake s.cycle w.next else x
        | _ => x) 0 g.lanes })

/-- An answer reaches a waiter. -/
def State.answered (s : State) (id from_ : Nat) : State :=
  { s with waiters := updBy (fun w => w.id == id) (fun w => { w with owed := w.owed.filter (fun d => d != from_) }) s.waiters }

/-- FINVAL (R274, R142). -/
def execFinval (f : Fields) (s : State) : Out3 :=
  fst 3 f s (fun _ s => s.holdFor f (.finval (s.asidOf s.grp) (handleOf f s)) s.liveDies)

/-- FSTAT (R275). -/
def execFstat (f : Fields) (s : State) : Out3 :=
  fst 4 f s (fun _ s =>
    let ix := numOf f.a % 64
    if 7 < ix then raise .illegal s
    else (s.setScl (sclNum f.d) ((s.fcounter (s.dieOf s.grp) (s.asidOf s.grp) (handleOf f s) ix).setWidth 64)).advance f.form.len)

/-! The slices' steps -/

/-- What a core, or a lane wherever it runs now, sent to one slice before reaches it first (R52, R139). -/
def State.sliceTurn (s : State) (die core gid lane slice id : Nat) : Bool :=
  !(s.inserts.any (fun i => decide (i.id < id) && i.die == die && i.slice == slice && (i.core == core || (i.gid == gid && i.lane == lane)))) &&
  !(s.lookups.any (fun l => decide (l.id < id) && l.die == die && l.slice == slice && l.ans.isNone &&
      ((s.group l.gid).map (fun g => s.unitOf g)) == some core))

/-- Examines matching records in order: those with an uncorrectable error are dropped, and the first that contains the argument hits. -/
def examine (x : List Word) (bad : FRec → Bool) : List FRec → List FRec × Option FRec
  | [] => ([], none)
  | q :: rest =>
    if bad q then let (b, h) := examine x bad rest; (q :: b, h)
    else if q.contains x then ([], some q)
    else examine x bad rest

/-- The records of a set in the order the store lists them, with their places. -/
def State.setRecs (s : State) (die slice set : Nat) : List FRec := s.frecs.filter (fun q => q.inSet die slice set)

/-- STORE_LOOKUP (R135, R136): `ecc` gives the places in its store set of records that hold an uncorrectable error. -/
def execStoreLookup (id : Nat) (ecc : List Nat) (s : State) : Out3 :=
  .next (match s.lookups.find? (fun l => l.id == id) with
    | none => s
    | some l =>
      let core := ((s.group l.gid).map (fun g => s.unitOf g)).getD 0
      if l.ans.isSome ∨ !s.sliceTurn l.die core l.gid l.lane l.slice id then s else
      let now := s.eventCount l.die l.slice
      let set := s.setRecs l.die l.slice l.set
      let bad (q : FRec) : Bool := ecc.any (fun i => set[i]? == some q)
      let (dropped, hit) := examine l.x bad (newestFirst now (set.filter (fun q => q.matches_ l.desc l.handle l.asid l.key l.x)))
      let s1 := dropped.foldl (fun t q => { (t.fbump l.die l.asid l.handle 7) with frecs := t.frecs.erase q }) s
      let answer (a : Option (List Word)) (t : State) : State :=
        { t with lookups := updBy (fun y => y.id == id) (fun y => { y with ans := some a }) t.lookups }
      match hit with
      | some q =>
        let s2 := { s1 with frecs := updFirst (fun r => r == q) (fun r => { r with hit := now }) s1.frecs }
        answer (some (q.answer l.x)) ((s2.tickSlice l.die l.slice).fbump l.die l.asid l.handle 0)
      | none => answer none (s1.fbump l.die l.asid l.handle 1))

/-- LOOKUP_ANSWER (R272, R300): when every lookup of the bundle at one slice has its answer, their lanes leave. -/
def execLookupAnswer (id : Nat) (s : State) : Out3 :=
  .next (match s.lookups.find? (fun l => l.id == id) with
    | none => s
    | some l =>
      let mates := s.lookups.filter (fun y => y.bundle == l.bundle && y.slice == l.slice)
      if mates.any (fun y => y.ans.isNone) then s else
      let go (t : State) (y : FLookup) : State :=
        t.onLane y.gid y.lane (fun x =>
          if x.hold = .stall y.bundle then
            match y.ans with
            | some (some r) => hitLane s.cycle y.probe y.next r x
            | _ => missLane s.cycle y.probe y.next y.entry x
          else x)
      mates.foldl go { s with lookups := s.lookups.filter (fun y => !(y.bundle == l.bundle && y.slice == l.slice)) })

/-- The excess of an argument over a record, in units of 2^−149 (R138). -/
def FRec.excess (q : FRec) (x : List Word) : Int :=
  match List.zipWith (fun d r => fix32 (mag32 d) - fix32 r) (q.diffs x) q.rad with
  | [] => 0
  | z :: zs => zs.foldl max z

/-- The record to grow: least excess, then newest INSSTAMP. -/
def nearest (now : BitVec 32) (x : List Word) (c : List FRec) : Option FRec :=
  (newestFirst now c).foldl (fun b q =>
    match b with
    | some y => if q.excess x < y.excess x then some q else some y
    | none => some q) none

/-- The growth tests: |d_i| ≤ rmax_i, and each prediction within the tolerances, exactly (R138). -/
def mayGrow (d : BitVec 1024) (q : FRec) (i : FInsert) : Bool :=
  let ds := q.diffs i.x
  (ds.zip (List.range ds.length)).all (fun p => decide (mag32 p.1 ≤ mag32 (rdRmax d p.2))) &&
  (i.f.zip (List.range i.f.length)).all (fun p =>
    let y := q.correct ds p.2
    finite32 y && decide ((fix32 y - fix32 p.1).natAbs * 2 ^ 149 ≤ (fix32 (mag32 (rdAtol d))).toNat * 2 ^ 149 +
      (fix32 (mag32 (rdRtol d))).toNat * (fix32 p.1).natAbs))

/-- The record with the oldest HITSTAMP, and of those the older INSSTAMP. -/
def oldest (now : BitVec 32) (l : List FRec) : Option FRec :=
  l.foldl (fun b q =>
    match b with
    | some y => if ageOf now y.hit < ageOf now q.hit ∨ (ageOf now y.hit = ageOf now q.hit ∧ ageOf now y.ins < ageOf now q.ins) then some q else some y
    | none => some q) none

/-- The way that takes a new record of a set: the lowest in service with room; which one is not architectural (log 116). -/
def State.freeWay (s : State) (die slice set : Nat) : Nat :=
  ((s.storeWays die slice).find? (fun w => decide (((s.setRecs die slice set).filter (fun q => q.way == w)).length < 8))).getD 0

/-- Inserts a new record after the eviction it needs (R138). -/
def State.newRecord (s : State) (d : BitVec 1024) (i : FInsert) : State :=
  let now := s.eventCount i.die i.slice
  let set := s.setRecs i.die i.slice i.set
  let own := set.filter (fun q => q.handle == i.handle && q.asid == i.asid)
  let victim := if rdQuota d ≤ own.length then oldest now own
    else if s.storeRoom i.die i.slice ≤ set.length then oldest now set else none
  let s1 := match victim with
    | some q => { (s.fbump i.die q.asid q.handle 5) with frecs := s.frecs.erase q }
    | none => s
  let r : FRec :=
    { die := i.die, slice := i.slice, set := i.set, way := s1.freeWay i.die i.slice i.set, handle := i.handle, asid := i.asid, n := rdN d, m := rdM d, ins := now, hit := now,
      key := i.key, x0 := i.x, rad := (List.range (rdN d)).map (rdR0 d), y0 := i.f, jac := i.j }
  ({ s1 with frecs := s1.frecs ++ [r] }.tickSlice i.die i.slice).fbump i.die i.asid i.handle 2

/-- STORE_INSERT (R138): a duplicate, a growth, or an insertion with its eviction; in an assay context once its shadow agrees (R141). It finds no uncorrectable error in
the records it examines (log 101). -/
def execStoreInsert (id : Nat) (s : State) : Out3 :=
  .next (match s.inserts.find? (fun i => i.id == id) with
    | none => s
    | some i =>
      if !s.sliceTurn i.die i.core i.gid i.lane i.slice id ∨ s.unmatched i.gid id then s else
      let s0 := { s with inserts := s.inserts.filter (fun j => j.id != id) }
      if s.storeRoom i.die i.slice = 0 then s0.fbump i.die i.asid i.handle 6 else
      let now := s.eventCount i.die i.slice
      let d := i.desc
      let c := (s.setRecs i.die i.slice i.set).filter (fun q => q.matches_ d i.handle i.asid i.key i.x)
      if c.any (fun q => q.contains i.x) then s0.fbump i.die i.asid i.handle 4 else
      match nearest now i.x c with
      | some q =>
        if mayGrow d q i then
          let grown : FRec := { q with rad := List.zipWith (fun r e => if fix32 r ≤ fix32 (mag32 e) then mag32 e else r) q.rad (q.diffs i.x), hit := now }
          ({ s0 with frecs := updFirst (fun r => r == q) (fun _ => grown) s0.frecs }.tickSlice i.die i.slice).fbump i.die i.asid i.handle 3
        else s0.newRecord d i
      | none => s0.newRecord d i)

/-- STORE_INVALIDATE (R142): a die invalidates the handle's records and acknowledges. -/
def execStoreInvalidate (die v : Nat) (s : State) : Out3 :=
  .next (match s.waiter v with
    | some w =>
      match w.kind with
      | .finval asid handle =>
        if w.owed.contains die then
          { (s.answered v die) with frecs := s.frecs.filter (fun q => !(q.die == die && q.asid == asid && q.handle == handle)) }
        else s
      | _ => s
    | none => s)

/-- FINVAL_DONE (R274): every die has acknowledged. -/
def execFinvalDone (v : Nat) (s : State) : Out3 :=
  .next (match s.waiter v with
    | some w =>
      match w.kind with
      | .finval _ _ => if w.owed.isEmpty then s.leave w else s
      | _ => s
    | none => s)

end Sys2Proof.Machine
end

