-- ==== Sys2Proof/Machine/Objects.lean ====
section
/-! DEFINITION. Replayed objects: OCALL, OSYNC, ORET and OSTAT, the log, replay, checkpoints and their votes (R144 to R155, R276 to R279,
R394). -/

namespace Sys2Proof.Machine

/-! Objects -/

def odLogHome (d : BitVec 512) : Nat := bitsOf d 32 4
def odLogLg (d : BitVec 512) : Nat := bitsOf d 36 5
def odMethods (d : BitVec 512) : Nat := bitsOf d 41 6 + 1
def odLogVA (d : BitVec 512) : Nat := bitsOf d 64 64
def odInitVA (d : BitVec 512) : Nat := bitsOf d 128 64
def odMtabVA (d : BitVec 512) : Nat := bitsOf d 256 64

/-- The installed object of a handle in a context. -/
def State.object (s : State) (asid handle : Nat) : Option Obj := s.objs.find? (fun o => o.asid == asid && o.handle == handle)

/-- The object with a number. -/
def State.objAt (s : State) (id : Nat) : Option Obj := s.objs.find? (fun o => o.id == id)

/-- Changes an object. -/
def State.onObj (s : State) (id : Nat) (f : Obj → Obj) : State := { s with objs := updBy (fun o => o.id == id) f s.objs }

/-- Changes a die's copy of an object. -/
def State.onOcopy (s : State) (die obj : Nat) (f : ObjCopy → ObjCopy) : State :=
  { s with ocopies := updBy (fun c => c.die == die && c.obj == obj) f s.ocopies }

/-- The dies that may take part in votes: live, with their replay engine in service (R394). -/
def State.voters (s : State) : List Nat := s.liveDies.filter (fun d => !s.mgmt.quarantine.contains (replayUnit d))

/-- The dies that take part in the votes of an object: those of R394 whose copies are not waiting for a checkpoint to load, as R402 has it of a restored engine
(log 124). -/
def State.votersOf (s : State) (obj : Nat) : List Nat := s.voters.filter (fun d => (s.ocopy d obj).resync.isNone)

/-- The die on whose copy of an object a die's calls run: its own, or the lowest-numbered voting die when its replay engine is quarantined (R394). -/
def State.copyDie (s : State) (die obj : Nat) : Nat :=
  if s.mgmt.quarantine.contains (replayUnit die) then (s.votersOf obj).head?.getD die else die

/-- A call that ends: the lane takes its status, and the call is forgotten. -/
def State.endCall (s : State) (c : Call) (status cause : Nat) : State :=
  (deliverCall c status cause [] { s with calls := s.calls.filter (fun x => x.id != c.id) }).dropObjCopies

/-- The object fails: every pending call returns FAILED (R155). -/
def State.failObject (s : State) (id : Nat) : State :=
  let s1 := s.onObj id (fun o => { o with failed := true })
  (s.calls.filter (fun c => c.obj == id)).foldl (fun t c => t.endCall c 4 0) s1

/-- A copy stops applying until checkpoint `k` or a later one is agreed (R154): what the die's replay engine runs of the object is given up, and a read-only call of
it waits again. -/
def State.stopCopy (s : State) (die obj k : Nat) : State :=
  let runs (g : Group) : Bool := (g.method.map (fun m => (m.die, m.obj))) == some (die, obj)
  let halt (g : Group) : Group := if runs g then { g with lanes := g.lanes.map (fun x => { x with st := .exited }) } else g
  let again (c : Call) : Call := match c.stage with
    | .running t => if c.on == die && c.obj == obj then { c with stage := .tail t } else c
    | _ => c
  { (s.onOcopy die obj (fun c => { c with resync := some k })) with
    grp := halt s.grp, groups := s.groups.map halt, calls := s.calls.map again }

/-- The first checkpoint that is not agreed yet may be any later than the last agreed one. -/
def Obj.nextAgreed (o : Obj) : Nat := (o.agreed.map (fun a => a + 1)).getD 0

/-- Every copy of a die stops applying and resynchronizes at the next agreed checkpoint of its object (R154, R382). -/
def State.stopCopies (s : State) (die : Nat) : State := s.objs.foldl (fun t o => t.stopCopy die o.id o.nextAgreed) s

/-- With fewer than three dies taking part every object is FAILED (R394). -/
def State.failThin (s : State) : State := if s.voters.length < 3 then s.objs.foldl (fun t o => if o.failed then t else t.failObject o.id) s else s

/-! OCALL, OSYNC, ORET, OSTAT -/

/-- An OBJ operation beside ORET: nothing without a guard-true lane; then the handle checks (R276). -/
def objOp (fn : BitVec 3) (f : Fields) (s : State) (body : Obj → State → State) : Out3 :=
  run ⟨0x34, fn, 0⟩ f s (fun s =>
    if !s.anyActive f.gd then s.advance f.form.len
    else
      let asid := s.asidOf s.grp
      let c := s.ctx asid
      let h := (sclVal s.grp f.b).toNat % 2 ^ 16
      match s.tableDesc 512 asid (s.dieOf s.grp) (bitsOf c.desc 320 64) (bitsOf c.desc 400 16) h with
      | .awaited => s
      | .bad => raise .storedesc s
      | .ok _ =>
        match s.object asid h with
        | some o => body o s
        | none => raise .storedesc s)

/-- The arguments of a call: pairs v0:v1 to v6:v7, zero beyond NARGS (R146). -/
def callArgs (x : Lane) (n : Nat) : List DWord := (List.range 4).map (fun a => if a < n then x.pair (2 * a) else 0)

/-- One lane's call (R146 to R148): FAILED or BADMETHOD at once, an append for a mutating method, a read of the tail otherwise. In an assay context the append waits
for its shadow (R159). -/
def callLane (o : Obj) (sync : Bool) (method : Nat) (s : State) (p : Nat × Lane) : State :=
  let g := s.grp
  let die := s.dieOf g
  let (_, mut_, nargs, _) := o.mtab.getD method (0, false, 0, 0)
  let c : Call :=
    { id := s.nextId, gid := g.uid, lane := p.1, slot := 16 * (g.bench % 2) + g.slot, core := s.coreOf g, die := die, on := s.copyDie die o.id, obj := o.id,
      sync := sync, method := method, args := callArgs p.2 nargs, stage := .asked, at_ := s.gtime die, tries := 0 }
  let s1 := { s with nextId := s.nextId + 1 }
  if o.failed then deliverCall c 4 0 [] s1
  else if !sync && decide (odMethods o.desc ≤ method) then deliverCall c 5 0 [] s1
  else
    let pend : Pend := if sync then { reg := 12, n := 1, src := c.id } else { reg := 8, n := 5, src := c.id }
    let s2 := ({ s1 with calls := s1.calls ++ [c] }).onLane g.uid p.1 (fun x => { x with pend := x.pend ++ [pend] })
    if mut_ && !sync then (s2.scbNote c.id .append 0 (BitVec.ofNat 64 method) (c.args.map (fun x => x.setWidth 128))).newRop die (odLogHome o.desc) (s.tagOf g.uid) (.append c) else s2

/-- OCALL (R277): each guard-true lane makes its own call and advances. -/
def execOcall (f : Fields) (s : State) : Out3 :=
  objOp 0 f s (fun o s =>
    let method := bitsOf (sclVal s.grp f.b) 16 6
    let nargs := (o.mtab.getD method (0, false, 0, 0)).2.2.1
    match markedFault f.gd [(0, 2 * nargs)] s with
    | some i => raiseWith i s
    | none => (s.actives f.gd).foldl (callLane o false method) (s.advance f.form.len))

/-- OSYNC (R277). -/
def execOsync (f : Fields) (s : State) : Out3 :=
  objOp 1 f s (fun o s => (s.actives f.gd).foldl (callLane o true 0) (s.advance f.form.len))

/-- ORET (R278, R151): ends the entry or read-only call with the results in v8 to v11, zero beyond NRES; ILLEGAL anywhere but on a replay
engine. -/
def execOret (f : Fields) (s : State) : Out3 :=
  run ⟨0x34, 2, 0⟩ f s (fun s =>
    match s.elect f.gd with
    | none => s.advance f.form.len
    | some (_, x) =>
      match s.grp.method with
      | none => raise .illegal s
      | some m =>
        endMethod m 0 ((List.range 4).map (fun i => if i < 2 * m.nres then x.reg (8 + i) else 0)) s)

/-- OSTAT (R279, Table 9). -/
def execOstat (f : Fields) (s : State) : Out3 :=
  objOp 3 f s (fun o s =>
    let ix := numOf f.a % 64
    let c := s.ocopy (s.dieOf s.grp) o.id
    let v : Nat :=
      match ix with
      | 0 => c.applied % 2 ^ 48
      | 1 => if o.failed then 2 else if c.resync.isSome then 1 else 0
      | 2 => c.traps.toNat
      | _ => c.resyncs.toNat
    if 3 < ix then raise .illegal s else (s.setScl (sclNum f.d) (BitVec.ofNat 64 v)).advance f.form.len)

/-! The log (R147, R150, R153) -/

/-- The call with a number. -/
def State.call (s : State) (id : Nat) : Option Call := s.calls.find? (fun c => c.id == id)

/-- CALLER (R150): the lane, group slot, core and die of a call. -/
def callerOf (c : Call) : Nat := c.lane + c.slot * 2 ^ 8 + c.core * 2 ^ 13 + c.die * 2 ^ 20

/-- The bytes of a log entry (R150) as one value, from the call and its numbered operation's REQID and RSN. -/
def logEntry (seq : Nat) (c : Call) (reqid rsn : Nat) : Nat :=
  let w0 := seq % 2 ^ 48 + c.method % 64 * 2 ^ 48
  let w1 := callerOf c + reqid * 2 ^ 24 + rsn * 2 ^ 32
  w0 + 2 ^ 64 * w1 + (((List.range 4).zip c.args).map (fun p => p.2.toNat * 2 ^ (128 + 64 * p.1))).foldl (· + ·) 0

/-- The address of entry `seq`. -/
def logAt (o : Obj) (seq : Nat) : Nat := odLogVA o.desc + seq % 2 ^ odLogLg o.desc * 64

/-- True for the receipt of a numbered request at its owner. -/
def Receipt.is (x : Receipt) (owner reqid : Nat) (rsn : BitVec 32) : Bool := x.owner == owner && x.reqid == reqid && x.rsn == rsn

/-- The receipt of a numbered request at its owner. -/
def State.receiptAt (s : State) (owner reqid : Nat) (rsn : BitVec 32) : Option Receipt := s.receipts.find? (fun x => x.is owner reqid rsn)

/-- A reply to copy `copy` of a numbered operation is on its way to the requester. -/
def State.replyCopy (s : State) (rop copy : Nat) (y : Reply) : State :=
  { s with rops := updBy (fun r => r.id == rop) (fun r => { r with replies := r.replies ++ [(copy, y)] }) s.rops }

/-- Changes the receipt that is `x`. -/
def State.onReceipt (s : State) (x : Receipt) (f : Receipt → Receipt) : State :=
  { s with receipts := updBy (fun y => y.is x.owner x.reqid x.rsn) f s.receipts }

/-- A receipt becomes DONE, and its reply goes to the requester (R158). -/
def State.receiptDone (s : State) (x : Receipt) (y : Reply) : State :=
  (s.onReceipt x (fun x => { x with done := some y })).replyCopy x.rop x.copy y

/-- The numbered operation that carries a call's append. -/
def State.appendRop (s : State) (call : Nat) : Option Rop :=
  s.rops.find? (fun r => match r.what with | .append c => c.id == call | _ => false)

/-- The receipt of a call's append at the log home. -/
def State.appendReceipt (s : State) (call : Nat) : Option (Receipt × Call) :=
  s.receipts.findSome? (fun x => match x.what with | .append c => if c.id == call then some (x, c) else none | _ => none)

/-- True for an append to an object that is still EXECUTING. -/
def Receipt.appends (x : Receipt) (obj : Nat) : Bool := x.done.isNone && (match x.what with | .append c => c.obj == obj | _ => false)

/-- The log home writes an entry of 64 bytes as four stores of 16 bytes (R64, R150). -/
def State.writeLog (s : State) (o : Obj) (seq x : Nat) : State :=
  let w := sysWho o.asid (odLogHome o.desc)
  match s.reach w .store (logAt o seq) with
  | .page e => (List.range 4).foldl (fun t i => t.putAt w (s.frameAt w e (logAt o seq + 16 * i) 16) 16 (x / 2 ^ (128 * i) % 2 ^ 128)) s
  | _ => s

/-- An append that finds the ring full is answered HELD (R153). -/
def State.holdAppend (s : State) (x : Receipt) : State :=
  if s.rops.any (fun r => r.id == x.rop && (r.isHeld || r.replies.any (fun p => p.2 == .held))) then s else s.replyCopy x.rop x.copy .held

/-- The log home appends the call whose receipt is `x`: it takes the next SEQ and is written to the ring, or it is held while the ring is full (R147, R153). -/
def State.append (s : State) (o : Obj) (x : Receipt) (c : Call) : State :=
  if o.next - o.trim = 2 ^ odLogLg o.desc then s.holdAppend x
  else if s.reach (sysWho o.asid (odLogHome o.desc)) .store (logAt o o.next) = .awaited then s
  else
    ((s.writeLog o o.next (logEntry o.next c x.reqid x.rsn.toNat)).onObj o.id (fun o => { o with next := o.next + 1 })).receiptDone x
      (.result (BitVec.ofNat 128 o.next) 0)

/-- LOG_APPEND (R147, R153, R158): the log home executes the append of call `c`, in the order of arrival. An object that has failed, or is gone, takes no entry. -/
def execLogAppend (c : Nat) (s : State) : Out3 :=
  .next (match s.appendReceipt c with
    | some (x, k) =>
      if x.done.isSome then s else
      match s.objAt k.obj with
      | some o =>
        if o.failed then s.receiptDone x (.result 0 0)
        else if (s.receipts.takeWhile (fun y => y != x)).any (fun y => y.appends k.obj) then s
        else s.append o x k
      | none => s.receiptDone x (.result 0 0)
    | none => s)

/-- TAIL_READ (R148): the log home answers with the next SEQ to be given. -/
def execTailRead (c : Nat) (s : State) : Out3 :=
  .next (match s.call c with
    | some k =>
      match s.objAt k.obj with
      | some o =>
        let readOnly := k.sync || !(o.mtab.getD k.method (0, false, 0, 0)).2.1
        if k.stage = .asked ∧ readOnly ∧ (s.die (odLogHome o.desc)).state = 1 then
          { s with calls := updBy (fun x => x.id == c) (fun x => { x with stage := .tail o.next }) s.calls }
        else s
      | none => s
    | none => s)

/-! Replay (R151, R152) -/

/-- True while the replay engine of a die runs a method. -/
def State.engineBusy (s : State) (die : Nat) : Bool :=
  s.allGroups.any (fun g => ((g.method.map (fun m => m.die)) == some die) && g.lanes.any (fun x => x.st != .exited))

/-- The bench number of a die's replay engine. -/
def replayBench (die : Nat) : Nat := 16384 + die

/-- Starts a method (R151): one group of WIDTH 1 and VCOUNT 256 with the register state of R11, s0 zero, and the arguments in v0 to v7. -/
def State.startMethod (s : State) (die : Nat) (o : Obj) (ix : Nat) (args : List DWord) (seq call : Nat) (mutates : Bool) : State :=
  let (entry, _, _, nres) := o.mtab.getD ix (0, false, 0, 0)
  let lane := ((List.range 4).zip args).foldl (fun (x : Lane) p => x.setPair (2 * p.1) p.2) (Lane.start (entry &&& ~~~3))
  let m : Method :=
    { die := die, obj := o.id, seq := seq, call := call, mutates := mutates, nres := nres, ran := 0, undo := (s.ocopy die o.id).bytes }
  let g : Group :=
    { Group.none with
      uid := s.nextId, bench := replayBench die, order := s.nextId, width := 1, vcount := 256, lanes := [lane], method := some m }
  let gone (x : Group) : Bool := (x.method.map (fun m => m.die)) == some die
  { s with groups := s.groups.filter (fun x => !gone x) ++ [g], nextId := s.nextId + 1 }

/-- The call whose result entry `seq` of an object gives on a die: that of the caller the entry names (R150, R151). -/
def State.callerAt (s : State) (die : Nat) (o : Obj) (seq reqid rsn : Nat) : Option Call :=
  s.calls.find? (fun c => c.obj == o.id && !c.sync && c.on == die &&
    (c.stage == .numbered seq || ((s.appendRop c.id).map (fun r => (r.die, r.rsn.toNat))) == some (reqid, rsn)))

/-- A read-only call or OSYNC that waits for the entry the copy would apply next (R148). -/
def State.tailWaits (s : State) (die : Nat) (o : Obj) (applied : Nat) : Bool :=
  s.calls.any (fun c => c.obj == o.id && c.on == die &&
    (match c.stage with | .tail t => decide (t ≤ applied) | _ => false))

/-- A die replays while it takes part in votes, or while a call waits for its copy (R154, R394). -/
def State.replays (s : State) (die obj : Nat) : Bool := s.voters.contains die || s.calls.any (fun c => c.obj == obj && c.on == die)

/-- `n` bytes at a VA, in one page, hold poison. -/
def State.poisonedVA (s : State) (w : Who) (va n : Nat) : Bool :=
  match s.reach w .load va with
  | .page e => s.poisonedAt (e.phys va) n
  | _ => false

/-- REPLAY_APPLY (R151, R382): the die's replay engine starts the next entry of an object, or resynchronizes its copy when that entry is poisoned. -/
def execReplayApply (die obj : Nat) (s : State) : Out3 :=
  .next (match s.objAt obj with
    | some o =>
      let c := s.ocopy die obj
      if o.failed ∨ c.resync.isSome ∨ !s.replays die obj ∨ s.engineBusy die ∨ o.next ≤ c.applied ∨ s.tailWaits die o c.applied ∨
          !(s.ocopies.any (fun x => x.die == die && x.obj == obj)) then s
      else
        match s.readWords (sysWho o.asid die) (logAt o c.applied) 8 with
        | none => s
        | some x =>
          if s.poisonedVA (sysWho o.asid die) (logAt o c.applied) 64 then s.stopCopy die obj o.nextAgreed else
          let word (i : Nat) : Nat := x / 2 ^ (64 * i) % 2 ^ 64
          let args := (List.range 4).map (fun i => BitVec.ofNat 64 (word (2 + i)))
          let call := s.callerAt die o c.applied (word 1 / 2 ^ 24 % 256) (word 1 / 2 ^ 32)
          s.startMethod die o (word 0 / 2 ^ 48 % 64) args c.applied ((call.map (fun k => k.id)).getD 0) true
    | none => s)

/-- READ_ONLY_CALL (R148): once the copy has applied every entry below T, the engine runs the method, and an OSYNC returns OK. A copy that a resync took past T serves
it from its later state (log 126). -/
def execReadOnlyCall (id : Nat) (s : State) : Out3 :=
  .next (match s.call id with
    | some c =>
      match s.objAt c.obj, c.stage with
      | some o, .tail t =>
        let k := s.ocopy c.on c.obj
        if k.resync.isSome ∨ k.applied < t then s
        else if c.sync then s.endCall c 0 0
        else if s.engineBusy c.on then s
        else
          let s1 := { s with calls := updBy (fun x => x.id == id) (fun x => { x with stage := .running t }) s.calls }
          s1.startMethod c.on o c.method c.args k.applied id false
      | _, _ => s
    | none => s)

/-! Reports, checkpoints and votes (R153, R154, R394) -/

/-- The entries below which the log is trimmed: min(min A_d, C + 1) over the dies that take part in its votes (R153). -/
def trimOf (s : State) (o : Obj) : Nat :=
  match o.agreed with
  | none => 0
  | some c => ((s.votersOf o.id).map (fun d => sget 0 o.reports d)).foldl min (c + 1)

/-- Trims an object's log. -/
def State.retrim (s : State) (id : Nat) : State := s.onObj id (fun o => { o with trim := max o.trim (trimOf s o) })

/-- Core cycles of 1 µs. -/
def cyclesPerUs : Nat := 1200

/-- APPLIED_REPORT (R153): after an agreed digest, after 64 entries, or after 1 µs of idleness. -/
def execAppliedReport (die obj : Nat) (s : State) : Out3 :=
  .next (match s.objAt obj with
    | some o =>
      let c := s.ocopy die obj
      let told := sget 0 o.reports die
      let due := decide (told + 64 ≤ c.applied) || decide (c.idleSince + cyclesPerUs ≤ s.cycle) ||
        (match o.agreed with | some k => decide (told ≤ k) | none => false)
      if told < c.applied ∧ due then (s.onObj obj (fun o => { o with reports := sput 0 o.reports die c.applied })).retrim obj else s
    | none => s)

/-- One step of CRC-64 with the polynomial of R154. -/
def crcStep (c : DWord) : Nat → DWord
  | 0 => c
  | n + 1 => crcStep (if c.getLsbD 63 then (c <<< 1) ^^^ 0x42F0E1EBA9EA3693 else c <<< 1) n

/-- The CRC-64 of `n` bytes of a state block from byte `a` on. -/
def crc64 (m : Sparse Byte) (c : DWord) (a : Nat) : Nat → DWord
  | 0 => c
  | n + 1 => crc64 m (crcStep (c ^^^ (((rdByte m a).setWidth 64) <<< 56)) 8) (a + 1) n

/-! Interrupts (R352, R375) -/

/-- Word `i` of H0's MSI-X table, four words to a vector; word 3 is the vector control, whose bit 0 masks, set at reset as PCIe has it (log 136). -/
def Hub.tableAt (h : Hub) (i : Nat) : Word := sget (if i % 4 = 3 then 1 else 0) h.table i

/-- Sets a word of the table. -/
def Hub.setTable (h : Hub) (i : Nat) (x : Word) : Hub := { h with table := sput (if i % 4 = 3 then 1 else 0) h.table i x }

/-- A vector's mask bit, and setting it. -/
def Hub.isMasked (h : Hub) (v : Nat) : Bool := (h.tableAt (4 * v + 3)).getLsbD 0
def Hub.setMask (h : Hub) (v : Nat) (b : Bool) : Hub := h.setTable (4 * v + 3) ((h.tableAt (4 * v + 3) &&& ~~~1) ||| (if b then 1 else 0))

/-- Sends vector `v` modulo the number of entries that the host has enabled, or sets its pending bit while it is masked; nothing while MSI-X is off or no entry is enabled. -/
def State.sendMsix (s : State) (v : Nat) : State :=
  if !s.hub.msixOn ∨ s.hub.vectors = 0 then s else
  let k := v % s.hub.vectors
  if s.hub.isMasked k then { s with hub := { s.hub with pendingV := if s.hub.pendingV.contains k then s.hub.pendingV else s.hub.pendingV ++ [k] } }
  else { s with out := s.out ++ [.msix k] }

/-- True for the kinds of an error log entry that tell of a fault of the unit itself (R397, R402). -/
def faultKind (kind : Nat) : Bool := kind == 1 || kind == 2 || kind == 3 || kind == 5 || kind == 7 || kind == 8

/-- A fault logged against a unit while a RESTORE tests it fails the test (R402). -/
def State.failRestoring (s : State) (kind : Nat) (unit : BitVec 32) : State :=
  if faultKind kind then { s with mgmt := { s.mgmt with restoring := updBy (fun r => r.unit == unit) (fun r => { r with passed := false }) s.mgmt.restoring } } else s

/-- Adds an entry to a die's error log (R397, Table 1): 4,096 entries, the oldest overwritten; corrected errors of one unit and address within
1 s are merged. The host is told of an error event by the vector that the implementation chose (R375, log 136). -/
def State.logError (s : State) (die kind : Nat) (unit : BitVec 32) (tag : Nat) (addr : DWord) : State :=
  let now : DWord := BitVec.ofNat 64 (s.gtime die)
  let w0 : DWord := BitVec.ofNat 64 (unit.toNat + kind % 256 * 2 ^ 32 + tag % 2 ^ 16 * 2 ^ 48)
  let same (e : List DWord) : Bool :=
    kind == 1 && e.getD 0 0 == w0 && e.getD 2 0 == addr && decide (now.toNat ≤ (e.getD 1 0).toNat + 10 ^ 9)
  ((s.failRestoring kind unit).sendMsix Config.errorVector).onDie die (fun d =>
    if d.log.any same then { d with log := updFirst same (fun e => e.set 3 (e.getD 3 0 + 1)) d.log }
    else if 4096 ≤ d.log.length then
      { d with log := d.log.drop 1 ++ [[w0, now, addr, BitVec.ofNat 64 (1 + (d.lost + 1) % 2 ^ 32 * 2 ^ 32)]], lost := d.lost + 1 }
    else { d with log := d.log ++ [[w0, now, addr, BitVec.ofNat 64 (1 + d.lost % 2 ^ 32 * 2 ^ 32)]] })

/-- A core notes the launch of a team that comes to it or leaves it, with the GTIME (R383). -/
def State.ranHere (s : State) (lid core : Nat) : State :=
  s.onCore core (fun c => { c with ran := c.ran.filter (fun p => p.1 != lid) ++ [(lid, s.gtime (core / Config.coresPerDie))] })

/-- Takes a unit out of use (R393). -/
def State.quarantine (s : State) (unit : BitVec 32) : State :=
  if s.mgmt.quarantine.contains unit then s else { s with mgmt := { s.mgmt with quarantine := s.mgmt.quarantine ++ [unit] } }

/-- A minority die stops applying and loads the checkpoint; the object, the die and the SEQ range are kept, the error log takes its entry, and the die's replay engine
is quarantined (R154, log 125). -/
def State.minority (first seq obj : Nat) (s : State) (die : Nat) : State :=
  let s1 := (s.stopCopy die obj seq).onObj obj (fun o => { o with minority := o.minority ++ [(die, first, seq)] })
  ((s1.logError die 8 (replayUnit die) 0 (BitVec.ofNat 64 seq)).quarantine (replayUnit die)).dropObjCopies.failThin

/-- The vote on checkpoint `seq` (R154, R394): a majority of equal digests agrees it, and no majority, or fewer than three dies, fails the object. -/
def State.vote (s : State) (o : Obj) (seq : Nat) : State :=
  let all := s.votersOf o.id
  let n := all.length
  let votes := o.digests.filter (fun x => x.2.1 == seq && all.contains x.1)
  let count (d : DWord) : Nat := (votes.filter (fun x => x.2.2 == d)).length
  match (if s.voters.length < 3 then none else votes.find? (fun x => decide (n / 2 + 1 ≤ count x.2.2))) with
  | none => s.failObject o.id
  | some w =>
    let out := all.filter (fun d => !(votes.any (fun x => x.1 == d && x.2.2 == w.2.2)))
    let s1 := s.onObj o.id (fun o =>
      { o with
        agreed := some seq, digests := o.digests.filter (fun x => decide (seq < x.2.1)), firstDigest := o.firstDigest.filter (fun x => decide (seq < x.1)) })
    (out.foldl (State.minority ((o.agreed.map (fun a => a + 1)).getD 0) seq o.id) s1).retrim o.id

/-- True for a checkpoint already decided. -/
def Obj.settled (o : Obj) (seq : Nat) : Bool :=
  match o.agreed with
  | some a => decide (seq ≤ a)
  | none => false

/-- DIGEST_REPORT (R154): the digest of the oldest checkpoint a die has reported reaches the log home, which counts it when the die takes part and the checkpoint is
undecided; the vote is decided when all have arrived. -/
def execDigestReport (die obj : Nat) (s : State) : Out3 :=
  .next (match s.objAt obj, (s.ocopy die obj).sent.head? with
    | some o, some (seq, b) =>
      let s0 := s.onOcopy die obj (fun c => { c with sent := c.sent.drop 1 })
      if o.failed ∨ !(s.votersOf obj).contains die ∨ o.digests.any (fun x => x.1 == die && x.2.1 == seq) ∨ o.settled seq = true then s0
      else
        let first := if o.firstDigest.any (fun x => x.1 == seq) then [] else [(seq, s.gtime (odLogHome o.desc))]
        let s1 := s0.onObj obj (fun o =>
          { o with digests := o.digests ++ [(die, seq, crc64 b 0 0 o.statelen)], firstDigest := o.firstDigest ++ first })
        let o1 := (s1.objAt obj).getD o
        if (s1.votersOf obj).all (fun v => o1.digests.any (fun x => x.1 == v && x.2.1 == seq)) then s1.vote o1 seq else s1
    | _, _ => s)

/-- GTIME ticks of 1 ms. -/
def ticksPerMs : Nat := 1000000

/-- DIGEST_TIMEOUT (R154): 1 ms after the first digest of a checkpoint its vote is decided. -/
def execDigestTimeout (obj : Nat) (s : State) : Out3 :=
  .next (match s.objAt obj with
    | some o =>
      match o.firstDigest.find? (fun x => decide (x.2 + ticksPerMs ≤ s.gtime (odLogHome o.desc))) with
      | some x => if o.failed then s else s.vote o x.1
      | none => s
    | none => s)

/-- RESYNC (R154, R394): a die whose copy stopped loads the checkpoint it may load, once that is agreed, from the lowest-numbered majority die, and replays from the entry
after it; a die that keeps no copy loads none. The results of entries it has not applied and now passes are not given (log 102). -/
def execResync (die obj : Nat) (s : State) : Out3 :=
  .next (match s.objAt obj with
    | some o =>
      match (s.ocopy die obj).resync, o.agreed with
      | some k, some ck =>
        let good := (s.votersOf obj).filter (fun d => d != die && (s.ocopy d obj).ckSeq == some ck)
        match good.head? with
        | some d =>
          if o.failed ∨ ck < k ∨ !s.replays die obj then s else
          let b := (s.ocopy d obj).ckBytes
          s.onOcopy die obj (fun c => { c with bytes := b, ckBytes := b, ckSeq := some ck, applied := ck + 1, resync := none, resyncs := c.resyncs + 1 })
        | none => s
      | _, _ => s
    | none => s)

end Sys2Proof.Machine
end

