-- ==== Sys2Proof/Machine/Agents.lean ====
section
/-! DEFINITION. The memory agents' steps: answers and acknowledgements (R69, R82), homes, forwarding and moves (R52 to R57), commutative
partials (R63, R64), lent segments (R49), counters and releases (R72, R78, R81), and monitors (R84, R262). -/

namespace Sys2Proof.Machine

/-! Answers (R71, R77, R82) -/

/-- A load served by a replica leaves its line in the L1 with the replica's expiry (R68). -/
def State.fillFromReplica (s : State) (r : Req) : State :=
  match s.l1Copy r.core (lineOf r.addr), s.nearCopy r with
  | none, some c => if r.l1 then s else s.putCopy { c with unit := r.core }
  | _, _ => s

/-- True for requests of one lane's load: the element and its scale byte (R59). -/
def Req.mate (r q : Req) : Bool := q.op == r.op && q.gid == r.gid && q.lane == r.lane && q.acc == .load && q.isScale != r.isScale

/-- The value of a load has arrived: a scale byte joins its element, an element waits for its scale byte, and any other load answers (R59, R248). -/
def State.arrived (s : State) (r : Req) : State :=
  if r.isScale then
    let join (q : Req) : Req := { q with scale := BitVec.ofNat 8 (unpackVal r.six r.elems r.val.toNat), poisoned := q.poisoned || r.poisoned }
    ({ s with reqs := updBy r.mate join s.reqs }).dropReq r.id
  else if s.reqs.any r.mate then s.onReq r.id (fun q => { q with stage := .served, val := r.val, poisoned := r.poisoned })
  else s.deliver r

/-- A buffer load answers, or an atomic is performed, with its siblings, and answers then (R79, R254). -/
def bufAnswer (s : State) (r : Req) : Option State :=
  if r.stage = .served then some (s.deliver r)
  else if !s.bufReady r then none
  else
    match r.acc with
    | .load => some (s.deliver { r with val := BitVec.ofNat 128 (s.readBuf r.team r.region r.addr r.n), poisoned := s.bufPoison r })
    | .store => none
    | _ => if s.inScb r || !s.bundleReady r then none else some (s.atomsBank r)

/-- A global load answers: what its home or a peer served, what its own core holds, or, once its read has gone to the host through a port that is in service, a
host window's value (R374, R393, log 28). -/
def loadAnswer (s : State) (r : Req) : Option State :=
  match r.stage with
  | .served => if !r.isScale && s.reqs.any r.mate then none else some (s.arrived r)
  | .port =>
    if isPeer r.addr ∨ s.hubsDown r.die r.addr then none
    else some { ((s.arrived { r with val := BitVec.ofNat 128 (s.hostValue r.n) }).useFree) with out := s.out ++ [.hostRead (s.pasidOf r.asid) r.addr r.n] }
  | .sent => (s.localVal r).map (fun v => (s.fillFromReplica r).arrived { r with val := v.1, poisoned := r.poisoned || v.2 })
  | _ => none

/-- What a team-scope atomic finds of its word in the L1 without a fetch: a copy, or nothing under the core's own bytes; and whether it is poisoned (R77). -/
def State.l1Word (s : State) (r : Req) : Option (QWord × Bool) :=
  if (s.coreView r.core r.addr r.n).2 = fullMask r.n then some (0, s.coreHurt r.core r.addr r.n)
  else (s.nearCopy r).map (fun c => (c.read r.addr r.n, hurtAt c.hurt r.addr r.n))

/-- An atomic answers: with its W from a home or a port (R82); one of team scope is performed in the L1 when the word is there (R77). -/
def atomAnswer (s : State) (r : Req) : Option State :=
  if r.stage = .served then some ((if r.l1 then s else s.tellW r r.w).deliver r)
  else if r.l1 && r.stage == .sent && (s.siblings r).all s.laneFirst && !s.inScb r then
    (s.l1Word r).map (fun v => (s.fillFromReplica r).atomsL1 v.1 (r.poisoned || v.2) r)
  else none

/-- The answer of a request that is ready to answer. -/
def answer (s : State) (r : Req) : Option State :=
  if r.isBuf then bufAnswer s r else
  match r.acc with
  | .load => loadAnswer s r
  | .atom _ _ => atomAnswer s r
  | .cas => atomAnswer s r
  | _ => none

/-- LOAD_COMPLETE (R82): a load or atomic value arrives and its destination is written. -/
def execLoadComplete (r : Nat) (s : State) : Out3 :=
  .next (match s.req r with
    | some q => (answer s q).getD s
    | none => s)

/-- A write at its core or a port: a host store is taken in the order its core sent them, a team-scope store that has its match is written into the L1, after older ones on its bytes (R67, R75, R266), and
a flush that waited for a number is sent (R156). -/
def portAck (s : State) (r : Req) : Option State :=
  if s.inScb r then none
  else if r.acc.isFlush then
    if s.rops.any (fun n => match n.what with | .flush q => q.id == r.id | _ => false) || s.ropsFull r.die 1 then none
    else some (s.newRop r.die r.target noTag (.flush r))
  else if r.acc ≠ .store then none
  else if isPeer r.addr then none
  else if !isHost r.addr then
    if s.reqs.any (fun q => decide (q.id < r.id) && q.inCore && q.core == r.core && overlap q.addr q.n r.addr r.n) then none
    else some ((s.writeL1 r.core r.addr r.n r.data r.mask r.place12).dropReq r.id)
  else if s.hubsDown r.die r.addr ∨ s.reqs.any (fun q => decide (q.id < r.id) && q.stage == .port && q.acc == .store && q.core == r.core && isHost q.addr) then none
  else some (((s.hostPut r.asid r.core r.addr r.n r.data r.mask).snapNote r.gid).dropReq r.id)

/-- The acknowledgement of a write: the bank wrote it, the host took it, or the home's W arrives (R69, R79). -/
def ackOf (s : State) (r : Req) : Option State :=
  if r.isBuf then
    if r.acc = .store ∧ s.bufReady r ∧ !s.inScb r then some ((s.writeBuf r.team r.region r.addr r.n r.data.toNat).dropReq r.id) else none
  else if !(r.acc.puts || r.acc.isFlush) then none
  else
    match r.stage with
    | .served => some (((if isHost r.addr then s.snapNote r.gid else s).tellW r r.w).dropReq r.id)
    | .port => portAck s r
    | _ => none

/-- STORE_ACK (R69): a home acknowledges a store with its W, which is taken into WCT. -/
def execStoreAck (r : Nat) (s : State) : Out3 :=
  .next (match s.req r with
    | some q => (ackOf s q).getD s
    | none => s)

/-! Homes (R52 to R54, R64, R67 to R69) -/

/-- True for a COMM. -/
def Access.isComm : Access → Bool
  | .comm _ => true
  | _ => false

/-- HOME_REQUEST (R52, R69): a request reaches its home slice and takes its place in the queue, or its turn has come: it is ordered, assigned W, granted a
lease or held; a word of a range is combined first (R64). -/
def execHomeRequest (r : Nat) (s : State) : Out3 :=
  .next (match s.req r with
    | some q => if q.acc.isComm || q.acc.isFlush then s else s.atHome q State.begin_
    | none => s)

/-- HELD_LOAD_RELEASE (R69): home GTIME has reached W, and the held load is served the new value. -/
def execHeldLoadRelease (r : Nat) (s : State) : Out3 :=
  .next (match s.req r with
    | some q =>
      if q.stage = .held ∧ (linesOf q.addr q.n).all (fun ln => decide ((s.line ln).w ≤ s.homeNow q.addr)) then s.serveHome q else s
    | none => s)

/-- The die to which a die that is not the home forwards (R54). -/
def State.forwardTo (s : State) (d pa : Nat) : Nat :=
  if d = storageDie pa then s.homeOf pa
  else match s.forwards.find? (fun f => f.die == d && f.gran == granuleOf pa && decide (s.gtime d < f.until_)) with
  | some f => f.dest
  | none => storageDie pa

/-- REQUEST_FORWARD (R54): a die that is not the home forwards the request. -/
def execRequestForward (r : Nat) (s : State) : Out3 :=
  .next (match s.req r with
    | some q =>
      if q.stage = .sent ∧ !q.isBuf ∧ !isHost q.addr ∧ !s.inScb q ∧ q.target ≠ s.homeOf q.addr ∧ s.firstToSlice q then
        s.onReq r (fun x => { x with target := s.forwardTo q.target q.addr, hops := x.hops + 1, refused := false })
      else s
    | none => s)

/-- FLIT_REOFFER (R52): a refused flit is offered again, and is taken when its queue has room. -/
def execFlitReoffer (r : Nat) (s : State) : Out3 :=
  .next (match s.req r with
    | some q => if q.refused && (if s.isMoving q then s.holdRoom q else s.queueRoom q) then s.onReq r (fun x => { x with refused := false }) else s
    | none => s)

/-! Evictions (R50, R57, R75) -/

/-- L1_EVICTION (R50, R63, R75): a line leaves a core's L1: dirty bytes are written back and a partial is flushed. -/
def execL1Eviction (core line : Nat) (s : State) : Out3 :=
  .next (s.evictLine core line)

/-- REPLICA_EVICTION (R57). -/
def execReplicaEviction (die line : Nat) (s : State) : Out3 :=
  .next { s with replicas := s.replicas.filter (fun c => !(c.unit == die && c.line == line)) }

/-! Lent segments (R44, R48, R49) -/

/-- SEGMENT_DRAIN (R49): a lent segment's lines are written back and its partials flushed; once all of that is acknowledged the segment, zeroed, belongs to
its team. Which lines a way holds is not architectural: the model takes all of the core's (log 36). -/
def execSegmentDrain (core : Nat) (weight : Bool) (seg : Nat) (s : State) : Out3 :=
  .next (match s.teams.find? (fun t => t.die * Config.coresPerDie + t.core == core && t.drain.any (fun d => d.1 == weight && d.2.1 == seg)) with
    | none => s
    | some t =>
      match (t.drain.find? (fun d => d.1 == weight && d.2.1 == seg)).bind (fun d => d.2.2) with
      | none =>
        let s1 := s.flushCore core
        let new := (s1.reqs.filter (fun r => decide (s.nextId ≤ r.id))).map (fun r => r.id)
        let s2 := { s1 with copies := s1.copies.filter (fun c => c.unit != core) }
        s2.onTeam t.uid (fun t => { t with drain := updBy (fun d => d.1 == weight && d.2.1 == seg) (fun d => (d.1, d.2.1, some new)) t.drain })
      | some owed =>
        if s.reqs.any (fun r => owed.contains r.id) then s
        else s.onTeam t.uid (fun t => { t with drain := t.drain.filter (fun d => !(d.1 == weight && d.2.1 == seg)) }))

/-! Moving homes (R55, R56, R86) -/

/-- The die with the largest count of writes, the lowest number among equals. -/
def topWriter (c : Sparse (BitVec 8)) : Nat :=
  ((c.mergeSort (fun a b => decide (b.2 < a.2) || (a.2 == b.2 && decide (a.1 ≤ b.1)))).head?.map (fun p => p.1)).getD 0

/-- The die a granule moves to at a halving: the conditions of R55. -/
def moveTarget (g : Granule) (now : Nat) : Option Nat :=
  let d := topWriter g.counts
  let n := (sget 0 g.counts d).toNat
  if d ≠ g.home ∧ 128 ≤ n ∧ 2 * (sget 0 g.counts g.home).toNat ≤ n ∧ g.movedAt + ticksPerMs ≤ now then some d else none

/-- Halves a granule's counts; those that reach zero are not listed. -/
def halveCounts (c : Sparse (BitVec 8)) : Sparse (BitVec 8) := (c.map (fun (p : Nat × BitVec 8) => (p.1, p.2 >>> (1 : Nat)))).filter (fun (p : Nat × BitVec 8) => p.2 != 0)

/-- GRANULE_COUNT_HALVING (R55): at each 1 ms of GTIME a die checks the granules it homes, marks those that move as MOVING, and halves their counts. -/
def execGranuleCountHalving (die : Nat) (s : State) : Out3 :=
  let now := s.gtime die
  if (s.die die).halved < now / ticksPerMs then
    let f (p : Nat × Granule) : Nat × Granule :=
      if p.2.home = die then
        (p.1, { p.2 with counts := halveCounts p.2.counts, moving := if p.2.moving.isSome then p.2.moving else moveTarget p.2 now })
      else p
    .next ({ s with granules := s.granules.map f }.onDie die (fun d => { d with halved := now / ticksPerMs }))
  else .next s

/-- The largest lease horizon of a granule's lines. -/
def State.granuleHorizon (s : State) (gr : Nat) : Nat :=
  (s.lines.filter (fun p => p.1 / 512 == gr)).foldl (fun m p => max m p.2.horizon) (s.granule gr).horizon

/-- True for a request that the home of a granule has begun or holds in a queue. -/
def Req.begun (r : Req) : Bool := r.stage == .queued || r.stage == .held || r.stage == .combining

/-- CLAIM (R55, R56, R86): the requests in the old home's queues are complete: the new home takes the granule with its horizon, the storage die records it, and
the old home forwards what it held, in arrival order, and keeps a pointer for 1 ms. -/
def execClaim (gran : Nat) (s : State) : Out3 :=
  let g := s.granule gran
  let here (r : Req) : Bool := !r.isBuf && !isHost r.addr && granuleOf r.addr == gran && r.target == g.home
  .next (match g.moving with
    | none => s
    | some d =>
      if s.reqs.any (fun r => here r && r.begun) || (List.range 16).any (fun i => (s.portWork g.home i).any (fun p => granuleOf p.2.2.addr == gran)) then s
      else
        let now := s.gtime g.home
        let s1 := s.onGranule gran (fun _ => { home := d, movedAt := now, horizon := s.granuleHorizon gran, moving := none, counts := [] })
        let keep (f : Forward) : Bool := !(f.gran == gran && (f.die == d || f.die == g.home))
        { s1 with
          forwards := s1.forwards.filter keep ++ [{ die := g.home, gran := gran, dest := d, until_ := now + ticksPerMs }]
          reqs := updBy (fun r => here r && r.stage == .waiting) (fun r => { r with stage := .sent, target := d, hops := r.hops + 1 }) s1.reqs })

/-- FORWARD_POINTER_EXPIRY (R55). -/
def execForwardPointerExpiry (die gran : Nat) (s : State) : Out3 :=
  .next { s with forwards := s.forwards.filter (fun f => !(f.die == die && f.gran == gran && decide (f.until_ ≤ s.gtime die))) }

/-! Commutative partials (R63, R64) -/

/-- The home registers a core as a holder of a line and acknowledges, and the COMM folds (R63). -/
def State.register (op : CommOp) (s0 : State) (q : Req) : State :=
  let s := (s0.learnHome q.die q.addr).onLine (lineOf q.addr) (fun l => { l with holders := l.holders.filter (fun c => c != q.core) ++ [q.core] })
  ((s.foldPartial q.core q.addr op (q.data.setWidth 32)).dropReq q.id).snapNote q.gid

/-- True when no older COMM of its core on its word is still to be folded: lanes of one bundle fold in ascending order (R63). -/
def State.foldsNext (s : State) (q : Req) : Bool := !(s.reqs.any (fun p => p.acc.isComm && p.core == q.core && p.addr == q.addr && decide (p.id < q.id)))

/-- PARTIAL_REGISTRATION (R63): a COMM folds at once when its core has come to hold a partial of the line; otherwise the home registers the core. -/
def execPartialRegistration (r : Nat) (s : State) : Out3 :=
  .next (match s.req r with
    | some q =>
      match q.acc with
      | .comm op =>
        if s.hasPartial q.core q.addr && q.stage == .sent && !s.inScb q && s.foldsNext q then
          ((s.foldPartial q.core q.addr op (q.data.setWidth 32)).dropReq r).snapNote q.gid
        else s.atHome q (State.register op)
      | _ => s
    | none => s)

/-- PARTIAL_FLUSH (R63): a flushed word of a partial arrives at the home and is folded in; a flush from another die arrives as a numbered request. -/
def execPartialFlush (r : Nat) (s : State) : Out3 :=
  .next (match s.req r with
    | some q =>
      match q.acc with
      | .flush op => s.atHome q (fun s q => (s.learnHome q.die q.addr).flushHome q op)
      | _ => s
    | none => s)

/-- PARTIAL_RECALL (R64): a holder returns its partials of the access's lines, drops them and leaves the holder sets; one that has flushed answers empty. -/
def execPartialRecall (r core : Nat) (s : State) : Out3 :=
  .next (match s.req r with
    | some q =>
      if q.stage = .combining ∧ q.holders.contains core then
        let lns := linesOf q.addr q.n
        let mine (p : Partial) : Bool := p.core == core && lns.contains p.line
        let ws := (s.partials.filter mine).flatMap (fun p => p.words.map (fun w => (core, 32 * p.line + w.1, p.op, w.2)))
        let s1 := s.onReq r (fun x => { x with holders := x.holders.filter (fun c => c != core), parts := x.parts ++ ws })
        let leave (t : State) (ln : Nat) : State := t.onLine ln (fun l => { l with holders := l.holders.filter (fun c => c != core) })
        { (lns.foldl leave s1) with partials := s.partials.filter (fun p => !mine p) }
      else s
    | none => s)

/-- Folds the returned words into the home values in ascending (die, core) order (R64). -/
def foldParts (s : State) (parts : List (Nat × Nat × CommOp × Word)) : State :=
  let word (m : List Host.Cell) (p : Nat × Nat × CommOp × Word) : List Host.Cell :=
    let a := 4 * p.2.1
    wrBytes m a 4 (commFold p.2.2.1 (BitVec.ofNat 32 (rdBytes m a 4)) p.2.2.2).toNat
  { s with mem := (parts.mergeSort (fun a b => decide (a.1 ≤ b.1))).foldl word s.mem }

/-- COMBINE_COMPLETE (R64): every holder has answered and what they had flushed has arrived; the home folds and performs the access. -/
def execCombineComplete (r : Nat) (s : State) : Out3 :=
  .next (match s.req r with
    | some q =>
      if q.stage = .combining ∧ q.holders.isEmpty ∧ !(linesOf q.addr q.n).any s.flushOwed then
        ((foldParts s q.parts).onReq r (fun x => { x with parts := [] })).begin_ { q with parts := [] }
      else s
    | none => s)

/-! Counters and releases (R72, R78, R81) -/

/-- COUNTER_RETIRE (R81): the completed operations of a class that no older uncompleted one precedes retire, and lanes at WAIT whose thresholds hold go
on. -/
def execCounterRetire (g cls : Nat) (s : State) : Out3 :=
  .next (s.onGroup g (fun x => releaseWaits s.cycle { x with ops := retireOps s.opDone cls x.ops }))

/-- RELEASE_WCT_REACHED (R72): a release's wait has ended. -/
def execReleaseWctReached (r : Nat) (s : State) : Out3 := .next (State.relRun r 3 s)

/-- PROMOTE_REQUEST (R78): the victim's core writes back every dirty byte and flushes every partial; the promoting release then waits for those and for the
core's own unacknowledged stores, whose W it takes. -/
def execPromoteRequest (r : Nat) (s : State) : Out3 :=
  .next (match s.findRel r with
    | some (g, x) =>
      match x.stage, x.waits.head? with
      | 3, some core => let s1 := s.flushCore core; s1.relTo g.uid r 1 (s1.coreWrites core)
      | _, _ => s
    | none => s)

/-! Monitors (R84, R262) -/

/-- Two lanes that watch one word with one condition and value share a monitor. -/
def Monitor.same (a b : Monitor) : Bool := a.addr == b.addr && a.cond == b.cond && a.ty == b.ty && a.b == b.b

/-- The monitors of a slice, one for each shared watch, in order. -/
def State.slotsOf (s : State) (home slice : Nat) : List Monitor :=
  (s.monitors.filter (fun m => !isHost m.addr && !m.asleep && s.homeOf m.addr == home && sliceOf m.addr == slice)).foldl
    (fun l m => if l.any (fun k => k.same m) then l else l ++ [m]) []

/-- True when a monitor has one of the 256 places of its slice. -/
def State.placed (s : State) (m : Monitor) : Bool := ((s.slotsOf (s.homeOf m.addr) (sliceOf m.addr)).take 256).any (fun k => k.same m)

/-- True for a monitor on 64-bit words. -/
def Monitor.wide (m : Monitor) : Bool := Enc.isPairTy m.ty

/-- The comparison of a monitor with a value. -/
def Monitor.holdsAt (m : Monitor) (w : Nat) : Bool := condHolds m.cond (m.ty == 1 || m.ty == 3) (if m.wide then 64 else 32) w m.b.toNat

/-- The lane of a monitor leaves MONITOR with the word that made its condition true (R262). -/
def State.wakeMonitor (s : State) (m : Monitor) (w : Nat) (hurt : Bool) : State :=
  let n := if m.wide then 2 else 1
  let mark : Marked := { reg := m.dst, n := n, addr := m.va, rsn := 0, rcause := 0, pc := 0 }
  let s1 := ({ s with monitors := s.monitors.filter (fun k => k.id != m.id) }).onLane m.gid m.lane (fun x =>
    let y := if hurt then { x with marked := x.marked ++ [mark] } else x.setWords m.dst n w
    { y.wake s.cycle m.next with pend := y.pend.filter (fun p => p.src != m.id) })
  if m.acq then s1.acquire m.gid (fun l => l == m.lane) else s1

/-- The word a monitor sees at its home, and whether it is poisoned: once GTIME has reached the last write's W, and once the writes that its core sent
before have arrived there (R52, R84). -/
def State.monitorWord (s : State) (m : Monitor) : Option (Nat × Bool) :=
  if isHost m.addr ∨ (s.granule (granuleOf m.addr)).moving.isSome ∨ (linesOf m.addr m.n).any (fun ln => decide (s.homeNow m.addr < (s.line ln).w)) ∨
      s.reqs.any (fun q => decide (q.id < m.id) && !q.isBuf && q.core == m.core && q.acc.writes && q.stage != .served && overlap q.addr q.n m.addr m.n) then none
  else some (unpackVal m.six m.elems (s.readPhys m.addr m.n), s.poisonedAt m.addr m.n)

/-- The next comparison of a monitor without a place is due in 1 µs. -/
def State.compareLater (s : State) (m : Monitor) : State :=
  { s with monitors := updBy (fun x => x.id == m.id) (fun x => { x with at_ := s.homeNow m.addr + 1000 }) s.monitors }

/-- MONITOR_WAKE (R84): the comparison of a placed monitor is true. -/
def execMonitorWake (m : Nat) (s : State) : Out3 :=
  .next (match s.monitors.find? (fun k => k.id == m) with
    | some k =>
      match s.monitorWord k with
      | some w => if !k.asleep ∧ s.placed k ∧ k.holdsAt w.1 then s.wakeMonitor k w.1 w.2 else s
      | none => s
    | none => s)

/-- MONITOR_RECHECK (R84): while the slice's monitors are full the comparison is made as a held load, and again every 1 µs. -/
def execMonitorRecheck (m : Nat) (s : State) : Out3 :=
  .next (match s.monitors.find? (fun k => k.id == m) with
    | some k =>
      match s.monitorWord k with
      | some w =>
        if k.asleep ∨ s.placed k ∨ s.homeNow k.addr < k.at_ then s
        else if k.holdsAt w.1 then s.wakeMonitor k w.1 w.2
        else s.compareLater k
      | none => s
    | none => s)

/-- HOST_MONITOR_POLL (R262): a hub port re-reads a host word every 1 µs; `seen` is what it read. -/
def execHostMonitorPoll (m : Nat) (seen : BitVec 64) (s : State) : Out3 :=
  .next (match s.monitors.find? (fun k => k.id == m) with
    | some k =>
      let w := if k.wide then seen.toNat else seen.toNat % 2 ^ 32
      if k.asleep ∨ !isHost k.addr ∨ s.homeNow k.addr < k.at_ then s
      else if k.holdsAt w then s.wakeMonitor k w false
      else s.compareLater k
    | none => s)

end Sys2Proof.Machine
end

