-- ==== Sys2Proof/Machine/Crypto.lean ====
section
/-! DEFINITION. The signature check of boot images (R367): SHA-256, MGF1 and RSASSA-PSS with RSA-3072 keys, as FIPS 180-4 and RFC 8017, which these names stand for, define
them. -/

namespace Sys2Proof.Machine

/-! SHA-256 -/

/-- The round constants. -/
def shaK : List Word :=
  [0x428a2f98, 0x71374491, 0xb5c0fbcf, 0xe9b5dba5, 0x3956c25b, 0x59f111f1, 0x923f82a4, 0xab1c5ed5] ++
  [0xd807aa98, 0x12835b01, 0x243185be, 0x550c7dc3, 0x72be5d74, 0x80deb1fe, 0x9bdc06a7, 0xc19bf174] ++
  [0xe49b69c1, 0xefbe4786, 0x0fc19dc6, 0x240ca1cc, 0x2de92c6f, 0x4a7484aa, 0x5cb0a9dc, 0x76f988da] ++
  [0x983e5152, 0xa831c66d, 0xb00327c8, 0xbf597fc7, 0xc6e00bf3, 0xd5a79147, 0x06ca6351, 0x14292967] ++
  [0x27b70a85, 0x2e1b2138, 0x4d2c6dfc, 0x53380d13, 0x650a7354, 0x766a0abb, 0x81c2c92e, 0x92722c85] ++
  [0xa2bfe8a1, 0xa81a664b, 0xc24b8b70, 0xc76c51a3, 0xd192e819, 0xd6990624, 0xf40e3585, 0x106aa070] ++
  [0x19a4c116, 0x1e376c08, 0x2748774c, 0x34b0bcb5, 0x391c0cb3, 0x4ed8aa4a, 0x5b9cca4f, 0x682e6ff3] ++
  [0x748f82ee, 0x78a5636f, 0x84c87814, 0x8cc70208, 0x90befffa, 0xa4506ceb, 0xbef9a3f7, 0xc67178f2]

/-- The initial hash value. -/
def shaInit : List Word := [0x6a09e667, 0xbb67ae85, 0x3c6ef372, 0xa54ff53a, 0x510e527f, 0x9b05688c, 0x1f83d9ab, 0x5be0cd19]

/-- `σ0`, `σ1`, `Σ0` and `Σ1`. -/
def shaS0 (x : Word) : Word := x.rotateRight 7 ^^^ x.rotateRight 18 ^^^ (x >>> 3)
def shaS1 (x : Word) : Word := x.rotateRight 17 ^^^ x.rotateRight 19 ^^^ (x >>> 10)
def shaB0 (x : Word) : Word := x.rotateRight 2 ^^^ x.rotateRight 13 ^^^ x.rotateRight 22
def shaB1 (x : Word) : Word := x.rotateRight 6 ^^^ x.rotateRight 11 ^^^ x.rotateRight 25

/-- The message schedule, its last word first, with `n` more words. -/
def shaSchedule : Nat → List Word → List Word
  | 0, w => w
  | n + 1, w => shaSchedule n ((shaS1 (w.getD 1 0) + w.getD 6 0 + shaS0 (w.getD 14 0) + w.getD 15 0) :: w)

/-- One round on the working variables a to h. -/
def shaRound (v : List Word) (kw : Word × Word) : List Word :=
  match v with
  | [a, b, c, d, e, f, g, h] =>
    let t1 := h + shaB1 e + ((e &&& f) ^^^ (~~~e &&& g)) + kw.1 + kw.2
    let t2 := shaB0 a + ((a &&& b) ^^^ (a &&& c) ^^^ (b &&& c))
    [t1 + t2, a, b, c, d + t1, e, f, g]
  | _ => v

/-- The big-endian value of bytes. -/
def bigValue (l : List Byte) : Nat := l.foldl (fun a b => 256 * a + b.toNat) 0

/-- The `n` big-endian bytes of a value. -/
def bigBytes (n x : Nat) : List Byte := ((List.range n).map (fun i => BitVec.ofNat 8 (x / 256 ^ i))).reverse

/-- The hash value after a block of 64 bytes. -/
def shaBlock (h : List Word) (b : List Byte) : List Word :=
  let w := (List.range 16).map (fun i => BitVec.ofNat 32 (bigValue ((b.drop (4 * i)).take 4)))
  let v := (shaK.zip (shaSchedule 48 w.reverse).reverse).foldl shaRound h
  List.zipWith (fun x y => x + y) h v

/-- The hash value after `n` blocks. -/
def shaBlocks : Nat → List Word → List Byte → List Word
  | 0, h, _ => h
  | n + 1, h, b => shaBlocks n (shaBlock h (b.take 64)) (b.drop 64)

/-- The SHA-256 digest of a message as 32 bytes. -/
def shaBytes (m : List Byte) : List Byte :=
  let pad := m ++ [0x80] ++ List.replicate ((119 - m.length % 64) % 64) 0 ++ bigBytes 8 (8 * m.length)
  (shaBlocks (pad.length / 64) shaInit pad).flatMap (fun w => bigBytes 4 w.toNat)

/-- The SHA-256 digest of a message. -/
def sha256 (m : List Byte) : BitVec 256 := BitVec.ofNat 256 (bigValue (shaBytes m))

/-! RSASSA-PSS (R367) -/

/-- `n` bytes of MGF1 with SHA-256. -/
def mgf1 (seed : List Byte) (n : Nat) : List Byte := ((List.range ((n + 31) / 32)).flatMap (fun i => shaBytes (seed ++ bigBytes 4 i))).take n

/-- `x` squared `k` times modulo `n`. -/
def squareMod (n : Nat) : Nat → Nat → Nat
  | 0, x => x % n
  | k + 1, x => squareMod n k (x * x % n)

/-- `x` to the power 65,537 modulo `n`. -/
def rsaPower (n x : Nat) : Nat := squareMod n 16 x * x % n

/-- EMSA-PSS verification of an encoded message of 384 bytes with 3071 significant bits: SHA-256, MGF1 with SHA-256, a salt of 32 bytes. -/
def pssHolds (m em : List Byte) : Bool :=
  let masked := em.take 351
  let h := (em.drop 351).take 32
  let db := (List.zipWith (fun x y => x ^^^ y) masked (mgf1 h 351)).zipIdx.map (fun p => if p.2 = 0 then p.1 &&& 0x7F else p.1)
  em.getD 383 0 == 0xBC && decide ((masked.getD 0 0).toNat < 128) && (db.take 318).all (fun x => x == 0) && db.getD 318 0 == 1 &&
    h == shaBytes (List.replicate 8 0 ++ shaBytes m ++ db.drop 319)

/-- RSASSA-PSS verification with a 3072-bit modulus and exponent 65,537 (R367). -/
def pssVerify (modulus signature : BitVec 3072) (m : List Byte) : Bool :=
  modulus.getLsbD 3071 && decide (signature.toNat < modulus.toNat) && pssHolds m (bigBytes 384 (rsaPower modulus.toNat signature.toNat))

end Sys2Proof.Machine
end

