-- ==== Sys2Proof/Machine/Rou.lean ====
section
/-! DEFINITION. Exactly-once remote operations: the owner's receipt cache (R158), the ROU's replies, retransmissions and give-up (R157, R159, R277), and
atomics at a hub's fabric port (R160, R161). -/

namespace Sys2Proof.Machine

/-! Serials -/

/-- Serial `a` is newer than `b` (R156). -/
def newer (a b : BitVec 32) : Bool := decide (1 ≤ (a - b).toNat) && decide ((a - b).toNat < 2 ^ 31)

/-- Incarnation `a` is newer than `b`. -/
def newerInc (a b : BitVec 16) : Bool := decide (1 ≤ (a - b).toNat) && decide ((a - b).toNat < 2 ^ 15)

/-- The numbered operation with a number. -/
def State.rop (s : State) (id : Nat) : Option Rop := s.rops.find? (fun r => r.id == id)

/-- Changes a numbered operation. -/
def State.onRop (s : State) (id : Nat) (f : Rop → Rop) : State := { s with rops := updBy (fun r => r.id == id) f s.rops }

/-- A numbered operation is gone from its die's ROU. -/
def State.dropRop (s : State) (id : Nat) : State := { s with rops := s.rops.filter (fun r => r.id != id) }

/-! What an owner knows of its requesters (R158) -/

/-- The place of a requester in a hub's tables. -/
def hubKey (owner req : Nat) : Nat := 1024 * (owner - 16) + req

/-- The incarnation of a requester that an owner last saw, 0 for none. -/
def State.seenInc (s : State) (owner req : Nat) : BitVec 16 :=
  if isHub owner then sget 0 s.hub.seen (hubKey owner req) else sget 0 (s.die owner).seen req

/-- The newest ACKW of a requester that an owner received. -/
def State.seenAck (s : State) (owner req : Nat) : BitVec 32 :=
  if isHub owner then sget 0 s.hub.acks (hubKey owner req) else sget 0 (s.die owner).acks req

/-- The owner notes a requester's incarnation and the ACKW of its request. -/
def State.noteReq (s : State) (owner req : Nat) (i : BitVec 16) (a : BitVec 32) : State :=
  if isHub owner then
    { s with hub := { s.hub with seen := sput 0 s.hub.seen (hubKey owner req) i, acks := sput 0 s.hub.acks (hubKey owner req) a } }
  else s.onDie owner (fun d => { d with seen := sput 0 d.seen req i, acks := sput 0 d.acks req a })

/-- The owner drops a request and counts it. -/
def State.dropRsn (s : State) (owner : Nat) : State :=
  if isHub owner then { s with hub := { s.hub with drops := sput 0 s.hub.drops owner (sget 0 s.hub.drops owner + 1) } }
  else s.onDie owner (fun d => { d with rsnDrops := d.rsnDrops + 1 })

/-- `GTIME` at an owner; a hub's is die 0's without its skew. -/
def State.ownerTime (s : State) (owner : Nat) : Nat := if isHub owner then s.refTime else s.gtime owner

/-- A request meets the requester its owner knows: a newer incarnation discards the requester's receipts, and the newest ACKW is kept. -/
def State.meet (s : State) (m : RMsg) : State :=
  let seen := s.seenInc m.at_ m.die
  if seen = m.reqinc then
    let a := s.seenAck m.at_ m.die
    s.noteReq m.at_ m.die m.reqinc (if newer m.ackw a then m.ackw else a)
  else { (s.noteReq m.at_ m.die m.reqinc m.ackw) with receipts := s.receipts.filter (fun x => !(x.owner == m.at_ && x.reqid == m.die)) }

/-! Execution at the owner (R56, R158, R247) -/

/-- The receipt a new request begins with: EXECUTING (R158). -/
def RMsg.receipt (m : RMsg) (now : Nat) : Receipt :=
  { owner := m.at_, reqid := m.die, rsn := m.rsn, reqinc := m.reqinc, rop := m.rop, copy := m.copy, what := m.what, done := none, at_ := now,
    place := 0, aside := false, casTries := 0, casSeen := 0 }

/-- A numbered atomic is performed at its home, its lines combined, and its receipt becomes DONE (log 130). -/
def portAtom (s : State) (x : Receipt) (r : Req) : State :=
  let s0 := if r.combine then s.combineLines r.addr r.n else s
  let y : Reply := .result (BitVec.ofNat 128 (s0.readPhys r.addr r.n)) (s0.nextW r.addr r.n)
  ((s0.atomHome r).onReq r.id (fun q => { q with stage := .port })).receiptDone x y

/-- A numbered flush is folded at its home, and its receipt becomes DONE. -/
def portFlush (s : State) (x : Receipt) (r : Req) : State :=
  match r.acc with
  | .flush op => ((s.flushHome r op).onReq r.id (fun q => { q with stage := .port })).receiptDone x (.result 0 (s.nextW r.addr r.n))
  | _ => s

/-- The owner begins a new request (R158, R297): an atomic and a flush take a place in their slice's input queue; an append, a launch and a host atomic have
steps of their own. -/
def State.execute (s : State) (x : Receipt) : State :=
  match x.what with
  | .launch lid =>
    { s with grids := updBy (fun g => g.lid == lid) (fun g => if g.arrived.contains x.owner then g else { g with arrived := g.arrived ++ [x.owner] }) s.grids }
  | w =>
    if w.access.isNone ∨ isHub x.owner then s
    else { (s.onReceipt x (fun y => { y with place := s.nextId })) with nextId := s.nextId + 1 }

/-- The slice's next step with the access of a numbered request that has its turn: it is performed, or an atomic steps aside while its lines are busy (R64, R247, R297).
None while it is not its turn. -/
def State.portServe (s : State) (x : Receipt) (r : Req) : Option State :=
  let busy := s.linesBusy x.place r || (r.combine && (linesOf r.addr r.n).any s.flushOwed)
  let first := !((s.queueAt x.owner (sliceOf r.addr)).any (fun k => decide (k < x.place)))
  if r.acc.isFlush then (if first then some (portFlush s x r) else none)
  else if x.aside then (if busy then none else some (portAtom s x r))
  else if !first then none
  else if busy then some (s.onReceipt x (fun y => { y with aside := true }))
  else some (portAtom s x r)

/-- What a slice can do now with the access that numbered operation `id` left at it. -/
def State.portStep (s : State) (id : Nat) : Option State :=
  s.receipts.findSome? (fun x =>
    match x.what.access with
    | some r => if x.rop == id && x.done.isNone && x.place != 0 then s.portServe x r else none
    | none => none)

/-- True for a request whose granule's home is another die now (R56). -/
def State.movedOn (s : State) (m : RMsg) : Bool :=
  match m.what.access with
  | some r => !isHub m.at_ && s.homeOf r.addr != m.at_
  | none => false

/-- A die that is not the home forwards a numbered request, which then carries the next die's incarnation (R54, R56, log 103). -/
def State.sendOn (s : State) (m : RMsg) (r : Req) : State :=
  let d := s.forwardTo m.at_ r.addr
  (({ s with rmsgs := s.rmsgs ++ [{ m with at_ := d, hdr := { m.hdr with dst := BitVec.ofNat 6 d, owninc := s.incOf d } }] }).learnHome m.die r.addr).onReq r.id (fun q => { q with target := d })

/-- The answer that a receipt gives: HELD while EXECUTING, the reply once DONE. -/
def Receipt.answer (x : Receipt) : Reply := x.done.getD .held

/-- The receipt cache holds 8,192 entries of an owner. -/
def State.cacheFull (s : State) (owner : Nat) : Bool := decide (8192 ≤ (s.receipts.filter (fun x => x.owner == owner)).length)

/-- The `n` bytes of a value, the lowest first. -/
def bytesOf : Nat → Nat → List Byte
  | 0, _ => []
  | n + 1, x => BitVec.ofNat 8 x :: bytesOf n (x / 256)

/-- The bytes that a request brings to a peer: none for a load, the compare value and the new one for a compare and swap, its data otherwise (R376). -/
def Req.payload (r : Req) : List Byte :=
  match r.acc with
  | .load => []
  | .cas => bytesOf r.n r.cmp.toNat ++ bytesOf r.n r.data.toNat
  | _ => bytesOf r.n r.data.toNat

/-- The number under which an access of a peer window has its operation code: its kind, with the bytes of a load, and the operation and type of an atomic (R376, log 133). -/
def atomIx : AtomOp → Nat
  | .add => 0
  | .min => 1
  | .max => 2
  | .and => 3
  | .or => 4
  | .xor => 5
  | .exch => 6
  | .fadd => 7
def peerKind (acc : Access) (n : Nat) : Nat :=
  match acc with
  | .load => 128 + n
  | .store => 1
  | .cas => 8
  | .atom op ty => 48 + 8 * atomIx op + ty.toNat
  | _ => 6

/-- The hub sends a peer's access on as a frame: the header with the offset in the peer's exported window, and the payload (R374, R376). The peer's hub keeps its receipt (R161). -/
def State.sendFrame (s : State) (m : RMsg) (r : Req) : State :=
  let h : Jdp := { m.hdr with opc := Config.opcode (peerKind r.acc r.n), addr := BitVec.ofNat 52 (r.addr % 2 ^ 46), plen := BitVec.ofNat 16 r.payload.length }
  { s with out := s.out ++ [.peer (m.at_ - 16) h.word r.payload] }

/-- A copy of a numbered request is handled by the owner it has reached, in R158's order; a new request for a granule that is at home elsewhere is sent on (R56), and one for a peer
leaves by its port (R376). -/
def State.receive (s0 : State) (m : RMsg) : State :=
  let s := { s0 with rmsgs := s0.rmsgs.erase m }
  let seen := s.seenInc m.at_ m.die
  let away := m.what.access.bind (fun r => if isHub m.at_ ∧ isPeer r.addr then some r else none)
  if away.isSome then s.sendFrame m (away.getD default)
  else if !isHub m.at_ ∧ (s.die m.at_).state ≠ 1 then s
  else if seen ≠ 0 ∧ newerInc seen m.reqinc then s
  else
    let s1 := s.meet m
    if m.owninc ≠ s.incOf m.at_ then s1.replyCopy m.rop m.copy .stale
    else if 2 ^ 20 ≤ (m.rsn - m.ackw).toNat then s1.dropRsn m.at_
    else
      match s1.receiptAt m.at_ m.die m.rsn, m.what.access with
      | some x, _ => s1.replyCopy m.rop m.copy x.answer
      | none, some r =>
        if s1.movedOn m then s1.sendOn m r
        else if s1.cacheFull m.at_ then s1.replyCopy m.rop m.copy .busy
        else let x := m.receipt (s.ownerTime m.at_); { s1 with receipts := s1.receipts ++ [x] }.execute x
      | none, none =>
        if s1.cacheFull m.at_ then s1.replyCopy m.rop m.copy .busy
        else let x := m.receipt (s.ownerTime m.at_); { s1 with receipts := s1.receipts ++ [x] }.execute x

/-- True when a numbered access can be accepted now where it stands: nothing has to reach its slice before it, the queue has room, and, for an atomic, its granule
does not move (R52, R55). -/
def State.portReady (s : State) (m : RMsg) (r : Req) : Bool :=
  let q : Req := { r with target := m.at_ }
  s.firstToSlice q && s.queueRoom q && (r.acc.isFlush || (s.granule (granuleOf r.addr)).moving.isNone)

/-- True while a numbered operation waits for its shadow: it has not left its core (R159). -/
def State.ropInScb (s : State) : Numbered → Bool
  | .atom r => s.inScb r
  | .append c => s.unmatched c.gid c.id || s.behind c.gid
  | _ => false

/-- True when an owner can take a copy now: one it knows, one it sends on or answers from a hub, or a new one that can be accepted. -/
def State.msgReady (s : State) (m : RMsg) : Bool :=
  !s.ropInScb m.what &&
    match m.what.access with
    | some r => isHub m.at_ || (s.receiptAt m.at_ m.die m.rsn).isSome || s.movedOn m || s.portReady m r
    | none => true

/-- Two messages that travel from one die to another in one class (R371). -/
def RMsg.sameFlow (a b : RMsg) : Bool := a.hdr.sameFlow b.hdr && a.at_ == b.at_

/-- True for the message of its flow that arrives next: those sent before it have arrived, and wait at the owner (R371). -/
def State.arrivesNext (s : State) (m : RMsg) : Bool := (s.rmsgs.takeWhile (fun k => k != m)).all (fun k => !m.sameFlow k || !s.msgReady k)

/-- NUMBERED_REQUEST (R56, R158, R371): the slice takes the next step with an access that the operation has at an owner, or the oldest copy of the operation that is on its
way reaches an owner. -/
def execNumberedRequest (id : Nat) (s : State) : Out3 :=
  .next ((s.portStep id).getD (match s.rmsgs.find? (fun m => m.rop == id) with
    | none => s
    | some m => if s.msgReady m && s.arrivesNext m then s.receive m else s))

/-! Replies (R157, R159) -/

/-- The REMOTE cause a lane has not raised yet, if it holds one. -/
def Lane.remote (x : Lane) : Option Marked := x.marked.find? (fun k => k.rcause != 0)

/-- An atomic that did not complete (R158, R253): its destination carries the REMOTE cause, the lane's first one when it holds one already (log 104); that of an absent
group is kept for its context record (R159). -/
def atomFails (s : State) (n : Rop) (r : Req) (cause : Nat) : State :=
  let own : Marked := { reg := r.dst, n := r.ext.words_, addr := r.va, rsn := n.rsn, rcause := cause, pc := r.pc }
  let mark (x : Lane) : Marked := match x.remote with | some k => { k with reg := own.reg, n := own.n } | none => own
  let s1 := s.onLane r.gid r.lane (fun x =>
    { x with marked := if s.away r.gid then x.marked else x.marked ++ [mark x], pend := x.pend.filter (fun p => p.src != r.id) })
  (if s.away r.gid then
    s1.holdResult r.gid { kind := 4, dst := r.dst, lane := r.lane, vals := [n.rsn, BitVec.ofNat 32 cause], mark := some own }
   else s1).dropReq r.id

/-- A LAUNCH that did not complete: s[D] carries the REMOTE cause, the first one when it fails on several dies (R280, R357). -/
def launchFails (s : State) (n : Rop) (lid cause : Nat) : State :=
  match s.grids.find? (fun g => g.lid == lid) with
  | none => s
  | some g =>
    if g.by_ = 0 then s else
    let mark : Marked := { reg := 0x600 + g.sd, n := 1, addr := 0, rsn := n.rsn, rcause := cause, pc := g.pc }
    if s.away g.by_ then s.holdResult g.by_ { kind := 4, dst := 0x600 + g.sd, lane := 0, vals := [n.rsn, BitVec.ofNat 32 cause], mark := some mark }
    else s.onGroup g.by_ (fun x => { x with markedS := if x.markedS.any (fun m => m.reg == mark.reg) then x.markedS else x.markedS ++ [mark], pendS := x.pendS.filter (fun p => p.2 != lid) })

/-- An operation that is INDETERMINATE or was not executed, as Table 8 of 07 reports it (R158). -/
def State.failRop (s : State) (n : Rop) (cause : Nat) : State :=
  let s0 := s.dropRop n.id
  match n.what with
  | .atom r => atomFails s0 n r cause
  | .launch lid => launchFails s0 n lid cause
  | .append c =>
    match s0.call c.id with
    | some k => s0.endCall k (if cause = 3 then 3 else 2) cause
    | none => s0
  | .flush r => { (s0.dropReq r.id) with poison := addPoison s0.poison (128 * lineOf r.addr) 128 }
  | .peer => s0

/-- The result of an operation is delivered and the operation is complete (R157). -/
def State.finishRop (s : State) (n : Rop) (val : QWord) (w : Nat) : State :=
  let s0 := s.dropRop n.id
  match n.what with
  | .atom r => s0.onReq r.id (fun q => { q with stage := .served, val := val, w := w })
  | .flush r => (s0.tellW r w).dropReq r.id
  | .append c => { s0 with calls := updBy (fun k => k.id == c.id) (fun k => { k with stage := .numbered val.toNat }) s0.calls }
  | .launch lid =>
    match s0.grids.find? (fun g => g.lid == lid) with
    | some g =>
      let owed := g.owed.filter (fun d => d != n.dst)
      let s1 := { s0 with grids := updBy (fun x => x.lid == lid) (fun x => { x with owed := owed }) s0.grids }
      if owed.isEmpty then s1.launchStatus g.by_ g.sd lid 0 else s1
    | none => s0
  | .peer => s0

/-- NUMBERED_REPLY (R157, Table 7): the next reply reaches the ROU. A BUSY counts for give-up while it answers the copy sent last. -/
def execNumberedReply (id : Nat) (s : State) : Out3 :=
  .next (match s.rop id with
    | none => s
    | some n =>
      match n.replies with
      | [] => s
      | (c, y) :: rest =>
        match y with
        | .result v w => s.finishRop n v w
        | .held => s.onRop id (fun r => { r with replies := rest, isHeld := true })
        | .busy => s.onRop id (fun r => { r with replies := rest, lastBusy := r.lastBusy || c == r.copies })
        | .stale => s.failRop n 2
        | .noAtomic => s.failRop n 4
        | .contention => s.failRop n 5)

/-! Retransmission and give-up (R157, R277) -/

/-- The times after the first send at which a copy is sent again, in ticks. -/
def resendAt : List Nat := [4000, 12000, 28000, 60000, 124000, 252000]

/-- A copy of a numbered operation is due. -/
def resendDue (now : Nat) (n : Rop) : Bool :=
  if n.isHeld then decide (n.sentAt + 4000 ≤ now)
  else match resendAt[n.copies - 1]? with
  | some t => decide (n.start + t ≤ now)
  | none => false

/-- The tail read of a call is due again. -/
def tailDue (now : Nat) (c : Call) : Bool :=
  match resendAt[c.tries]? with
  | some t => decide (c.at_ + t ≤ now)
  | none => false

/-- A further copy of an operation is sent to the die that first received it. -/
def State.resend (s : State) (n : Rop) : State :=
  let r : Rop := { n with copies := n.copies + 1, sentAt := s.gtime n.die, lastBusy := false }
  (s.onRop n.id (fun _ => r)).sendCopy r

/-- ROU_RETRANSMIT (R157, R277): a copy of an operation, or of a tail read, is sent again. -/
def execRouRetransmit (id : Nat) (s : State) : Out3 :=
  .next (match s.rop id with
    | some n => if resendDue (s.gtime n.die) n && !s.ropInScb n.what then s.resend n else s
    | none =>
      match s.call id with
      | some c =>
        if c.stage = .asked ∧ (s.appendRop id).isNone ∧ tailDue (s.gtime c.die) c then
          { s with calls := updBy (fun x => x.id == id) (fun x => { x with tries := x.tries + 1 }) s.calls }
        else s
      | none => s)

/-- The give-up time of an operation: 512 µs at a peer's hub, 256 µs elsewhere (R157, R376). -/
def giveUpTicks (n : Rop) : Nat :=
  match n.what with
  | .atom r => if isPeer r.addr then 512000 else 256000
  | _ => 256000

/-- ROU_GIVE_UP (R157, R277): with no final reply in time an operation is NOTEXEC when the copy sent last was refused, INDETERMINATE otherwise, and copies of it on
their way go on; a tail read without answer leaves INDETERMINATE. -/
def execRouGiveUp (id : Nat) (s : State) : Out3 :=
  .next (match s.rop id with
    | some n =>
      if !n.isHeld ∧ n.start + giveUpTicks n ≤ s.gtime n.die ∧ !s.ropInScb n.what then s.failRop n (if n.lastBusy then 3 else 1) else s
    | none =>
      match s.call id with
      | some c =>
        if c.stage = .asked ∧ (s.appendRop id).isNone ∧ c.at_ + 256000 ≤ s.gtime c.die then s.endCall c 2 1 else s
      | none => s)

/-- RECEIPT_RETIRE (R158): a DONE receipt retires once the requester's ACKW, as the owner has it, is newer than its RSN and 1,256 µs have passed. -/
def execReceiptRetire (die reqid : Nat) (rsn : BitVec 32) (s : State) : Out3 :=
  .next { s with
    receipts := s.receipts.filter (fun x =>
      !(x.is die reqid rsn && x.done.isSome && newer (s.seenAck die reqid) rsn && decide (x.at_ + 1256000 ≤ s.ownerTime die))) }

/-! Host atomics (R160, R161) -/

/-- True for the operations a port carries as one PCIe AtomicOp: FetchAdd, Swap and CAS (Table 9). -/
def Access.single : Access → Bool
  | .atom .add _ => true
  | .atom .exch _ => true
  | .cas => true
  | _ => false

/-- The receipt of a numbered operation at a hub's port, while it is EXECUTING there, and its access. -/
def State.portOp (s : State) (rop : Nat) : Option (Receipt × Req) :=
  s.receipts.findSome? (fun x =>
    match x.what with
    | .atom r => if x.rop = rop ∧ isHub x.owner ∧ x.done.isNone then some (x, r) else none
    | _ => none)

/-- True when no atomic of an older lane of its bundle on its word precedes one at its port (R247). -/
def State.portTurn (s : State) (r : Req) : Bool :=
  let before (q : Req) : Bool := r.sibling q && decide (q.id < r.id)
  !(s.rmsgs.any (fun m => match m.what with | .atom q => before q | _ => false)) &&
    !(s.receipts.any (fun x => x.done.isNone && (match x.what with | .atom q => before q | _ => false)))

/-- The port sends an AtomicOp to the host: `op` on the word with its compare value and its operand (R160, Table 9). -/
def State.toHost (s : State) (x : Receipt) (r : Req) (op : Access) (cmp new : QWord) : State :=
  { s with out := s.out ++ [.hostAtomic (x.owner - 16) x.rop (s.pasidOf r.asid) r.addr r.n op cmp new] }

/-- The port reads the word from the host, which is a free value (R161, log 28). -/
def State.askHost (s : State) (r : Req) : State := { s.useFree with out := s.out ++ [.hostRead (s.pasidOf r.asid) r.addr r.n] }

/-- One CAS of a loop at the port: from the value last seen to the one that the atomic makes of it (R161). -/
def State.casLoop (s : State) (x : Receipt) (r : Req) (seen : Nat) : State :=
  (s.onReceipt x (fun x => { x with casTries := x.casTries + 1, casSeen := BitVec.ofNat 128 seen })).toHost x r .cas (BitVec.ofNat 128 seen)
    (BitVec.ofNat 128 (r.newVal seen))

/-- The result of a host atomic. It carries no W of a home (log 37). -/
def State.portResult (s : State) (x : Receipt) (v : QWord) : State := s.receiptDone x (.result v 0)

/-- HOST_ATOMIC (R160, R161): the port, which keeps its receipt, sends the AtomicOp to the host; a CAS loop reads the word first; on a device-locked page
the port reads and writes the word under its lock. -/
def execHostAtomic (id : Nat) (s : State) : Out3 :=
  .next (match s.portOp id with
    | some (x, r) =>
      if !s.portTurn r ∨ x.casTries ≠ 0 then s
      else if r.lock then
        let v := s.hostValue r.n
        ((s.askHost r).hostPut r.asid r.core r.addr r.n (BitVec.ofNat 128 (r.newVal v)) (fullMask r.n)).portResult x (BitVec.ofNat 128 v)
      else if r.acc.single then (s.onReceipt x (fun x => { x with casTries := 1 })).toHost x r r.acc r.cmp r.data
      else (s.askHost r).casLoop x r (s.hostValue r.n)
    | none => s)

/-- HOST_CAS_COMPLETION (R161): the host's Completion of an AtomicOp. A refusal is NOATOMIC; a CAS loop repeats from the returned value until a CAS succeeds,
and after 4,096 failures is CONTENTION. -/
def execHostCasCompletion (id : Nat) (ok refusedByHost : Bool) (seen : BitVec 128) (s : State) : Out3 :=
  .next (match s.portOp id with
    | some (x, r) =>
      let v := seen &&& fullMask r.n
      if x.casTries = 0 ∨ !s.portTurn r then s
      else if refusedByHost then s.receiptDone x .noAtomic
      else if r.acc.single then s.portResult x v
      else if ok then s.portResult x x.casSeen
      else if 4096 ≤ x.casTries then s.receiptDone x .contention
      else s.casLoop x r v.toNat
    | none => s)

end Sys2Proof.Machine
end

