-- ==== Sys2Proof/Machine/System.lean ====
section
/-! DEFINITION. LAUNCH, SNAP, SYSCALL, the privileged operations of SYS, and the hints PFI and HINT (R280 to R293, R340, R341, R401). -/

namespace Sys2Proof.Machine

/-! LAUNCH, SNAP, SYSCALL (R280 to R282) -/

/-- True when a write of core `c` to some of `n` bytes at `pa` has not been performed at its home: an access of the machine for the core comes after it (R66, R67). -/
def State.coreOwes (s : State) (c pa n : Nat) : Bool :=
  s.reqs.any (fun q => !q.isBuf && q.core == c && q.acc.writes && q.stage != .served && overlap q.addr q.n pa n)

/-- True when `n` bytes at an address of a page can be accessed now for `w`: a device-scope load is not held, and no older write of the core is on its way there
(R67, R69, R285). -/
def State.blockReady (s : State) (w : Who) (t : Touch) (e : TlbEntry) (va n : Nat) : Bool :=
  let p := s.frameAt w e va n
  !s.tablesAwaited w e && (t != .load || s.settled p.1 p.2.1) && (decide (4096 ≤ w.bench) || !s.coreOwes (w.bench / 2) p.1 p.2.1)

/-- The check of a block of `n` bytes that the issuing bundle names: bits [63:52], alignment, then its pages (R246); it waits until the block can be accessed. -/
def blockCheck (s : State) (w : Who) (t : Touch) (align n : Nat) (va : DWord) : Checked (List TlbEntry) :=
  if 2 ^ 52 ≤ va.toNat then .fault (dataFault t 4 0 va)
  else if va.toNat % align ≠ 0 then .fault { cause := .align, access := t.code, addr := va }
  else
    let starts := (List.range (n / 65536 + 2)).map (fun i => if i = 0 then va.toNat else va.toNat / 65536 * 65536 + 65536 * i)
    collect ((starts.filter (fun a => decide (a < va.toNat + n))).map (fun a =>
      match s.reach w t a with
      | .page e => if s.blockReady w t e a (min (a / 65536 * 65536 + 65536) (va.toNat + n) - a) then .ok e else .awaited
      | .fail tout level => .fault (dataFault t tout level (BitVec.ofNat 64 a))
      | .awaited => .awaited))

/-- LAUNCH (R280): the checks of the record's address, a device release, which in an assay context waits for the shadow (R295), then the record is read, checked and
sent. -/
def execLaunch (f : Fields) (s : State) : Out3 :=
  run ⟨0x35, 0, 0⟩ f s (fun s =>
    if !s.anyActive f.gd then s.advance f.form.len
    else
      let va := sclVal s.grp f.a
      match blockCheck s s.me .load 256 256 va with
      | .fault i => raiseWith i s
      | .awaited => s
      | .ok _ =>
        ((s.scbNote s.nextId .launch 0 va []).passFalse f).release 2 (s.activeMask f.gd) f.form.len (.launch (sclNum f.d) va s.bundle.pc))

/-- SNAP (R281): in an assay context the lanes are held until a snapshot of the cluster is written. -/
def execSnap (f : Fields) (s : State) : Out3 :=
  run ⟨0x35, 1, 0⟩ f s (fun s =>
    if s.anyActive f.gd && s.isAssay s.grp.uid then (s.snapNote s.grp.uid).holdFor f .snap [] else s.advance f.form.len)

/-- The code of SYSCALL: B, or IMM16 in the extended form. -/
def syscallCode (f : Fields) : Nat := if f.form.isExt then f.imm.toNat % 2 ^ 16 else numOf f.b

/-- SYSV of a context (R355). -/
def Ctx.sysv (c : Ctx) : DWord := c.desc.extractLsb' 576 64
def Ctx.savev (c : Ctx) : DWord := c.desc.extractLsb' 448 64
def Ctx.restv (c : Ctx) : DWord := c.desc.extractLsb' 512 64

/-- SYSCALL (R282, R358): the guard-true lanes enter the system-call routine, with their next instruction as resume PC; in an assay context once the shadow agrees
(R295). -/
def execSyscall (f : Fields) (s : State) : Out3 :=
  run ⟨0x37, 0, 0⟩ f s (fun s =>
    let v := (s.ctx (s.asidOf s.grp)).sysv
    if !s.anyActive f.gd then s.advance f.form.len
    else if v = 0 then raise .illegal s
    else
      let m := s.activeMask f.gd
      let s1 := s.passFalse f
      if s.isAssay s.grp.uid then
        (s1.scbNote s.nextId .syscall 0 (BitVec.ofNat 64 (syscallCode f)) []).holdRel m
          { id := s.nextId, lanes := m, pc := s.bundle.pc, next := s.bundle.pc + BitVec.ofNat 64 f.form.len, scope := 0, stage := 0, waits := [], timed := false,
            cont := .syscall (syscallCode f) }
      else
      { s1 with grp := privEntry 2 (syscallCode f) .syscall v (fun l _ => m.getLsbD l) (fun x => x.pc + BitVec.ofNat 64 f.form.len) s1.grp })

/-! Memory that privileged operations reach (R285) -/

/-- One 64-bit word written as a device-scope store, on a T6 page packed; its W enters `WCT` (R58, R285). -/
def State.sysPut (s : State) (w : Who) (uid : Nat) (va : Nat) (x : Nat) : State :=
  match s.reach w .store va with
  | .page e =>
    let p := s.frameAt w e va 8
    let (d, m) := packVal p.2.2 8 p.2.1 x
    ((s.putPage w e va 8 x).touchCore (((s.group uid).map (fun g => s.unitOf g)).getD 0) p.1 p.2.1 d m).raiseWct uid (s.nextW p.1 p.2.1)
  | _ => s

/-- Words at their offsets from an address. -/
def State.sysPuts (s : State) (w : Who) (uid va : Nat) (l : List (Nat × Nat)) : State := l.foldl (fun t p => t.sysPut w uid (va + p.1) p.2) s

/-- One 64-bit word read as a device-scope load; 0 where it is not mapped. -/
def State.sysGet (s : State) (w : Who) (va : Nat) : Nat := (s.readVA w va 8).getD 0

/-- A SYS operation that acts once per bundle with a guard-true lane. -/
def sysOp (fn : BitVec 3) (f : Fields) (s : State) (body : State → State) : Out3 :=
  run ⟨0x36, fn, 0⟩ f s (fun s => if s.anyActive f.gd then body s else s.advance f.form.len)

/-! BARSAVE and BARRST (R286, R287) -/

/-- A barrier object as a word (R45, Table 4). -/
def Bar.word (b : Bar) : Nat := b.expect.toNat + b.pending.toNat * 2 ^ 12 + (if b.phase then 2 ^ 24 else 0)

/-- A barrier object from its word and its waiter bits. -/
def Bar.ofWord (x : Nat) (w : Sparse QWord) : Bar :=
  { expect := BitVec.ofNat 12 x, pending := BitVec.ofNat 12 (x / 2 ^ 12), phase := x / 2 ^ 24 % 2 = 1, waiters := w }

/-- The groups of a team. -/
def State.groupsOf (s : State) (tu : Nat) : List Group := s.allGroups.filter (fun g => g.team == tu && g.method.isNone && g.uid != 0)

/-- The teams a barrier operation covers: the team, or for kind 1 the cluster's. -/
def State.barTeams (s : State) (t : Team) (kind : Nat) : List Team := if kind = 0 then [t] else s.teams.filter (fun x => x.cluster == t.cluster)

/-- Nothing can arrive at the barriers of these teams any more (R286). -/
def State.barsFixed (s : State) (ts : List Team) : Bool :=
  ts.all (fun t =>
    (s.groupsOf t.uid).all (fun g => g.lanes.all (fun x => x.st != .eligible || x.routine == some .save)) &&
    !(s.tasks.any (fun k => k.team == t.uid && (k.stage == .active || k.stage == .draining))) &&
    !(s.copyq.any (fun c => c.team == t.uid && c.stage == .walking)))

/-- The header of a save block. -/
def barHeader (t : Team) (ng kind : Nat) : Nat :=
  (if kind = 0 then t.bars.length else 16) + ng * 2 ^ 8 + kind * 2 ^ 16 + (if kind = 0 then 0 else t.clsize * 2 ^ 24)

/-- NB, NG, KIND and, for KIND 1, CLSIZE of a header, which BARRST compares; its reserved bits are not looked at (R4, R287). -/
def headerFields (kind h : Nat) : List Nat := [h % 64, h / 2 ^ 8 % 32, h / 2 ^ 16 % 2, if kind = 1 then h / 2 ^ 24 % 16 else 0]

/-- The offset of a waiter mask: barrier `i`, key `k` of its waiter bits. -/
def maskAt (kind i k : Nat) : Nat := if kind = 0 then 448 + 16 * (16 * i + k) else 192 + 16 * (16 * 12 * i + k)

/-- Barrier objects a block holds, and the waiter keys of each. -/
def barCount (kind : Nat) : Nat := if kind = 0 then 48 else 16
def keyCount (kind : Nat) : Nat := if kind = 0 then 16 else 192

/-- The words of a barrier save block (R286, Table 14). -/
def barWords (kind : Nat) (t : Team) (ng : Nat) (bars : List Bar) : List (Nat × Nat) :=
  let head := (0, barHeader t ng kind) :: (List.range 7).map (fun i => (8 + 8 * i, 0))
  let objs := (List.range (barCount kind)).map (fun i => (64 + 8 * i, (bars.getD i default).word))
  let masks := (List.range (barCount kind)).flatMap (fun i => (List.range (keyCount kind)).flatMap (fun k =>
    let m := sget 0 (bars.getD i default).waiters k
    [(maskAt kind i k, (m.setWidth 64).toNat), (maskAt kind i k + 8, ((m >>> 64).setWidth 64).toNat)]))
  head ++ objs ++ masks

/-- Bytes of a save block. -/
def barBytes (kind : Nat) : Nat := if kind = 0 then 12736 else 49344

/-- The barriers a block of a kind holds. -/
def State.kindBars (s : State) (t : Team) (kind : Nat) : List Bar := if kind = 0 then t.bars else (s.clusterOf t).bars

/-- The checks of BARSAVE and BARRST in order: B, alignment and pages, then the rank (R286, R287). -/
def barCheck (s : State) (t : Touch) (kind : Nat) (va : DWord) : Checked (List TlbEntry) :=
  if 2 ≤ kind then .fault { cause := .illegal }
  else match blockCheck s s.me t 64 (barBytes kind) va with
  | .ok l => if kind = 1 ∧ s.myTeam.clrank ≠ 0 then .fault { cause := .illegal } else .ok l
  | x => x

/-- BARSAVE (R286). While the barrier state is not fixed the bundle stays at the instruction. -/
def barsave (f : Fields) (s : State) : State :=
  let kind := numOf f.b
  let t := s.myTeam
  let va := sclVal s.grp f.a
  match barCheck s .store kind va with
  | .fault i => raiseWith i s
  | .awaited => s
  | .ok _ =>
    if s.barsFixed (s.barTeams t kind) then
      (s.sysPuts s.me s.grp.uid va.toNat (barWords kind t (s.groupsOf t.uid).length (s.kindBars t kind))).advance f.form.len
    else s

/-- BARSAVE is held by a structural stall: its checks pass, and the barrier state is not fixed (R268, R286). -/
def barsaveHeld (f : Fields) (s : State) : Bool :=
  match barCheck s .store (numOf f.b) (sclVal s.grp f.a) with
  | .ok _ => s.privileged && !s.barsFixed (s.barTeams s.myTeam (numOf f.b))
  | _ => false

/-- BARSAVE. -/
def execBarsave (f : Fields) (s : State) : Out3 := sysOp 0 f s (barsave f)

/-- The waiter bits of barrier `i` in a block. -/
def blockMasks (s : State) (w : Who) (va kind i : Nat) : Sparse QWord :=
  (List.range (keyCount kind)).foldl (fun m k =>
    let a := va + maskAt kind i k
    sput 0 m k (BitVec.ofNat 128 (s.sysGet w a + 2 ^ 64 * s.sysGet w (a + 8)))) []

/-- What a team's groups find at their RFT: twice the barrier code plus the saved PHASE, the group, and its mask (R287). -/
def rftMasks (kind : Nat) (t : Team) (bars : List Bar) : List (Nat × Nat × QWord) :=
  ((List.range bars.length).zip bars).flatMap (fun p =>
    let code := if kind = 0 then p.1 else 48 + p.1
    (p.2.waiters.filter (fun e => kind == 0 || e.1 / 16 == t.clrank)).map (fun e =>
      (2 * code + (if p.2.phase then 1 else 0), e.1 % 16, e.2)))

/-- BARRST (R287). -/
def barrst (f : Fields) (s : State) : State :=
  let kind := numOf f.b
  let t := s.myTeam
  let va := sclVal s.grp f.a
  match barCheck s .load kind va with
  | .fault i => raiseWith i s
  | .awaited => s
  | .ok _ =>
    let w := s.me
    if headerFields kind (s.sysGet w va.toNat) ≠ headerFields kind (barHeader t (s.groupsOf t.uid).length kind) then raise .illegal s
    else
      let n := (s.kindBars t kind).length
      let bars := (List.range n).map (fun i => Bar.ofWord (s.sysGet w (va.toNat + 64 + 8 * i)) (blockMasks s w va.toNat kind i))
      let put (x : Team) : Team := { x with masks := x.masks.filter (fun m => (m.1 / 2 < 48) != (kind == 0)) ++ rftMasks kind x bars }
      let s1 := if kind = 0 then s.onTeam t.uid (fun x => { (put x) with bars := bars })
        else
          { s with
            clusters := updBy (fun c => c.uid == t.cluster) (fun c => { c with bars := bars }) s.clusters
            teams := updBy (fun x => x.cluster == t.cluster) put s.teams }
      s1.advance f.form.len

/-- BARRST. -/
def execBarrst (f : Fields) (s : State) : Out3 := sysOp 1 f s (barrst f)

/-! SHOOT and PURGE (R288, R289) -/

/-- The TLBs of the module: two benches for each core and one for each quad of every live die (R364). -/
def State.allTlbs (s : State) : List Nat :=
  s.liveDies.flatMap (fun d => (List.range 256).map (fun b => 256 * d + b) ++ (List.range 32).map (fun q => 4096 + 32 * d + q))

/-- SHOOT (R288). -/
def execShoot (f : Fields) (s : State) : Out3 :=
  sysOp 2 f s (fun s =>
    let b := sclVal s.grp f.b
    let kind := bitsOf b 12 2
    if s.hostMode ∨ kind = 3 then raise .illegal s
    else s.holdFor f (.shoot kind (bitsOf b 0 12) (sclVal s.grp f.a)) s.allTlbs)

/-- PURGE (R289): held until every die reports the purge of the tag done. -/
def execPurge (f : Fields) (s : State) : Out3 :=
  sysOp 3 f s (fun s => s.holdFor f (.purge ((sclVal s.grp f.a).toNat % 2 ^ 16)) s.liveDies)

/-! ZEROB (R290) -/

/-- Clears `n` bytes from a byte on. -/
def zeroFrom (m : Sparse Byte) (a n : Nat) : Sparse Byte := m.filter (fun p => decide (p.1 < a) || decide (a + n ≤ p.1))

/-- The check of ZEROB that fails first (R290). -/
def zerobFault (f : Fields) (s : State) : Option FaultInfo :=
  let a := (sclVal s.grp f.a).toNat % 2 ^ 32
  let n := (sclVal s.grp f.b).toNat
  if a % 16 ≠ 0 ∨ n % 16 ≠ 0 then some { cause := .align, access := 3, addr := BitVec.ofNat 64 a }
  else if n ≠ 0 ∧ (2 < a / 2 ^ 28 ∨ s.myTeam.bound (a / 2 ^ 28) < a % 2 ^ 28 + n) then some { cause := .bufrange, access := 3, addr := BitVec.ofNat 64 a }
  else none

/-- Older buffer accesses of the issuing group are not performed yet. -/
def bufOwed (s : State) : Bool := s.reqs.any (fun r => r.isBuf && r.gid == s.grp.uid)

/-- ZEROB (R290). Older buffer accesses of the group are performed first. -/
def zerob (f : Fields) (s : State) : State :=
  let a := (sclVal s.grp f.a).toNat % 2 ^ 32
  let n := (sclVal s.grp f.b).toNat
  let region := a / 2 ^ 28
  let off := a % 2 ^ 28
  let t := s.myTeam
  match zerobFault f s with
  | some i => raiseWith i s
  | none =>
    if bufOwed s then s else
    let put (x : Team) : Team :=
      { x with
        abuf := if region = 0 then zeroFrom x.abuf off n else x.abuf
        wbuf := if region = 1 then zeroFrom x.wbuf off n else x.wbuf
        cbuf := if region = 2 then zeroFrom x.cbuf off n else x.cbuf
        poison := if n = 0 then x.poison else clearPoison x.poison (2 ^ 28 * region + off) n }
    (s.onTeam t.uid put).advance f.form.len

/-- ZEROB. -/
def execZerob (f : Fields) (s : State) : Out3 := sysOp 4 f s (zerob f)

/-! PARK (R291, R357) -/

/-- A REMOTE cause as the five words of a held result (log 38). -/
def markWords (m : Marked) : List Word :=
  [m.rsn, m.pc.setWidth 32, m.addr.setWidth 32, BitVec.ofNat 32 (m.rcause + 16 * m.n + 4096 * (m.pc.toNat / 2 ^ 32 % 2 ^ 20)),
   BitVec.ofNat 32 (m.addr.toNat / 2 ^ 32)]

/-- The REMOTE cause that five words hold. -/
def wordsMark (reg : Nat) (l : List Word) : Marked :=
  let x := (l.getD 3 0).toNat
  { reg := reg, n := x / 16 % 256, addr := BitVec.ofNat 64 ((l.getD 2 0).toNat + 2 ^ 32 * (l.getD 4 0).toNat), rsn := l.getD 0 0, rcause := x % 16,
    pc := BitVec.ofNat 64 ((l.getD 1 0).toNat + 2 ^ 32 * (x / 4096)) }

/-- A held result as the four words of its entry (R357). -/
def Held.entry (h : Held) : List Nat :=
  let v := match h.mark with | some m => markWords m | none => h.vals
  let w (i : Nat) : Nat := (v.getD i 0).toNat
  let w0 := h.dst % 2 ^ 11 + h.lane % 256 * 2 ^ 16 + h.kind % 256 * 2 ^ 24
  [w0 + 2 ^ 32 * w 0, w 1 + 2 ^ 32 * w 2, w 3 + 2 ^ 32 * w 4, 0]

/-- The words of a context record (R357). -/
def recordWords (wd : List (Nat × List DWord)) (held : List Held) : List (Nat × Nat) :=
  let head := (0, wd.length % 64 + held.length % 512 * 2 ^ 16) :: (List.range 7).map (fun i => (8 + 8 * i, 0))
  let ops := ((List.range wd.length).zip wd).flatMap (fun p =>
    (64 + 64 * p.1, p.2.1) :: (List.range 7).map (fun i => (72 + 64 * p.1 + 8 * i, if i < 6 then (p.2.2.getD i 0).toNat else 0)))
  let res := ((List.range held.length).zip held).flatMap (fun p => (List.range 4).map (fun i => (2112 + 32 * p.1 + 8 * i, p.2.entry.getD i 0)))
  head ++ ops ++ res

/-- A group's context record is written (R159, R357). -/
def State.writeRecord (s : State) (g : Group) : State :=
  s.sysPuts (sysWho (s.asidOf g) (s.dieOf g)) g.uid g.ctxrec.toNat (recordWords (g.withdrawn.map (fun p => (p.1, p.2.take 6))) g.held)

/-- True for a group that is PARKED or EXITED. -/
def Group.gone (g : Group) : Bool := g.isParked || g.lanes.all (fun x => x.st == .exited)

/-- When every group of a team is PARKED or EXITED, the team's resources return to the distributor (R291). -/
def State.parkTeam (s : State) (tu : Nat) : State :=
  let gs := s.groupsOf tu
  if gs.all Group.gone then
    let t := s.team tu
    let waits := gs.all (fun g => g.lanes.all (fun x => bitsOf x.prstate 0 4 == 4 || bitsOf x.prstate 0 4 == 9 || x.st == .exited))
    let ms := s.monitors.filter (fun m => gs.any (fun g => g.uid == m.gid))
    let p : Parked := { team := t, groups := gs, monitors := if waits then ms else [], woken := false, snap := false, avoid := none }
    let keep (g : Group) : Bool := !(g.team == tu && g.method.isNone)
    let s := s.ranHere t.lid (128 * t.die + t.core)
    { s with
      parked := s.parked ++ [p]
      teams := s.teams.filter (fun x => x.uid != tu)
      groups := s.groups.filter keep
      grp := if keep s.grp then s.grp else Group.none
      monitors := s.monitors.filter (fun m => !(gs.any (fun g => g.uid == m.gid))) }
  else s

/-- True when a group's PARK is over: every lane that is not EXITED stands at one, and the counters of the group, and of the groups of its team that have
EXITED, are zero (R87, R291). -/
def State.parkDone (s : State) (g : Group) : Bool :=
  g.lanes.all (fun x => x.st == .exited || x.hold == .park) && g.ops.isEmpty &&
    (s.groupsOf g.team).all (fun x => x.uid == g.uid || x.lanes.any (fun y => y.st != .exited) || x.ops.isEmpty)

/-- PARK is held by a structural stall: its lanes stand there, and it is not over (R268, R291). -/
def parkHeld (f : Fields) (s : State) : Bool := (s.actives f.gd).all (fun p => p.2.hold == .park) && s.anyActive f.gd && !s.parkDone s.grp

/-- PARK (R291): the bundle's lanes stand at PARK; once every lane of the group does and its counters are zero, the group is PARKED. -/
def park (f : Fields) (s : State) : State :=
  if (s.actives f.gd).any (fun p => p.2.routine != some .save) then raise .illegal s
  else if s.grp.ctxrec = 0 then raise .illegal s
  else
    let m := s.activeMask f.gd
    let s1 := (s.passFalse f).onLanes (fun l x => if m.getLsbD l then { x with hold := .park } else x)
    if s1.parkDone s1.grp then
      match blockCheck s1 (sysWho (s.asidOf s.grp) (s.dieOf s.grp)) .store 16384 12352 s.grp.ctxrec with
      | .fault i => raiseWith i s
      | .awaited => s1
      | .ok _ =>
        let s2 := s1.writeRecord s1.grp
        ({ s2 with grp := { s2.grp with isParked := true } }).parkTeam s.grp.team
    else s1

/-- PARK. -/
def execPark (f : Fields) (s : State) : Out3 := sysOp 5 f s (park f)

/-! RFT (R292, R287, R359) -/

/-- The instruction after the one at an address, whose first word gives its length; RFT has fetched that word (log 110). -/
def nextAfter (s : State) (g : Group) (pc : DWord) : DWord :=
  match fetchWord s (s.who g true) pc with
  | .ok w => pc + BitVec.ofNat 64 (Enc.formOf w).len
  | _ => pc + 4

/-- A result of a context record or of the group's own list is applied to its destinations (R159, R292). -/
def applyHeld (h : Held) (g : Group) : Group :=
  let onLane (f : Lane → Lane) : Group := { g with lanes := mapLanes (fun l x => if l = h.lane then f x else x) 0 g.lanes }
  match h.kind with
  | 1 => onLane (fun x => ((List.range 5).zip h.vals).foldl (fun (y : Lane) p => y.setReg (8 + p.1) p.2) x)
  | 2 => onLane (fun x => x.setReg 12 (h.vals.getD 0 0))
  | 3 => { g with s := sput 0 g.s (h.dst % 64) ((h.vals.getD 1 0) ++ (h.vals.getD 0 0)) }
  | 4 =>
    let m := h.mark.getD (wordsMark h.dst h.vals)
    if 0x600 ≤ h.dst then { g with markedS := g.markedS ++ [m] } else onLane (fun x => { x with marked := x.marked ++ [m] })
  | _ => g

/-- The held results of a context record (R357). -/
def readHeld (s : State) (w : Who) (va k : Nat) : Held :=
  let x (i : Nat) : Nat := s.sysGet w (va + 2112 + 32 * k + 8 * i)
  let word (i : Nat) : Word := BitVec.ofNat 32 (x ((i + 1) / 2) / 2 ^ (32 * ((i + 1) % 2)))
  { kind := x 0 / 2 ^ 24 % 256, dst := x 0 % 2 ^ 11, lane := x 0 / 2 ^ 16 % 256, vals := (List.range 5).map word, mark := none }

/-- The tile operation of a FN. -/
def tileOpOf (fn : Nat) : TileOp :=
  match fn with
  | 0 => .mma
  | 1 => .mmaz
  | 2 => .qout
  | 3 => .trot
  | _ => .tzero

/-- A withdrawn operation is posted again as one of the group's youngest of its class (R123). A copy is walked in user mode: the record has no place for the mode it was
posted in (log 109). -/
def repost (s : State) (w0 : Nat) (d : List DWord) (pc : DWord) : State :=
  match w0 % 256 with
  | 1 => (s.count 2 true).postCopy s.grp s.nextId (w0 / 2 ^ 16 % 64) (d.take 6) pc false
  | 2 => (s.count 3 true).postTile s.grp s.nextId 0 pc (tileOpOf (w0 / 2 ^ 8 % 256)) (d.take 4)
  | _ => s

/-- The calls and launches of a group that have not answered make their destinations pending again, but for a LAUNCH that left its REMOTE cause there (R280). -/
def State.repend (s : State) : State :=
  let u := s.grp.uid
  let mine (l : Nat) : List Pend :=
    (s.calls.filter (fun c => c.gid == u && c.lane == l)).map (fun c => if c.sync then { reg := 12, n := 1, src := c.id } else { reg := 8, n := 5, src := c.id })
  let sc := (s.grids.filter (fun g => g.by_ == u && !g.owed.isEmpty && !(s.grp.markedS.any (fun m => m.reg == 0x600 + g.sd)))).map (fun g => (g.sd, g.lid))
  { s with grp := { s.grp with
      lanes := mapLanes (fun l x => { x with pend := x.pend ++ mine l }) 0 s.grp.lanes
      pendS := s.grp.pendS ++ sc } }

/-- The header of the issuing group's context record; 0 where RFT finds none (R357, R359). -/
def recordHead (fromRecord : Bool) (s : State) : Nat :=
  if fromRecord ∧ s.grp.ctxrec ≠ 0 then s.sysGet (sysWho (s.asidOf s.grp) (s.dieOf s.grp)) s.grp.ctxrec.toNat else 0

/-- The operations withdrawn from the issuing group at its PREEMPT: those of its context record once it is restored, with the instructions that posted
them. -/
def withdrawnOps (fromRecord : Bool) (s : State) : List (Nat × List DWord × DWord) :=
  let w := sysWho (s.asidOf s.grp) (s.dieOf s.grp)
  let va := s.grp.ctxrec.toNat
  let pcOf (k : Nat) : DWord := (((s.grp.withdrawn[k]?).map (fun p => p.2)).getD []).getD 6 0
  let word (i : Nat) : Nat := s.sysGet w (va + i)
  if fromRecord then
    (List.range (recordHead fromRecord s % 64)).map (fun k => (word (64 + 64 * k), (List.range 6).map (fun i => BitVec.ofNat 64 (word (72 + 64 * k + 8 * i))), pcOf k))
  else s.grp.withdrawn.map (fun p => (p.1, p.2.take 6, p.2.getD 6 0))

/-- The groups that have EXITED, of the team or of a team of its cluster that has no other, and whose operations a PREEMPT withdrew: they execute no RFT (log 106). -/
def State.exitedMates (s : State) : List Group :=
  let out (g : Group) : Bool := g.lanes.all (fun x => x.st == .exited)
  let idle (tu : Nat) : Bool := (s.team tu).cluster == s.myTeam.cluster && (s.groupsOf tu).all out
  s.groups.filter (fun g => (g.team == s.grp.team || idle g.team) && g.method.isNone && !g.withdrawn.isEmpty && out g)

/-- Posts a list of withdrawn operations of the issuing group again in their order. -/
def repostAll (l : List (Nat × List DWord × DWord)) (s : State) : State :=
  l.foldl (fun t p => repost t p.1 p.2.1 p.2.2) { s with grp := { s.grp with withdrawn := [] } }

/-- The operations of an EXITED group are posted again, with the first RFT of its team (log 106). -/
def repostMate (s : State) (g : Group) : State :=
  let t := repostAll (g.withdrawn.map (fun p => (p.1, p.2.take 6, p.2.getD 6 0))) { s with grp := g, groups := s.groups.filter (fun x => x.uid != g.uid) }
  { t with grp := s.grp, groups := t.groups ++ [t.grp] }

/-- What the first RFT of a group does before any of its lanes resumes (R292): a restored group takes its context record's results and withdrawn operations, and
those the machine kept for it since; the handler set of a trap in progress is whole again before the first of its lanes goes on (R34). -/
def firstRft (fromRecord : Bool) (s : State) : State :=
  let w := sysWho (s.asidOf s.grp) (s.dieOf s.grp)
  let recs := (List.range (recordHead fromRecord s / 2 ^ 16 % 512)).map (readHeld s w s.grp.ctxrec.toNat)
  let g := (recs ++ s.grp.held).foldl (fun g h => applyHeld h g) s.grp
  let also (l : Nat) : List Marked := (g.marks.filter (fun p => p.1 == l)).map (fun p => p.2)
  let lanes := mapLanes (fun l x => { (if x.routine.isSome then { x with inH := bitAt x.prstate 4 } else x) with marked := x.marked ++ also l }) 0 g.lanes
  let s1 := { s with monitors := s.monitors.filter (fun m => m.gid != g.uid), grp := { g with aside := false, held := [], marks := [], lanes := lanes } }
  (s.exitedMates.foldl repostMate (repostAll (withdrawnOps fromRecord s) s1)).repend

/-- The barrier code, saved PHASE and mask under which a lane waits again (R287). -/
def rftWait (t : Team) (gid l : Nat) : Option (Nat × Bool) :=
  (t.masks.find? (fun m => m.2.1 == gid && m.2.2.getLsbD l)).map (fun m => (m.1 / 2, m.1 % 2 == 1))

/-- A lane leaves a privileged routine for the PC and state recorded (R292, R359). Of the values of `PRSTATE` that name no state, each leaves the lane
ELIGIBLE (log 39). -/
def rftLane (s : State) (t : Team) (acq : List Nat) (l : Nat) (x : Lane) : Lane :=
  let y := { x with routine := none, pc := x.prpc &&& ~~~3, inH := bitAt x.prstate 4, st := .eligible, hold := .none }
  match bitsOf x.prstate 0 4 with
  | 2 =>
    let next := nextAfter s s.grp x.prpc
    match rftWait t s.grp.gid l with
    | some (code, ph) =>
      if (s.bar t code).phase = ph then { y with st := .barrier, hold := .barrier code next } else { y with pc := next, acq := acq }
    | none => { y with pc := next, acq := acq }
  | 7 => { y with st := .trapheld, heldAt := bitsOf x.prheld 48 16, heldLen := (nextAfter s s.grp x.prpc - x.prpc).toNat }
  | 9 => { y with st := .exited }
  | _ => y

/-- True for a bundle whose RFT is the first of its group since the PREEMPT. -/
def rftFirst (f : Fields) (s : State) : Bool := s.grp.aside && !(s.actives f.gd).all (fun p => p.2.routine == some .syscall)

/-- True for a bundle that leaves a restore routine. -/
def rftRestores (f : Fields) (s : State) : Bool := (s.actives f.gd).any (fun p => p.2.routine == some .restore)

/-- A check with no value of interest. -/
def Checked.unit {α : Type} : Checked α → Checked Word
  | .ok _ => .ok 0
  | .fault i => .fault i
  | .awaited => .awaited

/-- What RFT reads before it acts: the group's context record at its first RFT, and the instruction of each lane that goes on after it or whose length a held trap
needs (log 110). -/
def rftReads (f : Fields) (s : State) : Checked (List Word) :=
  let w := sysWho (s.asidOf s.grp) (s.dieOf s.grp)
  let rec_ := if rftFirst f s && rftRestores f s && s.grp.ctxrec != 0 then [(blockCheck s w .load 16384 12352 s.grp.ctxrec).unit] else []
  let words := ((s.actives f.gd).filter (fun p => bitsOf p.2.prstate 0 4 == 2 || bitsOf p.2.prstate 0 4 == 7)).map (fun p => fetchWord s (s.who s.grp true) p.2.prpc)
  collect (rec_ ++ words)

/-- The withdrawn operations that a first RFT posts do not fit the engines' queues and tables yet: RFT is held (R116, R128). -/
def rftFull (f : Fields) (s : State) : Bool :=
  let ops := (withdrawnOps (rftRestores f s) s).map (fun p => p.1) ++ s.exitedMates.flatMap (fun g => g.withdrawn.map (fun p => p.1))
  let n (k : Nat) : Nat := (ops.filter (fun w => w % 256 == k)).length
  let u := s.unitOf s.grp
  rftFirst f s && !ops.isEmpty &&
    (decide (16 < (s.copyq.filter (fun c => c.core == u)).length + n 1) || decide (32 < (s.tasks.filter (fun t => t.quad == u / 4)).length + n 2) ||
      decide (16 < (s.tasks.filter (fun t => t.core == u)).length + n 2))

/-- RFT (R292). -/
def rft (f : Fields) (s : State) : State :=
  if (s.actives f.gd).any (fun p => p.2.routine.isNone) then raise .illegal s
  else match rftReads f s with
  | .fault i => raiseWith i s
  | .awaited => s
  | .ok _ =>
    if rftFull f s then s else
    let m := s.activeMask f.gd
    let s0 := s.passFalse f
    let s1 := if rftFirst f s then firstRft (rftRestores f s) s0 else s0
    let a := s1.acquireSet s1.grp
    let s2 := s1.onLanes (fun l x => if m.getLsbD l then rftLane s1 s1.myTeam a l x else x)
    if rftRestores f s then { s2 with grp := takeHeld (settleTrap s2.grp) } else s2

/-- RFT. -/
def execRft (f : Fields) (s : State) : Out3 := sysOp 6 f s (rft f)

/-! DESC (R293, R130, R144, R145) -/

/-- A finite FP32 value that is not below zero. -/
def goodRadius (x : Word) : Bool := finite32 x && (!x.getLsbD 31 || x == 0x80000000)

/-- A descriptor's HANDLE lies in a context's table of `count` entries and its ASID is the context's (R293). -/
def handleOk {n : Nat} (asid count : Nat) (d : BitVec n) : Bool := decide (bitsOf d 0 16 < count) && bitsOf d 16 12 == asid

/-- The limits of a routine descriptor (R130, Table 1). -/
def routineOk (d : BitVec 1024) : Bool :=
  let n := rdN d
  decide (1 ≤ n) && decide (n ≤ 8) && decide (1 ≤ rdM d) && decide (rdM d ≤ 8)
    && decide (n * rdM d ≤ 32) && decide (1 ≤ rdQuota d) && decide (rdQuota d ≤ 16) && decide (bitsOf d 64 64 < 2 ^ 52) && bitsOf d 64 2 == 0
    && goodRadius (rdAtol d) && goodRadius (rdRtol d)
    && (List.range n).all (fun i => decide (-126 ≤ rdPitch d i) && goodRadius (rdR0 d i) && goodRadius (rdRmax d i) && decide (mag32 (rdR0 d i) ≤ mag32 (rdRmax d i)))

/-- The bytes of an object's log ring (R144). -/
def odLogBytes (d : BitVec 512) : Nat := 2 ^ odLogLg d * 64

/-- The limits of an object descriptor, mapped pages apart (R144, Table 1). -/
def objectOk (d : BitVec 512) : Bool :=
  let len := bitsOf d 192 17
  decide (11 ≤ odLogLg d) && decide (odLogLg d ≤ 16) && odLogVA d % 65536 == 0 && odInitVA d % 64 == 0 && decide (64 ≤ len) && decide (len ≤ 65536) &&
    len % 64 == 0 && odMtabVA d % 16 == 0

/-- Writes a table entry of `n` words. -/
def State.putEntry (s : State) (va : Nat) (n x : Nat) : State :=
  s.sysPuts s.me s.grp.uid va ((List.range n).map (fun i => (8 * i, x / 2 ^ (64 * i) % 2 ^ 64)))

/-- A routine is installed or removed: every die's records of the handle are invalidated, and the table entry is written. -/
def installRoutine (c : Ctx) (asid : Nat) (d : BitVec 1024) (s : State) : State :=
  let h := bitsOf d 0 16
  let s1 := { s with frecs := s.frecs.filter (fun q => !(q.handle == h && q.asid == asid)) }
  s1.putEntry (bitsOf c.desc 256 64 + 128 * h) 16 d.toNat

/-- The method table of an object (R145). -/
def readMethods (s : State) (w : Who) (d : BitVec 512) : List (DWord × Bool × Nat × Nat) :=
  (List.range (odMethods d)).map (fun i =>
    let x := s.sysGet w (odMtabVA d + 16 * i + 8)
    (BitVec.ofNat 64 (s.sysGet w (odMtabVA d + 16 * i)), x % 2 = 1, x / 2 % 8, x / 16 % 4))

/-- The initial state block as the memory holds it. -/
def readBlock (s : State) (w : Who) (va : Nat) : Nat → Sparse Byte → Sparse Byte
  | 0, b => b
  | n + 1, b => readBlock s w va n (wrBytes b (8 * n) 8 (s.sysGet w (va + 8 * n)))

/-- Writes zero over what `n` bytes at a physical address hold, as device-scope stores of a die whose W enter the `WCT` of group `uid` (R285). -/
def State.zeroPhys (s : State) (uid d pa n : Nat) : State :=
  let blocks := List.dedup ((s.mem.filter (fun c => decide (pa ≤ c.1) && decide (c.1 < pa + n))).map (fun c => c.1 / 16 * 16))
  blocks.foldl (fun t a => ((t.combineNow (lineOf a)).orderWrite d 1 a 16 0 (fullMask 16)).raiseWct uid (t.nextW a 16)) s

/-- The log of an object is zeroed, page by page (R155, R293). -/
def State.zeroLog (s : State) (uid : Nat) (o : Obj) : State :=
  let w := sysWho o.asid (odLogHome o.desc)
  (List.range ((odLogBytes o.desc + 65535) / 65536)).foldl (fun t i =>
    match t.reach w .store (odLogVA o.desc + 65536 * i) with
    | .page e =>
      let p := t.frameAt w e (odLogVA o.desc + 65536 * i) (min 65536 (odLogBytes o.desc - 65536 * i))
      t.zeroPhys uid (odLogHome o.desc) p.1 p.2.1
    | _ => t) s

/-- The object at a handle is removed: its pending calls fail, and its copies and its log are gone (R155, R293). -/
def dropObject (s : State) (asid h : Nat) : State :=
  match s.object asid h with
  | none => s
  | some o =>
    let s1 := (s.failObject o.id).zeroLog s.grp.uid o
    { s1 with objs := s1.objs.filter (fun x => x.id != o.id), ocopies := s1.ocopies.filter (fun x => x.obj != o.id) }

/-- An object is installed: every die's copy is loaded and the log is empty, or it is removed (R293). -/
def installObject (c : Ctx) (asid : Nat) (d : BitVec 512) (s : State) : State :=
  let h := bitsOf d 0 16
  let w := s.me
  let s1 := dropObject s asid h
  let s2 := s1.putEntry (bitsOf c.desc 320 64 + 64 * h) 8 d.toNat
  if !bitAt d 63 then s2 else
  let id := s2.nextId
  let b := readBlock s w (odInitVA d) (bitsOf d 192 17 / 8) []
  let o : Obj :=
    { id := id, handle := h, asid := asid, desc := d, mtab := readMethods s w d, next := 0, trim := 0, agreed := none, reports := [], digests := [],
      firstDigest := [], minority := [], failed := false }
  let copies := (List.range 16).map (fun die =>
    ({ die := die, obj := id, bytes := b, applied := 0, ckBytes := [], ckSeq := none, sent := [], resync := none, traps := 0, resyncs := 0, idleSince := s.cycle } : ObjCopy))
  ({ s2 with objs := s2.objs ++ [o], ocopies := s2.ocopies ++ copies, nextId := id + 1 }).dropObjCopies

/-- What a DESC ends in once its checks are made: STOREDESC or DATA, a wait, or the installation `go` (R293). -/
def descGo (ok : Bool) (pages : Checked (List Word)) (f : Fields) (go : State → State) (s : State) : State :=
  if !ok then raise .storedesc s else
  match pages with
  | .fault i => raiseWith i s
  | .awaited => s
  | .ok _ => (go s).advance f.form.len

/-- DESC of a routine. HANDLE and ASID are checked whatever VALID is (log 108), and a table entry that cannot be written raises DATA (log 40). -/
def descRoutine (f : Fields) (s : State) : State :=
  let va := sclVal s.grp f.a
  let asid := s.asidOf s.grp
  match blockCheck s s.me .load 128 128 va with
  | .fault i => raiseWith i s
  | .awaited => s
  | .ok _ =>
    let d : BitVec 1024 := BitVec.ofNat 1024 ((s.readWords s.me va.toNat 16).getD 0)
    let c := s.ctx asid
    let entry := (blockCheck s s.me .store 1 128 (BitVec.ofNat 64 (bitsOf c.desc 256 64 + 128 * bitsOf d 0 16))).unit
    descGo (handleOk asid (bitsOf c.desc 384 16) d && (!bitAt d 63 || routineOk d)) (collect [entry]) f (installRoutine c asid d) s

/-- The pages of an object's log ring, which an installation needs readable and writable (R144, Table 1). -/
def logPages (s : State) (d : BitVec 512) : Checked (List TlbEntry) := blockCheck s s.me .atomic 1 (odLogBytes d) (BitVec.ofNat 64 (odLogVA d))

/-- True for a check that ends in a fault. -/
def Checked.fails {α : Type} : Checked α → Bool
  | .fault _ => true
  | _ => false

/-- A check that only waits: what cannot be reached is passed over. -/
def Checked.lenient {α : Type} : Checked α → Checked Word
  | .awaited => .awaited
  | _ => .ok 0

/-- DESC of an object. A log ring that is not mapped is beyond a limit of Table 1; an initial block, method table or table entry that cannot be reached raises DATA
(log 40). The log of an object that is removed is zeroed where it is mapped. -/
def descObject (f : Fields) (s : State) : State :=
  let va := sclVal s.grp f.a
  let asid := s.asidOf s.grp
  match blockCheck s s.me .load 64 64 va with
  | .fault i => raiseWith i s
  | .awaited => s
  | .ok _ =>
    let d : BitVec 512 := BitVec.ofNat 512 ((s.readWords s.me va.toNat 8).getD 0)
    let c := s.ctx asid
    let entry := (blockCheck s s.me .store 1 64 (BitVec.ofNat 64 (bitsOf c.desc 320 64 + 64 * bitsOf d 0 16))).unit
    let old := match s.object asid (bitsOf d 0 16) with | some o => [(logPages s o.desc).lenient] | none => []
    let new := if bitAt d 63 then
        [(logPages s d).unit, (blockCheck s s.me .load 64 (bitsOf d 192 17) (BitVec.ofNat 64 (odInitVA d))).unit,
          (blockCheck s s.me .load 16 (16 * odMethods d) (BitVec.ofNat 64 (odMtabVA d))).unit]
      else []
    descGo (handleOk asid (bitsOf c.desc 400 16) d && (!bitAt d 63 || (objectOk d && !(logPages s d).fails))) (collect (new ++ [entry] ++ old)) f
      (installObject c asid d) s

/-- DESC (R293). -/
def execDesc (f : Fields) (s : State) : Out3 :=
  sysOp 7 f s (fun s => if numOf f.b = 0 then descRoutine f s else if numOf f.b = 1 then descObject f s else raise .illegal s)

/-! Hints (R283, R284, R340, R341) -/

/-- A core asks for a line of code on behalf of a context; a line that is present or on its way is not asked for again (R340). -/
def Core.askLine (asid line : Nat) (k : Core) : Core :=
  if k.icache.contains line || k.fills.contains line then k
  else { k with fills := k.fills ++ [line], owners := k.owners.filter (fun p => p.1 != line) ++ [(line, asid)] }

/-- One line of a PFI of a bench of core `c`: a fill on its way, a dropped line counted in `PFDROP`, or a line whose translation is awaited, which holds no lane. -/
def prefetchAt (c : Nat) (w : Who) (va : DWord) (s : State) : State :=
  s.onCore c (fun k =>
    match s.reach w .fetch va.toNat with
    | .page e => k.askLine w.asid (lineOf (e.phys va.toNat))
    | .fail _ _ => { k with pfdrop := k.pfdrop + 1 }
    | .awaited => { k with pfis := k.pfis ++ [(w.bench, w.asid, va)] })

/-- The line of the target and the `n` lines that follow it. -/
def prefetchLines (n : Nat) (va : DWord) (s : State) : State :=
  let base := va.toNat / 128 * 128
  (List.range (n + 1)).foldl (fun t i => prefetchAt (s.unitOf s.grp) s.me (BitVec.ofNat 64 (base + 128 * i)) t) s

/-- PFI in the base form, which has no guard (R283). -/
def execPfi (f : Fields) (s : State) : Out3 :=
  hinted s ((prefetchLines 0 (s.bundle.pc + BitVec.ofInt 64 (4 * sextNat 24 f.imm.toNat)) s).advance f.form.len)

/-- PFI in the extended forms: it acts when some lane's guard is true (R283). -/
def execPfiX (f : Fields) (s : State) : Out3 :=
  let target := if f.form.hasLit then f.lit else s.bundle.pc + BitVec.ofInt 64 (4 * sextNat 16 f.imm.toNat)
  hinted s ((if s.anyActive f.gd then prefetchLines (f.md.toNat % 8) target s else s).advance f.form.len)

/-- A trace marker's 16 bytes (R401). -/
def traceEntry (s : State) (v : Nat) : Nat :=
  s.now + 2 ^ 64 * (v % 4096 + s.grp.slot * 2 ^ 12 + s.grp.bench % 2 * 2 ^ 17 + s.coreOf s.grp % 128 * 2 ^ 18)

/-- Appends a marker to the core's trace buffer; a full buffer stops tracing and logs the loss (R401). The buffer's address is physical (log 41). -/
def traceMark (v : Nat) (s : State) : State :=
  let c := s.unitOf s.grp
  match (s.core c).trace with
  | none => s
  | some (va, len, used) =>
    if s.isSealed then s
    else if len < used + 16 then
      (s.onCore c (fun k => { k with trace := none })).logError (s.dieOf s.grp) 2 (coreUnit c) 0 va
    else
      (s.orderWrite (s.dieOf s.grp) 1 (va.toNat + used) 16 (BitVec.ofNat 128 (traceEntry s v)) (fullMask 16)).onCore c
        (fun k => { k with trace := some (va, len, used + 16) })

/-- HINT (R284): a trace marker when the core's tracing is on, NOP otherwise. -/
def execHint (f : Fields) (s : State) : Out3 :=
  hinted s ((if s.anyActive f.gd then traceMark f.imm.toNat s else s).advance f.form.len)

end Sys2Proof.Machine
end

