-- ==== Sys2Proof/Machine/Contain.lean ====
section
/-! DEFINITION. How work ends: completion records (R351, R353), grids that fail (R353), purges and kills (R289, R388 to R391), and the steps of faults and translations
(R342, R361, R364 to R366). -/

namespace Sys2Proof.Machine

/-! Removing teams (R87, R123, R391) -/

/-- True for a group of a removed team. -/
def deadGroup (s : State) (p : Team → Bool) (u : Nat) : Bool :=
  s.allGroups.any (fun g => g.uid == u && g.uid != 0 && g.method.isNone && p (s.team g.team)) ||
    s.parked.any (fun k => p k.team && k.groups.any (fun g => g.uid == u))

/-- The group a numbered operation serves. -/
def Numbered.gid : Numbered → Nat
  | .atom r => r.gid
  | .append c => c.gid
  | .flush r => r.gid
  | .launch _ => 0
  | .peer => 0

/-- What the groups `u` hold for their shadows is gone, unsent (R159, R384, R385). -/
def State.dropUnsent (s : State) (u : Nat → Bool) : State :=
  let held (g id : Nat) : Bool := u g && s.unmatched g id
  let heldOp (n : Numbered) : Bool := u n.gid && s.ropInScb n
  let f (g : Group) : Group := { g with rels := g.rels.filter (fun r => !held g.uid r.id) }
  { s with
    grp := f s.grp
    groups := s.groups.map f
    reqs := s.reqs.filter (fun r => !held r.gid r.id)
    rops := s.rops.filter (fun r => !heldOp r.what)
    rmsgs := s.rmsgs.filter (fun m => !heldOp m.what)
    inserts := s.inserts.filter (fun i => !held i.gid i.id)
    copyq := s.copyq.filter (fun c => !held c.gid c.id)
    tasks := s.tasks.filter (fun x => !held x.gid x.id)
    calls := s.calls.filter (fun c => !held c.gid c.id) }

/-- The headframe cores write the records of the faults that satisfy `p` and have none yet (R360). -/
def State.recordFaults (s : State) (p : PFault → Bool) : State := (s.faults.filter (fun f => p f && !f.written)).foldl (fun t f => t.recordFault f.id) s

/-- A fault among those that satisfy `p` waits for the translation of its record's slot (R365). -/
def State.slotsAwaited (s : State) (p : PFault → Bool) : Bool := s.faults.any (fun f => p f && s.slotAwaited f)

/-- Removes resident and parked teams with their groups, engine work and unsent accesses, once the records of their faults are written (R360); what was sent completes, and memory keeps its
values (R87, R391). -/
def State.removeTeams (s0 : State) (p : Team → Bool) : State :=
  let dead (u : Nat) : Bool := deadGroup s0 p u
  let s1 := (s0.recordFaults (fun f => dead f.gid)).dropUnsent dead
  let s := (s1.teams.filter p).foldl (fun t x => t.ranHere x.lid (128 * x.die + x.core)) s1
  let left := s.teams.filter (fun t => !p t)
  let stay := s.parked.filter (fun k => !p k.team)
  { s with
    teams := left
    parked := stay
    clusters := s.clusters.filter (fun c => left.any (fun t => t.cluster == c.uid) || stay.any (fun k => k.team.cluster == c.uid))
    grp := if dead s.grp.uid then Group.none else s.grp
    groups := s.groups.filter (fun g => !dead g.uid)
    reqs := s.reqs.filter (fun r => !(dead r.gid && r.isBuf))
    tasks := s.tasks.filter (fun x => !dead x.gid)
    copyq := s.copyq.filter (fun x => !dead x.gid)
    monitors := s.monitors.filter (fun x => !dead x.gid)
    lookups := s.lookups.filter (fun x => !dead x.gid)
    calls := s.calls.filter (fun x => !dead x.gid)
    faults := s.faults.filter (fun x => !dead x.gid) }

/-! The end of a grid (R351 to R353) -/

/-- The lead die: the lowest die of the set that queued the launch. -/
def Grid.lead (g : Grid) : Nat := (dieList g.record).foldl (fun m d => if g.queued.contains d then min m d else m) 15

/-- The words of a completion record (R351, Table 4). -/
def completionWords (g : Grid) (tend : Nat) : List (Nat × Nat) :=
  [(8, g.faultrec.toNat), (16, tend), (24, g.teamsDone % 2 ^ 33), (32, 0), (40, 0), (48, 0), (56, 0),
   (0, g.state % 256 + g.cause % 256 * 2 ^ 8 + g.rqtag * 2 ^ 16 + g.unit.toNat * 2 ^ 32)]

/-- The fault of a completion record that cannot be written (R351). -/
def completionFault (s : State) (g : Grid) (tout level : Nat) : PFault :=
  { id := 0, gid := 0, walk := 0, cause := .data, access := 3, replay := false, tout := tout, level := level, asid := g.asid, rqtag := g.rqtag, pc := 0,
    addr := BitVec.ofNat 64 (recCompva g.record), lanes := 0, unit := BitVec.ofNat 32 (7 * 2 ^ 28 + g.lead * 2 ^ 24), gslot := 0, bench := 0,
    time := s.gtime g.lead, rsn := 0, rcause := 0, recVA := 0, written := false }

/-- The lead die writes the completion record, words 1 to 7 first, or a fault record where COMPVA cannot be written; the grid then owes its interrupt. While a translation is
awaited the record is still owed (R351, R365). -/
def State.writeCompletion (s : State) (lid : Nat) : State :=
  match s.grids.find? (fun g => g.lid == lid) with
  | none => s
  | some g =>
    let w := sysWho g.asid g.lead
    let va := recCompva g.record
    let done (ok : Bool) (t : State) : State :=
      { t with
        grids := updBy (fun x => x.lid == lid) (fun x => { x with wrote := ok, recOwed := false, msix := recIrq g.record }) t.grids
        lslots := t.lslots.filter (fun l => l.lid != lid) }
    let later : State := { s with grids := updBy (fun x => x.lid == lid) (fun x => { x with recOwed := true }) s.grids }
    if va = 0 then done false s
    else match s.reach w .store va with
    | .page _ => done true (s.sysPuts w 0 va (completionWords g (s.gtime g.lead)))
    | .fail tout level =>
      let f := completionFault s g tout level
      if s.slotAwaited f then later else done false (s.putFault f).1
    | .awaited => later

/-- A grid that has not ended takes a terminal state: its teams and queued clusters go, and the record is written (R353). -/
def State.endGrid (s : State) (lid state cause : Nat) (unit : BitVec 32) (faultrec : DWord) : State :=
  match s.grids.find? (fun g => g.lid == lid) with
  | none => s
  | some g =>
    if g.state ≠ 0 then s else
    let s1 := (s.removeTeams (fun t => t.lid == lid))
    let s2 := { s1 with grids := updBy (fun x => x.lid == lid) (fun x => { x with state := state, cause := cause, unit := unit, faultrec := faultrec }) s1.grids }
    s2.writeCompletion lid

/-! PURGE and KILL (R289, R389) -/

/-- The issuing die's own queueing counts at once; another die answers its numbered operation (R280). -/
def State.queuedAnswer (s : State) (die lid : Nat) : State :=
  match s.receipts.find? (fun x => x.owner == die && x.what == .launch lid && x.done.isNone) with
  | some x => s.receiptDone x (.result 0 0)
  | none =>
    let owed (g : Grid) : List Nat := g.owed.filter (fun d => d != die)
    let s1 := { s with grids := updBy (fun g => g.lid == lid) (fun g => { g with owed := owed g }) s.grids }
    match s1.grids.find? (fun g => g.lid == lid) with
    | some g => if g.owed.isEmpty then s1.launchStatus g.by_ g.sd lid 0 else s1
    | none => s1

/-- A launch that waits at a die for a slot is taken away: the die counts as one that held it, and answers. -/
def State.unqueue (die : Nat) (s : State) (g : Grid) : State :=
  let f (x : Grid) : Grid := { x with arrived := x.arrived.filter (fun d => d != die), queued := x.queued ++ [die] }
  { s with grids := updBy (fun x => x.lid == g.lid) f s.grids }.queuedAnswer die g.lid

/-- Work of a request tag on one die goes: numbered operations, commands and tasks with their teams, launches queued or waiting for a slot. -/
def State.purgeOn (s : State) (tag die : Nat) : State :=
  let tagged (lid : Nat) : Bool := s.grids.any (fun g => g.lid == lid && g.rqtag == tag)
  let s1 := s.removeTeams (fun t => t.die == die && tagged t.lid)
  let out (r : Rop) : Bool := r.die == die && r.rqtag == tag
  let ids := (s1.rops.filter out).filterMap (fun r => r.what.access.map (fun q => q.id))
  let s2 := { s1 with
    rops := s1.rops.filter (fun r => !out r)
    reqs := s1.reqs.filter (fun q => !ids.contains q.id)
    lslots := s1.lslots.filter (fun l => !(l.die == die && tagged l.lid)) }
  (s2.grids.filter (fun g => g.rqtag == tag && g.arrived.contains die)).foldl (State.unqueue die) s2

/-- The launches of a tag that were removed take STATE 3, or 4 with the quarantined unit. -/
def State.endTag (s : State) (tag state : Nat) (unit : BitVec 32) : State :=
  let hit (g : Grid) : Bool := g.rqtag == tag && g.state == 0 && !g.queued.isEmpty && !(s.lslots.any (fun l => l.lid == g.lid))
  (s.grids.filter hit).foldl (fun t g => t.endGrid g.lid state 0 unit 0) s

/-- Host slots whose command program's tag a purge has been through become stopped (R379). -/
def State.stopSlots (s : State) (tag : Nat) : State :=
  let hit (p : Nat × HSlot) : Bool := p.2.status.toNat % 256 == 1 && s.grids.any (fun g => g.lid == p.2.lid && g.rqtag == tag)
  { s with hub := { s.hub with slots := updBy hit (fun p => (p.1, { p.2 with status := 3 })) s.hub.slots } }

/-- A purge of a tag on every die at once. -/
def State.purgeAll (s : State) (tag state : Nat) (unit : BitVec 32) : State :=
  (((List.range 16).foldl (fun t d => t.purgeOn tag d) s).endTag tag state unit).stopSlots tag

/-- PURGE_MOMENT_ON_DIE (R389): the purge reaches a die, which removes the tag's work at that moment and reports; when every die has, the records are written and
the lanes of the PURGE leave (R289). -/
def execPurgeMomentOnDie (die p : Nat) (s : State) : Out3 :=
  .next (match s.waiter p with
    | some w =>
      match w.kind with
      | .purge tag =>
        if w.owed.contains die then
          let s1 := (s.purgeOn tag die).answered p die
          match s1.waiter p with
          | some w1 => if w1.owed.isEmpty then ((s1.endTag tag 3 0).stopSlots tag).leave w1 else s1
          | none => s1
        else s
      | _ => s
    | none => s)

/-! Faults (R342, R353, R361) -/

/-- The grid of a fault. -/
def State.faultGrid (s : State) (f : PFault) : Nat := ((s.group f.gid).map (fun g => (s.team g.team).lid)).getD 0

/-- Orders faults by TIME, then UNITID, then GSLOT (R351). -/
def faultBefore (a b : PFault) : Bool :=
  decide (a.time < b.time) || (a.time == b.time && (decide (a.unit.toNat < b.unit.toNat) || (a.unit == b.unit && decide (a.gslot ≤ b.gslot))))

/-- A fault that cannot be resolved: its record is written, and the grid fails with the earliest such fault's record, or the method's object fails (R152, R353). -/
def State.unresolved (s : State) (f : PFault) : State :=
  let s1 := s.recordFault f.id
  match (s1.group f.gid).bind (fun g => g.method) with
  | some m =>
    let s2 := { (s1.failObject m.obj) with faults := s1.faults.filter (fun x => x.id != f.id) }
    s2.onGroup f.gid (fun g => { g with lanes := g.lanes.map (fun x => { x with st := .exited }) })
  | none =>
    let lid := s1.faultGrid f
    let s2 := s1.recordFaults (fun x => s1.faultGrid x == lid)
    let rivals := s2.faults.filter (fun x => s2.faultGrid x == lid && (x.id == f.id || !x.replay))
    let first := (rivals.mergeSort faultBefore).head?.getD f
    let va := ((s2.faults.find? (fun x => x.id == first.id)).map (fun x => x.recVA)).getD 0
    s2.endGrid lid 2 1 0 va

/-- The fault with a number. -/
def State.fault (s : State) (id : Nat) : Option PFault := s.faults.find? (fun f => f.id == id)

/-- The access of a fault as it is checked again. -/
def PFault.touch (s : State) (f : PFault) : Touch :=
  match f.access with
  | 1 => .fetch
  | 3 => .store
  | 4 => .atomic
  | 5 => if ((s.copyCmd f.walk).map (fun c => copyOut c.d)).getD false then .store else .load
  | 6 => .fetch
  | _ => .load

/-- True while the element at which a walk stopped meets a condition: its translation or its index word (R126). -/
def State.walkStands (s : State) (id : Nat) : Bool :=
  match s.copyCmd id with
  | some c => (match walkElem c (copyAt (s.team c.team) c.d c.slot) c.at_ s with | .cond _ => true | _ => false)
  | none => false

/-- True when what a replayable fault lacked is present now: the translation, and for a walk whatever its element met (R126, R361). -/
def State.present (s : State) (f : PFault) : Bool :=
  let g := (s.group f.gid).getD default
  let priv := if f.walk = 0 then (numbered 0 g.lanes).all (fun p => !f.lanes.getLsbD p.1 || p.2.routine.isSome) else ((s.copyCmd f.walk).map (fun c => c.priv)).getD false
  let w : Who := { asid := f.asid, bench := g.bench, die := s.dieOf g, user := !priv }
  match s.reach w (f.touch s) f.addr.toNat with
  | .page _ => f.walk == 0 || !s.walkStands f.walk
  | _ => false

/-- The lanes of a resolved fault are ELIGIBLE at the same PC, from the next core cycle on, or its walk goes on at its element (R26, R361). -/
def State.resolve (s : State) (f : PFault) : State :=
  let s1 := s.recordFault f.id
  let s2 := { s1 with faults := s1.faults.filter (fun x => x.id != f.id) }
  if f.walk ≠ 0 then s2.onCopy f.walk (fun c => { c with faulted := false })
  else s2.onGroup f.gid (fun g =>
    { g with lanes := mapLanes (fun l x => if f.lanes.getLsbD l && x.st == .faulted then x.wake s.cycle x.pc else x) 0 g.lanes })

/-- GRID_FAIL (R342, R353, R361): a fault that is not replayable fails its grid at once, and one that is when the driver, which has its record, cannot resolve it, but not once the
translation is present; POISON and
ASSAY are dealt with by KILL and ROLLBACK (R382, R387). It waits while the record's slot is awaited. -/
def execGridFail (f : Nat) (s : State) : Out3 :=
  .next (match s.fault f with
    | some x =>
      if s.slotAwaited x ∨ (!x.replay ∧ (x.cause = .poison ∨ x.cause = .assay)) then s
      else if !x.replay then s.unresolved x
      else if s.present x then s.resolve x
      else if !x.written then s.passFault f
      else s.unresolved { x with replay := false }
    | none => s)

/-- FAULT_RESOLVED (R360, R361): the record of a replayable fault is written and passed to the driver; once the translation is present, the lanes issue
again. -/
def execFaultResolved (f : Nat) (s : State) : Out3 :=
  .next (match s.fault f with
    | some x => if !x.replay ∨ s.slotAwaited x then s else if s.present x then s.resolve x else s.passFault f
    | none => s)

/-- GTIME ticks of 1 s. -/
def ticksPerS : Nat := 1000000000

/-- REPLAY_TIMEOUT (R361): 1 s has passed without the translation. -/
def execReplayTimeout (f : Nat) (s : State) : Out3 :=
  .next (match s.fault f with
    | some x =>
      if !x.replay ∨ s.slotAwaited x ∨ s.gtime x.die < x.time + ticksPerS then s
      else if s.present x then s.resolve x else s.unresolved { x with replay := false }
    | none => s)

/-- PRI_PAGE_RESPONSE (R361): in HOST mode the host answers a page request that was sent; a refusal leaves the fault unresolved. After a grant the walk is made again. -/
def execPriPageResponse (f : Nat) (ok : Bool) (s : State) : Out3 :=
  .next (match s.fault f with
    | some x =>
      if !s.hostMode ∨ !x.replay ∨ !x.written then s
      else if ok then
        let bench := if x.walk = 0 then ((s.group x.gid).getD default).bench else ((s.copyCmd x.walk).bind (fun c => s.group c.gid)).map (fun g => g.bench) |>.getD 0
        (s.forgetPage bench x.asid x.addr.toNat).resolve x
      else s.unresolved { x with replay := false }
    | none => s)

/-! Walks, ATS and invalidations (R364 to R366, R288) -/

/-- The place of a page-walk-cache entry: die, context, VA prefix and level of the table it names. -/
def pwcKey (die asid va lvl : Nat) : Nat × Nat × Nat × Nat := (die, asid, va / 2 ^ (52 - 9 * lvl), lvl)

/-- The table of level `lvl` that the page-walk cache of a die gives. -/
def State.pwcAt (s : State) (die asid va lvl : Nat) : Option Nat :=
  (s.pwc.find? (fun e => (e.1, e.2.1, e.2.2.1, e.2.2.2.1) == pwcKey die asid va lvl)).map (fun e => e.2.2.2.2)

/-- The deepest cached start of a walk: its level and table, or the root. -/
def State.walkStart (s : State) (die asid va : Nat) : Nat × Nat :=
  ([3, 2, 1].findSome? (fun lvl => (s.pwcAt die asid va lvl).map (fun t => (lvl, t)))).getD (0, (s.ctx asid).ptroot)

/-- The non-leaf entries of a walk from a table, with the level of the table each names. -/
def nonLeaves (s : State) (va : Nat) (t : Nat) : List Nat → List (Nat × Nat)
  | [] => []
  | lvl :: rest =>
    let e : DWord := BitVec.ofNat 64 (s.readPhys (t + 8 * (va / 2 ^ (43 - 9 * lvl) % 512)) 8)
    if !bitAt e 0 ∨ lvl = 3 ∨ bitAt e 4 then [] else (lvl + 1, bitsOf e 12 40 * 4096) :: nonLeaves s va (bitsOf e 12 40 * 4096) rest

/-- The die of a bench. -/
def benchDie (bench : Nat) : Nat := bench / 256

/-- TLB entries a unit holds at most (R364). -/
def tlbRoom (unit : Nat) : Nat := if 4096 ≤ unit then 2048 else 64

/-- Adds an entry to a TLB, which then holds at most its number of entries, the oldest leaving first (log 10). -/
def State.addTlb (s : State) (e : TlbEntry) : State :=
  let mine := s.tlbs.filter (fun x => x.unit == e.unit && !(x.asid == e.asid && x.va == e.va && x.szlg == e.szlg))
  let others := s.tlbs.filter (fun x => x.unit != e.unit)
  { s with tlbs := others ++ mine.drop (mine.length + 1 - tlbRoom e.unit) ++ [e] }

/-- TABLE_WALK (R362, R364): in DEVICE mode a walker of the bench's die walks the context's tables, from its page-walk cache where that holds a table; a good walk fills the
bench's TLB, its quad's, and the page-walk cache. A failed one leaves nothing. In HOST mode a walker sends an ATS Translation Request with the context's PASID, one for each 64 KiB that
is waited for (R365). -/
def execTableWalk (bench asid : Nat) (va : BitVec 64) (s : State) : Out3 :=
  let die := benchDie bench
  let (lvl, t) := s.walkStart die asid va.toNat
  let w : Who := { asid := asid, bench := bench, die := die, user := false }
  if 2 ^ 52 ≤ va.toNat then .next s
  else if s.hostMode then
    .next (if s.translate w va.toNat ≠ .awaited ∨ s.asked.contains (asid, va.toNat / 65536) then s
      else { s with asked := s.asked ++ [(asid, va.toNat / 65536)], out := s.out ++ [.translation (s.pasidOf asid) va] })
  else match walkFrom s w va.toNat t ([0, 1, 2, 3].drop lvl) with
  | .page e =>
    let cached := nonLeaves s va.toNat t ([0, 1, 2, 3].drop lvl)
    let new := cached.map (fun p => let k := pwcKey die asid va.toNat p.1; (k.1, k.2.1, k.2.2.1, k.2.2.2, p.2))
    let s1 := (s.addTlb e).addTlb { e with unit := quadTlb bench }
    .next { s1 with pwc := s1.pwc.filter (fun x => !(new.any (fun y => y.1 == x.1 && y.2.1 == x.2.1 && y.2.2.1 == x.2.2.1 && y.2.2.2.1 == x.2.2.2.1))) ++ new }
  | _ => .next s

/-- The PFI lines of one core whose translation is answered are filled or dropped. A refused answer that only a PFI asked for leaves no TLB entry (R341). -/
def State.settlePfis (s : State) (c : Nat) : State :=
  (s.core c).pfis.foldl (fun t p => prefetchAt c { asid := p.2.1, bench := p.1, die := benchDie p.1, user := true } p.2.2 t) (s.onCore c (fun k => { k with pfis := [] }))

/-- The cores of a bench's quad, by unit number. -/
def quadCores (bench : Nat) : List Nat := (List.range 4).map (fun i => 4 * (bench / 8) + i)

/-- A PFI of a bench awaits a translation in the 64 KiB of an address. -/
def State.pfiAsks (s : State) (bench asid : Nat) (va : DWord) : Bool :=
  (s.core (bench / 2)).pfis.any (fun p => p.1 == bench && p.2.1 == asid && p.2.2.toNat / 65536 == va.toNat / 65536)

/-- ATS_TRANSLATION_RESPONSE (R365): in HOST mode the TLBs hold the host's answer to a request; one whose size is below 64 KiB or that is not aligned to its size, and one that grants
nothing, counts as refused, and an address that is absent has TOUT 3 (R362, R374). Such an answer stands until the access that asked has found it. CLASS and FATTR are the context's
defaults. -/
def execAtsTranslationResponse (bench asid : Nat) (va pa : BitVec 64) (szlg : Nat) (r w x : Bool) (s : State) : Out3 :=
  let c := s.ctx asid
  let bad := decide (szlg < 16) || decide (52 < szlg) || pa.toNat % 2 ^ szlg != 0 || !(r || w || x)
  let gone := !bad && !frameOk (pa.toNat % 2 ^ 52) szlg
  let none_ := bad || gone
  let e : TlbEntry :=
    { unit := bench, asid := asid, va := if none_ then va.toNat else va.toNat / 2 ^ szlg * 2 ^ szlg, szlg := if none_ then 0 else szlg,
      pa := if bad then 5 else if gone then 3 else pa.toNat % 2 ^ 52, r := r, w := w, x := x, u := true, cls := c.desc.extractLsb' 96 4, fattr := c.desc.extractLsb' 100 6,
      lock := false }
  let key := (asid, va.toNat / 65536)
  if !s.hostMode ∨ !s.asked.contains key then .next s
  else
    let s0 := { s with asked := s.asked.filter (fun k => k != key) }
    let s1 := (quadCores bench).foldl State.settlePfis ((s0.addTlb e).addTlb { e with unit := quadTlb bench })
    .next (if none_ && s.pfiAsks bench asid va then { s1 with tlbs := s.tlbs } else s1)

/-- Two ranges of addresses meet. -/
def rangesMeet (a alg b blg : Nat) : Bool := decide (a / 2 ^ alg * 2 ^ alg < b / 2 ^ blg * 2 ^ blg + 2 ^ blg) && decide (b / 2 ^ blg * 2 ^ blg < a / 2 ^ alg * 2 ^ alg + 2 ^ alg)

/-- The accesses that were translated and are not performed: those on their way, whosever they were, and those that a release still holds (R72, R366). -/
def State.translated (s : State) : List Req :=
  (s.reqs ++ s.allGroups.flatMap (fun g => g.rels.flatMap (fun k => match k.cont with | .access rs _ _ => rs | _ => []))).filter (fun r =>
    !r.isBuf && r.stage != .served && r.born != 0)

/-- True while an access of a context that a TLB translated up to number `upto` has not been performed (R366). -/
def State.inFlight (s : State) (asid upto unit : Nat) : Bool :=
  s.translated.any (fun r => decide (r.born ≤ upto) && r.asid == asid && (r.bench == unit || quadTlb r.bench == unit))

/-- True while an access of a context that was translated up to number `upto` has not been performed (R366). -/
def State.undrainedAts (s : State) (asid upto : Nat) : Bool := s.translated.any (fun r => decide (r.born ≤ upto) && r.asid == asid)

/-- ATS_INVALIDATE (R365, R366): every matching entry of every TLB and page-walk cache of the module goes at once; the hub answers with the Invalidate Completion once the accesses
translated before have drained, in a later step where some are in flight. -/
def execAtsInvalidate (asid : Nat) (va : BitVec 64) (szlg : Nat) (s : State) : Out3 :=
  let hit (e : TlbEntry) : Bool := e.asid == asid && rangesMeet e.va (if e.szlg = 0 then 16 else e.szlg) va.toNat szlg
  let done (t : State) : State := { t with out := t.out ++ [.invalidated asid va] }
  .next (if !s.hostMode then s
    else match s.waiters.find? (fun w => w.kind == .ats asid va szlg) with
    | some w => if s.undrainedAts asid w.id then s else done { s with waiters := s.waiters.filter (fun x => x.id != w.id) }
    | none =>
      let s1 := { s with tlbs := s.tlbs.filter (fun e => !hit e), pwc := s.pwc.filter (fun e => e.2.1 != asid) }
      if s.undrainedAts asid s.nextId then
        { s1 with
          waiters := s.waiters ++ [{ id := s.nextId, gid := 0, lanes := 0, next := 0, kind := .ats asid va szlg, owed := [] }]
          nextId := s.nextId + 1 }
      else done s1)

/-- True for a TLB entry that a SHOOT of a kind removes (R288). -/
def shot (kind asid : Nat) (va : DWord) (e : TlbEntry) : Bool :=
  match kind with
  | 0 => e.holds asid va.toNat
  | 1 => e.asid == asid
  | _ => true

/-- The page-walk-cache entry maps a VA. -/
def pwcMaps (asid : Nat) (va : DWord) (e : Nat × Nat × Nat × Nat × Nat) : Bool := e.2.1 == asid && e.2.2.1 == va.toNat / 2 ^ (52 - 9 * e.2.2.2.1)

/-- True for a page-walk-cache entry that a SHOOT of a kind removes. -/
def shotPwc (kind asid : Nat) (va : DWord) (e : Nat × Nat × Nat × Nat × Nat) : Bool :=
  match kind with
  | 0 => pwcMaps asid va e
  | 1 => e.2.1 == asid
  | _ => true

/-- The contexts whose accesses a SHOOT waits for. -/
def shotAsids (s : State) (kind asid : Nat) : List Nat := if kind = 2 then s.ctxs.map (fun c => c.asid) else [asid]

/-- SHOOT_INVALIDATION_AT_TLB (R288, R366): a TLB removes the entries and acknowledges once the accesses that were translated before its first step are done; when every TLB has, the lanes leave. -/
def execShootInvalidationAtTlb (tlb sh : Nat) (s : State) : Out3 :=
  .next (match s.waiter sh with
    | some w =>
      match w.kind with
      | .shoot kind asid va =>
        if !w.owed.contains tlb then s
        else
          let die := if 4096 ≤ tlb then (tlb - 4096) / 32 else benchDie tlb
          let s0 := { s with
            tlbs := s.tlbs.filter (fun e => !(e.unit == tlb && shot kind asid va e))
            pwc := s.pwc.filter (fun e => !(e.1 == die && shotPwc kind asid va e)) }
          let upto := ((w.marks.find? (fun m => m.1 == tlb)).map (fun m => m.2)).getD s.nextId
          let s1 := if w.marks.any (fun m => m.1 == tlb) then s0
            else { s0 with waiters := updBy (fun x => x.id == sh) (fun x => { x with marks := x.marks ++ [(tlb, s.nextId)] }) s0.waiters, nextId := s.nextId + 1 }
          if (shotAsids s kind asid).any (fun a => s.inFlight a upto tlb) then s1
          else
            let s2 := s1.answered sh tlb
            match s2.waiter sh with
            | some w2 => if w2.owed.isEmpty then s2.leave w2 else s2
            | none => s2
      | _ => s
    | none => s)

/-- A page of an object's log whose translation is awaited. -/
def State.logAwaited (s : State) (o : Obj) : Bool :=
  (List.range ((odLogBytes o.desc + 65535) / 65536)).any (fun i => s.reach (sysWho o.asid (odLogHome o.desc)) .store (odLogVA o.desc + 65536 * i) == .awaited)

/-- The code lines that were fetched for a context leave a core (R339). -/
def Core.forgetCode (asid : Nat) (k : Core) : Core :=
  let stay (l : Nat) : Bool := !(k.owners.any (fun p => p.1 == l && p.2 == asid))
  { k with
    icache := k.icache.filter stay, l0a := k.l0a.filter stay, l0b := k.l0b.filter stay, fills := k.fills.filter stay,
    owners := k.owners.filter (fun p => p.2 != asid), pfis := k.pfis.filter (fun p => p.2.1 != asid) }

/-- CONTEXT_END (R142, R143, R155, R339, R63): when no grid of a context is queued or resident, its store records are zeroed with its lookups and inserts, its counters, its objects
and their logs go, its TLB entries and code lines leave, its partials are flushed, and the context is gone. -/
def execContextEnd (asid : Nat) (s : State) : Out3 :=
  let mine := s.objs.filter (fun o => o.asid == asid)
  if s.grids.any (fun g => g.asid == asid && (g.state == 0 || g.recOwed)) ∨ mine.any s.logAwaited then .next s
  else
    let ids := mine.map (fun o => o.id)
    let s1 := ids.foldl (fun t o => t.failObject o) s
    let s2 := (s1.cores.map (fun p => p.1)).foldl (fun t c => t.flushPartials c (fun _ => true)) s1
    let s3 := mine.foldl (fun t o => t.zeroLog 0 o) s2
    .next { s3 with
      frecs := s3.frecs.filter (fun q => q.asid != asid)
      inserts := s3.inserts.filter (fun i => i.asid != asid)
      lookups := s3.lookups.filter (fun l => l.asid != asid)
      fcnt := s3.fcnt.filter (fun p => p.1.2.1 != asid)
      objs := s3.objs.filter (fun o => o.asid != asid)
      ocopies := s3.ocopies.filter (fun c => !ids.contains c.obj)
      tlbs := s3.tlbs.filter (fun e => e.asid != asid)
      pwc := s3.pwc.filter (fun e => e.2.1 != asid)
      cores := s3.cores.map (fun p => (p.1, p.2.forgetCode asid))
      ctxs := s3.ctxs.filter (fun c => c.asid != asid) }

end Sys2Proof.Machine
end

