-- ==== Sys2Proof/Machine/Launch.lean ====
section
/-! DEFINITION. The work distributors (R345 to R353): curves (R347), queueing and predecessors (R345), placement (R8, R9, R43, R45, R349), pre-emption and its
entry (R350, R26, R358), parked teams (R26, R359), retirement and completion (R12, R351, R352). -/

namespace Sys2Proof.Machine

/-! Curves (R347) -/

/-- The `i`-th of the numbers from `d` on that satisfy `inside`, among `fuel` of them. -/
def nthInside (inside : Nat → Bool) : Nat → Nat → Nat → Nat
  | 0, d, _ => d
  | n + 1, d, i => if inside d then (if i = 0 then d else nthInside inside n (d + 1) (i - 1)) else nthInside inside n (d + 1) i

/-- The bits of a Morton code from bit 0 on: the dimension and the bit of it that each gives. -/
def mortonBits (gx gy gz : Nat) : List (Nat × Nat) :=
  (List.range 32).flatMap (fun k => ([(0, gx), (1, gy), (2, gz)].filter (fun p => decide (2 ^ k < p.2))).map (fun p => (p.1, k)))

/-- The coordinate a Morton code gives a dimension. -/
def mortonAt (dim : Nat) : List (Nat × Nat) → Nat → Nat
  | [], _ => 0
  | p :: rest, c => (if p.1 = dim then c % 2 * 2 ^ p.2 else 0) + mortonAt dim rest (c / 2)

/-- `hilbert_xy` of R347 from side `s` on. -/
def hilbertXY (n : Nat) : Nat → Nat → Nat → Nat → Nat → Nat × Nat
  | 0, _, _, x, y => (x, y)
  | fuel + 1, s, t, x, y =>
    if s < n then
      let rx := t / 2 % 2
      let ry := (t ^^^ rx) % 2
      let (x1, y1) := if ry = 0 then (if rx = 1 then (s - 1 - y, s - 1 - x) else (y, x)) else (x, y)
      hilbertXY n fuel (2 * s) (t / 4) (x1 + s * rx) (y1 + s * ry)
    else (x, y)

/-- The smallest power of two that is at least `m`. -/
def powerAbove (m : Nat) : Nat → Nat → Nat
  | 0, n => n
  | fuel + 1, n => if m ≤ n then n else powerAbove m fuel (2 * n)

/-- The point of a row-major index. -/
def rowMajor (gx gy i : Nat) : Nat × Nat × Nat := (i % gx, i / gx % gy, i / (gx * gy))

/-- The point of position `i` on the curves 0 to 3. -/
def curvePoint (r : BitVec 2048) (i : Nat) : Nat × Nat × Nat :=
  let gx := recGX r
  let gy := recGY r
  let gz := recGZ r
  match recCurve r with
  | 1 =>
    let bits := mortonBits gx gy gz
    let at_ (c : Nat) : Nat × Nat × Nat := (mortonAt 0 bits c, mortonAt 1 bits c, mortonAt 2 bits c)
    at_ (nthInside (fun c => decide ((at_ c).1 < gx) && decide ((at_ c).2.1 < gy) && decide ((at_ c).2.2 < gz)) (2 ^ bits.length) 0 i)
  | 2 =>
    let n := powerAbove (max gx gy) 33 1
    let at_ (d : Nat) : Nat × Nat := hilbertXY n 33 1 d 0 0
    let p := at_ (nthInside (fun d => decide ((at_ d).1 < gx) && decide ((at_ d).2 < gy)) (n * n) 0 (i % (gx * gy)))
    (p.1, p.2, i / (gx * gy))
  | 3 =>
    let (x, y, z) := rowMajor gx gy i
    (if (y + z * gy) % 2 = 1 then gx - 1 - x else x, y, z)
  | _ => rowMajor gx gy i

/-! Slots (R345, R348) -/

/-- The launch with a number. -/
def State.grid (s : State) (lid : Nat) : Grid := (s.grids.find? (fun g => g.lid == lid)).getD default

/-- Changes a launch. -/
def State.onGrid (s : State) (lid : Nat) (f : Grid → Grid) : State := { s with grids := updBy (fun g => g.lid == lid) f s.grids }

/-- Changes a launch slot. -/
def State.onSlot (s : State) (die lid : Nat) (f : LSlot → LSlot) : State :=
  { s with lslots := updBy (fun l => l.die == die && l.lid == lid) f s.lslots }

/-- Teams of a cluster of a launch. -/
def recClsize (r : BitVec 2048) : Nat := 4 * recQuads r

/-- A die's share of the clusters: the first, and the one after its last (R348). -/
def dieShare (r : BitVec 2048) (die : Nat) : Nat × Nat :=
  let c := recTeams r / recClsize r
  let n := (dieList r).length
  let k := ((dieList r).takeWhile (fun d => d != die)).length
  (k * c / n, (k + 1) * c / n)

/-- Slots of a launch on dies that have reported are free, that of the lead die once the completion record is written (R345, R351). -/
def State.freeReported (s : State) (lid : Nat) : State :=
  let g := s.grid lid
  { s with lslots := s.lslots.filter (fun l => !(l.lid == lid && g.reported.contains l.die && (l.die != g.lead || (g.state != 0 && !g.recOwed)))) }

/-- A die has reported every cluster of its share retired. -/
def State.reportDie (s : State) (die lid : Nat) : State := (s.onGrid lid (fun g => { g with reported := g.reported ++ [die] })).freeReported lid

/-- LAUNCH_RECEIVE (R345): a distributor with a free slot queues a launch; with none the launch waits for one. A launch of a grid that has failed is removed as it
arrives (R353); one that arrives after a purge's moment runs (R389). -/
def execLaunchReceive (die l : Nat) (s : State) : Out3 :=
  .next (
    let g := s.grid l
    if g.lid ≠ l ∨ !g.arrived.contains die ∨ 64 ≤ (s.lslots.filter (fun x => x.die == die)).length ∨ (s.die die).state ≠ 1 then s
    else if g.state = 2 then (s.onGrid l (fun g => { g with arrived := g.arrived.filter (fun d => d != die) })).queuedAnswer die l
    else
      let (a, b) := dieShare g.record die
      let slot : LSlot :=
        { die := die, lid := l, at_ := s.gtime die, preds := (List.range 4).map (fun i => recPva g.record i == 0), first := a, next := a, last := b,
          scan := 0, done := 0, entries := [], claim := [] }
      let s1 := ({ s with lslots := s.lslots ++ [slot] }).onGrid l (fun g =>
        { g with queued := g.queued ++ [die], arrived := g.arrived.filter (fun d => d != die) })
      let s2 := (s1.freeReported l).queuedAnswer die l
      if a = b then s2.reportDie die l else s2)

/-- The fail of a launch whose input cannot be translated (R344, R351). -/
def State.badInput (s : State) (lid cause : Nat) : State := s.endGrid lid 2 cause 0 0

/-- PREDECESSOR_OBSERVED (R345): the word at PVA, once its last write's W is reached, compares true, and that is latched. -/
def execPredecessorObserved (die l i : Nat) (s : State) : Out3 :=
  .next (match s.lslots.find? (fun x => x.die == die && x.lid == l) with
    | none => s
    | some x =>
      let g := s.grid l
      if (x.preds.getD i true) ∨ recPva g.record i = 0 then s
      else match s.reach (sysWho g.asid die) .load (recPva g.record i) with
      | .awaited => s
      | .fail _ _ => s.badInput l 3
      | .page e =>
        let pa := e.phys (recPva g.record i)
        let c : Cond := [Cond.eq, .ne, .lt, .le, .gt, .ge, .ult, .ule].getD (recPcmp g.record i) .eq
        if !lineFree s 0 false pa 4 then s
        else
          let s1 := if isHost pa then s.useFree else s
          if condHolds c false 32 (s.readCombined pa 4) (recPval g.record i).toNat then
            s1.onSlot die l (fun y => { y with preds := y.preds.set i true })
          else s1)

/-! What a team needs and what a core has (R8, R43, R45, R349, R393) -/

/-- What a team of a launch takes of a core; `weight` is 2 in an assay context, where each group has a shadow (R384). -/
structure Need where
  lid : Nat
  groups : Nat
  vcount : Nat
  weight : Nat
  asegs : Nat
  wsegs : Nat
  csegs : Nat
  bars : Nat
  rings : Nat
  pages : Nat
  deriving DecidableEq, Repr, Inhabited

/-- Segments that hold a number of bytes (R43). -/
def segments (n : Nat) : Nat := (n + 16383) / 16384

/-- Constant-bank pages of a launch (R43). -/
def bankPages (r : BitVec 2048) : Nat := (recParamlen r + 4095) / 4096

/-- What a team of a launch needs. -/
def needOf (g : Grid) : Need :=
  let r := g.record
  { lid := g.lid, groups := recGroups r, vcount := recVcount r, weight := if recAssay r then 2 else 1, asegs := segments (recAbuf r),
    wsegs := segments (recWbuf r), csegs := segments (recCbuf r), bars := recNbar r, rings := recNring r, pages := bankPages r }

/-- The teams on a core, without those of the clusters that satisfy `gone`. -/
def State.onTheCore (s : State) (gone : Nat → Bool) (die core : Nat) : List Team :=
  s.teams.filter (fun t => t.die == die && t.core == core && !gone t.cluster)

/-- The groups of some teams that stand on a bench. -/
def State.benchGroups (s : State) (ts : List Team) (bench : Nat) : List Group :=
  s.allGroups.filter (fun g => g.bench == bench && g.uid != 0 && g.method.isNone && ts.any (fun t => t.uid == g.team && !t.retired))

/-- Groups and registers used on a bench; an assay group counts with its shadow. -/
def State.benchUse (s : State) (ts : List Team) (bench : Nat) : Nat × Nat :=
  (s.benchGroups ts bench).foldl (fun u g => let k := if s.isAssay g.uid then 2 else 1; (u.1 + k, u.2 + k * g.vcount)) (0, 0)

/-- True when a bench with such use can take one more group. -/
def Need.fitsBench (n : Need) (u : Nat × Nat) : Bool := decide (u.1 + n.weight ≤ 16) && decide (u.2 + n.weight * n.vcount ≤ Config.benchRegs)

/-- The bench of each of `k` groups by the rule of R8; none when one of them cannot be placed. -/
def Need.benches (n : Need) : Nat → Nat × Nat → Nat × Nat → Option (List Nat)
  | 0, _, _ => some []
  | k + 1, u0, u1 =>
    let add (u : Nat × Nat) : Nat × Nat := (u.1 + n.weight, u.2 + n.weight * n.vcount)
    let best := if u1.2 < u0.2 then 1 else 0
    let pick : Option Nat := if n.fitsBench (if best = 1 then u1 else u0) then some best
      else if n.fitsBench (if best = 1 then u0 else u1) then some (1 - best) else none
    match pick with
    | some 1 => (n.benches k u0 (add u1)).map (fun l => 1 :: l)
    | some _ => (n.benches k (add u0) u1).map (fun l => 0 :: l)
    | none => none

/-- The numbers of the segments no resident team owns, highest first (R48, R49). -/
def freeSegs (total : Nat) (used : List Nat) : List Nat := ((List.range total).filter (fun i => !used.contains i)).reverse

/-- The constant-bank pages the launches on a core take; `lid` counts once. -/
def State.bankUse (s : State) (ts : List Team) : Nat :=
  ((ts.map (fun t => t.lid)).dedup.map (fun l => bankPages (s.grid l).record)).sum

/-- False for a core that quarantine takes out of placement (R393). -/
def State.coreKept (s : State) (die core : Nat) : Bool :=
  !(s.mgmt.quarantine.contains (unitId 0 die core) || s.mgmt.quarantine.contains (unitId 8 die core) ||
    s.mgmt.quarantine.contains (unitId 1 die (core / 4)))

/-- False for a core whose self-test is due, or that a pre-emption frees for another launch (R350, R383). -/
def State.coreOpen (s : State) (lid die core : Nat) : Bool :=
  (s.core (128 * die + core)).testDue.isNone && !(s.lslots.any (fun l => l.die == die && l.lid != lid && l.claim.contains core))

/-- The benches of a team's groups when a core can take the team with the clusters `gone` away (R349). -/
def State.coreFits (s : State) (n : Need) (gone : Nat → Bool) (die core : Nat) : Option (List Nat) :=
  let ts := s.onTheCore gone die core
  let bench := 256 * die + 2 * core
  if s.coreKept die core && s.coreOpen n.lid die core
      && decide ((ts.map (fun t => t.bars.length)).sum + n.bars ≤ 48) && decide ((ts.map (fun t => t.rings.length)).sum + n.rings ≤ 16)
      && decide ((ts.map (fun t => t.asegs.length)).sum + n.asegs ≤ 32) && decide ((ts.map (fun t => t.wsegs.length)).sum + n.wsegs ≤ 24)
      && decide ((ts.map (fun t => t.csegs.length)).sum + n.csegs ≤ 16)
      && (ts.any (fun t => t.lid == n.lid) || decide (s.bankUse ts + n.pages ≤ 16)) then
    n.benches n.groups (s.benchUse ts bench) (s.benchUse ts (bench + 1))
  else none

/-! Lines of quads (R349) -/

/-- The quad of a scan index. -/
def scanQuad (i : Nat) : Nat := let r := i / 8; 8 * r + (if r % 2 = 0 then i % 8 else 7 - i % 8)

/-- The line of `n` quads that starts at a scan index, when it lies on the die. -/
def lineAt (n : Nat) (col : Bool) (i : Nat) : Option (List Nat) :=
  let q := scanQuad i
  if (if col then q / 8 + n ≤ 4 else q % 8 + n ≤ 8) then some ((List.range n).map (fun j => q + (if col then 8 * j else j))) else none

/-- The cores of a line in `CLRANK` order (R9). -/
def lineCores (l : List Nat) : List Nat := l.flatMap (fun q => (List.range 4).map (fun c => 4 * q + c))

/-- The scan indices in order from one on. -/
def scanFrom (start : Nat) : List Nat := (List.range 32).map (fun k => (start + k) % 32)

/-- The first line in scan order whose every core can take a team of a launch, away from core `avoid` of the module. -/
def State.findLine (s : State) (g : Grid) (die start : Nat) (avoid : Option Nat) : Option (Nat × List Nat) :=
  (scanFrom start).findSome? (fun i =>
    match lineAt (recQuads g.record) (recCol g.record) i with
    | some l =>
      if (lineCores l).all (fun c => (s.coreFits (needOf g) (fun _ => false) die c).isSome && avoid != some (128 * die + c)) then some (i, l) else none
    | none => none)

/-- True when some line of the die could take a cluster with every resident cluster removed (R344). -/
def State.lineExists (s : State) (g : Grid) (die : Nat) : Bool :=
  (List.range 32).any (fun i =>
    match lineAt (recQuads g.record) (recCol g.record) i with
    | some l => (lineCores l).all (s.coreKept die)
    | none => false)

/-! Placing a team (R9, R11, R43, R44, R299, R349, R359) -/

/-- The lowest free group slot of a bench (R8). -/
def State.freeSlot (s : State) (bench : Nat) : Nat :=
  let used := (s.allGroups.filter (fun g => g.bench == bench && g.uid != 0 && g.method.isNone)).map (fun g => g.slot)
  ((List.range 16).find? (fun i => !used.contains i)).getD 0

/-- Seats a group on a bench. -/
def State.seat (s : State) (bench : Nat) (g : Group) : State :=
  { s with groups := s.groups ++ [{ g with bench := bench, slot := s.freeSlot bench, order := s.nextId }], nextId := s.nextId + 1 }

/-- A team's place on a core: its segments, which hold zero, and the lent ones still to be drained. -/
def State.seatTeam (s : State) (n : Need) (die core : Nat) (params : Sparse Byte) (t : Team) : Team :=
  let ts := s.onTheCore (fun _ => false) die core
  let a := (freeSegs 32 (ts.flatMap (fun t => t.asegs))).take n.asegs
  let w := (freeSegs 24 (ts.flatMap (fun t => t.wsegs))).take n.wsegs
  let c := (freeSegs 16 (ts.flatMap (fun t => t.csegs))).take n.csegs
  { t with
    die := die, core := core, asegs := a, wsegs := w, csegs := c, params := params, exited := false, owed := none,
    drain := a.map (fun i => (false, i, none)) ++ w.map (fun i => (true, i, none)) }

/-- A barrier as KDESC declares it, EXPECT 0 where it declares no count (R299). -/
def declaredBar (kd : Nat) (code : Nat) : Bar :=
  let x := kd / 2 ^ (512 + 16 * code) % 2 ^ 16
  let c : BitVec 12 := if x / 2 ^ 15 = 1 then BitVec.ofNat 12 x else 0
  { expect := c, pending := c, phase := false, waiters := [] }

/-- A group of a team placed for the first time (R11). -/
def firstGroup (r : BitVec 2048) (uid team gid : Nat) : Group :=
  { Group.none with
    uid := uid, team := team, gid := gid, vcount := recVcount r, lanes := List.replicate Config.width (Lane.start (r.extractLsb' 0 64)),
    s := [(0, 0x30000000)] }

/-- The parameter block of a launch on a core: the copy that stands there, or PARAMLEN bytes at PARAMVA (R43, R349). -/
def State.paramsFor (s : State) (g : Grid) (die core : Nat) : Sparse Byte :=
  match (s.onTheCore (fun _ => false) die core).find? (fun t => t.lid == g.lid) with
  | some t => t.params
  | none =>
    let n := recParamlen g.record
    (readBlock s (sysWho g.asid die) (recParamva g.record) ((n + 7) / 8) []).filter (fun p => decide (p.1 < n))

/-- Places a team of a new cluster: its rank, core, position and point. -/
def placeTeam (g : Grid) (die cl kd : Nat) (s : State) (p : Nat × Nat × Nat × Nat × Nat × Nat) : State :=
  let (rank, core, lin, x, y, z) := p
  let n := needOf g
  let r := g.record
  let t0 : Team :=
    { (default : Team) with
      uid := s.nextId, lid := g.lid, cluster := cl, teamlin := lin, tx := x, ty := y, tz := z, clrank := rank, clsize := recClsize r,
      asize := 16384 * n.asegs, wsize := 16384 * n.wsegs, csize := 16384 * n.csegs, bars := (List.range n.bars).map (declaredBar kd),
      rings := List.replicate n.rings default }
  let benches := (s.coreFits n (fun _ => false) die core).getD []
  let t := s.seatTeam n die core (s.paramsFor g die core) t0
  let s1 := { s with teams := s.teams ++ [t], nextId := s.nextId + 1 }
  let seatOne (u : State) (q : Nat × Nat) : State :=
    let id := u.nextId
    ({ u with nextId := id + 1 }).seat (256 * die + 2 * core + q.2) (firstGroup r id t.uid q.1)
  let s2 := ((List.range benches.length).zip benches).foldl seatOne s1
  (s2.onGrid g.lid (fun g => { g with places := sput 0 g.places lin (128 * die + core + 1) })).ranHere g.lid (128 * die + core)

/-- A restored group: every lane stands at RESTV in privileged mode; a group that had exited stays so (R359, log 42). -/
def restoredGroup (restv : DWord) (g : Group) : Group :=
  let lane (x : Lane) : Lane := { Lane.start (restv &&& ~~~3) with routine := some .restore, prstate := if x.st = .exited then 9 else 0 }
  if g.lanes.all (fun x => x.st == .exited) then g else
  { Group.none with
    uid := g.uid, team := g.team, gid := g.gid, width := g.width, vcount := g.vcount, lanes := g.lanes.map lane, pcause := 3, aside := true,
    withdrawn := g.withdrawn, marks := g.marks, wct := 0 }

/-- A context record of a parked team, which is written before the team is placed again, waits for a translation (R159, R365). -/
def Parked.recordAwaited (s : State) (g : Grid) (die : Nat) (p : Parked) : Bool :=
  !p.snap && p.groups.any (fun x => x.ctxrec != 0 && (match blockCheck s (sysWho g.asid die) .store 16384 12352 x.ctxrec with | .awaited => true | _ => false))

/-- A parked team whose groups had all EXITED: no routine saved its buffers and barriers, which go with it (log 106). -/
def Parked.kept (p : Parked) : Bool := !p.groups.isEmpty && p.groups.all (fun g => g.lanes.all (fun x => x.st == .exited))

/-- Places a parked team again: at a core of the line that its rank gives. Results the machine kept for its groups stand in their context records
before they start (R159), and its barriers as KDESC declares them (R299); a rolled-back team is as its snapshot holds it, and one whose groups had all EXITED as it left (log 106). -/
def replaceTeam (g : Grid) (die kd : Nat) (cores : List Nat) (s : State) (p : Parked) : State :=
  let n := needOf g
  let core := cores.getD p.team.clrank 0
  let t1 := s.seatTeam n die core (s.paramsFor g die core) p.team
  let t := if p.snap || p.kept then t1
    else { t1 with abuf := [], wbuf := [], cbuf := [], poison := [], bars := (List.range n.bars).map (declaredBar kd), masks := [] }
  let benches := (s.coreFits n (fun _ => false) die core).getD []
  let s1 := { s with teams := s.teams ++ [{ t with exited := p.team.exited }] }
  let s2 := if p.snap then s1 else p.groups.foldl (fun u x => if x.ctxrec = 0 then u else u.writeRecord x) s1
  let restv := (s.ctx g.asid).restv
  let back (x : Group) : Group := if p.snap then x else restoredGroup restv x
  let s3 := (benches.zip (p.groups.mergeSort (fun a b => decide (a.gid ≤ b.gid)))).foldl (fun u q => u.seat (256 * die + 2 * core + q.1) (back q.2)) s2
  let mons := if p.snap then p.monitors.map (fun m => { m with core := 128 * die + core }) else []
  let s4 := { s3 with monitors := s3.monitors ++ mons }
  (s4.onGrid g.lid (fun g => { g with places := sput 0 g.places p.team.teamlin (128 * die + core + 1) })).ranHere g.lid (128 * die + core)

/-! Choosing what to place (R346, R349) -/

/-- GTIME ticks of 10 ms. -/
def ticksPer10Ms : Nat := 10 * ticksPerMs

/-- The effective priority of a launch on a die (R346). -/
def State.slotPrio (s : State) (l : LSlot) : Nat := min 7 (recPrio (s.grid l.lid).record + (s.gtime l.die - l.at_) / ticksPer10Ms)

/-- The eligible launches of a die in the order in which they are considered; a failed grid places nothing more (R346, R353). -/
def State.eligible (s : State) (die : Nat) : List LSlot :=
  (s.lslots.filter (fun l => l.die == die && l.preds.all id && (s.grid l.lid).state != 2)).mergeSort (fun a b => decide (s.slotPrio b ≤ s.slotPrio a))

/-- The parked clusters of a launch that may be placed: none of their teams is resident, and they do not all wait at monitors. -/
def State.parkedClusters (s : State) (die lid : Nat) (snap : Bool) : List Nat :=
  let mine := s.parked.filter (fun p => p.team.lid == lid && p.team.die == die && p.snap == snap)
  let ready (c : Nat) : Bool :=
    !(s.teams.any (fun t => t.cluster == c)) && (snap || mine.any (fun p => p.team.cluster == c && (p.woken || (p.monitors.isEmpty && (!p.team.exited || p.groups.any (fun g => !g.withdrawn.isEmpty))))))
  (((mine.mergeSort (fun a b => decide (a.team.teamlin ≤ b.team.teamlin))).map (fun p => p.team.cluster)).dedup).filter ready

/-- A retired team leaves with the parked teams of its cluster (R9). -/
def State.sweepRetired (s : State) : State :=
  let gone (c : Nat) : Bool := s.parked.any (fun p => p.team.cluster == c) && s.teams.all (fun t => t.cluster != c || t.retired)
  let out := s.teams.filter (fun t => gone t.cluster)
  { s with
    teams := s.teams.filter (fun t => !gone t.cluster)
    parked := s.parked ++ out.map (fun t => { team := t, groups := [], monitors := [], woken := false, snap := false, avoid := none }) }

/-- What placing a launch's teams on some cores reads: the bits of the kernel descriptor that declare barriers, and the parameter block where a core does not hold it; both once they can
be read as device-scope loads (R69, R299, R349). A translation that fails is a fault, and one may be awaited in HOST mode. -/
def State.launchInputs (s : State) (l : LSlot) (g : Grid) (cores : List Nat) : Checked Nat :=
  let w := sysWho g.asid l.die
  let held := cores.all (fun c => (s.onTheCore (fun _ => false) l.die c).any (fun t => t.lid == g.lid))
  let ps := if recParamlen g.record = 0 ∨ held then Checked.ok [] else blockCheck s w .load 1 (recParamlen g.record) (BitVec.ofNat 64 (recParamva g.record))
  match ps, blockCheck s w .load 1 256 (BitVec.ofNat 64 (recKdesc g.record)) with
  | .fault i, _ => .fault i
  | _, .fault i => .fault i
  | .ok _, .ok _ => .ok ((s.readWords w (recKdesc g.record) 24).getD 0)
  | _, _ => .awaited

/-- Places a parked cluster when a line can take it, or fails the grid when the inputs of its launch no longer translate (R344). With no group left to execute RFT, what was withdrawn is posted
again at once (log 106). -/
def State.placeParked (s : State) (l : LSlot) (c : Nat) : Option State :=
  let g := s.grid l.lid
  let ps := (s.parked.filter (fun p => p.team.cluster == c)).mergeSort (fun a b => decide (a.team.clrank ≤ b.team.clrank))
  let avoid := ps.findSome? (fun p => p.avoid)
  if ps.any (Parked.recordAwaited s g l.die) then none else (s.findLine g l.die l.scan avoid).bind (fun q =>
    match s.launchInputs l g (lineCores q.2) with
    | .awaited => none
    | .fault _ => some (s.badInput l.lid 3)
    | .ok kd =>
      let keep := s.parked.filter (fun p => p.team.cluster != c)
      let s1 := ps.foldl (replaceTeam g l.die kd (lineCores q.2)) { s with parked := keep }
      let wipe (x : Cluster) : Cluster :=
        if ps.any (fun p => p.snap) then { x with quads := q.2 } else { x with quads := q.2, bars := (List.range 16).map (fun i => declaredBar kd (48 + i)) }
      let s2 := ({ s1 with clusters := updBy (fun x => x.uid == c) wipe s1.clusters }).onSlot l.die l.lid (fun x => { x with scan := q.1 + 1, claim := [] })
      let idle := s2.groups.filter (fun x => !x.withdrawn.isEmpty && ps.any (fun p => p.team.uid == x.team))
      some (if ps.all Parked.kept then idle.foldl repostMate s2 else s2))

/-- The curve-table entries of a cluster: their number when they are good, or the cause that fails the grid (R348). None while a translation is awaited. -/
def State.tableEntries (s : State) (l : LSlot) (g : Grid) : Option (Except Nat (List Nat)) :=
  let n := recClsize g.record
  let w := sysWho g.asid l.die
  let at_ (k : Nat) : Nat := recCurveva g.record + 4 * (n * l.next + k)
  match collect ((List.range n).map (fun k =>
      match s.reach w .load (at_ k) with
      | .page e => Checked.ok (s.readCombined (e.phys (at_ k)) 4)
      | .fail a b => .fault (dataFault .load a b 0)
      | .awaited => .awaited)) with
  | .awaited => none
  | .fault _ => some (.error 3)
  | .ok es => if es.any (fun e => decide (recTeams g.record ≤ e)) || !((l.entries ++ es).Nodup) then some (.error 2) else some (.ok es)

/-- The points of the next cluster's teams. -/
def State.clusterPoints (s : State) (l : LSlot) (g : Grid) : Option (Except Nat (List (Nat × Nat × Nat) × List Nat)) :=
  let r := g.record
  let n := recClsize r
  if recCurve r = 4 then
    (s.tableEntries l g).map (fun x => match x with
      | .ok es => .ok (es.map (rowMajor (recGX r) (recGY r)), es)
      | .error c => .error c)
  else some (.ok ((List.range n).map (fun k => curvePoint r (n * l.next + k)), []))

/-- What snapshot `seq` keeps of a cluster beside its bytes: its teams, groups, cluster barriers and monitors (R386, log 47); the two slots before it stand until they are written
over. -/
def State.keepSnap (s : State) (seq : BitVec 32) (c : Cluster) : Cluster :=
  let ts := s.teams.filter (fun t => t.cluster == c.uid)
  let gs := s.allGroups.filter (fun g => g.uid != 0 && g.method.isNone && ts.any (fun t => t.uid == g.team))
  let new : Snap := { seq := seq, teams := ts, groups := gs, bars := c.bars, monitors := s.monitors.filter (fun m => gs.any (fun g => g.uid == m.gid)) }
  { c with snapSeq := seq, snaps := new :: c.snaps.take 2 }

/-- Places the next unplaced cluster of a launch, or fails the grid; none when nothing can be done now. -/
def State.placeNext (s : State) (l : LSlot) : Option State :=
  let g := s.grid l.lid
  if l.last ≤ l.next then none
  else if !s.lineExists g l.die then some (s.endGrid l.lid 2 4 0 0)
  else
    match s.findLine g l.die l.scan none with
    | none => none
    | some q =>
      match s.clusterPoints l g, s.launchInputs l g (lineCores q.2) with
      | none, _ => none
      | _, .awaited => none
      | some (.error c), _ => some (s.badInput l.lid c)
      | _, .fault _ => some (s.badInput l.lid 3)
      | some (.ok (pts, es)), .ok kd =>
        let cl := s.nextId
        let c : Cluster :=
          { uid := cl, lid := l.lid, die := l.die, index := l.next, quads := q.2, bars := (List.range 16).map (fun i => declaredBar kd (48 + i)),
            snapSeq := 0, snapAt := s.gtime l.die, snapDue := false, snaps := [] }
        let n := recClsize g.record
        let cores := lineCores q.2
        let ts := ((List.range n).zip pts).map (fun p => (p.1, cores.getD p.1 0, n * l.next + p.1, p.2.1, p.2.2.1, p.2.2.2))
        let s1 := ts.foldl (placeTeam g l.die cl kd) { s with clusters := s.clusters ++ [c], nextId := cl + 1 }
        let s2 := if !recAssay g.record then s1 else { s1 with clusters := updBy (fun x => x.uid == cl) (State.keepSnap s1 0) s1.clusters }
        some (s2.onSlot l.die l.lid (fun x => { x with next := x.next + 1, scan := q.1 + 1, entries := x.entries ++ es, claim := [] }))

/-- The next cluster of one launch is placed. -/
def State.placeFor (s : State) (l : LSlot) : Option State :=
  match s.parkedClusters l.die l.lid false with
  | c :: _ => s.placeParked l c
  | [] => s.placeNext l

/-- A rolled-back cluster is placed ahead of every other launch (R387). -/
def State.placeRolled (s : State) (die : Nat) : Option State :=
  (s.lslots.filter (fun l => l.die == die && (s.grid l.lid).state != 2)).findSome? (fun l =>
    (s.parkedClusters die l.lid true).findSome? (fun c => s.placeParked l c))

/-! Pre-emption (R350) -/

/-- Every sublist of a list. -/
def sublistsOf {α : Type} : List α → List (List α)
  | [] => [[]]
  | x :: xs => let r := sublistsOf xs; r ++ r.map (fun l => x :: l)

/-- The clusters on some cores of a die that a launch of priority `p` may remove. -/
def State.victimsOn (s : State) (die p : Nat) (cores : List Nat) : List Cluster :=
  s.clusters.filter (fun c =>
    let ts := s.teams.filter (fun t => t.cluster == c.uid)
    c.die == die && ts.any (fun t => cores.contains t.core) && decide (recPrio (s.grid c.lid).record < p) &&
      ts.all (fun t => (s.groupsOf t.uid).all (fun g => g.lanes.all (fun x => x.st != .faulted))))

/-- One choice of R350: the victims, the line's cores and its place in scan order. -/
structure Removal where
  victims : List Cluster
  cores : List Nat
  scan : Nat
  deriving DecidableEq, Repr, Inhabited

/-- The highest PRIO among the victims. -/
def State.topPrio (s : State) (r : Removal) : Nat := (r.victims.map (fun c => recPrio (s.grid c.lid).record)).foldl max 0

/-- R350's order of choices: fewest clusters, lowest highest PRIO, latest placed, scan order. -/
def State.removalBefore (s : State) (a b : Removal) : Bool :=
  let late (r : Removal) : Nat := (r.victims.map (fun c => c.uid)).foldl max 0
  let ka := (a.victims.length, s.topPrio a)
  let kb := (b.victims.length, s.topPrio b)
  decide (ka.1 < kb.1) || (ka.1 == kb.1 && (decide (ka.2 < kb.2) || (ka.2 == kb.2 &&
    (decide (late b < late a) || (late a == late b && decide (a.scan ≤ b.scan))))))

/-- The removals that let a launch place its next cluster. -/
def State.removals (s : State) (l : LSlot) : List Removal :=
  let g := s.grid l.lid
  let quads := scanFrom l.scan
  ((List.range 32).zip quads).flatMap (fun i =>
    match lineAt (recQuads g.record) (recCol g.record) i.2 with
    | none => []
    | some line =>
      let cores := lineCores line
      ((sublistsOf (s.victimsOn l.die (s.slotPrio l) cores)).filter (fun v =>
        cores.all (fun c => (s.coreFits (needOf g) (fun u => v.any (fun x => x.uid == u)) l.die c).isSome))).map
          (fun v => { victims := v, cores := cores, scan := i.1 }))

/-- A withdrawn operation: its place in post order and its words. -/
def taskWords (x : Task) : Nat × List DWord :=
  (2 + (match x.kind with | .mma => 0 | .mmaz => 1 | .qout => 2 | .trot => 3 | .tzero => 4) * 2 ^ 8, x.t.take 4 ++ [0, 0, x.pc])

/-- A withdrawn copy command. -/
def copyWords (c : CopyCmd) : Nat × List DWord := (1 + c.bar * 2 ^ 16, c.d.take 6 ++ [c.pc])

/-- The tasks of a group that a PREEMPT withdraws: those WAITING or READY (R123). -/
def State.openTasks (s : State) (u : Nat) : List Task := s.tasks.filter (fun k => k.gid == u && (k.stage == .waiting || k.stage == .ready))

/-- The copy commands of a group that a PREEMPT withdraws: those that wait on a ring (R123). -/
def State.openCopies (s : State) (u : Nat) : List CopyCmd := s.copyq.filter (fun c => c.gid == u && c.stage == .ringWait)

/-- A group keeps its withdrawn operations in post order and counts them no more (R123). -/
def withdrawOps (s : State) (g : Group) : Group :=
  let tasks := s.openTasks g.uid
  let copies := s.openCopies g.uid
  let ids := tasks.map (fun x => x.op) ++ copies.map (fun c => c.op)
  let wd := ((tasks.map (fun x => (x.op, taskWords x))) ++ copies.map (fun c => (c.op, copyWords c))).mergeSort (fun a b => decide (a.1 ≤ b.1))
  { g with withdrawn := g.withdrawn ++ wd.map (fun p => p.2), ops := g.ops.filter (fun o => !ids.contains o.id) }

/-- The engine work that a group's PREEMPT withdraws has left the engines, and the group waits on no ring. -/
def State.withdraw (s : State) (u tu : Nat) : State :=
  let tasks := (s.openTasks u).map (fun k => k.id)
  let copies := (s.openCopies u).map (fun c => c.id)
  let s1 := { s with tasks := s.tasks.filter (fun k => !tasks.contains k.id), copyq := s.copyq.filter (fun c => !copies.contains c.id) }
  s1.onTeam tu (fun t => { t with rings := t.rings.map (fun r => { r with waits := r.waits.filter (fun w => w.gid != u) }) })

/-- The groups of a team that have EXITED. -/
def State.exitedOf (s : State) (tu : Nat) : List Group := (s.groupsOf tu).filter (fun g => g.lanes.all (fun x => x.st == .exited))

/-- The operations of a team's EXITED groups are withdrawn (R123, log 106). -/
def State.withdrawExited (s : State) (tu : Nat) : State :=
  (s.exitedOf tu).foldl (fun t m => (t.onGroup m.uid (withdrawOps t)).withdraw m.uid tu) s

/-- Every team of a cluster receives PREEMPT (R26): each of its groups with a live lane, but for one that saves already or is PARKED. One that still runs its restore
routine takes it after its last RFT (log 105). A team whose groups have all EXITED has its operations withdrawn at once (R123, log 106). -/
def State.preemptTeams (s : State) (p : Team → Bool) : State :=
  let f (g : Group) : Group :=
    if g.uid ≠ 0 ∧ g.method.isNone ∧ !g.isParked ∧ s.teams.any (fun t => t.uid == g.team && p t) ∧ g.lanes.any (fun x => x.st != .exited) ∧
        !(g.lanes.any (fun x => x.routine == some .save)) then
      { g with preempt := true } else g
  let idle := s.teams.filter (fun t => p t && !t.retired && (s.groupsOf t.uid).all (fun g => g.lanes.all (fun x => x.st == .exited)))
  idle.foldl (fun u t => u.withdrawExited t.uid) { s with grp := f s.grp, groups := s.groups.map f }

/-- True while a pre-emption runs on a die: a launch waits for what it frees, or a victim has not left (R350). -/
def State.preempting (s : State) (die : Nat) : Bool :=
  s.lslots.any (fun l => l.die == die && !l.claim.isEmpty) || s.teams.any (fun t => t.die == die && !t.retired && (s.die die).victims.contains t.cluster)

/-- True for a launch that has a cluster to place. -/
def State.wantsPlace (s : State) (l : LSlot) : Bool := decide (l.next < l.last) || !(s.parkedClusters l.die l.lid false).isEmpty

/-- Starts the pre-emption that R350 chooses for the first launch that needs one. -/
def State.startPreempt (s : State) (die : Nat) : State :=
  if s.preempting die then s else
  match (s.eligible die).findSome? (fun l =>
      if s.wantsPlace l then ((s.removals l).mergeSort s.removalBefore).head?.map (fun r => (l, r)) else none) with
  | some (l, r) =>
    ((s.preemptTeams (fun t => r.victims.any (fun c => c.uid == t.cluster))).onSlot die l.lid (fun x => { x with claim := r.cores })).onDie die (fun d =>
      { d with victims := r.victims.map (fun c => c.uid) })
  | none => s

/-- PLACE_CLUSTER (R346, R349, R350): the distributor of a die places the next cluster of the first launch that fits, or pre-empts. -/
def execPlaceCluster (die : Nat) (s : State) : Out3 :=
  let s0 := s.sweepRetired
  .next (if (s.die die).state ≠ 1 then s
    else match s0.placeRolled die with
    | some t => t
    | none =>
      match (s0.eligible die).findSome? (fun l => s0.placeFor l) with
      | some t => t
      | none => s0.startPreempt die)

/-! PREEMPT (R26, R87, R123, R358) -/

/-- The REMOTE causes of a group's registers, as results kept for it (R159). -/
def remoteMarks (g : Group) : List Held :=
  let one (lane : Nat) (m : Marked) : Held := { kind := 4, dst := m.reg, lane := lane, vals := [], mark := some m }
  (numbered 0 g.lanes).flatMap (fun p => (p.2.marked.filter (fun m => m.rcause != 0)).map (one p.1)) ++
    (g.markedS.filter (fun m => m.rcause != 0)).map (one 0)

/-- What a PREEMPT takes out of a group: withdrawn operations, REMOTE causes, open episodes, releases and the destinations of monitors; its lanes enter the save routine. -/
def savedGroup (s : State) (savev : DWord) (g0 : Group) : Group :=
  let g := withdrawOps s g0
  let relOps := g.rels.filterMap (fun r => match r.cont with | .access rs _ _ => rs.head?.map (fun q => q.op) | _ => none)
  let mons := (s.monitors.filter (fun m => m.gid == g.uid)).map (fun m => m.id) ++
    g.rels.flatMap (fun r => match r.cont with | .monitor ms => ms.map (fun m => m.id) | _ => [])
  let early (src : Nat) : Bool := mons.contains src || s.calls.any (fun c => c.id == src) || s.grids.any (fun x => x.lid == src)
  let lane (x : Lane) : Lane :=
    { x with marked := x.marked.filter (fun m => m.rcause == 0), pend := x.pend.filter (fun p => !early p.src), waitCount := 0, free := s.cycle + 1 }
  let g := (remoteMarks g).foldl Group.hold g
  privEntry 1 0 .save savev (fun _ x => x.st != .exited) (fun x => x.pc)
    { g with
      preempt := false, aside := true, since := none, ops := g.ops.filter (fun o => !relOps.contains o.id), eps := [], rels := [],
      scb := g.scb.filter (fun e => !(g.rels.any (fun r => r.id == e.id))),
      markedS := g.markedS.filter (fun m => m.rcause == 0),
      pendS := g.pendS.filter (fun p => !early p.2), lanes := g.lanes.map lane }

/-- PREEMPT_ENTRY (R358, R26): a PREEMPT is taken at a group's instruction boundary, unless a lane is FAULTED or runs a privileged routine, or a SYS operation
of the group is not over; a SNAP is executed again (R294). The operations of the team's EXITED groups are withdrawn with it (R123, log 106). -/
def execPreemptEntry (g : Nat) (s : State) : Out3 :=
  .next (match s.group g with
    | some x =>
      if g = 0 ∨ !x.preempt ∨ x.lanes.any (fun y => y.st == .faulted || y.routine.isSome) ∨ s.waiters.any (fun w => w.gid == g && w.kind != .snap) then s
      else
        let savev := (s.ctx (s.asidOf x)).savev
        let s1 := s.withdrawExited x.team
        let s2 := (s1.onGroup g (savedGroup s1 savev)).withdraw g x.team
        { s2 with
          waiters := s2.waiters.filter (fun w => w.gid != g)
          lookups := s2.lookups.filter (fun y => y.gid != g)
          monitors := updBy (fun m => m.gid == g) (fun m => { m with asleep := true }) s2.monitors }
    | none => s)

/-! Teams at monitors (R26) -/

/-- Every lane of a team that has not exited is in MONITOR. -/
def State.allMonitor (s : State) (tu : Nat) : Bool :=
  let gs := s.groupsOf tu
  gs.all (fun g => g.lanes.all (fun x => x.st == .monitor || x.st == .exited)) && gs.any (fun g => g.lanes.any (fun x => x.st == .monitor))

/-- MONITOR_TEAM_PARK (R26): to place a waiting launch the distributor parks a cluster whose every live lane is in MONITOR. -/
def execMonitorTeamPark (team : Nat) (s : State) : Out3 :=
  let t := s.team team
  let ts := s.teams.filter (fun x => x.cluster == t.cluster)
  let waiting := (s.eligible t.die).any (fun l => s.wantsPlace l)
  .next (if t.uid = team ∧ waiting ∧ ts.all (fun x => x.retired || s.allMonitor x.uid) then s.preemptTeams (fun x => x.cluster == t.cluster) else s)

/-- The wake condition of a monitor of a parked team. -/
def State.wakes (s : State) (m : Monitor) : Bool :=
  if isHost m.addr then m.holdsAt (s.hostValue (if m.wide then 8 else 4))
  else match s.monitorWord m with
  | some w => m.holdsAt w.1
  | none => false

/-- MONITOR_TEAM_RESTORE (R26): a wake condition of a parked team is true, and its cluster may be placed again. -/
def execMonitorTeamRestore (team : Nat) (s : State) : Out3 :=
  .next (match s.parked.find? (fun p => p.team.uid == team) with
    | some p =>
      let s1 := if p.monitors.any (fun m => isHost m.addr) then s.useFree else s
      if p.monitors.any s.wakes then { s1 with parked := updBy (fun q => q.team.cluster == p.team.cluster) (fun q => { q with woken := true }) s1.parked }
      else s1
    | none => s)

/-! Retirement (R9, R12, R351) -/

/-- True when the ROU still holds an operation of a group. -/
def State.owesRop (s : State) (u : Nat) : Bool :=
  u != 0 && s.rops.any (fun r => match r.what with
    | .launch lid => (s.grid lid).by_ == u
    | n => n.gid == u)

/-- A team that has exited, with its counters zero and nothing left in the ROU. -/
def State.finished (s : State) (tu : Nat) : Bool :=
  (s.groupsOf tu).all (fun g => g.lanes.all (fun x => x.st == .exited) && g.ops.isEmpty && !s.owesRop g.uid)

/-- The cluster leaves when its every team has retired; its die may then have done its share (R9, R351). -/
def State.leaveCluster (s : State) (t : Team) : State :=
  let mates := s.teams.filter (fun x => x.cluster == t.cluster)
  if mates.all (fun x => x.retired) ∧ !(s.parked.any (fun p => p.team.cluster == t.cluster)) then
    let s1 := ({ s with
      teams := s.teams.filter (fun x => x.cluster != t.cluster)
      clusters := s.clusters.filter (fun c => c.uid != t.cluster) }).onSlot t.die t.lid (fun l => { l with done := l.done + mates.length })
    match s1.lslots.find? (fun l => l.die == t.die && l.lid == t.lid) with
    | some l => if l.done = (l.last - l.first) * t.clsize then s1.reportDie t.die t.lid else s1
    | none => s1
  else s

/-- The team retires: its groups leave their benches and its core's largest W is reported. -/
def State.retire (s : State) (t : Team) : State :=
  let w := (s.groupsOf t.uid).foldl (fun m g => max m g.wct) (s.core (128 * t.die + t.core)).maxW
  let mine (g : Group) : Bool := g.team == t.uid && g.method.isNone && g.uid != 0
  let s1 := { s with grp := if mine s.grp then Group.none else s.grp, groups := s.groups.filter (fun g => !mine g) }
  let s2 := (s1.onTeam t.uid (fun x => { x with retired := true, owed := none })).onGrid t.lid (fun g =>
    { g with maxW := max g.maxW w, teamsDone := g.teamsDone + 1 })
  (s2.ranHere t.lid (128 * t.die + t.core)).leaveCluster t

/-- TEAM_RETIRE (R12, R351): an exited team's core writes back its dirty bytes and flushes its partials; when all its writes are acknowledged the team retires. One whose operations a PREEMPT withdrew leaves with its cluster, to
be placed again (R123, log 106). -/
def execTeamRetire (team : Nat) (s : State) : Out3 :=
  .next (match s.teams.find? (fun t => t.uid == team) with
    | none => s
    | some t =>
      if t.retired ∨ !t.exited ∨ !s.finished team then s
      else if (s.groupsOf team).any (fun g => !g.withdrawn.isEmpty) then s.parkTeam team
      else
        let core := 128 * t.die + t.core
        match t.owed with
        | none =>
          let s1 := s.flushCore core
          s1.onTeam team (fun t => { t with owed := some (s1.coreWrites core) })
        | some ids => if s.reqs.any (fun r => ids.contains r.id) then s else s.retire t)

/-! Completion (R351, R352) -/

/-- COMPLETION_RECORD_WRITE (R351): every die has reported and the lead die's GTIME has reached the largest W: STATE 1 is written, or a record that is still owed. -/
def execCompletionRecordWrite (l : Nat) (s : State) : Out3 :=
  let g := s.grid l
  .next (if g.lid = l ∧ g.recOwed then s.writeCompletion l
    else if g.lid ≠ l ∨ g.state ≠ 0 ∨ !(dieList g.record).all g.reported.contains ∨ s.gtime g.lead < g.maxW then s
    else (s.onGrid l (fun x => { x with state := 1 })).writeCompletion l)

/-- MSIX_SEND (R352): H0 sends the vector of an ended grid with IRQ. -/
def execMsixSend (l : Nat) (s : State) : Out3 :=
  let g := s.grid l
  .next (if g.lid ≠ l ∨ !g.msix then s
    else
      let s1 := s.onGrid l (fun x => { x with msix := false })
      s1.sendMsix g.rqtag)

/-- MSIX_UNMASK (R352): an unmasked vector with its pending bit set is sent; while MSI-X is off or has no entry no message is sent. -/
def execMsixUnmask (v : Nat) (s : State) : Out3 :=
  let h := s.hub.setMask v false
  .next (if s.hub.pendingV.contains v ∧ s.hub.msixOn ∧ s.hub.vectors ≠ 0 then
      { s with hub := { h with pendingV := h.pendingV.filter (fun x => x != v) }, out := s.out ++ [.msix v] }
    else { s with hub := h })

/-! Instruction lines (R339, R340) -/

/-- The set of a line in the L1 instruction cache. -/
def icSet (line : Nat) : Nat := line % 64

/-- Adds a line to a cache list whose set holds at most `ways`, the oldest leaving first (log 10). -/
def addWay (set : Nat → Nat) (ways line : Nat) (l : List Nat) : List Nat :=
  let others := l.filter (fun x => x != line)
  let mine := others.filter (fun x => set x == set line)
  let drop := mine.take (mine.length + 1 - ways)
  others.filter (fun x => !drop.contains x) ++ [line]

/-- L1_INSTRUCTION_CACHE_FILL (R339, R340): the line's home slice, or a replica on the core's die, serves a fill as it serves a weak load, once no combine or move of it is
open and its last write's W is reached, and the line stands in the L1 instruction cache without a lease. -/
def execL1InstructionCacheFill (core line : Nat) (s : State) : Out3 :=
  .next (if (s.core core).fills.contains line ∧ ((s.replica (core / Config.coresPerDie) line).isSome ∨ lineFree s core false (128 * line) 1) then
      s.onCore core (fun k => { k with fills := k.fills.filter (fun x => x != line), icache := addWay icSet 8 line k.icache })
    else s)

end Sys2Proof.Machine
end

