-- ==== Sys2Proof/Machine/Boot.lean ====
section
/-! DEFINITION. Boot and its images (R367, R368, R400), identification and the discovery structure (R369, R370), time (R372), die resets and lost links (R158, R373),
messages from outside (R371, R376), and the host's view (R377, R379). -/

namespace Sys2Proof.Machine

/-! Images (R367) -/

/-- What a signature covers: the header and the body. -/
def imageBytes (i : Signed) : List Byte := i.header ++ i.body

/-- The SHA-256 digest of an image, and of its key's modulus and exponent (log 43). -/
def imageDigest (i : Signed) : BitVec 256 := sha256 (imageBytes i)
def imageKey (i : Signed) : BitVec 256 := sha256 (Config.keyBytes i.modulus 65537)

/-- The security version of an image, and whether its signature verifies. -/
def imageVersion (i : Signed) : BitVec 32 := Config.versionOf i.header
def imageVerifies (i : Signed) : Bool := pssVerify i.modulus i.signature (imageBytes i)

/-- An image is accepted when its key is fused and not revoked, its signature verifies, and its version is not below the counter. -/
def acceptedBy (keys : List (BitVec 256 × Bool)) (secver : BitVec 32) (i : Signed) : Bool :=
  keys.any (fun k => k.1 == imageKey i && !k.2) && imageVerifies i && decide (secver.toNat ≤ (imageVersion i).toNat)

/-- A firmware slot of H0 holds an image that H0 accepts. -/
def Hub.accepts (h : Hub) (i : Option Signed) : Bool := (i.map (acceptedBy h.keys h.secver)).getD false

/-- The image of a firmware slot, B or A, and the running one. -/
def Hub.image (h : Hub) (b : Bool) : Option Signed := if b then h.fwB else h.fwA
def Hub.running (h : Hub) : Option Signed := h.image h.runsB

/-- Sets a measurement (R377). -/
def Hub.measured (h : Hub) (ix : Nat) (d : BitVec 256) : Hub := { h with measures := h.measures.filter (fun p => p.1 != ix) ++ [(ix, d)] }

/-- The H0 boot ROM runs the slot that `h` selects, and measures itself and the firmware (R368, R377). -/
def Hub.start (h : Hub) : Hub :=
  match h.running with
  | some i => ((({ h with stage := 1, up0 := true }).measured 1 (sha256 Config.bootRom)).measured 2 (imageDigest i)).measured 19 (imageDigest i)
  | none => h

/-- The module starts anew with H0's firmware as `h` has it: everything but fuses, serials, incarnations, the operator's cap and quarantine is as after reset (R368, log 82). The
selected slot runs when it passes, else the other one when that passes (R400). -/
def State.boot (s : State) (h : Hub) : State :=
  let h1 := if h.accepts h.running then h.start else if h.accepts (h.image (!h.runsB)) then ({ h with runsB := !h.runsB, trial := false }).start else h
  let die (d : Die) : Die := { Die.reset with inc := d.inc, serial := d.serial, keys := d.keys, secver := d.secver }
  let far (o : Outer) : Outer := { o with state := 0, ident := 0, links := [], ready := [], verified := none }
  { State.reset with
    hub := h1, dies := s.dies.map die, outer := s.outer.map far, mgmt := { Mgmt.reset with cap := s.mgmt.cap, capNext := s.mgmt.capNext, quarantine := s.mgmt.quarantine },
    hostMode := s.hostMode, out := s.out, nextId := s.nextId, free := s.free, agenda := s.agenda, turn := s.turn }

/-- What a hub keeps over a module reset: fuses, the device key and the firmware slots. An update in progress is discarded and its slot marked empty (R400). -/
def Hub.kept (h : Hub) : Hub :=
  let bare := h.update.isSome
  { Hub.reset with
    keys := h.keys, secver := h.secver, device := h.device, fwA := if bare && h.runsB then none else h.fwA, fwB := if bare && !h.runsB then none else h.fwB, runsB := h.runsB }

/-- MODULE_RESET (R368, R400): the H0 boot ROM verifies its firmware; an updated slot runs first. `a` and `b` are what the flash holds at the first reset, and `slotB` its selection. -/
def execModuleReset (slotB : Bool) (a b : Signed) (s : State) : Out3 :=
  let h := s.hub
  .next (s.boot (
    if h.fwA.isNone && h.fwB.isNone then { h.kept with fwA := some a, fwB := some b, runsB := slotB }
    else { h.kept with runsB := h.runsB != h.fresh, trial := h.fresh }))

/-! Dies that are no compute dies -/

/-- Such a die before anything is known of it (log 5). -/
def Outer.fresh (n : Nat) : Outer :=
  { num := n, state := 0, inc := 1, serial := 0, ident := 0, links := [], ready := [], keys := fuses, secver := 0, verified := none }

/-- The die with a number from 16 on. -/
def State.outerDie (s : State) (n : Nat) : Outer := (s.outer.find? (fun o => o.num == n)).getD (Outer.fresh n)

/-- Changes it. -/
def State.onOuter (s : State) (n : Nat) (f : Outer → Outer) : State := { s with outer := s.outer.filter (fun o => o.num != n) ++ [f (s.outerDie n)] }

/-- The numbers of H1 and of the dies behind the memory ports (R371). -/
def outerNums : List Nat := 17 :: (List.range 32).map (fun i => 32 + i)

/-- True for a unit whose quarantine fails its die at the next reset (R393): drift, die port, HBM stack, headframe core. -/
def failsDie (die : Nat) (u : BitVec 32) : Bool :=
  let ty := u.toNat / 2 ^ 28
  u.toNat / 2 ^ 24 % 16 == die && (ty == 3 || ty == 4 || ty == 7 || (ty == 5 && u.toNat / 4 % 2 ^ 22 == 0))

/-- A die with such a unit (R393). -/
def State.isBad (s : State) (die : Nat) : Bool := s.mgmt.quarantine.any (failsDie die)

/-- DIE_BRINGUP (R368): stage 2 brings up H1, the ZM dies and the ZC dies of `mask`, by die number, and sends each its image; one that does not come up is FAILED. -/
def execDieBringup (mask : BitVec 64) (s : State) : Out3 :=
  if s.hub.stage ≠ 1 then .next s
  else
    let set (p : Nat × Die) : Die := let up := mask.getLsbD p.1; { p.2 with state := if up && !s.isBad p.1 then 3 else 2, up := up }
    let far (t : State) (n : Nat) : State := t.onOuter n (fun o => { o with state := if mask.getLsbD n then 3 else 2 })
    .next (outerNums.foldl far { s with dies := ((List.range s.dies.length).zip s.dies).map set, hub := { s.hub with stage := 2 } })

/-! The discovery structure (R370) -/

/-- Bytes [31:0] of an entry. -/
def entryWord (dtype state : Nat) (inc : BitVec 16) (skew : Bool) (popmb : Nat) : Nat :=
  dtype + state % 4 * 2 ^ 4 + inc.toNat * 2 ^ 6 + (if skew then 2 ^ 22 else 0) + popmb * 2 ^ 32

/-- LINKS of an entry from port `p` on. -/
def linksWord (l : Sparse (BitVec 6)) (p : Nat) : Nat → Nat
  | 0 => 0
  | n + 1 => (sget 0x3F l p).toNat + 2 ^ 8 * linksWord l (p + 1) n

/-- The entry of a die number: compute dies, the hubs, and the dies beyond them as their bring-up and their IDENT tell (R369 to R371). -/
def dieEntry (s : State) (n : Nat) : List Nat :=
  if n < 16 then
    let d := s.die n
    [entryWord d.dtype d.state d.inc d.skew (if d.state = 0 then 0 else 96000), d.serial.toNat, linksWord d.links 0 8, linksWord d.links 8 8]
  else
    let o := s.outerDie n
    let kind := if n < 18 then 1 else if o.ident ≠ 0 then bitsOf o.ident 0 4 else if 32 ≤ n then 2 else 0
    let state := if n = 16 then (if s.hub.up0 then 1 else 0) else o.state
    [entryWord kind state (if state = 0 ∧ 18 ≤ n then 0 else o.inc) false 0, o.serial.toNat, linksWord o.links 0 8, linksWord o.links 8 8]

/-- The live ZC dies as a mask. -/
def State.zcmask (s : State) : Nat := (s.liveDies.map (fun d => 2 ^ d)).sum

/-- The discovery structure as 264 words. -/
def State.discovery (s : State) : List Nat :=
  [1 + (if s.hostMode then 2 ^ 8 else 0) + s.zcmask * 2 ^ 16 + Config.delta * 2 ^ 32, 0, 0, 0, 0, 0, 0, 0] ++ (List.range 64).flatMap (dieEntry s)

/-- An entry's first word with STATE, INC and SKEW renewed. -/
def renewed (old new : Nat) : Nat := old / 2 ^ 23 * 2 ^ 23 + new % 2 ^ 23 / 16 * 16 + old % 16

/-- The words to publish: the whole structure, or, once stage 6 has begun, what stands there with only STATE, INC and SKEW renewed (R370). -/
def State.published (s : State) : List Nat :=
  let new := s.discovery
  if s.hub.stage < 6 then new
  else ((List.range new.length).zip new).map (fun p =>
    let old := (s.hub.mirror.getD p.1 0).toNat
    if 8 ≤ p.1 ∧ p.1 % 4 = 0 then renewed old p.2 else old)

/-- Writes the discovery structure at the start of the window of the die that publishes it, and to the hubs' mirror. -/
def State.publish (s : State) : State :=
  match s.hub.disc with
  | none => s
  | some d =>
    let w := s.published
    let s1 := ((List.range w.length).zip w).foldl (fun t p => t.orderRaw d 1 (d * 2 ^ 37 + 8 * p.1) 8 (BitVec.ofNat 128 p.2) (fullMask 8)) s
    { s1 with hub := { s1.hub with mirror := w.map (BitVec.ofNat 64) } }

/-- DIE_IMAGE_VERIFY (R367, R368): the boot ROM of a die that has come up accepts its image and runs it, or the die stays in reset and is FAILED. A die with a unit that stage 4
tests takes its image too (R402); a die without a headframe core is live then. -/
def execDieImageVerify (die : Nat) (img : Signed) (s : State) : Out3 :=
  .next (
    if s.hub.stage < 2 then s
    else if die < 16 then
      let d := s.die die
      if !d.up ∨ d.verified.isSome ∨ !(d.state == 3 || (d.state == 2 && s.isBad die)) then s
      else if acceptedBy d.keys d.secver img then
        { s.onDie die (fun d => { d with verified := some img }) with hub := s.hub.measured (3 + die) (imageDigest img) }
      else (s.onDie die (fun d => { d with up := false, state := 2 })).publish
    else
      let o := s.outerDie die
      if o.state ≠ 3 then s
      else if acceptedBy o.keys o.secver img then
        { s.onOuter die (fun o => { o with verified := some img, state := 1 }) with hub := if die = 17 then s.hub.measured 20 (imageDigest img) else s.hub }.publish
      else (s.onOuter die (fun o => { o with state := 2 })).publish)

/-- A class table entry with its reserved bits zero (R363). -/
def classEntry (i : Nat) (x : DWord) : DWord := x &&& (if i = 0 then 0x3FFFFFFFFF else 0x3FFFFF)

/-- HEADFRAME_INIT (R368, R363, R402): the die trains, syncs, loads its class table and is live, and its units that stage 4 tests are in service again; or it is FAILED with its ports
held down. DESIGN CHOICE (log 137): `CYCLE`, which a die reset sets to zero (R207), is zero again when the die is live. -/
def execHeadframeInit (die : Nat) (ok : Bool) (classes : List (BitVec 64)) (s : State) : Out3 :=
  let d := s.die die
  if d.verified.isNone ∨ (d.state ≠ 2 ∧ d.state ≠ 3) ∨ 16 ≤ die then .next s
  else if ok then
    let cs := (List.range 16).map (fun i => classEntry i (classes.getD i (classesReset.getD i 0)))
    let s1 := s.onDie die (fun d => { d with state := 1, classes := cs, gofs := 0, skew := false, cycle0 := s.cycle })
    let m := { s1.mgmt with quarantine := s1.mgmt.quarantine.filter (fun u => !failsDie die u) }
    .next ({ s1 with mgmt := m }).publish
  else .next (s.onDie die (fun d => { d with up := false, verified := none, state := 2, links := [], ready := [] })).publish

/-- A boot that fails after stage 1: the other slot boots where an updated one had its first boot and the other still passes (R400). -/
def State.bootFails (s : State) : State :=
  if s.hub.trial && s.hub.accepts (s.hub.image (!s.hub.runsB)) then s.boot { s.hub.kept with runsB := !s.hub.runsB } else s

/-- DISCOVERY_BUILD (R368 to R370): stage 5, when every die has passed or failed; two dies of one STRAP, or no live die, fail it. -/
def execDiscoveryBuild (s : State) : Out3 :=
  .next (if s.hub.stage ≠ 2 ∨ s.dies.any (fun x => x.state == 3) then s
    else match s.liveDies.head? with
    | some d => if s.hub.clash then s.bootFails else ({ s with hub := { s.hub with stage := 5, disc := some d } }).publish
    | none => s.bootFails)

/-- PCIE_ENABLE (R368, R377): stage 6; the class tables with MODE and the discovery structure are measured. -/
def execPcieEnable (s : State) : Out3 :=
  if s.hub.stage ≠ 5 then .next s
  else
    let mode : DWord := if s.hostMode then 1 else 0
    let h := (s.hub.measured 21 (sha256 (Config.tableBytes (s.dies.flatMap (fun d => d.classes) ++ [mode])))).measured 22
      (sha256 (s.hub.mirror.flatMap (fun x => bytesOf 8 x.toNat)))
    .next { s with hub := { h with stage := 6, enabled := true, trial := false } }

/-! IDENT (R369) -/

/-- The IDENT payload of a port (R369, Table 2): ZC dies and, beyond them, hubs; JDP revision 1, and every class but the reserved ones. -/
def State.identOf (s : State) (die port : Nat) : BitVec 128 :=
  let serial := if die < 16 then (s.die die).serial else (s.outerDie die).serial
  BitVec.ofNat 128 ((if die < 16 then 0 else 1) + port % 16 * 2 ^ 4 + die % 64 * 2 ^ 8 + 2 ^ 16 + 0x3F * 2 ^ 24 + serial.toNat * 2 ^ 64)

/-- The trained ports of a die or hub, its partners, and changing both. -/
def State.readyPorts (s : State) (die : Nat) : List Nat := if die < 16 then (s.die die).ready else (s.outerDie die).ready
def State.partner (s : State) (die port : Nat) : BitVec 6 := sget 0x3F (if die < 16 then (s.die die).links else (s.outerDie die).links) port
def State.onPorts (s : State) (die : Nat) (f : List Nat → List Nat) (g : Sparse (BitVec 6) → Sparse (BitVec 6)) : State :=
  if die < 16 then s.onDie die (fun d => { d with ready := f d.ready, links := g d.links }) else s.onOuter die (fun o => { o with ready := f o.ready, links := g o.links })

/-- A port sends IDENT, and when is kept. -/
def State.sendIdent (s : State) (die port : Nat) : State :=
  { s with out := s.out ++ [.ident die port (s.identOf die port)], hub := { s.hub with identAt := sput 0 s.hub.identAt (64 * die + port) (s.refTime + 1) } }

/-- LINK_TRAINED (R369): a port of a compute die or a hub finishes training and sends IDENT. -/
def execLinkTrained (die port : Nat) (s : State) : Out3 :=
  .next ((s.onPorts die (fun l => if l.contains port then l else l ++ [port]) id).sendIdent die port)

/-- The classes a partner's role needs (R373, Table 6). -/
def classesNeeded (dtype strap : Nat) : BitVec 6 :=
  match dtype with
  | 3 => if strap < 16 then 0x2F else 0x27
  | 4 => 0x27
  | _ => 0

/-- What an IDENT tells of the die that sent it: its serial, its role and, beyond the compute dies, that it is there, and its own link. -/
def State.noteIdent (s : State) (die strap : Nat) (payload : BitVec 128) : State :=
  let serial := payload.extractLsb' 64 64
  if strap < 16 then
    if strap = die then s else s.onDie strap (fun d => { d with serial := if d.serial = 0 then serial else d.serial, dtype := bitsOf payload 0 4 })
  else s.onOuter strap (fun o =>
    { o with
      serial := if o.serial = 0 then serial else o.serial, ident := payload, links := sput 0x3F o.links (bitsOf payload 4 4) (BitVec.ofNat 6 die)
      state := if o.state = 0 ∧ 18 ≤ strap then 1 else o.state })

/-- IDENT (R369): a partner's IDENT arrives and is kept for the discovery structure. A partner that lacks a class its role needs has its port held down, and a STRAP that a die of
another serial has reported, or that is the receiver's own, fails stage 5. -/
def execIdent (die port : Nat) (payload : BitVec 128) (s : State) : Out3 :=
  let strap := bitsOf payload 8 6
  let serial := payload.extractLsb' 64 64
  let need := classesNeeded (bitsOf payload 0 4) strap
  if payload.extractLsb' 24 6 &&& need ≠ need then
    .next (s.onPorts die (fun l => l.filter (fun p => p != port)) (fun l => sput 0x3F l port 0x3F))
  else
    let old := if strap < 16 then (s.die strap).serial else (s.outerDie strap).serial
    let clash := decide (strap = die) || (old != 0 && old != serial)
    let s1 := (s.onPorts die id (fun l => sput 0x3F l port (BitVec.ofNat 6 strap))).noteIdent die strap payload
    .next { s1 with hub := { s1.hub with clash := s1.hub.clash || clash } }

/-- 100 µs in ticks. -/
def ticksPer100Us : Nat := 100000

/-- IDENT_REPEAT (R369): every 100 µs a trained port without its partner's IDENT sends IDENT again. -/
def execIdentRepeat (die port : Nat) (s : State) : Out3 :=
  .next (if (s.readyPorts die).contains port ∧ s.partner die port = 0x3F ∧ sget 0 s.hub.identAt (64 * die + port) + ticksPer100Us ≤ s.refTime + 1 then s.sendIdent die port
    else s)

/-! Time (R372) -/

/-- The header of a time message, with its send time as STAMP. -/
def timeHeader (die t : Nat) : Jdp := { (default : Jdp) with src := 16, dst := BitVec.ofNat 6 die, cls := 5, opc := Config.opcode 7, stamp := BitVec.ofNat 64 t }

/-- A time message leaves for a die over one of its ports. -/
def State.sendTime (s : State) (die port : Nat) : State :=
  { s.onDie die (fun d => { d with times := d.times ++ [(port, s.refTime)] }) with out := s.out ++ [.time die port (timeHeader die s.refTime).word] }

/-- TIME_SEND (R372): every 1 µs H0 sends its reference time to every live die over every path, which its trained ports end (log 138). -/
def execTimeSend (s : State) : Out3 :=
  .next (if s.refTime < s.hub.timeAt then s
    else s.liveDies.foldl (fun t d => (s.die d).ready.foldl (fun t p => t.sendTime d p) t) { s with hub := { s.hub with timeAt := s.refTime + 1000 } })

/-- TIME_MESSAGE (R372): the oldest time message on its way reaches a die, which corrects its clock; `err` is the offset it estimates to be left, and more than δ/2 sets SKEW. -/
def execTimeMessage (die : Nat) (err : Int) (s : State) : Out3 :=
  .next (if (s.die die).times.isEmpty then s
    else (s.onDie die (fun d => { d with times := d.times.drop 1, gofs := err, skew := decide ((Config.delta : Int) < 2 * err.natAbs) })).publish)

/-! Die resets and lost links (R158, R373, R399) -/

/-- The next incarnation, which is never 0 (R158). -/
def nextInc (i : BitVec 16) : BitVec 16 := if i + 1 = 0 then 1 else i + 1

/-- The request tags with a team resident on a die. -/
def State.tagsOn (s : State) (die : Nat) : List Nat :=
  ((s.teams.filter (fun t => t.die == die)).map (fun t => (s.gridOf t).rqtag)).dedup

/-- The replay engine of a die keeps nothing of its object copies until it has loaded a majority copy at the next agreed checkpoint (R154). -/
def State.loseCopies (s : State) (die : Nat) : State :=
  s.stopCopies die |> fun t => { t with ocopies := updBy (fun c => c.die == die) (fun c => { c with bytes := [], ckBytes := [], ckSeq := none, sent := [] }) t.ocopies }

/-- What a reset loses on a die: its work, caches, translations, store records, receipts and operations. -/
def State.loseDie (s : State) (die : Nat) : State :=
  let s1 := (s.tagsOn die).foldl (fun t tag => t.purgeAll tag 4 (unitId 7 die 0)) s
  let s2 := (((s1.objs.filter (fun o => odLogHome o.desc == die)).map (fun o => o.id)).foldl (fun t o => t.failObject o) s1).loseCopies die
  let here (c : Nat) : Bool := c / 128 == die
  let method (g : Group) : Bool := (g.method.map (fun m => m.die)) == some die
  { s2 with
    grp := if method s2.grp then Group.none else s2.grp
    groups := s2.groups.filter (fun g => !method g)
    cores := s2.cores.filter (fun p => !here p.1)
    copies := s2.copies.filter (fun c => !here c.unit)
    replicas := s2.replicas.filter (fun c => c.unit != die)
    partials := s2.partials.filter (fun p => !here p.core)
    lines := s2.lines.map (fun p => (p.1, { p.2 with holders := p.2.holders.filter (fun c => !here c) }))
    reqs := s2.reqs.filter (fun r => r.isBuf || !here r.core)
    tlbs := s2.tlbs.filter (fun e => (if 4096 ≤ e.unit then (e.unit - 4096) / 32 else benchDie e.unit) != die)
    pwc := s2.pwc.filter (fun e => e.1 != die)
    frecs := s2.frecs.filter (fun r => r.die != die)
    inserts := s2.inserts.filter (fun i => i.die != die)
    rops := s2.rops.filter (fun r => r.die != die)
    receipts := s2.receipts.filter (fun r => r.owner != die)
    lslots := s2.lslots.filter (fun l => l.die != die)
    grids := s2.grids.map (fun g => { g with arrived := g.arrived.filter (fun d => d != die) }) }

/-- A die enters reset: the incarnation rises, and it is FAILED at once when a unit that stage 4 tests is quarantined (R158, R393). -/
def State.resetDie (s : State) (die : Nat) : State :=
  if 16 ≤ die then s else
  let s1 := s.loseDie die
  (s1.onDie die (fun d =>
    { Die.reset with
      state := if s1.isBad die then 2 else 3, inc := nextInc d.inc, serial := d.serial, keys := d.keys, secver := d.secver, log := d.log, lost := d.lost,
      up := true, dtype := d.dtype, cycle0 := s.cycle })).failThin.publish

/-- DIE_RESET (R158). -/
def execDieReset (die : Nat) (s : State) : Out3 := .next (s.resetDie die)

/-- LINK_LOSS (R373): a die that has lost every link is absent. -/
def execLinkLoss (die : Nat) (s : State) : Out3 :=
  .next (if die < 16 then (s.onDie die (fun d => { d with state := 0, links := [], ready := [] })).failThin.publish
    else (s.onOuter die (fun o => { o with state := 0, links := [], ready := [] })).publish)

/-! Messages from outside (R371, R376) -/

/-- JDP_MESSAGE (R371): a message of class 6 or 7 is dropped and counted; those of the other classes are the steps of their operations (log 44). -/
def execJdpMessage (hdr : BitVec 384) (s : State) : Out3 :=
  .next (if bitsOf hdr 12 3 < 6 then s
    else if bitsOf hdr 6 6 < 16 then s.onDie (bitsOf hdr 6 6) (fun d => { d with jdpDrops := d.jdpDrops + 1 })
    else { s with hub := { s.hub with jdpDrops := s.hub.jdpDrops + 1 } })

/-- A physical address the host or a peer may reach: device memory of a live die (R379). -/
def State.hostReach (s : State) (pa n : Nat) : Bool :=
  decide (pa < 2 ^ 41) && decide (pa % 2 ^ 37 + n ≤ Config.populated) && (s.die (storageDie pa)).state == 1

/-- A line that the home can write now: no move or combine of it is open, and no flush of it is on its way (R64). -/
def State.hostWritable (s : State) (pa : Nat) : Bool :=
  (s.granule (granuleOf pa)).moving.isNone && !s.flushOwed (lineOf pa) && !(s.reqs.any (fun q => q.stage == .combining && lineOf q.addr == lineOf pa))

/-- A word or line that the home can serve now: its last write's W is reached besides (R69). -/
def State.hostReady (s : State) (pa : Nat) : Bool := s.hostWritable pa && decide ((s.line (lineOf pa)).w ≤ s.homeNow pa)

/-- Partials that stand on a line are combined before an access that is no COMM (R64). -/
def State.combined (s : State) (pa : Nat) : State := if (s.line (lineOf pa)).holders.isEmpty then s else s.combineNow (lineOf pa)

/-- The number of a peer's requester in a hub's receipt cache. -/
def peerReq (h : Jdp) : Nat := 256 + h.reqid.toNat

/-- The receipt of a peer's access. -/
def State.peerReceipt (s : State) (hub : Nat) (h : Jdp) : Option Receipt :=
  s.receipts.find? (fun x => x.owner == 16 + hub && x.reqid == peerReq h && x.rsn == h.rsn)

/-- The kinds of responses, by which their operation codes are chosen (R157, R371, log 133). -/
def replyKind : Reply → Nat
  | .result _ _ => 16
  | .held => 17
  | .busy => 18
  | .stale => 19
  | .noAtomic => 20
  | .contention => 21

/-- The response of a hub to a peer: class 1, source and destination exchanged, the hub's incarnation as OWNINC, W as STAMP, and the payload's length (R371, R376). -/
def peerAnswer (h : Jdp) (y : Reply) (n : Nat) : Jdp :=
  { h with
    src := h.dst, dst := h.src, cls := 1, opc := Config.opcode (replyKind y), owninc := 1
    stamp := match y with | .result _ w => BitVec.ofNat 64 w | _ => 0
    plen := BitVec.ofNat 16 n }

/-- A response leaves, with `n` bytes of its result. -/
def State.answerPeer (s : State) (hub : Nat) (h : Jdp) (y : Reply) (data : List Byte) : State :=
  { s with out := s.out ++ [.peer hub (peerAnswer h y data.length).word data] }

/-- A peer's frame as a copy of a numbered request that has reached a hub. -/
def peerMsg (hub : Nat) (h : Jdp) : RMsg := { rop := 0, copy := 0, at_ := 16 + hub, hdr := h, what := .peer }

/-- What a peer's access does, by its operation code, and how many bytes it names: a write its payload; a read what its code tells, or 16 (R376, log 45). -/
def peerLoad (h : Jdp) : Nat := ((List.range 17).find? (fun n => decide (n ≠ 0) && Config.opcode (peerKind .load n) == h.opc)).getD 16
def peerAtom (h : Jdp) : Option Access :=
  if Config.opcode (peerKind .cas 0) = h.opc then some .cas
  else ([AtomOp.add, .min, .max, .and, .or, .xor, .exch, .fadd].flatMap (fun o => (List.range 5).map (fun ty => Access.atom o (BitVec.ofNat 5 ty)))).find?
    (fun a => Config.opcode (peerKind a 0) == h.opc)
def peerAccess (h : Jdp) : Access := if h.plen = 0 then .load else (peerAtom h).getD .store
def peerBytes (h : Jdp) : Nat :=
  match peerAccess h with
  | .load => peerLoad h
  | .cas => h.plen.toNat / 2
  | _ => h.plen.toNat

/-- The value of bytes, the first lowest. -/
def valueOf : List Byte → Nat
  | [] => 0
  | b :: bs => b.toNat + 256 * valueOf bs

/-- Cuts bytes at an address into pieces inside 16-byte blocks. -/
def pieces : Nat → Nat → List Byte → List (Nat × List Byte)
  | 0, _, _ => []
  | _, _, [] => []
  | fuel + 1, a, bs => let k := 16 - a % 16; (a, bs.take k) :: pieces fuel (a + k) (bs.drop k)

/-- The lines of an access of `n` bytes at an address from outside. -/
def spanLines (pa n : Nat) : List Nat := (List.range ((pa + n - 1) / 128 + 1 - pa / 128)).map (fun i => pa / 128 + i)

/-- Bytes from outside are written at their homes as system-scope stores. -/
def State.putBytes (s : State) (pa : Nat) (data : List Byte) : State :=
  let put (t : State) (p : Nat × List Byte) : State :=
    (t.combined p.1).orderWrite 16 1 p.1 p.2.length (BitVec.ofNat 128 (valueOf p.2)) (fullMask p.2.length)
  (pieces data.length pa data).foldl put s

/-- An atomic from outside is performed at the home of its word as a system-scope one: the machine after it and the old value. -/
def State.outerAtom (s : State) (pa n : Nat) (acc : Access) (x cmp : Nat) : State × Nat :=
  let s1 := s.combined pa
  let old := s1.readPhys pa n
  let r : Req := { (default : Req) with acc := acc, addr := pa, n := n, elems := n, data := BitVec.ofNat 128 x, cmp := BitVec.ofNat 128 cmp }
  (s1.orderWrite 16 1 pa n (BitVec.ofNat 128 (r.newVal old)) (fullMask n), old)

/-- Poisoned bytes that leave for the host or a peer are consumed there; with no group that sent them, that is logged with their storage unit (R382, log 140). -/
def State.portReads (s : State) (pa n : Nat) : State :=
  if s.poisonedAt pa n then
    let unit := ((s.sources.find? (fun p => decide (pa < p.1 + 8 ∧ p.1 < pa + n))).map (fun p => p.2)).getD (unitId 5 (storageDie pa) 0)
    s.logError (storageDie pa) 3 unit 0 (BitVec.ofNat 64 pa)
  else s

/-- A peer's new access: it reads up to 16 bytes, writes its payload, or performs its atomic at the home, and its receipt is DONE with its reply (R158, R161, log 45). -/
def State.peerGo (s : State) (hub : Nat) (h : Jdp) (data : List Byte) : State :=
  let pa := h.addr.toNat
  let n := peerBytes h
  let s0 := (spanLines pa n).foldl (fun t l => t.combined (128 * l)) s
  let w := s0.nextW pa n
  let done (t : State) (y : Reply) (d : List Byte) : State :=
    ({ t with receipts := t.receipts ++ [{ (peerMsg hub h).receipt s.refTime with done := some y }] }).answerPeer hub h y d
  if !s.hostReach pa n then { s with out := s.out ++ [.unsupported (BitVec.ofNat 64 pa)] }
  else match peerAccess h with
  | .load =>
    let v := s0.readPhys pa n
    done (s0.portReads pa n) (.result (BitVec.ofNat 128 v) 0) (bytesOf n v)
  | .store => done (s0.putBytes pa (data.take n)) (.result 0 w) []
  | a =>
    let lo := valueOf (data.take n)
    let p := (s0.portReads pa n).outerAtom pa n a (if a = .cas then valueOf ((data.drop n).take n) else lo) lo
    done p.1 (.result (BitVec.ofNat 128 p.2) w) (bytesOf n p.2)

/-- The reply that a peer's response brings, by its operation code. -/
def replyOf (h : Jdp) (data : List Byte) : Option Reply :=
  [Reply.result (BitVec.ofNat 128 (valueOf (data.take 16))) h.stamp.toNat, .held, .busy, .stale, .noAtomic, .contention].find?
    (fun y => Config.opcode (replyKind y) == h.opc)

/-- A response of a peer answers, in order, the copies of the numbered operation that it names (R157, R376). -/
def State.peerResponse (s : State) (h : Jdp) (data : List Byte) : State :=
  let mine (r : Rop) : Bool := r.die == h.reqid.toNat && r.rsn == h.rsn && (match r.what with | .atom q => isPeer q.addr | _ => false)
  match replyOf h data with
  | some y => { s with rops := updBy mine (fun r => { r with replies := r.replies ++ [(r.answers + 1, y)], answers := r.answers + 1 }) s.rops }
  | none => s

/-- True while one of a hub's ports that its peers use is held down (R393). -/
def State.portHeld (s : State) (hub : Nat) : Bool :=
  (List.range 2).all (fun i => s.mgmt.quarantine.contains (unitId 9 hub i)) || (List.range 8).all (fun i => s.mgmt.quarantine.contains (unitId 10 hub i))

/-- PEER_FRAME (R376, R158): a peer's response goes to the ROU. A numbered access of a peer is handled in R158's order: its receipt answers a copy, one with another OWNINC is answered
STALE and one that finds the cache full BUSY, and neither is executed. A new access waits until the home can serve it. -/
def execPeerFrame (hub : Nat) (hdr : BitVec 384) (data : List (BitVec 8)) (s : State) : Out3 :=
  let h := Jdp.ofWord hdr
  let m := peerMsg hub h
  let seen := s.seenInc m.at_ m.die
  .next (
    if s.portHeld hub then s
    else if h.cls = 1 then s.peerResponse h data
    else if seen ≠ 0 ∧ newerInc seen m.reqinc then s
    else
      let s1 := s.meet m
      if m.owninc ≠ s.incOf m.at_ then s1.answerPeer hub h .stale []
      else if 2 ^ 20 ≤ (m.rsn - m.ackw).toNat then s1.dropRsn m.at_
      else
        match s1.peerReceipt hub h with
        | some x =>
          let y := x.done.getD .held
          s1.answerPeer hub h y (match y, peerAccess h with | .result _ _, .store => [] | .result v _, _ => bytesOf (min 16 (peerBytes h)) v.toNat | _, _ => [])
        | none =>
          if s1.cacheFull m.at_ then s1.answerPeer hub h .busy []
          else if s1.hostReach h.addr.toNat (peerBytes h) && (spanLines h.addr.toNat (peerBytes h)).any (fun l => !s1.hostReady (128 * l)) then s
          else s1.peerGo hub h data)

/-! The host (R377, R379) -/

/-- HOST_BAR2_READ (R379): a host read is a system-scope load served at the home, and waits for W as one; beyond the populated memory it is an Unsupported Request. -/
def execHostBar2Read (pa : BitVec 64) (n : Nat) (s : State) : Out3 :=
  let a := pa.toNat
  if !s.hub.enabled then .next s
  else if !s.hostReach a n then .next { s with out := s.out ++ [.unsupported pa] }
  else if (spanLines a n).any (fun l => !s.hostReady (128 * l)) then .next s
  else
    let s1 := (spanLines a n).foldl (fun t l => t.combined (128 * l)) s
    let s2 := s1.portReads a n
    .next { s2 with out := s2.out ++ [.bar2 pa (bytesOf n (s1.readPhys a n))] }

/-- HOST_BAR2_WRITE (R379): a host write is a system-scope store performed at the homes. -/
def execHostBar2Write (hub : Nat) (pa : BitVec 64) (data : List (BitVec 8)) (s : State) : Out3 :=
  let a := pa.toNat
  if !s.hub.enabled ∨ 2 ≤ hub then .next s
  else if !s.hostReach a data.length then .next { s with out := s.out ++ [.unsupported pa] }
  else if (spanLines a data.length).any (fun l => !s.hostWritable (128 * l)) then .next s
  else .next (s.putBytes a data)

/-- A host AtomicOp as an atomic: of unsigned words, which FetchAdd and Swap treat as signed ones do. -/
def hostAccess : HostOp → Access
  | .fetchAdd => .atom .add 1
  | .swap => .atom .exch 1
  | .cas => .cas

/-- HOST_ATOMICOP (R375, R379): a host AtomicOp of 4 or 8 bytes, or a CAS of 16, executes at the home as a system-scope atomic; one of another size is an Unsupported Request. -/
def execHostAtomicop (pa : BitVec 64) (op : HostOp) (n : Nat) (x cmp : BitVec 128) (s : State) : Out3 :=
  let a := pa.toNat
  if !s.hub.enabled then .next s
  else if !s.hostReach a n ∨ !(n = 4 ∨ n = 8 ∨ (n = 16 ∧ op = .cas)) then .next { s with out := s.out ++ [.unsupported pa] }
  else if !s.hostReady a then .next s
  else
    let m := 256 ^ n
    let p := (s.portReads a n).outerAtom a n (hostAccess op) (x.toNat % m) (cmp.toNat % m)
    .next { p.1 with out := p.1.out ++ [.atomic pa (BitVec.ofNat 128 p.2)] }

/-- The slot of BAR 0 with a number (R379, Table 11). -/
def Hub.slot (h : Hub) (n : Nat) : HSlot :=
  ((h.slots.find? (fun p => p.1 == n)).map (fun p => p.2)).getD { ctxdesc := 0, cmdrec := 0, status := 0, lid := 0 }

/-- Changes a slot. -/
def State.onHSlot (s : State) (n : Nat) (f : HSlot → HSlot) : State :=
  { s with hub := { s.hub with slots := s.hub.slots.filter (fun p => p.1 != n) ++ [(n, f (s.hub.slot n))] } }

/-- The words of physical memory from an address, the first lowest. -/
def State.physWords (s : State) (pa : Nat) : Nat → Nat
  | 0 => 0
  | n + 1 => s.readPhys pa 8 + 2 ^ 64 * s.physWords (pa + 8) n

/-- A context starts: its descriptor is read from memory, and its counters are zero (R143, R355). Where its VA is not known the value of `CTXDESC` is free (log 6). -/
def State.startContext (s : State) (pa : Nat) : State × Nat :=
  let d : BitVec 1024 := BitVec.ofNat 1024 (s.physWords pa 16)
  let asid := bitsOf d 64 12
  match s.ctxs.find? (fun c => c.asid == asid) with
  | some c => ({ s with ctxs := updBy (fun x => x.asid == asid) (fun _ => { c with desc := d }) s.ctxs }, asid)
  | none =>
    ({ s with
      ctxs := s.ctxs ++ [{ asid := asid, va := Config.freeValue (2 * s.free), desc := d, faultN := 0 }], free := s.free + 1
      fcnt := s.fcnt.filter (fun p => p.1.2.1 != asid) }, asid)

/-- Sends a launch that has no launching group to the distributors of its set from a die. -/
def State.sendLaunch (s : State) (die asid : Nat) (r : BitVec 2048) : State × Nat :=
  let lid := s.nextId
  let dies := dieList r
  let gr : Grid :=
    { lid := lid, record := r, asid := asid, by_ := 0, sd := 0, pc := 0, owed := dies, arrived := dies.filter (fun d => d == die), queued := [], places := [],
      reported := [], maxW := 0, teamsDone := 0, state := 0, cause := 0, unit := 0, faultrec := 0, wrote := false, recOwed := false, msix := false, rollbacks := 0 }
  let s1 := { s with nextId := lid + 1, grids := (s.freshTag gr.rqtag).grids ++ [gr] }
  ((dies.filter (fun d => d != die)).foldl (fun t d => t.newRop die d gr.rqtag (.launch lid)) s1, lid)

/-- DOORBELL_START (R379): the lowest live die launches the slot's record in its context; a record that cannot be read is refused, and
while its translation is awaited nothing is launched yet (log 46). -/
def execDoorbellStart (slot : Nat) (s : State) : Out3 :=
  let h := s.hub.slot slot
  match s.liveDies.head? with
  | none => .next s
  | some die =>
    if !s.hub.enabled ∨ 256 ≤ slot ∨ (h.status.toNat % 256 ≠ 0 ∧ h.status.toNat % 256 ≠ 3) then .next s
    else
      let (s1, asid) := s.startContext h.ctxdesc.toNat
      if h.cmdrec.toNat % 256 = 0 ∧ s1.reach (sysWho asid die) .load h.cmdrec.toNat = .awaited then .next s1
      else match (if h.cmdrec.toNat % 256 = 0 then s1.readWords (sysWho asid die) h.cmdrec.toNat 32 else none) with
      | none => .next (s1.onHSlot slot (fun x => { x with status := 2 }))
      | some x =>
        let r : BitVec 2048 := BitVec.ofNat 2048 x
        let cause := invalidCause s1 r
        if cause ≠ 0 then .next (s1.onHSlot slot (fun y => { y with status := BitVec.ofNat 64 (2 + 256 * cause) }))
        else
          let (s2, lid) := s1.sendLaunch die asid r
          .next (s2.onHSlot slot (fun y => { y with status := 1, lid := lid }))

/-- DOORBELL_STOP (R379, R289): the command program's tag is purged on every die; STATUS becomes 3 when the purge is done. -/
def execDoorbellStop (slot : Nat) (s : State) : Out3 :=
  let h := s.hub.slot slot
  .next (if !s.hub.enabled ∨ h.status.toNat % 256 ≠ 1 then s
    else
      let w : Waiter := { id := s.nextId, gid := 0, lanes := 0, next := 0, kind := .purge (s.grid h.lid).rqtag, owed := s.liveDies }
      { s with waiters := s.waiters ++ [w], nextId := s.nextId + 1 })

/-- CONTROL_REGISTER_WRITE (R379): CTXDESC and CMDREC of a slot are stored; every other write is ignored. -/
def execControlRegisterWrite (off : Nat) (x : BitVec 64) (s : State) : Out3 :=
  let slot := (off - 0x100000) / 64
  .next (if !s.hub.enabled ∨ off < 0x100000 ∨ 256 ≤ slot then s
    else match off % 64 with
    | 0 => s.onHSlot slot (fun h => { h with ctxdesc := x })
    | 8 => s.onHSlot slot (fun h => { h with cmdrec := x })
    | _ => s)

/-- GET_MEASUREMENTS (R377): a digest, signed with the hubs' device key over the index and the digest (log 43). -/
def execGetMeasurements (ix : Nat) (s : State) : Out3 :=
  .next (match s.hub.measures.find? (fun p => p.1 == ix) with
    | some (_, d) => { s with out := s.out ++ [.measurement ix d (Config.signWith s.hub.device (bigBytes 4 ix ++ bigBytes 32 d.toNat))] }
    | none => s)

/-! BAR 0, BAR 4, MSI-X and TDISP (R352, R375, R378, R379) -/

/-- The eight bytes of BAR 0 at an offset (R379, Tables 10 and 11). -/
def State.bar0 (s : State) (hub off : Nat) : DWord :=
  if off = 0 then BitVec.ofNat 64 (16 + hub + 1 * 2 ^ 8 + (if s.hostMode then 2 ^ 16 else 0))
  else if off = 8 then (s.outerDie (16 + hub)).serial
  else if 0x10000 ≤ off ∧ off < 0x10000 + 2112 then s.hub.mirror.getD ((off - 0x10000) / 8) 0
  else if 0x100000 ≤ off ∧ off < 0x104000 then
    let h := s.hub.slot ((off - 0x100000) / 64)
    match off % 64 with
    | 0 => h.ctxdesc
    | 8 => h.cmdrec
    | 24 => h.status
    | _ => 0
  else 0

/-- The host reads eight aligned bytes of BAR 0. -/
def readBar0 (hub off : Nat) (s : State) : Out3 := .next (if !s.hub.enabled ∨ 2 ≤ hub then s else { s with out := s.out ++ [.bar0 hub off (s.bar0 hub (off / 8 * 8))] })

/-- A word of BAR 4: the MSI-X table from offset 0 and the pending bits from 32 KiB (Table 9). -/
def State.bar4 (s : State) (off : Nat) : Word :=
  if off < 0x8000 then s.hub.tableAt (off / 4)
  else BitVec.ofNat 32 (((List.range 32).map (fun i => if s.hub.pendingV.contains (8 * (off / 4 * 4 - 0x8000) + i) then 2 ^ i else 0)).sum)

/-- The host reads a word of BAR 4, or writes one of the table; a vector that a write unmasks with its pending bit set is sent (R352). -/
def readBar4 (hub off : Nat) (s : State) : Out3 := .next (if !s.hub.enabled ∨ 2 ≤ hub ∨ 0x10000 ≤ off then s else { s with out := s.out ++ [.bar4 hub off (s.bar4 off)] })
def writeBar4 (hub off : Nat) (x : Word) (s : State) : Out3 :=
  if !s.hub.enabled ∨ hub ≠ 0 ∨ 0x8000 ≤ off then .next s
  else
    let s1 := { s with hub := s.hub.setTable (off / 4) x }
    if off / 4 % 4 = 3 ∧ !x.getLsbD 0 then execMsixUnmask (off / 16) s1 else .next s1

/-- The host enables MSI-X with a number of table entries, at most 2,048 (R352, R375), or moves the TDISP interface and link encryption (R378). -/
def setMsix (on : Bool) (n : Nat) (s : State) : Out3 := .next { s with hub := { s.hub with msixOn := on, vectors := min n 2048 } }
def setTdisp (runs ide : Bool) (s : State) : Out3 := .next { s with hub := { s.hub with runs := runs, ide := ide } }

end Sys2Proof.Machine
end

