-- ==== Sys2Proof/Machine/Float.lean ====
section
/-! DEFINITION. Floating point and conversion: majors 0x19 to 0x1F (R214 to R228). -/

namespace Sys2Proof.Machine

/-- The format of an FP TYPE. -/
def fmtOf (f : Fields) : Fp.Format := if f.ty = 5 then Fp.f64 else Fp.f32

/-- A source pattern read as a value, as zero of its sign where flushing applies (R91). -/
def fpVal (t : Fp.Format) (md : Fp.Mode) (x : Nat) : Fp.Val := Fp.decodeFl t md.flush x

/-- A result and its flags written to a lane. -/
def fpDst (t : Ty) (f : Fields) (x : Lane) (r : Nat × FFlags) : Lane × FFlags := (dstVal t f.d r.1 x, r.2)

/-! FARITH (R215, R216) -/

/-- FARITH by FN. -/
def farithOp (fn : Nat) (t : Fp.Format) (md : Fp.Mode) (a b c : Nat) : Nat × FFlags :=
  let x := fpVal t md a
  let y := fpVal t md b
  match fn with
  | 0 => Fp.add t md x y
  | 1 => Fp.add t md x y.negate
  | 2 => Fp.mul t md x y
  | 3 => Fp.fma t md x y (fpVal t md c)
  | 4 => Fp.minMax t md.flush false false a b
  | 5 => Fp.minMax t md.flush true false a b
  | 6 => Fp.minMax t md.flush false true a b
  | _ => Fp.minMax t md.flush true true a b

/-- A lane's FARITH. -/
def farithLane (fn : Nat) (g : Group) (f : Fields) (x : Lane) : Lane × FFlags :=
  let t := tyOf f
  fpDst t f x (farithOp fn (fmtOf f) (fpMode g f) (srcA g t f x) (srcB g t f x) (srcC g t f x))

/-- An FARITH instruction. -/
def farith (fn : BitVec 3) (f : Fields) (s : State) : Out3 := runFp ⟨0x19, fn, 0⟩ f s (fun _ x => farithLane fn.toNat s.grp f x)

/-- FADD (R215). -/
def execFadd (f : Fields) (s : State) : Out3 := farith 0 f s
/-- FSUB (R215). -/
def execFsub (f : Fields) (s : State) : Out3 := farith 1 f s
/-- FMUL (R215). -/
def execFmul (f : Fields) (s : State) : Out3 := farith 2 f s
/-- FFMA (R215). -/
def execFfma (f : Fields) (s : State) : Out3 := farith 3 f s
/-- FMIN (R216). -/
def execFmin (f : Fields) (s : State) : Out3 := farith 4 f s
/-- FMAX (R216). -/
def execFmax (f : Fields) (s : State) : Out3 := farith 5 f s
/-- FMINM (R216). -/
def execFminm (f : Fields) (s : State) : Out3 := farith 6 f s
/-- FMAXM (R216). -/
def execFmaxm (f : Fields) (s : State) : Out3 := farith 7 f s

/-! FUNARY (R217, R218) -/

/-- The sign bit of a pattern. -/
def signOf (t : Fp.Format) (x : Nat) : Nat := x / t.signBit % 2

/-- A lane's FUNARY. FCLASS and FGETEXP write one register. -/
def funaryLane (fn : Nat) (g : Group) (f : Fields) (x : Lane) : Lane × FFlags :=
  let ty := tyOf f
  let t := fmtOf f
  let md := fpMode g f
  let a := srcA g ty f x
  let v := fpVal t md a
  match fn with
  | 0 => fpDst ty f x (a % t.signBit, 0)
  | 1 => fpDst ty f x (a % t.signBit + (1 - signOf t a) * t.signBit, 0)
  | 2 => fpDst ty f x (Fp.rnd t md v)
  | 3 => fpDst ty f x (Fp.frac t v)
  | 4 => fpDst .i32 f x (Fp.fclass t a, 0)
  | 5 => fpDst .i32 f x (Fp.getExp v)
  | 6 => fpDst ty f x (Fp.scale t md v (sextNat 32 (srcVal g .i32 x f.b)))
  | _ => fpDst ty f x (a % t.signBit + signOf t (srcB g ty f x) * t.signBit, 0)

/-- An FUNARY instruction. -/
def funary (fn : BitVec 3) (f : Fields) (s : State) : Out3 := runFp ⟨0x1A, fn, 0⟩ f s (fun _ x => funaryLane fn.toNat s.grp f x)

/-- FABS (R217). -/
def execFabs (f : Fields) (s : State) : Out3 := funary 0 f s
/-- FNEG (R217). -/
def execFneg (f : Fields) (s : State) : Out3 := funary 1 f s
/-- FRND (R217). -/
def execFrnd (f : Fields) (s : State) : Out3 := funary 2 f s
/-- FFRAC (R217). -/
def execFfrac (f : Fields) (s : State) : Out3 := funary 3 f s
/-- FCLASS (R218). -/
def execFclass (f : Fields) (s : State) : Out3 := funary 4 f s
/-- FGETEXP (R217). -/
def execFgetexp (f : Fields) (s : State) : Out3 := funary 5 f s
/-- FSCALE (R217). -/
def execFscale (f : Fields) (s : State) : Out3 := funary 6 f s
/-- FCOPYSIGN (R217). -/
def execFcopysign (f : Fields) (s : State) : Out3 := funary 7 f s

/-! FSPEC (R219, R220) -/

/-- FSPEC by FN; the choices the spec leaves open come from `Config` (log 7). -/
def fspecOp (fn : Nat) (t : Fp.Format) (md : Fp.Mode) (a : Nat) : Nat × FFlags :=
  let v := fpVal t md a
  let k : BitVec 32 := BitVec.ofNat 32 a
  match fn with
  | 0 => Fp.rcp md (Config.frcpUpper k) v
  | 1 => Fp.rsq md (Config.frsqUpper k) v
  | 2 => Fp.sqrt t md v
  | 3 => Fp.exp2 md (Config.fexp2Upper k) v
  | 4 => Fp.log2 md (Config.flog2Upper k) v
  | 5 => Fp.sinCos md false (Config.fsinPick k).toNat v
  | 6 => Fp.sinCos md true (Config.fcosPick k).toNat v
  | _ => Fp.tanh md (Config.ftanhPick k).toNat v

/-- An FSPEC instruction. -/
def fspec (fn : BitVec 3) (f : Fields) (s : State) : Out3 :=
  runFp ⟨0x1B, fn, 0⟩ f s (fun _ x => fpDst (tyOf f) f x (fspecOp fn.toNat (fmtOf f) (fpMode s.grp f) (srcA s.grp (tyOf f) f x)))

/-- FRCP (R219). -/
def execFrcp (f : Fields) (s : State) : Out3 := fspec 0 f s
/-- FRSQ (R219). -/
def execFrsq (f : Fields) (s : State) : Out3 := fspec 1 f s
/-- FSQRT (R219). -/
def execFsqrt (f : Fields) (s : State) : Out3 := fspec 2 f s
/-- FEXP2 (R219). -/
def execFexp2 (f : Fields) (s : State) : Out3 := fspec 3 f s
/-- FLOG2 (R219). -/
def execFlog2 (f : Fields) (s : State) : Out3 := fspec 4 f s
/-- FSIN (R219). -/
def execFsin (f : Fields) (s : State) : Out3 := fspec 5 f s
/-- FCOS (R219). -/
def execFcos (f : Fields) (s : State) : Out3 := fspec 6 f s
/-- FTANH (R219). -/
def execFtanh (f : Fields) (s : State) : Out3 := fspec 7 f s

/-! FCMP (R221) -/

/-- FN of an FCMP condition. -/
def fcondFn (c : FCond) : Nat := (Enc.fCondFn c).toNat

/-- A lane's FCMP; a write to p0 is discarded and its flag still raised. -/
def fcmpLane (fn : Nat) (g : Group) (f : Fields) (x : Lane) : Lane × FFlags :=
  let t := fmtOf f
  let md := fpMode g f
  let r := Fp.fcmp fn (fpVal t md (srcA g (tyOf f) f x)) (fpVal t md (srcB g (tyOf f) f x))
  (dstVal .i32 f.d (if r.1 then 1 else 0) x, r.2)

/-- FCMP (R221). -/
def execFcmp (c : FCond) (f : Fields) (s : State) : Out3 :=
  runFp ⟨0x1C, Enc.fCondFn c, 0⟩ f s (fun _ x => fcmpLane (fcondFn c) s.grp f x)

/-! FPACK (R222, R223) -/

/-- FDIV (R222). -/
def execFdiv (f : Fields) (s : State) : Out3 :=
  runFp ⟨0x1D, 0, 0⟩ f s (fun _ x =>
    let md := fpMode s.grp f
    let t := fmtOf f
    fpDst (tyOf f) f x (Fp.div t md (fpVal t md (srcA s.grp (tyOf f) f x)) (fpVal t md (srcB s.grp (tyOf f) f x))))

/-- The half-word `i` of a packed word. -/
def half (i x : Nat) : Nat := x / 2 ^ (16 * i) % 2 ^ 16

/-- A packed operation: both elements, the flags ORed (R223). `op` is 0 add, 1 multiply, 2 multiply-add. -/
def packOp (op : Nat) (t : Fp.Format) (md : Fp.Mode) (a b c : Nat) : Nat × FFlags :=
  let one (i : Nat) : Nat × FFlags :=
    let x := fpVal t md (half i a)
    let y := fpVal t md (half i b)
    match op with
    | 0 => Fp.add t md x y
    | 1 => Fp.mul t md x y
    | _ => Fp.fma t md x y (fpVal t md (half i c))
  ((one 0).1 + 2 ^ 16 * (one 1).1, (one 0).2 ||| (one 1).2)

/-- A packed instruction of FN `fn` in the type of its elements. -/
def fpack (fn : BitVec 3) (op : Nat) (t : Fp.Format) (ty : Ty) (f : Fields) (s : State) : Out3 :=
  runFp ⟨0x1D, fn, 0⟩ f s (fun _ x =>
    fpDst .i32 f x (packOp op t (fpMode s.grp f) (srcVal s.grp ty x f.a) (srcVal s.grp ty x f.b) (srcVal s.grp ty x (third f))))

/-- HADD2 (R223). -/
def execHadd2 (f : Fields) (s : State) : Out3 := fpack 1 0 Fp.f16 .f16x2 f s
/-- HMUL2 (R223). -/
def execHmul2 (f : Fields) (s : State) : Out3 := fpack 2 1 Fp.f16 .f16x2 f s
/-- HFMA2 (R223). -/
def execHfma2 (f : Fields) (s : State) : Out3 := fpack 3 2 Fp.f16 .f16x2 f s
/-- BADD2 (R223). -/
def execBadd2 (f : Fields) (s : State) : Out3 := fpack 4 0 Fp.bf16 .bf16x2 f s
/-- BMUL2 (R223). -/
def execBmul2 (f : Fields) (s : State) : Out3 := fpack 5 1 Fp.bf16 .bf16x2 f s
/-- BFMA2 (R223). -/
def execBfma2 (f : Fields) (s : State) : Out3 := fpack 6 2 Fp.bf16 .bf16x2 f s

/-! DOT (R224, R225) -/

/-- The sum of the products of four byte elements, signed or not, plus c, modulo 2^32 (R224). -/
def dot4 (isSigned : Bool) (a b c : Nat) : Nat :=
  let el (x k : Nat) : Int := if isSigned then sextNat 8 (x / 2 ^ (8 * k)) else ((x / 2 ^ (8 * k) % 256 : Nat) : Int)
  (((List.range 4).map (fun k => el a k * el b k)).foldl (· + ·) (c : Int) % (2 ^ 32 : Nat)).toNat

/-- DOT4I (R224). -/
def execDot4i (f : Fields) (s : State) : Out3 :=
  runLanes ⟨0x1E, 0, 0⟩ f s (fun _ x =>
    dstVal .i32 f.d (dot4 true (srcVal s.grp .i8x4 x f.a) (srcVal s.grp .i8x4 x f.b) (srcVal s.grp .i32 x (third f))) x)

/-- DOT4U (R224). -/
def execDot4u (f : Fields) (s : State) : Out3 :=
  runLanes ⟨0x1E, 1, 0⟩ f s (fun _ x =>
    dstVal .i32 f.d (dot4 false (srcVal s.grp .i8x4 x f.a) (srcVal s.grp .i8x4 x f.b) (srcVal s.grp .un32 x (third f))) x)

/-- DOT2B or DOT2H on packed words (R225). -/
def dot2Op (t : Fp.Format) (md : Fp.Mode) (a b c : Nat) : Nat × FFlags :=
  Fp.dot2 md (fpVal t md (half 0 a)) (fpVal t md (half 0 b)) (fpVal t md (half 1 a)) (fpVal t md (half 1 b)) (fpVal Fp.f32 md c)

/-- DOT2B (R225). -/
def execDot2b (f : Fields) (s : State) : Out3 :=
  runFp ⟨0x1E, 2, 0⟩ f s (fun _ x => fpDst .i32 f x
    (dot2Op Fp.bf16 (fpMode s.grp f) (srcVal s.grp .bf16x2 x f.a) (srcVal s.grp .bf16x2 x f.b) (srcVal s.grp .f32 x (third f))))

/-- DOT2H (R225). -/
def execDot2h (f : Fields) (s : State) : Out3 :=
  runFp ⟨0x1E, 3, 0⟩ f s (fun _ x => fpDst .i32 f x
    (dot2Op Fp.f16 (fpMode s.grp f) (srcVal s.grp .f16x2 x f.a) (srcVal s.grp .f16x2 x f.b) (srcVal s.grp .f32 x (third f))))

/-! CVT (R226 to R228) -/

/-- The type of CVT's source by code (R403, Table 9). -/
def cvtSrc (code : Nat) : Ty :=
  match code with
  | 1 => .f64
  | 3 => .f16lo
  | 5 => .bf16lo
  | 6 => .f32x2
  | 7 => .f32x2
  | 8 => .f16hi
  | 9 => .bf16hi
  | 20 => .f64
  | 21 => .f64
  | 22 => .f64
  | 23 => .f64
  | 24 => .i32
  | 25 => .un32
  | 26 => .i64
  | 27 => .un64
  | 28 => .i32
  | 29 => .un32
  | 30 => .i64
  | 31 => .un64
  | 32 => .un32
  | 33 => .un32
  | 34 => .un32
  | 35 => .un32
  | _ => .f32

/-- The type of CVT's destination by code: a pair or one register. -/
def cvtDst (code : Nat) : Ty :=
  match code with
  | 0 => .f64
  | 18 => .i64
  | 19 => .un64
  | 22 => .i64
  | 23 => .un64
  | 28 => .f64
  | 29 => .f64
  | 30 => .f64
  | 31 => .f64
  | _ => .i32

/-- Both elements of a pair of FP32 values converted to a half format (codes 6 and 7). -/
def cvtPack (t : Fp.Format) (md : Fp.Mode) (a : Nat) : Nat × FFlags :=
  let x := Fp.convert Fp.f32 t md md.flush (a % 2 ^ 32)
  let y := Fp.convert Fp.f32 t md md.flush (a / 2 ^ 32 % 2 ^ 32)
  (x.1 + 2 ^ 16 * y.1, x.2 ||| y.2)

/-- The integer a source of codes 24 to 31 names. -/
def cvtInt (code a : Nat) : Int :=
  match code % 4 with
  | 0 => sextNat 32 a
  | 1 => (a : Int)
  | 2 => sextNat 64 a
  | _ => (a : Int)

/-- CVT by code (R227, R228, Table 9). -/
def cvtOp (code : Nat) (md : Fp.Mode) (a : Nat) : Nat × FFlags :=
  let w := if code % 4 < 2 then 32 else 64
  let sg := code % 2 == 0
  if code < 10 then
    match code with
    | 0 => Fp.convert Fp.f32 Fp.f64 md md.flush a
    | 1 => Fp.convert Fp.f64 Fp.f32 md md.flush a
    | 2 => Fp.convert Fp.f32 Fp.f16 md md.flush a
    | 3 => Fp.convert Fp.f16 Fp.f32 md md.flush (half 0 a)
    | 4 => Fp.convert Fp.f32 Fp.bf16 md md.flush a
    | 5 => Fp.convert Fp.bf16 Fp.f32 md md.flush (half 0 a)
    | 6 => cvtPack Fp.f16 md a
    | 7 => cvtPack Fp.bf16 md a
    | 8 => Fp.convert Fp.f16 Fp.f32 md md.flush (half 1 a)
    | _ => Fp.convert Fp.bf16 Fp.f32 md md.flush (half 1 a)
  else if code < 20 then Fp.toInteger Fp.f32 md.rm md.flush sg w a
  else if code < 24 then Fp.toInteger Fp.f64 md.rm md.flush sg w a
  else if code < 28 then Fp.ofInteger Fp.f32 md (cvtInt code a)
  else if code < 32 then Fp.ofInteger Fp.f64 md (cvtInt code a)
  else if code = 32 then (Block.elementToF32 3 (a % 256) 127, 0)
  else if code = 33 then (Block.elementToF32 4 (a % 64) 127, 0)
  else if code = 34 then (Block.e8m0ToF32 a, 0)
  else ((Fp.ofInteger Fp.f32 md (sextNat 8 a)).1, 0)

/-- CVT (R226): FN is the rounding, 6 and 7 acting as 0. -/
def execCvt (rnd : BitVec 3) (f : Fields) (s : State) : Out3 :=
  runFp ⟨0x1F, rnd, 0⟩ f s (fun _ x =>
    let code := match f.b with | .num n => n.toNat % 64 | _ => 0
    let md : Fp.Mode := { fpMode s.grp f with rm := rmOf s.grp rnd.toNat }
    fpDst (cvtDst code) f x (cvtOp code md (srcVal s.grp (cvtSrc code) x f.a)))

end Sys2Proof.Machine
end

