-- ==== Sys2Proof/Machine/CrossLane.lean ====
section
/-! DEFINITION. Cross-lane instructions: SHFL, VOTE, RDX, RSTEP, SCAN, PUTL (R234 to R240, R105, R106). -/

namespace Sys2Proof.Machine

/-- A lane of the bundle by a signed number (R235). -/
def bundleLane (s : State) (j : Int) : Option Lane :=
  if 0 ≤ j ∧ j < s.grp.lanes.length ∧ s.inBundle j.toNat then s.grp.lanes[j.toNat]? else none

/-! SHFL (R235) -/

/-- The number of B, as `src(l, B)[31:0]`. -/
def shflArg (g : Group) (f : Fields) (x : Lane) : Nat := srcVal g (tyOf f) x f.b % 2 ^ 32

/-- The offset of the W forms: WIDTH >> k, 0 from k = 8 on. -/
def shflOff (s : State) (f : Fields) : Nat :=
  let k := match f.b with | .num n => n.toNat | _ => 0
  if k < 8 then s.grp.lanes.length / 2 ^ k else 0

/-- The source lane of lane `l` by FN. -/
def shflFrom (fn : Nat) (s : State) (f : Fields) (l : Nat) (x : Lane) : Int :=
  let b := shflArg s.grp f x
  let o := shflOff s f
  match fn with
  | 0 => (b : Int)
  | 1 => (l : Int) - b
  | 2 => (l : Int) + b
  | 3 => ((l ^^^ b : Nat) : Int)
  | 4 => (l : Int) - o
  | 5 => (l : Int) + o
  | 6 => ((l ^^^ o : Nat) : Int)
  | _ => (((l + o) % s.grp.lanes.length : Nat) : Int)

/-- A lane's SHFL: the supplier's A, or C under the fill option, or nothing. -/
def shflLane (fn : Nat) (f : Fields) (s : State) (l : Nat) (x : Lane) : Lane :=
  match bundleLane s (shflFrom fn s f l x) with
  | some y => dstVal (tyOf f) f.d (srcVal s.grp (tyOf f) y f.a) x
  | none => if f.imm.getLsbD 0 then dstVal (tyOf f) f.d (srcVal s.grp (tyOf f) x f.c) x else x

/-- A SHFL instruction. -/
def shfl (fn : BitVec 3) (f : Fields) (s : State) : Out3 := runLanes ⟨0x20, fn, 0⟩ f s (shflLane fn.toNat f s)

/-- SHFL.IDX (R235). -/
def execShflIdx (f : Fields) (s : State) : Out3 := shfl 0 f s
/-- SHFL.UP (R235). -/
def execShflUp (f : Fields) (s : State) : Out3 := shfl 1 f s
/-- SHFL.DOWN (R235). -/
def execShflDown (f : Fields) (s : State) : Out3 := shfl 2 f s
/-- SHFL.XOR (R235). -/
def execShflXor (f : Fields) (s : State) : Out3 := shfl 3 f s
/-- SHFL.UPW (R235). -/
def execShflUpw (f : Fields) (s : State) : Out3 := shfl 4 f s
/-- SHFL.DOWNW (R235). -/
def execShflDownw (f : Fields) (s : State) : Out3 := shfl 5 f s
/-- SHFL.XORW (R235). -/
def execShflXorw (f : Fields) (s : State) : Out3 := shfl 6 f s
/-- SHFL.ROTW (R235). -/
def execShflRotw (f : Fields) (s : State) : Out3 := shfl 7 f s

/-! VOTE (R236) -/

/-- The voting lanes T with their A values. -/
def voters (s : State) (f : Fields) : List (Nat × Nat) := (s.actives f.gd).map (fun p => (p.1, srcVal s.grp (tyOf f) p.2 f.a))

/-- A 64-bit mask of lanes, lanes 64 to 127 under HI. -/
def voteMask (f : Fields) (l : List Nat) : Nat :=
  let m := (maskOf l).toNat
  if f.imm.getLsbD 0 then m / 2 ^ 64 else m % 2 ^ 64

/-- A VOTE instruction: `h` gives a lane's value from T. -/
def vote (fn : BitVec 3) (t : Ty) (f : Fields) (s : State) (h : List (Nat × Nat) → Nat → Lane → Nat) : Out3 :=
  runLanes ⟨0x21, fn, 0⟩ f s (fun l x => dstVal t f.d (h (voters s f) l x) x)

/-- 1 for true. -/
def truth (b : Bool) : Nat := if b then 1 else 0

/-- VOTE.ALL (R236). -/
def execVoteAll (f : Fields) (s : State) : Out3 := vote 0 .i32 f s (fun t _ _ => truth (t.all (fun p => p.2 != 0)))
/-- VOTE.ANY (R236). -/
def execVoteAny (f : Fields) (s : State) : Out3 := vote 1 .i32 f s (fun t _ _ => truth (t.any (fun p => p.2 != 0)))
/-- VOTE.BALLOT (R236). -/
def execVoteBallot (f : Fields) (s : State) : Out3 :=
  vote 2 .i64 f s (fun t _ _ => voteMask f ((t.filter (fun p => p.2 != 0)).map (fun p => p.1)))
/-- VOTE.ELECT (R236). -/
def execVoteElect (f : Fields) (s : State) : Out3 := vote 3 .i32 f s (fun t l _ => truth ((t.head?.map (fun p => p.1)) == some l))
/-- VOTE.MATCH (R236). -/
def execVoteMatch (f : Fields) (s : State) : Out3 :=
  vote 4 .i32 f s (fun t l x => ((t.find? (fun p => p.2 == srcVal s.grp (tyOf f) x f.a)).map (fun p => p.1)).getD l)
/-- VOTE.POPA (R236). -/
def execVotePopa (f : Fields) (s : State) : Out3 := vote 5 .i32 f s (fun t _ _ => (t.filter (fun p => p.2 != 0)).length)
/-- VOTE.LMASK (R236). -/
def execVoteLmask (f : Fields) (s : State) : Out3 :=
  vote 6 .i64 f s (fun t l _ => voteMask f ((t.filter (fun p => decide (p.1 < l) && p.2 != 0)).map (fun p => p.1)))
/-- VOTE.ACTM (R236). -/
def execVoteActm (f : Fields) (s : State) : Out3 := vote 7 .i64 f s (fun t _ _ => voteMask f (t.map (fun p => p.1)))

/-! Reductions (R105, R106, R237 to R239) -/

/-- The identity of a reduction (R106). -/
def redIdentity : RedOp → Nat
  | .iadd => 0
  | .imin => 0x7FFFFFFF
  | .imax => 0x80000000
  | .and => 0xFFFFFFFF
  | .or => 0
  | .xor => 0
  | .fadd => 0x80000000
  | .fmax => 0xFF800000

/-- One step of a reduction; only FADD rounds and flushes (R213, R237). -/
def redStep (o : RedOp) (md : Fp.Mode) (x y : Nat) : Nat × FFlags :=
  match o with
  | .iadd => ((x + y) % 2 ^ 32, 0)
  | .imin => (if toS 32 x ≤ toS 32 y then x else y, 0)
  | .imax => (if toS 32 x ≤ toS 32 y then y else x, 0)
  | .and => (x &&& y, 0)
  | .or => (x ||| y, 0)
  | .xor => (x ^^^ y, 0)
  | .fadd => Fp.add Fp.f32 md (fpVal Fp.f32 md x) (fpVal Fp.f32 md y)
  | .fmax => Fp.minMax Fp.f32 false true false x y

/-- The mode of a reduction: RND and FTZ, no saturation. -/
def redMode (g : Group) (f : Fields) : Fp.Mode := { fpMode g f with sat := false }

/-- The type of a reduction's values (R403). -/
def redTy (o : RedOp) : Ty :=
  match o with
  | .fadd => .f32
  | .fmax => .f32
  | _ => .i32

/-- The least k with `n` ≤ 2^k. -/
def levels (n : Nat) : Nat := if n ≤ 1 then 0 else (n - 1).log2 + 1

/-- The values of all lanes, the identity where a lane does not supply, padded to a power of two (R105, Table 12). -/
def redValues (o : RedOp) (f : Fields) (s : State) : List Nat :=
  let own := (numbered 0 s.grp.lanes).map (fun p => if s.active f.gd p.1 p.2 then srcVal s.grp (redTy o) p.2 f.a else redIdentity o)
  own ++ List.replicate (2 ^ levels own.length - own.length) (redIdentity o)

/-- One level of the tree: neighbours combined, the lower lane on the left. -/
def redLevel (op : Nat → Nat → Nat × FFlags) : List Nat → List Nat × FFlags
  | x :: y :: rest =>
    let (l, f) := redLevel op rest
    ((op x y).1 :: l, (op x y).2 ||| f)
  | l => (l, 0)

/-- The tree of `k` levels with the flags of every step (R105). -/
def redTree (op : Nat → Nat → Nat × FFlags) : Nat → List Nat → Nat × FFlags
  | 0, l => (l.headD 0, 0)
  | k + 1, l =>
    let (m, f) := redLevel op l
    let (v, h) := redTree op k m
    (v, f ||| h)

/-- RDX (R237). -/
def execRdx (o : RedOp) (f : Fields) (s : State) : Out3 :=
  let vs := redValues o f s
  let r := redTree (redStep o (redMode s.grp f)) (levels vs.length) vs
  runFp ⟨0x22, Enc.redOpFn o, 0⟩ f s (fun _ x => fpDst .i32 f x r)

/-- RSTEP (R238). -/
def execRstep (o : RedOp) (f : Fields) (s : State) : Out3 :=
  let vs := redValues o f s
  let k := match f.b with | .num n => n.toNat | _ => 0
  runFp ⟨0x23, Enc.redOpFn o, 0⟩ f s (fun l x =>
    let own := vs.getD l 0
    if 2 ^ (k + 1) ≤ vs.length ∧ l % 2 ^ (k + 1) = 0 then fpDst .i32 f x (redStep o (redMode s.grp f) own (vs.getD (l + 2 ^ k) 0))
    else fpDst .i32 f x (own, 0))

/-- One level of SCAN: from lane 2^k on, each lane takes op of the lane 2^k below and itself (R239). -/
def scanLevel (op : Nat → Nat → Nat × FFlags) (d : Nat) (u : List Nat) : List Nat × FFlags :=
  let r := List.zipWith op u (u.drop d)
  (u.take d ++ r.map (fun p => p.1), r.foldl (fun f p => f ||| p.2) 0)

/-- The levels `i`, `i` + 1, … of SCAN, `k` of them. -/
def scanTree (op : Nat → Nat → Nat × FFlags) : Nat → Nat → List Nat → List Nat × FFlags
  | 0, _, l => (l, 0)
  | k + 1, i, l =>
    let (m, f) := scanLevel op (2 ^ i) l
    let (v, h) := scanTree op k (i + 1) m
    (v, f ||| h)

/-- SCAN (R239): IMM16 [0] selects the exclusive form. -/
def execScan (o : RedOp) (f : Fields) (s : State) : Out3 :=
  let vs := redValues o f s
  let ts := if f.imm.getLsbD 0 then redIdentity o :: vs.dropLast else vs
  let r := scanTree (redStep o (redMode s.grp f)) (levels vs.length) 0 ts
  runFp ⟨0x24, Enc.redOpFn o, 0⟩ f s (fun l x => fpDst .i32 f x (r.1.getD l 0, r.2))

/-! PUTL (R240) -/

/-- PUTL: each guard-true lane takes the value of the highest lane that sent to it (R240). -/
def execPutl (f : Fields) (s : State) : Out3 :=
  let sent := (s.actives f.gd).map (fun p => (shflArg s.grp f p.2, srcVal s.grp (tyOf f) p.2 f.a))
  runLanes ⟨0x25, 0, 0⟩ f s (fun l x =>
    match (sent.filter (fun p => p.1 == l)).getLast? with
    | some p => dstVal (tyOf f) f.d p.2 x
    | none => x)

end Sys2Proof.Machine
end

