-- ==== Sys2Proof/Machine/Dual.lean ====
section
/-! DEFINITION. The dual form: two vector operations under one guard (R175, R176, R241, R242). -/

namespace Sys2Proof.Machine

/-- The majors that may pair (R176). -/
def pairs (maj : BitVec 6) : Bool :=
  let m := maj.toNat
  (decide (8 ≤ m) && decide (m ≤ 12)) || m == 0x19 || m == 0x1A || m == 0x1C

/-- The key of an operation of a dual instruction: SUB 0. -/
def dualKey (o : DualOp) : Key := ⟨o.maj, o.fn, 0⟩

/-- A vector operand of an 8-bit field. -/
def dualVec (x : BitVec 8) : Operand := .vec (x.setWidth 11)

/-- The fields of one operation: the default TYPE of its major, rounding by `FMODE`, the third source from C (R175). -/
def dualFields (o : DualOp) (gd : Guard) : Fields :=
  { form := .ext, d := if o.maj = 0x1C then .prd (o.d.setWidth 4) else dualVec o.d, a := dualVec o.a, b := dualVec o.b, c := dualVec o.c,
    gd := gd, ty := if o.maj = 0x19 ∨ o.maj = 0x1A ∨ o.maj = 0x1C then 4 else 0, md := 5, imm := 0, lit := 0 }

/-- The registers an operation reads by position, vector operands one by one, with the implicit p7 (R176). -/
def dualReads (o : DualOp) : List (Nat × Nat) :=
  let f := dualFields o ⟨0, false⟩
  match Enc.sigFor .ext (dualKey o) with
  | some s => slotRegs (dualKey o) f s.a f.a ++ slotRegs (dualKey o) f s.b f.b ++ slotRegs (dualKey o) f s.c f.c ++ fixedRegs (dualKey o) f
  | none => []

/-- The registers an operation writes. -/
def dualWrites (o : DualOp) : List (Nat × Nat) :=
  let f := dualFields o ⟨0, false⟩
  match Enc.sigFor .ext (dualKey o) with
  | some s => slotRegs (dualKey o) f s.d f.d ++ fixedRegs (dualKey o) f
  | none => []

/-- True when two lists of register ranges meet. -/
def meets (l m : List (Nat × Nat)) : Bool := l.any (fun a => m.any (fun b => meet a b))

/-- The vector registers of a list. -/
def vecsOf (l : List (Nat × Nat)) : List Nat := (l.filter (fun r => decide (r.1 < 0x600))).map (fun r => r.1)

/-- The predicates of a list. -/
def predsOf (l : List (Nat × Nat)) : List (Nat × Nat) := l.filter (fun r => decide (0x640 ≤ r.1))

/-- PAIRING (R176). -/
def pairing (x y : DualOp) : Bool :=
  let banks := vecsOf (dualReads x ++ dualReads y)
  !pairs x.maj || !pairs y.maj ||
  (List.range 4).any (fun b => decide (2 < (banks.filter (fun r => r % 4 == b)).length)) ||
  (vecsOf (dualWrites x)).any (fun r => (vecsOf (dualWrites y)).any (fun q => r % 4 == q % 4)) ||
  meets (dualReads x) (dualWrites y) || meets (dualReads y) (dualWrites x) || meets (predsOf (dualWrites x)) (predsOf (dualWrites y))

/-- One operation's effect on a lane. -/
def dualOpLane (o : DualOp) (g : Group) (gd : Guard) (x : Lane) : Lane × FFlags :=
  let f := dualFields o gd
  let fn := o.fn.toNat
  match o.maj.toNat with
  | 0x08 => (iarithLane fn g f x, 0)
  | 0x09 => (imulLane fn g f x, 0)
  | 0x0A => (logicLane fn g f x, 0)
  | 0x0B => (shiftLane fn g f x, 0)
  | 0x0C => (bitsLane fn g f x, 0)
  | 0x19 => farithLane fn g f x
  | 0x1A => funaryLane fn g f x
  | _ => fcmpLane fn g f x

/-- The registers of both operations and the guard. -/
def dualUsed (gd : Guard) (x y : DualOp) : List (Nat × Nat) := (0x640 + gd.p.toNat, 1) :: (dualReads x ++ dualWrites x ++ dualReads y ++ dualWrites y)

/-- The decode faults of a dual instruction that depend on the machine: PAIRING, then REGRANGE, then marked registers (R182). -/
def dualStop (gd : Guard) (x y : DualOp) (s : State) : Option FaultInfo :=
  if pairing x y then some { cause := .pairing }
  else if (dualUsed gd x y).any (fun r => decide (r.1 < 0x600) && decide (s.grp.vcount < r.1 + r.2)) then some { cause := .regrange }
  else markedFault gd (dualUsed gd x y) s

/-- What both operations do in a lane, and their flags. Both read before either writes; R176 keeps them apart, so one after the other
gives the same. -/
def dualLane (gd : Guard) (x y : DualOp) (g : Group) (l : Lane) : Lane × FFlags × FFlags :=
  let a := dualOpLane x g gd l
  let b := dualOpLane y g gd a.1
  (b.1, a.2, b.2)

/-- Completes a dual instruction: one user trap for both operations (R242). -/
def dualGo (gd : Guard) (x y : DualOp) (s : State) : State :=
  let f := dualFields x gd
  let s1 := s.lanewise f (fun _ l => let r := dualLane gd x y s.grp l; { r.1 with fflags := l.fflags ||| r.2.1 ||| r.2.2 })
  let on (l : Nat) : Bool := s.active gd l (s.laneAt l)
  let at_ (l : Nat) : Lane × FFlags × FFlags := dualLane gd x y s.grp (s.laneAt l)
  let en : FFlags := s.grp.trapen.setWidth 5
  let raised (l : Nat) : FFlags := if on l then ((at_ l).2.1 ||| (at_ l).2.2) &&& en else 0
  let second (l : Nat) : Bool := on l && ((at_ l).2.2 &&& en) != 0
  userTrap 1 0 { dst := Enc.codeOf f.d, dst2 := Enc.codeOf (dualFields y gd).d } f.form.len on raised second s1

/-- The dual form (R175, R242). -/
def execDual (gd : Guard) (x y : DualOp) (s : State) : Out3 :=
  match dualStop gd x y s with
  | some i => .next (raiseWith i s)
  | none => .next (dualGo gd x y s)

end Sys2Proof.Machine
end

