-- ==== Sys2Proof/Machine/Quant.lean ====
section
/-! DEFINITION. The block operations QNT, DEQ, ROT and IROT over register spans, and SCALE (R229 to R233). -/

namespace Sys2Proof.Machine

/-- FMT and NR of IMM16 (R229). -/
def qntFmt (f : Fields) : Nat := f.imm.toNat % 16
def qntRegs (f : Fields) : Nat := f.imm.toNat / 256 % 16 + 1

/-- The rotation tag: the B operand [15:0] (R229). -/
def qntTag (g : Group) (f : Fields) : Nat := (sclVal g f.b).toNat % 2 ^ 16

/-- The seed register a tag names, at issue (R229). -/
def seedOf (g : Group) (tag : Nat) : DWord := sget 0 g.sseed (Block.seedIx tag)

/-- The words of a span in element order, a lane outside the guard-true lanes of the bundle supplying zero (R229). -/
def spanWords (s : State) (f : Fields) (first : Nat) : List Nat :=
  (List.range (qntRegs f)).flatMap (fun r => (numbered 0 s.grp.lanes).map (fun p =>
    if s.active f.gd p.1 p.2 then (p.2.reg (first + r)).toNat else 0))

/-- Results by element, each with the flags its lane raises. -/
abbrev Span := List (Nat × FFlags)

/-- Writes a lane's results of a span and collects its flags: element j is lane j mod WIDTH of register first + j / WIDTH. -/
def spanDst (res : Span) (width first : Nat) : Nat → Nat → Lane → Lane × FFlags
  | 0, _, x => (x, 0)
  | r + 1, l, x =>
    let v := res.getD (r * width + l) (0, 0)
    let y := spanDst res width first r l x
    (y.1.setReg (first + r) (BitVec.ofNat 32 v.1), y.2 ||| v.2)

/-- A block operation: the checks of R229 that depend on the tag, then the results of every element, all read before any is written. -/
def qntOp (fn : BitVec 3) (unit : Nat → Nat) (f : Fields) (s : State) (h : Nat → DWord → List Nat → Span) : Out3 :=
  run ⟨0x38, fn, 0⟩ f s (fun s =>
    let tag := qntTag s.grp f
    let seed := seedOf s.grp tag
    if !s.anyActive f.gd then s.advance f.form.len
    else if qntRegs f * s.grp.lanes.length % unit tag ≠ 0 then raise .illegal s
    else if !Block.tagOk seed tag then raise .tagmismatch s
    else
      let res := h tag seed (spanWords s f (vecNum f.a))
      fpComplete f (fun l x => spanDst res s.grp.lanes.length (vecNum f.d) (qntRegs f) l x) s)

/-- The unit G of QNT and DEQ (R229). -/
def qntUnit (fmt tag : Nat) : Nat := if fmt = 6 then Block.blockSize tag else max 32 (Block.blockSize tag)

/-- True for an infinite or NaN value. -/
def nonFinite (v : Fp.Val) : Bool := v.isNan || v.isInf

/-- QNT over a span (R230): pattern and scale byte; NV where the input is not finite (R102). -/
def qntSpan (fmt tag : Nat) (seed : DWord) (ws : List Nat) : Span :=
  let vs := ws.map (Fp.decode Fp.f32)
  List.zipWith (fun v (q : Nat × Nat) => (q.2 * 256 + q.1, if nonFinite v then flagNV else 0)) vs (Block.quantize fmt tag seed vs)

/-- QNT (R230). -/
def execQnt (f : Fields) (s : State) : Out3 := qntOp 0 (qntUnit (qntFmt f)) f s (fun tag seed ws => qntSpan (qntFmt f) tag seed ws)

/-- The value of a word of the QNT layout; none for NaR or scale byte 0xFF (R231). -/
def deqVal (fmt w : Nat) : Option Block.Dy :=
  if fmt = 6 then Block.element 6 (w % 256) else Block.scaledElement fmt (w % 256) (w / 256 % 256)

/-- The inverse rotation of one block of values, each result rounded once; a block with a bad element is NaN throughout, and NV is raised
at every element of it when `whole`, else where the bad elements were (R101, R231, R232). -/
def inverseBlock (whole : Bool) (tag : Nat) (seed : DWord) (md : Fp.Mode) (vs : List (Option Block.Dy)) : Span :=
  if vs.any Option.isNone then vs.map (fun v => (Fp.f32.nanBits, if whole || v.isNone then flagNV else 0))
  else (Block.unrotate tag seed (vs.map (fun v => v.getD Block.Dy.zero))).map (Block.toFp Fp.f32 md)

/-- DEQ (R231): a bad block raises NV in all the guard-true lanes that supplied it (log 121). -/
def execDeq (f : Fields) (s : State) : Out3 :=
  qntOp 1 (qntUnit (qntFmt f)) f s (fun tag seed ws =>
    (Block.chunks (Block.blockSize tag) ws.length (ws.map (deqVal (qntFmt f)))).flatMap (inverseBlock true tag seed (fpMode s.grp f)))

/-- An FP32 element as an exact value, with flushing; none when it is not finite. -/
def finiteVal (md : Fp.Mode) (w : Nat) : Option Block.Dy :=
  let v := Fp.decodeFl Fp.f32 md.flush w
  if nonFinite v then none else some (Block.ofVal v)

/-- The forward rotation of one block, each result rounded to FP32 (R100, R232). -/
def forwardBlock (tag : Nat) (seed : DWord) (md : Fp.Mode) (vs : List (Option Block.Dy)) : Span :=
  if vs.any Option.isNone then vs.map (fun v => (Fp.f32.nanBits, if v.isNone then flagNV else 0))
  else (Block.rotate tag seed (vs.map (fun v => v.getD Block.Dy.zero))).map (Block.toFp Fp.f32 md)

/-- ROT or IROT over a span: BLK 0 copies the elements unchanged (R232). -/
def rotSpan (h : List (Option Block.Dy) → Span) (md : Fp.Mode) (tag : Nat) (ws : List Nat) : Span :=
  if tag % 4 = 0 then ws.map (fun w => (w, 0))
  else (Block.chunks (Block.blockSize tag) ws.length (ws.map (finiteVal md))).flatMap h

/-- ROT (R232). -/
def execRot (f : Fields) (s : State) : Out3 :=
  qntOp 2 Block.blockSize f s (fun tag seed ws => rotSpan (forwardBlock tag seed (fpMode s.grp f)) (fpMode s.grp f) tag ws)

/-- IROT (R232). -/
def execIrot (f : Fields) (s : State) : Out3 :=
  qntOp 3 Block.blockSize f s (fun tag seed ws => rotSpan (inverseBlock false tag seed (fpMode s.grp f)) (fpMode s.grp f) tag ws)

/-- SCALE (R233). Its A may be of any source class: check 1 of R229 is taken not to hold for it (log 122). -/
def execScale (f : Fields) (s : State) : Out3 :=
  runFp ⟨0x38, 4, 0⟩ f s (fun _ x => fpDst .i32 f x (Block.toE8m0 (Fp.decode Fp.f32 (srcVal s.grp .f32 x f.a))))

end Sys2Proof.Machine
end

