-- ==== Sys2Proof/Machine/Reliability.lean ====
section
/-! DEFINITION. Errors, scrub, drifts and self-test (R381 to R383), assay contexts: disagreements, snapshots, rollback (R384 to R388), kills (R389, R390), and fleet operation
(R395 to R402). Errors found, readings, temperatures and test verdicts are inputs (log 22, log 25). -/

namespace Sys2Proof.Machine

/-! Units (R392, R393) -/

/-- The type, die and index of a unit ID. -/
def unitType (u : BitVec 32) : Nat := u.toNat / 2 ^ 28
def unitDie (u : BitVec 32) : Nat := u.toNat / 2 ^ 24 % 16
def unitIx (u : BitVec 32) : Nat := u.toNat % 2 ^ 24

/-- A unit is quarantined and logged. The lent segments of a core are drained, a reserved L2 way loses its function store records, a replay engine its copies, and the driver is told of
an HBM frame (R49, R393, R394, log 116). -/
def State.takeOut (s : State) (u : BitVec 32) (tag : Nat) : State :=
  if s.mgmt.quarantine.contains u then s else
  let die := unitDie u
  let s1 := (s.quarantine u).logError die 4 u tag 0
  match unitType u with
  | 2 => { s1 with frecs := s1.frecs.filter (fun r => !(r.die == die && r.slice == unitIx u / 16 && r.way == unitIx u % 16)) }
  | 5 => if unitIx u / 4 = 0 then s1 else { s1 with out := s1.out ++ [.badFrame u] }
  | 6 => (s1.stopCopies die).dropObjCopies.failThin
  | k =>
    if k = 0 ∨ k = 8 then
      let core := 128 * die + unitIx u
      let s2 := s1.flushCore core
      { s2 with copies := s2.copies.filter (fun c => c.unit != core) }
    else s1

/-! Scrub and drifts (R381, R382) -/

/-- Bytes of the block that a code of a unit covers: 64 in HBM, 8 in the L2 (R382). -/
def codeBytes (u : BitVec 32) : Nat := if unitType u = 5 then 64 else 8

/-- PATROL_SCRUB (R381, R382): a correctable error is corrected and logged; an uncorrectable one poisons its block, whose unit is kept, and is logged. -/
def execPatrolScrub (unit : BitVec 32) (pa : Nat) (bad : Bool) (s : State) : Out3 :=
  let n := codeBytes unit
  let a := pa / n * n
  let s1 := s.logError (unitDie unit) (if bad then 2 else 1) unit 0 (BitVec.ofNat 64 a)
  .next (if bad then
      { s1 with poison := addPoison s1.poison a n, sources := s1.sources.filter (fun p => !(blocksOf a n).contains p.1) ++ (blocksOf a n).map (fun b => (b, unit)) }
    else s1)

/-- DRIFT_RESEND (R381): a corrupted message is sent again; after three failures its data is delivered poisoned. -/
def execDriftResend (r : Nat) (s : State) : Out3 :=
  .next (s.onReq r (fun q =>
    if q.isBuf || q.stage == .served then q
    else if q.resends < 3 then { q with resends := q.resends + 1 } else { q with poisoned := true }))

/-- Marks the dirty bytes of a core in the 8-byte block at `b` as poisoned; a byte of the block that is not dirty is left (R382). -/
def markDirty (m : Sparse (BitVec 16)) (b : Nat) : Sparse (BitVec 16) := m.map (fun p => if p.1 / 8 * 8 = b then (p.1, p.2 ||| 0x2000) else p)

/-- An uncorrectable error in a block of a core's L1: dirty bytes are poisoned, and a clean line is dropped, to be fetched again (R381). -/
def State.upsetL1 (s : State) (core pa : Nat) : State :=
  let b := pa / 8 * 8
  if (s.core core).dirty.any (fun p => p.1 / 8 * 8 == b) then s.onCore core (fun k => { k with dirty := markDirty k.dirty b })
  else { s with copies := s.copies.filter (fun c => !(c.unit == core && c.line == lineOf pa)) }

/-- A port whose link fails to retrain is held down (R381): a die port leaves its die's trained ports, and a die without one is absent (R373); a hub's port is quarantined (log 140). -/
def State.holdPort (s : State) (u : BitVec 32) : State :=
  if unitType u = 4 then
    let die := unitDie u
    let s1 := s.onPorts die (fun l => l.filter (fun p => p != unitIx u)) (fun l => sput 0x3F l (unitIx u) 0x3F)
    if (s1.readyPorts die).isEmpty then (s1.onDie die (fun d => { d with state := 0, links := [] })).failThin.publish else s1.publish
  else s.takeOut u 0

/-- An uncorrectable error is found and logged (R381, Table 2): data is poisoned where it stands (R382), a clean line is refetched, a store record is dropped (R136), an object's copy
resynchronizes (R154), and a control structure resets its die (R158). A 64-bit register code covers a pair of vector registers (log 139). -/
def execUpset (u : Upset) (s : State) : Out3 :=
  let mark (reg n : Nat) : Marked := { reg := reg, n := n, addr := 0, rsn := 0, rcause := 0, pc := 0 }
  let onOwner (gid : Nat) (t : State) : State :=
    match s.group gid with
    | some g => t.logError (s.dieOf g) 2 (coreUnit (s.unitOf g)) 0 0
    | none => t
  .next (match u with
    | .vector gid lane reg => onOwner gid (s.onLane gid lane (fun x => { x with marked := x.marked ++ [mark (reg / 2 * 2) 2] }))
    | .scalar gid reg => onOwner gid (s.onGroup gid (fun g => { g with markedS := g.markedS ++ [mark (0x600 + reg) 1] }))
    | .buffer tm region off =>
      let t := s.team tm
      (s.onTeam tm (fun x => { x with poison := addPoison x.poison (2 ^ 28 * region + off / 8 * 8) 8 })).logError t.die 2 (coreUnit (128 * t.die + t.core)) 0 0
    | .l1 core pa => (s.upsetL1 core pa).logError (core / 128) 2 (coreUnit core) 0 (BitVec.ofNat 64 pa)
    | .code core line =>
      let drop (l : List Nat) : List Nat := l.filter (fun x => x != line)
      (s.onCore core (fun k => { k with icache := drop k.icache, l0a := drop k.l0a, l0b := drop k.l0b })).logError (core / 128) 2 (coreUnit core) 0 (BitVec.ofNat 64 (128 * line))
    | .record die slice set key =>
      let hit (q : FRec) : Bool := q.inSet die slice set && q.key == key
      let s1 := (s.frecs.filter hit).foldl (fun t q => t.fbump die q.asid q.handle 7) { s with frecs := s.frecs.filter (fun q => !hit q) }
      s1.logError die 2 (unitId 2 die (16 * slice)) 0 0
    | .object die obj =>
      match s.objAt obj with
      | some o => (s.stopCopy die obj o.nextAgreed).logError die 8 (replayUnit die) 0 0
      | none => s
    | .control die => (s.logError die 2 (unitId 7 die 0) 0 0).resetDie die
    | .port p => (s.logError (unitDie p) 2 p 0 0).holdPort p)

/-! Self-test (R383, log 115) -/

/-- GTIME ticks of 200 ms. -/
def ticksPer200Ms : Nat := 200 * ticksPerMs

/-- The teams resident on a core. -/
def State.teamsOn (s : State) (core : Nat) : List Team := s.teams.filter (fun t => t.die == core / 128 && t.core == core % 128)

/-- SELF_TEST_DUE (R383): a core falls due once in every 200 ms, and no new team is placed on it; a core that holds a team of an assay context is not tested in turn. -/
def execSelfTestDue (core : Nat) (s : State) : Out3 :=
  let now := s.gtime (core / 128)
  .next (if (s.core core).testDue.isSome ∨ now < (s.core core).tested + ticksPer200Ms ∨ !s.coreKept (core / 128) (core % 128) ∨
        (s.teamsOn core).any (fun t => recAssay (s.gridOf t).record) then s
    else s.onCore core (fun c => { c with testDue := some now, tested := now }))

/-- A team that cannot be pre-empted for a test: its launch has PRIO 7, or a lane is FAULTED. -/
def State.mustStay (s : State) (t : Team) : Bool :=
  recPrio (s.gridOf t).record == 7 || (s.groupsOf t.uid).any (fun g => g.lanes.any (fun x => x.st == .faulted))

/-- SELF_TEST_PREEMPT (R383): 10 ms after the core fell due its teams are pre-empted, each with its cluster (R9), but for a cluster with a team that must stay; the test is then postponed
to the core's next turn, and that is logged. -/
def execSelfTestPreempt (core : Nat) (s : State) : Out3 :=
  .next (match (s.core core).testDue with
    | none => s
    | some t =>
      let ts := s.teamsOn core
      if s.gtime (core / 128) < t + ticksPer10Ms ∨ ts.isEmpty then s
      else
        let stays (c : Nat) : Bool := s.teams.any (fun x => x.cluster == c && s.mustStay x)
        let s1 := s.preemptTeams (fun x => ts.any (fun y => y.cluster == x.cluster) && !stays x.cluster)
        if ts.any (fun y => stays y.cluster) then (s1.onCore core (fun c => { c with testDue := none })).logError (core / 128) 6 (coreUnit core) 0 0 else s1)

/-- True when a unit's failure concerns a core: the core of a core or copy engine, the four of a matrix engine's quad, every core of the die, or of the module for a hub's port. -/
def concerns (u : BitVec 32) (core : Nat) : Bool :=
  let b := 128 * unitDie u
  match unitType u with
  | 0 => core == b + unitIx u
  | 8 => core == b + unitIx u
  | 1 => core / 4 == b / 4 + unitIx u
  | 9 => true
  | 10 => true
  | _ => core / 128 == unitDie u

/-- The launches that had a team on a core which a unit concerns since the unit's last passed test. -/
def State.ranOn (s : State) (u : BitVec 32) : List Nat :=
  let since := sget 0 s.mgmt.passed u.toNat
  ((s.cores.filter (fun p => concerns u p.1)).flatMap (fun p =>
    (p.2.ran.filter (fun r => decide (since ≤ r.2) || (s.teamsOn p.1).any (fun t => t.lid == r.1))).map (fun r => r.1))).dedup

/-- A failed test: the unit is quarantined, the requests that had a team on its cores since its last passed test are killed while they run, and the tags of those that have completed are
logged. -/
def State.testFailed (s : State) (u : BitVec 32) : State :=
  let s1 := (s.logError (unitDie u) 5 u 0 0).takeOut u 0
  let gs := (s.ranOn u).map s.grid
  let live (tag : Nat) : Bool := gs.any (fun g => g.rqtag == tag && g.state == 0)
  (gs.map (fun g => g.rqtag)).dedup.foldl (fun t tag => if live tag then t.purgeAll tag 4 u else t.logError (unitDie u) 5 u tag 0) s1

/-- SELF_TEST_DONE (R383, R388): a core's test ends 1 ms after it began, and that of another unit in its turn of the rotation. A core that faulted first in a request and fails its test
kills that request among those that ran there. -/
def execSelfTestDone (unit : BitVec 32) (passed : Bool) (s : State) : Out3 :=
  let core := 128 * unitDie unit + unitIx unit
  let now := s.gtime (unitDie unit)
  let done : Bool :=
    if unitType unit = 0 then ((s.core core).testAt.map (fun t => decide (t + ticksPerMs ≤ now))).getD false && (s.teamsOn core).isEmpty
    else decide (sget 0 s.mgmt.passed unit.toNat + ticksPer200Ms ≤ now) && !s.mgmt.quarantine.contains unit
  .next (if !done then s
    else
      let s1 := if unitType unit = 0 then s.onCore core (fun c => { c with testDue := none, testAt := none }) else s
      if passed then { s1 with mgmt := { s1.mgmt with passed := sput 0 s1.mgmt.passed unit.toNat now } } else s1.testFailed unit)

/-! Assay contexts (R384 to R388) -/

/-- A disagreement or a timeout: ASSAY in the lanes that the leading group's instruction at `pc` served, and nothing of that instruction or of a younger one leaves (R385). -/
def State.assayRaise (s : State) (uid : Nat) (lanes : QWord) (pc addr : DWord) : State :=
  let s1 := (s.dropUnsent (fun u => u == uid)).onGroup uid (fun y => { y with log := [], lvq := [], scb := [] })
  s1.faultHeld uid lanes { cause := .assay, addr := addr, from_ := some pc }

/-- 2 µs in core cycles. -/
def scbLimit : Nat := 2400

/-- SCB_TIMEOUT (R385): an entry is unmatched 2 µs after its instruction issued. -/
def execScbTimeout (g : Nat) (s : State) : Out3 :=
  .next (match (s.group g).bind (fun x => x.scb.find? (fun e => decide (e.at_ + scbLimit ≤ s.cycle))) with
    | some e => s.assayRaise g (BitVec.ofNat 128 (2 ^ e.lane)) e.pc e.addr
    | none => s)

/-- SNAPSHOT_TIMER (R386): 1 ms after its last snapshot a cluster is due for one. -/
def execSnapshotTimer (cluster : Nat) (s : State) : Out3 :=
  let due (c : Cluster) : Bool := c.uid == cluster && recAssay (s.grid c.lid).record && decide (c.snapAt + ticksPerMs ≤ s.gtime c.die)
  .next { s with clusters := updBy due (fun c => { c with snapDue := true }) s.clusters }

/-- The registers of a group in its 2 KiB: scalars, predicates, and the special registers of access RW (R386, Table 4). -/
def groupWords (a : Nat) (g : Group) : List (Nat × Nat) :=
  let sc := (List.range 64).map (fun i => (a + 8 * i, (g.scl i).toNat))
  let preds := (List.range 16).map (fun i => (a + 512 + 8 * i, ((List.range 4).map (fun j => ((g.lanes.getD (4 * i + j) default).preds).toNat * 2 ^ (16 * j))).sum))
  let fl := (List.range 64).map (fun l => (a + 640 + 8 * l, (g.lanes.getD l default).fflags.toNat))
  let sp : List Nat := [g.fmode.toNat, g.jointo.toNat, g.trapen.toNat, g.trapv.toNat, g.tpc.toNat] ++ (List.range 8).map (fun i => (sget 0 g.sseed i).toNat)
  sc ++ preds ++ fl ++ ((List.range sp.length).zip sp).map (fun p => (a + 1152 + 8 * p.1, p.2))

/-- The vector registers of a group, register by register and lane by lane. -/
def vectorWords (a : Nat) (g : Group) : List (Nat × Nat) :=
  (List.range g.vcount).flatMap (fun n => (List.range 32).map (fun j =>
    (a + 256 * n + 8 * j, ((g.lanes.getD (2 * j) default).reg n).toNat + ((g.lanes.getD (2 * j + 1) default).reg n).toNat * 2 ^ 32)))

/-- A buffer's bytes as words. -/
def bufferWords (a n : Nat) (m : Sparse Byte) : List (Nat × Nat) := (List.range (n / 8)).map (fun i => (a + 8 * i, rdBytes m (8 * i) 8))

/-- The held slots of rings, one word each: ring, slot, role, done mark, and the place of the group that holds it among the team's (R386, log 47). -/
def heldSlots (t : Team) (gs : List Group) : List Nat :=
  let word (ring : Nat) (r : Ring) (role : Nat) (w : Nat × Bool) : Nat :=
    ring + w.1 * 2 ^ 8 + role * 2 ^ 16 + (if w.2 then 2 ^ 17 else 0) + (gs.findIdx (fun g => g.uid == sget 0 r.owners w.1)) * 2 ^ 24
  ((List.range t.rings.length).zip t.rings).flatMap (fun p => p.2.writers.map (word p.1 p.2 0) ++ p.2.readers.map (word p.1 p.2 1))

/-- Where the parts of a snapshot slot stand: groups, vectors of one group and of all, buffers, the two barrier blocks, rings, held slots (R386, Table 4). -/
structure SlotMap where
  group : Nat
  vector : Nat
  vsize : Nat
  buffer : Nat
  core : Nat
  cluster : Nat
  ring : Nat
  held : Nat
  deriving DecidableEq, Repr, Inhabited

/-- The map of a team's slot. -/
def slotMap (t : Team) (gs : List Group) : SlotMap :=
  let ng := gs.length
  let v0 := 64 + 2048 * ng
  let vsize := 256 * ((gs.head?.map (fun g => g.vcount)).getD 0)
  let b0 := v0 + vsize * ng
  let core := b0 + t.asize + t.wsize + t.csize
  let cluster := core + barBytes 0
  let ring := if t.clrank = 0 then cluster + barBytes 1 else cluster
  { group := 64, vector := v0, vsize := vsize, buffer := b0, core := core, cluster := cluster, ring := ring, held := ring + 16 * t.rings.length }

/-- The words of a snapshot slot apart from its header (R386, Table 4, log 47). -/
def slotWords (t : Team) (gs : List Group) (cbars : List Bar) : List (Nat × Nat) :=
  let m := slotMap t gs
  let ng := gs.length
  let ix := (List.range ng).zip gs
  let shift (a : Nat) (l : List (Nat × Nat)) : List (Nat × Nat) := l.map (fun p => (a + p.1, p.2))
  let held := heldSlots t gs
  ix.flatMap (fun p => groupWords (m.group + 2048 * p.1) p.2) ++ ix.flatMap (fun p => vectorWords (m.vector + m.vsize * p.1) p.2)
    ++ bufferWords m.buffer t.asize t.abuf ++ bufferWords (m.buffer + t.asize) t.wsize t.wbuf ++ bufferWords (m.buffer + t.asize + t.wsize) t.csize t.cbuf
    ++ shift m.core (barWords 0 t ng t.bars) ++ (if t.clrank = 0 then shift m.cluster (barWords 1 t ng cbars) else [])
    ++ ((List.range t.rings.length).zip t.rings).flatMap (fun p => [(m.ring + 16 * p.1, p.2.word0.toNat), (m.ring + 16 * p.1 + 8, p.2.word1.toNat)])
    ++ (m.held, held.length) :: ((List.range held.length).zip held).map (fun p => (m.held + 8 + 8 * p.1, p.2))

/-- Where the slot of a number stands in a team's save area (R355, R386). -/
def State.slotBase (s : State) (t : Team) (odd : Bool) : Nat :=
  let d := (s.ctx (s.gridOf t).asid).desc
  let stride := bitsOf d 704 32
  bitsOf d 640 64 + t.teamlin * stride + (if odd then 0 else stride / 4)

/-- The groups of a team in the order of a slot. -/
def State.slotGroups (s : State) (t : Team) : List Group := (s.groupsOf t.uid).mergeSort (fun a b => decide (a.gid ≤ b.gid))

/-- A team writes its slot: the data, then the header with SEQ and VALID. -/
def State.writeSlot (s : State) (c : Cluster) (t : Team) : State :=
  let seq := (c.snapSeq + 1).toNat
  let base := s.slotBase t (seq % 2 == 1)
  let w := sysWho (s.gridOf t).asid t.die
  (s.sysPuts w 0 base (slotWords t (s.slotGroups t) c.bars)).sysPuts w 0 base [(0, seq + 2 ^ 32)]

/-- True while a lookup, an object call or another operation holds lanes of a group inside an instruction. -/
def State.owesAnswer (s : State) (u : Nat) : Bool :=
  s.lookups.any (fun l => l.gid == u) || s.calls.any (fun c => c.gid == u) || s.waiters.any (fun w => w.gid == u && w.kind != .snap)

/-- Every group of a cluster is at a boundary with its counters zero and its SCB empty, and nothing else of it is on its way (R386). -/
def State.quiet (s : State) (c : Nat) : Bool :=
  (s.teams.filter (fun t => t.cluster == c)).all (fun t => (s.groupsOf t.uid).all (fun g =>
    g.ops.isEmpty && g.scb.isEmpty && g.rels.isEmpty && !(s.reqs.any (fun r => r.gid == g.uid)) && !s.owesRop g.uid && !s.owesAnswer g.uid))

/-- The lanes held by SNAP leave. -/
def State.leaveSnaps (s : State) (c : Nat) : State :=
  let mine (w : Waiter) : Bool := w.kind == .snap && ((s.group w.gid).map (fun g => (s.team g.team).cluster)) == some c
  (s.waiters.filter mine).foldl State.leave s

/-- SNAPSHOT (R386): each team of the cluster writes its slot, and the lanes held by SNAP leave. -/
def execSnapshot (cluster : Nat) (s : State) : Out3 :=
  .next (match s.clusters.find? (fun c => c.uid == cluster) with
    | none => s
    | some c =>
      if !c.snapDue ∨ !s.quiet cluster then s
      else
        let s0 := s.leaveSnaps cluster
        let s1 := (s0.teams.filter (fun t => t.cluster == cluster)).foldl (fun u t => u.writeSlot c t) s0
        let taken (x : Cluster) : Cluster := { s0.keepSnap (x.snapSeq + 1) x with snapAt := s.gtime x.die, snapDue := false }
        { s1 with clusters := updBy (fun x => x.uid == cluster) taken s1.clusters })

/-- The ASSAY fault of a group of a cluster. -/
def State.assayFault (s : State) (c : Nat) : Option PFault :=
  s.faults.find? (fun f => f.cause == .assay && ((s.group f.gid).map (fun g => (s.team g.team).cluster)) == some c)

/-- What a cluster sent completes without it: its stores belong to no group any more, and its loads answer nobody (R87, R387). -/
def State.orphan (s0 : State) (u : Nat → Bool) : State :=
  let s := s0.dropUnsent u
  { s with
    reqs := (s.reqs.filter (fun r => !(u r.gid && (r.isBuf || r.acc == .load)))).map (fun r => if u r.gid then { r with gid := 0, op := 0 } else r) }

/-! What a slot gives back (R387) -/

/-- A group's scalars, predicates, special registers and vector registers as its part of a slot holds them; `rd` reads a word of the slot. -/
def slotGroup (rd : Nat → Nat) (a v : Nat) (g : Group) : Group :=
  let sp (i : Nat) : DWord := BitVec.ofNat 64 (rd (a + 1152 + 8 * i))
  let regs (l : Nat) : Sparse Word :=
    (List.range g.vcount).foldl (fun m n => sput 0 m n (BitVec.ofNat 32 (rd (v + 256 * n + 8 * (l / 2)) / 2 ^ (32 * (l % 2))))) []
  let lane (l : Nat) (x : Lane) : Lane :=
    { x with
      preds := BitVec.ofNat 16 (rd (a + 512 + 8 * (l / 4)) / 2 ^ (16 * (l % 4))) ||| 1, fflags := BitVec.ofNat 5 (rd (a + 640 + 8 * l)), v := regs l }
  { g with
    s := (List.range 64).foldl (fun m i => sput 0 m i (BitVec.ofNat 64 (rd (a + 8 * i)))) []
    lanes := mapLanes lane 0 g.lanes, fmode := sp 0, jointo := sp 1, trapen := sp 2, trapv := sp 3, tpc := sp 4
    sseed := (List.range 8).foldl (fun m i => sput 0 m i (sp (5 + i))) [] }

/-- The bytes of a buffer. -/
def slotBuffer (rd : Nat → Nat) (a n : Nat) : Sparse Byte := (List.range (n / 8)).foldl (fun m i => wrBytes m (8 * i) 8 (rd (a + 8 * i))) []

/-- The barriers of a save block, as BARRST rebuilds them (R287). -/
def slotBars (rd : Nat → Nat) (a kind n : Nat) : List Bar :=
  let masks (i : Nat) : Sparse QWord :=
    (List.range (keyCount kind)).foldl (fun m k => sput 0 m k (BitVec.ofNat 128 (rd (a + maskAt kind i k) + 2 ^ 64 * rd (a + maskAt kind i k + 8)))) []
  (List.range n).map (fun i => Bar.ofWord (rd (a + 64 + 8 * i)) (masks i))

/-- A ring object from its two words and the held slots of a slot. -/
def slotRing (held : List Nat) (gs : List Group) (i w0 w1 : Nat) (r : Ring) : Ring :=
  let mine := held.filter (fun x => x % 2 ^ 8 == i)
  let role (k : Nat) : List (Nat × Bool) := (mine.filter (fun x => x / 2 ^ 16 % 2 == k)).map (fun x => (x / 2 ^ 8 % 2 ^ 8, x / 2 ^ 17 % 2 == 1))
  { r.ofWords (BitVec.ofNat 64 w0) (BitVec.ofNat 64 w1) with
    writers := role 0, readers := role 1,
    owners := mine.foldl (fun m x => sput 0 m (x / 2 ^ 8 % 2 ^ 8) (((gs[x / 2 ^ 24]?).map (fun g => g.uid)).getD 0)) [] }

/-- A team with its groups as a slot holds them; what Table 4 does not list is as it was at that snapshot (log 47). -/
def slotTeam (rd : Nat → Nat) (t : Team) (gs : List Group) : Team × List Group :=
  let m := slotMap t gs
  let held := (List.range (rd m.held)).map (fun k => rd (m.held + 8 + 8 * k))
  ({ t with
      abuf := slotBuffer rd m.buffer t.asize, wbuf := slotBuffer rd (m.buffer + t.asize) t.wsize, cbuf := slotBuffer rd (m.buffer + t.asize + t.wsize) t.csize
      bars := slotBars rd m.core 0 t.bars.length
      rings := ((List.range t.rings.length).zip t.rings).map (fun p => slotRing held gs p.1 (rd (m.ring + 16 * p.1)) (rd (m.ring + 16 * p.1 + 8)) p.2) },
    ((List.range gs.length).zip gs).map (fun p => slotGroup rd (m.group + 2048 * p.1) (m.vector + m.vsize * p.1) p.2))

/-- SEQ of the newest whole slot of a team: the highest whose VALID is 1 (R387). -/
def State.newestSlot (s : State) (t : Team) : Option Nat :=
  let w := sysWho (s.gridOf t).asid t.die
  let heads := [true, false].map (fun odd => s.sysGet w (s.slotBase t odd))
  ((heads.filter (fun h => h / 2 ^ 32 % 2 == 1)).map (fun h => h % 2 ^ 32)).foldl (fun m n => some (max n (m.getD 0))) none

/-- The header of a slot of some team of a cluster waits for its translation. -/
def State.slotsUnread (s : State) (c : Cluster) : Bool :=
  (s.teams.filter (fun t => t.cluster == c.uid)).any (fun t => [true, false].any (fun odd => s.reach (sysWho (s.gridOf t).asid t.die) .load (s.slotBase t odd) == .awaited))

/-- What stands behind a slot, or the start of the cluster where no slot is whole. -/
def Cluster.snapOf (c : Cluster) (seq : Option Nat) : Snap :=
  ((seq.bind (fun n => c.snaps.find? (fun x => x.seq.toNat == n))).orElse (fun _ => c.snaps.getLast?)).getD default

/-- A team of a cluster as it is restored from its newest slot, to be placed away from a core. -/
def State.fromSlot (s : State) (core : Nat) (c : Cluster) (t : Team) : Parked :=
  let seq := s.newestSlot t
  let k := c.snapOf seq
  let t0 := (k.teams.find? (fun x => x.uid == t.uid)).getD t
  let gs := (k.groups.filter (fun g => g.team == t.uid)).mergeSort (fun a b => decide (a.gid ≤ b.gid))
  let w := sysWho (s.gridOf t).asid t.die
  let rd (a : Nat) : Nat := s.sysGet w (s.slotBase t ((seq.getD 0) % 2 == 1) + a)
  let x := if seq.isSome then slotTeam rd t0 gs else (t0, gs)
  { team := x.1, groups := x.2.map (fun g => { g with log := [], lvq := [], scb := [] }), monitors := k.monitors.filter (fun m => gs.any (fun g => g.uid == m.gid)), woken := false, snap := true, avoid := some core }

/-- The cluster barriers as the slot of the team of rank 0 holds them. -/
def State.slotClusterBars (s : State) (c : Cluster) : List Bar :=
  match s.teams.find? (fun t => t.cluster == c.uid && t.clrank == 0) with
  | none => c.bars
  | some t =>
    match s.newestSlot t with
    | none => (c.snapOf none).bars
    | some seq => slotBars (fun a => s.sysGet (sysWho (s.gridOf t).asid t.die) (s.slotBase t (seq % 2 == 1) + a)) (slotMap t (s.slotGroups t)).cluster 1 16

/-- A cluster is rolled back: its teams go, to be placed again as their newest slots hold them, away from a core, which is tested at once; that is the request's first fault (R387,
R390). -/
def State.rollBack (s : State) (core : Nat) (unit : BitVec 32) (c : Cluster) : State :=
  let gs := s.allGroups.filter (fun x => x.uid != 0 && x.method.isNone && (s.team x.team).cluster == c.uid)
  let back := (s.teams.filter (fun t => t.cluster == c.uid)).map (s.fromSlot core c)
  let s1 := (s.orphan (fun u => gs.any (fun x => x.uid == u))).removeTeams (fun t => t.cluster == c.uid)
  let s2 := { s1 with parked := s1.parked ++ back, clusters := s1.clusters ++ [{ c with bars := s.slotClusterBars c, snapDue := false }] }
  let s3 := s2.onCore core (fun k => { k with testDue := some (s.gtime c.die) })
  (s3.onGrid c.lid (fun g => { g with rollbacks := 1 })).logError c.die 7 unit (s.grid c.lid).rqtag 0

/-- A request has had its first ASSAY fault, in whichever of its launches (R388). -/
def State.rolled (s : State) (tag : Nat) : Bool := s.grids.any (fun g => g.rqtag == tag && g.rollbacks != 0)

/-- ROLLBACK (R387, R388): a first ASSAY fault of a request rolls its cluster back. It waits while a fault record's slot or a snapshot slot is awaited. -/
def execRollback (cluster : Nat) (s : State) : Out3 :=
  .next (match s.clusters.find? (fun c => c.uid == cluster), s.assayFault cluster with
    | some c, some f =>
      if s.rolled f.rqtag ∨ (s.grid c.lid).state ≠ 0 ∨ s.slotsUnread c ∨ s.slotsAwaited (fun x => ((s.group x.gid).map (fun g => (s.team g.team).cluster)) == some cluster) then s
      else (s.recordFault f.id).rollBack (128 * unitDie f.unit + unitIx f.unit) f.unit c
    | _, _ => s)

/-- The clusters of an assay request that an uncorrectable error in what their teams own on a core rolls back, as the request's first fault: those in which its poison was consumed
(R390). -/
def State.rollable (s : State) (tag : Nat) (u : BitVec 32) : List Cluster :=
  if unitType u ≠ 0 ∨ s.rolled tag = true then [] else
  s.clusters.filter (fun c =>
    let g := s.grid c.lid
    g.rqtag == tag && recAssay g.record && g.state == 0 &&
      s.faults.any (fun f => f.cause == .poison && f.unit == u && ((s.group f.gid).map (fun x => (s.team x.team).cluster)) == some c.uid))

/-- KILL (R382, R388 to R390): a request is killed: its tag is purged on every die, the unit is quarantined, and STATE 4 names it. An uncorrectable error of a core under a cluster of
an assay request that has had no fault rolls the cluster back instead (R390, log 79). It waits while the slot of a fault's record is awaited (R360). -/
def execKill (rqtag : Nat) (unit : BitVec 32) (s : State) : Out3 :=
  let hit (f : PFault) : Bool := f.rqtag == rqtag
  let cs := s.rollable rqtag unit
  if s.slotsAwaited hit ∨ cs.any s.slotsUnread then .next s else
  let s1 := s.recordFaults hit
  let s2 := if s.faults.any (fun f => hit f && f.cause == .poison) then s1.logError (unitDie unit) 3 unit rqtag 0 else s1
  match cs with
  | [] => .next ((s2.takeOut unit rqtag).purgeAll rqtag 4 unit)
  | cs => .next (cs.foldl (fun t c => t.rollBack (128 * unitDie unit + unitIx unit) unit c) s2)

/-- The storage unit of a POISON fault: that of the block, or the core whose buffers or registers held the value (R382, log 22). -/
def State.failedUnit (s : State) (f : PFault) : BitVec 32 :=
  match s.reach (sysWho f.asid f.die) .load f.addr.toNat with
  | .page e => ((s.sources.find? (fun p => p.1 == e.phys f.addr.toNat / 8 * 8)).map (fun p => p.2)).getD f.unit
  | _ => f.unit

/-! Telemetry and logs (R396, R397) -/

/-- What a die reports in aggregate: its eight function store counters (R143) over every context and routine, its `PFDROP` total and its log loss count (R396). -/
def State.dieCounts (s : State) (die : Nat) : List Nat :=
  (List.range 8).map (fun i => ((s.fcnt.filter (fun p => p.1.1 == die && p.1.2.2.2 == i)).map (fun p => p.2.toNat)).sum) ++
    [((s.cores.filter (fun p => p.1 / 128 == die)).map (fun p => p.2.pfdrop.toNat)).sum, (s.die die).lost]

/-- The nominal core clock, the lowest, and a step, in MHz (R2, R398). -/
def clockTop : Nat := 1200
def clockLow : Nat := 600
def clockStep : Nat := 100

/-- The clock of an island. -/
def State.clock (s : State) (i : Nat) : Nat := sget clockTop s.mgmt.clocks i

/-- PLDM_TELEMETRY_READ (R396): the readings of an island as last refreshed with its clock step, and the counts of its die (log 25). -/
def execPldmTelemetryRead (island : Nat) (s : State) : Out3 :=
  .next { s with out := s.out ++ [.telemetry island (sget 0 s.mgmt.readings island) (s.clock island) (s.dieCounts island)] }

/-- TELEMETRY_REFRESH (R396): every 1 ms of its die's clock an island's readings are taken. -/
def execTelemetryRefresh (readings : List (Nat × BitVec 64)) (s : State) : Out3 :=
  let take (m : Mgmt) (p : Nat × BitVec 64) : Mgmt :=
    let now := s.gtime p.1
    if sget 0 m.readAt p.1 + ticksPerMs ≤ now then { m with readings := sput 0 m.readings p.1 p.2, readAt := sput 0 m.readAt p.1 now } else m
  .next { s with mgmt := readings.foldl take s.mgmt }

/-- ERROR_LOG_READ (R397): an entry is read and stays. -/
def execErrorLogRead (die ix : Nat) (s : State) : Out3 :=
  .next (match (s.die die).log[ix]? with
    | some e => { s with out := s.out ++ [.errlog die ix e] }
    | none => s)

/-! Power and heat (R398, R399) -/

/-- Islands of the module: one for each compute die (log 25). -/
def islands : List Nat := List.range 16

/-- Sets an island's clock; a change is logged as KIND 10. -/
def State.setClock (s : State) (i mhz : Nat) : State :=
  if s.clock i = mhz then s
  else ({ s with mgmt := { s.mgmt with clocks := sput clockTop s.mgmt.clocks i mhz } }).logError i 10 (unitId 7 i 0) 0 0

/-- One step down, not below 600 MHz, or up, not above nominal. -/
def State.slower (s : State) (i : Nat) : State := s.setClock i (max clockLow (s.clock i - clockStep))
def State.faster (s : State) (i : Nat) : State := s.setClock i (min clockTop (s.clock i + clockStep))

/-- An island held back by heat. -/
def State.isHot (s : State) (i : Nat) : Bool := sget 0 s.mgmt.hotSince i != 0

/-- An island that may step up: not hot, and below 95 % of its current limit as last reported (R398, R399). -/
def State.mayRise (s : State) (i : Nat) : Bool := !s.isHot i && decide (sget 0 s.mgmt.amps i < 95)

/-- SET_POWER_CAP (R398): 6 kW to 15 kW in steps of 100 W, from the next window on. -/
def execSetPowerCap (watts : Nat) (s : State) : Out3 :=
  .next (if 6000 ≤ watts ∧ watts ≤ 15000 ∧ watts % 100 = 0 then { s with mgmt := { s.mgmt with capNext := watts } } else s)

/-- POWER_WINDOW (R398): a window of 1 ms ends with an average of `mw` milliwatts: over the cap every island steps down, below 95 % of it each that neither heat nor current holds
back steps up; then a new cap applies. -/
def execPowerWindow (mw : Nat) (s : State) : Out3 :=
  let cap := 1000 * s.mgmt.cap
  let s1 := if cap < mw then islands.foldl State.slower s
    else if 100 * mw < 95 * cap then islands.foldl (fun t i => if t.mayRise i then t.faster i else t) s
    else s
  .next (if s.mgmt.windowAt + ticksPerMs ≤ s.refTime then { s1 with mgmt := { s1.mgmt with cap := s.mgmt.capNext, windowAt := s.refTime } } else s)

/-- CURRENT_LIMIT (R398): an island's current is reported; over 100 A the island steps down, and from 95 A on it does not step up. -/
def execCurrentLimit (island amps : Nat) (s : State) : Out3 :=
  .next (if 16 ≤ island then s
    else
      let s1 := { s with mgmt := { s.mgmt with amps := sput 0 s.mgmt.amps island amps } }
      if 100 < amps then s1.slower island else s1)

/-- True when a hot island's next step down is due, or an island is not hot yet (R399). -/
def State.heatDue (s : State) (i : Nat) : Bool := !s.isHot i || decide (sget 0 s.mgmt.hotSince i + ticksPer100Us ≤ s.refTime + 1)

/-- THERMAL_STEP (R399): from 100 °C on an island steps down once every 100 µs until it is below 95 °C. -/
def execThermalStep (island temp : Nat) (s : State) : Out3 :=
  .next (if 16 ≤ island then s
    else if temp < 95 then { s with mgmt := { s.mgmt with hotSince := sput 0 s.mgmt.hotSince island 0 } }
    else if (100 ≤ temp ∨ s.isHot island) ∧ s.heatDue island then
      let s1 := s.slower island
      { s1 with mgmt := { s1.mgmt with hotSince := sput 0 s1.mgmt.hotSince island (s.refTime + 1) } }
    else s)

/-- THERMAL_TRIP (R399): at 110 °C the die stops, logs KIND 9, and is reset. -/
def execThermalTrip (die temp : Nat) (s : State) : Out3 :=
  .next (if 110 ≤ temp ∧ die < 16 then (s.logError die 9 (unitId 7 die 0) 0 0).resetDie die else s)

/-! Firmware, tracing, restoring (R400 to R402) -/

/-- FIRMWARE_UPDATE (R400): the update of the inactive slot begins; one at a time. -/
def execFirmwareUpdate (img : Signed) (s : State) : Out3 := .next (if s.hub.update.isSome then s else { s with hub := { s.hub with update := some img } })

/-- The update ends: the inactive slot holds the image, which is accepted, to run from the next reset, when it passes (R367, R400). -/
def endUpdate (s : State) : Out3 :=
  .next (match s.hub.update with
    | none => s
    | some img =>
      let h := { s.hub with update := none, fresh := s.hub.accepts (some img) }
      { s with hub := if h.runsB then { h with fwA := some img } else { h with fwB := some img } })

/-- SECURITY_VERSION_COMMIT (R400): after a successful boot the fused counters rise to the running images' versions. -/
def execSecurityVersionCommit (s : State) : Out3 :=
  let up (v : BitVec 32) (i : Option Signed) : BitVec 32 := match i with | some x => if v.toNat < (imageVersion x).toNat then imageVersion x else v | none => v
  .next (if s.hub.stage ≠ 6 then s
    else
      { s with
        hub := { s.hub with secver := up s.hub.secver s.hub.running }
        dies := s.dies.map (fun d => { d with secver := up d.secver d.verified }), outer := s.outer.map (fun o => { o with secver := up o.secver o.verified }) })

/-- TRACE_ENABLE (R401). -/
def execTraceEnable (core : Nat) (va : BitVec 64) (len : Nat) (s : State) : Out3 := .next (s.onCore core (fun c => { c with trace := some (va, len, 0) }))

/-- The units a RESTORE returns to service: those of Table 2 that a self-test, a patrol pass or link retraining restores (R402). -/
def restorable (u : BitVec 32) : Bool :=
  match unitType u with
  | 3 => false
  | 4 => false
  | 5 => unitIx u / 4 != 0
  | 7 => false
  | t => decide (t < 11)

/-- A unit that nothing uses: no team on a core or its copy engine, no task on a matrix engine. -/
def State.unitIdle (s : State) (u : BitVec 32) : Bool :=
  let b := 128 * unitDie u
  match unitType u with
  | 0 => (s.teamsOn (b + unitIx u)).isEmpty
  | 8 => (s.teamsOn (b + unitIx u)).isEmpty
  | 1 => !(s.tasks.any (fun t => t.quad == b / 4 + unitIx u))
  | _ => true

/-- RESTORE (R402): the test of a quarantined unit begins, whose verdict will be `passed` unless a fault is logged against the unit while it runs. -/
def execRestore (unit : BitVec 32) (passed : Bool) (s : State) : Out3 :=
  .next (if !s.mgmt.quarantine.contains unit ∨ !restorable unit ∨ s.mgmt.restoring.any (fun r => r.unit == unit) then s
    else { s with mgmt := { s.mgmt with restoring := s.mgmt.restoring ++ [{ unit := unit, at_ := s.gtime (unitDie unit), passed := passed }] } })

/-- A RESTORE's test ends, 1 ms after the unit was idle (R383, R402): the unit returns to service, or stays out; a restored replay engine first loads a majority copy. -/
def endRestore (unit : BitVec 32) (s : State) : Out3 :=
  .next (match s.mgmt.restoring.find? (fun r => r.unit == unit) with
    | none => s
    | some r =>
      if !s.unitIdle unit ∨ s.gtime (unitDie unit) < r.at_ + ticksPerMs then s
      else
        let s1 := { s with mgmt := { s.mgmt with restoring := s.mgmt.restoring.filter (fun x => x.unit != unit) } }
        if r.passed then
          let s2 := ({ s1 with mgmt := { s1.mgmt with quarantine := s1.mgmt.quarantine.filter (fun u => u != unit) } }).logError (unitDie unit) 11 unit 0 0
          if unitType unit = 6 then s2.stopCopies (unitDie unit) else s2
        else s1.logError (unitDie unit) 12 unit 0 0)

/-- Tests begin when their units are idle: a core that is due and holds no team, and a unit that a RESTORE names (R383, R402). -/
def State.beginTests (s : State) : State :=
  let begins (p : Nat × Core) : Bool := p.2.testDue.isSome && p.2.testAt.isNone && (s.teamsOn p.1).isEmpty
  { s with
    cores := updBy begins (fun p => (p.1, { p.2 with testAt := some (s.gtime (p.1 / 128)) })) s.cores
    mgmt := { s.mgmt with restoring := s.mgmt.restoring.map (fun r => if s.unitIdle r.unit then r else { r with at_ := s.gtime (unitDie r.unit) }) } }

end Sys2Proof.Machine
end

