-- ==== Sys2Proof/Machine/Dispatch.lean ====
section
/-! DEFINITION. Every instruction of the opcode table with its meaning. -/

namespace Sys2Proof.Machine

/-- What an instruction, or a step of another agent, does (R179, R183). -/
def exec (i : Instr) (s : State) : Host.Outcome State Fault Refusal :=
  match i with
  | .nop f => Sys2Proof.Machine.execNop f s
  | .bra f => Sys2Proof.Machine.execBra f s
  | .braX f => Sys2Proof.Machine.execBraX f s
  | .call f => Sys2Proof.Machine.execCall f s
  | .callX f => Sys2Proof.Machine.execCallX f s
  | .jmpr f => Sys2Proof.Machine.execJmpr f s
  | .callr f => Sys2Proof.Machine.execCallr f s
  | .ret f => Sys2Proof.Machine.execRet f s
  | .btab f => Sys2Proof.Machine.execBtab f s
  | .tgt f => Sys2Proof.Machine.execTgt f s
  | .join f => Sys2Proof.Machine.execJoin f s
  | .joinX f => Sys2Proof.Machine.execJoinX f s
  | .joinTimeout g pc => Sys2Proof.Machine.execJoinTimeout g pc s
  | .exit f => Sys2Proof.Machine.execExit f s
  | .trap f => Sys2Proof.Machine.execTrap f s
  | .rett f => Sys2Proof.Machine.execRett f s
  | .sleep f => Sys2Proof.Machine.execSleep f s
  | .bkpt f => Sys2Proof.Machine.execBkpt f s
  | .timedExpiry g lane => Sys2Proof.Machine.execTimedExpiry g lane s
  | .iadd f => Sys2Proof.Machine.execIadd f s
  | .isub f => Sys2Proof.Machine.execIsub f s
  | .iaddc f => Sys2Proof.Machine.execIaddc f s
  | .isubb f => Sys2Proof.Machine.execIsubb f s
  | .imin f => Sys2Proof.Machine.execImin f s
  | .imax f => Sys2Proof.Machine.execImax f s
  | .umin f => Sys2Proof.Machine.execUmin f s
  | .umax f => Sys2Proof.Machine.execUmax f s
  | .iadds f => Sys2Proof.Machine.execIadds f s
  | .isubs f => Sys2Proof.Machine.execIsubs f s
  | .uadds f => Sys2Proof.Machine.execUadds f s
  | .usubs f => Sys2Proof.Machine.execUsubs f s
  | .iabs f => Sys2Proof.Machine.execIabs f s
  | .imul f => Sys2Proof.Machine.execImul f s
  | .imulh f => Sys2Proof.Machine.execImulh f s
  | .umulh f => Sys2Proof.Machine.execUmulh f s
  | .imad f => Sys2Proof.Machine.execImad f s
  | .idiv f => Sys2Proof.Machine.execIdiv f s
  | .udiv f => Sys2Proof.Machine.execUdiv f s
  | .irem f => Sys2Proof.Machine.execIrem f s
  | .urem f => Sys2Proof.Machine.execUrem f s
  | .and f => Sys2Proof.Machine.execAnd f s
  | .or f => Sys2Proof.Machine.execOr f s
  | .xor f => Sys2Proof.Machine.execXor f s
  | .andn f => Sys2Proof.Machine.execAndn f s
  | .orn f => Sys2Proof.Machine.execOrn f s
  | .xnor f => Sys2Proof.Machine.execXnor f s
  | .not f => Sys2Proof.Machine.execNot f s
  | .mov f => Sys2Proof.Machine.execMov f s
  | .lop3 f => Sys2Proof.Machine.execLop3 f s
  | .shl f => Sys2Proof.Machine.execShl f s
  | .shr f => Sys2Proof.Machine.execShr f s
  | .sar f => Sys2Proof.Machine.execSar f s
  | .rol f => Sys2Proof.Machine.execRol f s
  | .ror f => Sys2Proof.Machine.execRor f s
  | .brev f => Sys2Proof.Machine.execBrev f s
  | .popc f => Sys2Proof.Machine.execPopc f s
  | .clz f => Sys2Proof.Machine.execClz f s
  | .ctz f => Sys2Proof.Machine.execCtz f s
  | .bfe f => Sys2Proof.Machine.execBfe f s
  | .bfes f => Sys2Proof.Machine.execBfes f s
  | .bfi f => Sys2Proof.Machine.execBfi f s
  | .lea1 f => Sys2Proof.Machine.execLea1 f s
  | .lea2 f => Sys2Proof.Machine.execLea2 f s
  | .lea3 f => Sys2Proof.Machine.execLea3 f s
  | .prmt f => Sys2Proof.Machine.execPrmt f s
  | .icmp op f => Sys2Proof.Machine.execIcmp op f s
  | .sel f => Sys2Proof.Machine.execSel f s
  | .pand f => Sys2Proof.Machine.execPand f s
  | .por f => Sys2Proof.Machine.execPor f s
  | .pxor f => Sys2Proof.Machine.execPxor f s
  | .pandn f => Sys2Proof.Machine.execPandn f s
  | .pset f => Sys2Proof.Machine.execPset f s
  | .p2v f => Sys2Proof.Machine.execP2v f s
  | .v2p f => Sys2Proof.Machine.execV2p f s
  | .iadd64 f => Sys2Proof.Machine.execIadd64 f s
  | .isub64 f => Sys2Proof.Machine.execIsub64 f s
  | .shl64 f => Sys2Proof.Machine.execShl64 f s
  | .shr64 f => Sys2Proof.Machine.execShr64 f s
  | .sar64 f => Sys2Proof.Machine.execSar64 f s
  | .imulw f => Sys2Proof.Machine.execImulw f s
  | .umulw f => Sys2Proof.Machine.execUmulw f s
  | .mov64 f => Sys2Proof.Machine.execMov64 f s
  | .sadd f => Sys2Proof.Machine.execSadd f s
  | .ssub f => Sys2Proof.Machine.execSsub f s
  | .smul f => Sys2Proof.Machine.execSmul f s
  | .sand f => Sys2Proof.Machine.execSand f s
  | .sor f => Sys2Proof.Machine.execSor f s
  | .sxor f => Sys2Proof.Machine.execSxor f s
  | .sshl f => Sys2Proof.Machine.execSshl f s
  | .sshr f => Sys2Proof.Machine.execSshr f s
  | .ssar f => Sys2Proof.Machine.execSsar f s
  | .smin f => Sys2Proof.Machine.execSmin f s
  | .smax f => Sys2Proof.Machine.execSmax f s
  | .sminu f => Sys2Proof.Machine.execSminu f s
  | .smaxu f => Sys2Proof.Machine.execSmaxu f s
  | .smov f => Sys2Proof.Machine.execSmov f s
  | .v2s f => Sys2Proof.Machine.execV2s f s
  | .s2v f => Sys2Proof.Machine.execS2v f s
  | .scmp op f => Sys2Proof.Machine.execScmp op f s
  | .gets f => Sys2Proof.Machine.execGets f s
  | .sets f => Sys2Proof.Machine.execSets f s
  | .movi f => Sys2Proof.Machine.execMovi f s
  | .smovi f => Sys2Proof.Machine.execSmovi f s
  | .iaddi f => Sys2Proof.Machine.execIaddi f s
  | .saddi f => Sys2Proof.Machine.execSaddi f s
  | .rget f => Sys2Proof.Machine.execRget f s
  | .rset f => Sys2Proof.Machine.execRset f s
  | .fadd f => Sys2Proof.Machine.execFadd f s
  | .fsub f => Sys2Proof.Machine.execFsub f s
  | .fmul f => Sys2Proof.Machine.execFmul f s
  | .ffma f => Sys2Proof.Machine.execFfma f s
  | .fmin f => Sys2Proof.Machine.execFmin f s
  | .fmax f => Sys2Proof.Machine.execFmax f s
  | .fminm f => Sys2Proof.Machine.execFminm f s
  | .fmaxm f => Sys2Proof.Machine.execFmaxm f s
  | .fabs f => Sys2Proof.Machine.execFabs f s
  | .fneg f => Sys2Proof.Machine.execFneg f s
  | .frnd f => Sys2Proof.Machine.execFrnd f s
  | .ffrac f => Sys2Proof.Machine.execFfrac f s
  | .fclass f => Sys2Proof.Machine.execFclass f s
  | .fgetexp f => Sys2Proof.Machine.execFgetexp f s
  | .fscale f => Sys2Proof.Machine.execFscale f s
  | .fcopysign f => Sys2Proof.Machine.execFcopysign f s
  | .frcp f => Sys2Proof.Machine.execFrcp f s
  | .frsq f => Sys2Proof.Machine.execFrsq f s
  | .fsqrt f => Sys2Proof.Machine.execFsqrt f s
  | .fexp2 f => Sys2Proof.Machine.execFexp2 f s
  | .flog2 f => Sys2Proof.Machine.execFlog2 f s
  | .fsin f => Sys2Proof.Machine.execFsin f s
  | .fcos f => Sys2Proof.Machine.execFcos f s
  | .ftanh f => Sys2Proof.Machine.execFtanh f s
  | .fcmp op f => Sys2Proof.Machine.execFcmp op f s
  | .fdiv f => Sys2Proof.Machine.execFdiv f s
  | .hadd2 f => Sys2Proof.Machine.execHadd2 f s
  | .hmul2 f => Sys2Proof.Machine.execHmul2 f s
  | .hfma2 f => Sys2Proof.Machine.execHfma2 f s
  | .badd2 f => Sys2Proof.Machine.execBadd2 f s
  | .bmul2 f => Sys2Proof.Machine.execBmul2 f s
  | .bfma2 f => Sys2Proof.Machine.execBfma2 f s
  | .dot4i f => Sys2Proof.Machine.execDot4i f s
  | .dot4u f => Sys2Proof.Machine.execDot4u f s
  | .dot2b f => Sys2Proof.Machine.execDot2b f s
  | .dot2h f => Sys2Proof.Machine.execDot2h f s
  | .cvt op f => Sys2Proof.Machine.execCvt op f s
  | .shflIdx f => Sys2Proof.Machine.execShflIdx f s
  | .shflUp f => Sys2Proof.Machine.execShflUp f s
  | .shflDown f => Sys2Proof.Machine.execShflDown f s
  | .shflXor f => Sys2Proof.Machine.execShflXor f s
  | .shflUpw f => Sys2Proof.Machine.execShflUpw f s
  | .shflDownw f => Sys2Proof.Machine.execShflDownw f s
  | .shflXorw f => Sys2Proof.Machine.execShflXorw f s
  | .shflRotw f => Sys2Proof.Machine.execShflRotw f s
  | .voteAll f => Sys2Proof.Machine.execVoteAll f s
  | .voteAny f => Sys2Proof.Machine.execVoteAny f s
  | .voteBallot f => Sys2Proof.Machine.execVoteBallot f s
  | .voteElect f => Sys2Proof.Machine.execVoteElect f s
  | .voteMatch f => Sys2Proof.Machine.execVoteMatch f s
  | .votePopa f => Sys2Proof.Machine.execVotePopa f s
  | .voteLmask f => Sys2Proof.Machine.execVoteLmask f s
  | .voteActm f => Sys2Proof.Machine.execVoteActm f s
  | .rdx op f => Sys2Proof.Machine.execRdx op f s
  | .rstep op f => Sys2Proof.Machine.execRstep op f s
  | .scan op f => Sys2Proof.Machine.execScan op f s
  | .putl f => Sys2Proof.Machine.execPutl f s
  | .qnt f => Sys2Proof.Machine.execQnt f s
  | .deq f => Sys2Proof.Machine.execDeq f s
  | .rot f => Sys2Proof.Machine.execRot f s
  | .irot f => Sys2Proof.Machine.execIrot f s
  | .scale f => Sys2Proof.Machine.execScale f s
  | .dual gd x y => Sys2Proof.Machine.execDual gd x y s
  | .ldg op f => Sys2Proof.Machine.execLdg op f s
  | .stg op f => Sys2Proof.Machine.execStg op f s
  | .ldb op f => Sys2Proof.Machine.execLdb op f s
  | .stb op f => Sys2Proof.Machine.execStb op f s
  | .atom op f => Sys2Proof.Machine.execAtom op f s
  | .atomCas f => Sys2Proof.Machine.execAtomCas f s
  | .atomb op f => Sys2Proof.Machine.execAtomb op f s
  | .atombCas f => Sys2Proof.Machine.execAtombCas f s
  | .comm op f => Sys2Proof.Machine.execComm op f s
  | .wait f => Sys2Proof.Machine.execWait f s
  | .fenceRel f => Sys2Proof.Machine.execFenceRel f s
  | .fenceAcq f => Sys2Proof.Machine.execFenceAcq f s
  | .fenceFull f => Sys2Proof.Machine.execFenceFull f s
  | .fencePromote f => Sys2Proof.Machine.execFencePromote f s
  | .fenceCflush f => Sys2Proof.Machine.execFenceCflush f s
  | .barArrive f => Sys2Proof.Machine.execBarArrive f s
  | .barWait f => Sys2Proof.Machine.execBarWait f s
  | .barSync f => Sys2Proof.Machine.execBarSync f s
  | .barInit f => Sys2Proof.Machine.execBarInit f s
  | .barExpect f => Sys2Proof.Machine.execBarExpect f s
  | .barTest f => Sys2Proof.Machine.execBarTest f s
  | .ringAcq f => Sys2Proof.Machine.execRingAcq f s
  | .ringRel f => Sys2Proof.Machine.execRingRel f s
  | .ringPut f => Sys2Proof.Machine.execRingPut f s
  | .ringPub f => Sys2Proof.Machine.execRingPub f s
  | .ringInit f => Sys2Proof.Machine.execRingInit f s
  | .ringStat f => Sys2Proof.Machine.execRingStat f s
  | .ringWaiterWake team ring writer => Sys2Proof.Machine.execRingWaiterWake team ring writer s
  | .waitc op f => Sys2Proof.Machine.execWaitc op f s
  | .monitorWake m => Sys2Proof.Machine.execMonitorWake m s
  | .monitorRecheck m => Sys2Proof.Machine.execMonitorRecheck m s
  | .hostMonitorPoll m seen => Sys2Proof.Machine.execHostMonitorPoll m seen s
  | .copy f => Sys2Proof.Machine.execCopy f s
  | .tileMma f => Sys2Proof.Machine.execTileMma f s
  | .tileMmaz f => Sys2Proof.Machine.execTileMmaz f s
  | .tileQout f => Sys2Proof.Machine.execTileQout f s
  | .tileTrot f => Sys2Proof.Machine.execTileTrot f s
  | .tileTzero f => Sys2Proof.Machine.execTileTzero f s
  | .fcall f => Sys2Proof.Machine.execFcall f s
  | .fprobe f => Sys2Proof.Machine.execFprobe f s
  | .fret f => Sys2Proof.Machine.execFret f s
  | .finval f => Sys2Proof.Machine.execFinval f s
  | .fstat f => Sys2Proof.Machine.execFstat f s
  | .ocall f => Sys2Proof.Machine.execOcall f s
  | .osync f => Sys2Proof.Machine.execOsync f s
  | .oret f => Sys2Proof.Machine.execOret f s
  | .ostat f => Sys2Proof.Machine.execOstat f s
  | .launch f => Sys2Proof.Machine.execLaunch f s
  | .snap f => Sys2Proof.Machine.execSnap f s
  | .barsave f => Sys2Proof.Machine.execBarsave f s
  | .barrst f => Sys2Proof.Machine.execBarrst f s
  | .shoot f => Sys2Proof.Machine.execShoot f s
  | .purge f => Sys2Proof.Machine.execPurge f s
  | .zerob f => Sys2Proof.Machine.execZerob f s
  | .park f => Sys2Proof.Machine.execPark f s
  | .rft f => Sys2Proof.Machine.execRft f s
  | .desc f => Sys2Proof.Machine.execDesc f s
  | .syscall f => Sys2Proof.Machine.execSyscall f s
  | .pfi f => Sys2Proof.Machine.execPfi f s
  | .pfiX f => Sys2Proof.Machine.execPfiX f s
  | .pfdL1 f => Sys2Proof.Machine.execPfdL1 f s
  | .pfdSlice f => Sys2Proof.Machine.execPfdSlice f s
  | .yield f => Sys2Proof.Machine.execYield f s
  | .hint f => Sys2Proof.Machine.execHint f s
  | .loadComplete r => Sys2Proof.Machine.execLoadComplete r s
  | .storeAck r => Sys2Proof.Machine.execStoreAck r s
  | .releaseWctReached r => Sys2Proof.Machine.execReleaseWctReached r s
  | .counterRetire g cls => Sys2Proof.Machine.execCounterRetire g cls s
  | .promoteRequest r => Sys2Proof.Machine.execPromoteRequest r s
  | .homeRequest r => Sys2Proof.Machine.execHomeRequest r s
  | .heldLoadRelease r => Sys2Proof.Machine.execHeldLoadRelease r s
  | .requestForward r => Sys2Proof.Machine.execRequestForward r s
  | .flitReoffer r => Sys2Proof.Machine.execFlitReoffer r s
  | .l1Eviction core line => Sys2Proof.Machine.execL1Eviction core line s
  | .replicaEviction die line => Sys2Proof.Machine.execReplicaEviction die line s
  | .segmentDrain core weight seg => Sys2Proof.Machine.execSegmentDrain core weight seg s
  | .granuleCountHalving die => Sys2Proof.Machine.execGranuleCountHalving die s
  | .claim gran => Sys2Proof.Machine.execClaim gran s
  | .forwardPointerExpiry die gran => Sys2Proof.Machine.execForwardPointerExpiry die gran s
  | .partialRegistration r => Sys2Proof.Machine.execPartialRegistration r s
  | .partialFlush r => Sys2Proof.Machine.execPartialFlush r s
  | .partialRecall r core => Sys2Proof.Machine.execPartialRecall r core s
  | .combineComplete r => Sys2Proof.Machine.execCombineComplete r s
  | .taskReady t => Sys2Proof.Machine.execTaskReady t s
  | .passGrant quad => Sys2Proof.Machine.execPassGrant quad s
  | .taskComplete t => Sys2Proof.Machine.execTaskComplete t s
  | .copyStart c => Sys2Proof.Machine.execCopyStart c s
  | .copyRingAcquire c => Sys2Proof.Machine.execCopyRingAcquire c s
  | .copyWalkFault c => Sys2Proof.Machine.execCopyWalkFault c s
  | .copyComplete c => Sys2Proof.Machine.execCopyComplete c s
  | .storeLookup l ecc => Sys2Proof.Machine.execStoreLookup l ecc s
  | .lookupAnswer l => Sys2Proof.Machine.execLookupAnswer l s
  | .storeInsert x => Sys2Proof.Machine.execStoreInsert x s
  | .storeInvalidate die v => Sys2Proof.Machine.execStoreInvalidate die v s
  | .finvalDone v => Sys2Proof.Machine.execFinvalDone v s
  | .logAppend c => Sys2Proof.Machine.execLogAppend c s
  | .tailRead c => Sys2Proof.Machine.execTailRead c s
  | .replayApply die o => Sys2Proof.Machine.execReplayApply die o s
  | .readOnlyCall c => Sys2Proof.Machine.execReadOnlyCall c s
  | .appliedReport die o => Sys2Proof.Machine.execAppliedReport die o s
  | .digestReport die o => Sys2Proof.Machine.execDigestReport die o s
  | .digestTimeout o => Sys2Proof.Machine.execDigestTimeout o s
  | .resync die o => Sys2Proof.Machine.execResync die o s
  | .numberedRequest n => Sys2Proof.Machine.execNumberedRequest n s
  | .numberedReply n => Sys2Proof.Machine.execNumberedReply n s
  | .rouRetransmit n => Sys2Proof.Machine.execRouRetransmit n s
  | .rouGiveUp n => Sys2Proof.Machine.execRouGiveUp n s
  | .receiptRetire die reqid rsn => Sys2Proof.Machine.execReceiptRetire die reqid rsn s
  | .hostAtomic n => Sys2Proof.Machine.execHostAtomic n s
  | .hostCasCompletion n ok refusedByHost seen => Sys2Proof.Machine.execHostCasCompletion n ok refusedByHost seen s
  | .launchReceive die l => Sys2Proof.Machine.execLaunchReceive die l s
  | .predecessorObserved die l k => Sys2Proof.Machine.execPredecessorObserved die l k s
  | .placeCluster die => Sys2Proof.Machine.execPlaceCluster die s
  | .preemptEntry g => Sys2Proof.Machine.execPreemptEntry g s
  | .monitorTeamPark team => Sys2Proof.Machine.execMonitorTeamPark team s
  | .monitorTeamRestore team => Sys2Proof.Machine.execMonitorTeamRestore team s
  | .teamRetire team => Sys2Proof.Machine.execTeamRetire team s
  | .completionRecordWrite l => Sys2Proof.Machine.execCompletionRecordWrite l s
  | .msixSend l => Sys2Proof.Machine.execMsixSend l s
  | .msixUnmask v => Sys2Proof.Machine.execMsixUnmask v s
  | .gridFail f => Sys2Proof.Machine.execGridFail f s
  | .faultResolved f => Sys2Proof.Machine.execFaultResolved f s
  | .replayTimeout f => Sys2Proof.Machine.execReplayTimeout f s
  | .priPageResponse f ok => Sys2Proof.Machine.execPriPageResponse f ok s
  | .tableWalk bench asid va => Sys2Proof.Machine.execTableWalk bench asid va s
  | .atsTranslationResponse bench asid va pa szlg r w x => Sys2Proof.Machine.execAtsTranslationResponse bench asid va pa szlg r w x s
  | .atsInvalidate asid va szlg => Sys2Proof.Machine.execAtsInvalidate asid va szlg s
  | .moduleReset slotB a b => Sys2Proof.Machine.execModuleReset slotB a b s
  | .dieBringup mask => Sys2Proof.Machine.execDieBringup mask s
  | .dieImageVerify die img => Sys2Proof.Machine.execDieImageVerify die img s
  | .headframeInit die ok classes => Sys2Proof.Machine.execHeadframeInit die ok classes s
  | .discoveryBuild => Sys2Proof.Machine.execDiscoveryBuild s
  | .pcieEnable => Sys2Proof.Machine.execPcieEnable s
  | .linkTrained die port => Sys2Proof.Machine.execLinkTrained die port s
  | .ident die port payload => Sys2Proof.Machine.execIdent die port payload s
  | .identRepeat die port => Sys2Proof.Machine.execIdentRepeat die port s
  | .timeSend => Sys2Proof.Machine.execTimeSend s
  | .timeMessage die err => Sys2Proof.Machine.execTimeMessage die err s
  | .dieReset die => Sys2Proof.Machine.execDieReset die s
  | .linkLoss die => Sys2Proof.Machine.execLinkLoss die s
  | .jdpMessage hdr => Sys2Proof.Machine.execJdpMessage hdr s
  | .peerFrame hub hdr data => Sys2Proof.Machine.execPeerFrame hub hdr data s
  | .hostBar2Read pa n => Sys2Proof.Machine.execHostBar2Read pa n s
  | .hostBar2Write hub pa data => Sys2Proof.Machine.execHostBar2Write hub pa data s
  | .hostAtomicop pa op n x cmp => Sys2Proof.Machine.execHostAtomicop pa op n x cmp s
  | .doorbellStart slot => Sys2Proof.Machine.execDoorbellStart slot s
  | .doorbellStop slot => Sys2Proof.Machine.execDoorbellStop slot s
  | .controlRegisterWrite off x => Sys2Proof.Machine.execControlRegisterWrite off x s
  | .getMeasurements ix => Sys2Proof.Machine.execGetMeasurements ix s
  | .patrolScrub unit pa bad => Sys2Proof.Machine.execPatrolScrub unit pa bad s
  | .driftResend r => Sys2Proof.Machine.execDriftResend r s
  | .selfTestDue core => Sys2Proof.Machine.execSelfTestDue core s
  | .selfTestPreempt core => Sys2Proof.Machine.execSelfTestPreempt core s
  | .selfTestDone unit passed => Sys2Proof.Machine.execSelfTestDone unit passed s
  | .scbTimeout g => Sys2Proof.Machine.execScbTimeout g s
  | .snapshotTimer cluster => Sys2Proof.Machine.execSnapshotTimer cluster s
  | .snapshot cluster => Sys2Proof.Machine.execSnapshot cluster s
  | .rollback cluster => Sys2Proof.Machine.execRollback cluster s
  | .kill rqtag unit => Sys2Proof.Machine.execKill rqtag unit s
  | .pldmTelemetryRead island => Sys2Proof.Machine.execPldmTelemetryRead island s
  | .telemetryRefresh readings => Sys2Proof.Machine.execTelemetryRefresh readings s
  | .errorLogRead die ix => Sys2Proof.Machine.execErrorLogRead die ix s
  | .setPowerCap watts => Sys2Proof.Machine.execSetPowerCap watts s
  | .powerWindow mw => Sys2Proof.Machine.execPowerWindow mw s
  | .currentLimit island amps => Sys2Proof.Machine.execCurrentLimit island amps s
  | .thermalStep island temp => Sys2Proof.Machine.execThermalStep island temp s
  | .thermalTrip die temp => Sys2Proof.Machine.execThermalTrip die temp s
  | .firmwareUpdate img => Sys2Proof.Machine.execFirmwareUpdate img s
  | .securityVersionCommit => Sys2Proof.Machine.execSecurityVersionCommit s
  | .traceEnable core va len => Sys2Proof.Machine.execTraceEnable core va len s
  | .restore unit passed => Sys2Proof.Machine.execRestore unit passed s
  | .l1InstructionCacheFill core line => Sys2Proof.Machine.execL1InstructionCacheFill core line s
  | .contextEnd asid => Sys2Proof.Machine.execContextEnd asid s
  | .purgeMomentOnDie die p => Sys2Proof.Machine.execPurgeMomentOnDie die p s
  | .shootInvalidationAtTlb tlb sh => Sys2Proof.Machine.execShootInvalidationAtTlb tlb sh s

end Sys2Proof.Machine
end

