-- ==== Sys2Proof/Machine/Stall.lean ====
section
/-! DEFINITION. What holds a bundle at issue: pending registers (R71, R146, R248) and structural stalls (R16, R49, R73, R81, R83, R116, R128,
R156, R358, R384). -/

namespace Sys2Proof.Machine

/-- The registers a bundle's instruction names when it issues, those that a scalar or a descriptor selects among them (R146, R271, R274). -/
def issueRegs (i : Instr) (s : State) : List (Nat × Nat) :=
  match i with
  | .dual gd x y => dualUsed gd x y
  | .pfdL1 f => addr f
  | .pfdSlice f => addr f
  | .rget f => base i ++ [(ridxCode f s, if Enc.isPairTy f.ty then 2 else 1)]
  | .rset f => base i ++ [(ridxCode f s, if Enc.isPairTy f.ty then 2 else 1)]
  | .fcall _ => base i ++ [(0, 48)]
  | .fprobe _ => base i ++ [(0, 48)]
  | .fret _ => base i ++ [(0, 48)]
  | .ocall _ => base i ++ [(0, 13)]
  | .osync _ => base i ++ [(0, 13)]
  | .oret _ => base i ++ [(0, 13)]
  | i => base i
where
  /-- The registers an instruction names by its fields. -/
  base (i : Instr) : List (Nat × Nat) :=
    match Enc.parts i with
    | some (k, f) => usedRegs k f
    | none => []
  /-- The address of a prefetch. -/
  addr (f : Fields) : List (Nat × Nat) :=
    match f.a with
    | .vec n => [(n.toNat, 2)]
    | .scl n => [(0x600 + n.toNat, 1)]
    | _ => []

/-- True when a register of the bundle's instruction waits for an operation (R71): a destination of a lane of the bundle, or a scalar of its group. -/
def awaitsReg (used : List (Nat × Nat)) (s : State) : Bool :=
  s.bundleLanes.any (fun p => p.2.pend.any (fun d => used.any (fun r => meet r (d.reg, d.n)))) ||
    s.grp.pendS.any (fun d => used.any (fun r => meet r (0x600 + d.1, 1)))

/-- The class of a counted instruction (R81). -/
def countClass (maj : Nat) : Option Nat :=
  match maj with
  | 0x26 => some 0
  | 0x28 => some 0
  | 0x2A => some 0
  | 0x2B => some 0
  | 0x27 => some 1
  | 0x29 => some 1
  | 0x3B => some 1
  | 0x31 => some 2
  | 0x32 => some 3
  | _ => none

/-- The majors that make a memory access, which an acquire point holds (R73). -/
def accesses (maj : Nat) : Bool := (0x26 ≤ maj && maj ≤ 0x2B) || maj == 0x30 || maj == 0x3B

/-- A team-scope atomic of a lane of the issuing group that its L1 has not performed: the lane's next global access waits for it (R66, R77, log 91). -/
def atomOwed (s : State) (l : Nat) : Bool :=
  s.reqs.any (fun r => r.l1 && r.acc != .load && !r.acc.puts && !r.isBuf && r.gid == s.grp.uid && r.lane == l)

/-- A buffer store of the issuing group that is not yet performed, those that a release still holds back among them (R72, R83). -/
def bufStores (s : State) : Bool :=
  s.reqs.any (fun r => r.isBuf && r.acc == .store && r.gid == s.grp.uid && r.stage != .served) ||
    s.grp.rels.any (fun k => match k.cont with | .access rs _ _ => rs.any (fun r => r.isBuf && r.acc == .store) | _ => false)

/-- What a privileged operation waits for at issue: barriers that can still change, older buffer accesses, the other lanes of a PARK, room for an RFT's operations
(R268, R286, R290 to R292). -/
def sysStall (fn : BitVec 3) (f : Fields) (s : State) : Bool :=
  s.privileged && s.anyActive f.gd &&
    (match fn.toNat with
     | 0 => barsaveHeld f s
     | 4 => (zerobFault f s).isNone && bufOwed s
     | 5 => parkHeld f s
     | 6 => rftFull f s
     | _ => false)

/-- The structural stall of an instruction by its major, FN and guard. -/
def stallOf (k : Key) (f : Fields) (s : State) : Bool :=
  let maj := k.maj.toNat
  let u := s.unitOf s.grp
  let some_ := s.anyActive f.gd
  ((countClass maj).map (fun c => counterFull s.grp c)).getD false ||
  (accesses maj && s.bundleLanes.any (fun p => s.acqHeld p.2)) ||
  (accesses maj && (maj < 0x28 || maj == 0x2A || 0x30 ≤ maj) && (s.actives f.gd).any (fun p => atomOwed s p.1)) ||
  (match maj with
   | 0x31 => some_ && (bufStores s || decide (16 ≤ (s.copyq.filter (fun c => c.core == u)).length))
   | 0x32 => some_ && (bufStores s || decide (32 ≤ (s.tasks.filter (fun t => t.quad == u / 4)).length) ||
               decide (16 ≤ (s.tasks.filter (fun t => t.core == u)).length))
   | 0x26 => s.ropsFull (s.dieOf s.grp) (s.actives f.gd).length
   | 0x27 => s.ropsFull (s.dieOf s.grp) (s.actives f.gd).length
   | 0x2A => s.ropsFull (s.dieOf s.grp) (s.actives f.gd).length
   | 0x34 => decide (k.fn.toNat < 2) && s.ropsFull (s.dieOf s.grp) (s.actives f.gd).length
   | 0x35 => k.fn == 0 && some_ && s.ropsFull (s.dieOf s.grp) 15
   | 0x36 => sysStall k.fn f s
   | 0x37 => s.grp.preempt
   | _ => false)

/-- True while a team of the issuing group's cluster waits for lent segments: the cluster's teams become resident together (R9, R49, R349). -/
def undrained (s : State) : Bool := s.grp.method.isNone && s.teams.any (fun t => sharesBar s.myTeam 48 t && t.drain != [])

/-- An operation of a group that a re-execution must not repeat is on its way (R386). -/
def notRepeatable (s : State) (g : Group) : Bool :=
  !g.pendS.isEmpty || s.owesRop g.uid || s.calls.any (fun c => c.gid == g.uid) ||
    s.reqs.any (fun r => r.gid == g.uid && r.acc != .load && (r.acc != .store || isHost r.addr))

/-- What holds an assay group at issue: a full log, LVQ or SCB, a snapshot that is due in its cluster, and an operation of a group of the cluster that a re-execution must not
repeat, until its snapshot (R384 to R387, log 21). -/
def assayHeld (s : State) : Bool :=
  if s.isAssay s.grp.uid then
    let c := s.myTeam.cluster
    let mine (g : Group) : Bool := g.method.isNone && (s.team g.team).cluster == c
    decide (256 ≤ s.grp.log.length) || decide (256 ≤ s.grp.lvq.length) || decide (64 ≤ s.grp.scb.length) ||
      s.clusters.any (fun x => x.uid == c && x.snapDue) ||
      s.allGroups.any (fun g => mine g && notRepeatable s g)
  else false

/-- True when the bundle in focus is held at issue. -/
def stalled (i : Instr) (s : State) : Bool :=
  awaitsReg (issueRegs i s) s || undrained s || assayHeld s ||
  (match Enc.parts i with
   | some (k, f) => stallOf k f s
   | none => false)

end Sys2Proof.Machine
end

