-- ==== Sys2Proof/Machine/Fetch.lean ====
section
/-! DEFINITION. Fetching an instruction (R166, R339 to R342, R152) and where a bundle stands at issue. -/

namespace Sys2Proof.Machine

/-- A word as fetch finds it: its physical address and itself, a failed translation with the word's VA, or an answer of the host that is
awaited (R166, R365). -/
inductive FetchWord where
  | ok (pa : Nat) (w : Word)
  | fail (tout level : Nat) (va : DWord)
  | awaited
  deriving DecidableEq, Repr, Inhabited

/-- One instruction word (R166): memory as it now stands (log 50). -/
def State.fetchWord (s : State) (w : Who) (t : Touch) (va : DWord) : FetchWord :=
  match s.reach w t va.toNat with
  | .page e => if s.tablesAwaited w e then .awaited else .ok (s.frameAt w e va.toNat 4).1 (s.codeWord w e va)
  | .fail tout level => .fail tout level va
  | .awaited => .awaited

/-- The words of an instruction and the physical addresses they stand at, or why they cannot be fetched. -/
inductive Fetched where
  | words (ws : List Word) (pas : List Nat)
  | fail (tout level : Nat) (va : DWord)
  | awaited
  deriving DecidableEq, Repr, Inhabited

/-- `n` words from address `va` on, in ascending order. -/
def State.fetchRest (s : State) (w : Who) (t : Touch) (va : DWord) : Nat → Fetched
  | 0 => .words [] []
  | n + 1 =>
    match s.fetchWord w t va with
    | .ok pa x =>
      match s.fetchRest w t (va + 4) n with
      | .words ws pas => .words (x :: ws) (pa :: pas)
      | r => r
    | .fail tout level a => .fail tout level a
    | .awaited => .awaited

/-- Every word of the instruction at an address: LEN of its first word gives their number (R166). -/
def State.fetchWords (s : State) (w : Who) (t : Touch) (va : DWord) : Fetched :=
  match s.fetchWord w t va with
  | .ok pa x =>
    match s.fetchRest w t (va + 4) ((Enc.formOf x).len / 4 - 1) with
    | .words ws pas => .words (x :: ws) (pa :: pas)
    | r => r
  | .fail tout level a => .fail tout level a
  | .awaited => .awaited

/-- The instruction at the PC of the issuing bundle. -/
def State.fetchBundle (s : State) : Fetched := s.fetchWords s.me (fetchTouch s.grp) s.bundle.pc

/-- Numbers without repeats, the first of each kept. -/
def dedup : List Nat → List Nat
  | [] => []
  | x :: xs => x :: (dedup xs).filter (fun y => y != x)

/-- The lines an instruction stands in. -/
def codeLines (pas : List Nat) : List Nat := dedup (pas.map lineOf)

/-- The L0 of a bench (R339). -/
def Core.l0 (k : Core) (bench : Nat) : List Nat := if bench % 2 = 0 then k.l0a else k.l0b

/-- The lines of an instruction that neither the bench's L0 nor the core's L1 instruction cache holds. A replay engine has no instruction cache (R339). -/
def State.missing (s : State) (pas : List Nat) : List Nat :=
  if s.grp.method.isSome then []
  else
    let k := s.core (s.unitOf s.grp)
    (codeLines pas).filter (fun l => !((k.l0 s.grp.bench).contains l || k.icache.contains l))

/-- Where a bundle stands: it may issue its instruction, raise FETCH, raise ILLEGAL, wait for lines, or wait. -/
inductive Ready where
  | go (i : Instr)
  | fetch (tout level : Nat) (va : DWord)
  | bad
  | lines (l : List Nat)
  | wait
  deriving DecidableEq, Repr

/-- Where the bundle in focus stands (R16, R17, R166, R340). -/
def State.ready (s : State) : Ready :=
  if undrained s || assayHeld s then .wait
  else match s.fetchBundle with
  | .awaited => .wait
  | .fail tout level va => .fetch tout level va
  | .words ws pas =>
    match s.missing pas with
    | l :: rest => .lines (l :: rest)
    | [] =>
      match decodeWords ws with
      | .error _ => .bad
      | .ok i => if stalled i s then .wait else .go i

/-- True for a bundle that would issue. -/
def Ready.issuable : Ready → Bool
  | .go _ => true
  | .fetch _ _ _ => true
  | .bad => true
  | .lines _ => false
  | .wait => false

/-- The set of a line in the L0 (R339). -/
def l0Set (line : Nat) : Nat := line % 32

/-- The fetch of an instruction uses its lines in the bench's L0, and those that the L0 misses in the L1 instruction cache, from which they fill (R339). -/
def State.noteFetch (s : State) (pas : List Nat) : State :=
  if s.grp.method.isSome then s else
  let use (k : Core) (l : Nat) : Core :=
    let k1 := if (k.l0 s.grp.bench).contains l then k else { k with icache := addWay icSet 8 l k.icache }
    if s.grp.bench % 2 = 0 then { k1 with l0a := addWay l0Set 4 l k1.l0a } else { k1 with l0b := addWay l0Set 4 l k1.l0b }
  s.onCore (s.unitOf s.grp) (fun k => (codeLines pas).foldl use k)

end Sys2Proof.Machine
end

