-- ==== Sys2Proof/Machine/Shadow.lean ====
section
/-! DEFINITION. The shadow of an assay group (R384, R385, R295, R337): the issue log with the register results of each instruction, the load-value queue, and what the shadow finds when
it reaches an instruction or when the second run of a pass ends. -/

namespace Sys2Proof.Machine

/-! What an instruction writes -/

/-- True for an instruction with a value in the load-value queue: a load, LDB, atomic, WAITC, token, ring slot address, FCALL, FSTAT, OSTAT, OCALL,
LAUNCH, or GETS of a register that may differ from run to run (R384, R337). -/
def fromOutside (i : Instr) : Bool :=
  match Enc.parts i with
  | some (k, f) =>
    match k.maj.toNat with
    | 0x13 => (0x010 ≤ f.imm.toNat ∧ f.imm.toNat ≤ 0x012) ∨ (0x01A ≤ f.imm.toNat ∧ f.imm.toNat ≤ 0x01D)
    | 0x26 => true
    | 0x28 => true
    | 0x2A => true
    | 0x2B => true
    | 0x2E => k.fn = 0
    | 0x2F => k.fn = 0 ∨ k.fn = 2
    | 0x30 => true
    | 0x33 => k.fn ≠ 2 ∧ k.fn ≠ 3
    | 0x34 => k.fn ≠ 2
    | 0x35 => k.fn = 0
    | _ => false
  | none => false

/-- The registers an instruction writes: the code of the first of each range and their number. -/
def wroteRegs (i : Instr) (s : State) : List (Nat × Nat) :=
  match i with
  | .dual _ x y => dualWrites x ++ dualWrites y
  | .rset f => [(ridxCode f s, if Enc.isPairTy f.ty then 2 else 1)]
  | .fcall _ => [(8, 8)]
  | .fprobe f => (8, 8) :: own (.fprobe f)
  | i => own i
where
  /-- Those of its fields. -/
  own (i : Instr) : List (Nat × Nat) :=
    match Enc.parts i with
    | some (k, f) =>
      match k.maj.toNat, Enc.sigFor f.form k with
      | 0x27, _ => []
      | 0x29, _ => []
      | 0x34, _ => fixedRegs k f
      | 0x02, some g => slotRegs k f g.d f.d ++ fixedRegs k f
      | 0x03, some g => slotRegs k f g.d f.d ++ fixedRegs k f
      | 0x08, some g => slotRegs k f g.d f.d ++ fixedRegs k f
      | 0x0E, some g => slotRegs k f g.d f.d ++ fixedRegs k f
      | _, some g => slotRegs k f g.d f.d
      | _, none => []
    | none => []

/-- The registers that an instruction writes, one by one, in each guard-true lane; a scalar stands under the lowest one. -/
def wroteIn (i : Instr) (s : State) : List (Nat × Nat) :=
  match Enc.parts i with
  | none => []
  | some (_, f) =>
    let gd := match i with | .dual gd _ _ => gd | _ => f.gd
    let codes := (wroteRegs i s).flatMap (fun r => (List.range r.2).map (fun k => r.1 + k))
    let scalar (c : Nat) : Bool := decide (0x600 ≤ c) && decide (c < 0x640)
    (s.actives gd).flatMap (fun p => (codes.filter (fun c => !scalar c || (s.elect gd).map (fun e => e.1) == some p.1)).map (fun c => (p.1, c)))

/-- The value of an operand code in a lane: a vector register, a scalar, or a predicate. -/
def Group.value (g : Group) (l c : Nat) : DWord :=
  if c < 0x600 then ((g.lanes.getD l default).reg c).setWidth 64
  else if c < 0x640 then g.scl (c - 0x600)
  else if (g.lanes.getD l default).pred (c - 0x640) then 1 else 0

/-- True while the value of a register of a lane has not come: an operation owes it, or the lane stands inside its instruction. -/
def Group.owes (g : Group) (l c : Nat) : Bool :=
  let x := g.lanes.getD l default
  (x.hold != .none && x.hold != .park) || x.pend.any (fun d => meet (c, 1) (d.reg, d.n)) || g.pendS.any (fun d => c == 0x600 + d.1)

/-! The log and the queue (R384) -/

/-- A queue entry takes the values that have come. -/
def Lvq.fill (g : Group) (q : Lvq) : Lvq :=
  let come := q.owed.filter (fun p => !g.owes p.1 p.2)
  { q with vals := q.vals ++ come.map (fun p => (p.1, p.2, g.value p.1 p.2)), owed := q.owed.filter (fun p => g.owes p.1 p.2) }

/-- The results of an instruction stand in its log entry. -/
def Issued.fill (g : Group) (i : Issued) : Issued := { i with wrote := i.wrote.map (fun p => (p.1, p.2.1, g.value p.1 p.2.1)) }

/-- The results of the newest instruction of a group are noted, and the values that have come are queued; a privileged routine of the group, which the shadow does not run, changes neither
(R295). -/
def Group.settle (g : Group) : Group :=
  if g.lanes.any (fun x => x.routine.isSome) then g else
  { g with
    log := match g.log.getLast? with | some i => g.log.dropLast ++ [i.fill g] | .none => []
    lvq := g.lvq.map (Lvq.fill g) }

/-- An instruction of the issuing group enters its log with its lanes, and the load-value queue when it brings values from outside (R384). -/
def Group.note (g : Group) (i : Instr) (s : State) : Group :=
  let n := g.logged + 1
  let w := wroteIn i s
  let out := fromOutside i
  { g with
    logged := n
    log := g.log ++ [{ num := n, pc := s.bundle.pc, lanes := s.bundle.lanes, second := s.bundle.secondary, wrote := if out then [] else w.map (fun p => (p.1, p.2, 0)) }]
    lvq := if out then g.lvq ++ [{ num := n, vals := [], owed := w }] else g.lvq }

/-- The issue of an instruction by an assay group is noted for its shadow; a privileged routine's is not (R295). -/
def assayNote (i : Instr) (s : State) : State :=
  if s.isAssay s.grp.uid then
    let g := s.grp.settle
    { s with grp := if s.privileged then g else g.note i s }
  else s

/-! What the shadow finds (R385) -/

/-- What the shadow compares of an entry: every field of Table 3, but not the model's own numbers and time. -/
def Scb.seen (e : Scb) : Scb := { e with id := 0, logged := 0, at_ := 0 }

/-- The shadow has passed the entries of a log up to number `n`: what they sent may leave, and the values it has taken leave the queue. -/
def Group.passed (g : Group) (n : Nat) : Group :=
  { g with
    log := g.log.filter (fun i => decide (n < i.num)), scb := g.scb.filter (fun e => decide (n < e.logged))
    lvq := g.lvq.filter (fun q => decide (n < q.num) || !q.owed.isEmpty) }

/-- The shadow of a group reaches the group's oldest instruction, with the register results it writes there and the entries it would send (R384, R385, R295): where all agree the entries
may leave, and the first disagreement is an ASSAY fault of the leading group's instruction. -/
def execShadow (gid : Nat) (wrote : List (Nat × Nat × DWord)) (sent : List Scb) (s0 : State) : Out3 :=
  let s := if s0.isAssay gid then s0.onGroup gid Group.settle else s0
  .next (match s.group gid with
    | none => s
    | some g =>
      match g.log with
      | [] => s
      | i :: _ =>
        let mine := g.scb.filter (fun e => decide (e.logged ≤ i.num))
        if !s.isAssay gid then s
        else if wrote = i.wrote ∧ sent.map Scb.seen = mine.map Scb.seen then s.onGroup gid (fun g => g.passed i.num)
        else s.assayRaise gid i.lanes i.pc ((mine.head?.map (fun e => e.addr)).getD 0))

/-- The second run of a tile pass of an assay context ends with other accumulators than the first, or with the same (R385, R295): on a disagreement the task writes nothing more to CBUF. -/
def execPassAgain (quad : Nat) (again : List Nat) (s : State) : Out3 :=
  .next (match s.arrays.find? (fun a => a.quad == quad) with
    | none => s
    | some a =>
      match s.tasks.find? (fun x => x.id == a.task) with
      | none => s
      | some x =>
        if !s.isAssay x.gid ∨ again = a.words then s
        else
          let s1 := { s with arrays := s.arrays.filter (fun y => y.quad != quad), tasks := s.tasks.filter (fun y => y.id != x.id) }
          s1.assayRaise x.gid x.lanes x.pc 0)

/-- The shadow of an assay group has caught up: it agrees with every entry (R384, R385). -/
def catchUp (s : State) (g : Group) : Group := if s.isAssay g.uid then (g.settle).passed g.logged else g

end Sys2Proof.Machine
end

