-- ==== Sys2Proof/Machine/Issue.lean ====
section
/-! DEFINITION. Issue: a bench's choice of a group (R16), of its bundles (R17 to R19), co-issue (R18), and the issue of one bundle. -/

namespace Sys2Proof.Machine

/-! Bundles -/

/-- True for a lane that can form a bundle in core cycle `now`: ELIGIBLE, released before it, and not held by a structural stall; a lane at PARK executes it again
(R23, R26, R291). -/
def Lane.candidate (now : Nat) (x : Lane) : Bool := x.st == .eligible && decide (x.free ≤ now) && (x.hold == .none || x.hold == .park)

/-- The PCs without repeats. -/
def pcsOf : List DWord → List DWord
  | [] => []
  | x :: xs => x :: (pcsOf xs).filter (fun y => y != x)

/-- The bundles of a group: a PC and the lanes that stand there (R14). -/
def Group.bundles (now : Nat) (g : Group) : List (DWord × List Nat) :=
  let c := (numbered 0 g.lanes).filter (fun p => p.2.candidate now)
  (pcsOf (c.map (fun p => p.2.pc))).map (fun pc => (pc, (c.filter (fun p => p.2.pc == pc)).map (fun p => p.1)))

/-- The issuing group becomes group `u`. -/
def State.focus (s : State) (u : Nat) : State :=
  if s.grp.uid = u then s else
  match s.groups.find? (fun g => g.uid == u) with
  | some g =>
    let rest := s.groups.filter (fun g => g.uid != u)
    { s with grp := g, groups := if s.grp.uid = 0 then rest else s.grp :: rest }
  | none => s

/-- The bundle in focus. -/
def State.withBundle (s : State) (pc : DWord) (lanes : List Nat) (second : Bool) : State :=
  { s with bundle := { lanes := maskOf lanes, pc := pc, secondary := second } }

/-- The bundles of the group in focus, each with where it stands. -/
def State.readies (s : State) : List ((DWord × List Nat) × Ready) :=
  (s.grp.bundles s.cycle).map (fun b => (b, (s.withBundle b.1 b.2 false).ready))

/-! Primary and secondary (R17 to R19) -/

/-- The better of two bundles by R17: more lanes, then the lower PC. -/
def moreLanes (a b : (DWord × List Nat) × Ready) : Bool :=
  decide (b.1.2.length < a.1.2.length) || (a.1.2.length == b.1.2.length && decide (a.1.1.toNat < b.1.1.toNat))

/-- The largest wait count among a bundle's lanes (R19). -/
def maxWait (g : Group) (b : (DWord × List Nat) × Ready) : Nat := b.1.2.foldl (fun m l => max m (g.lanes.getD l default).waitCount) 0

/-- The better of two bundles by R19: the larger wait count, then the lower PC. -/
def moreWait (g : Group) (a b : (DWord × List Nat) × Ready) : Bool :=
  decide (maxWait g b < maxWait g a) || (maxWait g a == maxWait g b && decide (a.1.1.toNat < b.1.1.toNat))

/-- The best element of a list by a relation. -/
def bestBy {α : Type} (better : α → α → Bool) : List α → Option α
  | [] => none
  | x :: xs =>
    match bestBy better xs with
    | none => some x
    | some y => if better x y then some x else some y

/-- The primary bundle among those that can issue: a lane that has waited 32 issue cycles forces its bundle (R17, R19). -/
def primary (g : Group) (l : List ((DWord × List Nat) × Ready)) : Option ((DWord × List Nat) × Ready) :=
  let forced := l.filter (fun b => decide (32 ≤ maxWait g b))
  if forced.isEmpty then bestBy moreLanes l else bestBy (moreWait g) forced

/-- A register range one by one. -/
def regsList (l : List (Nat × Nat)) : List Nat := l.flatMap (fun r => if r.1 < 0x600 then (List.range r.2).map (fun i => r.1 + i) else [])

/-- The vector registers an instruction reads and those it writes, when it may co-issue: its major is one of R18 and it is no dual form. DESIGN CHOICE (log 111): a
64-bit operand counts as both registers of its pair, each in its own bank. -/
def coIssue (i : Instr) : Option (List Nat × List Nat) :=
  match Enc.parts i with
  | some (k, f) =>
    if pairs k.maj then
      match Enc.sigFor f.form k with
      | some s =>
        let own := if f.form.isExt then [] else slotRegs k f s.c f.d
        some (regsList (slotRegs k f s.a f.a ++ slotRegs k f s.b f.b ++ slotRegs k f s.c f.c ++ own), regsList (slotRegs k f s.d f.d))
      | none => none
    else none
  | none => none

/-- The primary and the secondary bundle issue in one core cycle (R18). -/
def together (a b : Ready) : Bool :=
  match a, b with
  | .go i, .go j =>
    match coIssue i, coIssue j with
    | some x, some y =>
      (List.range 4).all (fun k => decide (((x.1 ++ y.1).filter (fun r => r % 4 == k)).length ≤ 2)) &&
        x.2.all (fun r => y.2.all (fun q => r % 4 != q % 4))
    | _, _ => false
  | _, _ => false

/-- The secondary bundle when it issues with the primary (R17, R18). -/
def secondary (p : (DWord × List Nat) × Ready) (l : List ((DWord × List Nat) × Ready)) : Option (DWord × List Nat) :=
  match bestBy moreLanes (l.filter (fun b => b.1.1 != p.1.1)) with
  | some q => if together p.2 q.2 then some q.1 else none
  | none => none

/-- The wait counts after an issue cycle of the group (R19). -/
def countWaits (can issued : List Nat) (l : Nat) (x : Lane) : Lane :=
  if issued.contains l then { x with waitCount := 0 }
  else if can.contains l then { x with waitCount := x.waitCount + 1 }
  else x

/-! The choice of a group (R16) -/

/-- The groups of a bench that are not PARKED (R24). -/
def State.groupsAt (s : State) (b : Nat) : List Group := s.allGroups.filter (fun g => g.uid != 0 && g.bench == b && !g.isParked)

/-- True for an issuable group (R16). -/
def State.issuable (s : State) (u : Nat) : Bool := (s.focus u).readies.any (fun r => r.2.issuable)

/-- How long a group has been issuable without being selected. -/
def Group.waited (g : Group) (now : Nat) : Nat := (g.since.map (fun t => now - t)).getD 0

/-- The group a bench selects among its issuable ones: an overdue group, longest waiting first, then the lowest placement number; a group that
yields is passed over while another is issuable (R16, R264). -/
def selectGroup (now : Nat) (l : List Group) : Option Group :=
  let late := l.filter (fun g => decide (48 ≤ g.waited now))
  let lower (a b : Group) : Bool := decide (a.order < b.order)
  if late.isEmpty then
    let keen := l.filter (fun g => decide (g.yieldTo < now))
    bestBy lower (if keen.isEmpty then l else keen)
  else bestBy (fun a b => decide (b.waited now < a.waited now) || (a.waited now == b.waited now && lower a b)) late

/-- A demand fetch sends a fill for each line it misses, unless one is in flight (R340). -/
def State.demand (s : State) (u : Nat) : State :=
  let t := s.focus u
  let core := s.unitOf t.grp
  let need := t.readies.flatMap (fun r => match r.2 with | .lines l => l | _ => [])
  if need.isEmpty then s else s.onCore core (fun k => need.foldl (fun k l => k.askLine (t.asidOf t.grp) l) k)

/-- The groups of a bench note whether they were issuable, and the selected one starts again (R16). -/
def State.noteSince (s : State) (can : List Nat) (all : List Nat) (chosen : Option Nat) : State :=
  let f (g : Group) : Group :=
    if all.contains g.uid then
      if can.contains g.uid && chosen != some g.uid then { g with since := some (g.since.getD s.cycle) } else { g with since := none }
    else g
  { s with grp := f s.grp, groups := s.groups.map f }

/-- A bench's choice in a core cycle: with its demand fetches sent, the chosen group and primary bundle in focus, and a secondary that issues with it in
front of the agenda. None when no group of the bench is issuable. -/
def State.choose (s0 : State) (b : Nat) : State × Bool :=
  let gs := s0.groupsAt b
  let s := gs.foldl (fun t g => t.demand g.uid) s0
  let can := gs.filter (fun g => s.issuable g.uid)
  let sel := selectGroup s.cycle can
  let s1 := s.noteSince (can.map (fun g => g.uid)) (gs.map (fun g => g.uid)) (sel.map (fun g => g.uid))
  match sel with
  | none => (s1, false)
  | some g =>
    let t := s1.focus g.uid
    let l := t.readies.filter (fun r => r.2.issuable)
    match primary t.grp l with
    | none => (s1, false)
    | some p =>
      let q := secondary p l
      let issued := p.1.2 ++ (q.map (fun x => x.2)).getD []
      let t1 := t.onLanes (countWaits (l.flatMap (fun r => r.1.2)) issued)
      let t2 := match q with
        | some x => { t1 with agenda := .second t1.grp.uid (maskOf x.2) x.1 :: t1.agenda }
        | none => t1
      (t2.withBundle p.1.1 p.1.2 false, true)

/-! The issue of a bundle -/

/-- A method's count of instructions (R152). A table word whose translation is awaited, or fails and is resolved, leaves the instruction to run. -/
def countMethod (s : State) (i : Instr) : State :=
  let waits : Bool := match i with
    | .btab f => (s.actives f.gd).any (fun p => match fetchWord s s.me (tableEntry s.grp f p.2) with | .ok _ => false | _ => true)
    | _ => false
  if waits then s else { s with grp := { s.grp with method := s.grp.method.map (fun m => { m with ran := m.ran + 1 }) } }

/-- What the issue of instruction `i` does before its own effect: the caches, the shadow's log and a method's count. -/
def State.begin (s : State) (i : Instr) (pas : List Nat) : State := countMethod (assayNote i (s.noteFetch pas)) i

/-- A method that has run its 65,536 instructions and would run another (R152). -/
def overrun (s : State) : Option Method := s.grp.method.bind (fun m => if 65536 ≤ m.ran then some m else none)

/-- Poison that left by a port on the group's behalf is raised at its next instruction boundary (R382). -/
def portPoison (s : State) : Option DWord := (s.grp.hurt.find? (fun p => p.1 == 64)).map (fun p => p.2)

/-- The bundle in focus issues (R182, R183): POISON of a port, a method's limit, FETCH, ILLEGAL of words that are no instruction, or the instruction. -/
def State.issueBundle (s : State) : Out3 :=
  match portPoison s with
  | some va =>
    .next (raiseWith { cause := .poison, addr := va }
      { s with grp := { s.grp with hurt := s.grp.hurt.filter (fun p => p.1 != 64) } })
  | none =>
    match overrun s with
    | some m => .next (methodTrap 7 m s)
    | none =>
      match s.fetchBundle with
      | .awaited => .next s
      | .fail tout level va =>
        .next (fetchFault { cause := .fetch, access := (fetchTouch s.grp).code, tout := tout, level := level, addr := va } s)
      | .words ws pas =>
        match decodeWords ws with
        | .error _ => .next (raise .illegal (s.noteFetch pas))
        | .ok i => exec i (s.begin i pas)

/-- A bench's core cycle: its choice issues, or nothing does. -/
def issueBench (b : Nat) (s : State) : Out3 :=
  let c := s.choose b
  if c.2 then c.1.issueBundle else .next c.1

/-- The secondary bundle of a core cycle issues after the primary (R18): those of its lanes that still stand there. -/
def issueSecond (u : Nat) (m : QWord) (pc : DWord) (s : State) : Out3 :=
  let t := s.focus u
  let lanes := ((numbered 0 t.grp.lanes).filter (fun p => m.getLsbD p.1 && p.2.candidate s.cycle && p.2.pc == pc)).map (fun p => p.1)
  if t.grp.uid ≠ u ∨ lanes.isEmpty then .next s else (t.withBundle pc lanes true).issueBundle

end Sys2Proof.Machine
end

