-- ==== Sys2Proof/Machine/Turns.lean ====
section
/-! DEFINITION. Whose turn it is when the agenda names nobody (log 2): the steps the machine's own agents could make now, then the benches in
ascending order, then the end of the core cycle. -/

namespace Sys2Proof.Machine

/-! Management (R395) -/

/-- True for the rows of the opcode table that are management requests. -/
def isManagement : Instr → Bool
  | .pldmTelemetryRead _ => true
  | .errorLogRead _ _ => true
  | .traceEnable _ _ _ => true
  | .setPowerCap _ => true
  | .firmwareUpdate _ => true
  | .securityVersionCommit => true
  | .restore _ _ => true
  | .getMeasurements _ => true
  | _ => false

/-- What a management read finds: the bytes, and whether they are a sealed context's (R378). -/
def State.readout (s : State) : Ask → List Byte × Bool
  | .command _ => ([], false)
  | .buffer tm region off n => (bytesOf n ((s.team tm).read region off n), recSealed (s.gridOf (s.team tm)).record)
  | .registers gid lane reg n =>
    match s.group gid with
    | some g => ((List.range n).flatMap (fun i => bytesOf (if reg + i < 0x600 then 4 else 8) (g.value lane (reg + i)).toNat), g.method.isNone && recSealed (s.gridOf (s.team g.team)).record)
    | none => ([], false)
  | .bytes asid va n => (bytesOf n ((s.readVA (sysWho asid 0) va.toNat n).getD 0), s.grids.any (fun g => g.asid == asid && recSealed g.record))

/-- H0 serves the oldest management request; a read that would expose a sealed context's data is refused (R378, R395, log 141). -/
def serveAsk (s : State) : Out3 :=
  match s.mgmt.queue with
  | [] => .next s
  | a :: rest =>
    let s1 := { s with mgmt := { s.mgmt with queue := rest } }
    match a with
    | .command i => if isManagement i then exec i s1 else .next s1
    | _ =>
      let r := s.readout a
      .next { s1 with out := s1.out ++ [if r.2 then .refused else .readout r.1] }

/-- A management request arrives by either path (R395). -/
def State.ask (s : State) (a : Ask) : State := { s with mgmt := { s.mgmt with queue := s.mgmt.queue ++ [a] } }

/-! The steps that could be due -/

/-- A step of an agent: the meaning of its row, ready to run. -/
abbrev Act := State → Out3

/-- True for a release that a barrier arrival follows. -/
def Rel.arrives (r : Rel) : Bool := match r.cont with | .arrive _ _ _ _ => true | _ => false

/-- Arrivals whose releases are over come after every engine signal of the core cycle (R46, R260). -/
def arrivalTurns (s : State) : List Act :=
  (s.allGroups.filter (fun g => g.uid != 0)).flatMap (fun g => (g.rels.filter Rel.arrives).map (fun r => execReleaseWctReached r.id))

/-- Steps of groups: JOIN, SLEEP, counters, releases, PREEMPT (R20, R193, R81, R72, R78, R358). -/
def groupTurns (g : Group) : List Act :=
  g.eps.map (fun e => execJoinTimeout g.uid e.pc) ++
  (numbered 0 g.lanes).flatMap (fun p => match p.2.hold with | .timed _ _ => [execTimedExpiry g.uid p.1] | _ => []) ++
  (if g.ops.isEmpty then [] else (List.range 4).map (fun c => execCounterRetire g.uid c)) ++
  g.rels.flatMap (fun r => [execPromoteRequest r.id] ++ (if r.arrives then [] else [execReleaseWctReached r.id])) ++
  (if g.preempt then [execPreemptEntry g.uid] else [])

/-- Steps of the requests on their way (R52 to R75). -/
def reqTurns (r : Req) : List Act :=
  [execFlitReoffer r.id, execRequestForward r.id, execHomeRequest r.id, execPartialRegistration r.id, execPartialFlush r.id, execHeldLoadRelease r.id] ++
  r.holders.map (fun c => execPartialRecall r.id c) ++ [execCombineComplete r.id, execLoadComplete r.id, execStoreAck r.id]

/-- Steps of teams: rings, drains and retirement (R49, R261, R351). -/
def teamTurns (t : Team) : List Act :=
  ((List.range t.rings.length).zip t.rings).flatMap (fun p =>
    if p.2.waits.isEmpty then [] else [execRingWaiterWake t.uid p.1 true, execRingWaiterWake t.uid p.1 false]) ++
  t.drain.map (fun d => execSegmentDrain (t.die * Config.coresPerDie + t.core) d.1 d.2.1) ++
  (if t.exited && !t.retired then [execTeamRetire t.uid] else [])

/-- Steps of the engines (R117 to R128). -/
def engineTurns (s : State) : List Act :=
  s.copyq.flatMap (fun c => [execCopyRingAcquire c.id, execCopyStart c.id, execCopyWalkFault c.id, execCopyComplete c.id]) ++
  s.tasks.flatMap (fun t => [execTaskReady t.id, execPassGrant t.quad, execTaskComplete t.id])

/-- Steps of the function store and of the objects (R135 to R154). -/
def storeTurns (s : State) : List Act :=
  s.lookups.flatMap (fun l => [execStoreLookup l.id [], execLookupAnswer l.id]) ++
  s.inserts.map (fun i => execStoreInsert i.id) ++
  s.receipts.filterMap (fun x => match x.what with | .append c => if x.done.isNone then some (execLogAppend c.id) else none | _ => none) ++
  s.calls.flatMap (fun c => [execTailRead c.id, execReadOnlyCall c.id, execRouRetransmit c.id, execRouGiveUp c.id]) ++
  s.ocopies.flatMap (fun c => [execReplayApply c.die c.obj, execDigestReport c.die c.obj, execAppliedReport c.die c.obj, execResync c.die c.obj]) ++
  s.objs.map (fun o => execDigestTimeout o.id)

/-- Steps of operations that wait for dies or TLBs (R142, R288, R289). -/
def waiterTurns (w : Waiter) : List Act :=
  match w.kind with
  | .finval _ _ => w.owed.map (fun d => execStoreInvalidate d w.id) ++ [execFinvalDone w.id]
  | .shoot _ _ _ => w.owed.map (fun t => execShootInvalidationAtTlb t w.id)
  | .purge _ => w.owed.map (fun d => execPurgeMomentOnDie d w.id)
  | .snap => []
  | .ats asid va lg => [execAtsInvalidate asid va lg]

/-- Steps of numbered operations and receipts (R157 to R161). -/
def ropTurns (s : State) : List Act :=
  s.rmsgs.map (fun m => execNumberedRequest m.rop) ++
  (s.receipts.filter (fun x => x.done.isNone && x.place != 0)).map (fun x => execNumberedRequest x.rop) ++
  s.rops.flatMap (fun r => [execNumberedReply r.id, execRouRetransmit r.id, execRouGiveUp r.id]) ++
  s.receipts.flatMap (fun x => [execHostAtomic x.rop, execReceiptRetire x.owner x.reqid x.rsn])

/-- Steps of launches and grids (R343 to R353). -/
def gridTurns (s : State) : List Act :=
  s.grids.flatMap (fun g => g.arrived.map (fun d => execLaunchReceive d g.lid) ++ [execCompletionRecordWrite g.lid] ++ (if g.msix then [execMsixSend g.lid] else [])) ++
  s.lslots.flatMap (fun l => (List.range 4).map (fun i => execPredecessorObserved l.die l.lid i) ++ [execPlaceCluster l.die]) ++
  s.parked.map (fun p => execMonitorTeamRestore p.team.uid)

/-- Steps of the headframe cores about a fault: POISON and a second ASSAY fault kill the request, a first one rolls the cluster back, a replayable fault is
resolved, and any other fails the grid (R353, R361, R382, R387, R388). -/
def faultTurns (s : State) (f : PFault) : List Act :=
  let cluster := (s.team (((s.group f.gid).map (fun g => g.team)).getD 0)).cluster
  if f.cause = .poison ∧ f.walk = 0 then [execKill f.rqtag (s.failedUnit f)]
  else if f.cause = .assay then [execRollback cluster, execKill f.rqtag f.unit]
  else if f.replay then [execFaultResolved f.id, execReplayTimeout f.id]
  else [execGridFail f.id]

/-- Steps of clusters of assay contexts (R386). -/
def clusterTurns (s : State) (c : Cluster) : List Act :=
  if recAssay (s.grid c.lid).record then [execSnapshotTimer c.uid, execSnapshot c.uid] else []

/-- Steps of dies, granules, cores, firmware, tests and boot (R55, R340, R368, R383, R400, R402). -/
def dieTurns (s : State) : List Act :=
  s.granules.flatMap (fun p => if p.2.moving.isSome then [execClaim p.1] else []) ++
  s.forwards.map (fun f => execForwardPointerExpiry f.die f.gran) ++
  (if s.granules.isEmpty then [] else (List.range 16).map (fun d => execGranuleCountHalving d)) ++
  s.cores.flatMap (fun p => p.2.fills.map (fun l => execL1InstructionCacheFill p.1 l) ++ (if p.2.testDue.isSome then [execSelfTestPreempt p.1] else [])) ++
  (if s.hub.update.isSome then [endUpdate] else []) ++ s.mgmt.restoring.map (fun r => endRestore r.unit) ++
  (if s.hub.stage = 2 then [execDiscoveryBuild] else []) ++ (if s.hub.stage = 5 then [execPcieEnable] else [])

/-- Every step of the machine's own agents that could be due. What the outside gives, what a supply, a sensor, a scrub or a test finds, evictions and
fills of translations are left to the agenda (log 2, log 22). -/
def ownTurns (s : State) : List Act :=
  let gs := s.allGroups.filter (fun g => g.uid != 0)
  s.reqs.flatMap reqTurns ++ gs.flatMap groupTurns ++ ropTurns s ++ s.teams.flatMap teamTurns ++ engineTurns s ++ storeTurns s ++
    s.waiters.flatMap waiterTurns ++ s.monitors.flatMap (fun m => [execMonitorWake m.id, execMonitorRecheck m.id]) ++ s.faults.flatMap (faultTurns s) ++
    gridTurns s ++ s.clusters.flatMap (clusterTurns s) ++ dieTurns s ++ (if s.mgmt.queue.isEmpty then [] else [serveAsk])

/-! What acts from outside -/

/-- What acts from outside (log 22, log 25). -/
def takeOutside (o : Outside) (s : State) : Out3 :=
  match o with
  | .shadow g wrote sent => execShadow g wrote sent s
  | .pass quad again => execPassAgain quad again s
  | .upset u => execUpset u s
  | .ask a => .next (s.ask a)
  | .bar0Read hub off => readBar0 hub off s
  | .bar4Read hub off => readBar4 hub off s
  | .bar4Write hub off x => writeBar4 hub off x s
  | .msix on n => setMsix on n s
  | .tdisp runs ide => setTdisp runs ide s

/-! The turn -/

/-- A step changes more than the counter of free values. -/
def moves (s t : State) : Bool := decide ({ t with free := s.free } ≠ s)

/-- The first of some steps that changes the machine. -/
def firstMove (s : State) : List Act → Option State
  | [] => none
  | i :: rest =>
    match i s with
    | .next t => if moves s t then some t else firstMove s rest
    | _ => firstMove s rest

/-- True for a bench with a group that can form a bundle, or that has one marked issuable. -/
def State.benchWants (s : State) (b : Nat) : Bool := (s.groupsAt b).any (fun g => g.since.isSome || g.lanes.any (fun x => x.candidate s.cycle))

/-- The lowest bench from bench `lo` on that has something to issue. -/
def State.nextBench (s : State) (lo : Nat) : Option Nat :=
  (s.allGroups.filter (fun g => g.uid != 0 && decide (lo ≤ g.bench))).foldl (fun m g =>
    if s.benchWants g.bench then
      match m with
      | some b => some (min b g.bench)
      | none => some g.bench
    else m) none

/-- The machine's own accesses have found the answers that were refused to them; a refused one leaves no entry (R364, R365). -/
def State.forgetOwn (s : State) : State := { s with tlbs := s.tlbs.filter (fun e => !(e.szlg == 0 && decide (5120 ≤ e.unit))) }

/-- The end of a core cycle: the JOIN episodes that are over close, with every lane that reached them in it (R20), every shadow has caught up, except in a
`lag` (log 21), and the tests of idle units begin (R383, R402). -/
def State.tick (s : State) (shadows : Bool) : State :=
  let f (g : Group) : Group := closeDue s.cycle (if shadows then catchUp s g else if s.isAssay g.uid then g.settle else g)
  let s1 := s.beginTests.forgetOwn
  { s1 with cycle := s.cycle + 1, turn := 0, grp := f s.grp, groups := s.groups.map f }

/-- The benches from bench `lo` on take their turns; after the last the core cycle ends. -/
def benchTurn (lo : Nat) (s : State) : Out3 :=
  match s.nextBench lo with
  | some b => issueBench b { s with turn := b + 2 }
  | none => .next (s.tick true)

/-- The default turn (log 2). -/
def defaultTurn (s : State) : Out3 :=
  if s.turn < 2 then
    match firstMove s ((if s.turn = 0 then ownTurns s else []) ++ arrivalTurns s) with
    | some t => .next t
    | none => benchTurn 0 s
  else benchTurn (s.turn - 1) s

/-- A turn that the agenda names (log 1). -/
def takeTurn (t : Turn) (s : State) : Out3 :=
  match t with
  | .event i => if isManagement i then serveAsk (s.ask (.command i)) else if Enc.isEvent i then exec i s else .next s
  | .issue b => issueBench b { s with turn := max s.turn (b + 2) }
  | .second u m pc => issueSecond u m pc s
  | .tick => .next (s.tick true)
  | .lag => .next (s.tick false)
  | .outside o => takeOutside o s

end Sys2Proof.Machine
end

