-- ==== Sys2Proof/Machine/Step.lean ====
section
/-! DEFINITION. One step of the machine, and a state whose next step issues a given instruction. -/

namespace Sys2Proof.Machine

/-- One step: the turn at the head of the agenda, or the default turn (log 1, log 2). -/
def step (s : State) : Host.Outcome State Fault Refusal :=
  match s.agenda with
  | t :: rest => takeTurn t { s with agenda := rest }
  | [] => defaultTurn s

/-! Loading an instruction (log 3) -/

/-- Where the load puts the root table, the tables below it, and the code; the code's VA is its PA. -/
def loadRoot : Nat := 0x10000
def loadCode : Nat := 0x20000

/-- The launch record of the load: one group of the whole register pool. -/
def loadRecord : BitVec 2048 := BitVec.ofNat 2048 (loadCode + 1536 * 2 ^ 160 + 1 * 2 ^ 176 + 1 * 2 ^ 184)

/-- The context of the load: its root table; every other field is zero, and nothing is mapped at VA 0. -/
def loadCtx : Ctx := { asid := 1, va := 0, desc := BitVec.ofNat 1024 loadRoot, faultN := 0 }

/-- The four table entries that map the code page, readable, writable and executable by users (R362). -/
def loadTables : List (Nat × Nat) :=
  [(loadRoot, loadRoot + 0x1000 + 1), (loadRoot + 0x1000, loadRoot + 0x2000 + 1), (loadRoot + 0x2000, loadRoot + 0x3000 + 1),
   (loadRoot + 0x3000 + 8 * (loadCode / 65536), loadCode + 15)]

/-- The grid of the load. -/
def loadGrid (lid : Nat) : Grid := { (default : Grid) with lid := lid, record := loadRecord, asid := 1 }

/-- The team of the load: core 0 of die 0, with every barrier and ring object. -/
def loadTeam (uid lid cl : Nat) : Team :=
  { (default : Team) with uid := uid, lid := lid, cluster := cl, clsize := 4, bars := List.replicate 48 default, rings := List.replicate 16 default }

/-- The group of the load: 64 lanes at the code. -/
def loadGroup (uid tm : Nat) : Group :=
  { Group.none with
    uid := uid, team := tm, order := uid, vcount := 1536, lanes := List.replicate 64 (Lane.start (BitVec.ofNat 64 loadCode)) }

/-- The memory with the tables, and an instruction of 20 bytes at the code. -/
def loadMem (m : List Host.Cell) (v : Nat) : List Host.Cell :=
  wrBytes (loadTables.foldl (fun m p => wrBytes m p.1 8 p.2) m) loadCode 20 v

/-- `s` with an instruction of `nbits` bits loaded, bits above them zero, in a group whose bench issues next (log 3): its tables, context, grid, team and group,
and its line in the L1 instruction cache. -/
def State.withFetchWord (s : State) (nbits w : Nat) : State :=
  let n := s.nextId
  let others := (if s.grp.uid = 0 then s.groups else s.grp :: s.groups).filter (fun g => g.bench != 0)
  let s1 := { s with
    grp := loadGroup n (n + 1), groups := others, teams := loadTeam (n + 1) (n + 2) (n + 3) :: s.teams, grids := loadGrid (n + 2) :: s.grids,
    ctxs := loadCtx :: s.ctxs, tlbs := s.tlbs.filter (fun e => e.asid != 1), hostMode := false, mem := loadMem s.mem (w % 2 ^ nbits),
    nextId := n + 4, agenda := [.issue 0] }
  s1.onCore 0 (fun c => { c with icache := addWay icSet 8 (lineOf loadCode) c.icache })

end Sys2Proof.Machine
end

