-- ==== Sys2Proof/WellFormed.lean ====
section
/-! DEFINITION. Which instructions are well formed: their fields lie in the ranges the form can encode, unused fields hold zero,
and no ILLEGAL condition of R182, step 2, that depends on the words alone holds. -/

namespace Sys2Proof

namespace Enc

/-- A base field within its range (R168, R169). -/
def slotBaseOk (s : Slot) (o : Operand) : Bool :=
  match s with
  | .no => o = .none
  | .num n _ => match o with | .num x => x < 64 && low n x == x | _ => false
  | .opd c _ =>
    match c with
    | .pred => match o with | .prd n => n < 8 | _ => false
    | .scl => match o with | .scl _ => true | _ => false
    | .ssrc => match o with | .scl _ => true | _ => false
    | .off => match o with | .num x => x < 64 | _ => false
    | _ => match o with | .vec n => n < 64 | _ => false

/-- An operand an 11-bit code can name (R171, Table 6). -/
def codable (o : Operand) : Bool :=
  match o with
  | .vec n => n < 0x600
  | .gap c => 0x50 ≤ c
  | .none => false
  | .num _ => false
  | .lit _ => false
  | _ => true

/-- An extended field within its range (R170). -/
def slotExtOk (s : Slot) (o : Operand) : Bool :=
  match s with
  | .no => o = .none
  | .num _ n => if n = 0 then o = .none else match o with | .num x => low n x == x | _ => false
  | .opd _ _ => codable o

/-- True for the literal operand. -/
def isLit (o : Operand) : Bool :=
  match o with
  | .lit _ => true
  | _ => false

/-- A one-bit number. -/
def numBit (o : Operand) : Bool :=
  match o with
  | .num x => x < 2
  | _ => false

/-- The register operand of a base GETS or SETS with its HI bit (R208, R209). -/
def getsOk (r c : Operand) : Bool :=
  match r with
  | .scl _ => c = .num 0
  | .vec n => n < 64 && numBit c
  | _ => false

/-- The ranges of the fields of a base form, LEN 00 or 01. -/
def baseOk (k : Key) (s : Sig) (f : Fields) : Bool :=
  let noGuard := f.gd = ⟨0, false⟩
  let bOk (plain : Bool) : Bool := if f.form.hasLit && takesLit s.b then isLit f.b else plain
  f.ty = s.tys.headD 0 && f.md = (if s.fp then 5 &&& s.mods else 0) && f.lit = 0 && k.sub = 0 && (s.fmt = .b3 || k.fn = 0) &&
  match s.fmt with
  | .b3 => slotBaseOk s.d f.d && slotBaseOk s.a f.a && bOk (slotBaseOk s.b f.b) && f.c = .none && f.gd.p < 8 && f.gd.neg = false &&
           f.imm = 0
  | .bi =>
    noGuard && f.imm < 0x1000 &&
    (if k.maj = 0x13 then getsOk f.d f.c && f.a = .none && f.b = .none
     else if k.maj = 0x14 then getsOk f.a f.c && f.d = .none && f.b = .none
     else slotBaseOk s.d f.d && slotBaseOk s.a f.a && f.c = .none &&
       (if immB k.maj.toNat then bOk (f.b = .none) && (f.form.hasLit == false || f.imm = 0) else f.b = .none))
  | .bj => f.d = .none && f.a = .none && f.b = .none && f.c = .none && f.gd.p < 8 && f.imm < 0x100000
  | .bo => f.d = .none && f.a = .none && f.b = .none && f.c = .none && noGuard
  | .bw => slotBaseOk s.d f.d && slotBaseOk s.a f.a && slotBaseOk s.b f.b && slotBaseOk s.c f.c && noGuard && f.imm = 0
  | .x => false

/-- The ranges of the fields of an extended form, LEN 10 or 11. -/
def extOk (k : Key) (s : Sig) (f : Fields) : Bool :=
  let branch := (k.maj == 0x01 || k.maj == 0x02) && f.form.hasLit
  let noImm := branch || (immB k.maj.toNat && f.form.hasLit)
  (s.tys ≠ [] || f.ty = 0) && f.md &&& s.mods = f.md &&
  f.imm &&& s.imm.setWidth 24 = f.imm && (noImm == false || f.imm = 0) && (branch || f.lit = 0) &&
  slotExtOk s.d f.d && slotExtOk s.a f.a &&
  (if f.form.hasLit && takesLit s.b then isLit f.b
   else if immB k.maj.toNat && (f.imm ≠ 0 || f.b = .none) then f.b = .none
   else slotExtOk s.b f.b && (immB k.maj.toNat == false || f.b ≠ .vec 0)) &&
  (if k.maj = 0x20 && f.imm = 0 then f.c = .none
   else if k.maj = 0x14 then numBit f.c
   else slotExtOk s.c f.c)

/-- Fields in range and free of every ILLEGAL condition of the words. -/
def partsOk (k : Key) (f : Fields) : Bool :=
  match sigFor f.form k with
  | none => false
  | some s => (if f.form.isExt then extOk k s f else baseOk k s f) && (check k s f).isNone

/-- Fields that use no operand, guard, type or MOD. -/
def plain (f : Fields) : Bool := f = { blank f.form with imm := f.imm }

end Enc

/-- A well-formed instruction. A step of another agent has no encoding and no field to check. -/
def Instr.wellFormed (i : Instr) : Bool :=
  match i with
  | .nop f => f = Enc.blank f.form
  | .tgt f => Enc.plain f && (f.form.isExt == false || f.imm = 0)
  | .dual _ x y => !Enc.fnGap x.maj x.fn && !Enc.fnGap y.maj y.fn
  | .pfi f => f.form = .base && Enc.plain f
  | .pfiX f =>
    f.form.isExt && f = { Enc.blank f.form with gd := f.gd, md := f.md, imm := f.imm, lit := f.lit } && f.md < 8 &&
    (if f.form.hasLit then f.imm = 0 else f.imm < 0x10000 && f.lit = 0)
  | .pfdL1 f => pfd f
  | .pfdSlice f => pfd f
  | .yield f => f.form.isExt == false && f = Enc.blank f.form
  | .hint f =>
    f.form.isExt == false && f = { Enc.blank f.form with gd := f.gd, imm := f.imm } && f.gd.p < 8 && f.gd.neg = false && f.imm < 0x1000
  | i =>
    match Enc.parts i with
    | some (k, f) => Enc.partsOk k f
    | none => Enc.isEvent i
where
  pfd (f : Fields) : Bool :=
    Enc.pfdBase f.a && f = { Enc.blank f.form with a := f.a, gd := f.gd, imm := f.imm } &&
    (if f.form.isExt then f.imm < 0x10000 && Enc.codable f.a
     else f.imm = 0 && f.gd.p < 8 && f.gd.neg = false && Enc.slotBaseOk (.opd .vec .two) f.a)

end Sys2Proof
end

