-- ==== Sys2Proof/Safety.lean ====
section
/-! DEFINITION. What counts as a safe step, the invariant of memory, and the terms the statements use: operand values as words, effects element by
element, and what a step may change. -/

namespace Sys2Proof.Machine

/-- A step goes on: it ends in a next state. The spec takes every condition as an exception and names no state in which the module stops
(R183, R32, R358). -/
def goesOn (o : Out3) : Prop := ∃ t, o = .next t

/-- Memory keeps its canonical form: addresses rise and no listed byte reads as an unlisted one does. -/
def State.Inv (s : State) : Prop := Memory.wf s.mem = true

/-! Operand values -/

/-- The word an operand supplies to a lane in a type of one register (R172). -/
def wordOf (g : Group) (t : Ty) (o : Operand) (x : Lane) : Word := BitVec.ofNat 32 (srcVal g t x o)

/-- The 64 bits an operand supplies to a lane in a pair type (R172). -/
def pairOf (g : Group) (t : Ty) (o : Operand) (x : Lane) : DWord := BitVec.ofNat 64 (srcVal g t x o)

/-- An operation at the element width of a packed type, element by element with nothing carried between them, and at 32 bits otherwise (R194). -/
def byElems (t : Ty) (h : (w : Nat) → BitVec w → BitVec w → BitVec w) (a b : Word) : Word :=
  match t with
  | .i16x2 => h 16 (a.extractLsb' 16 16) (b.extractLsb' 16 16) ++ h 16 (a.extractLsb' 0 16) (b.extractLsb' 0 16)
  | .i8x4 =>
    (h 8 (a.extractLsb' 24 8) (b.extractLsb' 24 8) ++ h 8 (a.extractLsb' 16 8) (b.extractLsb' 16 8)) ++
      (h 8 (a.extractLsb' 8 8) (b.extractLsb' 8 8) ++ h 8 (a.extractLsb' 0 8) (b.extractLsb' 0 8))
  | _ => h 32 a b

/-- An integer clamped to the signed values of width w, as a pattern (R196). -/
def clampS (w : Nat) (z : Int) : BitVec w := BitVec.ofInt w (max (-(2 ^ (w - 1) : Nat)) (min ((2 ^ (w - 1) : Nat) - 1) z))

/-- The next state of an instruction that acts lane by lane: each guard-true lane of the bundle takes `h`, and every lane of the bundle moves past it. -/
def doneLanes (f : Fields) (s : State) (h : Lane → Lane) : Out3 := .next (s.lanewise f (fun _ x => h x))

/-- The next state of a scalar instruction: scalar `d` takes `v` when some lane of the bundle has a true guard, and every lane moves past it (R186). -/
def doneScalar (f : Fields) (s : State) (d : BitVec 6) (v : DWord) : Out3 :=
  .next ((if s.anyActive f.gd then s.setScl d.toNat v else s).advance f.form.len)

/-- A comparison of two patterns of one width; `uns` makes LT, LE, GT and GE unsigned (R201). -/
def compares {w : Nat} (c : Cond) (uns : Bool) (a b : BitVec w) : Bool :=
  match c with
  | .eq => a == b
  | .ne => a != b
  | .lt => if uns then a.ult b else a.slt b
  | .le => if uns then a.ule b else a.sle b
  | .gt => if uns then b.ult a else b.slt a
  | .ge => if uns then b.ule a else b.sle a
  | .ult => a.ult b
  | .ule => a.ule b

/-- The lowest bit and the bit above the highest of the field that B names for BFE, BFES and BFI; equal when it is empty (R200). -/
def fieldLo (b : Word) : Nat := (b.extractLsb' 0 6).toNat
def fieldEnd (b : Word) : Nat :=
  if 32 ≤ fieldLo b ∨ (b.extractLsb' 8 6).toNat < fieldLo b then fieldLo b else min (b.extractLsb' 8 6).toNat 31 + 1

/-! Floating point -/

/-- The real number a finite pattern of a format stands for; none for an infinity or a NaN (R88). -/
def realOf (t : Fp.Format) (x : Nat) : Option Rat :=
  let mag := x % 2 ^ (t.eb + t.fb)
  let ex := mag / 2 ^ t.fb
  let fr := mag % 2 ^ t.fb
  let sign : Rat := if x / 2 ^ (t.eb + t.fb) % 2 = 1 then -1 else 1
  if ex = 2 ^ t.eb - 1 then none
  else if ex = 0 then some (sign * fr * (2 : Rat) ^ (2 - 2 ^ (t.eb - 1) - t.fb : Int))
  else some (sign * (2 ^ t.fb + fr : Nat) * (2 : Rat) ^ (ex + 1 - 2 ^ (t.eb - 1) - t.fb : Int))

/-- A NaN, a signaling NaN, an infinity (R88, R92). -/
def isNaN (t : Fp.Format) (x : Nat) : Bool := decide (t.infBits < x % t.signBit)
def isSNaN (t : Fp.Format) (x : Nat) : Bool := isNaN t x && !x.testBit (t.fb - 1)
def isInfinity (t : Fp.Format) (x : Nat) : Bool := x % t.signBit == t.infBits
def isZeroPat (t : Fp.Format) (x : Nat) : Bool := x % t.signBit == 0
def isNegPat (t : Fp.Format) (x : Nat) : Bool := x.testBit (t.eb + t.fb)

/-- A key that orders the patterns that are no NaN as their values, −0 below +0 (R216); and one in which the zeros are equal (R221). -/
def orderKey (t : Fp.Format) (x : Nat) : Int := if isNegPat t x then -(x % t.signBit : Nat) - 1 else (x % t.signBit : Nat)
def valueKey (t : Fp.Format) (x : Nat) : Int := if isNegPat t x then -(x % t.signBit : Nat) else (x % t.signBit : Nat)

/-- A real number rounded to an integer by a rounding of R90. -/
def roundInt (rm : Nat) (p : Rat) : Int :=
  let lo := p.floor
  let r := p - lo
  match rm with
  | 0 => if r < 1 / 2 then lo else if 1 / 2 < r then lo + 1 else if lo % 2 = 0 then lo else lo + 1
  | 1 => if p < 0 then p.ceil else lo
  | 2 => p.ceil
  | 3 => lo
  | _ => if p < 0 then (p - 1 / 2).ceil else (p + 1 / 2).floor

/-- No subnormal is flushed (R91), and no enabled exception can be taken (R30, R32). -/
def noFlush (g : Group) (f : Fields) : Prop := f.md.getLsbD 4 = false ∧ bitAt g.fmode 3 = false
def quietTraps (g : Group) : Prop := g.trapen.setWidth 5 = (0 : BitVec 5) ∨ g.trapv = 0

/-- A register, or a pair, of a lane takes a value. -/
def putReg (wide : Bool) (n : BitVec 11) (v : DWord) (x : Lane) : Lane :=
  if wide then x.setPair n.toNat v else x.setReg n.toNat (v.setWidth 32)

/-- Instruction `i` completes: every guard-true lane of the bundle writes a result to vector register or pair `n` and adds its flags to `FFLAGS`, every lane
of the bundle moves past it, nothing else changes, and lane number, lane, result and flags satisfy `q` (R183, R214). -/
def givesFp (i : Instr) (f : Fields) (s : State) (wide : Bool) (n : BitVec 11) (q : Nat → Lane → Nat → FFlags → Prop) : Prop :=
  ∃ (v : Nat → Lane → DWord) (e : Nat → Lane → FFlags),
    exec i s = .next (s.lanewise f (fun l x => { putReg wide n (v l x) x with fflags := x.fflags ||| e l x })) ∧
      ∀ l x, q l x (v l x).toNat (e l x)

/-- The 32-bit lanes' view of a packed half. -/
def halfOf (i x : Nat) : Nat := x / 2 ^ (16 * i) % 2 ^ 16

/-! What a step may change -/

/-- `g` is a resident group and no other has its number. -/
def State.only (s : State) (g : Group) : Prop := g ∈ s.allGroups ∧ ∀ y ∈ s.allGroups, y.uid = g.uid → y = g

/-- `t` differs from `s` in the lanes of the issuing group alone. -/
def onlyLanes (s t : State) : Prop := t = { s with grp := { s.grp with lanes := t.grp.lanes } }

/-- `y` differs from `x` in PC, vector registers, predicates and exception flags alone. -/
def onlyRegs (x y : Lane) : Prop := y = { x with pc := y.pc, v := y.v, preds := y.preds, fflags := y.fflags }

/-- What issuing a counted access leaves and changes (R81, R244 to R255): memory, the buffers and every register are as before, lanes outside the bundle are untouched,
guard-false lanes move past, and the guard-true ones move past too, or wait as COUNTING at the instruction while a release that the order asks for lasts; one more operation
of the class is counted. -/
def issued (s t : State) (f : Fields) (cls : Nat) : Prop :=
  t.mem = s.mem ∧ t.poison = s.poison ∧ t.teams = s.teams ∧ t.grp.s = s.grp.s ∧ t.grp.lanes.length = s.grp.lanes.length ∧
  (relOf f = false → t.grp.ops = s.grp.ops ++ [{ id := s.nextId, cls := cls, open_ := false }]) ∧ t.grp.ops.length = s.grp.ops.length + 1 ∧
  ∀ l, l < s.grp.lanes.length →
    let x := s.laneAt l
    let y := t.laneAt l
    let next : DWord := x.pc + BitVec.ofNat 64 f.form.len
    (s.inBundle l = false → y = x) ∧ (s.inBundle l = true → guardOf f.gd x = false → y = { x with pc := next }) ∧
    (s.active f.gd l x = true → y.v = x.v ∧ y.preds = x.preds ∧ y.fflags = x.fflags ∧
      (relOf f = false → y.st = x.st ∧ y.pc = next) ∧
      (relOf f = true → (y.st = .counting ∧ y.pc = x.pc) ∨ (y.st = .eligible ∧ y.pc = s.bundle.pc + BitVec.ofNat 64 f.form.len)))

/-- What a request is, as its instruction names it: lane, kind, address, bytes, data. -/
def Req.face (r : Req) : Nat × Access × DWord × Nat × QWord := (r.lane, r.acc, r.va, r.n, r.data)

/-- The next number of the model is above those of every release and every entry that waits for a shadow. -/
def State.freshNumber (s : State) : Prop := ∀ g ∈ s.allGroups, (∀ r ∈ g.rels, r.id < s.nextId) ∧ ∀ e ∈ g.scb, e.id < s.nextId

/-- The issuing group owes nothing a release would wait for (R72): no access of its own or write of its core is on its way, the core holds no dirty byte and no partial, no release of the
group is in progress, and GTIME has reached `WCT` and the largest W that the core has seen. -/
def nothingOwed (s : State) : Prop :=
  let c := s.unitOf s.grp
  let now := s.gtime (s.dieOf s.grp)
  (∀ r ∈ s.reqs, r.gid ≠ s.grp.uid ∧ (r.isBuf = true ∨ r.core ≠ c ∨ r.acc.writes = false)) ∧ (s.core c).dirty = [] ∧ (∀ p ∈ s.partials, p.core ≠ c) ∧
    s.grp.rels = [] ∧ s.grp.wct ≤ now ∧ (s.core c).maxW ≤ now ∧ s.freshNumber

/-- The bundle's lanes in a next state: those of guard false move past the instruction, a guard-true lane becomes `h` of it, all others are untouched. -/
def moved (s : State) (f : Fields) (h : Nat → Lane → Lane) : List Lane :=
  mapLanes (fun l x => if s.inBundle l = false then x else if guardOf f.gd x = false then { x with pc := x.pc + BitVec.ofNat 64 f.form.len } else h l x) 0 s.grp.lanes

/-- The answer `v` of request `q` reached its lane (R82, R248): its destination registers hold it, or are marked when it arrived poisoned, they are pending no more, every other lane and
register is as before, and the request is gone. -/
def delivered (s t : State) (q : Req) (v : Nat) (hurt : Bool) : Prop :=
  (∀ p ∈ t.reqs, p.id ≠ q.id) ∧ ∀ g, s.only g → g.uid = q.gid → ∃ y ∈ t.allGroups, y.uid = g.uid ∧ y.s = g.s ∧ y.lanes.length = g.lanes.length ∧
    ∀ l, l < g.lanes.length →
      let x := g.lanes.getD l default
      let z := y.lanes.getD l default
      (l ≠ q.lane → z = x) ∧
      (l = q.lane → z.pc = x.pc ∧ z.st = x.st ∧ z.preds = x.preds ∧ z.pend = x.pend.filter (fun p => p.src != q.id) ∧
        (hurt = false ∨ q.ext.words_ = 0 → z.v = (x.setWords q.dst q.ext.words_ v).v ∧ z.marked = x.marked) ∧
        (hurt = true → 0 < q.ext.words_ → z.v = x.v ∧ ∃ m, z.marked = x.marked ++ [m] ∧ m.reg = q.dst ∧ m.n = q.ext.words_ ∧ m.rcause = 0 ∧ m.addr = q.va))

/-- Memory after `n` bytes at `a` took the bits `mask` of `d`: those bits there, every other byte as before. -/
def putBytes (m m' : List Host.Cell) (a n : Nat) (d mask : QWord) : Prop :=
  ∀ b, rdByte m' b = if a ≤ b ∧ b < a + n then
      (let i := 8 * (b - a)
       let old : QWord := (rdByte m b).setWidth 128 <<< i
       ((old &&& ~~~mask) ||| (d &&& mask)).extractLsb' i 8)
    else rdByte m b

/-- The registers an instruction may write: those its destination names, and the ones its entry names beside it (R176, R202). -/
def mayWrite (k : Key) (f : Fields) : List (Nat × Nat) :=
  let d := match Enc.sigFor f.form k with | some s => slotRegs k f s.d f.d | none => []
  if k.maj = 0x08 ∧ k.sub = 0 ∧ (k.fn = 2 ∨ k.fn = 3) then (0x647, 1) :: d
  else if k.maj = 0x0E ∧ k.fn = 7 then [(0x640, 16)]
  else d

/-- The register with operand code `c` is among `l` (R171). -/
def isIn (l : List (Nat × Nat)) (c : Nat) : Bool := l.any (fun r => decide (r.1 ≤ c ∧ c < r.1 + r.2))

/-- The instructions that act lane by lane on registers alone: the integer, floating-point and cross-lane majors, and the moves into vector registers. -/
def laneWise (k : Key) (f : Fields) : Bool :=
  let m := k.maj.toNat
  (decide (0x08 ≤ m) && decide (m ≤ 0x0F)) || (m == 0x11 && k.fn == 7) || m == 0x12 ||
    (m == 0x13 && (match f.d with | .vec _ => true | _ => false)) || m == 0x15 || m == 0x17 || (decide (0x19 ≤ m) && decide (m ≤ 0x25))

/-- The majors that may raise exception flags (R185, R213). -/
def mayFlag (k : Key) : Bool :=
  let m := k.maj.toNat
  (decide (0x19 ≤ m) && decide (m ≤ 0x1F)) || m == 0x22 || m == 0x23 || m == 0x24

/-- The value the 16 bits and the immediate of RGET and RSET name (R210). -/
def namedCode (f : Fields) (s : State) : Nat := (((sclVal s.grp f.a).extractLsb' 0 16 + f.imm.setWidth 16 : BitVec 16)).toNat

/-- The integer reductions: their operation and identity (R106, R237). -/
def redFold (o : RedOp) (a b : Word) : Word :=
  match o with
  | .imin => if a.sle b then a else b
  | .imax => if a.sle b then b else a
  | .and => a &&& b
  | .or => a ||| b
  | .xor => a ^^^ b
  | _ => a + b
def redStart (o : RedOp) : Word :=
  match o with
  | .imin => 0x7FFFFFFF
  | .imax => 0x80000000
  | .and => 0xFFFFFFFF
  | _ => 0
def isIntRed (o : RedOp) : Bool :=
  match o with
  | .fadd => false
  | .fmax => false
  | _ => true

/-- What lane `p` supplies to an integer reduction (Table 12 of 10_isa_vector_float_crosslane.md). -/
def redSupply (o : RedOp) (f : Fields) (s : State) (p : Nat × Lane) : Word :=
  if s.active f.gd p.1 p.2 then wordOf s.grp .i32 f.a p.2 else redStart o

end Sys2Proof.Machine
end

