-- ==== Sys2Proof/Certificates/Slice0/Obligations.lean ====
section
/-! DEFINITION. The statements for the provers: what each instruction and each step of an agent does, where it completes and what it leaves, and what the whole
machine keeps. -/

open Sys2Proof Sys2Proof.Machine

/-! Integers and scalars -/

/-- The saturating operations and the others of IARITH with two sources and no carry (R195, R196): the value each gives at one element width. IADDC and ISUBB (R195): the
sum or difference with p7, modulo 2^32, and the carry or borrow in p7. IMUL (R197): the low and high words of products, the multiply-add, and the quotients and
remainders with every corner the rule names. -/
def Obligations.IntegerArithmetic : Prop :=
  (∀ (f : Fields) (s : State) (n : BitVec 11), f.d = .vec n → f.ty ∈ Enc.tI4 →
    ∀ c ∈ ([
      (.iadd f, ⟨0x08, 0, 0⟩, fun _ a b => a + b),
      (.isub f, ⟨0x08, 1, 0⟩, fun _ a b => a - b),
      (.imin f, ⟨0x08, 4, 0⟩, fun _ a b => if a.sle b then a else b),
      (.imax f, ⟨0x08, 5, 0⟩, fun _ a b => if a.sle b then b else a),
      (.umin f, ⟨0x08, 6, 0⟩, fun _ a b => if a.ule b then a else b),
      (.umax f, ⟨0x08, 7, 0⟩, fun _ a b => if a.ule b then b else a),
      (.iadds f, ⟨0x08, 0, 1⟩, fun w a b => clampS w (a.toInt + b.toInt)),
      (.isubs f, ⟨0x08, 1, 1⟩, fun w a b => clampS w (a.toInt - b.toInt)),
      (.uadds f, ⟨0x08, 2, 1⟩, fun w a b => BitVec.ofNat w (min (a.toNat + b.toNat) (2 ^ w - 1))),
      (.usubs f, ⟨0x08, 3, 1⟩, fun _ a b => if a.ult b then 0 else a - b),
      (.iabs f, ⟨0x08, 4, 1⟩, fun w a _ => clampS w a.toInt.natAbs)] :
      List (Instr × Key × ((w : Nat) → BitVec w → BitVec w → BitVec w))),
      entryStop c.2.1 f s = none →
        exec c.1 s = doneLanes f s (fun x =>
          x.setReg n.toNat (byElems (tyOf f) c.2.2 (wordOf s.grp (tyOf f) f.a x) (wordOf s.grp (tyOf f) f.b x)))) ∧
  (∀ (f : Fields) (s : State) (n : BitVec 11), f.d = .vec n → f.ty ∈ Enc.tI2 →
    let a (x : Lane) : BitVec 34 := (wordOf s.grp (tyOf f) f.a x).setWidth 34
    let b (x : Lane) : BitVec 34 := (wordOf s.grp (tyOf f) f.b x).setWidth 34
    let p (x : Lane) : BitVec 34 := if x.pred 7 then 1 else 0
    (entryStop ⟨0x08, 2, 0⟩ f s = none → exec (.iaddc f) s = doneLanes f s (fun x =>
      (x.setReg n.toNat ((a x + b x + p x).setWidth 32)).setPred 7 ((a x + b x + p x).getLsbD 32))) ∧
    (entryStop ⟨0x08, 3, 0⟩ f s = none → exec (.isubb f) s = doneLanes f s (fun x =>
      (x.setReg n.toNat ((a x - b x - p x).setWidth 32)).setPred 7 ((a x - b x - p x).getLsbD 33)))) ∧
  (∀ (f : Fields) (s : State) (n : BitVec 11), f.d = .vec n → f.ty ∈ Enc.tI2 →
    ∀ c ∈ ([
      (.imul f, ⟨0x09, 0, 0⟩, fun a b _ => a * b),
      (.imulh f, ⟨0x09, 1, 0⟩, fun a b _ => (a.signExtend 64 * b.signExtend 64).extractLsb' 32 32),
      (.umulh f, ⟨0x09, 2, 0⟩, fun a b _ => (a.setWidth 64 * b.setWidth 64).extractLsb' 32 32),
      (.imad f, ⟨0x09, 3, 0⟩, fun a b c => a * b + c),
      (.idiv f, ⟨0x09, 4, 0⟩, fun a b _ => if b = 0 then 0xFFFFFFFF else if a = 0x80000000 ∧ b = -1 then 0x80000000 else a.sdiv b),
      (.udiv f, ⟨0x09, 5, 0⟩, fun a b _ => if b = 0 then 0xFFFFFFFF else a / b),
      (.irem f, ⟨0x09, 6, 0⟩, fun a b _ => if b = 0 then a else if a = 0x80000000 ∧ b = -1 then 0 else a - b * a.sdiv b),
      (.urem f, ⟨0x09, 7, 0⟩, fun a b _ => if b = 0 then a else a % b)] : List (Instr × Key × (Word → Word → Word → Word))),
      entryStop c.2.1 f s = none →
        exec c.1 s = doneLanes f s (fun x => x.setReg n.toNat
          (c.2.2 (wordOf s.grp (tyOf f) f.a x) (wordOf s.grp (tyOf f) f.b x) (wordOf s.grp (tyOf f) (third f) x))))

/-- LOGIC with SUB 0 (R198), bit by bit. LOP3 (R198): result bit i is IMM16 [a_i + 2·b_i + 4·c_i]. SHIFT (R199): shifts with every amount, rotations, bit reversal,
population count and leading zeros. PAND, POR, PXOR and PANDN with a literal in B's place (R167, R202): that the literal supplies its bit 0 is the model's reading
(log 48). -/
def Obligations.LogicAndShifts : Prop :=
  (∀ (f : Fields) (s : State) (n : BitVec 11), f.d = .vec n → f.ty ∈ Enc.tI4 →
    ∀ c ∈ ([
      (.and f, ⟨0x0A, 0, 0⟩, fun a b => a &&& b),
      (.or f, ⟨0x0A, 1, 0⟩, fun a b => a ||| b),
      (.xor f, ⟨0x0A, 2, 0⟩, fun a b => a ^^^ b),
      (.andn f, ⟨0x0A, 3, 0⟩, fun a b => a &&& ~~~b),
      (.orn f, ⟨0x0A, 4, 0⟩, fun a b => a ||| ~~~b),
      (.xnor f, ⟨0x0A, 5, 0⟩, fun a b => ~~~(a ^^^ b)),
      (.not f, ⟨0x0A, 6, 0⟩, fun a _ => ~~~a),
      (.mov f, ⟨0x0A, 7, 0⟩, fun a _ => a)] : List (Instr × Key × (Word → Word → Word))),
      entryStop c.2.1 f s = none →
        exec c.1 s = doneLanes f s (fun x =>
          x.setReg n.toNat (c.2.2 (wordOf s.grp (tyOf f) f.a x) (wordOf s.grp (tyOf f) f.b x)))) ∧
  (∀ (f : Fields) (s : State) (n : BitVec 11), f.d = .vec n → f.ty ∈ Enc.tI4 → entryStop ⟨0x0A, 0, 1⟩ f s = none →
    ∃ h : Lane → Word, exec (.lop3 f) s = doneLanes f s (fun x => x.setReg n.toNat (h x)) ∧
      ∀ x i, i < 32 →
        (h x).getLsbD i = f.imm.getLsbD (((wordOf s.grp (tyOf f) f.a x).getLsbD i).toNat +
          2 * ((wordOf s.grp (tyOf f) f.b x).getLsbD i).toNat + 4 * ((wordOf s.grp (tyOf f) (third f) x).getLsbD i).toNat)) ∧
  (∀ (f : Fields) (s : State) (n : BitVec 11), f.d = .vec n → f.ty ∈ Enc.tI2 →
    ∀ c ∈ ([
      (.shl f, ⟨0x0B, 0, 0⟩, fun a b => if 32 ≤ b.toNat then 0 else a <<< b.toNat),
      (.shr f, ⟨0x0B, 1, 0⟩, fun a b => if 32 ≤ b.toNat then 0 else a >>> b.toNat),
      (.sar f, ⟨0x0B, 2, 0⟩, fun a b => if 32 ≤ b.toNat then (if a.msb then 0xFFFFFFFF else 0) else a.sshiftRight b.toNat),
      (.rol f, ⟨0x0B, 3, 0⟩, fun a b => a.rotateLeft (b.toNat % 32)),
      (.ror f, ⟨0x0B, 4, 0⟩, fun a b => a.rotateRight (b.toNat % 32)),
      (.brev f, ⟨0x0B, 5, 0⟩, fun a _ => a.reverse),
      (.popc f, ⟨0x0B, 6, 0⟩, fun a _ => BitVec.ofNat 32 ((List.range 32).countP (fun i => a.getLsbD i))),
      (.clz f, ⟨0x0B, 7, 0⟩, fun a _ => BitVec.ofNat 32 (((List.range 32).find? (fun i => a.getLsbD (31 - i))).getD 32))] :
      List (Instr × Key × (Word → Word → Word))),
      entryStop c.2.1 f s = none →
        exec c.1 s = doneLanes f s (fun x =>
          x.setReg n.toNat (c.2.2 (wordOf s.grp (tyOf f) f.a x) (wordOf s.grp (tyOf f) f.b x)))) ∧
  (∀ (f : Fields) (s : State) (d a : BitVec 4) (v : BitVec 64), f.d = .prd d → f.a = .prd a → f.b = .lit v →
    let put (h : Lane → Bool) : Out3 := doneLanes f s (fun x => if d = 0 then x else x.setPred d.toNat (h x))
    (entryStop ⟨0x0E, 1, 0⟩ f s = none → exec (.pand f) s = put (fun x => x.pred a.toNat && v.getLsbD 0)) ∧
    (entryStop ⟨0x0E, 2, 0⟩ f s = none → exec (.por f) s = put (fun x => x.pred a.toNat || v.getLsbD 0)) ∧
    (entryStop ⟨0x0E, 3, 0⟩ f s = none → exec (.pxor f) s = put (fun x => x.pred a.toNat != v.getLsbD 0)) ∧
    (entryStop ⟨0x0E, 4, 0⟩ f s = none → exec (.pandn f) s = put (fun x => x.pred a.toNat && !v.getLsbD 0)))

/-- CTZ, BFE, BFES, LEA1 to LEA3 (R200). BFI and PRMT (R200), bit by bit: BFI takes a's low bits inside the field and c's bits outside it; PRMT takes byte i from the
byte that selector i names among a's and c's, or zero. -/
def Obligations.BitOperations : Prop :=
  (∀ (f : Fields) (s : State) (n : BitVec 11), f.d = .vec n → f.ty ∈ Enc.tI2 →
    ∀ c ∈ ([
      (.ctz f, ⟨0x0C, 0, 0⟩, fun a _ => BitVec.ofNat 32 (((List.range 32).find? (fun i => a.getLsbD i)).getD 32)),
      (.bfe f, ⟨0x0C, 1, 0⟩, fun a b => ((a >>> fieldLo b).setWidth (fieldEnd b - fieldLo b)).setWidth 32),
      (.bfes f, ⟨0x0C, 2, 0⟩, fun a b => ((a >>> fieldLo b).setWidth (fieldEnd b - fieldLo b)).signExtend 32),
      (.lea1 f, ⟨0x0C, 4, 0⟩, fun a b => (a <<< 1) + b),
      (.lea2 f, ⟨0x0C, 5, 0⟩, fun a b => (a <<< 2) + b),
      (.lea3 f, ⟨0x0C, 6, 0⟩, fun a b => (a <<< 3) + b)] : List (Instr × Key × (Word → Word → Word))),
      entryStop c.2.1 f s = none →
        exec c.1 s = doneLanes f s (fun x =>
          x.setReg n.toNat (c.2.2 (wordOf s.grp (tyOf f) f.a x) (wordOf s.grp (tyOf f) f.b x)))) ∧
  (∀ (f : Fields) (s : State) (n : BitVec 11), f.d = .vec n → f.ty ∈ Enc.tI2 →
    let a (x : Lane) : Word := wordOf s.grp (tyOf f) f.a x
    let b (x : Lane) : Word := wordOf s.grp (tyOf f) f.b x
    let c (x : Lane) : Word := wordOf s.grp (tyOf f) (third f) x
    (entryStop ⟨0x0C, 3, 0⟩ f s = none →
      ∃ h : Lane → Word, exec (.bfi f) s = doneLanes f s (fun x => x.setReg n.toNat (h x)) ∧
        ∀ x i, i < 32 → (h x).getLsbD i =
          if fieldLo (b x) ≤ i ∧ i < fieldEnd (b x) then (a x).getLsbD (i - fieldLo (b x)) else (c x).getLsbD i) ∧
    (entryStop ⟨0x0C, 7, 0⟩ f s = none →
      ∃ h : Lane → Word, exec (.prmt f) s = doneLanes f s (fun x => x.setReg n.toNat (h x)) ∧
        ∀ x i j, i < 4 → j < 8 → (h x).getLsbD (8 * i + j) =
          (!(b x).getLsbD (12 + i) && (c x ++ a x).getLsbD (8 * ((b x).extractLsb' (3 * i) 3).toNat + j))))

/-- ICMP and SCMP (R201, R205): the comparison in predicate D of every guard-true lane; a write to p0 is discarded. PRED FN 1 to 5 (R202): the logical operations on
predicates and PSET; a write to p0 is discarded. SEL, P2V and V2P (R202): SEL writes in every lane of the bundle, and G and GN select; P2V gathers the predicates,
bit 0 being 1; V2P scatters those bits 1 to 15 that B selects. -/
def Obligations.ComparisonsAndPredicates : Prop :=
  (∀ (f : Fields) (s : State) (p : BitVec 4) (c : Cond), f.d = .prd p →
    (entryStop ⟨0x0D, Enc.condFn c, 0⟩ f s = none → f.ty ∈ Enc.tIP →
      exec (.icmp c f) s = doneLanes f s (fun x => if p = 0 then x else x.setPred p.toNat
        (if Enc.isPairTy f.ty then compares c (f.ty == 3) (pairOf s.grp (tyOf f) f.a x) (pairOf s.grp (tyOf f) f.b x)
         else compares c (f.ty == 1) (wordOf s.grp (tyOf f) f.a x) (wordOf s.grp (tyOf f) f.b x)))) ∧
    (entryStop ⟨0x12, Enc.condFn c, 0⟩ f s = none →
      exec (.scmp c f) s = doneLanes f s (fun x => if p = 0 then x else x.setPred p.toNat
        (compares c false (sclVal s.grp f.a) (sclVal s.grp f.b))))) ∧
  (∀ (f : Fields) (s : State) (d : BitVec 4), f.d = .prd d →
    let put (h : Lane → Bool) : Out3 := doneLanes f s (fun x => if d = 0 then x else x.setPred d.toNat (h x))
    (∀ (a b : BitVec 4), f.a = .prd a → f.b = .prd b →
      (entryStop ⟨0x0E, 1, 0⟩ f s = none → exec (.pand f) s = put (fun x => x.pred a.toNat && x.pred b.toNat)) ∧
      (entryStop ⟨0x0E, 2, 0⟩ f s = none → exec (.por f) s = put (fun x => x.pred a.toNat || x.pred b.toNat)) ∧
      (entryStop ⟨0x0E, 3, 0⟩ f s = none → exec (.pxor f) s = put (fun x => x.pred a.toNat != x.pred b.toNat)) ∧
      (entryStop ⟨0x0E, 4, 0⟩ f s = none → exec (.pandn f) s = put (fun x => x.pred a.toNat && !x.pred b.toNat))) ∧
    (entryStop ⟨0x0E, 5, 0⟩ f s = none → exec (.pset f) s = put (fun x => wordOf s.grp .i32 f.a x != 0))) ∧
  (∀ (f : Fields) (s : State),
    (∀ n, f.d = .vec n → f.ty ∈ Enc.tSel → entryStop ⟨0x0E, 0, 0⟩ f s = none →
      exec (.sel f) s = .next (s.onLanes (fun l x =>
        if s.inBundle l then
          let o := if guardOf f.gd x then f.a else f.b
          { (if Enc.isPairTy f.ty then x.setPair n.toNat (pairOf s.grp (tyOf f) o x) else x.setReg n.toNat (wordOf s.grp (tyOf f) o x)) with
            pc := x.pc + BitVec.ofNat 64 f.form.len }
        else x))) ∧
    (∀ n, f.d = .vec n → entryStop ⟨0x0E, 6, 0⟩ f s = none →
      ∃ h : Lane → Word, exec (.p2v f) s = doneLanes f s (fun x => x.setReg n.toNat (h x)) ∧
        ∀ x i, i < 32 → (h x).getLsbD i = (decide (i < 16) && x.pred i)) ∧
    (entryStop ⟨0x0E, 7, 0⟩ f s = none →
      ∃ h : Lane → Lane, exec (.v2p f) s = doneLanes f s h ∧ ∀ x, (h x = { x with preds := (h x).preds }) ∧
        ∀ i, i < 16 → (h x).pred i =
          if 1 ≤ i ∧ (wordOf s.grp .i32 f.b x).getLsbD i then (wordOf s.grp .i32 f.a x).getLsbD i else x.pred i))

/-- I64 (R203): sums, shifts, widening products and moves of pairs. -/
def Obligations.SixtyFourBit : Prop :=
  ∀ (f : Fields) (s : State) (n : BitVec 11), f.d = .vec n →
    let q (o : Operand) (x : Lane) : DWord := pairOf s.grp .i64 o x
    let w (o : Operand) (x : Lane) : Word := wordOf s.grp .i32 o x
    ∀ c ∈ ([
      (.iadd64 f, ⟨0x0F, 0, 0⟩, fun x => q f.a x + q f.b x),
      (.isub64 f, ⟨0x0F, 1, 0⟩, fun x => q f.a x - q f.b x),
      (.shl64 f, ⟨0x0F, 2, 0⟩, fun x => if 64 ≤ (w f.b x).toNat then 0 else q f.a x <<< (w f.b x).toNat),
      (.shr64 f, ⟨0x0F, 3, 0⟩, fun x => if 64 ≤ (w f.b x).toNat then 0 else q f.a x >>> (w f.b x).toNat),
      (.sar64 f, ⟨0x0F, 4, 0⟩, fun x => if 64 ≤ (w f.b x).toNat then (if (q f.a x).msb then -1 else 0) else (q f.a x).sshiftRight (w f.b x).toNat),
      (.imulw f, ⟨0x0F, 5, 0⟩, fun x => (w f.a x).signExtend 64 * (w f.b x).signExtend 64),
      (.umulw f, ⟨0x0F, 6, 0⟩, fun x => (w f.a x).setWidth 64 * (w f.b x).setWidth 64),
      (.mov64 f, ⟨0x0F, 7, 0⟩, fun x => q f.a x)] : List (Instr × Key × (Lane → DWord))),
      entryStop c.2.1 f s = none → exec c.1 s = doneLanes f s (fun x => x.setPair n.toNat (c.2.2 x))

/-- MOVI and IADDI, S2V (R206, R204): with no code or literal in B the immediate is sext(IMM12) or sext(IMM16); a literal replaces it. SALU and SALU2, SMOVI and SADDI,
V2S (R186, R204, R206): the scalar takes the result once, when some lane of the bundle has a true guard. -/
def Obligations.ImmediatesAndScalars : Prop :=
  (∀ (f : Fields) (s : State) (n : BitVec 11), f.d = .vec n →
    let imm (w : Nat) : BitVec w := if f.form.isExt then (f.imm.setWidth 16).signExtend w else (f.imm.setWidth 12).signExtend w
    let b (x : Lane) : Word := if f.b = .none then imm 32 else wordOf s.grp (tyOf f) f.b x
    (entryStop ⟨0x15, 0, 0⟩ f s = none → f.ty ∈ Enc.tSel →
      exec (.movi f) s = doneLanes f s (fun x =>
        if Enc.isPairTy f.ty then x.setPair n.toNat (if f.b = .none then imm 64 else pairOf s.grp (tyOf f) f.b x)
        else x.setReg n.toNat (b x))) ∧
    (entryStop ⟨0x17, 0, 0⟩ f s = none → f.ty ∈ Enc.tI2 →
      exec (.iaddi f) s = doneLanes f s (fun x => x.setReg n.toNat (wordOf s.grp (tyOf f) f.a x + b x))) ∧
    (entryStop ⟨0x11, 7, 0⟩ f s = none → f.ty ∈ Enc.tIP →
      exec (.s2v f) s = doneLanes f s (fun x =>
        if Enc.isPairTy f.ty then x.setPair n.toNat (sclVal s.grp f.a) else x.setReg n.toNat ((sclVal s.grp f.a).setWidth 32)))) ∧
  (∀ (f : Fields) (s : State) (d : BitVec 6), f.d = .scl d →
    let a := sclVal s.grp f.a
    let b := sclVal s.grp f.b
    let imm : DWord := if f.form.isExt then (f.imm.setWidth 16).signExtend 64 else (f.imm.setWidth 12).signExtend 64
    let i := if f.b = .none then imm else b
    (∀ c ∈ ([
      (.sadd f, ⟨0x10, 0, 0⟩, a + b), (.ssub f, ⟨0x10, 1, 0⟩, a - b), (.smul f, ⟨0x10, 2, 0⟩, a * b),
      (.sand f, ⟨0x10, 3, 0⟩, a &&& b), (.sor f, ⟨0x10, 4, 0⟩, a ||| b), (.sxor f, ⟨0x10, 5, 0⟩, a ^^^ b),
      (.sshl f, ⟨0x10, 6, 0⟩, if 64 ≤ b.toNat then 0 else a <<< b.toNat),
      (.sshr f, ⟨0x10, 7, 0⟩, if 64 ≤ b.toNat then 0 else a >>> b.toNat),
      (.ssar f, ⟨0x11, 0, 0⟩, if 64 ≤ b.toNat then (if a.msb then -1 else 0) else a.sshiftRight b.toNat),
      (.smin f, ⟨0x11, 1, 0⟩, if a.sle b then a else b), (.smax f, ⟨0x11, 2, 0⟩, if a.sle b then b else a),
      (.sminu f, ⟨0x11, 3, 0⟩, if a.ule b then a else b), (.smaxu f, ⟨0x11, 4, 0⟩, if a.ule b then b else a),
      (.smov f, ⟨0x11, 5, 0⟩, a), (.smovi f, ⟨0x16, 0, 0⟩, i), (.saddi f, ⟨0x18, 0, 0⟩, a + i)] : List (Instr × Key × DWord)),
      entryStop c.2.1 f s = none → exec c.1 s = doneScalar f s d c.2.2) ∧
    (entryStop ⟨0x11, 6, 0⟩ f s = none →
      exec (.v2s f) s = doneScalar f s d (match s.elect f.gd with
        | some e => (wordOf s.grp .i32 f.a e.2).setWidth 64
        | none => 0)))

/-! Floating point. Each statement holds where no exception is enabled, so that no trap follows; `Obligations.FloatingTrap` states the trap. -/

/-- FADD, FSUB, FMUL, FFMA and FDIV (R215, R222): a result that is representable and not zero is returned exactly with no flag, in every rounding. -/
def Obligations.FloatingExact : Prop :=
  ∀ (f : Fields) (s : State) (n : BitVec 11), f.d = .vec n → f.ty ∈ Enc.tF → quietTraps s.grp → noFlush s.grp f →
    let t := fmtOf f
    let a (x : Lane) : Option Rat := realOf t (srcVal s.grp (tyOf f) x f.a)
    let b (x : Lane) : Option Rat := realOf t (srcVal s.grp (tyOf f) x f.b)
    let c (x : Lane) : Option Rat := realOf t (srcVal s.grp (tyOf f) x (third f))
    let is (_ : Lane) (v : Nat) (e : FFlags) (r : Rat) : Prop := r ≠ 0 → ∀ d, d < 2 * t.signBit → realOf t d = some r → v = d ∧ e = 0
    (entryStop ⟨0x19, 0, 0⟩ f s = none → givesFp (.fadd f) f s (f.ty == 5) n (fun _ x v e => ∀ p q, a x = some p → b x = some q → is x v e (p + q))) ∧
    (entryStop ⟨0x19, 1, 0⟩ f s = none → givesFp (.fsub f) f s (f.ty == 5) n (fun _ x v e => ∀ p q, a x = some p → b x = some q → is x v e (p - q))) ∧
    (entryStop ⟨0x19, 2, 0⟩ f s = none → givesFp (.fmul f) f s (f.ty == 5) n (fun _ x v e => ∀ p q, a x = some p → b x = some q → is x v e (p * q))) ∧
    (entryStop ⟨0x19, 3, 0⟩ f s = none → givesFp (.ffma f) f s (f.ty == 5) n (fun _ x v e =>
      ∀ p q r, a x = some p → b x = some q → c x = some r → is x v e (p * q + r))) ∧
    (entryStop ⟨0x1D, 0, 0⟩ f s = none → givesFp (.fdiv f) f s (f.ty == 5) n (fun _ x v e =>
      ∀ p q, a x = some p → b x = some q → q ≠ 0 → is x v e (p / q)))

/-- The special cases of FADD, FSUB, FMUL, FFMA and FDIV (R92, R215, R222): a NaN gives the canonical NaN and NV only when it signals; ∞ − ∞, 0 × ∞, 0/0 and
∞/∞ give the canonical NaN with NV; a finite number over zero gives an infinity with DZ; an exact zero sum is +0, −0 under rounding toward −∞. That the infinity of DZ is delivered under SAT too is the model's choice (log 11). Left
out here: the FFMA whose product and addend are infinities of opposite sign, and sums of two zeros. -/
def Obligations.FloatingSpecials : Prop :=
  ∀ (f : Fields) (s : State) (n : BitVec 11), f.d = .vec n → f.ty ∈ Enc.tF → quietTraps s.grp → noFlush s.grp f →
    let t := fmtOf f
    let a (x : Lane) : Nat := srcVal s.grp (tyOf f) x f.a
    let b (x : Lane) : Nat := srcVal s.grp (tyOf f) x f.b
    let c (x : Lane) : Nat := srcVal s.grp (tyOf f) x (third f)
    let nan (l : List Nat) (v : Nat) (e : FFlags) : Prop := l.any (isNaN t) → v = t.nanBits ∧ e = if l.any (isSNaN t) then flagNV else 0
    let invalid (v : Nat) (e : FFlags) : Prop := v = t.nanBits ∧ e = flagNV
    let zeroSum (x : Lane) (v : Nat) (e : FFlags) (sub : Bool) : Prop :=
      ∀ p q, realOf t (a x) = some p → realOf t (b x) = some q → (if sub then p - q else p + q) = 0 → p ≠ 0 →
        e = 0 ∧ v = if (fpMode s.grp f).rm = 3 then t.signBit else 0
    (entryStop ⟨0x19, 0, 0⟩ f s = none → givesFp (.fadd f) f s (f.ty == 5) n (fun _ x v e =>
      nan [a x, b x] v e ∧ zeroSum x v e false ∧
      (isInfinity t (a x) → isInfinity t (b x) → isNegPat t (a x) ≠ isNegPat t (b x) → invalid v e))) ∧
    (entryStop ⟨0x19, 1, 0⟩ f s = none → givesFp (.fsub f) f s (f.ty == 5) n (fun _ x v e =>
      nan [a x, b x] v e ∧ zeroSum x v e true ∧
      (isInfinity t (a x) → isInfinity t (b x) → isNegPat t (a x) = isNegPat t (b x) → invalid v e))) ∧
    (entryStop ⟨0x19, 2, 0⟩ f s = none → givesFp (.fmul f) f s (f.ty == 5) n (fun _ x v e =>
      nan [a x, b x] v e ∧ (isZeroPat t (a x) → isInfinity t (b x) → invalid v e) ∧ (isInfinity t (a x) → isZeroPat t (b x) → invalid v e))) ∧
    (entryStop ⟨0x19, 3, 0⟩ f s = none → givesFp (.ffma f) f s (f.ty == 5) n (fun _ x v e =>
      ((isZeroPat t (a x) ∧ isInfinity t (b x) ∨ isInfinity t (a x) ∧ isZeroPat t (b x)) → invalid v e) ∧
      (¬ (isZeroPat t (a x) ∧ isInfinity t (b x)) → ¬ (isInfinity t (a x) ∧ isZeroPat t (b x)) → nan [a x, b x, c x] v e))) ∧
    (entryStop ⟨0x1D, 0, 0⟩ f s = none → givesFp (.fdiv f) f s (f.ty == 5) n (fun _ x v e =>
      nan [a x, b x] v e ∧ (isZeroPat t (a x) → isZeroPat t (b x) → invalid v e) ∧ (isInfinity t (a x) → isInfinity t (b x) → invalid v e) ∧
      (∀ p, realOf t (a x) = some p → p ≠ 0 → isZeroPat t (b x) →
        e = flagDZ ∧ v = (if isNegPat t (a x) ≠ isNegPat t (b x) then t.signBit else 0) + t.infBits)))

/-- FMIN, FMAX, FMINM and FMAXM (R216): the lesser or the greater pattern with −0 below +0; the canonical NaN for a NaN in FMIN and FMAX and for two in FMINM and FMAXM,
which return the other operand for one; NV for a signaling NaN and no other flag. FABS, FNEG, FCOPYSIGN and FCLASS (R217, R218): the sign bit cleared, inverted or
copied, whatever the pattern, and the one bit of the class; no flag. FRND, FFRAC, FGETEXP and FSCALE (R217) on finite operands: the integral value by the rounding,
the fraction with the sign of a, the exponent, and the exact scaling. -/
def Obligations.FloatingSelection : Prop :=
  (∀ (f : Fields) (s : State) (n : BitVec 11), f.d = .vec n → f.ty ∈ Enc.tF → quietTraps s.grp → noFlush s.grp f →
    let t := fmtOf f
    let a (x : Lane) : Nat := srcVal s.grp (tyOf f) x f.a
    let b (x : Lane) : Nat := srcVal s.grp (tyOf f) x f.b
    let lo (x : Lane) : Nat := if orderKey t (a x) ≤ orderKey t (b x) then a x else b x
    let hi (x : Lane) : Nat := if orderKey t (a x) ≤ orderKey t (b x) then b x else a x
    let sig (x : Lane) (e : FFlags) : Prop := e = if isSNaN t (a x) || isSNaN t (b x) then flagNV else 0
    let plain (r : Lane → Nat) (x : Lane) (v : Nat) (e : FFlags) : Prop :=
      sig x e ∧ v = if isNaN t (a x) || isNaN t (b x) then t.nanBits else r x
    let number (r : Lane → Nat) (x : Lane) (v : Nat) (e : FFlags) : Prop :=
      sig x e ∧ v = if isNaN t (a x) then (if isNaN t (b x) then t.nanBits else b x) else if isNaN t (b x) then a x else r x
    (entryStop ⟨0x19, 4, 0⟩ f s = none → givesFp (.fmin f) f s (f.ty == 5) n (fun _ x v e => plain lo x v e)) ∧
    (entryStop ⟨0x19, 5, 0⟩ f s = none → givesFp (.fmax f) f s (f.ty == 5) n (fun _ x v e => plain hi x v e)) ∧
    (entryStop ⟨0x19, 6, 0⟩ f s = none → givesFp (.fminm f) f s (f.ty == 5) n (fun _ x v e => number lo x v e)) ∧
    (entryStop ⟨0x19, 7, 0⟩ f s = none → givesFp (.fmaxm f) f s (f.ty == 5) n (fun _ x v e => number hi x v e))) ∧
  (∀ (f : Fields) (s : State) (n : BitVec 11), f.d = .vec n → f.ty ∈ Enc.tF → quietTraps s.grp →
    let t := fmtOf f
    let top := t.eb + t.fb
    let a (x : Lane) : Nat := srcVal s.grp (tyOf f) x f.a
    let b (x : Lane) : Nat := srcVal s.grp (tyOf f) x f.b
    let signed (x : Lane) (v : Nat) (e : FFlags) (sg : Bool) : Prop :=
      e = 0 ∧ ∀ i, v.testBit i = if i = top then sg else (decide (i < top) && (a x).testBit i)
    (entryStop ⟨0x1A, 0, 0⟩ f s = none → givesFp (.fabs f) f s (f.ty == 5) n (fun _ x v e => signed x v e false)) ∧
    (entryStop ⟨0x1A, 1, 0⟩ f s = none → givesFp (.fneg f) f s (f.ty == 5) n (fun _ x v e => signed x v e (!(a x).testBit top))) ∧
    (entryStop ⟨0x1A, 7, 0⟩ f s = none → givesFp (.fcopysign f) f s (f.ty == 5) n (fun _ x v e => signed x v e ((b x).testBit top))) ∧
    (entryStop ⟨0x1A, 4, 0⟩ f s = none → givesFp (.fclass f) f s false n (fun _ x v e =>
      e = 0 ∧ v = 2 ^ (
        if isSNaN t (a x) then 8 else if isNaN t (a x) then 9
        else if isInfinity t (a x) then (if isNegPat t (a x) then 0 else 7)
        else if isZeroPat t (a x) then (if isNegPat t (a x) then 3 else 4)
        else if a x % t.signBit < 2 ^ t.fb then (if isNegPat t (a x) then 2 else 5)
        else if isNegPat t (a x) then 1 else 6)))) ∧
  (∀ (f : Fields) (s : State) (n : BitVec 11), f.d = .vec n → f.ty ∈ Enc.tF → quietTraps s.grp → noFlush s.grp f →
    let t := fmtOf f
    let pat (x : Lane) : Nat := srcVal s.grp (tyOf f) x f.a
    let a (x : Lane) : Option Rat := realOf t (pat x)
    (entryStop ⟨0x1A, 2, 0⟩ f s = none → givesFp (.frnd f) f s (f.ty == 5) n (fun _ x v e => ∀ p, a x = some p →
      e = 0 ∧ realOf t v = some (roundInt (fpMode s.grp f).rm p : Rat) ∧ isNegPat t v = isNegPat t (pat x))) ∧
    (entryStop ⟨0x1A, 3, 0⟩ f s = none → givesFp (.ffrac f) f s (f.ty == 5) n (fun _ x v e =>
      (∀ p, a x = some p → e = 0 ∧ realOf t v = some (p - (roundInt 1 p : Rat)) ∧ isNegPat t v = isNegPat t (pat x)) ∧
      (isInfinity t (pat x) → v = t.nanBits ∧ e = flagNV))) ∧
    (entryStop ⟨0x1A, 5, 0⟩ f s = none → givesFp (.fgetexp f) f s false n (fun _ x v e =>
      (∀ p, a x = some p → p ≠ 0 → e = 0 ∧ (2 : Rat) ^ (BitVec.ofNat 32 v).toInt ≤ |p| ∧ |p| < (2 : Rat) ^ ((BitVec.ofNat 32 v).toInt + 1)) ∧
      (isZeroPat t (pat x) → v = 0x80000000 ∧ e = flagNV) ∧ (a x = none → v = 0x7FFFFFFF ∧ e = flagNV))) ∧
    (entryStop ⟨0x1A, 6, 0⟩ f s = none → givesFp (.fscale f) f s (f.ty == 5) n (fun _ x v e => ∀ p, a x = some p → p ≠ 0 →
      ∀ d, d < 2 * t.signBit → realOf t d = some (p * (2 : Rat) ^ (wordOf s.grp .i32 f.b x).toInt) → v = d ∧ e = 0)))

/-- FSPEC: the special inputs of Table 6 (R220), the same for every input pattern in question, and the exact cases of R219. That FRCP, FRSQ and FLOG2 of zero give their
infinity under SAT too is the model's choice (log 11). Left out here: FSQRT of TYPE f64, and the error bounds of FSIN and FCOS. -/
def Obligations.FloatingSpecialFunctions : Prop :=
  ∀ (f : Fields) (s : State) (n : BitVec 11), f.d = .vec n → f.ty = 4 → quietTraps s.grp → noFlush s.grp f →
    let t := Fp.f32
    let a (x : Lane) : Nat := srcVal s.grp .f32 x f.a
    let nan (x : Lane) (v : Nat) (e : FFlags) : Prop := isNaN t (a x) → v = t.nanBits ∧ e = if isSNaN t (a x) then flagNV else 0
    let at_ (x : Lane) (v : Nat) (e : FFlags) (i r : Nat) (g : FFlags) : Prop := a x = i → v = r ∧ e = g
    let below (x : Lane) (v : Nat) (e : FFlags) : Prop := ∀ p, realOf t (a x) = some p → p < 0 → v = t.nanBits ∧ e = flagNV
    let exact (x : Lane) (v : Nat) (e : FFlags) (h : Rat → Rat → Prop) : Prop :=
      ∀ p d r, realOf t (a x) = some p → d < 2 ^ 32 → realOf t d = some r → r ≠ 0 → h p r → v = d ∧ e = 0
    (entryStop ⟨0x1B, 0, 0⟩ f s = none → givesFp (.frcp f) f s false n (fun _ x v e => nan x v e ∧
      at_ x v e 0 0x7F800000 flagDZ ∧ at_ x v e 0x80000000 0xFF800000 flagDZ ∧ at_ x v e 0x7F800000 0 0 ∧ at_ x v e 0xFF800000 0x80000000 0 ∧
      exact x v e (fun p r => p * r = 1))) ∧
    (entryStop ⟨0x1B, 1, 0⟩ f s = none → givesFp (.frsq f) f s false n (fun _ x v e => nan x v e ∧
      at_ x v e 0 0x7F800000 flagDZ ∧ at_ x v e 0x80000000 0xFF800000 flagDZ ∧ at_ x v e 0x7F800000 0 0 ∧ at_ x v e 0xFF800000 0x7FC00000 flagNV ∧
      below x v e ∧ exact x v e (fun p r => 0 < r ∧ p * (r * r) = 1))) ∧
    (entryStop ⟨0x1B, 2, 0⟩ f s = none → givesFp (.fsqrt f) f s false n (fun _ x v e => nan x v e ∧
      at_ x v e 0 0 0 ∧ at_ x v e 0x80000000 0x80000000 0 ∧ at_ x v e 0x7F800000 0x7F800000 0 ∧ at_ x v e 0xFF800000 0x7FC00000 flagNV ∧
      below x v e ∧ exact x v e (fun p r => 0 < r ∧ p = r * r))) ∧
    (entryStop ⟨0x1B, 3, 0⟩ f s = none → givesFp (.fexp2 f) f s false n (fun _ x v e => nan x v e ∧
      at_ x v e 0 0x3F800000 0 ∧ at_ x v e 0x80000000 0x3F800000 0 ∧ at_ x v e 0x7F800000 0x7F800000 0 ∧ at_ x v e 0xFF800000 0 0 ∧
      exact x v e (fun p r => ∃ z : Int, p = z ∧ r = (2 : Rat) ^ z))) ∧
    (entryStop ⟨0x1B, 4, 0⟩ f s = none → givesFp (.flog2 f) f s false n (fun _ x v e => nan x v e ∧
      at_ x v e 0 0xFF800000 flagDZ ∧ at_ x v e 0x80000000 0xFF800000 flagDZ ∧ at_ x v e 0x7F800000 0x7F800000 0 ∧
      at_ x v e 0xFF800000 0x7FC00000 flagNV ∧ below x v e ∧ exact x v e (fun p r => ∃ z : Int, r = z ∧ p = (2 : Rat) ^ z))) ∧
    (entryStop ⟨0x1B, 5, 0⟩ f s = none → givesFp (.fsin f) f s false n (fun _ x v e => nan x v e ∧
      at_ x v e 0 0 0 ∧ at_ x v e 0x80000000 0x80000000 0 ∧ at_ x v e 0x7F800000 0x7FC00000 flagNV ∧ at_ x v e 0xFF800000 0x7FC00000 flagNV)) ∧
    (entryStop ⟨0x1B, 6, 0⟩ f s = none → givesFp (.fcos f) f s false n (fun _ x v e => nan x v e ∧
      at_ x v e 0 0x3F800000 0 ∧ at_ x v e 0x80000000 0x3F800000 0 ∧ at_ x v e 0x7F800000 0x7FC00000 flagNV ∧
      at_ x v e 0xFF800000 0x7FC00000 flagNV)) ∧
    (entryStop ⟨0x1B, 7, 0⟩ f s = none → givesFp (.ftanh f) f s false n (fun _ x v e => nan x v e ∧
      at_ x v e 0 0 0 ∧ at_ x v e 0x80000000 0x80000000 0 ∧ at_ x v e 0x7F800000 0x3F800000 0 ∧ at_ x v e 0xFF800000 0xBF800000 0 ∧
      (∀ p, realOf t (a x) = some p → 9 ≤ |p| → v = if p < 0 then 0xBF800000 else 0x3F800000)))

/-- FCMP (R221): the eight conditions, −0 equal to +0; NV for any NaN in LT, LE, GT and GE and for a signaling one in the others. The flag is raised even
where the write to p0 is discarded. -/
def Obligations.FloatingCompare : Prop :=
  ∀ (c : FCond) (f : Fields) (s : State) (p : BitVec 4), f.d = .prd p → f.ty ∈ Enc.tF → quietTraps s.grp → noFlush s.grp f →
    entryStop ⟨0x1C, Enc.fCondFn c, 0⟩ f s = none →
    let t := fmtOf f
    let a (x : Lane) : Nat := srcVal s.grp (tyOf f) x f.a
    let b (x : Lane) : Nat := srcVal s.grp (tyOf f) x f.b
    let nan (x : Lane) : Bool := isNaN t (a x) || isNaN t (b x)
    let sig (x : Lane) : Bool := isSNaN t (a x) || isSNaN t (b x)
    let i (x : Lane) : Int := valueKey t (a x)
    let j (x : Lane) : Int := valueKey t (b x)
    let holds (x : Lane) : Bool := match c with
      | .eq => !nan x && i x == j x
      | .ne => nan x || i x != j x
      | .lt => !nan x && decide (i x < j x)
      | .le => !nan x && decide (i x ≤ j x)
      | .gt => !nan x && decide (j x < i x)
      | .ge => !nan x && decide (j x ≤ i x)
      | .unord => nan x
      | .ord => !nan x
    let loud : Bool := match c with | .lt | .le | .gt | .ge => true | _ => false
    exec (.fcmp c f) s = .next (s.lanewise f (fun _ x =>
      { (if p = 0 then x else x.setPred p.toNat (holds x)) with
        fflags := x.fflags ||| if (if loud then nan x else sig x) then flagNV else 0 }))

/-- HADD2, HMUL2, HFMA2, BADD2, BMUL2 and BFMA2 (R223), DOT2B and DOT2H (R225): exact results are returned exactly with no flag, element by element for the
packed operations. -/
def Obligations.PackedExact : Prop :=
  ∀ (f : Fields) (s : State) (n : BitVec 11), f.d = .vec n → quietTraps s.grp → noFlush s.grp f →
    let el (t : Fp.Format) (ty : Ty) (o : Operand) (k : Nat) (x : Lane) : Option Rat := realOf t (halfOf k (srcVal s.grp ty x o))
    let two (t : Fp.Format) (ty : Ty) (h : Rat → Rat → Option Rat → Option Rat) (x : Lane) (v : Nat) (e : FFlags) : Prop :=
      ∀ d, d < 2 ^ 32 →
        (∀ k, k < 2 → ∃ p q r, el t ty f.a k x = some p ∧ el t ty f.b k x = some q ∧ h p q (el t ty (third f) k x) = some r ∧ r ≠ 0 ∧
          realOf t (halfOf k d) = some r) → v = d ∧ e = 0
    let dot (t : Fp.Format) (ty : Ty) (x : Lane) (v : Nat) (e : FFlags) : Prop :=
      ∀ p q p' q' r d, el t ty f.a 0 x = some p → el t ty f.b 0 x = some q → el t ty f.a 1 x = some p' → el t ty f.b 1 x = some q' →
        realOf Fp.f32 (srcVal s.grp .f32 x (third f)) = some r → p * q + p' * q' + r ≠ 0 → d < 2 ^ 32 →
        realOf Fp.f32 d = some (p * q + p' * q' + r) → v = d ∧ e = 0
    (entryStop ⟨0x1D, 1, 0⟩ f s = none → givesFp (.hadd2 f) f s false n (fun _ => two Fp.f16 .f16x2 (fun p q _ => some (p + q)))) ∧
    (entryStop ⟨0x1D, 2, 0⟩ f s = none → givesFp (.hmul2 f) f s false n (fun _ => two Fp.f16 .f16x2 (fun p q _ => some (p * q)))) ∧
    (entryStop ⟨0x1D, 3, 0⟩ f s = none → givesFp (.hfma2 f) f s false n (fun _ => two Fp.f16 .f16x2 (fun p q r => r.map (fun z => p * q + z)))) ∧
    (entryStop ⟨0x1D, 4, 0⟩ f s = none → givesFp (.badd2 f) f s false n (fun _ => two Fp.bf16 .bf16x2 (fun p q _ => some (p + q)))) ∧
    (entryStop ⟨0x1D, 5, 0⟩ f s = none → givesFp (.bmul2 f) f s false n (fun _ => two Fp.bf16 .bf16x2 (fun p q _ => some (p * q)))) ∧
    (entryStop ⟨0x1D, 6, 0⟩ f s = none → givesFp (.bfma2 f) f s false n (fun _ => two Fp.bf16 .bf16x2 (fun p q r => r.map (fun z => p * q + z)))) ∧
    (entryStop ⟨0x1E, 2, 0⟩ f s = none → givesFp (.dot2b f) f s false n (fun _ => dot Fp.bf16 .bf16x2)) ∧
    (entryStop ⟨0x1E, 3, 0⟩ f s = none → givesFp (.dot2h f) f s false n (fun _ => dot Fp.f16 .f16x2))

/-- DOT4I and DOT4U (R224): the sum of the four products and c modulo 2^32, with signed or unsigned elements; no flag. QNT, DEQ, ROT and IROT (R229 to R232): with a unit
that divides the span and a matching tag they complete, writing the destination span of the guard-true lanes and nothing else; the tag is checked after the unit.
QNT's words hold a pattern and a scale byte; ROT and IROT copy the span under block code 0. SCALE (R97, R233): the exponent byte of a positive finite value, clamped
to 0 to 254; 0xFF with NV for a zero, negative or non-finite one; that FMODE.FTZ flushes nothing here is the model's choice (log 67). -/
def Obligations.BytesAndBlocks : Prop :=
  (∀ (f : Fields) (s : State) (n : BitVec 11), f.d = .vec n →
    let a (x : Lane) : Word := wordOf s.grp .i8x4 f.a x
    let b (x : Lane) : Word := wordOf s.grp .i8x4 f.b x
    (entryStop ⟨0x1E, 0, 0⟩ f s = none → exec (.dot4i f) s = doneLanes f s (fun x =>
      let p (k : Nat) : Word := ((a x).extractLsb' (8 * k) 8).signExtend 32 * ((b x).extractLsb' (8 * k) 8).signExtend 32
      x.setReg n.toNat (p 0 + p 1 + p 2 + p 3 + wordOf s.grp .i32 (third f) x))) ∧
    (entryStop ⟨0x1E, 1, 0⟩ f s = none → exec (.dot4u f) s = doneLanes f s (fun x =>
      let p (k : Nat) : Word := ((a x).extractLsb' (8 * k) 8).setWidth 32 * ((b x).extractLsb' (8 * k) 8).setWidth 32
      x.setReg n.toNat (p 0 + p 1 + p 2 + p 3 + wordOf s.grp .un32 (third f) x)))) ∧
  (∀ (f : Fields) (s : State) (d a : BitVec 11), f.d = .vec d → f.a = .vec a → quietTraps s.grp →
    s.anyActive f.gd = true →
    let nr := (f.imm.extractLsb' 8 4).toNat + 1
    let w := s.grp.lanes.length
    let tag := (sclVal s.grp f.b).extractLsb' 0 16
    let seed := sget 0 s.grp.sseed (tag.extractLsb' 2 3).toNat
    let block : Nat := match (tag.extractLsb' 0 2).toNat with | 0 => 1 | 1 => 16 | 2 => 64 | _ => 256
    let fmt := (f.imm.extractLsb' 0 4).toNat
    ∀ c ∈ ([(.qnt f, ⟨0x38, 0, 0⟩, if fmt = 6 then block else max 32 block), (.deq f, ⟨0x38, 1, 0⟩, if fmt = 6 then block else max 32 block),
        (.rot f, ⟨0x38, 2, 0⟩, block), (.irot f, ⟨0x38, 3, 0⟩, block)] : List (Instr × Key × Nat)), entryStop c.2.1 f s = none →
      (nr * w % c.2.2 ≠ 0 → exec c.1 s = .next (raise .illegal s)) ∧
      (nr * w % c.2.2 = 0 → block ≠ 1 → tag.extractLsb' 5 11 ≠ seed.extractLsb' 0 11 → exec c.1 s = .next (raise .tagmismatch s)) ∧
      (nr * w % c.2.2 = 0 → block = 1 ∨ tag.extractLsb' 5 11 = seed.extractLsb' 0 11 →
        ∃ (h : Nat → Lane → Lane) (e : Nat → Lane → FFlags),
          exec c.1 s = .next (s.lanewise f (fun l x => { h l x with fflags := x.fflags ||| e l x })) ∧
          ∀ l x, (h l x = { x with v := (h l x).v }) ∧ (∀ q, q < d.toNat ∨ d.toNat + nr ≤ q → (h l x).reg q = x.reg q) ∧
            ∀ j, j < nr → l < w → s.active f.gd l (s.laneAt l) = true →
              (c.2.1.fn = 0 → 3 ≤ fmt → fmt ≤ 6 → swf (0 : Word) x.v = true → ((h l x).reg (d.toNat + j)).toNat < 2 ^ 16) ∧
              (2 ≤ c.2.1.fn.toNat → block = 1 → swf (0 : Word) x.v = true →
                (h l x).reg (d.toNat + j) = (s.laneAt l).reg (a.toNat + j) ∧ e l x = 0))) ∧
  (∀ (f : Fields) (s : State) (n : BitVec 11), f.d = .vec n → quietTraps s.grp → entryStop ⟨0x38, 4, 0⟩ f s = none →
    givesFp (.scale f) f s false n (fun _ x v e =>
      let a := realOf Fp.f32 (srcVal s.grp .f32 x f.a)
      (∀ p, a = some p → 0 < p → e = 0 ∧ v ≤ 254 ∧ (2 : Rat) ^ ((v : Int) - 127) ≤ max p ((2 : Rat) ^ (-127 : Int)) ∧ p < (2 : Rat) ^ ((v : Int) - 126)) ∧
      ((∀ p, a = some p → p ≤ 0) → v = 255 ∧ e = flagNV)))

/-- CVT (R226 to R228, R94): widening and representable narrowing keep the value; conversion to an integer rounds by FN and saturates, a NaN gives 0; integers that
are representable convert exactly. `k` is the conversion code. -/
def Obligations.Conversions : Prop :=
  ∀ (rnd : BitVec 3) (f : Fields) (s : State) (n k : BitVec 11), f.d = .vec n → f.b = .num k → Enc.cvtDefined k.toNat = true →
    quietTraps s.grp → noFlush s.grp f → entryStop ⟨0x1F, rnd, 0⟩ f s = none →
    let rm := rmOf s.grp rnd.toNat
    let a (x : Lane) : Nat := srcVal s.grp (cvtSrc k.toNat) x f.a
    let keeps (t u : Fp.Format) (i : Nat) (v : Nat) (e : FFlags) : Prop :=
      ∀ p, realOf t i = some p → p ≠ 0 → ∀ d, d < 2 * u.signBit → realOf u d = some p → v = d ∧ e = 0
    let both (u : Fp.Format) (i : Nat) (v : Nat) (e : FFlags) : Prop :=
      ∀ p q d, realOf Fp.f32 (i % 2 ^ 32) = some p → realOf Fp.f32 (i / 2 ^ 32) = some q → p ≠ 0 → q ≠ 0 → d < 2 ^ 32 →
        realOf u (halfOf 0 d) = some p → realOf u (halfOf 1 d) = some q → v = d ∧ e = 0
    let toInt (t : Fp.Format) (w : Nat) (sg : Bool) (i : Nat) (v : Nat) (e : FFlags) : Prop :=
      let lo : Int := if sg then -(2 ^ (w - 1) : Nat) else 0
      let hi : Int := if sg then (2 ^ (w - 1) : Nat) - 1 else (2 ^ w : Nat) - 1
      let is (z : Int) : Prop := v = (BitVec.ofInt w z).toNat
      (isNaN t i → v = 0 ∧ e = flagNV) ∧
      (isInfinity t i → is (if isNegPat t i then lo else hi) ∧ e = flagNV) ∧
      (∀ p, realOf t i = some p →
        if roundInt rm p < lo then is lo ∧ e = flagNV
        else if hi < roundInt rm p then is hi ∧ e = flagNV
        else is (roundInt rm p) ∧ e = if (roundInt rm p : Rat) = p then 0 else flagNX)
    let ofInt (t : Fp.Format) (z : Int) (v : Nat) (e : FFlags) : Prop :=
      (z = 0 → v = 0 ∧ e = 0) ∧ (z ≠ 0 → ∀ d, d < 2 * t.signBit → realOf t d = some (z : Rat) → v = d ∧ e = 0)
    givesFp (.cvt rnd f) f s (Enc.cvtDstRegs k.toNat == 2) n (fun _ x v e =>
      match k.toNat with
      | 0 => keeps Fp.f32 Fp.f64 (a x) v e
      | 1 => keeps Fp.f64 Fp.f32 (a x) v e
      | 2 => keeps Fp.f32 Fp.f16 (a x) v e
      | 3 => keeps Fp.f16 Fp.f32 (halfOf 0 (a x)) v e
      | 4 => keeps Fp.f32 Fp.bf16 (a x) v e
      | 5 => keeps Fp.bf16 Fp.f32 (halfOf 0 (a x)) v e
      | 6 => both Fp.f16 (a x) v e
      | 7 => both Fp.bf16 (a x) v e
      | 8 => keeps Fp.f16 Fp.f32 (halfOf 1 (a x)) v e
      | 9 => keeps Fp.bf16 Fp.f32 (halfOf 1 (a x)) v e
      | 16 => toInt Fp.f32 32 true (a x) v e
      | 17 => toInt Fp.f32 32 false (a x) v e
      | 18 => toInt Fp.f32 64 true (a x) v e
      | 19 => toInt Fp.f32 64 false (a x) v e
      | 20 => toInt Fp.f64 32 true (a x) v e
      | 21 => toInt Fp.f64 32 false (a x) v e
      | 22 => toInt Fp.f64 64 true (a x) v e
      | 23 => toInt Fp.f64 64 false (a x) v e
      | 24 => ofInt Fp.f32 (BitVec.ofNat 32 (a x)).toInt v e
      | 25 => ofInt Fp.f32 (a x) v e
      | 26 => ofInt Fp.f32 (BitVec.ofNat 64 (a x)).toInt v e
      | 27 => ofInt Fp.f32 (a x) v e
      | 28 => ofInt Fp.f64 (BitVec.ofNat 32 (a x)).toInt v e
      | 29 => ofInt Fp.f64 (a x) v e
      | 30 => ofInt Fp.f64 (BitVec.ofNat 64 (a x)).toInt v e
      | 31 => ofInt Fp.f64 (a x) v e
      | 34 => e = 0 ∧ (a x % 256 = 255 → v = 0x7FC00000) ∧ (a x % 256 ≠ 255 → realOf Fp.f32 v = some ((2 : Rat) ^ ((a x % 256 : Nat) - 127 : Int)))
      | 35 => ofInt Fp.f32 (BitVec.ofNat 8 (a x)).toInt v 0 ∧ e = 0
      | _ => e = 0)

/-- An FP instruction whose enabled exceptions meet those a lane raised takes a user trap after it completes (R32, R214), stated for FADD: with no trap in
progress, the trapping lanes and their exceptions are recorded and every guard-true lane goes on at the handler. -/
def Obligations.FloatingTrap : Prop :=
  ∀ (f : Fields) (s : State) (n : BitVec 11), f.d = .vec n → f.ty ∈ Enc.tF → entryStop ⟨0x19, 0, 0⟩ f s = none → s.grp.trapv ≠ 0 → s.grp.utrap = false →
    (∀ p ∈ s.actives f.gd, p.2.inH = false) → s.grp.lanes.length ≤ 128 →
    let r (x : Lane) : Nat × FFlags :=
      farithOp 0 (fmtOf f) (fpMode s.grp f) (srcVal s.grp (tyOf f) x f.a) (srcVal s.grp (tyOf f) x f.b) (srcVal s.grp (tyOf f) x (third f))
    let hit (p : Nat × Lane) : Bool := (r p.2).2 &&& s.grp.trapen.setWidth 5 != 0
    (∃ p ∈ s.actives f.gd, hit p) →
    ∃ t, exec (.fadd f) s = .next t ∧
      t.grp.utrap = true ∧ t.grp.tfpc = s.bundle.pc ∧ t.grp.tpc = s.bundle.pc + BitVec.ofNat 64 f.form.len ∧
      (∀ l, l < 64 → t.grp.tmask.getLsbD l = (s.actives f.gd).any (fun p => p.1 == l && hit p)) ∧
      t.grp.tcause.extractLsb' 0 4 = 1 ∧
      (∀ i, i < 5 → t.grp.tcause.getLsbD (4 + i) = (s.actives f.gd).any (fun p => ((r p.2).2 &&& s.grp.trapen.setWidth 5).getLsbD i)) ∧
      t.grp.tdst.extractLsb' 0 11 = n ∧
      (∀ l, l < s.grp.lanes.length →
        let x := s.laneAt l
        let y := t.laneAt l
        if s.active f.gd l x then
          y.pc = s.grp.trapv &&& ~~~3 ∧ y.inH = true ∧ y.fflags = x.fflags ||| (r x).2 ∧ ∃ w, y.v = (putReg (f.ty == 5) n w x).v
        else if s.inBundle l then y = { x with pc := x.pc + BitVec.ofNat 64 f.form.len } else y = x) ∧
      t = { s with grp := t.grp }

/-! Frames, special registers, registers named at run time -/

/-- What every lane-wise instruction leaves alone: lanes outside the bundle are untouched, guard-false lanes only move past it, and a lane keeps every register and
predicate but its destination and those the entry names (p7 for IADDC and ISUBB, p1 to p15 for V2P); flags are only added, and only by the majors that may
raise them; the rest of the machine, memory included, is as before (R183, R185, R214). SEL writes whatever the guard. -/
def Obligations.LaneFrame : Prop :=
  ∀ (i : Instr) (k : Key) (f : Fields) (s t : State), Enc.parts i = some (k, f) → i.wellFormed = true → laneWise k f = true →
    entryStop k f s = none → (mayFlag k = true → quietTraps s.grp) → exec i s = .next t →
    onlyLanes s t ∧ t.grp.lanes.length = s.grp.lanes.length ∧
    ∀ l, l < s.grp.lanes.length →
      let x := s.laneAt l
      let y := t.laneAt l
      (s.inBundle l = false → y = x) ∧
      (s.inBundle l = true →
        y.pc = x.pc + BitVec.ofNat 64 f.form.len ∧ onlyRegs x y ∧
        (guardOf f.gd x = false → ¬(k.maj = 0x0E ∧ k.fn = 0) → y = { x with pc := y.pc }) ∧
        (∀ r, r < 0x600 → isIn (mayWrite k f) r = false → y.reg r = x.reg r) ∧
        (∀ p, p < 16 → isIn (mayWrite k f) (0x640 + p) = false → y.pred p = x.pred p) ∧
        (mayFlag k = false → y.fflags = x.fflags) ∧ y.fflags &&& x.fflags = x.fflags)

/-- GETS (R208): the number's value as each lane sees it, its low or high word in a vector register, or all of it in a pair or a scalar, a scalar being read as elect()
sees it; and the value of the registers that stand for themselves in State (R207). SETS of a register of group scope that the mode may write (R209, R207, R356),
those of privileged mode among them: a 64-bit source replaces the whole register, and a 32-bit one, a predicate or a constant among them, the half that HI selects,
reserved bits reading zero; every other special register reads as before, and the lanes only move past the instruction. The sign seeds and the scratch registers are
in canonical form. SETS of a register of lane scope, `FFLAGS` and those of privileged mode (R209, R30, R356): each guard-true lane takes the value from its own
source, under the rule of the sources that holds for the others, and no trap follows. -/
def Obligations.SpecialRegisters : Prop :=
  (∀ (f : Fields) (s : State), entryStop ⟨0x13, 0, 0⟩ f s = none →
    (∀ n, f.d = .vec n → f.ty ∈ Enc.tIP → exec (.gets f) s = .next (s.lanewise f (fun l x =>
      let v := readSpecial s l x f.imm.toNat
      if Enc.isPairTy f.ty then x.setPair n.toNat (if Enc.numOf f.c = 1 then v >>> 32 else v)
      else x.setReg n.toNat (if Enc.numOf f.c = 1 then v.extractLsb' 32 32 else v.extractLsb' 0 32)))) ∧
    (∀ n, f.d = .scl n → exec (.gets f) s = doneScalar f s n (match s.elect f.gd with
      | some e => readSpecial s e.1 e.2 f.imm.toNat
      | none => 0)) ∧
    ∀ l x, ∀ c ∈ ([(0x000, (BitVec.ofNat 64 l : DWord)), (0x001, BitVec.ofNat 64 s.grp.width), (0x002, BitVec.ofNat 64 s.grp.gid),
      (0x010, BitVec.ofNat 64 s.now), (0x012, BitVec.ofNat 64 s.grp.wct), (0x013, s.grp.fmode), (0x014, x.fflags.setWidth 64), (0x015, s.grp.jointo),
      (0x017, s.bundle.lanes.setWidth 64), (0x018, (s.bundle.lanes >>> 64).setWidth 64), (0x019, BitVec.ofNat 64 s.grp.vcount), (0x030, s.grp.trapen),
      (0x031, s.grp.trapv), (0x032, s.grp.tpc), (0x033, s.grp.tfpc), (0x034, s.grp.tmask), (0x035, s.grp.tmaskhi), (0x036, s.grp.tcause),
      (0x037, s.grp.tdst)] : List (Nat × DWord)), readSpecial s l x c.1 = c.2) ∧
  (∀ (f : Fields) (s : State) (e : Nat × Lane), entryStop ⟨0x14, 0, 0⟩ f s = none → s.elect f.gd = some e →
    swf (0 : DWord) s.grp.sseed = true → swf (0 : DWord) s.grp.pscr = true →
    ∀ c ∈ ([(0x013, 0xF), (0x015, 0xFFFF), (0x020, -1), (0x021, -1), (0x022, -1), (0x023, -1), (0x024, -1), (0x025, -1), (0x026, -1), (0x027, -1),
      (0x030, 0x1F), (0x031, -1), (0x032, ~~~3), (0x012, -1), (0x033, -1), (0x034, -1), (0x035, -1), (0x036, 0xFDFF), (0x037, 0x87FF87FF), (0x803, -1), (0x806, 1),
      (0x808, -1), (0x809, -1), (0x80A, -1), (0x80B, -1), (0x80C, -1), (0x80D, -1), (0x80E, -1), (0x80F, -1)] : List (Nat × DWord)), f.imm.toNat = c.1 →
    (c.1 ∈ [0x012, 0x033, 0x034, 0x035, 0x036, 0x037] → s.privileged = true) →
    let src := if f.form.isExt then f.b else f.a
    let old := readSpecial s e.1 e.2 c.1
    let whole (v : DWord) : Prop := ∃ t, exec (.sets f) s = .next t ∧ t.grp.lanes = (s.advance f.form.len).grp.lanes ∧ t = { s with grp := t.grp } ∧
      (∀ l x, readSpecial t l x c.1 = v &&& c.2) ∧ ∀ l x n, n ≠ c.1 → readSpecial t l x n = readSpecial s l x n
    (∀ r, src = .scl r → whole (s.scl r.toNat)) ∧
    (∀ v, src = .lit v → whole v) ∧
    (∀ r, src = .vec r → Enc.isPairTy f.ty = true → whole (e.2.pair r.toNat)) ∧
    let half (w : Word) : Prop := whole (if Enc.numOf f.c = 1 then w ++ old.extractLsb' 0 32 else old.extractLsb' 32 32 ++ w)
    (∀ r, src = .vec r → f.ty = 0 → half (e.2.reg r.toNat)) ∧
    (∀ p, src = .prd p → f.ty ∈ Enc.tIP → half (if e.2.pred p.toNat then 1 else 0)) ∧
    ((∃ k, src = .int k) ∨ (∃ k, src = .fp k) → f.ty ∈ Enc.tIP → half (BitVec.ofNat 32 (srcVal s.grp (tyOf f) e.2 src)))) ∧
  (∀ (f : Fields) (s : State), entryStop ⟨0x14, 0, 0⟩ f s = none →
    ∀ c ∈ ([(0x014, fun x => x.fflags.setWidth 64, fun v x => { x with fflags := v.extractLsb' 0 5 }),
      (0x800, fun x => x.prpc, fun v x => { x with prpc := v &&& ~~~3 }), (0x801, fun x => x.prstate, fun v x => { x with prstate := v &&& 0x1F }),
      (0x807, fun x => x.prheld, fun v x => { x with prheld := v &&& 0xFFFF007FFFFFFFFF })] : List (Nat × (Lane → DWord) × (DWord → Lane → Lane))), f.imm.toNat = c.1 →
    let src := if f.form.isExt then f.b else f.a
    let whole (v : Lane → DWord) : Prop := exec (.sets f) s = doneLanes f s (fun x => c.2.2 (v x) x)
    let half (w : Lane → Word) : Prop := whole (fun x => if Enc.numOf f.c = 1 then w x ++ (c.2.1 x).extractLsb' 0 32 else (c.2.1 x).extractLsb' 32 32 ++ w x)
    (∀ r, src = .scl r → whole (fun _ => s.scl r.toNat)) ∧
    (∀ v, src = .lit v → whole (fun _ => v)) ∧
    (∀ r, src = .vec r → Enc.isPairTy f.ty = true → whole (fun x => x.pair r.toNat)) ∧
    (∀ r, src = .vec r → f.ty = 0 → half (fun x => x.reg r.toNat)) ∧
    (∀ p, src = .prd p → f.ty ∈ Enc.tIP → half (fun x => if x.pred p.toNat then 1 else 0)) ∧
    ((∃ k, src = .int k) ∨ (∃ k, src = .fp k) → f.ty ∈ Enc.tIP → half (fun x => BitVec.ofNat 32 (srcVal s.grp (tyOf f) x src))))

/-- RGET and RSET (R210): the three checks in order, then the move between the register the code names and the destination or source; a scalar is written once, with
the value of elect(), and a write to p0 is discarded. -/
def Obligations.RegistersByNumber : Prop :=
  ∀ (f : Fields) (s : State), s.anyActive f.gd = true →
    let k := namedCode f s
    let wide := Enc.isPairTy f.ty
    let bad : Option Cause :=
      if 0x64F < k then some .regrange
      else if k < 0x600 ∧ s.grp.vcount ≤ k then some .regrange
      else if wide ∧ (0x600 ≤ k ∨ k % 2 = 1) then some .illegal else none
    (∀ c, bad = some c →
      (entryStop ⟨0x3A, 0, 0⟩ f s = none → exec (.rget f) s = .next (raise c s)) ∧
      (entryStop ⟨0x3A, 1, 0⟩ f s = none → exec (.rset f) s = .next (raise c s))) ∧
    (bad = none → markedFault f.gd [(k, if wide then 2 else 1)] s = none → f.ty ∈ Enc.tIP →
      (∀ n, entryStop ⟨0x3A, 0, 0⟩ f s = none → f.d = .vec n → exec (.rget f) s = doneLanes f s (fun x =>
        if wide then x.setPair n.toNat (x.pair k)
        else x.setReg n.toNat (if k < 0x600 then x.reg k else if k < 0x640 then (s.scl (k - 0x600)).setWidth 32 else if x.pred (k - 0x640) then 1 else 0))) ∧
      (entryStop ⟨0x3A, 1, 0⟩ f s = none → exec (.rset f) s =
        if k < 0x600 then doneLanes f s (fun x => if wide then x.setPair k (pairOf s.grp (tyOf f) f.b x) else x.setReg k (wordOf s.grp (tyOf f) f.b x))
        else if k < 0x640 then doneScalar f s (BitVec.ofNat 6 (k - 0x600)) (match s.elect f.gd with
          | some e => (wordOf s.grp (tyOf f) f.b e.2).setWidth 64
          | none => 0)
        else doneLanes f s (fun x => if k = 0x640 then x else x.setPred (k - 0x640) (wordOf s.grp (tyOf f) f.b x != 0))))

/-! Across lanes -/

/-- SHFL (R235): each guard-true lane takes the A value of lane j when j is in the bundle, C under the fill option when it is not, and keeps D otherwise. PUTL (R240): a
guard-true lane takes the value of the highest guard-true lane that named it, and keeps D when none did. -/
def Obligations.ShuffleAndPut : Prop :=
  (∀ (f : Fields) (s : State) (n : BitVec 11), f.d = .vec n → f.ty ∈ Enc.tX →
    let w := s.grp.lanes.length
    let b (x : Lane) : Int := ((BitVec.ofNat 32 (srcVal s.grp (tyOf f) x f.b)).toNat : Int)
    let o : Nat := if Enc.numOf f.b < 8 then w / 2 ^ Enc.numOf f.b else 0
    ∀ c ∈ ([
      (.shflIdx f, ⟨0x20, 0, 0⟩, fun _ x => b x),
      (.shflUp f, ⟨0x20, 1, 0⟩, fun l x => l - b x),
      (.shflDown f, ⟨0x20, 2, 0⟩, fun l x => l + b x),
      (.shflXor f, ⟨0x20, 3, 0⟩, fun l x => ((l ^^^ (b x).toNat : Nat) : Int)),
      (.shflUpw f, ⟨0x20, 4, 0⟩, fun l _ => (l : Int) - o),
      (.shflDownw f, ⟨0x20, 5, 0⟩, fun l _ => ((l + o : Nat) : Int)),
      (.shflXorw f, ⟨0x20, 6, 0⟩, fun l _ => ((l ^^^ o : Nat) : Int)),
      (.shflRotw f, ⟨0x20, 7, 0⟩, fun l _ => (((l + o) % w : Nat) : Int))] : List (Instr × Key × (Nat → Lane → Int))),
      entryStop c.2.1 f s = none → ∃ t, exec c.1 s = .next t ∧ onlyLanes s t ∧
        ∀ l, l < w →
          let x := s.laneAt l
          let next : DWord := x.pc + BitVec.ofNat 64 f.form.len
          let take (o : Operand) (y : Lane) : Lane := { putReg (Enc.isPairTy f.ty) n (BitVec.ofNat 64 (srcVal s.grp (tyOf f) y o)) x with pc := next }
          if s.active f.gd l x = false then t.laneAt l = if s.inBundle l then { x with pc := next } else x
          else
            (∀ j : Nat, c.2.2 l x = j → j < w → s.inBundle j = true → t.laneAt l = take f.a (s.laneAt j)) ∧
            ((∀ j : Nat, c.2.2 l x = j → w ≤ j ∨ s.inBundle j = false) → t.laneAt l = if f.imm.getLsbD 0 then take f.c x else { x with pc := next })) ∧
  (∀ (f : Fields) (s : State) (n : BitVec 11), f.d = .vec n → f.ty ∈ Enc.tX → entryStop ⟨0x25, 0, 0⟩ f s = none →
    let dest (p : Nat × Lane) : Nat := (BitVec.ofNat 32 (srcVal s.grp (tyOf f) p.2 f.b)).toNat
    ∃ t, exec (.putl f) s = .next t ∧ onlyLanes s t ∧
      ∀ p ∈ s.actives f.gd,
        let next : DWord := p.2.pc + BitVec.ofNat 64 f.form.len
        ((∀ q ∈ s.actives f.gd, dest q ≠ p.1) → t.laneAt p.1 = { p.2 with pc := next }) ∧
        ∀ q ∈ s.actives f.gd, dest q = p.1 → (∀ r ∈ s.actives f.gd, dest r = p.1 → r.1 ≤ q.1) →
          t.laneAt p.1 = { putReg (Enc.isPairTy f.ty) n (BitVec.ofNat 64 (srcVal s.grp (tyOf f) q.2 f.a)) p.2 with pc := next })

/-- VOTE (R236): what each guard-true lane writes, from the guard-true lanes T of the bundle and whether their A is not zero. RDX and SCAN with an integer operation, and
RSTEP (R105, R237 to R239): the fixed trees give the fold over all lanes, over the lanes up to each lane, and over the lanes below it; one level combines a lane with
the one 2^k above. The group has 64 lanes. RDX with FADD or FMAX of one supplier returns its value: every other lane supplies the identity (R106, R237). The value is
no NaN and no zero. -/
def Obligations.VotesAndReductions : Prop :=
  (∀ (f : Fields) (s : State), s.grp.lanes.length ≤ 128 →
    let set := s.actives f.gd
    let on (p : Nat × Lane) : Bool := srcVal s.grp (tyOf f) p.2 f.a != 0
    let off := if f.imm.getLsbD 0 then 64 else 0
    let mask (i : Instr) (n : BitVec 11) (q : Nat → Nat × Lane → Bool) : Prop :=
      ∃ m : Nat → DWord, exec i s = .next (s.lanewise f (fun l x => x.setPair n.toNat (m l))) ∧
        ∀ l b, b < 64 → (m l).getLsbD b = set.any (fun p => p.1 == b + off && q l p)
    (∀ p : BitVec 4, f.d = .prd p →
      let put (h : Nat → Bool) : Out3 := .next (s.lanewise f (fun l x => if p = 0 then x else x.setPred p.toNat (h l)))
      (entryStop ⟨0x21, 0, 0⟩ f s = none → exec (.voteAll f) s = put (fun _ => set.all on)) ∧
      (entryStop ⟨0x21, 1, 0⟩ f s = none → exec (.voteAny f) s = put (fun _ => set.any on)) ∧
      (entryStop ⟨0x21, 3, 0⟩ f s = none → exec (.voteElect f) s = put (fun l => (s.elect f.gd).any (fun e => e.1 == l)))) ∧
    (∀ n : BitVec 11, f.d = .vec n →
      (entryStop ⟨0x21, 2, 0⟩ f s = none → mask (.voteBallot f) n (fun _ p => on p)) ∧
      (entryStop ⟨0x21, 6, 0⟩ f s = none → mask (.voteLmask f) n (fun l p => decide (p.1 < l) && on p)) ∧
      (entryStop ⟨0x21, 7, 0⟩ f s = none → mask (.voteActm f) n (fun _ _ => true)) ∧
      (entryStop ⟨0x21, 5, 0⟩ f s = none →
        exec (.votePopa f) s = doneLanes f s (fun x => x.setReg n.toNat (BitVec.ofNat 32 (set.countP on)))) ∧
      (entryStop ⟨0x21, 4, 0⟩ f s = none → ∃ h : Nat → Lane → Nat,
        exec (.voteMatch f) s = .next (s.lanewise f (fun l x => x.setReg n.toNat (BitVec.ofNat 32 (h l x)))) ∧
        ∀ p ∈ set, ∃ q ∈ set, q.1 = h p.1 p.2 ∧ srcVal s.grp (tyOf f) q.2 f.a = srcVal s.grp (tyOf f) p.2 f.a ∧
          ∀ r ∈ set, srcVal s.grp (tyOf f) r.2 f.a = srcVal s.grp (tyOf f) p.2 f.a → q.1 ≤ r.1))) ∧
  (∀ (o : RedOp) (f : Fields) (s : State) (n : BitVec 11), isIntRed o = true → f.d = .vec n → s.grp.lanes.length = 64 →
    let vs : List Word := (numbered 0 s.grp.lanes).map (redSupply o f s)
    (entryStop ⟨0x22, Enc.redOpFn o, 0⟩ f s = none →
      exec (.rdx o f) s = doneLanes f s (fun x => x.setReg n.toNat (vs.foldl (redFold o) (redStart o)))) ∧
    (entryStop ⟨0x24, Enc.redOpFn o, 0⟩ f s = none →
      exec (.scan o f) s = .next (s.lanewise f (fun l x =>
        if l < 64 then x.setReg n.toNat ((vs.take (if f.imm.getLsbD 0 then l else l + 1)).foldl (redFold o) (redStart o)) else x.setReg n.toNat 0))) ∧
    (∀ k : BitVec 11, f.b = .num k → entryStop ⟨0x23, Enc.redOpFn o, 0⟩ f s = none →
      exec (.rstep o f) s = .next (s.lanewise f (fun l x => x.setReg n.toNat
        (if 2 ^ (k.toNat + 1) ≤ 64 ∧ l % 2 ^ (k.toNat + 1) = 0 then redFold o (vs.getD l 0) (vs.getD (l + 2 ^ k.toNat) 0) else vs.getD l 0))))) ∧
  (∀ (o : RedOp) (f : Fields) (s : State) (n : BitVec 11) (e : Nat × Lane), isIntRed o = false → f.d = .vec n → noFlush s.grp f →
    s.grp.lanes.length = 64 → s.actives f.gd = [e] → entryStop ⟨0x22, Enc.redOpFn o, 0⟩ f s = none →
    let v := srcVal s.grp .f32 e.2 f.a
    isNaN Fp.f32 v = false → isZeroPat Fp.f32 v = false →
    exec (.rdx o f) s = doneLanes f s (fun x => x.setReg n.toNat (BitVec.ofNat 32 v)))

/-- A dual instruction (R175, R176): both operations act in each guard-true lane as their single forms do from the same state, each leaving its destinations and flags; every other
register is kept. It raises PAIRING where R176 forbids the pair. -/
def Obligations.DualForm : Prop :=
  ∀ (gd : Guard) (x y : DualOp) (s : State), s.grp.method = none →
    (pairing x y = true → exec (.dual gd x y) s = .next (raise .pairing s)) ∧
    (∀ i j, dualStop gd x y s = none → quietTraps s.grp → Enc.build (dualKey x) (dualFields x gd) = some i → Enc.build (dualKey y) (dualFields y gd) = some j →
      ∃ t u v, exec (.dual gd x y) s = .next t ∧ exec i s = .next u ∧ exec j s = .next v ∧ onlyLanes s t ∧
        ∀ l, l < s.grp.lanes.length →
          (∀ r, r < 0x600 → (t.laneAt l).reg r =
            if isIn (dualWrites x) r then (u.laneAt l).reg r else if isIn (dualWrites y) r then (v.laneAt l).reg r else (s.laneAt l).reg r) ∧
          (∀ p, p < 16 → (t.laneAt l).pred p =
            if isIn (dualWrites x) (0x640 + p) then (u.laneAt l).pred p else if isIn (dualWrites y) (0x640 + p) then (v.laneAt l).pred p
            else (s.laneAt l).pred p) ∧
          (t.laneAt l).fflags = (u.laneAt l).fflags ||| (v.laneAt l).fflags ∧
          (t.laneAt l).pc = if s.inBundle l then (s.laneAt l).pc + 12 else (s.laneAt l).pc)

/-! Encodings and the machine as a whole -/

/-- Decoding the words of an instruction gives it back: every encoded instruction, in every form, with every operand its fields can hold (R164, R166 to R177). -/
def Obligations.DecodeEncode : Prop := ∀ i : Instr, Enc.isEvent i = false → i.wellFormed = true → decodeWords (encode i) = .ok i

/-- What words decode to is a well-formed instruction and no step of another agent, and the words after it, as LEN of its first word counts them, decide
nothing (R166, R182). -/
def Obligations.DecodedWellFormed : Prop :=
  ∀ (ws : List Word) (i : Instr), decodeWords ws = .ok i →
    i.wellFormed = true ∧ Enc.isEvent i = false ∧
    ∃ w rest, ws = w :: rest ∧ (Enc.formOf w).len ≤ 4 * ws.length ∧ decodeWords (ws.take ((Enc.formOf w).len / 4)) = .ok i

/-- The worked words of the spec decode to the instructions they stand for, a few of each family. -/
def Obligations.KnownWords : Prop :=
  let z := Enc.blank .base
  ∀ p ∈ ([
    ([0x00000000], .nop z),
    ([0x080C4140], .iadd { z with d := .vec 3, a := .vec 4, b := .vec 5 }),
    ([0x480C4000, 0x12345678, 0], .iadd { Enc.blank .lit with d := .vec 3, a := .vec 4, b := .lit 0x12345678 }),
    ([0x090420C4], .idiv { z with d := .vec 1, a := .vec 2, b := .vec 3 }),
    ([0x8A002008, 0x00601000, 0x01000096], .lop3 { Enc.blank .ext with d := .vec 1, a := .vec 2, b := .vec 3, c := .vec 4, imm := 0x96 }),
    ([0x0D0C414A], .icmp .lt { z with d := .prd 3, a := .vec 4, b := .vec 5, gd := ⟨1, false⟩ }),
    ([0x100420C0], .sadd { z with d := .scl 1, a := .scl 2, b := .scl 3 }),
    ([0x151C0FFB], .movi { z with d := .vec 7, imm := 0xFFB }),
    ([0x013FFFFD], .bra { z with gd := ⟨1, true⟩, imm := 0xFFFFD }),
    ([0xC1000000, 0x00000240, 0, 0x00402000, 0], .braX { Enc.blank .extLit with gd := ⟨9, false⟩, lit := 0x402000 }),
    ([0x0300A000], .jmpr { z with a := .vec 10 }),
    ([0x04006003], .btab { z with a := .vec 6, imm := 3 }),
    ([0x0500001E], .tgt { z with imm := 0x1E }),
    ([0x86000000, 0x00000080, 0x00001388], .joinX { Enc.blank .ext with gd := ⟨2, false⟩, imm := 5000 }),
    ([0x07000141], .trap { z with b := .num 5 }),
    ([0x99258008, 0xF0600264, 0x00090000],
      .fadd { Enc.blank .ext with d := .vec 0x12C, a := .vec 2, b := .fp 3, gd := ⟨9, true⟩, ty := 4, md := 9 }),
    ([0x2610A0C4], .ldg .b32 { z with d := .vec 4, a := .vec 10, b := .num 3 }),
    ([0xA700C028, 0xE0000000, 0x800A0000], .stg .b32 { Enc.blank .ext with d := .vec 6, a := .vec 10, b := .int 0, md := 0x0A }),
    ([0xAA010028, 0x01803400, 0x01020000], .atomCas { Enc.blank .ext with d := .vec 8, a := .vec 10, b := .vec 12, c := .vec 13, md := 2 }),
    ([0x2CFC0FFF], .wait { z with d := .num 63, a := .num 0, b := .num 63, c := .num 63 }),
    ([0x2D0000C2], .fenceFull { z with b := .num 3 }),
    ([0x2E1C0C80], .barArrive { z with d := .vec 7, b := .num 50 }),
    ([0x2F200002], .ringPut { z with d := .scl 8, b := .num 0 }),
    ([0x3018A305], .waitc .ge { z with d := .vec 6, a := .vec 10, b := .vec 12 }),
    ([0x310D0000], .copy { z with d := .num 3, a := .scl 16 }),
    ([0x32014000], .tileMma { z with a := .scl 20 }),
    ([0x33243144], .fstat { z with d := .scl 9, a := .num 3, b := .scl 5 }),
    ([0x34000101], .osync { z with b := .scl 4 }),
    ([0x351C6000], .launch { z with d := .scl 7, a := .scl 6 }),
    ([0x36002047], .desc { z with a := .scl 2, b := .num 1 }),
    ([0x37000300], .syscall { z with b := .num 12 }),
    ([0xB8050080, 0xC0C00000, 0x00050005], .qnt { Enc.blank .ext with d := .vec 40, a := .vec 32, b := .scl 6, md := 5, imm := 5 }),
    ([0xB964100C, 0x04050600, 0x090A0B00], .dual ⟨3, false⟩ ⟨0x19, 0, 4, 5, 6, 0⟩ ⟨0x08, 0, 9, 10, 11, 0⟩),
    ([0x3F000A80], .hint { z with imm := 42 })] : List (List Word × Instr)), decodeWords p.1 = .ok p.2

/-- A step runs the instruction it decodes (R14, R166, R182): when the agenda names a bench that has a bundle to issue and nothing stands before its instruction (no
port poison, no method at its limit), the words at the bundle's PC decide: an instruction runs by `exec` in the state in which the caches, the shadow's log and a method's
count have noted it, words that are none raise ILLEGAL, and a word that cannot be fetched raises FETCH. A step of
another agent that the agenda names (log 1) is `exec` of its instruction; a management request waits behind those that came before it (R395), which rows are such requests being the
model's choice (log 141). -/
def Obligations.StepRunsDecoded : Prop :=
  (∀ (s : State) (b : Nat) (rest : List Turn), s.agenda = .issue b :: rest →
    let c := State.choose { s with agenda := rest, turn := max s.turn (b + 2) } b
    let u := c.1
    c.2 = true → portPoison u = none → overrun u = none →
    (∀ ws pas i, u.fetchBundle = .words ws pas → decodeWords ws = .ok i →
      step s = exec i (u.begin i pas) ∧
      ∃ k n l c m, u.begin i pas = { u with cores := k, grp := { u.grp with log := n, lvq := l, logged := c, method := m } } ∧
        (u.grp.method = none → m = none)) ∧
    (∀ ws pas e, u.fetchBundle = .words ws pas → decodeWords ws = .error e → step s = .next (raise .illegal (u.noteFetch pas))) ∧
    (∀ tout level va, u.fetchBundle = .fail tout level va → step s =
      .next (fetchFault { cause := .fetch, access := (fetchTouch u.grp).code, tout := tout, level := level, addr := va } u))) ∧
  (∀ (s : State) (i : Instr) (rest : List Turn), s.agenda = .event i :: rest → Enc.isEvent i = true → isManagement i = false →
    step s = exec i { s with agenda := rest }) ∧
  ∀ (s : State) (i : Instr) (rest : List Turn), s.agenda = .event i :: rest → isManagement i = true →
    (s.mgmt.queue = [] → step s = exec i { s with agenda := rest }) ∧
    ∀ j q, s.mgmt.queue = .command j :: q → isManagement j = true → step s = exec j { s with agenda := rest, mgmt := { s.mgmt with queue := q ++ [.command i] } }

/-- Every step keeps memory in its canonical form: addresses rise and no listed byte reads as an unlisted one does. -/
def Obligations.MemoryStaysCanonical : Prop := ∀ s t : State, s.Inv → step s = .next t → t.Inv

/-- Right after reset (R368, R370, R363): memory lists nothing and is canonical, every compute die is absent with incarnation 1 and the reset class table, nothing is placed, launched or
on its way, and the boot ROM of H0 has not run. The model's choices among these: what memory that nothing has written holds (log 4), the value of each register that the spec gives no
reset value (log 5), and that RSNs start at 1 (log 113). -/
def Obligations.ResetState : Prop :=
  State.reset.Inv ∧ State.reset.mem = [] ∧ State.reset.dies.length = 16 ∧
  (∀ d ∈ State.reset.dies, d.state = 0 ∧ d.inc = 1 ∧ d.rsn = 1 ∧ d.classes.length = 16 ∧
    (∀ c ∈ d.classes, bitsOf c 2 16 = 0x3FFF ∧ leaseCode c = 1 ∧ replicas c = true ∧ wthrough c = false) ∧ bitsOf (d.classes.getD 0 0) 22 16 = 0xC000) ∧
  State.reset.groups = [] ∧ State.reset.teams = [] ∧ State.reset.clusters = [] ∧ State.reset.grids = [] ∧ State.reset.reqs = [] ∧ State.reset.rops = [] ∧
  State.reset.hub.stage = 0 ∧ State.reset.hub.enabled = false

/-- A step always goes on: it stops in no fault and in no refusal, from any state. The steps by which the hub reads and steers the device (R396 to R402) complete with their effect, where
the premises of each clause hold: a reading with the clock of its island and the counts of its die goes out, an island's readings are taken when 1 ms of its die's clock has passed, a log
entry goes out and stays, a cap from 6 kW to 15 kW in steps of 100 W holds from the next window on, a window of 1 ms brings it into force, an island over 100 A slows, one at 100 °C does
every 100 µs, a die at 110 °C loses its image, an update leaves the slot that runs as it is, a good boot raises the version, a core is traced, and a test of a quarantined unit begins. What
an island is, and the die whose counts stand beside its readings, is the model's choice (log 25). -/
def Obligations.StepsGoOn : Prop :=
  (∀ s : State, goesOn (step s)) ∧
  (∀ (i : Nat) (s : State), exec (.pldmTelemetryRead i) s =
    .next { s with out := s.out ++ [.telemetry i (sget 0 s.mgmt.readings i) (s.clock i) (s.dieCounts i)] }) ∧
  (∀ (i : Nat) (x : BitVec 64) (s : State), sget 0 s.mgmt.readAt i + 1000000 ≤ s.gtime i → swf 0 s.mgmt.readAt = true → swf 0 s.mgmt.readings = true →
    ∃ t, exec (.telemetryRefresh [(i, x)]) s = .next t ∧ t.mem = s.mem ∧ sget 0 t.mgmt.readings i = x ∧ sget 0 t.mgmt.readAt i = s.gtime i) ∧
  (∀ (die ix : Nat) (s : State), ix < (s.die die).log.length →
    exec (.errorLogRead die ix) s = .next { s with out := s.out ++ [.errlog die ix ((s.die die).log.getD ix [])] }) ∧
  (∀ (n : Nat) (s : State), 6000 ≤ n → n ≤ 15000 → n % 100 = 0 → ∃ t, exec (.setPowerCap n) s = .next t ∧ t.mem = s.mem ∧ t.mgmt.capNext = n ∧ t.mgmt.cap = s.mgmt.cap) ∧
  (∀ (mw : Nat) (s : State), s.mgmt.windowAt + 1000000 ≤ s.refTime →
    ∃ t, exec (.powerWindow mw) s = .next t ∧ t.mem = s.mem ∧ t.mgmt.cap = s.mgmt.capNext ∧ t.mgmt.windowAt = s.refTime) ∧
  (∀ (i x : Nat) (s : State), i < 16 → 100 < x → swf 1200 s.mgmt.clocks = true →
    ∃ t, exec (.currentLimit i x) s = .next t ∧ t.mem = s.mem ∧ t.clock i = max 600 (s.clock i - 100)) ∧
  (∀ (i x : Nat) (s : State), i < 16 → 100 ≤ x → (sget 0 s.mgmt.hotSince i = 0 ∨ sget 0 s.mgmt.hotSince i + 100000 ≤ s.refTime + 1) → swf 1200 s.mgmt.clocks = true →
    ∃ t, exec (.thermalStep i x) s = .next t ∧ t.mem = s.mem ∧ t.clock i = max 600 (s.clock i - 100)) ∧
  (∀ (die x : Nat) (s : State), 110 ≤ x → die < 16 → die < s.dies.length → ∃ t, exec (.thermalTrip die x) s = .next t ∧ (t.die die).verified = none) ∧
  (∀ (i : Signed) (s : State), s.hub.update = none → ∃ t, exec (.firmwareUpdate i) s = .next t ∧ t.mem = s.mem ∧ t.hub.update = some i ∧
    t.hub.runsB = s.hub.runsB ∧ t.hub.fwA = s.hub.fwA ∧ t.hub.fwB = s.hub.fwB) ∧
  (∀ (i : Signed) (s : State), s.hub.update = some i → ∃ t, endUpdate s = .next t ∧ t.mem = s.mem ∧ t.hub.update = none ∧ t.hub.runsB = s.hub.runsB ∧
    (if s.hub.runsB then t.hub.fwB = s.hub.fwB ∧ t.hub.fwA = some i else t.hub.fwA = s.hub.fwA ∧ t.hub.fwB = some i)) ∧
  (∀ (i : Signed) (s : State), s.hub.stage = 6 → s.hub.running = some i →
    ∃ t, exec .securityVersionCommit s = .next t ∧ t.mem = s.mem ∧ t.hub.secver.toNat = max s.hub.secver.toNat (imageVersion i).toNat) ∧
  (∀ (core len : Nat) (va : BitVec 64) (s : State), ∃ t, exec (.traceEnable core va len) s = .next t ∧ t.mem = s.mem ∧ (t.core core).trace = some (va, len, 0)) ∧
  ∀ (u : BitVec 32) (ok : Bool) (s : State), u ∈ s.mgmt.quarantine → bitsOf u 28 4 = 0 → (∀ r ∈ s.mgmt.restoring, r.unit ≠ u) →
    ∃ t, exec (.restore u ok) s = .next t ∧ t.mem = s.mem ∧ t.mgmt.quarantine = s.mgmt.quarantine ∧
      t.mgmt.restoring = s.mgmt.restoring ++ [{ unit := u, at_ := s.gtime (unitDie u), passed := ok }]

/-- The checks before an instruction and what a fault does (R182, R183, R358, R360). Outside a method, an instruction of MAJ 0x36 or one that names a privileged special register raises
PRIV in user mode, and any other raises REGRANGE when an operand names no register or a vector register at or above VCOUNT. `raise` puts every lane of the bundle in FAULTED with its PC at
the instruction, leaves every other lane and the rest of the machine alone, and gives the headframe core one record with the cause, the PC and the lanes. SETS of a
register that is read-only in the mode raises ILLEGAL first. -/
def Obligations.FaultEntry : Prop :=
  (∀ (i : Instr) (k : Key) (f : Fields) (s : State), Enc.parts i = some (k, f) → s.grp.method = none →
    (k.maj = 0x14 → f.imm.toNat ∈ [0x802, 0x804, 0x805] ∨ (f.imm.toNat ∈ [0x012, 0x033, 0x034, 0x035, 0x036, 0x037] ∧ s.privileged = false) →
      exec i s = .next (raise .illegal s)) ∧
    ((k.maj = 0x36 ∨ (k.maj = 0x13 ∧ 0x800 ≤ f.imm.toNat) ∨ (k.maj = 0x14 ∧ 0x800 ≤ f.imm.toNat ∧ f.imm.toNat ∉ [0x802, 0x804, 0x805])) →
      s.privileged = false → exec i s = .next (raise .priv s)) ∧
    (k.maj ≠ 0x36 → k.maj ≠ 0x13 → k.maj ≠ 0x14 → outOfRange k f s.grp.vcount = true → exec i s = .next (raise .regrange s))) ∧
  (∀ (c : Cause) (s : State), s.grp.method = none →
    let t := raise c s
    t = { s with grp := { s.grp with lanes := t.grp.lanes }, faults := t.faults, nextId := s.nextId + 1 } ∧
    t.grp.lanes.length = s.grp.lanes.length ∧
    (∀ l, l < s.grp.lanes.length → t.laneAt l =
      if s.inBundle l then { s.laneAt l with st := .faulted, hold := .none, waitCount := 0 } else s.laneAt l) ∧
    ∃ r, t.faults = s.faults ++ [r] ∧ r.cause = c ∧ r.pc = s.bundle.pc ∧ r.lanes = s.bundle.lanes ∧ r.gid = s.grp.uid ∧ r.asid = s.asidOf s.grp ∧
      r.time = s.now ∧ r.replay = decide (c = .fetch) ∧ r.written = false)

/-! Control flow, lane control, traps and privileged entry -/

/-- NOP, TGT, branches, calls, jumps through registers and branch tables (R179, R188 to R192): where each lane of the bundle goes, the link pair of calls, and the
ALIGN, BTARGET, FETCH and ILLEGAL faults, FETCH being that of the first table word that cannot be fetched. -/
def Obligations.Branches : Prop :=
  ∀ (f : Fields) (s : State),
    let len : DWord := BitVec.ofNat 64 f.form.len
    let on := s.actives f.gd
    let go (link : Bool) (t : Lane → DWord) : Out3 := .next (s.onLanes (fun l x =>
      if s.inBundle l = false then x
      else if guardOf f.gd x = false then { x with pc := x.pc + len }
      else { (if link then x.setPair 62 (x.pc + len) else x) with pc := t x }))
    let off20 (x : Lane) : DWord := x.pc + ((f.imm.setWidth 20 : BitVec 20).signExtend 64 <<< 2)
    let off16 (x : Lane) : DWord := x.pc + ((f.imm.setWidth 16 : BitVec 16).signExtend 64 <<< 2)
    exec (.nop f) s = .next (s.advance f.form.len) ∧
    exec (.tgt f) s = .next (raise .illegal s) ∧
    (f.form.isExt = false → (entryStop ⟨0x01, 0, 0⟩ f s = none → exec (.bra f) s = go false off20) ∧
      (entryStop ⟨0x02, 0, 0⟩ f s = none → exec (.call f) s = go true off20)) ∧
    (f.form = .ext → (entryStop ⟨0x01, 0, 0⟩ f s = none → exec (.braX f) s = go false off16) ∧
      (entryStop ⟨0x02, 0, 0⟩ f s = none → exec (.callX f) s = go true off16)) ∧
    (f.form = .extLit → (entryStop ⟨0x01, 0, 0⟩ f s = none → exec (.braX f) s = go false (fun _ => f.lit)) ∧
      (entryStop ⟨0x02, 0, 0⟩ f s = none → exec (.callX f) s = go true (fun _ => f.lit))) ∧
    (∀ c ∈ ([(.jmpr f, ⟨0x03, 0, 0⟩, false, true, fun x => pairOf s.grp .i64 f.a x), (.callr f, ⟨0x03, 1, 0⟩, true, true, fun x => pairOf s.grp .i64 f.a x),
        (.ret f, ⟨0x03, 2, 0⟩, false, false, fun x => x.pair 62)] : List (Instr × Key × Bool × Bool × (Lane → DWord))),
      entryStop c.2.1 f s = none →
        (c.2.2.2.1 = true ∧ s.isSealed = true → exec c.1 s = .next (raise .illegal s)) ∧
        (c.2.2.2.1 = false ∨ s.isSealed = false →
          ((∀ p ∈ on, (c.2.2.2.2 p.2).extractLsb' 0 2 = 0) → exec c.1 s = go c.2.2.1 c.2.2.2.2) ∧
          ∀ l p r, on = l ++ p :: r → (∀ q ∈ l, (c.2.2.2.2 q.2).extractLsb' 0 2 = 0) → (c.2.2.2.2 p.2).extractLsb' 0 2 ≠ 0 →
            exec c.1 s = .next (raiseWith { cause := .align, addr := c.2.2.2.2 p.2 } s))) ∧
    (entryStop ⟨0x04, 0, 0⟩ f s = none →
      let n := f.imm.toNat
      let ix (x : Lane) : Nat := (wordOf s.grp .un32 f.a x).toNat
      let at_ (x : Lane) : DWord := x.pc + BitVec.ofNat 64 (f.form.len + 4 * ix x)
      ((∃ p ∈ on, n ≤ ix p.2) → exec (.btab f) s = .next (raise .btarget s)) ∧
      ((∀ p ∈ on, ix p.2 < n) → ∀ l p r x, on = l ++ p :: r → (∀ q ∈ l, ∃ w, fetchWord s s.me (at_ q.2) = .ok w) → fetchWord s s.me (at_ p.2) = .fault x →
        x.cause = .fetch ∧ x.addr = at_ p.2 ∧ exec (.btab f) s = .next (fetchFault x s)) ∧
      ((∀ p ∈ on, ix p.2 < n) → ∀ w : Nat → Word, (∀ p ∈ on, fetchWord s s.me (at_ p.2) = .ok (w p.1)) →
        ((∃ p ∈ on, (w p.1).extractLsb' 24 8 ≠ 5) → exec (.btab f) s = .next (raise .illegal s)) ∧
        ((∀ p ∈ on, (w p.1).extractLsb' 24 8 = 5) → exec (.btab f) s = .next (s.onLanes (fun l x =>
          if s.inBundle l = false then x
          else if guardOf f.gd x = false then { x with pc := x.pc + BitVec.ofNat 64 (f.form.len + 4 * n) }
          else { x with pc := at_ x + (((w l).setWidth 24 : BitVec 24).signExtend 64 <<< 2) })))))

/-- JOIN, EXIT, SLEEP and the events that end a JOIN episode or a SLEEP (R12, R20 to R22, R193). A JOIN with a limit holds its guard-true lanes and opens an episode unless one
is open at its PC; the episode ends when every live lane is held there or its time is over, after the lanes that still reach it in the core cycle, and those released
issue from the next core cycle on. EXIT ends the guard-true lanes and, after the last lane of its team, the team; SLEEP
of n core cycles holds them until n cycles have gone by. -/
def Obligations.LaneControl : Prop :=
  ∀ (f : Fields) (s : State),
    let len : DWord := BitVec.ofNat 64 f.form.len
    let hold (h : Lane → Lane) : State := s.onLanes (fun l x =>
      if s.inBundle l = false then x else if guardOf f.gd x = false then { x with pc := x.pc + len } else h x)
    (∀ i ∈ [Instr.join f, Instr.joinX f], entryStop ⟨0x06, 0, 0⟩ f s = none →
      let t := if f.imm = 0 then bitsOf s.grp.jointo 0 16 else f.imm.toNat
      (t = 0 ∨ s.grp.method.isSome = true ∨ s.anyActive f.gd = false → exec i s = .next (s.advance f.form.len)) ∧
      (t ≠ 0 → s.grp.method = none → s.anyActive f.gd = true →
        let u := hold (fun x => { x with st := .joined })
        ((∃ e ∈ s.grp.eps, e.pc = s.bundle.pc) → exec i s = .next u) ∧
        ((∀ e ∈ s.grp.eps, e.pc ≠ s.bundle.pc) → exec i s = .next { u with grp := { u.grp with
          eps := s.grp.eps ++ [{ pc := s.bundle.pc, start := s.cycle, limit := 8 * t, len := f.form.len }] } }))) ∧
    (∀ (g : Group) (e : Episode), s.only g → e ∈ g.eps → (∀ y ∈ g.eps, y.pc = e.pc → y = e) →
      let done := (∀ x ∈ g.lanes, x.st = .exited ∨ (x.st = .joined ∧ x.pc = e.pc)) ∨ e.start + e.limit ≤ s.cycle
      let quiet := g.bench + 2 ≤ s.turn ∨ ∀ x ∈ g.lanes, ¬(x.st = .eligible ∧ x.free ≤ s.cycle)
      (done → quiet → exec (.joinTimeout g.uid e.pc) s = .next (s.onGroup g.uid (fun g => { g with
        lanes := g.lanes.map (fun x => if x.st = .joined ∧ x.pc = e.pc then
          { x with st := .eligible, hold := .none, pc := x.pc + BitVec.ofNat 64 e.len, free := s.cycle + 1 } else x)
        eps := g.eps.filter (fun y => y.pc != e.pc) }))) ∧
      (¬quiet ∨ (¬done ∧ 0 < e.limit) → exec (.joinTimeout g.uid e.pc) s = .next s)) ∧
    (entryStop ⟨0x07, 0, 0⟩ f s = none → (∀ p ∈ s.actives f.gd, ∀ m ∈ p.2.marked, m.rcause ≠ 0) → s.grp.utrap = false →
      let u := hold (fun x => { x with st := .exited, hold := .none, inH := false, acq := [] })
      let last := ∀ g ∈ u.allGroups, g.team = s.grp.team → g.uid ≠ 0 → ∀ x ∈ g.lanes, x.st = .exited
      (last → exec (.exit f) s = .next (u.onTeam s.grp.team (fun t => { t with exited := true }))) ∧
      (¬last → exec (.exit f) s = .next u)) ∧
    (entryStop ⟨0x07, 3, 0⟩ f s = none →
      let n := ((sclVal s.grp f.a).setWidth 32 : Word).toNat
      exec (.sleep f) s = .next (if n = 0 then s.advance f.form.len
        else hold (fun x => { x with st := .timed, hold := .timed (s.cycle + n) (x.pc + len) }))) ∧
    (∀ (g : Group) (l : Nat), s.only g → l < g.lanes.length → ∀ t next, (g.lanes.getD l default).st = .timed →
      (g.lanes.getD l default).hold = .timed t next →
      (s.cycle < t → exec (.timedExpiry g.uid l) s = .next s) ∧
      (t ≤ s.cycle → exec (.timedExpiry g.uid l) s = .next (s.onLane g.uid l (fun x => { x with st := .eligible, hold := .none, pc := next, free := s.cycle + 1 }))))

/-- TRAP, BKPT and RETT (R32, R33, R193): a trap from outside a handler with a handler set puts the guard-true lanes into it, recording the instruction, the next, the lanes, the kind
and the code; while a trap is in progress they are TRAPHELD with what they will record; from a handler, or with none set, it is ILLEGAL. RETT takes handler lanes to `TPC`, and the
trap ends with the last. -/
def Obligations.UserTraps : Prop :=
  ∀ (f : Fields) (s : State), s.grp.method = none →
    let len : DWord := BitVec.ofNat 64 f.form.len
    let on := s.actives f.gd
    let move (h : Lane → Lane) : State := s.onLanes (fun l x =>
      if s.inBundle l = false then x else if guardOf f.gd x = false then { x with pc := x.pc + len } else h x)
    (∀ c ∈ ([(.trap f, ⟨0x07, 1, 0⟩, 2, numOf f.b), (.bkpt f, ⟨0x07, 4, 0⟩, 3, 0)] : List (Instr × Key × Nat × Nat)), entryStop c.2.1 f s = none →
      (on = [] → exec c.1 s = .next (s.advance f.form.len)) ∧
      (on ≠ [] → (s.grp.trapv = 0 ∨ ∃ p ∈ on, p.2.inH = true) → exec c.1 s = .next (raise .illegal s)) ∧
      (on ≠ [] → s.grp.trapv ≠ 0 → (∀ p ∈ on, p.2.inH = false) →
        let m := s.activeMask f.gd
        (s.grp.utrap = false → exec c.1 s = .next { s with grp := { s.grp with
          tfpc := s.bundle.pc, tpc := s.bundle.pc + len, tmask := m.setWidth 64, tmaskhi := m.extractLsb' 64 64,
          tcause := BitVec.ofNat 64 (c.2.2.1 + c.2.2.2 % 64 * 1024), tdst := 0x8000, utrap := true,
          lanes := (move (fun x => { x with st := .eligible, pc := s.grp.trapv &&& ~~~3, inH := true })).grp.lanes } }) ∧
        (s.grp.utrap = true → ∃ o, (∀ x ∈ s.grp.lanes, x.heldAt < o) ∧ 2 ^ 16 < o ∧
          exec c.1 s = .next (move (fun x => { x with
            st := .trapheld, pc := s.bundle.pc, heldLen := f.form.len, heldAt := o, prheld := heldTrap c.2.2.1 0 c.2.2.2 { nodst := true } false }))))) ∧
    (entryStop ⟨0x07, 2, 0⟩ f s = none →
      ((∃ p ∈ on, p.2.inH = false) → exec (.rett f) s = .next (raise .illegal s)) ∧
      ((∀ p ∈ on, p.2.inH = true) →
        let u := move (fun x => { x with pc := s.grp.tpc &&& ~~~3, inH := false })
        ((s.grp.utrap = false ∨ ∃ x ∈ u.grp.lanes, x.inH = true) → exec (.rett f) s = .next u) ∧
        (s.grp.utrap = true → (∀ x ∈ u.grp.lanes, x.inH = false ∧ x.st ≠ .trapheld) →
          exec (.rett f) s = .next { u with grp := { u.grp with utrap := false } })))

/-- SYSCALL, RFT and the entry of a PREEMPT (R282, R292, R358, R359): what is saved of each lane, where it goes on, and what a return restores. A PREEMPT waits while a lane is
FAULTED or runs a privileged routine, or a SYS operation of its group other than SNAP is not over. In an assay context the lanes of SYSCALL wait, with its entry, until the shadow agrees, and enter the routine then (R295). The
model's choices: a lane whose `PRSTATE` names no state goes on ELIGIBLE (log 39), a PREEMPT waits for any routine of its group (logs 56 and 105), and RFT reads the record and the instruction
words of `rftReads` before it acts (log 110). -/
def Obligations.PrivilegedEntry : Prop :=
  ∀ (f : Fields) (s : State),
    let len : DWord := BitVec.ofNat 64 f.form.len
    let on := s.actives f.gd
    let move (h : Lane → Lane) : State := s.onLanes (fun l x =>
      if s.inBundle l = false then x else if guardOf f.gd x = false then { x with pc := x.pc + len } else h x)
    let code (x : Lane) : DWord := BitVec.ofNat 64 (stateCode x.st + (if x.inH then 16 else 0))
    (entryStop ⟨0x37, 0, 0⟩ f s = none →
      let v := (s.ctx (s.asidOf s.grp)).sysv
      let n := if f.form.isExt then f.imm.toNat % 2 ^ 16 else numOf f.b
      (on = [] → exec (.syscall f) s = .next (s.advance f.form.len)) ∧
      (on ≠ [] → v = 0 → exec (.syscall f) s = .next (raise .illegal s)) ∧
      (on ≠ [] → v ≠ 0 → s.isAssay s.grp.uid = false → (∀ p ∈ on, p.2.st = .eligible) →
        let t := move (fun x => { x with prpc := x.pc + len, prstate := code x, prheld := 0, hold := .none, pc := v &&& ~~~3, routine := some .syscall })
        exec (.syscall f) s = .next { t with grp := { t.grp with pcause := BitVec.ofNat 64 (2 + n % 2 ^ 16 * 2 ^ 16) } }) ∧
      (on ≠ [] → v ≠ 0 → s.isAssay s.grp.uid = true → (∀ p ∈ s.bundleLanes, p.2.routine = none) → s.freshNumber →
        ∃ t, exec (.syscall f) s = .next t ∧ t.mem = s.mem ∧ t.grp.scb.length = s.grp.scb.length + 1 ∧
          (∃ r ∈ t.grp.rels, r.id = s.nextId ∧ r.cont = .syscall n ∧ r.next = s.bundle.pc + len) ∧
          ∀ p ∈ on, t.laneAt p.1 = { p.2 with st := .counting, hold := .release s.nextId })) ∧
    (∀ (g : Group) (r : Rel) (k : Nat), s.only g → g.uid ≠ 0 → s.findRel r.id = some (g, r) → (∀ h ∈ s.allGroups, ∀ q ∈ h.rels, q.id = r.id → h = g ∧ q = r) →
      r.cont = .syscall k → r.stage = 0 → r.scope = 0 → r.waits = [] →
      ((∃ e ∈ g.scb, e.id = r.id) → exec (.releaseWctReached r.id) s = .next s) ∧
      ((∀ e ∈ g.scb, e.id ≠ r.id) → ∃ t, exec (.releaseWctReached r.id) s = .next t ∧ t.mem = s.mem ∧ ∃ y ∈ t.allGroups,
        y.uid = g.uid ∧ y.pcause = BitVec.ofNat 64 (2 + k % 2 ^ 16 * 2 ^ 16) ∧ ∀ l, l < g.lanes.length → r.lanes.getLsbD l = true →
          let z := y.lanes.getD l default
          z.routine = some .syscall ∧ z.st = .eligible ∧ z.prpc = r.next ∧ z.pc = (s.ctx (s.asidOf g)).sysv &&& ~~~3)) ∧
    (entryStop ⟨0x36, 6, 0⟩ f s = none →
      (on = [] → exec (.rft f) s = .next (s.advance f.form.len)) ∧
      ((∃ p ∈ on, p.2.routine = none) → exec (.rft f) s = .next (raise .illegal s)) ∧
      (on ≠ [] → (∀ p ∈ on, p.2.routine.isSome = true) →
        (s.grp.aside = false ∨ (∀ p ∈ on, p.2.routine = some .syscall) →
          (∀ p ∈ on, bitsOf p.2.prstate 0 4 ≠ 2 ∧ bitsOf p.2.prstate 0 4 ≠ 7) →
          let u := move (fun x => { x with
            routine := none, pc := x.prpc &&& ~~~3, inH := x.prstate.getLsbD 4, st := if bitsOf x.prstate 0 4 = 9 then .exited else .eligible, hold := .none })
          ((∀ p ∈ on, p.2.routine ≠ some .restore) → exec (.rft f) s = .next u) ∧
          ((∃ p ∈ on, p.2.routine = some .restore) → exec (.rft f) s = .next { u with grp := takeHeld (settleTrap u.grp) })) ∧
        (∀ i, rftReads f s = .fault i → exec (.rft f) s = .next (raiseWith i s)) ∧
        (∀ ws, rftReads f s = .ok ws → rftFull f s = false → ∃ t, exec (.rft f) s = .next t ∧ t.grp.lanes.length = s.grp.lanes.length ∧
          ((∃ p ∈ on, p.2.routine ≠ some .syscall) → t.grp.aside = false) ∧
          ∀ p ∈ on, (t.laneAt p.1).routine = none ∧ (t.laneAt p.1).hold ≠ .park ∧ (p.2.prstate.getLsbD 4 = true → (t.laneAt p.1).inH = true) ∧
            ((∀ q ∈ on, q.2.routine ≠ some .restore) → (t.laneAt p.1).inH = p.2.prstate.getLsbD 4)))) ∧
    (∀ g : Group, s.only g → g.uid ≠ 0 →
      let busy := (∃ x ∈ g.lanes, x.st = .faulted ∨ x.routine.isSome = true) ∨ ∃ w ∈ s.waiters, w.gid = g.uid ∧ w.kind ≠ .snap
      (g.preempt = false ∨ busy → exec (.preemptEntry g.uid) s = .next s) ∧
      (g.preempt = true → ¬busy → ∃ t, exec (.preemptEntry g.uid) s = .next t ∧ t.mem = s.mem ∧ ∃ y ∈ t.allGroups,
        y.uid = g.uid ∧ y.pcause = 1 ∧ y.preempt = false ∧ y.aside = true ∧ y.s = g.s ∧ y.lanes.length = g.lanes.length ∧
        ∀ l, l < g.lanes.length →
          let x := g.lanes.getD l default
          let z := y.lanes.getD l default
          z.v = x.v ∧ z.preds = x.preds ∧ z.fflags = x.fflags ∧
          (x.st = .exited → z.st = .exited ∧ z.prstate = 9) ∧
          (x.st ≠ .exited → z.st = .eligible ∧ z.routine = some .save ∧ z.pc = (s.ctx (s.asidOf g)).savev &&& ~~~3 ∧ z.prpc = x.pc ∧ z.prstate = code x)))

/-! Memory accesses -/

/-- LDG, STG, ATOM and its CAS form (R244 to R250, R252, R253): the checks over the guard-true lanes, each over every lane before the next, with the lowest failing lane named in DATA or ALIGN;
past them the bundle's requests are on their way, one for each guard-true lane, with memory untouched. A bundle with no guard-true lane counts and completes at once. An access waits
while its page or its format and range tables are awaited. A kind E access of LDG or STG is checked by its page's format, and a store of it leaves the flags of R97 and R102 in its lanes; COMM
is checked by its range. -/
def Obligations.GlobalAccesses : Prop :=
  ∀ (w : Width) (op : AtomOp) (cm : CommOp) (f : Fields) (s : State), s.grp.method = none →
    let on := s.actives f.gd
    (∀ c ∈ ([(.ldg w f, ⟨0x26, Enc.widthFn w, 0⟩, 0), (.stg w f, ⟨0x27, Enc.widthFn w, 0⟩, 1), (.atom op f, ⟨0x2A, Enc.atomOpFn op, 0⟩, 0),
        (.atomCas f, ⟨0x2A, 0, 1⟩, 0), (.comm cm f, ⟨0x3B, Enc.commOpFn cm, 0⟩, 1)] : List (Instr × Key × Nat)),
      entryStop c.2.1 f s = none → on = [] → exec c.1 s = .next ((s.count c.2.2 false).advance f.form.len)) ∧
    (∀ c ∈ ([(.ldg w f, ⟨0x26, Enc.widthFn w, 0⟩, 0, .load, widthBytes w, fun x => vaWith s.grp f (offsetOf s.grp f (widthBytes w) x) x, fun _ => (.load, 0)),
        (.stg w f, ⟨0x27, Enc.widthFn w, 0⟩, 1, .store, widthBytes w, fun x => vaWith s.grp f (offsetOf s.grp f (widthBytes w) x) x,
          fun x => (.store, BitVec.ofNat 128 (storeVal s.grp w f.d x))),
        (.atom op f, ⟨0x2A, Enc.atomOpFn op, 0⟩, 0, .atomic, atomBytes f.ty, fun x => vaWith s.grp f (immOff f) x,
          fun x => (.atom op f.ty, faddOperand s.grp f.ty (atomBytes f.ty) f.b x)),
        (.atomCas f, ⟨0x2A, 0, 1⟩, 0, .atomic, casBytes f, fun x => vaWith s.grp f (casOff f) x, fun x => (.cas, atomOperand s.grp (casBytes f) f.b x))] :
          List (Instr × Key × Nat × Touch × Nat × (Lane → DWord) × (Lane → Access × QWord))),
      let n := c.2.2.2.2.1
      let ea := c.2.2.2.2.2.1
      let tc := c.2.2.2.1
      entryStop c.2.1 f s = none → n ≠ 0 →
        (∀ l p r, on = l ++ p :: r → (∀ q ∈ l, (ea q.2).toNat < 2 ^ 52) → 2 ^ 52 ≤ (ea p.2).toNat →
          exec c.1 s = .next (raiseWith (dataFault tc 4 0 (ea p.2)) s)) ∧
        ((∀ q ∈ on, (ea q.2).toNat < 2 ^ 52) →
          (∀ l p r, on = l ++ p :: r → (∀ q ∈ l, (ea q.2).toNat % n = 0) → (ea p.2).toNat % n ≠ 0 →
            exec c.1 s = .next (raiseWith { cause := .align, access := tc.code, addr := ea p.2 } s)) ∧
          ((∀ q ∈ on, (ea q.2).toNat % n = 0) →
            (∀ l p r a b, on = l ++ p :: r → (∀ q ∈ l, ∀ a b, s.reach s.me tc (ea q.2).toNat ≠ .fail a b) → s.reach s.me tc (ea p.2).toNat = .fail a b →
              exec c.1 s = .next (raiseWith (dataFault tc a b (ea p.2)) s)) ∧
            ((∃ q ∈ on, s.reach s.me tc (ea q.2).toNat = .awaited) → (∀ q ∈ on, ∀ a b, s.reach s.me tc (ea q.2).toNat ≠ .fail a b) → exec c.1 s = .next s) ∧
            (∀ e : Nat → TlbEntry, on ≠ [] → (∀ q ∈ on, s.reach s.me tc (ea q.2).toNat = .page (e q.1)) → (∃ q ∈ on, s.tablesAwaited s.me (e q.1) = true) →
              exec c.1 s = .next s) ∧
            (∀ e : Nat → TlbEntry, on ≠ [] → (∀ q ∈ on, s.reach s.me tc (ea q.2).toNat = .page (e q.1)) → (∀ q ∈ on, s.tablesAwaited s.me (e q.1) = false) →
              (∀ q ∈ on, ∀ m ∈ q.2.marked, m.rcause = 0) → ∃ t, exec c.1 s = .next t ∧ issued s t f c.2.2.1 ∧
                (relOf f = false → (∀ q ∈ on, (pageFmt s s.me (e q.1)).map (fun x => x.fmt) ≠ some 4) →
                  (tc ≠ .load → ∀ q ∈ on, scopeOf f ≠ 0 ∨ isHost ((e q.1).phys (ea q.2).toNat) = true) →
                  ∃ p q, t.reqs = p ++ q ∧ (tc = .load → p = s.reqs) ∧
                    p.map (fun r => { r with data := 0, mask := 0, fixed := false }) = s.reqs.map (fun r => { r with data := 0, mask := 0, fixed := false }) ∧
                    ((q.filter (fun r => r.acc != .writeback)).map (fun r => (r.face.1, r.face.2.1, r.face.2.2.1, r.face.2.2.2.1)) =
                      on.map (fun p => (p.1, (c.2.2.2.2.2.2 p.2).1, ea p.2, n))) ∧
                    (tc ≠ .load → (q.filter (fun r => r.acc != .writeback)).map (fun r => r.data) = on.map (fun p => (c.2.2.2.2.2.2 p.2).2)) ∧
                    ∀ r ∈ q, r.acc ≠ .writeback → r.addr = (e r.lane).phys r.va.toNat ∧ r.gid = s.grp.uid))))) ∧
    (∀ c ∈ ([(.ldg .e f, ⟨0x26, Enc.widthFn .e, 0⟩, 0, ldgE s f on), (.stg .e f, ⟨0x27, Enc.widthFn .e, 0⟩, 1, stgE s f on)] :
        List (Instr × Key × Nat × Checked (List Req))), entryStop c.2.1 f s = none → on ≠ [] →
      (∀ i, c.2.2.2 = .fault i → exec c.1 s = .next (raiseWith i s)) ∧
      (∀ rs, c.2.2.2 = .ok rs → (∀ r ∈ rs, r.gid = s.grp.uid ∧ r.isBuf = false ∧ (r.acc = .load ∨ r.acc = .store) ∧ ∃ p ∈ on, p.1 = r.lane) ∧
        ∃ t, exec c.1 s = .next t ∧ t.mem = s.mem ∧ t.grp.ops.length = s.grp.ops.length + 1 ∧
          (c.2.2.1 = 0 ∨ (∀ p ∈ stgFlags s f on, p.2 = 0) → issued s t f c.2.2.1) ∧
          (c.2.2.1 = 1 → relOf f = false → quietTraps s.grp → ∀ p ∈ on, (t.laneAt p.1).pc = p.2.pc + BitVec.ofNat 64 f.form.len ∧
            (t.laneAt p.1).fflags = p.2.fflags ||| flagsOf (stgFlags s f on) p.1))) ∧
    (entryStop ⟨0x3B, Enc.commOpFn cm, 0⟩ f s = none → on ≠ [] →
      ∀ sps, checkLanes s s.me .store f.md 4 (on.map (fun p => (p.1, vaWith s.grp f (immOff f) p.2))) = .ok sps →
        (∀ l p r, sps = l ++ p :: r → (∀ q ∈ l, q.range = some cm) → p.range ≠ some cm →
          exec (.comm cm f) s = .next (raiseWith (dataFault .store 0 0 p.va) s)) ∧
        ((∀ p ∈ sps, p.range = some cm) → ∃ t, exec (.comm cm f) s = .next t ∧ issued s t f 1 ∧
          (relOf f = false → (∀ p ∈ sps, s.hasPartial (s.unitOf s.grp) p.pa = false) → ∃ q, t.reqs = s.reqs ++ q ∧
            q.map (fun r => (r.lane, r.acc, r.va, r.data)) =
              sps.map (fun p => (p.lane, .comm cm, p.va, BitVec.ofNat 128 (commVal s.grp cm f.b (s.laneAt p.lane)))) ∧
            ∀ r ∈ q, r.stage = .sent)))

/-- LDB, STB, ATOMB and its CAS form (R38, R39, R41, R244, R251, R254): R39's checks in their order, each over every guard-true lane, with the lowest failing lane named; past them one
request for each lane. In a method (R152) the access is to the object's state block and is performed at once, or traps. -/
def Obligations.BufferAccesses : Prop :=
  ∀ (w : Width) (op : AtomOp) (f : Fields) (s : State), w ≠ .e →
    let on := s.actives f.gd
    ∀ c ∈ ([(.ldb w f, ⟨0x28, Enc.widthFn w, 0⟩, 0, .load, widthBytes w, offsetOf s.grp f (widthBytes w), .load, fun _ => 0, fun _ => 0),
        (.stb w f, ⟨0x29, Enc.widthFn w, 0⟩, 1, .store, widthBytes w, offsetOf s.grp f (widthBytes w), .store,
          fun x => BitVec.ofNat 128 (storeVal s.grp w f.d x), fun _ => 0),
        (.atomb op f, ⟨0x2B, Enc.atomOpFn op, 0⟩, 0, .atomic, atomBytes f.ty, fun _ => immOff f, .atom op f.ty,
          fun x => faddOperand s.grp f.ty (atomBytes f.ty) f.b x, fun _ => 0),
        (.atombCas f, ⟨0x2B, 0, 1⟩, 0, .atomic, casBytes f, fun _ => casOff f, .cas, fun x => atomOperand s.grp (casBytes f) f.b x,
          fun x => atomOperand s.grp (casBytes f) f.c x)] :
          List (Instr × Key × Nat × BufUse × Nat × (Lane → Int) × Access × (Lane → QWord) × (Lane → QWord))),
      let n := c.2.2.2.2.1
      let ea (x : Lane) : Nat := bufWith s.grp f (c.2.2.2.2.2.1 x) x
      let use := c.2.2.2.1
      let acc := c.2.2.2.2.2.2.1
      let fails (i : Nat) (p : Nat × Lane) : Bool := (bufFails s s.myTeam use n (ea p.2)).getD i false
      entryStop c.2.1 f s = none →
        (s.grp.method = none →
          (on = [] → exec c.1 s = .next ((s.count c.2.2.1 false).advance f.form.len)) ∧
          (∀ i l p r, i < 6 → on = l ++ p :: r → (∀ j, j < i → ∀ q ∈ on, fails j q = false) → (∀ q ∈ l, fails i q = false) → fails i p = true →
            exec c.1 s = .next (raiseWith
              { cause := bufCause i, access := (match use with | .load => 2 | .store => 3 | _ => 4), addr := BitVec.ofNat 64 (ea p.2) } s)) ∧
          ((∀ i, i < 6 → ∀ q ∈ on, fails i q = false) → on ≠ [] → ∃ t, exec c.1 s = .next t ∧ issued s t f c.2.2.1 ∧
            (relOf f = false → ∃ q, t.reqs = s.reqs ++ q ∧
              q.map (fun r => (r.face, r.isBuf, r.team, r.region, r.addr)) = on.map (fun p =>
                let b := bufSpot s s.myTeam n p.1 (ea p.2)
                ((p.1, acc, BitVec.ofNat 64 (ea p.2), n, c.2.2.2.2.2.2.2.1 p.2), true, b.team, b.region, b.off))))) ∧
        (∀ m e, s.grp.method = some m → s.elect f.gd = some e →
          (∀ k, methodAccess s m (use != .load) n (ea e.2) = some k → exec c.1 s = .next (methodTrap k m s)) ∧
          (methodAccess s m (use != .load) n (ea e.2) = none →
            let old := rdBytes (s.ocopy m.die m.obj).bytes (ea e.2) n
            let new := { (default : Req) with acc := acc, elems := n, data := c.2.2.2.2.2.2.2.1 e.2, cmp := c.2.2.2.2.2.2.2.2 e.2 }.newVal old
            ∃ t, exec c.1 s = .next t ∧ t.mem = s.mem ∧ t.grp.s = s.grp.s ∧
              (use = .load → t = { s with grp := { s.grp with lanes := t.grp.lanes } }) ∧
              (use = .store → t.grp.lanes = (s.advance f.form.len).grp.lanes ∧
                t.ocopies = updBy (fun y => y.die == m.die && y.obj == m.obj)
                  (fun y => { y with bytes := wrBytes y.bytes (ea e.2) n (c.2.2.2.2.2.2.2.1 e.2).toNat }) s.ocopies) ∧
              (use = .atomic → t.ocopies = updBy (fun y => y.die == m.die && y.obj == m.obj)
                  (fun y => { y with bytes := wrBytes y.bytes (ea e.2) n new }) s.ocopies) ∧
              (use ≠ .store → ∀ d, f.d = .vec d → t.grp.lanes = (s.lanewise f (fun _ x =>
                x.setWords d.toNat (if use = .load then (widthExt w).words_ else (n + 3) / 4) (if use = .load then widthLoad w old else old))).grp.lanes)))

/-! The agents of memory -/

/-- What a home does with a request (R52, R54, R55, R64, R66 to R69, R77, R297): a request that reaches its home after the older ones of its core takes a place in its slice's queue, or in the
hold buffer while its granule moves, and is refused when that is full; one for the window of a failed die goes no further. The slice begins its requests in their order. The lines of a word of a
range with holders are combined first; a load, or the fetch of an
L1 atomic, before the last write's W is held; a load is served the bytes with its own core's over them; a store or a lone atomic gets W, the largest of max(GTIME, horizon) + δ and the last W of
each line it touches, and changes exactly its bytes, but for those of the discovery structure once that is read-only (R370). HELD_LOAD_RELEASE serves a held load at W, REQUEST_FORWARD sends a request on towards the home, FLIT_REOFFER takes a refused one when
there is room. -/
def Obligations.HomeRequests : Prop :=
  ∀ (r : Nat) (q : Req) (s : State), s.req r = some q →
    let ln := lineOf q.addr
    let lines := if lineOf (q.addr + q.n - 1) = ln then [ln] else [ln, lineOf (q.addr + q.n - 1)]
    let now := s.homeNow q.addr
    let w1 (l : Nat) : Nat := max (max now (max (s.line l).horizon (s.granule (l / 512)).horizon) + Config.delta) (s.line l).w
    let w := (lines.map w1).foldl max 0
    let ahead := ∃ l ∈ lines, now < (s.line l).w
    let toCombine := ∃ l ∈ lines, (s.line l).holders ≠ [] ∨ s.flushOwed l = true
    let served (t : State) (p : Req → Prop) : Prop := ∃ q', t.req r = some q' ∧ q'.stage = .served ∧ p q'
    let own := if q.fixed then (q.data, q.mask) else if q.combine then (0, 0) else s.coreView q.core q.addr q.n
    let seen : QWord := (BitVec.ofNat 128 (rdBytes s.mem q.addr q.n) &&& ~~~own.2) ||| (own.1 &&& own.2)
    let moving := (s.granule (granuleOf q.addr)).moving.isSome = true ∧ ∀ op, q.acc ≠ .flush op
    let atom := (∃ op ty, q.acc = .atom op ty) ∨ q.acc = .cas
    let i := match q.acc with | .comm _ => Instr.partialRegistration r | .flush _ => Instr.partialFlush r | _ => Instr.homeRequest r
    (q.isBuf = false → isHost q.addr = false → q.refused = false → q.target = s.homeOf q.addr →
      (s.windowGone q.addr = true → (∀ op, q.acc = .comm op → s.hasPartial q.core q.addr = false) → exec i s = .next s) ∧ (s.windowGone q.addr = false →
      (q.stage = .sent → (∀ op, q.acc = .comm op → s.hasPartial q.core q.addr = false ∨ s.inScb q = true) →
        (s.inScb q = true ∨ s.staysHere q = true ∨ s.firstToSlice q = false → exec i s = .next s) ∧
        (s.inScb q = false → s.staysHere q = false → s.firstToSlice q = true →
          (moving → exec i s = .next (if s.holdRoom q then { (s.onReq q.id (fun x => { x with stage := .waiting, seq := s.nextId })) with nextId := s.nextId + 1 }
            else s.onReq q.id (fun x => { x with refused := true }))) ∧
          (¬moving → exec i s = .next (if s.queueRoom q then { (s.onReq q.id (fun x => { x with stage := .queued, seq := s.nextId })) with nextId := s.nextId + 1 }
            else s.onReq q.id (fun x => { x with refused := true }))))) ∧
      (q.stage ≠ .sent → s.turnOf q = false → exec i s = .next s) ∧
      (s.turnOf q = true → q.stage = .queued → (∀ op, q.acc ≠ .flush op) → s.linesBusy q.seq q = true →
        exec i s = .next (s.onReq q.id (fun x => { x with stage := .waiting }))) ∧
      (s.turnOf q = true → (q.stage = .queued → s.linesBusy q.seq q = false) → (∀ op, q.acc ≠ .flush op) → (∀ op, q.acc ≠ .comm op) →
        (q.combine = true → toCombine → ∃ t, exec (.homeRequest r) s = .next t ∧
          t = { s with reqs := t.reqs, dies := t.dies } ∧ t.reqs = updBy (fun x => x.id == q.id) (fun x =>
            { x with stage := .combining, holders := (lines.flatMap (fun l => (s.line l).holders)).dedup, parts := [] }) s.reqs) ∧
        (q.combine = false ∨ ¬toCombine →
          (q.acc = .load ∨ (q.l1 = true ∧ atom) → ahead → ∃ t, exec (.homeRequest r) s = .next t ∧ t.mem = s.mem ∧ ∃ q', t.req r = some q' ∧ q'.stage = .held) ∧
          (q.acc = .load → ¬ahead → ∃ t, exec (.homeRequest r) s = .next t ∧ t.mem = s.mem ∧ served t (fun q' => q'.val = seen) ∧
            (q.combine = false → (s.die (s.homeOf q.addr)).skew = false → (q.lease ≠ 3 ∨ q.die = s.homeOf q.addr) →
              let code := if now < (s.line ln).hot ∧ q.lease ≠ 3 then 0 else q.lease
              (t.line ln).horizon = max (s.line ln).horizon (now + leaseTicks code) ∧
              (q.l1 = false → ∃ c ∈ t.copies, c.unit = q.core ∧ c.line = ln ∧ c.expiry = now + leaseTicks code))) ∧
          (s.Inv → (q.acc = .store ∨ q.acc = .writeback) → ∃ t, exec (.homeRequest r) s = .next t ∧ served t (fun q' => q'.w = w) ∧
            (∀ l ∈ lines, (t.line l).w = w) ∧ putBytes s.mem t.mem q.addr q.n q.data (s.openMask q.addr q.mask q.n)) ∧
          (s.Inv → atom → q.six = 0 → q.n ≤ 16 → s.reqs.filter (fun p => q.sibling p && p.stage != .served && p.stage != .port) = [q] →
            (q.l1 = true → ¬ahead → s.laneFirst q = true → ∃ t, exec (.homeRequest r) s = .next t ∧ t.mem = s.mem ∧ served t (fun _ => True)) ∧
            (q.l1 = false → ∃ t, exec (.homeRequest r) s = .next t ∧ served t (fun q' => q'.w = w ∧ q'.val = BitVec.ofNat 128 (rdBytes s.mem q.addr q.n)) ∧
              (∀ l ∈ lines, (t.line l).w = w) ∧
              putBytes s.mem t.mem q.addr q.n (BitVec.ofNat 128 (q.newVal (rdBytes s.mem q.addr q.n))) (s.openMask q.addr (fullMask q.n) q.n))))))) ∧
    (q.stage = .held → q.acc = .load → isHost q.addr = false →
      (ahead → exec (.heldLoadRelease r) s = .next s) ∧
      (¬ahead → ∃ t, exec (.heldLoadRelease r) s = .next t ∧ t.mem = s.mem ∧ served t (fun q' => q'.val = seen))) ∧
    (q.stage = .sent → q.isBuf = false → isHost q.addr = false → s.inScb q = false → q.target ≠ s.homeOf q.addr →
      (s.firstToSlice q = false → exec (.requestForward r) s = .next s) ∧
      (s.firstToSlice q = true → ∃ d, exec (.requestForward r) s = .next (s.onReq r (fun x => { x with target := d, hops := x.hops + 1, refused := false })) ∧
        (q.target = storageDie q.addr → d = s.homeOf q.addr) ∧
        (q.target ≠ storageDie q.addr → (d = storageDie q.addr ∨ ∃ k ∈ s.forwards, k.die = q.target ∧ k.gran = granuleOf q.addr ∧ s.gtime q.target < k.until_ ∧ d = k.dest)))) ∧
    (q.refused = true → exec (.flitReoffer r) s =
      .next (if (if (s.granule (granuleOf q.addr)).moving.isSome ∧ q.acc.isFlush = false then s.holdRoom q else s.queueRoom q) then
        s.onReq r (fun x => { x with refused := false }) else s))

/-- How an answer and an acknowledgement arrive (R59, R66, R69, R71, R75, R77, R79, R82, R248): the value goes to the lane's registers, from the home, from the core's own bytes or a copy under
lease, from a buffer, or, in a window of the host that a hub serves, whatever it answers (log 28); a kind E load answers when its element and its scale byte are there. An atomic on a buffer, or of team scope, is performed
on its bytes alone and answers then; an acknowledgement's W enters the group's WCT, a buffer store changes its bytes alone, and a store to the host leaves the module. -/
def Obligations.Answers : Prop :=
  ∀ (r : Nat) (q : Req) (s : State), s.req r = some q →
    let plain (x : QWord) (v : Nat) : Prop :=
      (q.ext = .zext → v = x.toNat) ∧ (∀ n, q.ext = .words n → v = x.toNat) ∧ (∀ b, q.ext = .sext b → v = ((BitVec.ofNat b x.toNat).signExtend 32).toNat)
    let at_ := (s.team q.team).read q.region q.addr q.n
    let atom := (∃ op ty, q.acc = .atom op ty) ∨ q.acc = .cas
    let alone := s.reqs.filter (fun p => q.sibling p && p.stage != .served && p.stage != .port) = [q]
    let mated := ∃ p ∈ s.reqs, p.op = q.op ∧ p.gid = q.gid ∧ p.lane = q.lane ∧ p.acc = .load ∧ p.isScale ≠ q.isScale
    (q.isBuf = false → q.acc = .load → q.six = 0 → q.isScale = false → ¬mated →
      (q.stage = .served → ∃ t v, exec (.loadComplete r) s = .next t ∧ t.mem = s.mem ∧ plain q.val v ∧ delivered s t q v q.poisoned) ∧
      (q.stage = .sent → ∀ x h, s.localVal q = some (x, h) →
        ∃ t v, exec (.loadComplete r) s = .next t ∧ t.mem = s.mem ∧ plain x v ∧ delivered s t q v (q.poisoned || h)) ∧
      (q.stage = .sent → s.localVal q = none → exec (.loadComplete r) s = .next s) ∧
      (q.stage = .port → isPeer q.addr = true ∨ s.hubsDown q.die q.addr = true → exec (.loadComplete r) s = .next s) ∧
      (q.stage = .port → isPeer q.addr = false → s.hubsDown q.die q.addr = false → ∃ t v, exec (.loadComplete r) s = .next t ∧ t.mem = s.mem ∧ t.free = s.free + 1 ∧
        t.out = s.out ++ [.hostRead (s.pasidOf q.asid) q.addr q.n] ∧ (q.n ≤ 16 → plain (BitVec.ofNat 128 (s.hostValue q.n)) v) ∧ delivered s t q v q.poisoned)) ∧
    (q.isBuf = false → q.acc = .load → q.stage = .served → mated →
      (q.isScale = false → exec (.loadComplete r) s = .next s) ∧
      (q.isScale = true → q.six = 0 → exec (.loadComplete r) s = .next { s with
        reqs := (updBy (fun p => p.op == q.op && p.gid == q.gid && p.lane == q.lane && p.acc == .load && p.isScale != q.isScale)
          (fun p => { p with scale := q.val.setWidth 8, poisoned := p.poisoned || q.poisoned }) s.reqs).filter (fun p => p.id != q.id) })) ∧
    (q.isBuf = false → atom → q.six = 0 → q.stage = .served →
      ∃ t v, exec (.loadComplete r) s = .next t ∧ t.mem = s.mem ∧ plain q.val v ∧ delivered s t q v q.poisoned ∧
        ∀ g, s.only g → g.uid = q.gid → ∃ y ∈ t.allGroups, y.uid = g.uid ∧ y.wct = if q.l1 then g.wct else max g.wct q.w) ∧
    (q.isBuf = false → atom → q.l1 = true → q.six = 0 → q.n ≤ 16 → q.stage = .sent → s.inScb q = false → s.laneFirst q = true → alone →
      (s.l1Word q = none → exec (.loadComplete r) s = .next s) ∧
      (∀ x h, s.l1Word q = some (x, h) → lineOf (q.addr + q.n - 1) = lineOf q.addr → lineOf q.addr ∈ s.l1Lines q.core →
        let view := s.coreView q.core q.addr q.n
        let old : QWord := (x &&& ~~~view.2) ||| (view.1 &&& view.2)
        ∃ t q', exec (.loadComplete r) s = .next t ∧ t.mem = s.mem ∧ t.req r = some q' ∧ q'.stage = .served ∧ q'.val = old ∧
          ∀ i, i < q.n → let d := sget 0 (t.core q.core).dirty (q.addr + i)
            d.setWidth 13 = (0x100 : BitVec 13) ||| (BitVec.ofNat 8 (q.newVal old.toNat / 256 ^ i)).setWidth 13 ∧
              (((q.poisoned = true ∨ h = true) ∧ view.2 ≠ fullMask q.n) ∨ s.coreHurt q.core q.addr q.n = true → dirtyHurt d = true))) ∧
    (q.isBuf = true → q.six = 0 → q.n ≤ 16 →
      (q.stage = .served → ∃ t v, exec (.loadComplete r) s = .next t ∧ t.mem = s.mem ∧ t.teams = s.teams ∧ plain q.val v ∧ delivered s t q v q.poisoned) ∧
      (q.stage ≠ .served → s.bufReady q = false → exec (.loadComplete r) s = .next s) ∧
      (q.stage ≠ .served → s.bufReady q = true →
        (q.acc = .load → ∃ t v, exec (.loadComplete r) s = .next t ∧ t.mem = s.mem ∧ t.teams = s.teams ∧ plain (BitVec.ofNat 128 at_) v ∧ delivered s t q v (s.bufPoison q)) ∧
        (atom → s.inScb q = false → alone → ∃ t q', exec (.loadComplete r) s = .next t ∧ t.mem = s.mem ∧ t.req r = some q' ∧ q'.stage = .served ∧
          q'.val = BitVec.ofNat 128 at_ ∧ q'.poisoned = s.bufPoison q ∧
          t.teams = updBy (fun x => x.uid == q.team) (fun x =>
            { x.write q.region q.addr q.n (q.newVal at_) with poison := clearPoison x.poison (2 ^ 28 * q.region + q.addr) q.n }) s.teams))) ∧
    (q.isBuf = true → q.acc = .store → s.bufReady q = true → s.inScb q = false →
      exec (.storeAck r) s = .next { s with
        reqs := s.reqs.filter (fun p => p.id != q.id)
        teams := updBy (fun x => x.uid == q.team) (fun x =>
          { x.write q.region q.addr q.n q.data.toNat with poison := clearPoison x.poison (2 ^ 28 * q.region + q.addr) q.n }) s.teams }) ∧
    (q.isBuf = false → (q.acc = .store ∨ q.acc = .writeback ∨ ∃ op, q.acc = .flush op) → q.stage = .served →
      ∃ t, exec (.storeAck r) s = .next t ∧ t.mem = s.mem ∧ t.reqs = s.reqs.filter (fun p => p.id != q.id) ∧
        (∀ g, s.only g → g.uid = q.gid → ∃ y ∈ t.allGroups, y = { g with wct := max g.wct q.w })) ∧
    (q.isBuf = false → q.acc = .store → q.stage = .port → s.inScb q = false →
      (isPeer q.addr = true → exec (.storeAck r) s = .next s) ∧
      (isHost q.addr = true → isPeer q.addr = false → s.hubsDown q.die q.addr = false → (∀ p ∈ s.reqs, p.id < q.id → p.stage = .port → p.acc = .store → p.core = q.core → isHost p.addr = false) →
        ∃ t, exec (.storeAck r) s = .next t ∧ t.mem = s.mem ∧ t.out = s.out ++ [.hostWrite (s.pasidOf q.asid) q.addr q.data q.mask] ∧ t.reqs = s.reqs.filter (fun p => p.id != q.id)) ∧
      (isHost q.addr = false → q.mask = fullMask q.n → q.n ≤ 16 → q.six = 0 →
        (∀ p ∈ s.reqs, p.id < q.id → p.inCore = true → p.core = q.core → overlap p.addr p.n q.addr q.n = false) → ∃ t, exec (.storeAck r) s = .next t ∧ t.mem = s.mem ∧ (∀ p ∈ t.reqs, p.id ≠ q.id) ∧
        ∀ i, i < q.n → (sget 0 (t.core q.core).dirty (q.addr + i)).setWidth 13 = (0x100 : BitVec 13) ||| (BitVec.ofNat 8 (q.data.toNat / 256 ^ i)).setWidth 13))

/-- Evictions, lent segments and homes that move (R49, R50, R54 to R57, R75): an evicted line leaves the L1 with its dirty bytes and its partial on their way home; a segment is
handed over once everything is acknowledged; at each millisecond of GTIME a die halves its granules' counts and marks those that move; a claim gives the new home the granule, keeps
its horizon for every line of it, forwards what was held and leaves a pointer for 1 ms. That a segment's drain empties the whole core of dirty bytes, copies and partials is the model's
choice (log 36). -/
def Obligations.CopiesAndHomes : Prop :=
  ∀ (s : State),
    (∀ core line, ∃ t, exec (.l1Eviction core line) s = .next t ∧ t.mem = s.mem ∧
      (t.core core).dirty = (s.core core).dirty.filter (fun e => !(lineOf e.1 == line)) ∧ t.copies = s.copies.filter (fun c => !(c.unit == core && c.line == line)) ∧
      t.partials = s.partials.filter (fun p => !(p.core == core && p.line == line)) ∧ ∃ q, t.reqs = s.reqs ++ q ∧
        (∀ x ∈ (s.core core).dirty, lineOf x.1 = line → ∃ k ∈ q, k.acc = .writeback ∧ k.core = core ∧ k.addr ≤ x.1 ∧ x.1 < k.addr + k.n)) ∧
    (∀ die line, exec (.replicaEviction die line) s = .next { s with replicas := s.replicas.filter (fun c => !(c.unit == die && c.line == line)) }) ∧
    (∀ (team : Team) (weight : Bool) (seg : Nat) (owed : Option (List Nat)), s.teams.find? (fun t => t.die * Config.coresPerDie + t.core == team.die * Config.coresPerDie + team.core &&
        t.drain.any (fun d => d.1 == weight && d.2.1 == seg)) = some team →
      team.drain.find? (fun d => d.1 == weight && d.2.1 == seg) = some (weight, seg, owed) →
      let i := Instr.segmentDrain (team.die * Config.coresPerDie + team.core) weight seg
      (owed = none → ∃ t, exec i s = .next t ∧ t.mem = s.mem ∧ (t.core (team.die * Config.coresPerDie + team.core)).dirty = [] ∧
        (∀ c ∈ t.copies, c.unit ≠ team.die * Config.coresPerDie + team.core) ∧ ∀ p ∈ t.partials, p.core ≠ team.die * Config.coresPerDie + team.core) ∧
      (∀ l, owed = some l → (∃ q ∈ s.reqs, l.contains q.id = true) → exec i s = .next s) ∧
      (∀ l, owed = some l → (∀ q ∈ s.reqs, l.contains q.id = false) →
        exec i s = .next (s.onTeam team.uid (fun t => { t with drain := t.drain.filter (fun d => !(d.1 == weight && d.2.1 == seg)) })))) ∧
    (∀ die, die < s.dies.length →
      let ms := s.gtime die / ticksPerMs
      (ms ≤ (s.die die).halved → exec (.granuleCountHalving die) s = .next s) ∧
      ((s.die die).halved < ms → ∃ t, exec (.granuleCountHalving die) s = .next t ∧ t.mem = s.mem ∧ (t.die die).halved = ms ∧
        t.granules.map (fun p => (p.1, p.2.home)) = s.granules.map (fun p => (p.1, p.2.home)) ∧
        ∀ p ∈ s.granules, ∃ p' ∈ t.granules, p'.1 = p.1 ∧
          (p.2.home ≠ die → p' = p) ∧
          (p.2.home = die → (∀ d, swf (0 : BitVec 8) p.2.counts = true → sget 0 p'.2.counts d = sget 0 p.2.counts d >>> 1) ∧
            (∀ d, p.2.moving = none → p'.2.moving = some d → d ≠ die ∧ 128 ≤ (sget 0 p.2.counts d).toNat ∧
              2 * (sget 0 p.2.counts die).toNat ≤ (sget 0 p.2.counts d).toNat ∧ p.2.movedAt + ticksPerMs ≤ s.gtime die)))) ∧
    (∀ gran d, (s.granule gran).moving = some d →
      let g := s.granule gran
      let here (r : Req) : Prop := r.isBuf = false ∧ isHost r.addr = false ∧ granuleOf r.addr = gran ∧ r.target = g.home
      let begun := ∃ r ∈ s.reqs, (r.stage = .queued ∨ r.stage = .held ∨ r.stage = .combining) ∧ here r
      (begun → exec (.claim gran) s = .next s) ∧
      (¬begun → (∀ i, i < 16 → ∀ p ∈ s.portWork g.home i, granuleOf p.2.2.addr ≠ gran) → ∃ t, exec (.claim gran) s = .next t ∧ t.mem = s.mem ∧ (t.granule gran).home = d ∧ (t.granule gran).moving = none ∧
        (t.granule gran).movedAt = s.gtime g.home ∧
        (∃ k ∈ t.forwards, k.die = g.home ∧ k.gran = gran ∧ k.dest = d ∧ k.until_ = s.gtime g.home + ticksPerMs) ∧
        t.lines = s.lines ∧ g.horizon ≤ (t.granule gran).horizon ∧ (∀ k ∈ s.lines, k.1 / 512 = gran → k.2.horizon ≤ (t.granule gran).horizon) ∧
        t.reqs.length = s.reqs.length ∧ ∀ (i : Nat) (r : Req), s.reqs[i]? = some r →
          (here r → r.stage = .waiting → t.reqs[i]? = some { r with stage := .sent, target := d, hops := r.hops + 1 }) ∧
          (¬here r ∨ r.stage ≠ .waiting → t.reqs[i]? = some r))) ∧
    ∀ die gran, exec (.forwardPointerExpiry die gran) s =
      .next { s with forwards := s.forwards.filter (fun f => !(f.die == die && f.gran == gran && decide (f.until_ ≤ s.gtime die))) }

/-- Commutative partials, counters and releases (R63, R64, R72, R78, R81, R85): a COMM whose core holds a partial of the line folds into it, those of its core on one word in their order; any other registers at the home, in its turn,
which makes the core a holder, and folds into a partial that begins at the identity. A flushed word is folded into the home's; a recalled holder returns its words of the access's lines and leaves; when all have
answered and what was flushed has arrived the home folds them and performs the access. Completed operations of a class retire in order and let waiting lanes go. A wide release first waits for
the older accesses, then sends the core's dirty bytes and partials home, then passes once all is acknowledged and GTIME has reached `WCT`; PROMOTE sends the victim core's dirty bytes and
partials home and waits for its writes. -/
def Obligations.PartialsAndReleases : Prop :=
  ∀ (r : Nat) (s : State),
    (∀ q, s.req r = some q →
      let ln := lineOf q.addr
      let lines := linesOf q.addr q.n
      let word : Nat := q.addr % 128 / 4
      let turn := q.isBuf = false ∧ isHost q.addr = false ∧ q.refused = false ∧ q.target = s.homeOf q.addr ∧ s.windowGone q.addr = false ∧ s.turnOf q = true
      let folded (op : CommOp) (t : State) : Prop := ∀ p ∈ s.partials, p.core = q.core → p.line = ln → ∃ p' ∈ t.partials, p'.core = p.core ∧
        p'.line = p.line ∧ p'.op = p.op ∧ (word, commFold op (((p.words.find? (fun e => e.1 == word)).map (fun e => e.2)).getD (commIdentity op)) (q.data.setWidth 32)) ∈ p'.words ∧
        ∀ e ∈ p.words, e.1 ≠ word → e ∈ p'.words
      (∀ op, q.acc = .comm op →
        (q.stage = .sent → s.inScb q = false → s.hasPartial q.core q.addr = true → s.foldsNext q = true → ∃ t, exec (.partialRegistration r) s = .next t ∧ t.mem = s.mem ∧
          t.lines = s.lines ∧ (∀ p ∈ t.reqs, p.id ≠ r) ∧ folded op t) ∧
        (turn → (q.stage = .queued → s.linesBusy q.seq q = false) → ∃ t, exec (.partialRegistration r) s = .next t ∧ t.mem = s.mem ∧ (∀ p ∈ t.reqs, p.id ≠ r) ∧ q.core ∈ (t.line ln).holders ∧
            (s.hasPartial q.core q.addr = true → folded op t) ∧
            (s.hasPartial q.core q.addr = false → ∃ p ∈ t.partials, p.core = q.core ∧ p.line = ln ∧ p.op = op ∧
              p.words = [(word, commFold op (commIdentity op) (q.data.setWidth 32))]))) ∧
      (∀ op, q.acc = .flush op → turn → s.Inv →
        ∃ t, exec (.partialFlush r) s = .next t ∧ (∃ q', t.req r = some q' ∧ q'.stage = .served) ∧
          putBytes s.mem t.mem q.addr 4 ((commFold op (BitVec.ofNat 32 (rdBytes s.mem q.addr 4)) (q.data.setWidth 32)).setWidth 128)
            (s.openMask q.addr (fullMask 4) 4)) ∧
      (∀ core, q.stage = .combining → core ∈ q.holders → ∃ t, exec (.partialRecall r core) s = .next t ∧ t.mem = s.mem ∧
        t.partials = s.partials.filter (fun p => !(p.core == core && lines.contains p.line)) ∧ (∀ l ∈ lines, core ∉ (t.line l).holders) ∧
        ∃ q', t.req r = some q' ∧ q'.stage = .combining ∧ q'.holders = q.holders.filter (fun c => c != core) ∧
          q'.parts = q.parts ++ (s.partials.filter (fun p => p.core == core && lines.contains p.line)).flatMap (fun p => p.words.map (fun e => (core, 32 * p.line + e.1, p.op, e.2)))) ∧
      (q.stage = .combining → q.holders = [] → (∀ l ∈ lines, s.flushOwed l = false) → q.acc = .load → q.combine = true → q.fixed = false →
        (∀ l ∈ lines, (s.line l).w ≤ s.homeNow q.addr) →
        let m := q.parts.mergeSort (fun a b => decide (a.1 ≤ b.1)) |>.foldl (fun m p =>
          wrBytes m (4 * p.2.1) 4 (commFold p.2.2.1 (BitVec.ofNat 32 (rdBytes m (4 * p.2.1) 4)) p.2.2.2).toNat) s.mem
        isHost q.addr = false → ∃ t, exec (.combineComplete r) s = .next t ∧ t.mem = m ∧ ∃ q', t.req r = some q' ∧ q'.stage = .served ∧ q'.parts = [] ∧
          q'.val = BitVec.ofNat 128 (rdBytes m q.addr q.n)) ∧
      (q.stage = .combining → q.holders ≠ [] ∨ (∃ l ∈ lines, s.flushOwed l = true) → exec (.combineComplete r) s = .next s)) ∧
    (∀ g cls, s.only g → ∃ t y, exec (.counterRetire g.uid cls) s = .next t ∧ t.mem = s.mem ∧ y ∈ t.allGroups ∧ y.uid = g.uid ∧ y.s = g.s ∧
      (∀ k, y.ops.filter (fun o => o.cls == k) =
        if k = cls then (g.ops.filter (fun o => o.cls == k)).dropWhile s.opDone else g.ops.filter (fun o => o.cls == k)) ∧
      y.lanes = g.lanes.map (fun x => match x.hold with
        | .wait a b c d next => if under (y.counter 0) a && under (y.counter 1) b && under (y.counter 2) c && under (y.counter 3) d
            then { x with st := .eligible, hold := .none, pc := next, free := s.cycle + 1 } else x
        | _ => x)) ∧
    (∀ g x, s.only g → s.findRel r = some (g, x) → (∀ y ∈ s.allGroups, (∃ z ∈ y.rels, z.id = r) → y.uid = g.uid) →
      let now := s.gtime (s.dieOf g)
      let owes := ∃ k ∈ x.waits, s.relOwes { g with rels := g.rels.filter (fun z => z.id != r) } x.scope k = true
      (x.stage = 0 → owes ∨ s.unmatched g.uid r = true → exec (.releaseWctReached r) s = .next s) ∧
      (∀ a, x.stage = 0 → ¬owes → s.unmatched g.uid r = false → x.scope ≠ 0 → x.cont = .fence a → ∃ t, exec (.releaseWctReached r) s = .next t ∧ t.mem = s.mem ∧
        (t.core (s.unitOf g)).dirty = [] ∧ ∀ p ∈ t.partials, p.core ≠ s.unitOf g) ∧
      (x.stage = 1 → owes → exec (.releaseWctReached r) s = .next s) ∧
      (x.stage = 2 → now < g.wct → exec (.releaseWctReached r) s = .next s) ∧
      (x.stage = 2 → g.wct ≤ now → x.cont = .fence false → ∃ t y, exec (.releaseWctReached r) s = .next t ∧ t.mem = s.mem ∧ y ∈ t.allGroups ∧ y.uid = g.uid ∧
        (∀ z ∈ y.rels, z.id ≠ r) ∧
        y.lanes = mapLanes (fun l z => if x.lanes.getLsbD l then { z with st := .eligible, hold := .none, pc := x.next, free := s.cycle + 1 } else z) 0 g.lanes) ∧
      (∀ core more, x.stage = 3 → x.waits = core :: more → ∃ t y, exec (.promoteRequest r) s = .next t ∧ t.mem = s.mem ∧ (t.core core).dirty = [] ∧
        (∀ p ∈ t.partials, p.core ≠ core) ∧ y ∈ t.allGroups ∧ y.uid = g.uid ∧
        ∃ z ∈ y.rels, z.id = r ∧ z.stage = 1 ∧ z.waits = (t.reqs.filter (fun p => !p.isBuf && p.core == core && p.acc.writes)).map (fun p => p.id)))

/-- WAITC and its monitors (R84, R262): past the checks of a load, a word of a commutative range being DATA, each guard-true lane is in MONITOR with its destination pending; a
monitor that has a place wakes when the word at its home satisfies the condition, one without compares at once and again every 1 µs, and a word of the host is polled every 1 µs. A woken lane
holds the word and goes on at the next instruction. -/
def Obligations.Monitors : Prop :=
  ∀ (s : State),
    (∀ (c : Cond) (f : Fields), entryStop ⟨0x30, Enc.condFn c, 0⟩ f s = none →
      let on := s.actives f.gd
      let wide := Enc.isPairTy f.ty
      (on = [] → exec (.waitc c f) s = .next (s.advance f.form.len)) ∧
      (∀ i, on ≠ [] → checkLanes s s.me .load f.md (if wide then 8 else 4) (on.map (fun p => (p.1, vaWith s.grp f (immOff f) p.2))) = .fault i →
        exec (.waitc c f) s = .next (raiseWith i s)) ∧
      (on ≠ [] → checkLanes s s.me .load f.md (if wide then 8 else 4) (on.map (fun p => (p.1, vaWith s.grp f (immOff f) p.2))) = .awaited → exec (.waitc c f) s = .next s) ∧
      (∀ sps, on ≠ [] → checkLanes s s.me .load f.md (if wide then 8 else 4) (on.map (fun p => (p.1, vaWith s.grp f (immOff f) p.2))) = .ok sps →
        (∀ l p r, sps = l ++ p :: r → (∀ q ∈ l, q.range = none) → p.range ≠ none → exec (.waitc c f) s = .next (raiseWith (dataFault .load 0 0 p.va) s)) ∧
        ((∀ p ∈ sps, p.range = none) → ∃ t, exec (.waitc c f) s = .next t ∧ t.mem = s.mem ∧ t.teams = s.teams ∧ t.grp.s = s.grp.s ∧
          (relOf f = false →
            (∃ ms, t.monitors = s.monitors ++ ms ∧ ms.map (fun m => (m.gid, m.lane, m.addr, m.cond, m.ty, m.dst, m.b)) = sps.map (fun p =>
              (s.grp.uid, p.lane, p.pa, c, f.ty, vecNum f.d, BitVec.ofNat 64 (srcVal s.grp (Ty.ofCode f.ty) (s.laneAt p.lane) f.b)))) ∧
            ∀ l, l < s.grp.lanes.length →
              let x := s.laneAt l
              let y := t.laneAt l
              (s.inBundle l = false → y = x) ∧ (s.inBundle l = true → guardOf f.gd x = false → y = { x with pc := x.pc + BitVec.ofNat 64 f.form.len }) ∧
              (s.active f.gd l x = true → y.st = .monitor ∧ y.pc = x.pc ∧ y.v = x.v ∧
                ∃ p, y.pend = x.pend ++ [p] ∧ p.reg = vecNum f.d ∧ p.n = if wide then 2 else 1))))) ∧
    (∀ (m : Nat) (k : Monitor), s.monitors.find? (fun x => x.id == m) = some k →
      let n := if k.wide then 2 else 1
      let woken (o : Out3) (w : Nat) : Prop := ∃ t, o = .next t ∧ t.mem = s.mem ∧ t.monitors = s.monitors.filter (fun x => x.id != m) ∧
        ∀ g, s.only g → g.uid = k.gid → ∃ y ∈ t.allGroups, y.uid = g.uid ∧ y.lanes.length = g.lanes.length ∧ ∀ l, l < g.lanes.length →
          let x := g.lanes.getD l default
          let z := y.lanes.getD l default
          (l ≠ k.lane → z = x) ∧ (l = k.lane → z.st = .eligible ∧ z.pc = k.next ∧ z.v = (x.setWords k.dst n w).v)
      let word := rdBytes s.mem k.addr k.n
      let due := k.at_ ≤ s.homeNow k.addr
      let later : State := { s with monitors := updBy (fun x => x.id == m) (fun x => { x with at_ := s.homeNow k.addr + 1000 }) s.monitors }
      (∀ w, w < (if k.wide then 2 ^ 64 else 2 ^ 32) → k.b.toNat < (if k.wide then 2 ^ 64 else 2 ^ 32) →
        k.holdsAt w = if k.wide then compares k.cond (k.ty == 1 || k.ty == 3) (BitVec.ofNat 64 w) k.b
          else compares k.cond (k.ty == 1 || k.ty == 3) (BitVec.ofNat 32 w) (k.b.setWidth 32)) ∧
      (s.monitorWord k = none → exec (.monitorWake m) s = .next s ∧ exec (.monitorRecheck m) s = .next s) ∧
      (isHost k.addr = false → (s.granule (granuleOf k.addr)).moving = none → (∀ l ∈ linesOf k.addr k.n, (s.line l).w ≤ s.homeNow k.addr) → k.asleep = false →
        (∀ q ∈ s.reqs, q.id < k.id → q.isBuf = false → q.core = k.core → q.acc.writes = true → q.stage ≠ .served → overlap q.addr q.n k.addr k.n = false) →
        k.six = 0 → s.poisonedAt k.addr k.n = false →
        (s.placed k = true → k.holdsAt word = true → woken (exec (.monitorWake m) s) word) ∧
        (s.placed k = false ∨ k.holdsAt word = false → exec (.monitorWake m) s = .next s) ∧
        (s.placed k = false → due → k.holdsAt word = true → woken (exec (.monitorRecheck m) s) word) ∧
        (s.placed k = false → due → k.holdsAt word = false → exec (.monitorRecheck m) s = .next later) ∧
        (s.placed k = true ∨ ¬due → exec (.monitorRecheck m) s = .next s)) ∧
      (isHost k.addr = true → k.asleep = false → ∀ seen : BitVec 64,
        let v := if k.wide then seen.toNat else seen.toNat % 2 ^ 32
        (due → k.holdsAt v = true → woken (exec (.hostMonitorPoll m seen) s) v) ∧
        (due → k.holdsAt v = false → exec (.hostMonitorPoll m seen) s = .next later) ∧
        (¬due → exec (.hostMonitorPoll m seen) s = .next s)))

/-! WAIT, fences, barriers and rings -/

/-- WAIT and the fences (R72, R73, R78, R81, R256 to R259): the guard-true lanes wait as COUNTING until the counters meet the thresholds, or until the release of the scope is over; a
release wider than team, once the older accesses are performed, sends every dirty byte and partial of the core home. With nothing owed they go on in the next core cycle; FULL and ACQ then make younger accesses wait for the loads that have
not returned. A WAIT on `CNTTL` takes the POISON of a poisoned task. -/
def Obligations.WaitAndFences : Prop :=
  ∀ (f : Fields) (s : State),
    let on := s.actives f.gd
    let len : DWord := BitVec.ofNat 64 f.form.len
    let past (x : Lane) : Lane := { x with st := .eligible, hold := .none, pc := s.bundle.pc + len, free := s.cycle + 1 }
    let ix (o : Operand) : BitVec 6 := BitVec.ofNat 6 (numOf o)
    let met := under (s.grp.counter 0) (ix f.d) = true ∧ under (s.grp.counter 1) (ix f.a) = true ∧ under (s.grp.counter 2) (ix f.b) = true ∧
      under (s.grp.counter 3) (ix f.c) = true
    let unit := s.unitOf s.grp
    (entryStop ⟨0x2C, 0, 0⟩ f s = none →
      (on = [] ∨ numOf f.c = 63 ∨ (∀ e ∈ s.grp.hurt, 64 ≤ e.1) →
        (met → exec (.wait f) s = .next (s.advance f.form.len)) ∧
        (¬met → exec (.wait f) s = .next { s with grp := { s.grp with lanes := moved s f (fun _ x =>
          { x with st := .counting, hold := .wait (ix f.d) (ix f.a) (ix f.b) (ix f.c) (x.pc + len) }) } })) ∧
      (∀ e l r, on ≠ [] → numOf f.c ≠ 63 → s.grp.method = none → s.grp.hurt = l ++ e :: r → (∀ q ∈ l, 64 ≤ q.1) → e.1 < 64 →
        ∃ t, exec (.wait f) s = .next t ∧ t.grp.hurt = s.grp.hurt.erase e ∧ t.grp.lanes = (raiseWith { cause := .poison, addr := e.2 } s).grp.lanes ∧
          t.faults = (raiseWith { cause := .poison, addr := e.2 } s).faults)) ∧
    (∀ c ∈ ([(.fenceRel f, ⟨0x2D, 0, 0⟩), (.fenceAcq f, ⟨0x2D, 1, 0⟩), (.fenceFull f, ⟨0x2D, 2, 0⟩), (.fencePromote f, ⟨0x2D, 3, 0⟩),
        (.fenceCflush f, ⟨0x2D, 4, 0⟩)] : List (Instr × Key)),
      entryStop c.2 f s = none →
        (on = [] → exec c.1 s = .next (s.advance f.form.len)) ∧
        (on ≠ [] → ∃ t, exec c.1 s = .next t ∧ t.mem = s.mem ∧ t.teams = s.teams ∧ t.grp.s = s.grp.s ∧ t.grp.lanes.length = s.grp.lanes.length ∧
          ∀ l, l < s.grp.lanes.length →
            let x := s.laneAt l
            let y := t.laneAt l
            (s.inBundle l = false → y = x) ∧ (s.inBundle l = true → guardOf f.gd x = false → y = { x with pc := x.pc + len }) ∧
            (s.active f.gd l x = true → y.v = x.v ∧ y.preds = x.preds ∧
              ((y.st = .counting ∧ y.pc = x.pc) ∨ (c.2.fn ≠ 1 ∧ y.st = .eligible ∧ y.pc = s.bundle.pc + len) ∨ (c.2.fn = 1 ∧ y.st = x.st ∧ y.pc = x.pc + len))))) ∧
    (entryStop ⟨0x2D, 1, 0⟩ f s = none → on ≠ [] → exec (.fenceAcq f) s = .next ((s.advance f.form.len).acquire s.grp.uid (fun l => (s.activeMask f.gd).getLsbD l))) ∧
    (entryStop ⟨0x2D, 0, 0⟩ f s = none → on ≠ [] →
      (nothingOwed s → ∃ t, exec (.fenceRel f) s = .next t ∧ t.reqs = s.reqs ∧ t.grp.rels = [] ∧ t.grp.lanes = moved s f (fun _ => past)) ∧
      (∀ r ∈ s.reqs, s.freshNumber → s.grp.uid ≠ 0 → r.gid = s.grp.uid → r.stage ≠ .served → (r.isBuf = true ∨ r.acc ≠ .store ∨ fenceScope f ≠ 0) →
        ∃ t, exec (.fenceRel f) s = .next t ∧ t.grp.lanes.length = s.grp.lanes.length ∧ ∀ p ∈ on, (t.laneAt p.1).st = .counting ∧ (t.laneAt p.1).pc = p.2.pc) ∧
      (fenceScope f ≠ 0 → s.freshNumber → (∀ r ∈ s.reqs, r.gid ≠ s.grp.uid) → s.grp.rels = [] →
        ∃ t, exec (.fenceRel f) s = .next t ∧ (t.core unit).dirty = [] ∧ ∀ p ∈ t.partials, p.core ≠ unit)) ∧
    (entryStop ⟨0x2D, 2, 0⟩ f s = none → on ≠ [] → nothingOwed s → ∃ t, exec (.fenceFull f) s = .next t ∧ t.reqs = s.reqs ∧ t.grp.rels = [] ∧
      t.grp.lanes = moved s f (fun _ x => { past x with acq := s.acquireSet s.grp })) ∧
    (entryStop ⟨0x2D, 3, 0⟩ f s = none → on ≠ [] → s.grp.rels = [] → s.freshNumber →
      let core := sget 0 s.myGrid.places ((sclVal s.grp f.a).toNat % 2 ^ 32)
      (core = 0 → s.grp.wct ≤ s.gtime (s.dieOf s.grp) → ∃ t, exec (.fencePromote f) s = .next t ∧ t.reqs = s.reqs ∧ t.grp.rels = [] ∧
        t.grp.lanes = moved s f (fun _ x => { past x with acq := s.acquireSet s.grp })) ∧
      (core ≠ 0 → ∃ t, exec (.fencePromote f) s = .next t ∧ ∃ r, t.grp.rels = [r] ∧ r.stage = 3 ∧ r.waits = [core - 1] ∧ r.lanes = s.activeMask f.gd)) ∧
    (entryStop ⟨0x2D, 4, 0⟩ f s = none → on ≠ [] → s.freshNumber →
      (∃ t, exec (.fenceCflush f) s = .next t ∧ (t.core unit).dirty = [] ∧ ∀ p ∈ t.partials, p.core ≠ unit) ∧
      (nothingOwed s → s.reqs = [] → ∃ t, exec (.fenceCflush f) s = .next t ∧ t.reqs = s.reqs ∧ t.copies = s.copies.filter (fun c => c.unit != unit)))

/-- BAR (R45, R46, R80, R260): a code beyond the team's allotment is BUFRANGE; INIT, EXPECT, TEST and WAIT act at once, the lanes of WAIT whose token is the current phase being held in
BARRIER; ARRIVE and SYNC, with nothing owed, take the phase as token and count their arrivals, and the last one expected flips the phase. -/
def Obligations.Barriers : Prop :=
  ∀ (f : Fields) (s : State), s.grp.method = none →
    let on := s.actives f.gd
    let len : DWord := BitVec.ofNat 64 f.form.len
    let t0 := s.myTeam
    let n := barCode f
    let b := s.bar t0 n
    let count := on.length * barWeight f
    let past (x : Lane) : Lane := { x with st := .eligible, hold := .none, pc := s.bundle.pc + len, free := s.cycle + 1 }
    let ph : Word := if b.phase then 1 else 0
    let tok (x : Lane) : Bool := (wordOf s.grp .un32 f.a x).getLsbD 0
    let unhurt := ∀ e ∈ s.grp.hurt, e.1 ≠ n ∨ e.1 = 63
    let there := t0.uid = s.grp.team ∧ s.teams.find? (fun x => x.uid == s.grp.team) = some t0 ∧
      (48 ≤ n → s.clusters.any (fun c => c.uid == t0.cluster) = true ∧ n - 48 < (s.clusterOf t0).bars.length) ∧ (n < 48 → n < t0.bars.length)
    (∀ c ∈ ([(.barArrive f, ⟨0x2E, 0, 0⟩), (.barWait f, ⟨0x2E, 1, 0⟩), (.barSync f, ⟨0x2E, 2, 0⟩), (.barInit f, ⟨0x2E, 3, 0⟩), (.barExpect f, ⟨0x2E, 4, 0⟩),
        (.barTest f, ⟨0x2E, 5, 0⟩)] : List (Instr × Key)), entryStop c.2 f s = none →
      (on = [] → exec c.1 s = .next (s.advance f.form.len)) ∧
      (on ≠ [] → n < 48 → t0.bars.length ≤ n → exec c.1 s = .next (raise .bufrange s))) ∧
    (on ≠ [] → (48 ≤ n ∨ n < t0.bars.length) →
      (entryStop ⟨0x2E, 3, 0⟩ f s = none → exec (.barInit f) s = .next ((s.onBar t0 n (fun b =>
        { b with expect := (sclVal s.grp f.a).setWidth 12, pending := (sclVal s.grp f.a).setWidth 12 })).advance f.form.len)) ∧
      (entryStop ⟨0x2E, 4, 0⟩ f s = none → exec (.barExpect f) s = .next ((s.onBar t0 n (fun b => { b with expect := (sclVal s.grp f.a).setWidth 12 })).advance f.form.len)) ∧
      (entryStop ⟨0x2E, 5, 0⟩ f s = none → ∀ p : BitVec 4, f.d = .prd p → ∃ t, exec (.barTest f) s = .next t ∧ t.mem = s.mem ∧ t.teams = s.teams ∧
        t.clusters = s.clusters ∧ t.grp.lanes = moved s f (fun _ x =>
          let y := { x.setPred p.toNat (b.phase != tok x) with pc := x.pc + len }
          if b.phase != tok x then { y with acq := s.acquireSet s.grp } else y)) ∧
      (entryStop ⟨0x2E, 1, 0⟩ f s = none → unhurt → there → ∃ t, exec (.barWait f) s = .next t ∧ t.mem = s.mem ∧ (t.bar t0 n).phase = b.phase ∧ (t.bar t0 n).pending = b.pending ∧
        t.grp.lanes = moved s f (fun _ x => if b.phase = tok x then { x with st := .barrier, hold := .barrier n (s.bundle.pc + len) }
          else { past x with acq := s.acquireSet s.grp })) ∧
      (there → nothingOwed s → 0 < on.length →
        (entryStop ⟨0x2E, 0, 0⟩ f s = none → ∀ d : BitVec 11, f.d = .vec d →
          (count < b.pending.toNat → ∃ t, exec (.barArrive f) s = .next t ∧ t.mem = s.mem ∧ (t.bar t0 n).pending = b.pending - BitVec.ofNat 12 count ∧
            (t.bar t0 n).phase = b.phase ∧ t.grp.lanes = moved s f (fun _ x => past (x.setReg d.toNat ph))) ∧
          (count = b.pending.toNat → ∃ t, exec (.barArrive f) s = .next t ∧ t.mem = s.mem ∧ (t.bar t0 n).pending = b.expect ∧ (t.bar t0 n).phase = !b.phase ∧
            ∀ p ∈ on, (t.laneAt p.1).pc = s.bundle.pc + len ∧ (t.laneAt p.1).v = (p.2.setReg d.toNat ph).v)) ∧
        (entryStop ⟨0x2E, 2, 0⟩ f s = none → unhurt →
          (count < b.pending.toNat → ∃ t, exec (.barSync f) s = .next t ∧ t.mem = s.mem ∧ (t.bar t0 n).pending = b.pending - BitVec.ofNat 12 count ∧
            (t.bar t0 n).phase = b.phase ∧ ∀ p ∈ on, (t.laneAt p.1).st = .barrier ∧ (t.laneAt p.1).hold = .barrier n (s.bundle.pc + len)) ∧
          (count = b.pending.toNat → ∃ t, exec (.barSync f) s = .next t ∧ t.mem = s.mem ∧ (t.bar t0 n).pending = b.expect ∧ (t.bar t0 n).phase = !b.phase ∧
            ∀ p ∈ on, (t.laneAt p.1).st = .eligible ∧ (t.laneAt p.1).pc = s.bundle.pc + len))))

/-- RING and the waking of its waiters (R45, R47, R127, R261): a ring beyond the allotment, a slot that is not held, or a ring that does not fit is BUFRANGE; ACQ and PUT give the next
slot's address to a group, which holds the slot from then on, or hold the guard-true lanes in RING; REL and PUB give a held slot back, done slots passing on in the order they were taken; INIT sets the ring up and STAT reads it. -/
def Obligations.Rings : Prop :=
  ∀ (f : Fields) (s : State), s.grp.method = none →
    let on := s.actives f.gd
    let len : DWord := BitVec.ofNat 64 f.form.len
    let t0 := s.myTeam
    let n := ringNum f
    let r := t0.ring n
    let a : Word := (sclVal s.grp f.a).setWidth 32
    let all := s.onRing t0.uid n
    (∀ c ∈ ([(.ringAcq f, ⟨0x2F, 0, 0⟩), (.ringRel f, ⟨0x2F, 1, 0⟩), (.ringPut f, ⟨0x2F, 2, 0⟩), (.ringPub f, ⟨0x2F, 3, 0⟩), (.ringInit f, ⟨0x2F, 4, 0⟩),
        (.ringStat f, ⟨0x2F, 5, 0⟩)] : List (Instr × Key)), entryStop c.2 f s = none →
      (on = [] → exec c.1 s = .next (s.advance f.form.len)) ∧
      (on ≠ [] → t0.rings.length ≤ n → exec c.1 s = .next (raise .bufrange s))) ∧
    (on ≠ [] → n < t0.rings.length →
      (∀ d : BitVec 6, f.d = .scl d → ∀ c ∈ ([(.ringAcq f, ⟨0x2F, 0, 0⟩, true, r.filled, r.tail.toNat), (.ringPut f, ⟨0x2F, 2, 0⟩, false, r.free, r.head.toNat)] :
          List (Instr × Key × Bool × BitVec 8 × Nat)), entryStop c.2.1 f s = none →
        let reader := c.2.2.1
        (c.2.2.2.1 ≠ 0 → (∀ w ∈ r.waits, w.reader ≠ reader) → ∃ t r1, exec c.1 s = .next t ∧ t.mem = s.mem ∧ t.teams = (all (fun _ => r1)).teams ∧
          t.grp.s = (s.setScl d.toNat ((r.base + BitVec.ofNat 32 (c.2.2.2.2 * 2 ^ (r.slotlog.toNat + 7))).setWidth 64)).grp.s ∧
          t.grp.lanes = moved s f (fun _ x => { x with pc := x.pc + len, acq := if reader then s.acquireSet s.grp else x.acq }) ∧
          r1.waits = r.waits ∧ (s.grp.uid ≠ 0 → sget 0 r1.owners c.2.2.2.2 = s.grp.uid) ∧
          (reader = true → r1.filled = r.filled - 1 ∧ r1.readers = r.readers ++ [(r.tail.toNat, false)] ∧ r1.free = r.free ∧ r1.head = r.head ∧
            r1.tail = if r.tail.toNat = r.nslotm1.toNat then 0 else r.tail + 1) ∧
          (reader = false → r1.free = r.free - 1 ∧ r1.writers = r.writers ++ [(r.head.toNat, false)] ∧ r1.filled = r.filled ∧ r1.tail = r.tail ∧
            r1.head = if r.head.toNat = r.nslotm1.toNat then 0 else r.head + 1)) ∧
        (c.2.2.2.1 = 0 ∨ (∃ w ∈ r.waits, w.reader = reader) → exec c.1 s = .next
          { s with
            teams := (all (fun r => { r with waits := r.waits ++
              [{ reader := reader, gid := s.grp.uid, lanes := s.activeMask f.gd, sd := d.toNat, copy := 0 }] })).teams
            grp := { s.grp with lanes := moved s f (fun _ x => { x with st := .ring, hold := .ring (s.bundle.pc + len) }) } })) ∧
      (entryStop ⟨0x2F, 1, 0⟩ f s = none →
        (r.heldAt true a = none → exec (.ringRel f) s = .next (raise .bufrange s)) ∧
        (∀ k, r.heldAt true a = some k → r.slotAddr k = a ∧ (k, false) ∈ r.readers ∧ ∃ r1, exec (.ringRel f) s = .next ((all (fun _ => r1)).advance f.form.len) ∧
          r1.waits = r.waits ∧ r1.writers = r.writers ∧ r1.filled = r.filled ∧
          (∃ m, r1.free = r.free + BitVec.ofNat 8 m ∧ r1.readers = (updFirst (fun p => p.1 == k && !p.2) (fun p => (p.1, true)) r.readers).drop m ∧
            (∀ p ∈ (updFirst (fun p => p.1 == k && !p.2) (fun p => (p.1, true)) r.readers).take m, p.2 = true) ∧ ∀ p, r1.readers.head? = some p → p.2 = false))) ∧
      (entryStop ⟨0x2F, 3, 0⟩ f s = none →
        (r.heldAt false a = none → exec (.ringPub f) s = .next (raise .bufrange s)) ∧
        (∀ k, r.heldAt false a = some k → nothingOwed s → s.isAssay s.grp.uid = false → t0 ∈ s.teams → (∀ x ∈ s.teams, x.uid = s.grp.team → x = t0) → ∃ t r1, exec (.ringPub f) s = .next t ∧ t.mem = s.mem ∧
          t.teams = (all (fun _ => r1)).teams ∧ r.give false k = some r1 ∧
          t.grp.lanes = moved s f (fun _ x => { x with st := .eligible, hold := .none, pc := s.bundle.pc + len, free := s.cycle + 1 }))) ∧
      (entryStop ⟨0x2F, 4, 0⟩ f s = none →
        let x := sclVal s.grp f.a
        let size := ((x.extractLsb' 36 7).toNat + 1) * 2 ^ ((x.extractLsb' 32 4).toNat + 7)
        let region := a.toNat / 2 ^ 28
        let good := (x.extractLsb' 32 4).toNat < 10 ∧ region < 3 ∧ a.toNat % 2 ^ 28 + size ≤ t0.bound region ∧ r.writers = [] ∧ r.readers = [] ∧ ∀ w ∈ r.waits, w.copy = 0
        (¬good → exec (.ringInit f) s = .next (raise .bufrange s)) ∧
        let made : Ring := { r with base := a, slotlog := x.extractLsb' 32 4, nslotm1 := x.extractLsb' 36 7, free := (x.extractLsb' 36 7).setWidth 8 + 1, filled := 0, head := 0, tail := 0 }
        (good → exec (.ringInit f) s = .next ((all (fun _ => made)).advance f.form.len))) ∧
      (entryStop ⟨0x2F, 5, 0⟩ f s = none → ∀ d : BitVec 6, f.d = .scl d → exec (.ringStat f) s = .next ((s.setScl d.toNat
        (if f.imm.getLsbD 0 then BitVec.ofNat 64 (r.head.toNat + 256 * r.tail.toNat)
          else BitVec.ofNat 64 (r.base.toNat + r.slotlog.toNat * 2 ^ 32 + r.nslotm1.toNat * 2 ^ 36 + r.free.toNat * 2 ^ 43 + r.filled.toNat * 2 ^ 51))).advance f.form.len))) ∧
    (∀ (tu k : Nat) (writer : Bool), let q := (s.team tu).ring k
      ((∀ w ∈ q.waits, w.reader = writer) → exec (.ringWaiterWake tu k writer) s = .next s) ∧
      (∀ l w rest, q.waits = l ++ w :: rest → (∀ v ∈ l, v.reader = writer) → w.reader = (!writer) →
        (w.copy ≠ 0 ∨ (if writer then q.free else q.filled) = 0 → exec (.ringWaiterWake tu k writer) s = .next s) ∧
        (w.copy = 0 → (if writer then q.free else q.filled) ≠ 0 → ∃ t r1, exec (.ringWaiterWake tu k writer) s = .next t ∧ t.mem = s.mem ∧
          t.teams = (s.onRing tu k (fun _ => r1)).teams ∧ r1.waits = q.waits.erase w ∧
          (w.gid ≠ 0 → sget 0 r1.owners (if writer then q.head.toNat else q.tail.toNat) = w.gid) ∧
          ∀ g, s.only g → g.uid = w.gid → ∃ y ∈ t.allGroups, y.uid = g.uid ∧
            y.s = sput 0 g.s w.sd ((q.slotAddr (if writer then q.head.toNat else q.tail.toNat)).setWidth 64) ∧
            ∀ i next, i < g.lanes.length → w.lanes.getLsbD i = true → (g.lanes.getD i default).hold = .ring next →
              (y.lanes.getD i default).st = .eligible ∧ (y.lanes.getD i default).pc = next)))

/-! Engines -/

/-- COPY and the copy engine (R81, R82, R122, R124 to R128, R269): a descriptor that fails R126's checks raises the first, and every other is one more command and an open counted
operation; a command that takes a ring slot waits for it in order; a core's commands start in order, at most four walking; a walk that meets a condition stops with a fault record, and one
that ends closes the operation and arrives at the barrier, before any lane arrives in the core cycle. In an assay context a command waits for its shadow. A fill writes its value to every element of the window and nothing else. -/
def Obligations.CopyEngine : Prop :=
  (∀ (f : Fields) (s : State), s.grp.method = none → entryStop ⟨0x31, 0, 0⟩ f s = none →
    let on := s.actives f.gd
    let d := s.grp.scalars (sclNum f.a) 6
    let bar := numOf f.d % 64
    (on = [] → exec (.copy f) s = .next ((s.count 2 false).advance f.form.len)) ∧
    (on ≠ [] →
      (5 < copyOp d ∨ 7 < copyFmt d ∨ (copyFmt d = 4 ∧ (copyOp d = 2 ∨ copyWindow d 0 % 4 ≠ 0)) → exec (.copy f) s = .next (raise .illegal s)) ∧
      (∀ i, copyFault s.myTeam bar d = some i → exec (.copy f) s = .next (raiseWith i s)) ∧
      (copyFault s.myTeam bar d = none → ∃ t c, exec (.copy f) s = .next t ∧ t.mem = s.mem ∧ t.copyq = s.copyq ++ [c] ∧
        t.grp.ops = s.grp.ops ++ [{ id := s.nextId, cls := 2, open_ := true }] ∧ t.grp.lanes = (s.advance f.form.len).grp.lanes ∧
        c.op = s.nextId ∧ c.gid = s.grp.uid ∧ c.team = s.grp.team ∧ c.core = s.unitOf s.grp ∧ c.bar = bar ∧ c.d = d ∧ c.at_ = 0 ∧ c.slot = none ∧ c.pc = s.bundle.pc ∧
        (copyRing d = 255 ∨ copyCount d = 0 → c.stage = .queued ∧ t.teams = s.teams) ∧
        (copyRing d ≠ 255 → copyCount d ≠ 0 → c.stage = .ringWait ∧ t.teams = (s.onRing s.grp.team (copyRing d) (fun r => { r with
          waits := r.waits ++ [{ reader := copyOut d, gid := s.grp.uid, lanes := 0, sd := 0, copy := c.id }] })).teams)))) ∧
  ∀ (id : Nat) (c : CopyCmd) (s : State), s.copyCmd id = some c →
    let r := (s.team c.team).ring (copyRing c.d)
    (∀ l w rest, r.waits = l ++ w :: rest → (∀ v ∈ l, v.reader ≠ copyOut c.d) → w.reader = copyOut c.d →
      (w.copy ≠ id ∨ c.stage ≠ .ringWait ∨ s.unmatched c.gid id = true ∨ (if w.reader then r.filled else r.free) = 0 → exec (.copyRingAcquire id) s = .next s) ∧
      (w.copy = id → c.stage = .ringWait → s.unmatched c.gid id = false → (if w.reader then r.filled else r.free) ≠ 0 → ∃ r1, r1.waits = r.waits.erase w ∧
        (w.reader = true → r1.filled = r.filled - 1) ∧ (w.reader = false → r1.free = r.free - 1) ∧
        (c.gid ≠ 0 → sget 0 r1.owners (if w.reader then r.tail.toNat else r.head.toNat) = c.gid) ∧
        exec (.copyRingAcquire id) s = .next ((s.onRing c.team (copyRing c.d) (fun _ => r1)).onCopy id (fun c =>
          { c with stage := .queued, slot := some (if w.reader then r.tail.toNat else r.head.toNat) })))) ∧
    (let queued := s.copyq.filter (fun x => x.core == c.core && x.stage == .queued)
     let walking := s.copyq.filter (fun x => x.core == c.core && x.stage == .walking)
     (queued.head? = some c → walking.length < 4 → s.unmatched c.gid id = false → exec (.copyStart id) s = .next (s.onCopy id (fun c => { c with stage := .walking }))) ∧
     ((∀ x, queued.head? = some x → x.id ≠ id) ∨ 4 ≤ walking.length ∨ s.unmatched c.gid id = true → exec (.copyStart id) s = .next s)) ∧
    (c.stage ≠ .walking ∨ c.faulted = true → exec (.copyWalkFault id) s = .next s ∧ exec (.copyComplete id) s = .next s) ∧
    (c.stage = .walking → c.faulted = false →
      (∀ s1 k x, walkRest s c = (s1, k, some (some x)) → exec (.copyComplete id) s = .next s ∧ ∃ t p, exec (.copyWalkFault id) s = .next t ∧ p ∈ t.faults ∧ p.walk = id ∧
        p.cause = x.cause ∧ p.access = 5 ∧ p.addr = x.addr ∧ p.pc = c.pc ∧ ∃ c', t.copyCmd id = some c' ∧ c'.faulted = true ∧ c'.at_ = k) ∧
      (s.turn ≠ 0 → c.bar ≠ 63 → exec (.copyComplete id) s = .next s) ∧
      (∀ s1 k, walkRest s c = (s1, k, none) → c.slot = none → s.turn = 0 ∨ c.bar = 63 → ∃ t, exec (.copyWalkFault id) s = .next s ∧ exec (.copyComplete id) s = .next t ∧ t.mem = s1.mem ∧
        t.copyq = s1.copyq.filter (fun x => x.id != id)) ∧
      (copyOp c.d = 5 → copyFmt c.d ≠ 4 → c.at_ = 0 → c.slot = none → c.bar = 63 → (∃ tm ∈ s.teams, tm.uid = c.team) →
        swf (0 : Byte) (s.team c.team).abuf = true → copyBuf c.d + copyBytes c.d ≤ 2 ^ 28 →
        let e := elemSize (copyFmt c.d)
        ∃ t, exec (.copyComplete id) s = .next t ∧ t.mem = s.mem ∧ (∀ x ∈ t.copyq, x.id ≠ id) ∧
          (∀ g, s.only g → g.uid = c.gid → ∃ y ∈ t.allGroups, y.uid = g.uid ∧ y.lanes = g.lanes ∧
            y.ops = updBy (fun o => o.id == c.op) (fun o => { o with open_ := false }) g.ops) ∧
          (t.team c.team).wbuf = (s.team c.team).wbuf ∧ (t.team c.team).cbuf = (s.team c.team).cbuf ∧
          ∀ b, rdByte (t.team c.team).abuf b = if copyBuf c.d ≤ b ∧ b < copyBuf c.d + copyBytes c.d
            then BitVec.ofNat 8 (copyFill c.d / 256 ^ ((b - copyBuf c.d) % e)) else rdByte (s.team c.team).abuf b))

/-- TILE and the matrix engine (R109 to R122, R270): a descriptor that fails the checks of R112 and R114 raises the first, and every other is one more task with what it captures; a task is ready
when both its wait barriers have flipped and its stream's older tasks are past; the arbiter grants one pass at a time to the task of highest effective priority, whose accumulators the array keeps from pass to pass: those of another task go to CBUF first, and C's words are
loaded then. A task that has made its passes signals, before any lane arrives in the core cycle, and closes its operation. TZERO clears the accumulators, a pass of int8 MMA adds 32 products to
each, and CBUF keeps what it held (R120). The second run of a pass of an assay context that differs raises ASSAY (R385). -/
def Obligations.MatrixEngine : Prop :=
  (∀ (f : Fields) (s : State), s.grp.method = none →
    let on := s.actives f.gd
    let d := s.grp.scalars (sclNum f.a) 4
    ∀ c ∈ ([(.tileMma f, ⟨0x32, 0, 0⟩, .mma), (.tileMmaz f, ⟨0x32, 1, 0⟩, .mmaz), (.tileQout f, ⟨0x32, 2, 0⟩, .qout), (.tileTrot f, ⟨0x32, 3, 0⟩, .trot),
        (.tileTzero f, ⟨0x32, 4, 0⟩, .tzero)] : List (Instr × Key × TileOp)), entryStop c.2.1 f s = none →
      (on = [] → exec c.1 s = .next ((s.count 3 false).advance f.form.len)) ∧
      (on ≠ [] →
        (256 < tileM d ∨ 256 < tileN d ∨ 1 < tileMode d → exec c.1 s = .next (raise .illegal s)) ∧
        (∀ i, tileFault s.grp s.myTeam c.2.2 d = some i → exec c.1 s = .next (raiseWith i s)) ∧
        (tileFault s.grp s.myTeam c.2.2 d = none → ∃ t x, exec c.1 s = .next t ∧ t.mem = s.mem ∧ t.teams = s.teams ∧ t.tasks = s.tasks ++ [x] ∧
          t.grp.ops = s.grp.ops ++ [{ id := s.nextId, cls := 3, open_ := true }] ∧ t.grp.lanes = (s.advance f.form.len).grp.lanes ∧
          x.op = s.nextId ∧ x.gid = s.grp.uid ∧ x.team = s.grp.team ∧ x.core = s.unitOf s.grp ∧ x.quad = s.unitOf s.grp / 4 ∧ x.kind = c.2.2 ∧ x.t = d ∧
          x.stage = .waiting ∧ x.pass = 0 ∧ x.seed = sget 0 s.grp.sseed (Block.seedIx (tileAtag d)) ∧
          (tileWait d 0 ≠ 63 → x.phase0 = (s.bar (s.team s.grp.team) (tileWait d 0)).phase) ∧
          (tileWait d 1 ≠ 63 → x.phase1 = (s.bar (s.team s.grp.team) (tileWait d 1)).phase)))) ∧
  (∀ (id : Nat) (x : Task) (s : State), s.task id = some x →
    let gone (i : Nat) (ph : Bool) : Prop := tileWait x.t i = 63 ∨ (s.bar (s.team x.team) (tileWait x.t i)).phase ≠ ph
    let older := ∃ y ∈ s.tasks, y.id < id ∧ y.team = x.team ∧ tileStream y.t = tileStream x.t ∧ y.stage ≠ .draining
    (x.stage = .waiting → gone 0 x.phase0 → gone 1 x.phase1 → ¬older → s.unmatched x.gid id = false →
      exec (.taskReady id) s = .next (s.onTask id (fun y => { y with stage := .ready, since := s.cycle }))) ∧
    (x.stage ≠ .waiting ∨ ¬gone 0 x.phase0 ∨ ¬gone 1 x.phase1 ∨ older ∨ s.unmatched x.gid id = true → exec (.taskReady id) s = .next s) ∧
    (x.stage ≠ .draining ∨ (s.turn ≠ 0 ∧ tileSig x.t ≠ 63) → exec (.taskComplete id) s = .next s) ∧
    (x.stage = .draining → x.poisoned = false → tileSig x.t = 63 → ∃ t, exec (.taskComplete id) s = .next t ∧ t.mem = s.mem ∧
      t.teams = (if (s.array x.quad).any (fun a => a.task == id) then s.writeArray x.quad else s).teams ∧
      t.tasks = s.tasks.filter (fun y => y.id != id) ∧ ∀ g, s.only g → g.uid = x.gid → ∃ y ∈ t.allGroups, y.uid = g.uid ∧ y.lanes = g.lanes ∧
        y.ops = updBy (fun o => o.id == x.op) (fun o => { o with open_ := false }) g.ops) ∧
    (x.stage = .draining → s.turn = 0 → x.poisoned = false → tileSig x.t < 48 → (s.team x.team).uid = x.team → tileSig x.t < (s.team x.team).bars.length →
      1 < ((s.team x.team).bars.getD (tileSig x.t) default).pending.toNat → ∃ t, exec (.taskComplete id) s = .next t ∧
        ((t.team x.team).bars.getD (tileSig x.t) default).pending = ((s.team x.team).bars.getD (tileSig x.t) default).pending - 1)) ∧
  ∀ (quad : Nat) (s : State),
    (s.arbiter quad = none → exec (.passGrant quad) s = .next s) ∧
    (∀ x, s.arbiter quad = some x →
      let can (y : Task) : Prop := y ∈ s.tasks ∧ y.quad = quad ∧ (y.stage = .ready ∨ y.stage = .active) ∧ y.pass < y.passes
      can x ∧ (∀ y, can y → effective s.cycle y ≤ effective s.cycle x) ∧
      let mine := (s.array quad).filter (fun a => a.task == x.id)
      let u := if mine.isSome then s else s.writeArray quad
      let tm := u.team x.team
      let fresh := x.kind = .tzero ∨ (x.kind = .mmaz ∧ x.pass = 0)
      let r := runPass x ((mine.map (fun a => a.words)).getD (cWords x.t tm)) tm
      let after (y : Task) : Task :=
        { y with pass := y.pass + 1, since := s.cycle, stage := if x.passes ≤ x.pass + 1 then .draining else .active,
                 poisoned := y.poisoned || passHurt x tm (mine.isNone && decide ¬fresh) }
      ∃ t, exec (.passGrant quad) s = .next t ∧ t.mem = s.mem ∧
        (∃ a, t.array quad = some a ∧ a.task = x.id ∧ a.words = r.2) ∧
        t.teams = updBy (fun y => y.uid == x.team) (fun _ => passClean x r.1) u.teams ∧
        t.tasks = updBy (fun y => y.id == x.id) after s.tasks) ∧
    (∀ (a : Accu) (x : Task), s.array quad = some a → s.task a.task = some x →
      (∀ again, s.isAssay x.gid = false ∨ again = a.words → execPassAgain quad again s = .next s) ∧
      (∀ again, s.isAssay x.gid = true → again ≠ a.words → ∃ t, execPassAgain quad again s = .next t ∧ t.mem = s.mem ∧ t.teams = s.teams ∧ (∀ y ∈ t.tasks, y.id ≠ x.id) ∧
        (s.group x.gid ≠ none → ∃ p ∈ t.faults, p.cause = .assay ∧ p.gid = x.gid ∧ p.lanes = x.lanes ∧ p.pc = x.pc)) ∧
      (tileM x.t = 1 → tileN x.t = 1 → tileC x.t / 2 ^ 28 = 2 → tileC x.t + 4 ≤ 3 * 2 ^ 28 →
        (∃ tm ∈ s.teams, tm.uid = x.team) → swf (0 : Byte) (s.team x.team).cbuf = true →
        ((s.writeArray quad).team x.team).rd (tileC x.t) 4 = a.words.getD 0 0 % 2 ^ 32)) ∧
    (∀ (x : Task) (tm : Team) (acc : List Nat), swf (0 : Byte) tm.cbuf = true → tileC x.t / 2 ^ 28 = 2 → tileC x.t + tileCBytes x.t ≤ 3 * 2 ^ 28 →
      (x.kind = .tzero → (runPass x acc tm).2.length = tileM x.t * tileN x.t ∧ ∀ w ∈ (runPass x acc tm).2, w = 0) ∧
      (x.kind = .mma → tileMode x.t = 1 → tileM x.t = 1 → tileN x.t = 1 → tileAfmt x.t ≠ 1 → tileAfmt x.t ≠ 4 →
        tileA x.t + 32 * x.pass + 32 ≤ 2 ^ 29 → tileB x.t + 32 * x.pass + 32 ≤ 2 ^ 29 →
        let a (k : Nat) : Int := (BitVec.ofNat 8 (tm.rd (tileA x.t + 32 * x.pass + k) 1)).toInt
        let b (k : Nat) : Int := (BitVec.ofNat 8 (tm.rd (tileB x.t + 32 * x.pass + k) 1)).toInt
        (runPass x acc tm).1.rd (tileC x.t) 4 = tm.rd (tileC x.t) 4 ∧
        ∃ v, (runPass x acc tm).2 = [v] ∧
          BitVec.ofNat 32 v = BitVec.ofNat 32 (acc.getD 0 0) + BitVec.ofInt 32 ((List.range 32).map (fun k => a k * b k)).sum))

/-! The function store and replayed objects -/

/-- The function store (R129 to R143, R271 to R275, R300, R301): an invalid handle is STOREDESC; FCALL and FPROBE miss at once on an argument with no key and ask their slice about any other; a
lookup hits the newest matching record that contains the argument; the lane of a hit takes the results and goes on, that of a miss enters the routine with its link, or goes on with the predicate
false; FRET inserts and goes to the link; an insert is a duplicate, or is stored where there is room; FINVAL holds its bundle until every die has dropped the handle's records. The model's choices: an entry that is not mapped is invalid (log 34), the cleared low bits of ENTRY
(log 131), an insertion that finds no uncorrectable error (log 101) and the way of a new record (log 116). -/
def Obligations.FunctionStore : Prop :=
  (∀ (f : Fields) (s : State), s.grp.method = none →
    let on := s.actives f.gd
    let len : DWord := BitVec.ofNat 64 f.form.len
    let h := (sclVal s.grp f.b).toNat % 2 ^ 16
    let asid := s.asidOf s.grp
    let die := s.dieOf s.grp
    (∀ c ∈ ([(.fcall f, ⟨0x33, 0, 0⟩), (.fprobe f, ⟨0x33, 1, 0⟩), (.fret f, ⟨0x33, 2, 0⟩), (.finval f, ⟨0x33, 3, 0⟩), (.fstat f, ⟨0x33, 4, 0⟩)] : List (Instr × Key)),
      entryStop c.2 f s = none →
        (on = [] → exec c.1 s = .next (s.advance f.form.len)) ∧ (on ≠ [] → s.routine s.grp h = .bad → exec c.1 s = .next (raise .storedesc s)) ∧
        (on ≠ [] → s.routine s.grp h = .awaited → exec c.1 s = .next s)) ∧
    (∀ d, on ≠ [] → s.routine s.grp h = .ok d →
      let x (y : Lane) : List Word := argsOf y 0 (rdN d)
      (∀ c ∈ ([(.fcall f, ⟨0x33, 0, 0⟩, none), (.fprobe f, ⟨0x33, 1, 0⟩, some (match f.d with | .prd p => p | _ => 0))] : List (Instr × Key × Option (BitVec 4))),
        entryStop c.2.1 f s = none →
          (s.grp.vcount < max (rdN d) (8 + rdM d) → exec c.1 s = .next (raise .regrange s)) ∧
          (max (rdN d) (8 + rdM d) ≤ s.grp.vcount → markedFault f.gd [(0, rdN d), (8, rdM d)] s = none → ∃ t, exec c.1 s = .next t ∧ t.mem = s.mem ∧ t.frecs = s.frecs ∧
            t.grp.lanes = moved s f (fun _ y => match cellsOf d (x y) with
              | some _ => { y with hold := .stall s.nextId }
              | none => missLane s.cycle c.2.2 (y.pc + len) (rdEntry d) y) ∧
            ∃ q, t.lookups = s.lookups ++ q ∧ q.map (fun l => (l.lane, l.x, l.bundle, l.ans)) =
              (on.filter (fun p => (cellsOf d (x p.2)).isSome)).map (fun p => (p.1, x p.2, s.nextId, none)) ∧
              ∀ l ∈ q, l.gid = s.grp.uid ∧ l.die = die ∧ l.handle = h ∧ l.asid = asid ∧ l.desc = d ∧ l.entry = rdEntry d ∧ l.probe = c.2.2 ∧
                ∀ cs, cellsOf d l.x = some cs → l.key = cellKey h asid cs ∧ l.slice = (l.key.extractLsb' 60 4).toNat ∧ l.set = (l.key.extractLsb' 52 8).toNat)) ∧
      (entryStop ⟨0x33, 2, 0⟩ f s = none → markedFault f.gd [(0, rdN d), (8, rdM d)] s = none →
        (∀ l p r, on = l ++ p :: r → (∀ q ∈ l, (q.2.pair 62).extractLsb' 0 2 = 0) → (p.2.pair 62).extractLsb' 0 2 ≠ 0 →
          exec (.fret f) s = .next (raiseWith { cause := .align, addr := p.2.pair 62 } s)) ∧
        ((∀ p ∈ on, (p.2.pair 62).extractLsb' 0 2 = 0) → ∃ t, exec (.fret f) s = .next t ∧ t.mem = s.mem ∧ t.frecs = s.frecs ∧
          t.grp.lanes = moved s f (fun _ y => { y with pc := y.pair 62 }) ∧ ∃ q, t.inserts = s.inserts ++ q ∧ q.map (fun i => (i.lane, i.desc, i.x, i.f, i.j)) =
            (on.filter (fun p => (cellsOf d (x p.2)).isSome && (argsOf p.2 8 (rdM d)).all finite32 && (argsOf p.2 16 (rdN d * rdM d)).all finite32)).map (fun p =>
              (p.1, d, x p.2, argsOf p.2 8 (rdM d), argsOf p.2 16 (rdN d * rdM d))))) ∧
      (entryStop ⟨0x33, 3, 0⟩ f s = none → ∃ t w, exec (.finval f) s = .next t ∧ t.mem = s.mem ∧ t.waiters = s.waiters ++ [w] ∧ w.kind = .finval asid h ∧
        w.owed = s.liveDies ∧ t.grp.lanes = moved s f (fun _ y => { y with hold := .stall w.id })) ∧
      (entryStop ⟨0x33, 4, 0⟩ f s = none →
        (7 < numOf f.a % 64 → exec (.fstat f) s = .next (raise .illegal s)) ∧
        (numOf f.a % 64 ≤ 7 → ∀ n : BitVec 6, f.d = .scl n →
          exec (.fstat f) s = .next ((s.setScl n.toNat ((s.fcounter die asid h (numOf f.a % 64)).setWidth 64)).advance f.form.len))))) ∧
  (∀ (id : Nat) (s : State),
    (∀ l, s.lookups.find? (fun y => y.id == id) = some l → l.ans = none →
      s.sliceTurn l.die (((s.group l.gid).map (fun g => s.unitOf g)).getD 0) l.gid l.lane l.slice id = true →
      let now := s.eventCount l.die l.slice
      let good (q : FRec) : Prop := q ∈ s.frecs ∧ q.inSet l.die l.slice l.set = true ∧ q.matches_ l.desc l.handle l.asid l.key l.x = true ∧
        q.contains l.x = true
      let gives (a : Option (List Word)) : Prop := ∃ t, exec (.storeLookup id []) s = .next t ∧ t.mem = s.mem ∧ t.frecs.length = s.frecs.length ∧
        ∃ y ∈ t.lookups, y.id = id ∧ y.lane = l.lane ∧ y.ans = some a
      ((∀ q, ¬good q) → gives none) ∧
      ((∃ q, good q) → ∃ q, good q ∧ (∀ r, good r → ageOf now q.ins ≤ ageOf now r.ins) ∧ gives (some (q.answer l.x)))) ∧
    (∀ l, s.lookups.find? (fun y => y.id == id) = some l →
      let mates := s.lookups.filter (fun y => y.bundle == l.bundle && y.slice == l.slice)
      ((∃ y ∈ mates, y.ans = none) → exec (.lookupAnswer id) s = .next s) ∧
      (∀ a, mates = [l] → l.ans = some a → ∃ t, exec (.lookupAnswer id) s = .next t ∧ t.mem = s.mem ∧ l ∉ t.lookups ∧
        ∀ g, s.only g → g.uid = l.gid → l.lane < g.lanes.length → (g.lanes.getD l.lane default).hold = .stall l.bundle → ∃ y ∈ t.allGroups, y.uid = g.uid ∧
          let z := y.lanes.getD l.lane default
          let x := g.lanes.getD l.lane default
          z.hold = .none ∧ z.free = s.cycle + 1 ∧
          (a = none → l.probe = none → z.pc = l.entry ∧ z.v = (x.setPair 62 l.next).v) ∧
          (∀ p, a = none → l.probe = some p → z.pc = l.next ∧ z.v = x.v ∧ z.preds = (x.setPred p.toNat false).preds) ∧
          (∀ r, a = some r → z.pc = l.next ∧ z.v = (((List.range r.length).zip r).foldl (fun (u : Lane) p => u.setReg (8 + p.1) p.2) x).v ∧
            ∀ p, l.probe = some p → z.preds = (x.setPred p.toNat true).preds))) ∧
    (∀ i, s.inserts.find? (fun y => y.id == id) = some i → s.sliceTurn i.die i.core i.gid i.lane i.slice id = true → s.unmatched i.gid id = false →
      let d := i.desc
      let cand := s.frecs.filter (fun q => q.inSet i.die i.slice i.set && q.matches_ d i.handle i.asid i.key i.x)
      let own := s.frecs.filter (fun q => q.inSet i.die i.slice i.set && (q.handle == i.handle && q.asid == i.asid))
      ∃ t, exec (.storeInsert id) s = .next t ∧ t.mem = s.mem ∧ (∀ y ∈ t.inserts, y.id ≠ id) ∧
        (s.storeRoom i.die i.slice = 0 ∨ (∃ q ∈ cand, q.contains i.x = true) → t.frecs = s.frecs) ∧
        (cand = [] → own.length < rdQuota d → (s.frecs.filter (fun q => q.inSet i.die i.slice i.set)).length < s.storeRoom i.die i.slice →
          let now := s.eventCount i.die i.slice
          let r : FRec :=
            { die := i.die, slice := i.slice, set := i.set, way := s.freeWay i.die i.slice i.set, handle := i.handle, asid := i.asid, n := rdN d, m := rdM d, ins := now, hit := now, key := i.key, x0 := i.x,
              rad := (List.range (rdN d)).map (rdR0 d), y0 := i.f, jac := i.j }
          t.frecs = s.frecs ++ [r]) ∧
        (∀ q, cand = [q] → q.contains i.x = false → mayGrow d q i = true → s.storeRoom i.die i.slice ≠ 0 → t.frecs.length = s.frecs.length ∧ ∃ g ∈ t.frecs,
          g.x0 = q.x0 ∧ g.jac = q.jac ∧ g.hit = s.eventCount i.die i.slice ∧ g.rad = List.zipWith (fun r e => if fix32 r ≤ fix32 (mag32 e) then mag32 e else r) q.rad (q.diffs i.x))) ∧
    ∀ w asid handle, s.waiter id = some w → w.kind = .finval asid handle →
      (∀ die, die ∈ w.owed → exec (.storeInvalidate die id) s = .next
        { s with
          frecs := s.frecs.filter (fun q => !(q.die == die && q.asid == asid && q.handle == handle))
          waiters := updBy (fun x => x.id == id) (fun x => { x with owed := x.owed.filter (fun d => d != die) }) s.waiters }) ∧
      (w.owed ≠ [] → exec (.finvalDone id) s = .next s) ∧
      (w.owed = [] → ∃ t, exec (.finvalDone id) s = .next t ∧ t.mem = s.mem ∧ (∀ x ∈ t.waiters, x.id ≠ id) ∧
        ∀ g, s.only g → g.uid = w.gid → ∃ y ∈ t.allGroups, y.uid = g.uid ∧ ∀ l, l < g.lanes.length → w.lanes.getLsbD l = true →
          (g.lanes.getD l default).hold = .stall id → (y.lanes.getD l default).hold = .none ∧ (y.lanes.getD l default).pc = w.next ∧
          (y.lanes.getD l default).free = s.cycle + 1))

/-- Replayed objects (R144 to R155, R276 to R279): an invalid handle is STOREDESC; a call of a failed object or of no method answers at once, a mutating one is appended at the log home, others read
its tail; entries are numbered in order and written to the ring, which holds appends when it is full; each die applies them in order, a read-only call after the entries before it; ORET ends the
method and gives its caller the results; dies report and vote on their checkpoints, a minority is quarantined, and a stopped copy loads the agreed one. The model's choices: an entry that is not mapped is invalid
(log 34), the voters are the copies that wait for no checkpoint (log 124), the cleared low bits of ENTRY (log 131) and the call a resync took past its T (log 126). -/
def Obligations.ReplayedObjects : Prop :=
  (∀ (f : Fields) (s : State),
    let on := s.actives f.gd
    let asid := s.asidOf s.grp
    let c := s.ctx asid
    let v := sclVal s.grp f.b
    let h := v.toNat % 2 ^ 16
    let desc := s.tableDesc 512 asid (s.dieOf s.grp) (bitsOf c.desc 320 64) (bitsOf c.desc 400 16) h
    (∀ k ∈ ([(.ocall f, ⟨0x34, 0, 0⟩), (.osync f, ⟨0x34, 1, 0⟩), (.ostat f, ⟨0x34, 3, 0⟩)] : List (Instr × Key)), entryStop k.2 f s = none →
      (on = [] → exec k.1 s = .next (s.advance f.form.len)) ∧ (on ≠ [] → desc = .bad → exec k.1 s = .next (raise .storedesc s))) ∧
    (∀ d o, on ≠ [] → desc = .ok d → s.object asid h = some o →
      let method := (v.extractLsb' 16 6).toNat
      let row := o.mtab.getD method (0, false, 0, 0)
      (∀ k ∈ ([(.ocall f, ⟨0x34, 0, 0⟩, false), (.osync f, ⟨0x34, 1, 0⟩, true)] : List (Instr × Key × Bool)), entryStop k.2.1 f s = none →
        (k.2.2 = false → markedFault f.gd [(0, 2 * row.2.2.1)] s = none) → s.away s.grp.uid = false → ∃ t, exec k.1 s = .next t ∧ t.mem = s.mem ∧
          (let now (st : Word) : Prop := t.calls = s.calls ∧ t.rops = s.rops ∧ ∀ p ∈ on, (t.laneAt p.1).pc = p.2.pc + BitVec.ofNat 64 f.form.len ∧
             (t.laneAt p.1).v = ((if k.2.2 then p.2 else (((p.2.setReg 8 0).setReg 9 0).setReg 10 0).setReg 11 0).setReg 12 st).v
           (o.failed = true → now 4) ∧ (o.failed = false → k.2.2 = false → odMethods o.desc ≤ method → now 5)) ∧
          (o.failed = false → k.2.2 = true ∨ method < odMethods o.desc → ∃ q, t.calls = s.calls ++ q ∧
            q.map (fun x => (x.lane, x.obj, x.sync, x.stage)) = on.map (fun p => (p.1, o.id, k.2.2, .asked)) ∧
            (k.2.2 = false → q.map (fun x => (x.method, x.args)) = on.map (fun p => (method, callArgs p.2 row.2.2.1))) ∧
            t.rops.length = s.rops.length + (if k.2.2 = false ∧ row.2.1 = true then on.length else 0) ∧
            ∀ p ∈ on, (t.laneAt p.1).v = p.2.v ∧ (t.laneAt p.1).pc = p.2.pc + BitVec.ofNat 64 f.form.len ∧
              ∃ y, (t.laneAt p.1).pend = p.2.pend ++ [y] ∧ y.reg = (if k.2.2 then 12 else 8) ∧ y.n = (if k.2.2 then 1 else 5))) ∧
      (entryStop ⟨0x34, 3, 0⟩ f s = none → let ix := numOf f.a % 64
        let k := s.ocopy (s.dieOf s.grp) o.id
        (3 < ix → exec (.ostat f) s = .next (raise .illegal s)) ∧
        (ix ≤ 3 → ∀ n : BitVec 6, f.d = .scl n → exec (.ostat f) s = .next ((s.setScl n.toNat (BitVec.ofNat 64
          (if ix = 0 then k.applied % 2 ^ 48 else if ix = 1 then (if o.failed then 2 else if k.resync.isSome then 1 else 0) else if ix = 2 then k.traps.toNat else k.resyncs.toNat))).advance
            f.form.len)))) ∧
    (entryStop ⟨0x34, 2, 0⟩ f s = none →
      (on = [] → exec (.oret f) s = .next (s.advance f.form.len)) ∧
      (on ≠ [] → s.grp.method = none → exec (.oret f) s = .next (raise .illegal s)) ∧
      (∀ m e, s.grp.method = some m → s.elect f.gd = some e → ∃ t, exec (.oret f) s = .next t ∧ t.mem = s.mem ∧ (∀ x ∈ t.grp.lanes, x.st = .exited) ∧
        (∀ k ∈ s.ocopies, k.die = m.die → k.obj = m.obj → s.mgmt.quarantine.contains (replayUnit m.die) = false → ∃ k' ∈ t.ocopies, k'.die = k.die ∧ k'.obj = k.obj ∧ k'.bytes = k.bytes ∧ k'.traps = k.traps ∧
          k'.applied = if m.mutates then k.applied + 1 else k.applied) ∧
        (∀ k, s.calls.find? (fun y => y.id == m.call) = some k → (∀ y ∈ t.calls, y.id ≠ m.call) ∧
          ∀ g, s.only g → g.uid = k.gid → g.uid ≠ s.grp.uid → s.away g.uid = false → k.sync = false → k.lane < g.lanes.length → ∃ y ∈ t.allGroups, y.uid = g.uid ∧
            let z := y.lanes.getD k.lane default
            let r (i : Nat) : Word := if i < 2 * m.nres then e.2.reg (8 + i) else 0
            z.v = (((((g.lanes.getD k.lane default).setReg 8 (r 0)).setReg 9 (r 1)).setReg 10 (r 2)).setReg 11 (r 3) |>.setReg 12 0).v ∧
            ∀ p ∈ z.pend, p.src ≠ k.id)))) ∧
  (∀ (id : Nat) (k : Call) (o : Obj) (s : State), s.objAt k.obj = some o →
    (∀ x, s.appendReceipt id = some (x, k) → x.done = none → o.failed = false → (∀ y ∈ s.receipts, y = x ∨ y.appends k.obj = false) →
      let y : Reply := .result (BitVec.ofNat 128 o.next) 0
      (o.next - o.trim = 2 ^ odLogLg o.desc → (∀ r ∈ s.rops, r.id = x.rop → r.isHeld = false ∧ ∀ p ∈ r.replies, p.2 ≠ .held) → exec (.logAppend id) s = .next
        { s with rops := updBy (fun r => r.id == x.rop) (fun r => { r with replies := r.replies ++ [(x.copy, .held)] }) s.rops }) ∧
      (o.next - o.trim ≠ 2 ^ odLogLg o.desc → s.reach (sysWho o.asid (odLogHome o.desc)) .store (logAt o o.next) ≠ .awaited → ∃ t, exec (.logAppend id) s = .next t ∧
        (∃ o' ∈ t.objs, o'.id = o.id ∧ o'.next = o.next + 1) ∧
        (∀ r ∈ s.rops, r.id = x.rop → ∃ r' ∈ t.rops, r'.id = r.id ∧ r'.replies = r.replies ++ [(x.copy, y)]) ∧
        (∃ z ∈ t.receipts, z.rsn = x.rsn ∧ z.owner = x.owner ∧ z.reqid = x.reqid ∧ z.done = some y) ∧
        (∀ e, s.Inv → s.reach (sysWho o.asid (odLogHome o.desc)) .store (logAt o o.next) = .page e → isHost (e.phys (logAt o o.next) + 63) = false →
          s.partials = [] → ((pageFmt s (sysWho o.asid (odLogHome o.desc)) e).map (fun y => y.fmt)) ≠ some 4 → logAt o o.next % 64 = 0 → 6 ≤ e.szlg →
          (∀ d, s.hub.disc = some d → e.phys (logAt o o.next) + 64 ≤ d * 2 ^ 37 ∨ d * 2 ^ 37 + 2112 ≤ e.phys (logAt o o.next)) →
          (∀ b, b < e.phys (logAt o o.next) ∨ e.phys (logAt o o.next) + 64 ≤ b → rdByte t.mem b = rdByte s.mem b) ∧
          rdBytes t.mem (e.phys (logAt o o.next)) 64 = logEntry o.next k x.reqid x.rsn.toNat % 2 ^ 512))) ∧
    (s.call id = some k → k.stage = .asked → (k.sync = true ∨ (o.mtab.getD k.method (0, false, 0, 0)).2.1 = false) → (s.die (odLogHome o.desc)).state = 1 →
      exec (.tailRead id) s = .next { s with calls := updBy (fun x => x.id == id) (fun x => { x with stage := .tail o.next }) s.calls }) ∧
    (∀ t0, s.call id = some k → k.stage = .tail t0 →
      let y := s.ocopy k.on k.obj
      (y.resync ≠ none ∨ y.applied < t0 → exec (.readOnlyCall id) s = .next s) ∧
      (y.resync = none → t0 ≤ y.applied → k.sync = true → ∃ t, exec (.readOnlyCall id) s = .next t ∧ (∀ x ∈ t.calls, x.id ≠ id) ∧ t.ocopies = s.ocopies) ∧
      (y.resync = none → t0 ≤ y.applied → k.sync = false → s.engineBusy k.on = false → ∃ t g m, exec (.readOnlyCall id) s = .next t ∧ g ∈ t.groups ∧
        g.method = some m ∧ m.die = k.on ∧ m.obj = o.id ∧ m.mutates = false ∧ m.call = id ∧ g.width = 1 ∧ g.vcount = 256 ∧
        g.lanes.length = 1 ∧ (g.lanes.getD 0 default).pc = (o.mtab.getD k.method (0, false, 0, 0)).1 &&& ~~~3))) ∧
  (∀ (die : Nat) (o : Obj) (s : State), s.objAt o.id = some o →
    let k := s.ocopy die o.id
    (∀ x, o.failed = false → k.resync = none → s.replays die o.id = true → s.engineBusy die = false → k.applied < o.next → s.tailWaits die o k.applied = false →
      s.ocopies.any (fun x => x.die == die && x.obj == o.id) = true → s.readWords (sysWho o.asid die) (logAt o k.applied) 8 = some x → s.poisonedVA (sysWho o.asid die) (logAt o k.applied) 64 = false → ∃ t g m, exec (.replayApply die o.id) s = .next t ∧
        g ∈ t.groups ∧ g.method = some m ∧ m.die = die ∧ m.obj = o.id ∧ m.seq = k.applied ∧ m.mutates = true ∧ m.undo = k.bytes ∧ g.width = 1 ∧ g.vcount = 256 ∧
        (g.lanes.getD 0 default).pc = (o.mtab.getD (x / 2 ^ 48 % 64) (0, false, 0, 0)).1 &&& ~~~3) ∧
    (sget 0 o.reports die + 64 ≤ k.applied → ∃ t o', exec (.appliedReport die o.id) s = .next t ∧ t.mem = s.mem ∧ o' ∈ t.objs ∧ o'.id = o.id ∧
      o'.reports = sput 0 o.reports die k.applied ∧ o.trim ≤ o'.trim) ∧
    (∀ seq b rest, k.sent = (seq, b) :: rest → o.failed = false → die ∈ s.votersOf o.id → (∀ x ∈ o.digests, x.1 = die → x.2.1 ≠ seq) → o.settled seq = false →
      (∃ v ∈ s.votersOf o.id, v ≠ die ∧ ∀ x ∈ o.digests, x.1 = v → x.2.1 ≠ seq) →
      ∃ t o', exec (.digestReport die o.id) s = .next t ∧ t.mem = s.mem ∧ o' ∈ t.objs ∧ o'.id = o.id ∧ o'.digests = o.digests ++ [(die, seq, crc64 b 0 0 o.statelen)] ∧
        (∃ c ∈ t.ocopies, c.die = die ∧ c.obj = o.id ∧ c.sent = rest) ∧
        ((∀ x ∈ o.firstDigest, x.1 ≠ seq) → o'.firstDigest = o.firstDigest ++ [(seq, s.gtime (odLogHome o.desc))])) ∧
    ((∀ x ∈ o.firstDigest, s.gtime (odLogHome o.desc) < x.2 + ticksPerMs) → exec (.digestTimeout o.id) s = .next s) ∧
    (∀ x, o.failed = false → o.firstDigest.find? (fun y => decide (y.2 + ticksPerMs ≤ s.gtime (odLogHome o.desc))) = some x →
      (s.voters.length < 3 → ∃ t o', exec (.digestTimeout o.id) s = .next t ∧ o' ∈ t.objs ∧ o'.id = o.id ∧ o'.failed = true ∧ ∀ c ∈ t.calls, c.obj ≠ o.id) ∧
      (∀ w, 3 ≤ s.voters.length →
        (s.votersOf o.id).length / 2 + 1 ≤ (o.digests.filter (fun y => (y.2.1 == x.1 && (s.votersOf o.id).contains y.1) && y.2.2 == w)).length →
        ∃ t o', exec (.digestTimeout o.id) s = .next t ∧ t.mem = s.mem ∧ o' ∈ t.objs ∧ o'.id = o.id ∧ o'.agreed = some x.1 ∧
          ∀ v ∈ s.votersOf o.id, (∀ y ∈ o.digests, y.1 ≠ v) → replayUnit v ∈ t.mgmt.quarantine ∧ (v, (o.agreed.map (fun a => a + 1)).getD 0, x.1) ∈ o'.minority)) ∧
    (∀ first ck from_, o.failed = false → k.resync = some first → o.agreed = some ck → first ≤ ck → s.replays die o.id = true →
      ((s.votersOf o.id).filter (fun d => d != die && (s.ocopy d o.id).ckSeq == some ck)).head? = some from_ →
      let b := (s.ocopy from_ o.id).ckBytes
      exec (.resync die o.id) s = .next (s.onOcopy die o.id (fun c =>
        { c with bytes := b, ckBytes := b, ckSeq := some ck, applied := ck + 1, resync := none, resyncs := c.resyncs + 1 }))))

/-! Launches, snapshots, privileged operations and hints -/

/-- LAUNCH and SNAP (R280, R281, R343, R344, R386): a record that cannot be read raises its fault; a release comes first; an INVALID record is queued nowhere and s[D] takes its cause; a good one is
sent to the distributor of every die of its set while s[D] is pending. SNAP holds its lanes in an assay context and does nothing elsewhere. -/
def Obligations.LaunchAndSnap : Prop :=
  ∀ (f : Fields) (s : State),
    let on := s.actives f.gd
    let va := sclVal s.grp f.a
    let n : BitVec 6 := match f.d with | .scl n => n | _ => 0
    (entryStop ⟨0x35, 0, 0⟩ f s = none → f.d = .scl n →
      (on = [] → exec (.launch f) s = .next (s.advance f.form.len)) ∧
      (∀ i, on ≠ [] → blockCheck s s.me .load 256 256 va = .fault i → exec (.launch f) s = .next (raiseWith i s)) ∧
      (∀ es, on ≠ [] → blockCheck s s.me .load 256 256 va = .ok es → s.isAssay s.grp.uid = true → s.grp.rels = [] → ∃ t, exec (.launch f) s = .next t ∧ t.mem = s.mem ∧
        t.grids = s.grids ∧ t.rops = s.rops ∧ t.grp.s = s.grp.s ∧ t.grp.lanes = moved s f (fun _ x => { x with st := .counting, hold := .release s.nextId })) ∧
      (∀ es, on ≠ [] → blockCheck s s.me .load 256 256 va = .ok es → s.isAssay s.grp.uid = false → nothingOwed s → s.grp.uid ≠ 0 → s.away s.grp.uid = false →
        let r : BitVec 2048 := BitVec.ofNat 2048 ((s.readWords { s.me with user := false } va.toNat 32).getD 0)
        let die := s.dieOf s.grp
        s.ropsFull die ((dieList r).filter (fun d => d != die)).length = false → ∃ t, exec (.launch f) s = .next t ∧ t.mem = s.mem ∧ t.reqs = s.reqs ∧ t.teams = s.teams ∧
          t.grp.lanes = moved s f (fun _ x => x.wake s.cycle (s.bundle.pc + BitVec.ofNat 64 f.form.len)) ∧
          (invalidCause s r ≠ 0 → t.grids = s.grids ∧ t.rops = s.rops ∧ t.grp.s = sput 0 s.grp.s n.toNat (BitVec.ofNat 64 (1 + 256 * invalidCause s r))) ∧
          (invalidCause s r = 0 → t.grp.s = s.grp.s ∧ ∃ g q, t.grids = (s.freshTag (bitsOf r 200 16)).grids ++ [g] ∧ t.rops = s.rops ++ q ∧ t.grp.pendS = s.grp.pendS ++ [(n.toNat, g.lid)] ∧
            g.record = r ∧ g.asid = s.asidOf s.grp ∧ g.by_ = s.grp.uid ∧ g.sd = n.toNat ∧ g.state = 0 ∧ g.queued = [] ∧ g.owed = dieList r ∧
            g.arrived = (dieList r).filter (fun d => d == die) ∧
            q.map (fun x => (x.die, x.dst, x.what)) = ((dieList r).filter (fun d => d != die)).map (fun d => (die, d, .launch g.lid))))) ∧
    (entryStop ⟨0x35, 1, 0⟩ f s = none →
      (on = [] ∨ s.isAssay s.grp.uid = false → exec (.snap f) s = .next (s.advance f.form.len)) ∧
      (on ≠ [] → s.isAssay s.grp.uid = true → ∃ t w, exec (.snap f) s = .next t ∧ t.mem = s.mem ∧ t.waiters = s.waiters ++ [w] ∧ w.kind = .snap ∧ w.gid = s.grp.uid ∧
        w.next = s.bundle.pc + BitVec.ofNat 64 f.form.len ∧ t.grp.lanes = moved s f (fun _ x => { x with hold := .stall w.id }) ∧
        t.clusters = updBy (fun c => c.uid == s.myTeam.cluster) (fun c => { c with snapDue := true }) s.clusters))

/-- BARSAVE, BARRST, ZEROB and PARK (R286, R287, R290, R291, R357): a save block of the barriers is written once nothing can arrive at them any more, and read back into objects with the waiters of
each; ZEROB clears buffer bytes after the group's older buffer accesses; PARK holds lanes of a save routine until the whole group stands there, writes the context record, and when every group of
the team has gone the team leaves its core. The model's choices: BARRST with B 2 to 63 is ILLEGAL as BARSAVE is (log 16), and each of these stores of the machine is one step once its
conditions hold (log 55). -/
def Obligations.SavedState : Prop :=
  (∀ (f : Fields) (s : State),
    let on := s.actives f.gd
    let t := s.myTeam
    let va := sclVal s.grp f.a
    let kind := numOf f.b
    let who := s.me
    (∀ c ∈ ([(.barsave f, ⟨0x36, 0, 0⟩, .store), (.barrst f, ⟨0x36, 1, 0⟩, .load)] : List (Instr × Key × Touch)), entryStop c.2.1 f s = none →
      (on = [] → exec c.1 s = .next (s.advance f.form.len)) ∧
      (on ≠ [] → 2 ≤ kind → exec c.1 s = .next (raise .illegal s)) ∧
      (∀ i, on ≠ [] → kind < 2 → blockCheck s who c.2.2 64 (barBytes kind) va = .fault i → exec c.1 s = .next (raiseWith i s)) ∧
      (∀ es, on ≠ [] → kind = 1 → t.clrank ≠ 0 → blockCheck s who c.2.2 64 (barBytes kind) va = .ok es → exec c.1 s = .next (raise .illegal s))) ∧
    (∀ es, on ≠ [] → kind = 0 ∨ (kind = 1 ∧ t.clrank = 0) →
      (entryStop ⟨0x36, 0, 0⟩ f s = none → blockCheck s who .store 64 (barBytes kind) va = .ok es →
        let covered (x : Team) : Prop := x = t ∨ (kind = 1 ∧ x ∈ s.teams ∧ x.cluster = t.cluster)
        let fixed := ∀ x, covered x → (kind = 0 ∨ x ∈ s.teams) → (∀ g ∈ s.allGroups, g.team = x.uid → g.method = none → g.uid ≠ 0 → ∀ y ∈ g.lanes, y.st ≠ .eligible ∨ y.routine = some .save) ∧
          (∀ k ∈ s.tasks, k.team = x.uid → k.stage ≠ .active ∧ k.stage ≠ .draining) ∧ ∀ c ∈ s.copyq, c.team = x.uid → c.stage ≠ .walking
        (¬fixed → exec (.barsave f) s = .next s) ∧
        (fixed → exec (.barsave f) s =
          .next ((s.sysPuts who s.grp.uid va.toNat (barWords kind t (s.groupsOf t.uid).length (s.kindBars t kind))).advance f.form.len))) ∧
      (entryStop ⟨0x36, 1, 0⟩ f s = none → blockCheck s who .load 64 (barBytes kind) va = .ok es →
        let x (o : Nat) : Nat := s.sysGet who (va.toNat + o)
        let ng := (s.groupsOf t.uid).length % 32
        let same := x 0 % 64 = (if kind = 0 then t.bars.length else 16) % 64 ∧ x 0 / 2 ^ 8 % 32 = ng ∧ x 0 / 2 ^ 16 % 2 = kind ∧ (kind = 1 → x 0 / 2 ^ 24 % 16 = t.clsize % 16)
        (t.bars.length < 64 → s.allGroups.length < 32 → ¬same → exec (.barrst f) s = .next (raise .illegal s)) ∧
        (t.bars.length < 64 → s.allGroups.length < 32 → same → ∃ u, exec (.barrst f) s = .next u ∧ u.mem = s.mem ∧ u.grp = (s.advance f.form.len).grp ∧
          (kind = 1 → u.teams.map (fun y => (y.uid, y.bars)) = s.teams.map (fun y => (y.uid, y.bars))) ∧
          (kind = 0 → u.clusters = s.clusters ∧ ((∃ y ∈ s.teams, y.uid = s.grp.team) → (∀ y ∈ s.teams, y.uid = s.grp.team → y = t) →
            (u.team s.grp.team).bars.length = t.bars.length ∧ ∀ i, i < t.bars.length → i < 48 →
              let b := (u.team s.grp.team).bars.getD i default
              b.word = x (64 + 8 * i) % 2 ^ 25 ∧ ∀ k, k < 16 →
                let m : QWord := BitVec.ofNat 128 (x (448 + 16 * (16 * i + k)) + 2 ^ 64 * x (448 + 16 * (16 * i + k) + 8))
                sget 0 b.waiters k = m ∧ (m ≠ 0 → (2 * i + (if b.phase then 1 else 0), k, m) ∈ (u.team s.grp.team).masks)))))) ∧
    (entryStop ⟨0x36, 4, 0⟩ f s = none →
      let a := (sclVal s.grp f.a).toNat % 2 ^ 32
      let n := (sclVal s.grp f.b).toNat
      let region := a / 2 ^ 28
      let off := a % 2 ^ 28
      let wrong := n ≠ 0 ∧ (2 < region ∨ t.bound region < off + n)
      (on = [] → exec (.zerob f) s = .next (s.advance f.form.len)) ∧
      (on ≠ [] → a % 16 ≠ 0 ∨ n % 16 ≠ 0 → exec (.zerob f) s = .next (raiseWith { cause := .align, access := 3, addr := BitVec.ofNat 64 a } s)) ∧
      (on ≠ [] → a % 16 = 0 → n % 16 = 0 → wrong → exec (.zerob f) s = .next (raiseWith { cause := .bufrange, access := 3, addr := BitVec.ofNat 64 a } s)) ∧
      (on ≠ [] → a % 16 = 0 → n % 16 = 0 → ¬wrong → (∃ r ∈ s.reqs, r.isBuf = true ∧ r.gid = s.grp.uid) → exec (.zerob f) s = .next s) ∧
      (on ≠ [] → a % 16 = 0 → n % 16 = 0 → ¬wrong → (∀ r ∈ s.reqs, r.isBuf = true → r.gid ≠ s.grp.uid) → ∃ u, exec (.zerob f) s = .next u ∧ u.mem = s.mem ∧
        u.grp = (s.advance f.form.len).grp ∧ (t.uid = s.grp.team → t ∈ s.teams → swf (0 : Byte) t.abuf = true → swf (0 : Byte) t.wbuf = true → swf (0 : Byte) t.cbuf = true →
          let z := u.team s.grp.team
          let is (k : Nat) (old new : Sparse Byte) : Prop := ∀ b, rdByte new b = if region = k ∧ off ≤ b ∧ b < off + n then 0 else rdByte old b
          is 0 t.abuf z.abuf ∧ is 1 t.wbuf z.wbuf ∧ is 2 t.cbuf z.cbuf))) ∧
    (entryStop ⟨0x36, 5, 0⟩ f s = none → s.grp.method = none → s.grp.uid ≠ 0 →
      let u := s.onLanes (fun l x => if s.inBundle l = false then x else if guardOf f.gd x = false then { x with pc := x.pc + BitVec.ofNat 64 f.form.len }
        else { x with hold := .park })
      let all := (∀ x ∈ u.grp.lanes, x.st = .exited ∨ x.hold = .park) ∧ s.grp.ops = [] ∧
        ∀ g ∈ s.groups, g.team = s.grp.team → g.method = none → g.uid ≠ 0 → g.uid ≠ s.grp.uid → (∀ x ∈ g.lanes, x.st = .exited) → g.ops = []
      let fine := (∀ p ∈ on, p.2.routine = some .save) ∧ s.grp.ctxrec ≠ 0
      (on = [] → exec (.park f) s = .next (s.advance f.form.len)) ∧
      (on ≠ [] → ¬fine → exec (.park f) s = .next (raise .illegal s)) ∧
      (on ≠ [] → fine → ¬all → exec (.park f) s = .next u) ∧
      (on ≠ [] → fine → all →
        let c := blockCheck u (sysWho (s.asidOf s.grp) (s.dieOf s.grp)) .store 16384 12352 s.grp.ctxrec
        (∀ i, c = .fault i → exec (.park f) s = .next (raiseWith i s)) ∧
        (∀ es, c = .ok es →
          let mates := s.groups.filter (fun g => g.team == s.grp.team && g.method.isNone && g.uid != 0)
          ∃ v, exec (.park f) s = .next v ∧ v.mem = (u.writeRecord u.grp).mem ∧
            ((∃ g ∈ mates, g.gone = false) → v.teams = s.teams ∧ v.parked = s.parked ∧ v.grp = { (u.writeRecord u.grp).grp with isParked := true }) ∧
            ((∀ g ∈ mates, g.gone = true) → v.teams = s.teams.filter (fun x => x.uid != s.grp.team) ∧ ∃ p, v.parked = s.parked ++ [p] ∧ p.team = t ∧
              p.groups.map (fun g => g.uid) = s.grp.uid :: mates.map (fun g => g.uid) ∧ ∀ g ∈ v.allGroups, g.team = s.grp.team → g.method = none → g.uid = 0))))) ∧
  ∀ (w : Who) (uid va x : Nat) (e : TlbEntry) (s : State), s.Inv → s.reach w .store va = .page e → isHost (e.phys va) = false →
    (∀ p ∈ s.partials, p.line ≠ lineOf (e.phys va) ∧ p.line ≠ lineOf (e.phys va + 7)) → ((pageFmt s w e).map (fun f => f.fmt)) ≠ some 4 →
    (∀ d, s.hub.disc = some d → e.phys va + 8 ≤ d * 2 ^ 37 ∨ d * 2 ^ 37 + 2112 ≤ e.phys va) →
    let t := s.sysPut w uid va x
    (∀ b, b < e.phys va ∨ e.phys va + 8 ≤ b → rdByte t.mem b = rdByte s.mem b) ∧ rdBytes t.mem (e.phys va) 8 = x % 2 ^ 64 ∧
    ∀ g, s.only g → g.uid = uid → ∃ y ∈ t.allGroups, y.uid = uid ∧ y.wct = max g.wct (s.nextW (e.phys va) 8)

/-- SHOOT, PURGE and DESC with what they wait for (R288, R289, R293, R366, R389, R130, R144, R145): a SHOOT holds its lanes until every TLB has dropped the matching entries and the accesses
translated before are done, a PURGE until every die has removed the tag's work; DESC checks a descriptor against its limits, writes the table entry and installs or removes it. The model's choices: DATA at
what is not mapped of the blocks DESC reads and the entry it writes (log 40), and STOREDESC for a bad HANDLE or a foreign ASID with VALID 0 too (log 108). -/
def Obligations.InvalidateAndInstall : Prop :=
  (∀ (f : Fields) (s : State),
    let on := s.actives f.gd
    let a := sclVal s.grp f.a
    let b := sclVal s.grp f.b
    let kind := bitsOf b 12 2
    (∀ c ∈ ([(.shoot f, ⟨0x36, 2, 0⟩), (.purge f, ⟨0x36, 3, 0⟩), (.desc f, ⟨0x36, 7, 0⟩)] : List (Instr × Key)), entryStop c.2 f s = none → on = [] → exec c.1 s = .next (s.advance f.form.len)) ∧
    (entryStop ⟨0x36, 2, 0⟩ f s = none → on ≠ [] →
      (s.hostMode = true ∨ kind = 3 → exec (.shoot f) s = .next (raise .illegal s)) ∧
      (s.hostMode = false → kind ≠ 3 → ∃ t w, exec (.shoot f) s = .next t ∧ t.mem = s.mem ∧ t.tlbs = s.tlbs ∧ t.waiters = s.waiters ++ [w] ∧ w.gid = s.grp.uid ∧
        w.kind = .shoot kind (bitsOf b 0 12) a ∧ (∀ u, u ∈ w.owed ↔ ∃ d, d < 16 ∧ (s.die d).state = 1 ∧ ((256 * d ≤ u ∧ u < 256 * d + 256) ∨ (4096 + 32 * d ≤ u ∧ u < 4096 + 32 * d + 32))) ∧
        t.grp.lanes = moved s f (fun _ x => { x with hold := .stall w.id }))) ∧
    (entryStop ⟨0x36, 3, 0⟩ f s = none → on ≠ [] → ∃ t w, exec (.purge f) s = .next t ∧ t.mem = s.mem ∧ t.teams = s.teams ∧ t.waiters = s.waiters ++ [w] ∧ w.gid = s.grp.uid ∧
      w.kind = .purge (a.toNat % 2 ^ 16) ∧ (∀ d, d ∈ w.owed ↔ d < 16 ∧ (s.die d).state = 1) ∧ t.grp.lanes = moved s f (fun _ x => { x with hold := .stall w.id })) ∧
    (entryStop ⟨0x36, 7, 0⟩ f s = none → on ≠ [] →
      let asid := s.asidOf s.grp
      let c := s.ctx asid
      (1 < numOf f.b → exec (.desc f) s = .next (raise .illegal s)) ∧
      (∀ i, (numOf f.b = 0 ∧ blockCheck s s.me .load 128 128 a = .fault i) ∨ (numOf f.b = 1 ∧ blockCheck s s.me .load 64 64 a = .fault i) →
        exec (.desc f) s = .next (raiseWith i s)) ∧
      (∀ es, numOf f.b = 0 → blockCheck s s.me .load 128 128 a = .ok es →
        let d : BitVec 1024 := BitVec.ofNat 1024 ((s.readWords s.me a.toNat 16).getD 0)
        let h := bitsOf d 0 16
        let at_ := bitsOf c.desc 256 64 + 128 * h
        (handleOk asid (bitsOf c.desc 384 16) d = false ∨ (bitAt d 63 = true ∧ routineOk d = false) → exec (.desc f) s = .next (raise .storedesc s)) ∧
        (handleOk asid (bitsOf c.desc 384 16) d = true → bitAt d 63 = false ∨ routineOk d = true →
          (∀ i, blockCheck s s.me .store 1 128 (BitVec.ofNat 64 at_) = .fault i → exec (.desc f) s = .next (raiseWith i s)) ∧
          (∀ e, blockCheck s s.me .store 1 128 (BitVec.ofNat 64 at_) = .ok e → ∃ t, exec (.desc f) s = .next t ∧
            t.mem = (s.sysPuts s.me s.grp.uid at_ ((List.range 16).map (fun i => (8 * i, bitsOf d (64 * i) 64)))).mem ∧
            t.frecs = s.frecs.filter (fun q => !(q.handle == h && q.asid == asid)) ∧ t.grp.lanes = (s.advance f.form.len).grp.lanes))) ∧
      (∀ es, numOf f.b = 1 → blockCheck s s.me .load 64 64 a = .ok es →
        let d : BitVec 512 := BitVec.ofNat 512 ((s.readWords s.me a.toNat 8).getD 0)
        let h := bitsOf d 0 16
        let at_ := bitsOf c.desc 320 64 + 64 * h
        let entry := (blockCheck s s.me .store 1 64 (BitVec.ofNat 64 at_))
        let put := (s.sysPuts s.me s.grp.uid at_ ((List.range 8).map (fun i => (8 * i, bitsOf d (64 * i) 64)))).mem
        (handleOk asid (bitsOf c.desc 400 16) d = false ∨ (bitAt d 63 = true ∧ (objectOk d = false ∨ ∃ i, logPages s d = .fault i)) →
          exec (.desc f) s = .next (raise .storedesc s)) ∧
        (handleOk asid (bitsOf c.desc 400 16) d = true → s.object asid h = none →
          (∀ e, bitAt d 63 = false → entry = .ok e → ∃ t, exec (.desc f) s = .next t ∧ t.objs = s.objs ∧ t.ocopies = s.ocopies ∧ t.mem = put ∧
            t.grp.lanes = (s.advance f.form.len).grp.lanes) ∧
          (∀ e0 e1 e2 e3, bitAt d 63 = true → objectOk d = true → logPages s d = .ok e0 → blockCheck s s.me .load 64 (bitsOf d 192 17) (BitVec.ofNat 64 (odInitVA d)) = .ok e1 →
            blockCheck s s.me .load 16 (16 * odMethods d) (BitVec.ofNat 64 (odMtabVA d)) = .ok e2 → entry = .ok e3 → ∃ t o, exec (.desc f) s = .next t ∧
            (∀ n, s.mgmt.quarantine.contains (replayUnit n) = false) → t.objs = s.objs ++ [o] ∧ t.mem = put ∧ o.handle = h ∧ o.asid = asid ∧ o.desc = d ∧ o.next = 0 ∧ o.trim = 0 ∧ o.failed = false ∧
            t.grp.lanes = (s.advance f.form.len).grp.lanes ∧ ∃ k, t.ocopies = s.ocopies ++ k ∧ k.map (fun x => (x.die, x.obj, x.applied, x.resync)) =
              (List.range 16).map (fun die => (die, o.id, 0, none))))))) ∧
  (∀ (tlb sh : Nat) (s : State) (w : Waiter) (kind asid : Nat) (va : DWord), s.waiter sh = some w → w.kind = .shoot kind asid va →
    let gone (e : TlbEntry) : Bool := e.unit == tlb && (kind != 0 || e.holds asid va.toNat) && (kind != 1 || e.asid == asid)
    let mark := w.marks.find? (fun m => m.1 == tlb)
    let upto := match mark with | some m => m.2 | none => s.nextId
    let more (l : List (Nat × Nat)) : List (Nat × Nat) := if mark.isSome then l else l ++ [(tlb, s.nextId)]
    let busy := ∃ r ∈ s.translated, r.born ≤ upto ∧ (r.bench = tlb ∨ quadTlb r.bench = tlb) ∧ (if kind = 2 then ∃ c ∈ s.ctxs, c.asid = r.asid else r.asid = asid)
    (tlb ∉ w.owed → exec (.shootInvalidationAtTlb tlb sh) s = .next s) ∧
    (tlb ∈ w.owed → ∃ t, exec (.shootInvalidationAtTlb tlb sh) s = .next t ∧ t.mem = s.mem ∧ t.tlbs = s.tlbs.filter (fun e => !gone e) ∧
      (busy → t.waiters = updBy (fun x => x.id == sh) (fun x => { x with marks := more x.marks }) s.waiters ∧ t.allGroups = s.allGroups) ∧
      (¬busy → (∃ u ∈ w.owed, u ≠ tlb) → t.waiters = updBy (fun x => x.id == sh) (fun x => { x with marks := more x.marks, owed := x.owed.filter (fun d => d != tlb) }) s.waiters ∧
        t.allGroups = s.allGroups) ∧
      (¬busy → (∀ u ∈ w.owed, u = tlb) → (∀ x ∈ t.waiters, x.id ≠ sh) ∧ ∀ g, s.only g → g.uid = w.gid → ∃ y ∈ t.allGroups, y.uid = g.uid ∧
        ∀ l, l < g.lanes.length → w.lanes.getLsbD l = true → (g.lanes.getD l default).hold = .stall sh →
          (y.lanes.getD l default).hold = .none ∧ (y.lanes.getD l default).pc = w.next ∧ (y.lanes.getD l default).free = s.cycle + 1))) ∧
  ∀ (die p : Nat) (s : State) (w : Waiter) (tag : Nat), s.waiter p = some w → w.kind = .purge tag → tag < noTag → (∀ x ∈ s.faults, x.written = true) →
    let tagged (lid : Nat) : Bool := s.grids.any (fun g => g.lid == lid && g.rqtag == tag)
    (die ∉ w.owed → exec (.purgeMomentOnDie die p) s = .next s) ∧
    (die ∈ w.owed → ∃ t, exec (.purgeMomentOnDie die p) s = .next t ∧ (∀ x ∈ t.teams, x ∈ s.teams ∧ ¬(x.die = die ∧ tagged x.lid = true)) ∧
      (∀ r ∈ t.rops, (r.rqtag ≠ noTag → ∃ r0 ∈ s.rops, r0.id = r.id) ∧ ¬(r.die = die ∧ r.rqtag = tag)) ∧ (∀ l ∈ t.lslots, l ∈ s.lslots ∧ ¬(l.die = die ∧ tagged l.lid = true)) ∧
      (∀ g ∈ s.grids, g.rqtag = tag → die ∈ g.arrived → ∃ g' ∈ t.grids, g'.lid = g.lid ∧ die ∉ g'.arrived) ∧
      ((∃ u ∈ w.owed, u ≠ die) → t.mem = s.mem ∧ ((∀ g ∈ s.grids, g.rqtag = tag → die ∉ g.arrived) → t.grids = s.grids) ∧ t.teams = s.teams.filter (fun x => !(x.die == die && tagged x.lid)) ∧
        t.waiters = updBy (fun x => x.id == p) (fun x => { x with owed := x.owed.filter (fun d => d != die) }) s.waiters) ∧
      ((∀ u ∈ w.owed, u = die) → (∀ x ∈ t.waiters, x.id ≠ p) ∧
        (∀ g ∈ s.grids, (∀ y ∈ s.grids, y.lid = g.lid → y = g) → g.rqtag = tag → g.state = 0 → g.queued ≠ [] → (∀ l ∈ s.lslots, l.lid = g.lid → l.die = die) →
          ∃ g' ∈ t.grids, g'.lid = g.lid ∧ g'.state = 3 ∧ g'.cause = 0) ∧
        ((∀ g ∈ s.grids, g.rqtag ≠ tag) → ∀ g, s.only g → g.uid = w.gid → ∃ y ∈ t.allGroups, y.uid = g.uid ∧ ∀ l, l < g.lanes.length → w.lanes.getLsbD l = true →
          (g.lanes.getD l default).hold = .stall p → (y.lanes.getD l default).hold = .none ∧ (y.lanes.getD l default).pc = w.next ∧ (y.lanes.getD l default).free = s.cycle + 1)))

/-- PFI, PFD, YIELD and HINT (R180, R263, R264, R283, R284, R339, R401): a hint raises no fault, changes no memory and no register, and moves past; a line that can be translated starts on its way,
one that cannot is counted in PFDROP, and one whose translation is awaited keeps its place; a PFD then stands at its instruction (log 98). In a method of a replayed object each is a method trap of cause 3 (R152; that R152 holds over R180 there is the model's reading, log 63). YIELD lets other groups of the bench go first for 8 core cycles; HINT writes a trace marker when the core's tracing is on. The place of the trace buffer in
physical memory is the model's choice (log 41), as is that a hint whose address register lies beyond VCOUNT does nothing (log 66). -/
def Obligations.Hints : Prop :=
  ∀ (f : Fields) (s : State),
    let c := s.unitOf s.grp
    let on := s.actives f.gd
    let starts (t : State) (l : List Nat) : Prop :=
      let bad (v : Nat) : Bool := match s.reach s.me .fetch v with | .fail _ _ => true | _ => false
      let waits (v : Nat) : Bool := match s.reach s.me .fetch v with | .awaited => true | _ => false
      t.mem = s.mem ∧ t.grp = (s.advance f.form.len).grp ∧ t.reqs = s.reqs ∧
      (t.core c).pfdrop = (s.core c).pfdrop + BitVec.ofNat 64 (l.filter bad).length ∧ (t.core c).icache = (s.core c).icache ∧
      (t.core c).pfis = (s.core c).pfis ++ (l.filter waits).map (fun v => (s.grp.bench, s.asidOf s.grp, BitVec.ofNat 64 v)) ∧
      (∀ x, x ∈ (t.core c).fills ↔ x ∈ (s.core c).fills ∨ (x ∉ (s.core c).icache ∧ ∃ v ∈ l, ∃ e, s.reach s.me .fetch v = .page e ∧ x = lineOf (e.phys v)))
    let line (v : DWord) (i : Nat) : Nat := (BitVec.ofNat 64 (v.toNat / 128 * 128 + 128 * i)).toNat
    (∀ m, s.grp.method = some m → ∀ i ∈ ([.pfi f, .pfiX f, .pfdL1 f, .pfdSlice f, .yield f, .hint f] : List Instr), exec i s = .next (methodTrap 3 m s)) ∧
    (s.grp.method = none →
    (∃ t, exec (.pfi f) s = .next t ∧ starts t [line (s.bundle.pc + ((f.imm.setWidth 24 : BitVec 24).signExtend 64 <<< 2)) 0]) ∧
    (let target := if f.form.hasLit then f.lit else s.bundle.pc + ((f.imm.setWidth 16 : BitVec 16).signExtend 64 <<< 2)
     ∃ t, exec (.pfiX f) s = .next t ∧ starts t (if on = [] then [] else (List.range (f.md.toNat % 8 + 1)).map (line target))) ∧
    (∀ k ∈ ([(.pfdL1 f, false), (.pfdSlice f, true)] : List (Instr × Bool)),
      (hintBase s f = false → exec k.1 s = .next (s.advance f.form.len)) ∧
      (hintBase s f = true → (∃ p ∈ on, pfAwaited s f p = true) → exec k.1 s = .next s) ∧
      (hintBase s f = true → (∀ p ∈ on, pfAwaited s f p = false) →
        let va (x : Lane) : DWord := vaWith s.grp f (immOff f) x
        let hit (p : Nat × Lane) : Option (Nat × Nat) := match s.reach s.me .load (va p.2).toNat with
          | .page e => let pa := (s.spot s.me 0 p.1 (va p.2) 1 e).pa
            if isHost pa then none else some (p.1, pa / 128 * 128)
          | _ => none
        let bad (p : Nat × Lane) : Bool := match s.reach s.me .load (va p.2).toNat with | .page _ => false | _ => true
        ∃ t q, exec k.1 s = .next t ∧ t.mem = s.mem ∧ t.grp = (s.advance f.form.len).grp ∧ t.reqs = s.reqs ++ q ∧ q.map (fun r => (r.lane, r.addr)) = on.filterMap hit ∧
          (∀ r ∈ q, r.acc = .load ∧ r.l1 = k.2 ∧ r.ext.words_ = 0 ∧ r.op = 0 ∧ r.gid = s.grp.uid) ∧
          (t.core c).pfdrop = (s.core c).pfdrop + BitVec.ofNat 64 (on.filter bad).length)) ∧
    exec (.yield f) s = .next ({ s with grp := { s.grp with yieldTo := s.cycle + 8 } }.advance f.form.len) ∧
    (on = [] ∨ (s.core c).trace = none ∨ s.isSealed = true → exec (.hint f) s = .next (s.advance f.form.len)) ∧
    (∀ a len used, on ≠ [] → s.isSealed = false → (s.core c).trace = some (a, len, used) → ∃ t, exec (.hint f) s = .next t ∧ t.grp.lanes = (s.advance f.form.len).grp.lanes ∧
      (len < used + 16 → t.mem = s.mem ∧ (t.core c).trace = none) ∧
      (used + 16 ≤ len → isHost (a.toNat + used) = false → s.Inv → (∀ d, s.hub.disc = some d → a.toNat + used + 16 ≤ d * 2 ^ 37 ∨ d * 2 ^ 37 + 2112 ≤ a.toNat + used) → (t.core c).trace = some (a, len, used + 16) ∧
        (∀ b, b < a.toNat + used ∨ a.toNat + used + 16 ≤ b → rdByte t.mem b = rdByte s.mem b) ∧
        rdBytes t.mem (a.toNat + used) 16 = (s.now + 2 ^ 64 * (f.imm.toNat % 4096 + s.grp.slot * 2 ^ 12 + s.grp.bench % 2 * 2 ^ 17 + s.coreOf s.grp % 128 * 2 ^ 18)) % 2 ^ 128)))

/-! Numbered operations -/

/-- NUMBERED_REQUEST and RECEIPT_RETIRE (R54, R56, R156 to R158): the oldest copy on its way reaches its owner, which drops it when it comes from an older incarnation or lies outside the window,
answers a second copy from its receipt, says BUSY when its cache is full and STALE to a wrong incarnation, sends it on where its granule is at home elsewhere or, as a frame, to a peer, and executes a
new request once, under a receipt, in the order of its slice's input queue; a DONE receipt leaves when the requester has passed it and 1,256 µs are over. The incarnation that a copy sent on carries
(log 103) and the operation codes of the headers (log 133) are the model's choices. -/
def Obligations.Receipts : Prop :=
  (∀ (id : Nat) (s : State), (∀ m ∈ s.rmsgs, m.rop ≠ id) → (∀ x ∈ s.receipts, x.rop = id → x.done ≠ none ∨ x.place = 0) → exec (.numberedRequest id) s = .next s) ∧
  (∀ (id : Nat) (x : Receipt) (r : Req) (s : State), x ∈ s.receipts → x.rop = id → x.done = none → x.place ≠ 0 → x.what.access = some r →
    (∀ y ∈ s.receipts, (y.rop = id ∧ y.done = none ∧ y.place ≠ 0) ∨ (y.owner = x.owner ∧ y.reqid = x.reqid ∧ y.rsn = x.rsn) → y = x) →
    let first := ∀ k ∈ s.queueAt x.owner (sliceOf r.addr), x.place ≤ k
    let busy := s.linesBusy x.place r = true ∨ (r.combine = true ∧ ∃ ln ∈ linesOf r.addr r.n, s.flushOwed ln = true)
    let is (y : Receipt) : Bool := y.owner == x.owner && y.reqid == x.reqid && y.rsn == x.rsn
    let does (t : State) (y : Reply) : Prop := t.receipts = updBy is (fun z => { z with done := some y }) s.receipts ∧ t.rmsgs = s.rmsgs ∧
      t.rops = updBy (fun n => n.id == id) (fun n => { n with replies := n.replies ++ [(x.copy, y)] }) s.rops
    let open_ := isHost r.addr = false ∧ s.Inv ∧ ∀ d, s.hub.disc = some d → r.addr + 16 ≤ d * 2 ^ 37 ∨ d * 2 ^ 37 + 2112 ≤ r.addr
    (x.what = .atom r → r.acc.isFlush = false →
      (x.aside = false → first → busy → exec (.numberedRequest id) s = .next { s with receipts := updBy is (fun z => { z with aside := true }) s.receipts }) ∧
      (x.aside = true ∨ first → ¬busy → open_ → r.six = 0 → r.n ≤ 16 → r.combine = false → ∃ t, exec (.numberedRequest id) s = .next t ∧
        putBytes s.mem t.mem r.addr r.n (BitVec.ofNat 128 (r.newVal (rdBytes s.mem r.addr r.n))) (fullMask r.n) ∧
        (0 < r.n → (t.line (lineOf r.addr)).w = s.nextW r.addr r.n) ∧ does t (.result (BitVec.ofNat 128 (rdBytes s.mem r.addr r.n)) (s.nextW r.addr r.n)))) ∧
    (∀ op, r.acc = .flush op → first → open_ → ∃ t, exec (.numberedRequest id) s = .next t ∧
      putBytes s.mem t.mem r.addr 4 ((commFold op (BitVec.ofNat 32 (rdBytes s.mem r.addr 4)) (r.data.setWidth 32)).setWidth 128) (fullMask 4) ∧ does t (.result 0 (s.nextW r.addr 4)))) ∧
  (∀ (id : Nat) (m : RMsg) (s : State), s.rmsgs.find? (fun m => m.rop == id) = some m → (∀ x ∈ s.receipts, x.rop = id → x.done ≠ none ∨ x.place = 0) →
    let next := ∀ l r, s.rmsgs = l ++ m :: r → m ∉ l → ∀ k ∈ l, m.sameFlow k = false ∨ s.msgReady k = false
    (s.msgReady m = false ∨ ¬next → exec (.numberedRequest id) s = .next s) ∧
    (s.msgReady m = true → next →
      let seen := s.seenInc m.at_ m.die
      let left : State := { s with rmsgs := s.rmsgs.erase m }
      let met := left.meet m
      let tells (y : Reply) : Out3 := .next (met.replyCopy id m.copy y)
      let here := 16 ≤ m.at_ ∨ (s.die m.at_).state = 1
      let older := seen ≠ 0 ∧ 1 ≤ (seen - m.reqinc).toNat ∧ (seen - m.reqinc).toNat < 2 ^ 15
      let known := here ∧ ¬older
      let inWindow := m.owninc = s.incOf m.at_ ∧ (m.rsn - m.ackw).toNat < 2 ^ 20
      let fresh := known ∧ inWindow ∧ met.receiptAt m.at_ m.die m.rsn = none
      let room := (met.receipts.filter (fun x => x.owner == m.at_)).length < 8192
      let moved := ∃ r, m.what.access = some r ∧ m.at_ < 16 ∧ s.homeOf r.addr ≠ m.at_
      let entry (place : Nat) : Receipt :=
        { owner := m.at_, reqid := m.die, rsn := m.rsn, reqinc := m.reqinc, rop := m.rop, copy := m.copy, what := m.what, done := none, at_ := s.ownerTime m.at_, place := place,
          aside := false, casTries := 0, casSeen := 0 }
      let peer := 16 ≤ m.at_ ∧ ∃ r, m.what.access = some r ∧ isPeer r.addr = true
      (∀ r, 16 ≤ m.at_ → m.what.access = some r → isPeer r.addr = true → ∃ h : Jdp, exec (.numberedRequest id) s = .next { left with out := s.out ++ [.peer (m.at_ - 16) h.word r.payload] } ∧
        h.rsn = m.rsn ∧ h.reqinc = m.reqinc ∧ h.owninc = m.owninc ∧ h.addr.toNat = r.addr % 2 ^ 46 ∧ h.plen.toNat = r.payload.length % 2 ^ 16) ∧
      (¬peer →
      (¬here → exec (.numberedRequest id) s = .next left) ∧ (here → older → exec (.numberedRequest id) s = .next left) ∧
      (known → m.owninc ≠ s.incOf m.at_ → exec (.numberedRequest id) s = tells .stale) ∧
      (known → m.owninc = s.incOf m.at_ → 2 ^ 20 ≤ (m.rsn - m.ackw).toNat → ∃ t, exec (.numberedRequest id) s = .next t ∧ t.mem = s.mem ∧ t.receipts = met.receipts ∧ t.rops = s.rops ∧
        t.rmsgs = left.rmsgs ∧ (m.at_ < 16 → (t.die m.at_).rsnDrops = (s.die m.at_).rsnDrops + 1) ∧
        (16 ≤ m.at_ → t.hub.drops = sput 0 s.hub.drops m.at_ (sget 0 s.hub.drops m.at_ + 1))) ∧
      (∀ x, known → inWindow → met.receiptAt m.at_ m.die m.rsn = some x → exec (.numberedRequest id) s = tells (match x.done with | some y => y | none => .held)) ∧
      (∀ r, fresh → m.what.access = some r → moved → ∃ t d, exec (.numberedRequest id) s = .next t ∧ t.mem = s.mem ∧ t.receipts = met.receipts ∧ t.rops = s.rops ∧
        d = s.forwardTo m.at_ r.addr ∧ t.rmsgs = left.rmsgs ++ [{ m with at_ := d, hdr := { m.hdr with dst := BitVec.ofNat 6 d, owninc := s.incOf d } }]) ∧
      (fresh → ¬moved → ¬room → exec (.numberedRequest id) s = tells .busy) ∧
      (∀ c, fresh → room → m.what = .append c → exec (.numberedRequest id) s = .next { met with receipts := met.receipts ++ [entry 0] }) ∧
      (∀ l, fresh → room → m.what = .launch l → exec (.numberedRequest id) s = .next
        { met with
          receipts := met.receipts ++ [entry 0]
          grids := updBy (fun g => g.lid == l) (fun g => if g.arrived.contains m.at_ then g else { g with arrived := g.arrived ++ [m.at_] }) s.grids }) ∧
      (∀ r, fresh → room → m.what = .atom r → 16 ≤ m.at_ → exec (.numberedRequest id) s = .next { met with receipts := met.receipts ++ [entry 0] }) ∧
      (∀ r, fresh → room → m.what.access = some r → m.at_ < 16 → ¬moved → exec (.numberedRequest id) s = .next
        { met with receipts := met.receipts ++ [entry s.nextId], nextId := s.nextId + 1 })) ∧
      met.mem = s.mem ∧ (seen = m.reqinc → met.receipts = s.receipts) ∧
      (seen ≠ m.reqinc → ∀ x, x ∈ met.receipts ↔ x ∈ s.receipts ∧ ¬(x.owner = m.at_ ∧ x.reqid = m.die)) ∧
      (swf (0 : BitVec 16) (if m.at_ < 16 then (s.die m.at_).seen else s.hub.seen) = true → here → met.seenInc m.at_ m.die = m.reqinc) ∧
      (swf (0 : BitVec 32) (if m.at_ < 16 then (s.die m.at_).acks else s.hub.acks) = true → here → met.seenAck m.at_ m.die =
        if seen = m.reqinc ∧ newer m.ackw (s.seenAck m.at_ m.die) = false then s.seenAck m.at_ m.die else m.ackw))) ∧
  ∀ (die reqid : Nat) (rsn : BitVec 32) (s : State), ∃ t, exec (.receiptRetire die reqid rsn) s = .next t ∧ t = { s with receipts := t.receipts } ∧
    let a := s.seenAck die reqid - rsn
    ∀ x, x ∈ t.receipts ↔ x ∈ s.receipts ∧ ¬(x.owner = die ∧ x.reqid = reqid ∧ x.rsn = rsn ∧ x.done ≠ none ∧ 1 ≤ a.toNat ∧ a.toNat < 2 ^ 31 ∧ x.at_ + 1256000 ≤ s.ownerTime die)

/-- NUMBERED_REPLY, ROU_RETRANSMIT, ROU_GIVE_UP, HOST_ATOMIC and HOST_CAS_COMPLETION (R157 to R161, R277, R376): a RESULT completes the operation, HELD and BUSY leave it in flight, and every other
reply marks what it would have written with the REMOTE cause; copies are sent at 4, 12, 28, 60, 124 and 252 µs, and with no final reply after 256 µs, or 512 µs at a peer, the operation is
INDETERMINATE, or NOTEXEC when the last copy was refused; a port performs FetchAdd, Swap and CAS as one AtomicOp, and the others by CAS until one succeeds or 4,096 have failed. That a lane which
holds a REMOTE cause keeps it for a second failure (log 104), the result W = 0 of a host atomic (log 37)
and the free value of a word that a port reads from the host (log 28) are the model's choices. -/
def Obligations.RemoteOperations : Prop :=
  (∀ (id : Nat) (n : Rop) (s : State), s.rop id = some n →
    let failed (t : State) (cause : Nat) : Prop := t.mem = s.mem ∧ t.rops = s.rops.filter (fun x => x.id != id) ∧
      (∀ r, n.what = .atom r → (∀ q ∈ t.reqs, q.id ≠ r.id) ∧ ∀ g, s.only g → g.uid = r.gid → r.lane < g.lanes.length → ∃ y ∈ t.allGroups, y.uid = g.uid ∧
        let z := y.lanes.getD r.lane default
        let x := g.lanes.getD r.lane default
        let own : Marked := { reg := r.dst, n := r.ext.words_, addr := r.va, rsn := n.rsn, rcause := cause, pc := r.pc }
        z.v = x.v ∧ z.pc = x.pc ∧ z.pend = x.pend.filter (fun p => p.src != r.id) ∧
          (s.away r.gid = false → (x.remote = none → z.marked = x.marked ++ [own]) ∧ (∀ k, x.remote = some k → z.marked = x.marked ++ [{ k with reg := own.reg, n := own.n }])) ∧
          (s.away r.gid = true → z.marked = x.marked ∧ ((∀ k ∈ g.held, k.kind ≠ 4 ∨ k.lane ≠ r.lane) → ∃ h, y.held = g.held ++ [h] ∧ h.kind = 4 ∧ h.lane = r.lane ∧ h.mark = some own))) ∧
      (∀ c, n.what = .append c → ∀ k ∈ t.calls, k.id ≠ c.id) ∧
      (∀ r, n.what = .flush r → (∀ q ∈ t.reqs, q.id ≠ r.id) ∧ t.poison = addPoison s.poison (128 * lineOf r.addr) 128) ∧
      (∀ l g, n.what = .launch l → s.grids.find? (fun g => g.lid == l) = some g → g.by_ ≠ 0 → s.away g.by_ = false → ∀ x, s.only x → x.uid = g.by_ → ∃ y ∈ t.allGroups, y.uid = x.uid ∧
        (∀ k ∈ x.markedS, k.reg ≠ 0x600 + g.sd) → ∃ m, y.markedS = x.markedS ++ [m] ∧ m.reg = 0x600 + g.sd ∧ m.rsn = n.rsn ∧ m.rcause = cause ∧ m.pc = g.pc)
    let now := s.gtime n.die
    let late := n.start + (match n.what with | .atom r => if isPeer r.addr then 512000 else 256000 | _ => 256000) ≤ now
    (n.replies = [] → exec (.numberedReply id) s = .next s) ∧
    (∀ c v w more, n.replies = (c, .result v w) :: more →
      let rest := s.rops.filter (fun x => x.id != id)
      (∀ r, n.what = .atom r → exec (.numberedReply id) s = .next { s with rops := rest, reqs := updBy (fun q => q.id == r.id) (fun q => { q with stage := .served, val := v, w := w }) s.reqs }) ∧
      (∀ c, n.what = .append c → exec (.numberedReply id) s = .next
        { s with rops := rest, calls := updBy (fun k => k.id == c.id) (fun k => { k with stage := .numbered v.toNat }) s.calls }) ∧
      (∀ r, n.what = .flush r → ∃ t, exec (.numberedReply id) s = .next t ∧ t.mem = s.mem ∧ t.rops = rest ∧ t.reqs = s.reqs.filter (fun q => q.id != r.id) ∧ (t.core r.core).maxW = max (s.core r.core).maxW w) ∧
      (∀ l g, n.what = .launch l → s.grids.find? (fun g => g.lid == l) = some g → ∃ t, exec (.numberedReply id) s = .next t ∧ t.mem = s.mem ∧ t.rops = rest ∧
        (∃ g' ∈ t.grids, g'.lid = l ∧ g'.owed = g.owed.filter (fun d => d != n.dst)) ∧
        ((∀ d ∈ g.owed, d = n.dst) → g.by_ ≠ 0 → s.away g.by_ = false → ∀ x, s.only x → x.uid = g.by_ → ∃ y ∈ t.allGroups, y.uid = x.uid ∧ y.s = sput 0 x.s g.sd 0 ∧
          y.pendS = x.pendS.filter (fun p => p.2 != l)))) ∧
    (∀ c more, n.replies = (c, .held) :: more → exec (.numberedReply id) s = .next (s.onRop id (fun r => { r with replies := more, isHeld := true }))) ∧
    (∀ c more, n.replies = (c, .busy) :: more → exec (.numberedReply id) s = .next (s.onRop id (fun r => { r with replies := more, lastBusy := r.lastBusy || c == r.copies }))) ∧
    (∀ k ∈ ([(.stale, 2), (.noAtomic, 4), (.contention, 5)] : List (Reply × Nat)), ∀ c more, n.replies = (c, k.1) :: more → ∃ t, exec (.numberedReply id) s = .next t ∧ failed t k.2) ∧
    (let sent : Rop := { n with copies := n.copies + 1, sentAt := now, lastBusy := false }
     let again := ∃ t, exec (.rouRetransmit id) s = .next t ∧ t.mem = s.mem ∧ t.rops = updBy (fun r => r.id == id) (fun _ => sent) s.rops ∧
       if s.portLost n = true then t.rmsgs = s.rmsgs
       else ∃ h : Jdp, t.rmsgs = s.rmsgs ++ [{ rop := id, copy := n.copies + 1, at_ := n.dst, hdr := h, what := n.what }] ∧ h.rsn = n.rsn ∧ h.reqinc = n.reqinc ∧ h.owninc = n.owninc ∧
         h.ackw = (s.onRop id (fun _ => sent)).ackw n.die ∧ h.src.toNat = n.die % 2 ^ 6 ∧ h.dst.toNat = n.dst % 2 ^ 6 ∧ h.reqid.toNat = n.die % 2 ^ 8 ∧ h.rqtag.toNat = n.rqtag % 2 ^ 16
     (s.ropInScb n.what = true → exec (.rouRetransmit id) s = .next s) ∧
     (s.ropInScb n.what = false → n.isHeld = true → n.sentAt + 4000 ≤ now → again) ∧
     (n.isHeld = true → now < n.sentAt + 4000 → exec (.rouRetransmit id) s = .next s) ∧
     (∀ k, n.isHeld = false → n.copies = k + 1 → (k < 6 → n.start + 4000 * (2 ^ (k + 1) - 1) ≤ now → s.ropInScb n.what = false → again) ∧
       (6 ≤ k ∨ now < n.start + 4000 * (2 ^ (k + 1) - 1) → exec (.rouRetransmit id) s = .next s))) ∧
    (n.isHeld = true ∨ ¬late ∨ s.ropInScb n.what = true → exec (.rouGiveUp id) s = .next s) ∧
    (n.isHeld = false → late → s.ropInScb n.what = false → ∃ t, exec (.rouGiveUp id) s = .next t ∧ t.rmsgs = s.rmsgs ∧ failed t (if n.lastBusy then 3 else 1))) ∧
  (∀ (id : Nat) (x : Receipt) (r : Req) (s : State), s.portOp id = some (x, r) →
    let v := s.hostValue r.n
    let pasid := s.pasidOf r.asid
    let ask : Out := .hostRead pasid r.addr r.n
    let out (op : Access) (cmp new : QWord) : Out := .hostAtomic (x.owner - 16) id pasid r.addr r.n op cmp new
    let port (f : Receipt → Receipt) : State := { s with receipts := updBy (fun y => y.owner == x.owner && y.reqid == x.reqid && y.rsn == x.rsn) f s.receipts }
    let again (asks : List Out) (seen : Nat) (free : Nat) : State :=
      { port (fun y => { y with casTries := y.casTries + 1, casSeen := BitVec.ofNat 128 seen }) with
        out := s.out ++ asks ++ [out .cas (BitVec.ofNat 128 seen) (BitVec.ofNat 128 (r.newVal seen))], free := free }
    let ended (t : State) (y : Reply) : Prop := t.mem = s.mem ∧ t.receipts = (port (fun z => { z with done := some y })).receipts ∧
      t.rops = updBy (fun n => n.id == id) (fun n => { n with replies := n.replies ++ [(x.copy, y)] }) s.rops
    (s.portTurn r = false → exec (.hostAtomic id) s = .next s ∧ ∀ ok no seen, exec (.hostCasCompletion id ok no seen) s = .next s) ∧
    (s.portTurn r = true → x.casTries = 0 →
      (r.lock = true → isPeer r.addr = false → ∃ t, exec (.hostAtomic id) s = .next t ∧ t.free = s.free + 1 ∧
        t.out = s.out ++ [ask, .hostWrite pasid r.addr (BitVec.ofNat 128 (r.newVal v)) (fullMask r.n)] ∧ ended t (.result (BitVec.ofNat 128 v) 0)) ∧
      (r.lock = false → r.acc.single = true → exec (.hostAtomic id) s = .next { port (fun y => { y with casTries := 1 }) with out := s.out ++ [out r.acc r.cmp r.data] }) ∧
      (r.lock = false → r.acc.single = false → exec (.hostAtomic id) s = .next (again [ask] v (s.free + 1)))) ∧
    (s.portTurn r = true → x.casTries ≠ 0 → ∀ (ok : Bool) (seen : BitVec 128),
      let ends (no : Bool) (y : Reply) : Prop := ∃ t, exec (.hostCasCompletion id ok no seen) s = .next t ∧ ended t y
      ends true .noAtomic ∧
      (r.acc.single = true → ends false (.result (seen &&& fullMask r.n) 0)) ∧
      (r.acc.single = false → ok = true → ends false (.result x.casSeen 0)) ∧
      (r.acc.single = false → ok = false → 4096 ≤ x.casTries → ends false .contention) ∧
      (r.acc.single = false → ok = false → x.casTries < 4096 →
        exec (.hostCasCompletion id ok false seen) s = .next (again [] (seen &&& fullMask r.n).toNat s.free)))) ∧
  ∀ (id : Nat) (c : Call) (s : State), s.rop id = none → s.call id = some c → c.stage = .asked → s.appendRop id = none →
    (∀ t, ([4000, 12000, 28000, 60000, 124000, 252000] : List Nat)[c.tries]? = some t → c.at_ + t ≤ s.gtime c.die →
      exec (.rouRetransmit id) s = .next { s with calls := updBy (fun x => x.id == id) (fun x => { x with tries := x.tries + 1 }) s.calls }) ∧
    (c.at_ + 256000 ≤ s.gtime c.die → ∃ t, exec (.rouGiveUp id) s = .next t ∧ t.mem = s.mem ∧ t.calls = s.calls.filter (fun x => x.id != c.id)) ∧
    (s.gtime c.die < c.at_ + 256000 → exec (.rouGiveUp id) s = .next s)

/-! Distributors, the end of work, faults and translations -/

/-- The life of a launch on a die (R343, R345, R346, R348, R349, R351, R352): a distributor with a free slot queues a launch that reached it and answers; a predecessor observed true is latched, and one
that cannot be read fails the grid; an exited team first drains its core, then retires with the largest W; when every die has reported and GTIME has reached that W, STATE 1 and the completion record
are written, and the interrupt is sent, or kept while masked. That the largest W of a
grid takes that of its cores is the model's choice (log 84). -/
def Obligations.LifeOfALaunch : Prop :=
  (∀ (die l : Nat) (s : State),
    let g := s.grid l
    let r := g.record
    let n := (dieList r).length
    let c := recTeams r / (4 * recQuads r)
    let k := ((dieList r).takeWhile (fun d => d != die)).length
    let waits := g.lid ≠ l ∨ die ∉ g.arrived ∨ 64 ≤ (s.lslots.filter (fun x => x.die == die)).length ∨ (s.die die).state ≠ 1
    (waits → exec (.launchReceive die l) s = .next s) ∧
    (¬waits → ∃ t g', exec (.launchReceive die l) s = .next t ∧ t.mem = s.mem ∧ g' ∈ t.grids ∧ g'.lid = l ∧ g'.arrived = g.arrived.filter (fun d => d != die) ∧
      (∀ x, s.receipts.find? (fun x => x.owner == die && x.what == .launch l && x.done.isNone) = some x →
        t.receipts = updBy (fun y => y.owner == x.owner && y.reqid == x.reqid && y.rsn == x.rsn) (fun y => { y with done := some (.result 0 0) }) s.receipts ∧
        t.rops = updBy (fun q => q.id == x.rop) (fun q => { q with replies := q.replies ++ [(x.copy, .result 0 0)] }) s.rops) ∧
      (s.receipts.find? (fun x => x.owner == die && x.what == .launch l && x.done.isNone) = none → g'.owed = g.owed.filter (fun d => d != die)) ∧
      (g.state = 2 → t.lslots = s.lslots ∧ g'.queued = g.queued) ∧
      (g.state ≠ 2 → g'.queued = g.queued ++ [die] ∧ (k * c / n = (k + 1) * c / n → g'.reported = g.reported ++ [die]) ∧
        (k * c / n ≠ (k + 1) * c / n → die ∉ g.reported → ∃ x ∈ t.lslots, (∀ y ∈ t.lslots, y = x ∨ y ∈ s.lslots) ∧ x.die = die ∧ x.lid = l ∧ x.at_ = s.gtime die ∧ x.first = k * c / n ∧ x.next = k * c / n ∧
          x.last = (k + 1) * c / n ∧ x.preds = (List.range 4).map (fun i => recPva r i == 0))))) ∧
  (∀ (die l i : Nat) (s : State) (x : LSlot), s.lslots.find? (fun x => x.die == die && x.lid == l) = some x →
    let g := s.grid l
    let va := recPva g.record i
    let go := exec (.predecessorObserved die l i) s
    (x.preds.getD i true = true ∨ va = 0 → go = .next s) ∧
    (∀ a b, x.preds.getD i true = false → va ≠ 0 → s.reach (sysWho g.asid die) .load va = .fail a b → ∃ t, go = .next t ∧
      (g ∈ s.grids → g.lid = l → g.state = 0 → (∀ y ∈ s.grids, y.lid = l → y = g) → (∃ g' ∈ t.grids, g'.lid = l ∧ g'.state = 2 ∧ g'.cause = 3) ∧ ∀ y ∈ t.teams, y.lid ≠ l)) ∧
    (∀ e, x.preds.getD i true = false → va ≠ 0 → s.reach (sysWho g.asid die) .load va = .page e → isHost (e.phys va) = false →
      let pa := e.phys va
      let early := lineFree s 0 false pa 4 = false
      (s.homeNow pa < (s.line (lineOf pa)).w → early) ∧ ∀ cc, (∀ p ∈ s.partials, p.line ≠ lineOf pa) → pa % 4 = 0 →
        ([Cond.eq, .ne, .lt, .le, .gt, .ge, .ult, .ule] : List Cond)[recPcmp g.record i]? = some cc →
        let holds := compares cc false (BitVec.ofNat 32 (rdBytes s.mem pa 4)) (recPval g.record i)
        (early ∨ holds = false → go = .next s) ∧
        (¬early → holds = true → go = .next (s.onSlot die l (fun y => { y with preds := y.preds.set i true }))))) ∧
  (∀ (team : Nat) (s : State) (tm : Team), s.teams.find? (fun t => t.uid == team) = some tm →
    let core := 128 * tm.die + tm.core
    let go := exec (.teamRetire team) s
    (tm.retired = true ∨ tm.exited = false ∨ s.finished team = false → go = .next s) ∧
    (tm.retired = false → tm.exited = true → s.finished team = true → (∀ g ∈ s.groupsOf team, g.withdrawn = []) →
      (tm.owed = none → ∃ t x ids, go = .next t ∧ t.mem = s.mem ∧ (t.core core).dirty = [] ∧ (∀ p ∈ t.partials, p.core ≠ core) ∧ x ∈ t.teams ∧ x.uid = team ∧ x.owed = some ids ∧
        ∀ r ∈ t.reqs, r.isBuf = false → r.core = core → r.acc.writes = true → r.id ∈ ids) ∧
      (∀ ids, tm.owed = some ids → (∃ r ∈ s.reqs, r.id ∈ ids) → go = .next s) ∧
      (∀ ids, tm.owed = some ids → (∀ r ∈ s.reqs, r.id ∉ ids) → ∃ t, go = .next t ∧ t.mem = s.mem ∧
        (∀ g ∈ t.allGroups, g.team = team → g.method = none → g.uid = 0) ∧
        (∀ g ∈ s.grids, g.lid = tm.lid → (∀ y ∈ s.grids, y.lid = tm.lid → y = g) → ∃ g' ∈ t.grids, g'.lid = g.lid ∧ g'.teamsDone = g.teamsDone + 1 ∧
          (s.core core).maxW ≤ g'.maxW ∧ g.maxW ≤ g'.maxW ∧ ∀ y ∈ s.allGroups, y.team = team → y.method = none → y.uid ≠ 0 → y.wct ≤ g'.maxW) ∧
        let lone := (∀ y ∈ s.teams, y.cluster = tm.cluster → y.uid ≠ team → y.retired = true) ∧ ∀ p ∈ s.parked, p.team.cluster ≠ tm.cluster
        (¬lone → (∃ y ∈ t.teams, y.uid = team ∧ y.retired = true) ∧ t.clusters = s.clusters) ∧
        (lone → (∀ y ∈ t.teams, y.cluster ≠ tm.cluster) ∧ ∀ y ∈ t.clusters, y.uid ≠ tm.cluster)))) ∧
  (∀ (l : Nat) (s : State),
    let g := s.grid l
    let va := recCompva g.record
    let who := sysWho g.asid g.lead
    let ended := g.lid = l ∧ g.recOwed = false ∧ g.state = 0 ∧ (∀ d ∈ dieList g.record, d ∈ g.reported) ∧ g.maxW ≤ s.gtime g.lead
    let words (st : Nat) : List (Nat × Nat) := [(8, g.faultrec.toNat), (16, s.gtime g.lead), (24, g.teamsDone % 2 ^ 33), (32, 0), (40, 0), (48, 0), (56, 0),
      (0, st + g.cause % 256 * 2 ^ 8 + g.rqtag * 2 ^ 16 + g.unit.toNat * 2 ^ 32)]
    let done (t : State) : Prop := (∃ g' ∈ t.grids, g'.lid = l ∧ g'.recOwed = false ∧ g'.msix = recIrq g.record ∧ (ended → g'.state = 1)) ∧ ∀ x ∈ t.lslots, x.lid ≠ l
    (¬ended → g.lid ≠ l ∨ g.recOwed = false → exec (.completionRecordWrite l) s = .next s) ∧
    (ended ∨ (g.lid = l ∧ g.recOwed = true) → g ∈ s.grids → ∃ t, exec (.completionRecordWrite l) s = .next t ∧
      (va = 0 → t.mem = s.mem ∧ done t) ∧
      (∀ e, va ≠ 0 → s.reach who .store va = .page e → t.mem = (s.sysPuts who 0 va (words (if g.recOwed then g.state % 256 else 1))).mem ∧ done t) ∧
      (va ≠ 0 → s.reach who .store va = .awaited → t.mem = s.mem ∧ ∃ g' ∈ t.grids, g'.lid = l ∧ g'.recOwed = true ∧ g'.msix = g.msix)) ∧
    (g.lid ≠ l ∨ g.msix = false → exec (.msixSend l) s = .next s) ∧
    (g.lid = l → g.msix = true →
      let v := g.rqtag % s.hub.vectors
      let sent := s.onGrid l (fun x => { x with msix := false })
      (s.hub.msixOn = false ∨ s.hub.vectors = 0 → exec (.msixSend l) s = .next sent) ∧
      (s.hub.msixOn = true → s.hub.vectors ≠ 0 →
        (s.hub.isMasked v = false → exec (.msixSend l) s = .next { sent with out := s.out ++ [.msix v] }) ∧
        (s.hub.isMasked v = true → ∃ t, exec (.msixSend l) s = .next t ∧ t.out = s.out ∧ t.grids = sent.grids ∧ ∀ x, x ∈ t.hub.pendingV ↔ x = v ∨ x ∈ s.hub.pendingV)))) ∧
  ∀ (v : Nat) (s : State), ∃ t, exec (.msixUnmask v) s = .next t ∧ t.grids = s.grids ∧ t.hub = { (s.hub.setMask v false) with pendingV := t.hub.pendingV } ∧
    let goes := v ∈ s.hub.pendingV ∧ s.hub.msixOn = true ∧ s.hub.vectors ≠ 0
    (goes → t.out = s.out ++ [.msix v] ∧ t.hub.pendingV = s.hub.pendingV.filter (fun x => x != v)) ∧ (¬goes → t.out = s.out ∧ t.hub.pendingV = s.hub.pendingV)

/-- PLACE_CLUSTER, MONITOR_TEAM_PARK and MONITOR_TEAM_RESTORE (R9, R11, R26, R299, R346, R347, R349, R350): a die that is not live places nothing; the first eligible launch places its next cluster on the
first line of quads that can take it, its teams at the next points of the curve with fresh lanes at the kernel's entry; where nothing fits the fewest clusters of lower priority are pre-empted;
a cluster whose live lanes all wait at monitors may be parked for a waiting launch and comes back when one of its monitors holds. -/
def Obligations.Placement : Prop :=
  (∀ (die : Nat) (s : State), ((s.die die).state ≠ 1 → exec (.placeCluster die) s = .next s) ∧
    ((s.die die).state = 1 → s.parked = [] →
      (s.eligible die = [] → exec (.placeCluster die) s = .next s) ∧
      (∀ l rest, s.eligible die = l :: rest →
        let g := s.grid l.lid
        let r := g.record
        let n := 4 * recQuads r
        (∀ q kd pts es, l.next < l.last → s.lineExists g die = true → l.die = die → s.findLine g die l.scan none = some q → s.clusterPoints l g = some (.ok (pts, es)) →
          s.launchInputs l g (lineCores q.2) = .ok kd → ∃ t c ts gs, exec (.placeCluster die) s = .next t ∧ t.mem = s.mem ∧
            t.clusters.map (fun x => (x.uid, x.lid, x.die, x.index, x.quads)) = s.clusters.map (fun x => (x.uid, x.lid, x.die, x.index, x.quads)) ++ [(c, l.lid, die, l.next, q.2)] ∧
            t.teams = s.teams ++ ts ∧ t.groups = s.groups ++ gs ∧
            ts.map (fun x => (x.clrank, x.core, x.teamlin, x.tx, x.ty, x.tz)) =
              ((List.range n).zip pts).map (fun p => (p.1, (lineCores q.2).getD p.1 0, n * l.next + p.1, p.2.1, p.2.2.1, p.2.2.2)) ∧
            (∀ x ∈ ts, x.lid = g.lid ∧ x.die = die ∧ x.cluster = c ∧ x.clsize = n ∧ x.exited = false ∧ x.retired = false ∧ x.abuf = [] ∧ x.wbuf = [] ∧ x.cbuf = [] ∧
              x.bars = (List.range (recNbar r)).map (declaredBar kd)) ∧
            (∀ x ∈ gs, x.lanes = List.replicate 64 (Lane.start (r.extractLsb' 0 64)) ∧ x.vcount = recVcount r ∧ (∃ y ∈ ts, y.uid = x.team) ∧ x.preempt = false) ∧
            ∃ y ∈ t.lslots, y.die = die ∧ y.lid = l.lid ∧ y.next = l.next + 1 ∧ y.scan = q.1 + 1) ∧
        (rest = [] → l.die = die → s.placeNext l = none → (∀ x ∈ s.lslots, x.die = die → x.claim = []) → l ∈ s.lslots →
          (∀ x ∈ s.teams, x.die = die → x.retired = false → x.cluster ∉ (s.die die).victims) →
          (∀ x ∈ s.teams, x.retired = false → ∃ y ∈ s.groupsOf x.uid, ∃ z ∈ y.lanes, z.st ≠ .exited) →
          (l.last ≤ l.next ∨ s.removals l = [] → exec (.placeCluster die) s = .next s) ∧
          (l.next < l.last → s.removals l ≠ [] → ∃ v ∈ s.removals l, (∀ u ∈ s.removals l, v.victims.length ≤ u.victims.length) ∧ ∃ t, exec (.placeCluster die) s = .next t ∧
            t.mem = s.mem ∧ t.teams = s.teams ∧ (∃ y ∈ t.lslots, y.die = die ∧ y.lid = l.lid ∧ y.claim = v.cores) ∧
            let hit (x : Group) : Bool := x.uid != 0 && x.method.isNone && !x.isParked && x.lanes.any (fun y => y.st != .exited) && !(x.lanes.any (fun y => y.routine == some .save)) &&
              s.teams.any (fun t => t.uid == x.team && v.victims.any (fun c => c.uid == t.cluster))
            t.allGroups = s.allGroups.map (fun x => if hit x then { x with preempt := true } else x)))))) ∧
  ∀ (team : Nat) (s : State),
    (let tm := s.team team
     let wanted := ∃ l ∈ s.lslots, l.die = tm.die ∧ (∀ p ∈ l.preds, p = true) ∧ (s.grid l.lid).state ≠ 2 ∧ s.wantsPlace l = true
     let idle := ∀ x ∈ s.teams, x.cluster = tm.cluster → x.retired = true ∨ s.allMonitor x.uid = true
     let hit (x : Group) : Bool := x.uid != 0 && x.method.isNone && !x.isParked && x.lanes.any (fun y => y.st != .exited) && !(x.lanes.any (fun y => y.routine == some .save)) && s.teams.any (fun t => t.uid == x.team && t.cluster == tm.cluster)
     (tm.uid = team → wanted → idle → ∃ t, exec (.monitorTeamPark team) s = .next t ∧ t = { s with grp := t.grp, groups := t.groups } ∧
       t.allGroups = s.allGroups.map (fun x => if hit x then { x with preempt := true } else x)) ∧
     (tm.uid ≠ team ∨ ¬wanted ∨ ¬idle → exec (.monitorTeamPark team) s = .next s)) ∧
    (∀ p, s.parked.find? (fun p => p.team.uid == team) = some p → (∀ m ∈ p.monitors, isHost m.addr = false) →
      ((∃ m ∈ p.monitors, ∃ w, s.monitorWord m = some w ∧ m.holdsAt w.1 = true) → exec (.monitorTeamRestore team) s = .next
        { s with parked := updBy (fun q => q.team.cluster == p.team.cluster) (fun q => { q with woken := true }) s.parked }) ∧
      ((∀ m ∈ p.monitors, ∀ w, s.monitorWord m = some w → m.holdsAt w.1 = false) → exec (.monitorTeamRestore team) s = .next s))

/-- Faults and translations (R142, R155, R339, R340, R353, R361, R362, R364 to R366): a fault that no translation can resolve fails its grid, or the object of its method; a replayable one is passed on with its
record, is resolved when its translation is present, and fails after 1 s or when the host refuses it; a walk of the tables, or the host's answer to a request that was sent, fills the bench's TLB and its
quad's; an invalidation waits until no access of
the context is in flight; a context ends with its records, objects, translations and code lines; a fill puts its line into the instruction cache. -/
def Obligations.FaultsAndTranslations : Prop :=
  (∀ (f : Nat) (x : PFault) (s : State), s.fault f = some x →
    let fails (o : Out3) : Prop := ∃ t, o = .next t ∧ ∀ g, s.group x.gid = some g →
      (g.method = none → ∀ y ∈ s.grids, y.lid = (s.team g.team).lid → y.state = 0 → (∀ z ∈ s.grids, z.lid = y.lid → z = y) →
        (∃ y' ∈ t.grids, y'.lid = y.lid ∧ y'.state = 2 ∧ y'.cause = 1) ∧ t.teams = s.teams.filter (fun z => z.lid != y.lid)) ∧
      (∀ m, g.method = some m → (∀ o ∈ t.objs, o.id = m.obj → o.failed = true) ∧ (∀ c ∈ t.calls, c.obj ≠ m.obj) ∧ ∀ p ∈ t.faults, p.id ≠ f)
    let goesOn (o : Out3) : Prop := ∃ t, o = .next t ∧ (∀ p ∈ t.faults, p.id ≠ f) ∧
      (x.walk ≠ 0 → ∀ c, s.copyCmd x.walk = some c → ∃ c' ∈ t.copyq, c'.id = c.id ∧ c'.at_ = c.at_ ∧ c'.stage = c.stage ∧ c'.faulted = false) ∧
      (x.walk = 0 → ∀ g, s.only g → g.uid = x.gid → ∃ y ∈ t.allGroups, y.uid = g.uid ∧ ∀ l, l < g.lanes.length →
        let u := g.lanes.getD l default
        y.lanes.getD l default = if x.lanes.getLsbD l = true ∧ u.st = .faulted then u.wake s.cycle u.pc else u)
    let late := x.time + 1000000000 ≤ s.gtime (bitsOf x.unit 24 4)
    let slot := s.slotAwaited x = true
    (slot → exec (.gridFail f) s = .next s ∧ exec (.faultResolved f) s = .next s ∧ exec (.replayTimeout f) s = .next s ∧ ∀ ok, exec (.priPageResponse f ok) s = .next s) ∧
    (x.replay = false → exec (.faultResolved f) s = .next s ∧ exec (.replayTimeout f) s = .next s ∧ (∀ ok, exec (.priPageResponse f ok) s = .next s) ∧
      (x.cause = .poison ∨ x.cause = .assay → exec (.gridFail f) s = .next s) ∧ (¬slot → x.cause ≠ .poison → x.cause ≠ .assay → fails (exec (.gridFail f) s))) ∧
    (x.replay = true → ¬slot →
      (x.written = false → s.hostMode = true → ∃ l, (s.passFault f).out = s.out ++ l ++ [.page (s.pasidOf x.asid) x.addr (x.access == 3 || x.access == 4)]) ∧
      (s.present x = false → (x.written = false → exec (.gridFail f) s = .next (s.passFault f)) ∧ (x.written = true → fails (exec (.gridFail f) s)) ∧
        exec (.faultResolved f) s = .next (s.passFault f) ∧ (late → fails (exec (.replayTimeout f) s))) ∧
      (s.present x = true → goesOn (exec (.gridFail f) s) ∧ goesOn (exec (.faultResolved f) s) ∧ (late → goesOn (exec (.replayTimeout f) s))) ∧
      (¬late → exec (.replayTimeout f) s = .next s) ∧
      (s.hostMode = false ∨ x.written = false → ∀ ok, exec (.priPageResponse f ok) s = .next s) ∧
      (s.hostMode = true → x.written = true → goesOn (exec (.priPageResponse f true) s) ∧ fails (exec (.priPageResponse f false) s)))) ∧
  (∀ (bench asid : Nat) (va : BitVec 64) (s : State),
    let w : Who := { asid := asid, bench := bench, die := bench / 256, user := false }
    let found := walkFrom s w va.toNat (s.ctx asid).ptroot [0, 1, 2, 3]
    let key := (asid, va.toNat / 65536)
    (2 ^ 52 ≤ va.toNat → exec (.tableWalk bench asid va) s = .next s) ∧
    (s.hostMode = true → va.toNat < 2 ^ 52 →
      (s.translate w va.toNat ≠ .awaited ∨ key ∈ s.asked → exec (.tableWalk bench asid va) s = .next s) ∧
      (s.translate w va.toNat = .awaited → key ∉ s.asked → exec (.tableWalk bench asid va) s = .next
        { s with asked := s.asked ++ [key], out := s.out ++ [.translation (s.pasidOf asid) va] })) ∧
    (s.hostMode = false → va.toNat < 2 ^ 52 → s.pwc = [] → bench < 4096 →
      (∀ e, found = .page e → ∃ t, exec (.tableWalk bench asid va) s = .next t ∧ t.mem = s.mem ∧ e ∈ t.tlbs ∧ { e with unit := 4096 + bench / 8 } ∈ t.tlbs ∧
        ∀ x ∈ t.tlbs, x ∈ s.tlbs ∨ x = e ∨ x = { e with unit := 4096 + bench / 8 }) ∧
      ((∀ e, found ≠ .page e) → exec (.tableWalk bench asid va) s = .next s)) ∧
    (∀ (pa : BitVec 64) (lg : Nat) (r w x : Bool),
      let go := exec (.atsTranslationResponse bench asid va pa lg r w x) s
      let formed := 16 ≤ lg ∧ lg ≤ 52 ∧ pa.toNat % 2 ^ lg = 0 ∧ (r = true ∨ w = true ∨ x = true)
      let good := formed ∧ frameOk (pa.toNat % 2 ^ 52) lg = true
      (s.hostMode = false ∨ key ∉ s.asked → go = .next s) ∧
      (s.hostMode = true → key ∈ s.asked → ¬good → s.pfiAsks bench asid va = true → ∃ t, go = .next t ∧ t.mem = s.mem ∧ t.tlbs = s.tlbs ∧ key ∉ t.asked) ∧
      (s.hostMode = true → key ∈ s.asked → bench < 4096 → good ∨ s.pfiAsks bench asid va = false → ∃ t e, go = .next t ∧ t.mem = s.mem ∧ key ∉ t.asked ∧ e ∈ t.tlbs ∧ { e with unit := 4096 + bench / 8 } ∈ t.tlbs ∧ e.unit = bench ∧ e.asid = asid ∧
        e.cls = (s.ctx asid).desc.extractLsb' 96 4 ∧ e.fattr = (s.ctx asid).desc.extractLsb' 100 6 ∧ (¬good → e.szlg = 0 ∧ e.pa = if formed then 3 else 5) ∧
        (good → e.szlg = lg ∧ e.va = va.toNat / 2 ^ lg * 2 ^ lg ∧ e.pa = pa.toNat % 2 ^ 52 ∧ e.r = r ∧ e.w = w ∧ e.x = x))) ∧
    (∀ lg : Nat,
      let go := exec (.atsInvalidate asid va lg) s
      let busy (n : Nat) := ∃ r ∈ s.translated, r.born ≤ n ∧ r.asid = asid
      (s.hostMode = false → go = .next s) ∧
      (∀ w, s.hostMode = true → s.waiters.find? (fun w => w.kind == .ats asid va lg) = some w → (busy w.id → go = .next s) ∧
        (¬busy w.id → go = .next { s with waiters := s.waiters.filter (fun x => x.id != w.id), out := s.out ++ [.invalidated asid va] })) ∧
      (s.hostMode = true → (∀ w ∈ s.waiters, w.kind ≠ .ats asid va lg) → ∃ t, go = .next t ∧ t.mem = s.mem ∧ (∀ e ∈ t.pwc, e.2.1 ≠ asid) ∧
        (busy s.nextId → t.out = s.out ∧ ∃ w ∈ t.waiters, w.kind = .ats asid va lg ∧ w.id = s.nextId) ∧
        (¬busy s.nextId → t.out = s.out ++ [.invalidated asid va] ∧ t.waiters = s.waiters) ∧
        ∀ e, e ∈ t.tlbs ↔ e ∈ s.tlbs ∧ (e.asid = asid → let k := if e.szlg = 0 then 16 else e.szlg
          e.va / 2 ^ k * 2 ^ k + 2 ^ k ≤ va.toNat / 2 ^ lg * 2 ^ lg ∨ va.toNat / 2 ^ lg * 2 ^ lg + 2 ^ lg ≤ e.va / 2 ^ k * 2 ^ k)))) ∧
  (∀ (asid : Nat) (s : State),
    let busy := (∃ g ∈ s.grids, g.asid = asid ∧ (g.state = 0 ∨ g.recOwed = true)) ∨ ∃ o ∈ s.objs, o.asid = asid ∧ s.logAwaited o = true
    (busy → exec (.contextEnd asid) s = .next s) ∧
    (¬busy → ∃ t, exec (.contextEnd asid) s = .next t ∧ t.frecs = s.frecs.filter (fun q => q.asid != asid) ∧ t.inserts = s.inserts.filter (fun i => i.asid != asid) ∧
      t.lookups = s.lookups.filter (fun l => l.asid != asid) ∧ (∀ p ∈ t.fcnt, p.1.2.1 ≠ asid) ∧
      (∀ o ∈ t.objs, o.asid ≠ asid) ∧ t.tlbs = s.tlbs.filter (fun e => e.asid != asid) ∧ t.pwc = s.pwc.filter (fun e => e.2.1 != asid) ∧
      t.ctxs = s.ctxs.filter (fun c => c.asid != asid) ∧
      (let other (k : Core) (l : Nat) : Bool := !(k.owners.any (fun p => p.1 == l && p.2 == asid))
       t.cores.map (fun p => (p.1, p.2.icache, p.2.l0a, p.2.l0b)) =
         s.cores.map (fun p => (p.1, p.2.icache.filter (other p.2), p.2.l0a.filter (other p.2), p.2.l0b.filter (other p.2)))) ∧
      ∀ p ∈ t.partials, ∀ c ∈ s.cores, p.core ≠ c.1)) ∧
  ∀ (core line : Nat) (s : State),
    let ready := line ∈ (s.core core).fills ∧ (s.replica (core / 128) line ≠ none ∨ lineFree s core false (128 * line) 1 = true)
    (¬ready → exec (.l1InstructionCacheFill core line) s = .next s) ∧
    (ready → ∃ t, exec (.l1InstructionCacheFill core line) s = .next t ∧ t.mem = s.mem ∧ line ∈ (t.core core).icache ∧
      (t.core core).fills = (s.core core).fills.filter (fun x => x != line) ∧ ∀ x ∈ (t.core core).icache, x = line ∨ x ∈ (s.core core).icache)

/-! Boot, time and the host -/

/-- Boot and the dies (R158, R363, R367 to R370, R372, R373, R393): a module reset keeps fuses, firmware slots, incarnations and quarantine and runs the selected H0 image, or the other slot's when it is
not accepted; the stages bring up, verify and start the dies, publish the discovery structure at the lowest live die and enable the PCIe ports; ports identify each other; dies take H0's time; a die
reset raises the incarnation and loses what the die held; a die without links is absent, and from stage 6 on that changes only STATE, INC and SKEW of the structure. The model's choices: what was running before the first selection (log 5), empty memory and what a module reset keeps beside the
fuses (logs 4, 82), where an image keeps its version and the byte layouts under its digests (logs 23, 43), `CYCLE` zero again at HEADFRAME_INIT (log 137) and the paths of the time messages (log 138). -/
def Obligations.BootAndDies : Prop :=
  let accepted (keys : List (BitVec 256 × Bool)) (ver : BitVec 32) (i : Signed) : Prop := (imageKey i, false) ∈ keys ∧ imageVerifies i = true ∧ ver.toNat ≤ (imageVersion i).toNat
  (∀ (slotB : Bool) (a b : Signed) (s : State),
    let first := s.hub.fwA = none ∧ s.hub.fwB = none
    let fa : Option Signed := if first then some a else if s.hub.update ≠ none ∧ s.hub.runsB = true then none else s.hub.fwA
    let fb : Option Signed := if first then some b else if s.hub.update ≠ none ∧ s.hub.runsB = false then none else s.hub.fwB
    let pick := if first then slotB else s.hub.runsB != s.hub.fresh
    let ok (x : Bool) : Prop := ∃ i, (if x then fb else fa) = some i ∧ accepted s.hub.keys s.hub.secver i
    ∃ t, exec (.moduleReset slotB a b) s = .next t ∧ t.mem = [] ∧ t.groups = [] ∧ t.teams = [] ∧ t.grids = [] ∧ t.cycle = 0 ∧ t.hub.keys = s.hub.keys ∧ t.hub.secver = s.hub.secver ∧
      t.hub.fwA = fa ∧ t.hub.fwB = fb ∧ t.hub.enabled = false ∧ t.mgmt.quarantine = s.mgmt.quarantine ∧
      t.dies.map (fun d => (d.state, d.inc, d.serial, d.keys, d.secver, d.classes)) = s.dies.map (fun d => (0, d.inc, d.serial, d.keys, d.secver, classesReset)) ∧
      (ok pick → t.hub.stage = 1 ∧ t.hub.runsB = pick) ∧ (¬ok pick → ok (!pick) → t.hub.stage = 1 ∧ t.hub.runsB = !pick) ∧ (¬ok pick → ¬ok (!pick) → t.hub.stage = 0)) ∧
  (∀ (mask : BitVec 64) (s : State), (s.hub.stage ≠ 1 → exec (.dieBringup mask) s = .next s) ∧
    (s.hub.stage = 1 → ∃ t, exec (.dieBringup mask) s = .next t ∧ t.mem = s.mem ∧ t.hub.stage = 2 ∧ t.dies.length = s.dies.length ∧
      (∀ n, n = 17 ∨ (32 ≤ n ∧ n < 64) → (t.outerDie n).state = if mask.getLsbD n then 3 else 2) ∧
      ∀ d, d < s.dies.length → t.die d = { s.die d with up := mask.getLsbD d, state := if mask.getLsbD d = true ∧ s.isBad d = false then 3 else 2 })) ∧
  (∀ (die : Nat) (i : Signed) (s : State),
    let go := exec (.dieImageVerify die i) s
    (s.hub.stage < 2 → go = .next s) ∧
    (2 ≤ s.hub.stage → die < 16 →
      let d := s.die die
      let can := d.up = true ∧ d.verified = none ∧ (d.state = 3 ∨ (d.state = 2 ∧ s.isBad die = true))
      (¬can → go = .next s) ∧
      (can → accepted d.keys d.secver i → ∃ t, go = .next t ∧ t.mem = s.mem ∧ t.die die = { d with verified := some i } ∧ (3 + die, imageDigest i) ∈ t.hub.measures) ∧
      (can → ¬accepted d.keys d.secver i → go = .next ((s.onDie die (fun d => { d with up := false, state := 2 })).publish))) ∧
    (2 ≤ s.hub.stage → 16 ≤ die →
      let o := s.outerDie die
      (o.state ≠ 3 → go = .next s) ∧
      (o.state = 3 → accepted o.keys o.secver i → ∃ t, go = .next t ∧ (t.outerDie die).state = 1 ∧ (die = 17 → (20, imageDigest i) ∈ t.hub.measures)) ∧
      (o.state = 3 → ¬accepted o.keys o.secver i → ∃ t, go = .next t ∧ (t.outerDie die).state = 2))) ∧
  (∀ (die : Nat) (ok : Bool) (cs : List (BitVec 64)) (s : State),
    let d := s.die die
    let ready := d.verified ≠ none ∧ (d.state = 2 ∨ d.state = 3) ∧ die < 16
    (¬ready → exec (.headframeInit die ok cs) s = .next s) ∧
    (ready → ok = true → cs.length = 16 → ∃ t, exec (.headframeInit die ok cs) s = .next t ∧ (t.die die).state = 1 ∧ (t.die die).skew = false ∧ (t.die die).inc = d.inc ∧
      (t.die die).cycle0 = s.cycle ∧ (∀ u, u ∈ t.mgmt.quarantine ↔ u ∈ s.mgmt.quarantine ∧ failsDie die u = false) ∧ (t.die die).classes.length = 16 ∧ (t.die die).classes.getD 0 0 = cs.getD 0 0 &&& 0x3FFFFFFFFF ∧
      ∀ i, 0 < i → i < 16 → (t.die die).classes.getD i 0 = cs.getD i 0 &&& 0x3FFFFF) ∧
    (ready → ok = false → ∃ t, exec (.headframeInit die ok cs) s = .next t ∧ (t.die die).state = 2 ∧ (t.die die).links = [] ∧ (t.die die).ready = [])) ∧
  (∀ s : State,
    let ended5 := s.hub.stage = 2 ∧ ∀ x ∈ s.dies, x.state ≠ 3
    let due := ended5 ∧ s.hub.clash = false
    let other := s.hub.accepts (s.hub.image (!s.hub.runsB))
    (¬ended5 → exec .discoveryBuild s = .next s) ∧
    (ended5 → s.hub.clash = true ∨ s.liveDies = [] →
      (s.hub.trial = false ∨ other = false → exec .discoveryBuild s = .next s) ∧
      (s.hub.trial = true → other = true → exec .discoveryBuild s = .next (s.boot { s.hub.kept with runsB := !s.hub.runsB }))) ∧
    (∀ d rest, due → s.liveDies = d :: rest → s.Inv → ∃ t, exec .discoveryBuild s = .next t ∧ t.hub.stage = 5 ∧ t.hub.disc = some d ∧
      (∀ b, b < d * 2 ^ 37 ∨ d * 2 ^ 37 + 2112 ≤ b → rdByte t.mem b = rdByte s.mem b) ∧
      rdBytes t.mem (d * 2 ^ 37) 8 = (1 + (if s.hostMode then 2 ^ 8 else 0) + ((d :: rest).map (fun x => 2 ^ x)).sum * 2 ^ 16 + Config.delta * 2 ^ 32) % 2 ^ 64 ∧
      ∀ n, n < 16 → rdBytes t.mem (d * 2 ^ 37 + 64 + 32 * n) 8 =
        ((s.die n).dtype + (s.die n).state % 4 * 2 ^ 4 + (s.die n).inc.toNat * 2 ^ 6 + (if (s.die n).skew then 2 ^ 22 else 0) + (if (s.die n).state = 0 then 0 else 96000) * 2 ^ 32) % 2 ^ 64 ∧
        rdBytes t.mem (d * 2 ^ 37 + 64 + 32 * n + 8) 8 = (s.die n).serial.toNat) ∧
    (s.hub.stage ≠ 5 → exec .pcieEnable s = .next s) ∧
    (s.hub.stage = 5 → ∃ t, exec .pcieEnable s = .next t ∧ t.mem = s.mem ∧ t.hub.stage = 6 ∧ t.hub.enabled = true) ∧
    (s.refTime < s.hub.timeAt → exec .timeSend s = .next s) ∧
    (s.hub.timeAt ≤ s.refTime → ∃ (t : State) (h : Nat → Jdp), exec .timeSend s = .next t ∧ t.mem = s.mem ∧ t.hub = { s.hub with timeAt := s.refTime + 1000 } ∧
      t.out = s.out ++ s.liveDies.flatMap (fun d => (s.die d).ready.map (fun p => .time d p (h d).word)) ∧
      (∀ d, (h d).src = 16 ∧ (h d).dst = BitVec.ofNat 6 d ∧ (h d).cls = 5 ∧ (h d).stamp = BitVec.ofNat 64 s.refTime) ∧
      ∀ d ∈ s.liveDies, (t.die d).times = (s.die d).times ++ (s.die d).ready.map (fun p => (p, s.refTime)))) ∧
  (∀ (die port : Nat) (s : State), (die < 16 → die < s.dies.length) →
    let serial := if die < 16 then (s.die die).serial else (s.outerDie die).serial
    let due := port ∈ s.readyPorts die ∧ s.partner die port = 0x3F ∧ sget 0 s.hub.identAt (64 * die + port) + 100000 ≤ s.refTime + 1
    (∃ t p, exec (.linkTrained die port) s = .next t ∧ t.mem = s.mem ∧ t.out = s.out ++ [.ident die port p] ∧ port ∈ t.readyPorts die ∧
      bitsOf p 0 4 = (if die < 16 then 0 else 1) ∧ bitsOf p 4 4 = port % 16 ∧ bitsOf p 8 6 = die % 64 ∧ bitsOf p 16 8 = 1 ∧ bitsOf p 24 6 = 0x3F ∧ p.extractLsb' 64 64 = serial) ∧
    (due → ∃ t, exec (.identRepeat die port) s = .next t ∧ t.mem = s.mem ∧ t.out = s.out ++ [.ident die port (s.identOf die port)]) ∧
    (¬due → exec (.identRepeat die port) s = .next s) ∧
    ∀ p : BitVec 128,
      let dt := bitsOf p 0 4
      let strap := bitsOf p 8 6
      let need : BitVec 6 := if dt = 3 then (if strap < 16 then 0x2F else 0x27) else if dt = 4 then 0x27 else 0
      let told := if strap < 16 then (s.die strap).serial else (s.outerDie strap).serial
      (p.extractLsb' 24 6 &&& need ≠ need → ∃ t, exec (.ident die port p) s = .next t ∧ t.mem = s.mem ∧ port ∉ t.readyPorts die) ∧
      (p.extractLsb' 24 6 &&& need = need → ∃ t, exec (.ident die port p) s = .next t ∧ t.mem = s.mem ∧
        (strap ≠ die → swf (0x3F : BitVec 6) (if die < 16 then (s.die die).links else (s.outerDie die).links) = true → t.partner die port = BitVec.ofNat 6 strap) ∧
        (16 ≤ strap → (t.outerDie strap).ident = p) ∧ (strap < 16 → strap ≠ die → strap < s.dies.length → (t.die strap).dtype = dt) ∧
        (t.hub.clash = true ↔ s.hub.clash = true ∨ strap = die ∨ (told ≠ 0 ∧ told ≠ p.extractLsb' 64 64)))) ∧
  (∀ (die : Nat) (e : Int) (s : State), die < s.dies.length →
    ((s.die die).times = [] → exec (.timeMessage die e) s = .next s) ∧
    (∀ x rest, (s.die die).times = x :: rest → ∃ t, exec (.timeMessage die e) s = .next t ∧ t.cycle = s.cycle ∧ (t.die die).gofs = e ∧ (t.die die).times = rest ∧
      ((t.die die).skew = true ↔ (Config.delta : Int) < 2 * e.natAbs) ∧ t.gtime die = ((s.refTime : Int) + e).toNat)) ∧
  ∀ (die : Nat) (s : State),
    (16 ≤ die → exec (.dieReset die) s = .next s) ∧
    (die < 16 → s.dies.length = 16 → (∀ x ∈ s.teams, ∃ g ∈ s.grids, g.lid = x.lid) →
      let d := s.die die
      let stage4 (u : BitVec 32) : Prop := bitsOf u 24 4 = die ∧ (bitsOf u 28 4 = 3 ∨ bitsOf u 28 4 = 4 ∨ bitsOf u 28 4 = 7 ∨ (bitsOf u 28 4 = 5 ∧ bitsOf u 2 22 = 0))
      ∃ t, exec (.dieReset die) s = .next t ∧ (t.die die).inc = (if d.inc = 0xFFFF then 1 else d.inc + 1) ∧ (t.die die).verified = none ∧ (t.die die).classes = classesReset ∧
        ((∃ u ∈ s.mgmt.quarantine, stage4 u) → (t.die die).state = 2) ∧ ((∀ u ∈ s.mgmt.quarantine, ¬stage4 u) → (t.die die).state = 3) ∧
        (∀ x ∈ t.teams, x.die ≠ die) ∧ (∀ r ∈ t.receipts, r.owner ≠ die) ∧ (∀ r ∈ t.rops, r.die ≠ die) ∧ (∀ r ∈ t.frecs, r.die ≠ die) ∧ (∀ l ∈ t.lslots, l.die ≠ die)) ∧
    (16 ≤ die → ∃ t, exec (.linkLoss die) s = .next t ∧ (t.outerDie die).state = 0 ∧ t.readyPorts die = []) ∧
    (die < 16 → die < s.dies.length → ∃ t, exec (.linkLoss die) s = .next t ∧ (t.die die).state = 0 ∧ (t.die die).links = [] ∧ (t.die die).ready = [] ∧
      t.hub = { s.hub with mirror := t.hub.mirror } ∧ (s.hub.disc = none → t.hub = s.hub) ∧
      (s.hub.stage = 6 → s.hub.mirror.length = 264 → ∀ i, i < 264 →
        let old := s.hub.mirror.getD i 0
        let new := t.hub.mirror.getD i 0
        (i < 8 ∨ i % 4 ≠ 0 → new = old) ∧ new.extractLsb' 0 4 = old.extractLsb' 0 4 ∧ new.extractLsb' 23 41 = old.extractLsb' 23 41))

/-- The host and the peers (R158, R371, R376, R377, R379): JDP messages of classes 6 and 7 are dropped and counted; a peer's access is performed once under a receipt; host reads, writes and
AtomicOps reach device memory of live dies at its homes once PCIe is enabled, and anything else is an Unsupported Request; a doorbell launches the slot's record, and stopping it purges its tag;
only CTXDESC and CMDREC take writes; signed measurements are reported. The model's choices: a JDP message of a class below 6 has no effect by itself (log 44), the frames' operation codes and the bytes a
peer's read names (logs 133, 45), a host read or write in one step (log 90), a record that cannot be read is refused (log 46), doorbellStop only at STATUS 1 (log 114), poison that leaves (log 140), the
read-only structure (log 134) and what a measurement signs (log 43). -/
def Obligations.HostAndPeers : Prop :=
  (∀ (h : BitVec 384) (s : State), (bitsOf h 12 3 < 6 → exec (.jdpMessage h) s = .next s) ∧
    (6 ≤ bitsOf h 12 3 → ∃ t, exec (.jdpMessage h) s = .next t ∧ t.mem = s.mem ∧ t.reqs = s.reqs ∧
      (bitsOf h 6 6 < s.dies.length → bitsOf h 6 6 < 16 → (t.die (bitsOf h 6 6)).jdpDrops = (s.die (bitsOf h 6 6)).jdpDrops + 1) ∧
      (16 ≤ bitsOf h 6 6 → t.hub.jdpDrops = s.hub.jdpDrops + 1))) ∧
  (∀ (hub : Nat) (w0 : BitVec 384) (data : List (BitVec 8)) (s : State), s.portHeld hub = false →
    let h := Jdp.ofWord w0
    let pa := h.addr.toNat
    let n := peerBytes h
    let req := 256 + h.reqid.toNat
    let go := exec (.peerFrame hub w0 data) s
    let seen := s.seenInc (16 + hub) req
    let met := s.meet (peerMsg hub h)
    let older := seen ≠ 0 ∧ 1 ≤ (seen - h.reqinc).toNat ∧ (seen - h.reqinc).toNat < 2 ^ 15
    let current := h.cls ≠ 1 ∧ ¬older ∧ h.owninc = 1
    let window := (h.rsn - h.ackw).toNat < 2 ^ 20
    let mine (x : Receipt) : Bool := x.owner == 16 + hub && x.reqid == req && x.rsn == h.rsn
    let entry (y : Reply) : Receipt :=
      { owner := 16 + hub, reqid := req, rsn := h.rsn, reqinc := h.reqinc, rop := 0, copy := 0, what := .peer, done := some y, at_ := s.refTime, place := 0, aside := false,
        casTries := 0, casSeen := 0 }
    let tell (y : Reply) (d : List (BitVec 8)) : Out := .peer hub (peerAnswer h y d.length).word d
    let answers (y : Reply) (d : List (BitVec 8)) : State := { met with out := s.out ++ [tell y d] }
    let room := (met.receipts.filter (fun x => x.owner == 16 + hub)).length < 8192
    let new := current ∧ window ∧ met.receipts.find? mine = none ∧ room
    let ready := ∀ l ∈ spanLines pa n, s.hostReady (128 * l) = true
    let old := rdBytes s.mem pa n
    let calm := (∀ l ∈ spanLines pa n, (s.line l).holders = []) ∧ s.poisonedAt pa n = false ∧ s.Inv ∧ ∀ d, s.hub.disc = some d → pa + n ≤ d * 2 ^ 37 ∨ d * 2 ^ 37 + 2112 ≤ pa
    let toPeer (r : Rop) : Bool := match r.what with | .atom q => isPeer q.addr | _ => false
    (∀ y, h.cls = 1 → replyOf h data = some y → go = .next
      { s with rops := updBy (fun r => r.die == h.reqid.toNat && r.rsn == h.rsn && toPeer r) (fun r => { r with replies := r.replies ++ [(r.answers + 1, y)], answers := r.answers + 1 }) s.rops }) ∧
    (h.cls ≠ 1 → older → go = .next s) ∧
    (h.cls ≠ 1 → ¬older → h.owninc ≠ 1 → go = .next (answers .stale [])) ∧
    (current → ¬window → ∃ t, go = .next t ∧ t.mem = s.mem ∧ t.out = s.out ∧ t.receipts = met.receipts) ∧
    (∀ x v w, current → window → met.receipts.find? mine = some x → x.done = some (.result v w) →
      go = .next (answers (.result v w) (if peerAccess h = .store then [] else bytesOf (min 16 n) v.toNat))) ∧
    (∀ x, current → window → met.receipts.find? mine = some x → x.done = none → go = .next (answers .held [])) ∧
    (current → window → met.receipts.find? mine = none → ¬room → go = .next (answers .busy [])) ∧
    (new → s.hostReach pa n = false → go = .next { met with out := s.out ++ [.unsupported (BitVec.ofNat 64 pa)] }) ∧
    (new → s.hostReach pa n = true → ¬ready → go = .next s) ∧
    (new → s.hostReach pa n = true → ready → calm →
      let y : Reply := .result (BitVec.ofNat 128 old) (s.nextW pa n)
      (peerAccess h = .load →
        go = .next { met with receipts := met.receipts ++ [entry (.result (BitVec.ofNat 128 old) 0)], out := s.out ++ [tell (.result (BitVec.ofNat 128 old) 0) (bytesOf n old)] }) ∧
      (peerAccess h = .store → data.length = n → ∃ t, go = .next t ∧ t.receipts = met.receipts ++ [entry (.result 0 (s.nextW pa n))] ∧
        t.out = s.out ++ [tell (.result 0 (s.nextW pa n)) []] ∧ ∀ b, rdByte t.mem b = if pa ≤ b ∧ b < pa + n then data.getD (b - pa) 0 else rdByte s.mem b) ∧
      (∀ op ty, peerAccess h = .atom op ty → n ≤ 16 → ∃ t, go = .next t ∧ t.receipts = met.receipts ++ [entry y] ∧ t.out = s.out ++ [tell y (bytesOf n old)] ∧
        putBytes s.mem t.mem pa n (BitVec.ofNat 128 (atomApply op ty (8 * n) old (BitVec.ofNat 128 (valueOf (data.take n))).toNat)) (fullMask n)) ∧
      (peerAccess h = .cas → n ≤ 16 → ∃ t, go = .next t ∧ t.receipts = met.receipts ++ [entry y] ∧ t.out = s.out ++ [tell y (bytesOf n old)] ∧
        putBytes s.mem t.mem pa n (BitVec.ofNat 128 (if old = valueOf (data.take n) then valueOf ((data.drop n).take n) else old)) (fullMask n)))) ∧
  (∀ (pa : BitVec 64) (n : Nat) (s : State),
    let a := pa.toNat
    let calm (m : Nat) : Prop := (∀ l ∈ spanLines a m, (s.line l).holders = []) ∧ s.poisonedAt a m = false ∧
      ∀ d, s.hub.disc = some d → a + m ≤ d * 2 ^ 37 ∨ d * 2 ^ 37 + 2112 ≤ a
    (s.hub.enabled = false → exec (.hostBar2Read pa n) s = .next s) ∧
    (s.hub.enabled = true → s.hostReach a n = false → exec (.hostBar2Read pa n) s = .next { s with out := s.out ++ [.unsupported pa] }) ∧
    (s.hub.enabled = true → s.hostReach a n = true → (∃ l ∈ spanLines a n, s.hostReady (128 * l) = false) → exec (.hostBar2Read pa n) s = .next s) ∧
    (s.hub.enabled = true → s.hostReach a n = true → (∀ l ∈ spanLines a n, s.hostReady (128 * l) = true) → calm n →
      exec (.hostBar2Read pa n) s = .next { s with out := s.out ++ [.bar2 pa ((List.range n).map (fun i => rdByte s.mem (a + i)))] }) ∧
    (∀ (hub : Nat) (d : List (BitVec 8)),
      (s.hub.enabled = false ∨ 2 ≤ hub → exec (.hostBar2Write hub pa d) s = .next s) ∧
      (s.hub.enabled = true → hub < 2 → s.hostReach a d.length = false → exec (.hostBar2Write hub pa d) s = .next { s with out := s.out ++ [.unsupported pa] }) ∧
      (s.hub.enabled = true → hub < 2 → s.hostReach a d.length = true → (∀ l ∈ spanLines a d.length, s.hostWritable (128 * l) = true) → calm d.length → s.Inv →
        ∃ t, exec (.hostBar2Write hub pa d) s = .next t ∧ t.grp = s.grp ∧ ∀ b, rdByte t.mem b = if a ≤ b ∧ b < a + d.length then d.getD (b - a) 0 else rdByte s.mem b)) ∧
    ∀ (op : HostOp) (m : Nat) (x cmp : BitVec 128),
      let old := rdBytes s.mem a m
      let go := exec (.hostAtomicop pa op m x cmp) s
      let size := m = 4 ∨ m = 8 ∨ (m = 16 ∧ op = .cas)
      (s.hub.enabled = false → go = .next s) ∧
      (s.hub.enabled = true → s.hostReach a m = false ∨ ¬size → go = .next { s with out := s.out ++ [.unsupported pa] }) ∧
      (s.hub.enabled = true → s.hostReach a m = true → size → s.hostReady a = false → go = .next s) ∧
      (s.hub.enabled = true → s.hostReach a m = true → size → s.hostReady a = true → calm m → s.Inv →
        let cut (v : Nat) : Nat := v % 256 ^ m
        let new := match op with
          | .fetchAdd => cut (old + x.toNat)
          | .swap => cut x.toNat
          | .cas => if old = cut cmp.toNat then cut x.toNat else old
        ∃ t, go = .next t ∧ t.out = s.out ++ [.atomic pa (BitVec.ofNat 128 old)] ∧ putBytes s.mem t.mem a m (BitVec.ofNat 128 new) (fullMask m) ∧ (t.line (lineOf a)).w = s.nextW a m)) ∧
  (∀ (n : Nat) (s : State),
    let h := s.hub.slot n
    let st := bitsOf h.status 0 8
    let may := s.hub.enabled = true ∧ n < 256 ∧ (st = 0 ∨ st = 3)
    let s1 := (s.startContext h.ctxdesc.toNat).1
    let asid := (s.startContext h.ctxdesc.toNat).2
    (¬may ∨ s.liveDies = [] → exec (.doorbellStart n) s = .next s) ∧
    (∀ die rest, may → s.liveDies = die :: rest →
      let rec_ := if h.cmdrec.toNat % 256 = 0 then s1.readWords (sysWho asid die) h.cmdrec.toNat 32 else none
      let waits := h.cmdrec.toNat % 256 = 0 ∧ s1.reach (sysWho asid die) .load h.cmdrec.toNat = .awaited
      (waits → exec (.doorbellStart n) s = .next s1) ∧
      (¬waits → rec_ = none → ∃ t, exec (.doorbellStart n) s = .next t ∧ t.mem = s.mem ∧ (t.hub.slot n).status = 2 ∧ t.grids = s.grids) ∧
      (∀ x, ¬waits → rec_ = some x →
        let r : BitVec 2048 := BitVec.ofNat 2048 x
        (invalidCause s1 r ≠ 0 → ∃ t, exec (.doorbellStart n) s = .next t ∧ t.mem = s.mem ∧ (t.hub.slot n).status = BitVec.ofNat 64 (2 + 256 * invalidCause s1 r) ∧ t.grids = s.grids) ∧
        (invalidCause s1 r = 0 → ∃ t g, exec (.doorbellStart n) s = .next t ∧ t.mem = s.mem ∧ t.grids = (s.freshTag (bitsOf r 200 16)).grids ++ [g] ∧ g.record = r ∧ g.asid = asid ∧ g.by_ = 0 ∧ g.owed = dieList r ∧
          (t.hub.slot n).status = 1 ∧ (t.hub.slot n).lid = g.lid))) ∧
    (s.hub.enabled = false ∨ st ≠ 1 → exec (.doorbellStop n) s = .next s) ∧
    (s.hub.enabled = true → st = 1 → ∃ t w, exec (.doorbellStop n) s = .next t ∧ t.mem = s.mem ∧ t.waiters = s.waiters ++ [w] ∧ w.kind = .purge (s.grid h.lid).rqtag ∧ w.owed = s.liveDies) ∧
    ∀ (off : Nat) (x : BitVec 64), n < 256 → s.hub.enabled = true →
      (off = 0x100000 + 64 * n → ∃ t, exec (.controlRegisterWrite off x) s = .next t ∧ t.hub.slot n = { h with ctxdesc := x }) ∧
      (off = 0x100000 + 64 * n + 8 → ∃ t, exec (.controlRegisterWrite off x) s = .next t ∧ t.hub.slot n = { h with cmdrec := x }) ∧
      (off < 0x100000 ∨ 0x104000 ≤ off ∨ (off % 64 ≠ 0 ∧ off % 64 ≠ 8) → exec (.controlRegisterWrite off x) s = .next s)) ∧
  ∀ (ix : Nat) (s : State),
    (∀ p, s.hub.measures.find? (fun p => p.1 == ix) = some p → exec (.getMeasurements ix) s = .next { s with out := s.out ++ [.measurement ix p.2 (Config.signWith s.hub.device (bigBytes 4 ix ++ bigBytes 32 p.2.toNat))] }) ∧
    (s.hub.measures.find? (fun p => p.1 == ix) = none → exec (.getMeasurements ix) s = .next s)

/-! Reliability, assay contexts and fleet operation -/

/-- Errors, tests, shadows, snapshots, rollback and kills (R381 to R388, R390, R392, R393): a scrub logs what it finds and poisons what it cannot correct; a corrupted message is sent again
three times, then delivered poisoned; a core falls due once in 200 ms, its teams are pre-empted 10 ms later but for a cluster with a team that must stay, for which the test is postponed and
logged; a failed test takes the unit out and kills or logs the launches that ran on its cores since its last passed test; a shadow that agrees lets the entries leave, and one that differs, or
a store unmatched for 2 µs, is an ASSAY fault; a due cluster that is quiet takes a snapshot; a request's first ASSAY fault rolls its cluster back to the newest whole slots; a kill purges a tag
with STATE 4 and takes the unit out, but where an error of a core hit a cluster of an assay request that has had no fault it rolls that cluster back. The model's choices: that a core with an
assay team is not tested in turn, the gates of the rotation and which launches a unit concerns (log 115); that a kill purges every die at once and quarantines the unit (log 79); the layout of a
snapshot slot and what Table 4 lacks (log 47); that the unit of a hub stands in its die's log (log 117). -/
def Obligations.Reliability : Prop :=
  let wrote (s t : State) (die kind : Nat) (unit : BitVec 32) (tag : Nat) (addr : DWord) : Prop := die < s.dies.length → kind ≠ 1 → (s.die die).log.length < 4096 →
    ∃ e ∈ (t.die die).log, e.getD 0 0 = BitVec.ofNat 64 (unit.toNat + kind * 2 ^ 32 + tag % 2 ^ 16 * 2 ^ 48) ∧ e.getD 1 0 = BitVec.ofNat 64 (s.gtime die) ∧ e.getD 2 0 = addr
  let purged (s t : State) (tag : Nat) (unit : BitVec 32) : Prop := (∀ l ∈ s.lslots, l.die < 16) → ∀ g ∈ s.grids, (∀ y ∈ s.grids, y.lid = g.lid → y = g) → g.rqtag = tag → g.state = 0 →
    g.queued ≠ [] → ∃ g' ∈ t.grids, g'.lid = g.lid ∧ g'.state = 4 ∧ g'.unit = unit
  (∀ (u : BitVec 32) (pa : Nat) (s : State),
    let n := if bitsOf u 28 4 = 5 then 64 else 8
    let die := bitsOf u 24 4
    (∃ t, exec (.patrolScrub u pa false) s = .next t ∧ t.mem = s.mem ∧ t.poison = s.poison) ∧
    ∃ t, exec (.patrolScrub u pa true) s = .next t ∧ t.mem = s.mem ∧ (∀ i, i < n → hurtAt t.poison (pa / n * n + i) 1 = true) ∧
      (∀ b ∈ s.poison, b ∈ t.poison) ∧ wrote s t die 2 u 0 (BitVec.ofNat 64 (pa / n * n))) ∧
  (∀ (r : Nat) (s : State), exec (.driftResend r) s = .next { s with reqs := updBy (fun q => q.id == r) (fun q =>
    if q.isBuf = true ∨ q.stage = .served then q else if q.resends < 3 then { q with resends := q.resends + 1 } else { q with poisoned := true }) s.reqs }) ∧
  (∀ (core : Nat) (s : State),
    let die := core / 128
    let out := unitId 0 die (core % 128) ∈ s.mgmt.quarantine ∨ unitId 8 die (core % 128) ∈ s.mgmt.quarantine ∨ unitId 1 die (core % 128 / 4) ∈ s.mgmt.quarantine
    let here (x : Team) : Prop := x ∈ s.teams ∧ x.die = die ∧ x.core = core % 128
    let stays (c : Nat) : Prop := ∃ x ∈ s.teams, x.cluster = c ∧ (recPrio (s.gridOf x).record = 7 ∨ ∃ g ∈ s.groupsOf x.uid, ∃ y ∈ g.lanes, y.st = .faulted)
    let goes (c : Nat) : Prop := (∃ y, here y ∧ y.cluster = c) ∧ ¬stays c
    let assay := ∃ x, here x ∧ recAssay (s.gridOf x).record = true
    let early := s.gtime die < (s.core core).tested + 200000000
    ((s.core core).testDue ≠ none ∨ early ∨ out ∨ assay → exec (.selfTestDue core) s = .next s) ∧
    ((s.core core).testDue = none → ¬early → ¬out → ¬assay →
      exec (.selfTestDue core) s = .next (s.onCore core (fun c => { c with testDue := some (s.gtime die), tested := s.gtime die }))) ∧
    ((s.core core).testDue = none ∨ (∀ x, ¬here x) → exec (.selfTestPreempt core) s = .next s) ∧
    (∀ t0, (s.core core).testDue = some t0 → (∃ x, here x) →
      (s.gtime die < t0 + 10000000 → exec (.selfTestPreempt core) s = .next s) ∧
      (t0 + 10000000 ≤ s.gtime die → ∃ t, exec (.selfTestPreempt core) s = .next t ∧ t.mem = s.mem ∧
        ((∃ x, here x ∧ stays x.cluster) → (t.core core).testDue = none ∧ wrote s t die 6 (coreUnit core) 0 0) ∧
        ((∀ x, here x → ¬stays x.cluster) → (t.core core).testDue = some t0) ∧
        ∀ g, s.only g → g.uid ≠ 0 →
          ((∀ x ∈ s.teams, x.uid = g.team → ¬goes x.cluster) → g ∈ t.allGroups) ∧
          ((∃ x ∈ s.teams, x.uid = g.team ∧ goes x.cluster) → g.method = none → g.isParked = false → (∃ y ∈ g.lanes, y.st ≠ .exited) → (∀ y ∈ g.lanes, y.routine ≠ some .save) →
            { g with preempt := true } ∈ t.allGroups)))) ∧
  (∀ (u : BitVec 32) (s : State),
    let ty := bitsOf u 28 4
    let die := bitsOf u 24 4
    let ix := bitsOf u 0 24
    let core := 128 * die + ix
    let now := s.gtime die
    let since := sget 0 s.mgmt.passed u.toNat
    let onIt (c : Nat) (x : Team) : Prop := x ∈ s.teams ∧ x.die = c / 128 ∧ x.core = c % 128
    let can := if ty = 0 then (∃ a, (s.core core).testAt = some a ∧ a + 1000000 ≤ now) ∧ ∀ x, ¬onIt core x else since + 200000000 ≤ now ∧ u ∉ s.mgmt.quarantine
    let concerned (c : Nat) : Prop :=
      ((ty = 0 ∨ ty = 8) ∧ c = core) ∨ (ty = 1 ∧ c / 4 = 32 * die + ix) ∨ ty = 9 ∨ ty = 10 ∨ (ty ≠ 0 ∧ ty ≠ 8 ∧ ty ≠ 1 ∧ c / 128 = die)
    (¬can → ∀ p, exec (.selfTestDone u p) s = .next s) ∧
    (can → (∃ t, exec (.selfTestDone u true) s = .next t ∧ t.mem = s.mem ∧ t.mgmt.passed = sput 0 s.mgmt.passed u.toNat now ∧ t.mgmt.quarantine = s.mgmt.quarantine ∧
        (ty = 0 → (t.core core).testDue = none ∧ (t.core core).testAt = none)) ∧
      ∃ t, exec (.selfTestDone u false) s = .next t ∧ u ∈ t.mgmt.quarantine ∧ ((∀ c ∈ s.cores, c.2.ran = []) → wrote s t die 5 u 0 0) ∧
        ∀ p ∈ s.cores, concerned p.1 → ∀ r ∈ p.2.ran, (since ≤ r.2 ∨ ∃ x, onIt p.1 x ∧ x.lid = r.1) → ∀ g ∈ s.grids, g.lid = r.1 → g.state = 0 → (∀ y ∈ s.grids, y.lid = g.lid → y = g) →
          purged s t g.rqtag u)) ∧
  (∀ (gid : Nat) (wrote : List (Nat × Nat × DWord)) (sent : List Scb) (g : Group) (i : Issued) (rest : List Issued) (s : State),
    s.only g → g.uid = gid → s.isAssay gid = true → g.settle.log = i :: rest →
    let mine := g.scb.filter (fun e => decide (e.logged ≤ i.num))
    let agrees := wrote = i.wrote ∧ sent.length = mine.length ∧ ∀ p ∈ sent.zip mine,
      p.1.op = p.2.op ∧ p.1.lane = p.2.lane ∧ p.1.pc = p.2.pc ∧ p.1.addr = p.2.addr ∧ p.1.n = p.2.n ∧ p.1.data = p.2.data ∧ p.1.md = p.2.md
    (agrees → ∃ t, takeOutside (.shadow gid wrote sent) s = .next t ∧ t.mem = s.mem ∧ t.reqs = s.reqs ∧ t.faults = s.faults ∧
      ∃ y ∈ t.allGroups, y.uid = gid ∧ y.scb = g.scb.filter (fun e => decide (i.num < e.logged)) ∧ (∀ e ∈ y.log, i.num < e.num) ∧ y.lanes = g.lanes ∧ y.s = g.s) ∧
    (¬agrees → ∃ t p, takeOutside (.shadow gid wrote sent) s = .next t ∧ t.mem = s.mem ∧ t.faults = s.faults ++ [p] ∧ p.cause = .assay ∧ p.gid = gid ∧ p.replay = false ∧ p.pc = i.pc ∧
      p.lanes = i.lanes ∧ (∀ r ∈ t.reqs, r ∈ s.reqs ∧ (r.gid = gid → ∀ y ∈ g.scb, y.id ≠ r.id)) ∧ ∃ y ∈ t.allGroups, y.uid = gid ∧ y.scb = [] ∧ y.log = [] ∧ y.lvq = [])) ∧
  (∀ (g : Nat) (x : Group) (s : State), s.group g = some x →
    (∀ e ∈ x.scb, s.cycle < e.at_ + 2400) → exec (.scbTimeout g) s = .next s) ∧
  (∀ (g : Nat) (x : Group) (e : Scb) (s : State), s.only x → x.uid = g → x.scb.find? (fun e => decide (e.at_ + 2400 ≤ s.cycle)) = some e →
    ∃ t p, exec (.scbTimeout g) s = .next t ∧ t.mem = s.mem ∧ t.faults = s.faults ++ [p] ∧ p.cause = .assay ∧ p.addr = e.addr ∧ p.gid = g ∧ p.replay = false ∧ p.pc = e.pc ∧ p.lanes = BitVec.ofNat 128 (2 ^ e.lane) ∧
      (∀ r ∈ t.reqs, r ∈ s.reqs ∧ (r.gid = g → ∀ y ∈ x.scb, y.id ≠ r.id)) ∧ (∀ c ∈ t.copyq, c.gid = g → ∀ y ∈ x.scb, y.id ≠ c.id) ∧ ∃ y ∈ t.allGroups, y.uid = g ∧ y.scb = [] ∧ y.log = [] ∧ y.lvq = []) ∧
  (∀ (c : Nat) (s : State),
    let due (x : Cluster) : Bool := x.uid == c && recAssay (s.grid x.lid).record && decide (x.snapAt + 1000000 ≤ s.gtime x.die)
    exec (.snapshotTimer c) s = .next { s with clusters := updBy due (fun x => { x with snapDue := true }) s.clusters }) ∧
  (∀ (x : Cluster) (s : State), s.clusters.find? (fun y => y.uid == x.uid) = some x →
    let quiet := ∀ t ∈ s.teams, t.cluster = x.uid → ∀ g ∈ s.groupsOf t.uid, g.ops = [] ∧ g.scb = [] ∧ g.rels = [] ∧ (∀ r ∈ s.reqs, r.gid ≠ g.uid) ∧ s.owesRop g.uid = false ∧ s.owesAnswer g.uid = false
    (x.snapDue = false ∨ ¬quiet → exec (.snapshot x.uid) s = .next s) ∧
    (x.snapDue = true → quiet → ∃ t y, exec (.snapshot x.uid) s = .next t ∧ y ∈ t.clusters ∧ y.uid = x.uid ∧ y.snapSeq = x.snapSeq + 1 ∧ y.snapAt = s.gtime x.die ∧ y.snapDue = false ∧
      (∃ k, y.snaps = k :: x.snaps.take 2 ∧ k.seq = x.snapSeq + 1 ∧ k.teams = s.teams.filter (fun t => t.cluster == x.uid) ∧ k.bars = x.bars) ∧
      ∀ tm, (∀ w ∈ s.waiters, w.kind ≠ .snap) → s.teams.filter (fun t => t.cluster == x.uid) = [tm] →
        let d := (s.ctx (s.gridOf tm).asid).desc
        let seq := (x.snapSeq + 1).toNat
        let base := bitsOf d 640 64 + tm.teamlin * bitsOf d 704 32 + (if seq % 2 = 0 then bitsOf d 704 32 / 4 else 0)
        let w := sysWho (s.gridOf tm).asid tm.die
        let gs := (s.groupsOf tm.uid).mergeSort (fun a b => decide (a.gid ≤ b.gid))
        t.mem = ((s.sysPuts w 0 base (slotWords tm gs x.bars)).sysPuts w 0 base [(0, seq + 2 ^ 32)]).mem)) ∧
  (∀ (core : Nat) (x : Cluster) (tm : Team) (s : State),
    let d := (s.ctx (s.gridOf tm).asid).desc
    let w := sysWho (s.gridOf tm).asid tm.die
    let at_ (odd : Bool) : Nat := bitsOf d 640 64 + tm.teamlin * bitsOf d 704 32 + (if odd then 0 else bitsOf d 704 32 / 4)
    let head (odd : Bool) : Nat := s.sysGet w (at_ odd)
    let whole (odd : Bool) : Prop := head odd / 2 ^ 32 % 2 = 1
    let newest := if head true % 2 ^ 32 < head false % 2 ^ 32 then head false % 2 ^ 32 else head true % 2 ^ 32
    (¬whole true → ¬whole false → s.newestSlot tm = none) ∧
    (∀ odd, whole odd → ¬whole (!odd) → s.newestSlot tm = some (head odd % 2 ^ 32)) ∧
    (whole true → whole false → s.newestSlot tm = some newest) ∧
    (s.fromSlot core x tm).snap = true ∧ (s.fromSlot core x tm).avoid = some core ∧
    ∀ n, s.newestSlot tm = some n → ∀ (i k : Nat) (g : Group), (s.fromSlot core x tm).groups[i]? = some g → k < 64 →
      g.scl k = BitVec.ofNat 64 (s.sysGet w (at_ (n % 2 == 1) + (64 + 2048 * i + 8 * k)))) ∧
  (∀ (x : Cluster) (f : PFault) (g : Grid) (s : State), s.clusters.find? (fun y => y.uid == x.uid) = some x → s.assayFault x.uid = some f → s.grids.find? (fun y => y.lid == x.lid) = some g →
    let core := 128 * bitsOf f.unit 24 4 + bitsOf f.unit 0 24
    let again := ∃ y ∈ s.grids, y.rqtag = f.rqtag ∧ y.rollbacks ≠ 0
    let waits := s.slotsUnread x = true ∨ s.slotsAwaited (fun y => ((s.group y.gid).map (fun z => (s.team z.team).cluster)) == some x.uid) = true
    let r := s.recordFault f.id
    (again ∨ g.state ≠ 0 ∨ waits → exec (.rollback x.uid) s = .next s) ∧
    (¬again → g.state = 0 → ¬waits → ∃ t l, exec (.rollback x.uid) s = .next t ∧ (∀ y ∈ t.teams, y.cluster ≠ x.uid) ∧ (t.core core).testDue = some (s.gtime x.die) ∧
      (∃ y ∈ t.clusters, y.uid = x.uid ∧ y.bars = r.slotClusterBars x) ∧ (∃ g' ∈ t.grids, g'.lid = x.lid ∧ g'.rollbacks = 1) ∧ wrote s t x.die 7 f.unit g.rqtag 0 ∧
      t.parked = l ++ (s.teams.filter (fun y => y.cluster == x.uid)).map (r.fromSlot core x))) ∧
  ∀ (tag : Nat) (u : BitVec 32) (s : State), tag < 65536 →
    let first := ∀ y ∈ s.grids, y.rqtag = tag → y.rollbacks = 0
    let own (c : Cluster) := c ∈ s.clusters ∧ bitsOf u 28 4 = 0 ∧ first ∧ (s.grid c.lid).rqtag = tag ∧ recAssay (s.grid c.lid).record = true ∧ (s.grid c.lid).state = 0 ∧
      ∃ f ∈ s.faults, f.cause = .poison ∧ f.unit = u ∧ ((s.group f.gid).map (fun x => (s.team x.team).cluster)) = some c.uid
    let waits := s.slotsAwaited (fun f => f.rqtag == tag) = true ∨ ∃ c, own c ∧ s.slotsUnread c = true
    (waits → exec (.kill tag u) s = .next s) ∧
    (¬waits → (∀ c, ¬own c) → ∃ t, exec (.kill tag u) s = .next t ∧ u ∈ t.mgmt.quarantine ∧ purged s t tag u ∧ (∀ r ∈ t.rops, r.die < 16 → r.rqtag ≠ tag) ∧
      ∀ x ∈ t.teams, x.die < 16 → ∀ g ∈ s.grids, g.lid = x.lid → g.rqtag ≠ tag) ∧
    (¬waits → ∀ c, own c → ∃ t, exec (.kill tag u) s = .next t ∧ (∀ y ∈ t.teams, y.cluster ≠ c.uid) ∧ ∃ g ∈ t.grids, g.lid = c.lid ∧ g.rollbacks = 1)

/-- Fleet operation (R396 to R402): an island's readings are taken every 1 ms of its die's clock and read as last taken with its clock step; log entries are read and stay; the power cap
holds from the next window of 1 ms on, and a window over it slows every island by 100 MHz, not below 600, one below 95 % of it speeds up each that is neither hot nor at 95 A or more; over
100 A, and every 100 µs from 100 °C until below 95 °C, an island slows; 110 °C resets the die; an update ends in the inactive slot and is used when accepted; versions rise after a good boot;
tracing is enabled; a unit under RESTORE returns to service 1 ms after it was idle unless a fault was logged. Sixteen islands, one for each die, and verdicts and readings as inputs, are the
model's choice (log 25), as is that a second update is ignored while one runs (log 141). -/
def Obligations.FleetOperation : Prop :=
  (∀ (i : Nat) (s : State), exec (.pldmTelemetryRead i) s = .next { s with out := s.out ++ [.telemetry i (sget 0 s.mgmt.readings i) (s.clock i) (s.dieCounts i)] }) ∧
  (∀ (l : List (Nat × BitVec 64)) (s : State), exec (.telemetryRefresh l) s = .next { s with mgmt := l.foldl (fun m p =>
    if sget 0 m.readAt p.1 + 1000000 ≤ s.gtime p.1 then { m with readings := sput 0 m.readings p.1 p.2, readAt := sput 0 m.readAt p.1 (s.gtime p.1) } else m) s.mgmt }) ∧
  (∀ (die ix : Nat) (s : State), ((s.die die).log.length ≤ ix → exec (.errorLogRead die ix) s = .next s) ∧
    (ix < (s.die die).log.length → exec (.errorLogRead die ix) s = .next { s with out := s.out ++ [.errlog die ix ((s.die die).log.getD ix [])] })) ∧
  (∀ (n : Nat) (s : State),
    let good := 6000 ≤ n ∧ n ≤ 15000 ∧ n % 100 = 0
    (good → exec (.setPowerCap n) s = .next { s with mgmt := { s.mgmt with capNext := n } }) ∧ (¬good → exec (.setPowerCap n) s = .next s)) ∧
  (∀ s : State, swf 1200 s.mgmt.clocks = true →
    let down (i : Nat) : Nat := max 600 (s.clock i - 100)
    let up (i : Nat) : Nat := min 1200 (s.clock i + 100)
    let cap := 1000 * s.mgmt.cap
    let over_ := s.mgmt.windowAt + 1000000 ≤ s.refTime
    (∀ mw, ¬over_ → exec (.powerWindow mw) s = .next s) ∧
    (∀ mw, over_ → ∃ t, exec (.powerWindow mw) s = .next t ∧ t.mem = s.mem ∧ t.mgmt.cap = s.mgmt.capNext ∧ t.mgmt.windowAt = s.refTime ∧ ∀ i, i < 16 →
      (cap < mw → t.clock i = down i) ∧ (100 * mw < 95 * cap → cap ≥ mw → t.clock i = if sget 0 s.mgmt.hotSince i = 0 ∧ sget 0 s.mgmt.amps i < 95 then up i else s.clock i) ∧
      (mw ≤ cap → 95 * cap ≤ 100 * mw → t.clock i = s.clock i)) ∧
    ∀ i x, (100 < x → i < 16 → ∃ t, exec (.currentLimit i x) s = .next t ∧ t.mem = s.mem ∧ t.clock i = down i ∧ ∀ j, j ≠ i → t.clock j = s.clock j) ∧
      (x ≤ 100 → i < 16 → exec (.currentLimit i x) s = .next { s with mgmt := { s.mgmt with amps := sput 0 s.mgmt.amps i x } }) ∧
      (16 ≤ i → exec (.currentLimit i x) s = .next s) ∧
      let due := sget 0 s.mgmt.hotSince i = 0 ∨ sget 0 s.mgmt.hotSince i + 100000 ≤ s.refTime + 1
      (95 ≤ x → (100 ≤ x ∨ sget 0 s.mgmt.hotSince i ≠ 0) → due → i < 16 → ∃ t, exec (.thermalStep i x) s = .next t ∧ t.mem = s.mem ∧ t.clock i = down i ∧ (swf 0 s.mgmt.hotSince = true → t.isHot i = true)) ∧
      (x < 95 → i < 16 → ∃ t, exec (.thermalStep i x) s = .next t ∧ t.mem = s.mem ∧ t.clock i = s.clock i ∧ (swf 0 s.mgmt.hotSince = true → t.isHot i = false)) ∧
      ((95 ≤ x ∧ x < 100 ∧ sget 0 s.mgmt.hotSince i = 0) ∨ (95 ≤ x ∧ ¬due) ∨ 16 ≤ i → exec (.thermalStep i x) s = .next s)) ∧
  (∀ (die x : Nat) (s : State), (x < 110 ∨ 16 ≤ die → exec (.thermalTrip die x) s = .next s) ∧
    (110 ≤ x → die < 16 → s.dies.length = 16 → ∃ t, exec (.thermalTrip die x) s = .next t ∧ (t.die die).inc = (if (s.die die).inc = 0xFFFF then 1 else (s.die die).inc + 1) ∧
      (t.die die).verified = none ∧ ((s.die die).log.length < 4096 → ∃ e ∈ (t.die die).log, bitsOf (e.getD 0 0) 32 8 = 9 ∧ e.getD 1 0 = BitVec.ofNat 64 (s.gtime die)))) ∧
  (∀ (i : Signed) (s : State),
    let ok := (imageKey i, false) ∈ s.hub.keys ∧ imageVerifies i = true ∧ s.hub.secver.toNat ≤ (imageVersion i).toNat
    (s.hub.update ≠ none → exec (.firmwareUpdate i) s = .next s) ∧
    (s.hub.update = none → exec (.firmwareUpdate i) s = .next { s with hub := { s.hub with update := some i } }) ∧
    (s.hub.update = none → endUpdate s = .next s) ∧
    (s.hub.update = some i → ∃ t, endUpdate s = .next t ∧ t.mem = s.mem ∧ t.hub.update = none ∧ t.hub.runsB = s.hub.runsB ∧ (t.hub.fresh = true ↔ ok) ∧
      (if s.hub.runsB then t.hub.fwB = s.hub.fwB ∧ t.hub.fwA = some i else t.hub.fwA = s.hub.fwA ∧ t.hub.fwB = some i))) ∧
  (∀ s : State, (s.hub.stage ≠ 6 → exec .securityVersionCommit s = .next s) ∧
    (s.hub.stage = 6 → ∃ t, exec .securityVersionCommit s = .next t ∧ t.mem = s.mem ∧
      (∀ i, s.hub.running = some i → t.hub.secver.toNat = max s.hub.secver.toNat (imageVersion i).toNat) ∧
      (∀ d, d < s.dies.length → ∀ i, (s.die d).verified = some i → (t.die d).secver.toNat = max (s.die d).secver.toNat (imageVersion i).toNat) ∧
      t.outer.map (fun o => o.secver.toNat) = s.outer.map (fun o => match o.verified with | some i => max o.secver.toNat (imageVersion i).toNat | none => o.secver.toNat))) ∧
  (∀ (core len : Nat) (va : BitVec 64) (s : State), exec (.traceEnable core va len) s = .next (s.onCore core (fun c => { c with trace := some (va, len, 0) }))) ∧
  ∀ (u : BitVec 32) (s : State),
    let ty := bitsOf u 28 4
    let die := bitsOf u 24 4
    let core := 128 * die + bitsOf u 0 24
    let begun := ∃ r ∈ s.mgmt.restoring, r.unit = u
    let can := u ∈ s.mgmt.quarantine ∧ ¬begun ∧ (ty = 0 ∨ ty = 1 ∨ ty = 2 ∨ ty = 6 ∨ ty = 8 ∨ ty = 9 ∨ ty = 10 ∨ (ty = 5 ∧ bitsOf u 0 24 / 4 ≠ 0))
    let busy := ((ty = 0 ∨ ty = 8) ∧ ∃ x ∈ s.teams, x.die = core / 128 ∧ x.core = core % 128) ∨ (ty = 1 ∧ ∃ x ∈ s.tasks, x.quad = 32 * die + bitsOf u 0 24)
    let wrote (t : State) (kind : Nat) : Prop := die < s.dies.length → (s.die die).log.length < 4096 →
      ∃ e ∈ (t.die die).log, e.getD 0 0 = BitVec.ofNat 64 (u.toNat + kind * 2 ^ 32) ∧ e.getD 1 0 = BitVec.ofNat 64 (s.gtime die)
    (¬can → ∀ p, exec (.restore u p) s = .next s) ∧
    (can → ∀ p, exec (.restore u p) s = .next { s with mgmt := { s.mgmt with restoring := s.mgmt.restoring ++ [{ unit := u, at_ := s.gtime die, passed := p }] } }) ∧
    (¬begun → endRestore u s = .next s) ∧
    ∀ r, s.mgmt.restoring.find? (fun x => x.unit == u) = some r →
      (busy ∨ s.gtime die < r.at_ + 1000000 → endRestore u s = .next s) ∧
      (¬busy → r.at_ + 1000000 ≤ s.gtime die → ∃ t, endRestore u s = .next t ∧ t.mem = s.mem ∧ (∀ x ∈ t.mgmt.restoring, x.unit ≠ u) ∧
        (r.passed = true → u ∉ t.mgmt.quarantine ∧ wrote t 11 ∧ (ty = 6 → ∀ o ∈ s.objs, ∀ c ∈ t.ocopies, c.die = die → c.obj = o.id → c.resync ≠ none)) ∧
        (r.passed = false → t.mgmt.quarantine = s.mgmt.quarantine ∧ wrote t 12))
end

