-- ==== Sys2Proof/Laws/Entry.lean ====
section
/-! SUPPORT. What stops an instruction before its effect, once for every instruction with a key: the entry checks decide (R182). -/

namespace Sys2Proof.Machine

/-- An entry stop is what `run` answers. -/
theorem run_stop {k : Key} {f : Fields} {s : State} {x : Stop} {body : State → State} (h : entryStop k f s = some x) :
    run k f s body = .next (stop x s) := by simp [run, h]

/-- With no entry stop, `run` answers the effect. -/
theorem run_go {k : Key} {f : Fields} {s : State} {body : State → State} (h : entryStop k f s = none) : run k f s body = .next (body s) := by
  simp [run, h]

end Sys2Proof.Machine
end

