-- ==== Sys2Proof/Laws/Sparse.lean ====
section
/-! SUPPORT. Sparse data: reads after writes, and the canonical form that every write keeps (memory, registers, buffers). -/

namespace Sys2Proof.Machine

/-! Reads after writes -/

/-- An entry below every key of a canonical list reads as the default. -/
theorem sget_below {β : Type} [DecidableEq β] (d : β) (m : Sparse β) (lo k : Nat) (h : swfFrom d lo m = true) (hk : k < lo) :
    sget d m k = d := by
  induction m generalizing lo with
  | nil => rfl
  | cons p m ih =>
    obtain ⟨a, x⟩ := p
    simp only [swfFrom, Bool.and_eq_true, decide_eq_true_eq] at h
    have hne : ¬ a = k := by omega
    simp only [sget, hne, if_false]
    exact ih (a + 1) h.2 (by omega)

/-- A write is read back, and leaves every other key alone, on canonical data. -/
theorem sget_sput {β : Type} [DecidableEq β] (d : β) (m : Sparse β) (lo k j : Nat) (x : β) (h : swfFrom d lo m = true) :
    sget d (sput d m k x) j = if j = k then x else sget d m j := by
  induction m generalizing lo with
  | nil =>
    by_cases hx : x = d <;> by_cases hj : j = k <;> simp [sput, sget, hx, hj]
    intro hkj
    exact absurd hkj.symm hj
  | cons p m ih =>
    obtain ⟨a, y⟩ := p
    simp only [swfFrom, Bool.and_eq_true, decide_eq_true_eq] at h
    simp only [sput]
    split
    · rename_i hka
      split
      · rename_i hx
        by_cases hj : j = k
        · subst hj
          have hne : ¬ a = j := by omega
          simp only [sget, hne, if_false, if_true, hx]
          exact sget_below d m (a + 1) j h.2 (by omega)
        · simp [hj]
      · by_cases hj : j = k
        · simp [sget, hj]
        · have : ¬ k = j := fun e => hj e.symm
          simp [sget, hj, this]
    · split
      · rename_i hka
        subst hka
        split
        · rename_i hx
          by_cases hj : j = k
          · simp only [hj, if_true, hx]
            exact sget_below d m (k + 1) k h.2 (by omega)
          · have : ¬ k = j := fun e => hj e.symm
            simp [sget, hj, this]
        · by_cases hj : j = k
          · simp [sget, hj]
          · have : ¬ k = j := fun e => hj e.symm
            simp [sget, hj, this]
      · rename_i h1 h2
        simp only [sget]
        by_cases ha : a = j
        · have hjk : ¬ j = k := by omega
          simp [ha, hjk]
        · simp only [ha, if_false]
          exact ih (a + 1) h.2

/-- A write keeps the canonical form above any bound at most its key. -/
theorem swfFrom_sput {β : Type} [DecidableEq β] (d : β) (m : Sparse β) (lo k : Nat) (x : β) (h : swfFrom d lo m = true) (hk : lo ≤ k) :
    swfFrom d lo (sput d m k x) = true := by
  induction m generalizing lo with
  | nil => by_cases hx : x = d <;> simp [sput, swfFrom, hx, hk]
  | cons p m ih =>
    obtain ⟨a, y⟩ := p
    simp only [swfFrom, Bool.and_eq_true, decide_eq_true_eq] at h
    obtain ⟨⟨ha, hy⟩, hm⟩ := h
    simp only [sput]
    split
    · rename_i hka
      split
      · simp only [swfFrom, Bool.and_eq_true, decide_eq_true_eq]
        exact ⟨⟨ha, hy⟩, hm⟩
      · rename_i hx
        simp only [swfFrom, Bool.and_eq_true, decide_eq_true_eq]
        exact ⟨⟨hk, hx⟩, ⟨by omega, hy⟩, hm⟩
    · split
      · rename_i hka
        subst hka
        split
        · exact (by
            have hmono : ∀ (l : Sparse β) (b c : Nat), b ≤ c → swfFrom d c l = true → swfFrom d b l = true := by
              intro l b c hbc hl
              cases l with
              | nil => rfl
              | cons q l =>
                simp only [swfFrom, Bool.and_eq_true, decide_eq_true_eq] at hl ⊢
                exact ⟨⟨by omega, hl.1.2⟩, hl.2⟩
            exact hmono m lo (k + 1) (by omega) hm)
        · rename_i hx
          simp only [swfFrom, Bool.and_eq_true, decide_eq_true_eq]
          exact ⟨⟨hk, hx⟩, hm⟩
      · simp only [swfFrom, Bool.and_eq_true, decide_eq_true_eq]
        exact ⟨⟨ha, hy⟩, ih (a + 1) hm (by omega)⟩

/-- A write keeps the canonical form. -/
theorem swf_sput {β : Type} [DecidableEq β] (d : β) (m : Sparse β) (k : Nat) (x : β) (h : swf d m = true) : swf d (sput d m k x) = true :=
  swfFrom_sput d m 0 k x h (Nat.zero_le k)

/-! Memory and buffers -/

/-- Storing a byte keeps the canonical form of memory. -/
theorem wf_wrByte (m : Sparse Byte) (a : Nat) (x : Byte) (h : Memory.wf m = true) : Memory.wf (wrByte m a x) = true := swf_sput 0 m a x h

/-- A stored byte is read back, and every other byte reads as before. -/
theorem rdByte_wrByte (m : Sparse Byte) (a b : Nat) (x : Byte) (h : Memory.wf m = true) :
    rdByte (wrByte m a x) b = if b = a then x else rdByte m b := sget_sput 0 m 0 a b x h

/-- Storing a value keeps the canonical form. -/
theorem wf_wrBytes (m : Sparse Byte) (a n x : Nat) (h : Memory.wf m = true) : Memory.wf (wrBytes m a n x) = true := by
  induction n generalizing m a x with
  | zero => exact h
  | succ n ih => exact ih _ _ _ (wf_wrByte m a _ h)

/-- Storing a byte list keeps the canonical form. -/
theorem wf_wrList (m : Sparse Byte) (a : Nat) (l : List Byte) (h : Memory.wf m = true) : Memory.wf (wrList m a l) = true := by
  induction l generalizing m a with
  | nil => exact h
  | cons b bs ih => exact ih _ _ (wf_wrByte m a b h)

/-- Every byte outside a stored value reads as before. -/
theorem rdByte_wrBytes_out (m : Sparse Byte) (a n x b : Nat) (h : Memory.wf m = true) (hb : b < a ∨ a + n ≤ b) :
    rdByte (wrBytes m a n x) b = rdByte m b := by
  induction n generalizing m a x with
  | zero => rfl
  | succ n ih =>
    simp only [wrBytes]
    rw [ih _ _ _ (wf_wrByte m a _ h) (by omega), rdByte_wrByte m a b _ h]
    simp [show ¬ b = a by omega]

/-- A stored value is read back, byte by byte (R36). -/
theorem rdBytes_wrBytes (m : Sparse Byte) (a n x : Nat) (h : Memory.wf m = true) :
    rdBytes (wrBytes m a n x) a n = x % 256 ^ n := by
  induction n generalizing m a x with
  | zero => simp [rdBytes, Nat.mod_one]
  | succ n ih =>
    have hw := wf_wrByte m a (BitVec.ofNat 8 x) h
    have h0 : rdByte (wrBytes m a (n + 1) x) a = BitVec.ofNat 8 x := by
      simp only [wrBytes]
      rw [rdByte_wrBytes_out _ _ _ _ _ hw (by omega), rdByte_wrByte m a a _ h]
      simp
    have h1 : rdBytes (wrBytes m a (n + 1) x) (a + 1) n = x / 256 % 256 ^ n := ih _ _ _ hw
    simp only [rdBytes]
    rw [h0, h1]
    simp only [BitVec.toNat_ofNat]
    have : 256 ^ (n + 1) = 256 * 256 ^ n := by rw [Nat.pow_succ, Nat.mul_comm]
    rw [this, Nat.mod_mul]

/-- The memory of the module right after reset is in canonical form. -/
theorem reset_mem_wf : Memory.wf State.reset.mem = true := rfl

end Sys2Proof.Machine
end

