-- ==== Sys2Proof/Laws/State.lean ====
section
/-! SUPPORT. What each update of the state leaves alone and what it sets: one lemma per field and update, by `rfl`. -/

namespace Sys2Proof.Machine

/-! A change of the issuing group's lanes -/

@[simp] theorem State.onLanes_cycle (s : State) (f : Nat → Lane → Lane) : (s.onLanes f).cycle = s.cycle := rfl
@[simp] theorem State.onLanes_bundle (s : State) (f : Nat → Lane → Lane) : (s.onLanes f).bundle = s.bundle := rfl
@[simp] theorem State.onLanes_groups (s : State) (f : Nat → Lane → Lane) : (s.onLanes f).groups = s.groups := rfl
@[simp] theorem State.onLanes_teams (s : State) (f : Nat → Lane → Lane) : (s.onLanes f).teams = s.teams := rfl
@[simp] theorem State.onLanes_clusters (s : State) (f : Nat → Lane → Lane) : (s.onLanes f).clusters = s.clusters := rfl
@[simp] theorem State.onLanes_parked (s : State) (f : Nat → Lane → Lane) : (s.onLanes f).parked = s.parked := rfl
@[simp] theorem State.onLanes_grids (s : State) (f : Nat → Lane → Lane) : (s.onLanes f).grids = s.grids := rfl
@[simp] theorem State.onLanes_lslots (s : State) (f : Nat → Lane → Lane) : (s.onLanes f).lslots = s.lslots := rfl
@[simp] theorem State.onLanes_ctxs (s : State) (f : Nat → Lane → Lane) : (s.onLanes f).ctxs = s.ctxs := rfl
@[simp] theorem State.onLanes_mem (s : State) (f : Nat → Lane → Lane) : (s.onLanes f).mem = s.mem := rfl
@[simp] theorem State.onLanes_poison (s : State) (f : Nat → Lane → Lane) : (s.onLanes f).poison = s.poison := rfl
@[simp] theorem State.onLanes_sources (s : State) (f : Nat → Lane → Lane) : (s.onLanes f).sources = s.sources := rfl
@[simp] theorem State.onLanes_copies (s : State) (f : Nat → Lane → Lane) : (s.onLanes f).copies = s.copies := rfl
@[simp] theorem State.onLanes_replicas (s : State) (f : Nat → Lane → Lane) : (s.onLanes f).replicas = s.replicas := rfl
@[simp] theorem State.onLanes_partials (s : State) (f : Nat → Lane → Lane) : (s.onLanes f).partials = s.partials := rfl
@[simp] theorem State.onLanes_lines (s : State) (f : Nat → Lane → Lane) : (s.onLanes f).lines = s.lines := rfl
@[simp] theorem State.onLanes_granules (s : State) (f : Nat → Lane → Lane) : (s.onLanes f).granules = s.granules := rfl
@[simp] theorem State.onLanes_forwards (s : State) (f : Nat → Lane → Lane) : (s.onLanes f).forwards = s.forwards := rfl
@[simp] theorem State.onLanes_reqs (s : State) (f : Nat → Lane → Lane) : (s.onLanes f).reqs = s.reqs := rfl
@[simp] theorem State.onLanes_monitors (s : State) (f : Nat → Lane → Lane) : (s.onLanes f).monitors = s.monitors := rfl
@[simp] theorem State.onLanes_tlbs (s : State) (f : Nat → Lane → Lane) : (s.onLanes f).tlbs = s.tlbs := rfl
@[simp] theorem State.onLanes_asked (s : State) (f : Nat → Lane → Lane) : (s.onLanes f).asked = s.asked := rfl
@[simp] theorem State.onLanes_pwc (s : State) (f : Nat → Lane → Lane) : (s.onLanes f).pwc = s.pwc := rfl
@[simp] theorem State.onLanes_cores (s : State) (f : Nat → Lane → Lane) : (s.onLanes f).cores = s.cores := rfl
@[simp] theorem State.onLanes_copyq (s : State) (f : Nat → Lane → Lane) : (s.onLanes f).copyq = s.copyq := rfl
@[simp] theorem State.onLanes_tasks (s : State) (f : Nat → Lane → Lane) : (s.onLanes f).tasks = s.tasks := rfl
@[simp] theorem State.onLanes_arrays (s : State) (f : Nat → Lane → Lane) : (s.onLanes f).arrays = s.arrays := rfl
@[simp] theorem State.onLanes_dies (s : State) (f : Nat → Lane → Lane) : (s.onLanes f).dies = s.dies := rfl
@[simp] theorem State.onLanes_outer (s : State) (f : Nat → Lane → Lane) : (s.onLanes f).outer = s.outer := rfl
@[simp] theorem State.onLanes_frecs (s : State) (f : Nat → Lane → Lane) : (s.onLanes f).frecs = s.frecs := rfl
@[simp] theorem State.onLanes_ecnt (s : State) (f : Nat → Lane → Lane) : (s.onLanes f).ecnt = s.ecnt := rfl
@[simp] theorem State.onLanes_fcnt (s : State) (f : Nat → Lane → Lane) : (s.onLanes f).fcnt = s.fcnt := rfl
@[simp] theorem State.onLanes_lookups (s : State) (f : Nat → Lane → Lane) : (s.onLanes f).lookups = s.lookups := rfl
@[simp] theorem State.onLanes_inserts (s : State) (f : Nat → Lane → Lane) : (s.onLanes f).inserts = s.inserts := rfl
@[simp] theorem State.onLanes_waiters (s : State) (f : Nat → Lane → Lane) : (s.onLanes f).waiters = s.waiters := rfl
@[simp] theorem State.onLanes_objs (s : State) (f : Nat → Lane → Lane) : (s.onLanes f).objs = s.objs := rfl
@[simp] theorem State.onLanes_ocopies (s : State) (f : Nat → Lane → Lane) : (s.onLanes f).ocopies = s.ocopies := rfl
@[simp] theorem State.onLanes_calls (s : State) (f : Nat → Lane → Lane) : (s.onLanes f).calls = s.calls := rfl
@[simp] theorem State.onLanes_rops (s : State) (f : Nat → Lane → Lane) : (s.onLanes f).rops = s.rops := rfl
@[simp] theorem State.onLanes_rmsgs (s : State) (f : Nat → Lane → Lane) : (s.onLanes f).rmsgs = s.rmsgs := rfl
@[simp] theorem State.onLanes_receipts (s : State) (f : Nat → Lane → Lane) : (s.onLanes f).receipts = s.receipts := rfl
@[simp] theorem State.onLanes_faults (s : State) (f : Nat → Lane → Lane) : (s.onLanes f).faults = s.faults := rfl
@[simp] theorem State.onLanes_hub (s : State) (f : Nat → Lane → Lane) : (s.onLanes f).hub = s.hub := rfl
@[simp] theorem State.onLanes_mgmt (s : State) (f : Nat → Lane → Lane) : (s.onLanes f).mgmt = s.mgmt := rfl
@[simp] theorem State.onLanes_hostMode (s : State) (f : Nat → Lane → Lane) : (s.onLanes f).hostMode = s.hostMode := rfl
@[simp] theorem State.onLanes_out (s : State) (f : Nat → Lane → Lane) : (s.onLanes f).out = s.out := rfl
@[simp] theorem State.onLanes_nextId (s : State) (f : Nat → Lane → Lane) : (s.onLanes f).nextId = s.nextId := rfl
@[simp] theorem State.onLanes_free (s : State) (f : Nat → Lane → Lane) : (s.onLanes f).free = s.free := rfl
@[simp] theorem State.onLanes_agenda (s : State) (f : Nat → Lane → Lane) : (s.onLanes f).agenda = s.agenda := rfl
@[simp] theorem State.onLanes_turn (s : State) (f : Nat → Lane → Lane) : (s.onLanes f).turn = s.turn := rfl

/-! Moving past an instruction -/

@[simp] theorem State.advance_cycle (s : State) (len : Nat) : (s.advance len).cycle = s.cycle := rfl
@[simp] theorem State.advance_bundle (s : State) (len : Nat) : (s.advance len).bundle = s.bundle := rfl
@[simp] theorem State.advance_groups (s : State) (len : Nat) : (s.advance len).groups = s.groups := rfl
@[simp] theorem State.advance_teams (s : State) (len : Nat) : (s.advance len).teams = s.teams := rfl
@[simp] theorem State.advance_clusters (s : State) (len : Nat) : (s.advance len).clusters = s.clusters := rfl
@[simp] theorem State.advance_parked (s : State) (len : Nat) : (s.advance len).parked = s.parked := rfl
@[simp] theorem State.advance_grids (s : State) (len : Nat) : (s.advance len).grids = s.grids := rfl
@[simp] theorem State.advance_lslots (s : State) (len : Nat) : (s.advance len).lslots = s.lslots := rfl
@[simp] theorem State.advance_ctxs (s : State) (len : Nat) : (s.advance len).ctxs = s.ctxs := rfl
@[simp] theorem State.advance_mem (s : State) (len : Nat) : (s.advance len).mem = s.mem := rfl
@[simp] theorem State.advance_poison (s : State) (len : Nat) : (s.advance len).poison = s.poison := rfl
@[simp] theorem State.advance_sources (s : State) (len : Nat) : (s.advance len).sources = s.sources := rfl
@[simp] theorem State.advance_copies (s : State) (len : Nat) : (s.advance len).copies = s.copies := rfl
@[simp] theorem State.advance_replicas (s : State) (len : Nat) : (s.advance len).replicas = s.replicas := rfl
@[simp] theorem State.advance_partials (s : State) (len : Nat) : (s.advance len).partials = s.partials := rfl
@[simp] theorem State.advance_lines (s : State) (len : Nat) : (s.advance len).lines = s.lines := rfl
@[simp] theorem State.advance_granules (s : State) (len : Nat) : (s.advance len).granules = s.granules := rfl
@[simp] theorem State.advance_forwards (s : State) (len : Nat) : (s.advance len).forwards = s.forwards := rfl
@[simp] theorem State.advance_reqs (s : State) (len : Nat) : (s.advance len).reqs = s.reqs := rfl
@[simp] theorem State.advance_monitors (s : State) (len : Nat) : (s.advance len).monitors = s.monitors := rfl
@[simp] theorem State.advance_tlbs (s : State) (len : Nat) : (s.advance len).tlbs = s.tlbs := rfl
@[simp] theorem State.advance_asked (s : State) (len : Nat) : (s.advance len).asked = s.asked := rfl
@[simp] theorem State.advance_pwc (s : State) (len : Nat) : (s.advance len).pwc = s.pwc := rfl
@[simp] theorem State.advance_cores (s : State) (len : Nat) : (s.advance len).cores = s.cores := rfl
@[simp] theorem State.advance_copyq (s : State) (len : Nat) : (s.advance len).copyq = s.copyq := rfl
@[simp] theorem State.advance_tasks (s : State) (len : Nat) : (s.advance len).tasks = s.tasks := rfl
@[simp] theorem State.advance_arrays (s : State) (len : Nat) : (s.advance len).arrays = s.arrays := rfl
@[simp] theorem State.advance_dies (s : State) (len : Nat) : (s.advance len).dies = s.dies := rfl
@[simp] theorem State.advance_outer (s : State) (len : Nat) : (s.advance len).outer = s.outer := rfl
@[simp] theorem State.advance_frecs (s : State) (len : Nat) : (s.advance len).frecs = s.frecs := rfl
@[simp] theorem State.advance_ecnt (s : State) (len : Nat) : (s.advance len).ecnt = s.ecnt := rfl
@[simp] theorem State.advance_fcnt (s : State) (len : Nat) : (s.advance len).fcnt = s.fcnt := rfl
@[simp] theorem State.advance_lookups (s : State) (len : Nat) : (s.advance len).lookups = s.lookups := rfl
@[simp] theorem State.advance_inserts (s : State) (len : Nat) : (s.advance len).inserts = s.inserts := rfl
@[simp] theorem State.advance_waiters (s : State) (len : Nat) : (s.advance len).waiters = s.waiters := rfl
@[simp] theorem State.advance_objs (s : State) (len : Nat) : (s.advance len).objs = s.objs := rfl
@[simp] theorem State.advance_ocopies (s : State) (len : Nat) : (s.advance len).ocopies = s.ocopies := rfl
@[simp] theorem State.advance_calls (s : State) (len : Nat) : (s.advance len).calls = s.calls := rfl
@[simp] theorem State.advance_rops (s : State) (len : Nat) : (s.advance len).rops = s.rops := rfl
@[simp] theorem State.advance_rmsgs (s : State) (len : Nat) : (s.advance len).rmsgs = s.rmsgs := rfl
@[simp] theorem State.advance_receipts (s : State) (len : Nat) : (s.advance len).receipts = s.receipts := rfl
@[simp] theorem State.advance_faults (s : State) (len : Nat) : (s.advance len).faults = s.faults := rfl
@[simp] theorem State.advance_hub (s : State) (len : Nat) : (s.advance len).hub = s.hub := rfl
@[simp] theorem State.advance_mgmt (s : State) (len : Nat) : (s.advance len).mgmt = s.mgmt := rfl
@[simp] theorem State.advance_hostMode (s : State) (len : Nat) : (s.advance len).hostMode = s.hostMode := rfl
@[simp] theorem State.advance_out (s : State) (len : Nat) : (s.advance len).out = s.out := rfl
@[simp] theorem State.advance_nextId (s : State) (len : Nat) : (s.advance len).nextId = s.nextId := rfl
@[simp] theorem State.advance_free (s : State) (len : Nat) : (s.advance len).free = s.free := rfl
@[simp] theorem State.advance_agenda (s : State) (len : Nat) : (s.advance len).agenda = s.agenda := rfl
@[simp] theorem State.advance_turn (s : State) (len : Nat) : (s.advance len).turn = s.turn := rfl

/-! A lane-wise change -/

@[simp] theorem State.lanewise_cycle (s : State) (f : Fields) (h : Nat → Lane → Lane) : (s.lanewise f h).cycle = s.cycle := rfl
@[simp] theorem State.lanewise_bundle (s : State) (f : Fields) (h : Nat → Lane → Lane) : (s.lanewise f h).bundle = s.bundle := rfl
@[simp] theorem State.lanewise_groups (s : State) (f : Fields) (h : Nat → Lane → Lane) : (s.lanewise f h).groups = s.groups := rfl
@[simp] theorem State.lanewise_teams (s : State) (f : Fields) (h : Nat → Lane → Lane) : (s.lanewise f h).teams = s.teams := rfl
@[simp] theorem State.lanewise_clusters (s : State) (f : Fields) (h : Nat → Lane → Lane) : (s.lanewise f h).clusters = s.clusters := rfl
@[simp] theorem State.lanewise_parked (s : State) (f : Fields) (h : Nat → Lane → Lane) : (s.lanewise f h).parked = s.parked := rfl
@[simp] theorem State.lanewise_grids (s : State) (f : Fields) (h : Nat → Lane → Lane) : (s.lanewise f h).grids = s.grids := rfl
@[simp] theorem State.lanewise_lslots (s : State) (f : Fields) (h : Nat → Lane → Lane) : (s.lanewise f h).lslots = s.lslots := rfl
@[simp] theorem State.lanewise_ctxs (s : State) (f : Fields) (h : Nat → Lane → Lane) : (s.lanewise f h).ctxs = s.ctxs := rfl
@[simp] theorem State.lanewise_mem (s : State) (f : Fields) (h : Nat → Lane → Lane) : (s.lanewise f h).mem = s.mem := rfl
@[simp] theorem State.lanewise_poison (s : State) (f : Fields) (h : Nat → Lane → Lane) : (s.lanewise f h).poison = s.poison := rfl
@[simp] theorem State.lanewise_sources (s : State) (f : Fields) (h : Nat → Lane → Lane) : (s.lanewise f h).sources = s.sources := rfl
@[simp] theorem State.lanewise_copies (s : State) (f : Fields) (h : Nat → Lane → Lane) : (s.lanewise f h).copies = s.copies := rfl
@[simp] theorem State.lanewise_replicas (s : State) (f : Fields) (h : Nat → Lane → Lane) : (s.lanewise f h).replicas = s.replicas := rfl
@[simp] theorem State.lanewise_partials (s : State) (f : Fields) (h : Nat → Lane → Lane) : (s.lanewise f h).partials = s.partials := rfl
@[simp] theorem State.lanewise_lines (s : State) (f : Fields) (h : Nat → Lane → Lane) : (s.lanewise f h).lines = s.lines := rfl
@[simp] theorem State.lanewise_granules (s : State) (f : Fields) (h : Nat → Lane → Lane) : (s.lanewise f h).granules = s.granules := rfl
@[simp] theorem State.lanewise_forwards (s : State) (f : Fields) (h : Nat → Lane → Lane) : (s.lanewise f h).forwards = s.forwards := rfl
@[simp] theorem State.lanewise_reqs (s : State) (f : Fields) (h : Nat → Lane → Lane) : (s.lanewise f h).reqs = s.reqs := rfl
@[simp] theorem State.lanewise_monitors (s : State) (f : Fields) (h : Nat → Lane → Lane) : (s.lanewise f h).monitors = s.monitors := rfl
@[simp] theorem State.lanewise_tlbs (s : State) (f : Fields) (h : Nat → Lane → Lane) : (s.lanewise f h).tlbs = s.tlbs := rfl
@[simp] theorem State.lanewise_asked (s : State) (f : Fields) (h : Nat → Lane → Lane) : (s.lanewise f h).asked = s.asked := rfl
@[simp] theorem State.lanewise_pwc (s : State) (f : Fields) (h : Nat → Lane → Lane) : (s.lanewise f h).pwc = s.pwc := rfl
@[simp] theorem State.lanewise_cores (s : State) (f : Fields) (h : Nat → Lane → Lane) : (s.lanewise f h).cores = s.cores := rfl
@[simp] theorem State.lanewise_copyq (s : State) (f : Fields) (h : Nat → Lane → Lane) : (s.lanewise f h).copyq = s.copyq := rfl
@[simp] theorem State.lanewise_tasks (s : State) (f : Fields) (h : Nat → Lane → Lane) : (s.lanewise f h).tasks = s.tasks := rfl
@[simp] theorem State.lanewise_arrays (s : State) (f : Fields) (h : Nat → Lane → Lane) : (s.lanewise f h).arrays = s.arrays := rfl
@[simp] theorem State.lanewise_dies (s : State) (f : Fields) (h : Nat → Lane → Lane) : (s.lanewise f h).dies = s.dies := rfl
@[simp] theorem State.lanewise_outer (s : State) (f : Fields) (h : Nat → Lane → Lane) : (s.lanewise f h).outer = s.outer := rfl
@[simp] theorem State.lanewise_frecs (s : State) (f : Fields) (h : Nat → Lane → Lane) : (s.lanewise f h).frecs = s.frecs := rfl
@[simp] theorem State.lanewise_ecnt (s : State) (f : Fields) (h : Nat → Lane → Lane) : (s.lanewise f h).ecnt = s.ecnt := rfl
@[simp] theorem State.lanewise_fcnt (s : State) (f : Fields) (h : Nat → Lane → Lane) : (s.lanewise f h).fcnt = s.fcnt := rfl
@[simp] theorem State.lanewise_lookups (s : State) (f : Fields) (h : Nat → Lane → Lane) : (s.lanewise f h).lookups = s.lookups := rfl
@[simp] theorem State.lanewise_inserts (s : State) (f : Fields) (h : Nat → Lane → Lane) : (s.lanewise f h).inserts = s.inserts := rfl
@[simp] theorem State.lanewise_waiters (s : State) (f : Fields) (h : Nat → Lane → Lane) : (s.lanewise f h).waiters = s.waiters := rfl
@[simp] theorem State.lanewise_objs (s : State) (f : Fields) (h : Nat → Lane → Lane) : (s.lanewise f h).objs = s.objs := rfl
@[simp] theorem State.lanewise_ocopies (s : State) (f : Fields) (h : Nat → Lane → Lane) : (s.lanewise f h).ocopies = s.ocopies := rfl
@[simp] theorem State.lanewise_calls (s : State) (f : Fields) (h : Nat → Lane → Lane) : (s.lanewise f h).calls = s.calls := rfl
@[simp] theorem State.lanewise_rops (s : State) (f : Fields) (h : Nat → Lane → Lane) : (s.lanewise f h).rops = s.rops := rfl
@[simp] theorem State.lanewise_rmsgs (s : State) (f : Fields) (h : Nat → Lane → Lane) : (s.lanewise f h).rmsgs = s.rmsgs := rfl
@[simp] theorem State.lanewise_receipts (s : State) (f : Fields) (h : Nat → Lane → Lane) : (s.lanewise f h).receipts = s.receipts := rfl
@[simp] theorem State.lanewise_faults (s : State) (f : Fields) (h : Nat → Lane → Lane) : (s.lanewise f h).faults = s.faults := rfl
@[simp] theorem State.lanewise_hub (s : State) (f : Fields) (h : Nat → Lane → Lane) : (s.lanewise f h).hub = s.hub := rfl
@[simp] theorem State.lanewise_mgmt (s : State) (f : Fields) (h : Nat → Lane → Lane) : (s.lanewise f h).mgmt = s.mgmt := rfl
@[simp] theorem State.lanewise_hostMode (s : State) (f : Fields) (h : Nat → Lane → Lane) : (s.lanewise f h).hostMode = s.hostMode := rfl
@[simp] theorem State.lanewise_out (s : State) (f : Fields) (h : Nat → Lane → Lane) : (s.lanewise f h).out = s.out := rfl
@[simp] theorem State.lanewise_nextId (s : State) (f : Fields) (h : Nat → Lane → Lane) : (s.lanewise f h).nextId = s.nextId := rfl
@[simp] theorem State.lanewise_free (s : State) (f : Fields) (h : Nat → Lane → Lane) : (s.lanewise f h).free = s.free := rfl
@[simp] theorem State.lanewise_agenda (s : State) (f : Fields) (h : Nat → Lane → Lane) : (s.lanewise f h).agenda = s.agenda := rfl
@[simp] theorem State.lanewise_turn (s : State) (f : Fields) (h : Nat → Lane → Lane) : (s.lanewise f h).turn = s.turn := rfl

/-! A write of a scalar -/

@[simp] theorem State.setScl_cycle (s : State) (n : Nat) (x : DWord) : (s.setScl n x).cycle = s.cycle := rfl
@[simp] theorem State.setScl_bundle (s : State) (n : Nat) (x : DWord) : (s.setScl n x).bundle = s.bundle := rfl
@[simp] theorem State.setScl_groups (s : State) (n : Nat) (x : DWord) : (s.setScl n x).groups = s.groups := rfl
@[simp] theorem State.setScl_teams (s : State) (n : Nat) (x : DWord) : (s.setScl n x).teams = s.teams := rfl
@[simp] theorem State.setScl_clusters (s : State) (n : Nat) (x : DWord) : (s.setScl n x).clusters = s.clusters := rfl
@[simp] theorem State.setScl_parked (s : State) (n : Nat) (x : DWord) : (s.setScl n x).parked = s.parked := rfl
@[simp] theorem State.setScl_grids (s : State) (n : Nat) (x : DWord) : (s.setScl n x).grids = s.grids := rfl
@[simp] theorem State.setScl_lslots (s : State) (n : Nat) (x : DWord) : (s.setScl n x).lslots = s.lslots := rfl
@[simp] theorem State.setScl_ctxs (s : State) (n : Nat) (x : DWord) : (s.setScl n x).ctxs = s.ctxs := rfl
@[simp] theorem State.setScl_mem (s : State) (n : Nat) (x : DWord) : (s.setScl n x).mem = s.mem := rfl
@[simp] theorem State.setScl_poison (s : State) (n : Nat) (x : DWord) : (s.setScl n x).poison = s.poison := rfl
@[simp] theorem State.setScl_sources (s : State) (n : Nat) (x : DWord) : (s.setScl n x).sources = s.sources := rfl
@[simp] theorem State.setScl_copies (s : State) (n : Nat) (x : DWord) : (s.setScl n x).copies = s.copies := rfl
@[simp] theorem State.setScl_replicas (s : State) (n : Nat) (x : DWord) : (s.setScl n x).replicas = s.replicas := rfl
@[simp] theorem State.setScl_partials (s : State) (n : Nat) (x : DWord) : (s.setScl n x).partials = s.partials := rfl
@[simp] theorem State.setScl_lines (s : State) (n : Nat) (x : DWord) : (s.setScl n x).lines = s.lines := rfl
@[simp] theorem State.setScl_granules (s : State) (n : Nat) (x : DWord) : (s.setScl n x).granules = s.granules := rfl
@[simp] theorem State.setScl_forwards (s : State) (n : Nat) (x : DWord) : (s.setScl n x).forwards = s.forwards := rfl
@[simp] theorem State.setScl_reqs (s : State) (n : Nat) (x : DWord) : (s.setScl n x).reqs = s.reqs := rfl
@[simp] theorem State.setScl_monitors (s : State) (n : Nat) (x : DWord) : (s.setScl n x).monitors = s.monitors := rfl
@[simp] theorem State.setScl_tlbs (s : State) (n : Nat) (x : DWord) : (s.setScl n x).tlbs = s.tlbs := rfl
@[simp] theorem State.setScl_asked (s : State) (n : Nat) (x : DWord) : (s.setScl n x).asked = s.asked := rfl
@[simp] theorem State.setScl_pwc (s : State) (n : Nat) (x : DWord) : (s.setScl n x).pwc = s.pwc := rfl
@[simp] theorem State.setScl_cores (s : State) (n : Nat) (x : DWord) : (s.setScl n x).cores = s.cores := rfl
@[simp] theorem State.setScl_copyq (s : State) (n : Nat) (x : DWord) : (s.setScl n x).copyq = s.copyq := rfl
@[simp] theorem State.setScl_tasks (s : State) (n : Nat) (x : DWord) : (s.setScl n x).tasks = s.tasks := rfl
@[simp] theorem State.setScl_arrays (s : State) (n : Nat) (x : DWord) : (s.setScl n x).arrays = s.arrays := rfl
@[simp] theorem State.setScl_dies (s : State) (n : Nat) (x : DWord) : (s.setScl n x).dies = s.dies := rfl
@[simp] theorem State.setScl_outer (s : State) (n : Nat) (x : DWord) : (s.setScl n x).outer = s.outer := rfl
@[simp] theorem State.setScl_frecs (s : State) (n : Nat) (x : DWord) : (s.setScl n x).frecs = s.frecs := rfl
@[simp] theorem State.setScl_ecnt (s : State) (n : Nat) (x : DWord) : (s.setScl n x).ecnt = s.ecnt := rfl
@[simp] theorem State.setScl_fcnt (s : State) (n : Nat) (x : DWord) : (s.setScl n x).fcnt = s.fcnt := rfl
@[simp] theorem State.setScl_lookups (s : State) (n : Nat) (x : DWord) : (s.setScl n x).lookups = s.lookups := rfl
@[simp] theorem State.setScl_inserts (s : State) (n : Nat) (x : DWord) : (s.setScl n x).inserts = s.inserts := rfl
@[simp] theorem State.setScl_waiters (s : State) (n : Nat) (x : DWord) : (s.setScl n x).waiters = s.waiters := rfl
@[simp] theorem State.setScl_objs (s : State) (n : Nat) (x : DWord) : (s.setScl n x).objs = s.objs := rfl
@[simp] theorem State.setScl_ocopies (s : State) (n : Nat) (x : DWord) : (s.setScl n x).ocopies = s.ocopies := rfl
@[simp] theorem State.setScl_calls (s : State) (n : Nat) (x : DWord) : (s.setScl n x).calls = s.calls := rfl
@[simp] theorem State.setScl_rops (s : State) (n : Nat) (x : DWord) : (s.setScl n x).rops = s.rops := rfl
@[simp] theorem State.setScl_rmsgs (s : State) (n : Nat) (x : DWord) : (s.setScl n x).rmsgs = s.rmsgs := rfl
@[simp] theorem State.setScl_receipts (s : State) (n : Nat) (x : DWord) : (s.setScl n x).receipts = s.receipts := rfl
@[simp] theorem State.setScl_faults (s : State) (n : Nat) (x : DWord) : (s.setScl n x).faults = s.faults := rfl
@[simp] theorem State.setScl_hub (s : State) (n : Nat) (x : DWord) : (s.setScl n x).hub = s.hub := rfl
@[simp] theorem State.setScl_mgmt (s : State) (n : Nat) (x : DWord) : (s.setScl n x).mgmt = s.mgmt := rfl
@[simp] theorem State.setScl_hostMode (s : State) (n : Nat) (x : DWord) : (s.setScl n x).hostMode = s.hostMode := rfl
@[simp] theorem State.setScl_out (s : State) (n : Nat) (x : DWord) : (s.setScl n x).out = s.out := rfl
@[simp] theorem State.setScl_nextId (s : State) (n : Nat) (x : DWord) : (s.setScl n x).nextId = s.nextId := rfl
@[simp] theorem State.setScl_free (s : State) (n : Nat) (x : DWord) : (s.setScl n x).free = s.free := rfl
@[simp] theorem State.setScl_agenda (s : State) (n : Nat) (x : DWord) : (s.setScl n x).agenda = s.agenda := rfl
@[simp] theorem State.setScl_turn (s : State) (n : Nat) (x : DWord) : (s.setScl n x).turn = s.turn := rfl

/-! A change of one group -/

@[simp] theorem State.onGroup_cycle (s : State) (u : Nat) (f : Group → Group) : (s.onGroup u f).cycle = s.cycle := rfl
@[simp] theorem State.onGroup_bundle (s : State) (u : Nat) (f : Group → Group) : (s.onGroup u f).bundle = s.bundle := rfl
@[simp] theorem State.onGroup_teams (s : State) (u : Nat) (f : Group → Group) : (s.onGroup u f).teams = s.teams := rfl
@[simp] theorem State.onGroup_clusters (s : State) (u : Nat) (f : Group → Group) : (s.onGroup u f).clusters = s.clusters := rfl
@[simp] theorem State.onGroup_parked (s : State) (u : Nat) (f : Group → Group) : (s.onGroup u f).parked = s.parked := rfl
@[simp] theorem State.onGroup_grids (s : State) (u : Nat) (f : Group → Group) : (s.onGroup u f).grids = s.grids := rfl
@[simp] theorem State.onGroup_lslots (s : State) (u : Nat) (f : Group → Group) : (s.onGroup u f).lslots = s.lslots := rfl
@[simp] theorem State.onGroup_ctxs (s : State) (u : Nat) (f : Group → Group) : (s.onGroup u f).ctxs = s.ctxs := rfl
@[simp] theorem State.onGroup_mem (s : State) (u : Nat) (f : Group → Group) : (s.onGroup u f).mem = s.mem := rfl
@[simp] theorem State.onGroup_poison (s : State) (u : Nat) (f : Group → Group) : (s.onGroup u f).poison = s.poison := rfl
@[simp] theorem State.onGroup_sources (s : State) (u : Nat) (f : Group → Group) : (s.onGroup u f).sources = s.sources := rfl
@[simp] theorem State.onGroup_copies (s : State) (u : Nat) (f : Group → Group) : (s.onGroup u f).copies = s.copies := rfl
@[simp] theorem State.onGroup_replicas (s : State) (u : Nat) (f : Group → Group) : (s.onGroup u f).replicas = s.replicas := rfl
@[simp] theorem State.onGroup_partials (s : State) (u : Nat) (f : Group → Group) : (s.onGroup u f).partials = s.partials := rfl
@[simp] theorem State.onGroup_lines (s : State) (u : Nat) (f : Group → Group) : (s.onGroup u f).lines = s.lines := rfl
@[simp] theorem State.onGroup_granules (s : State) (u : Nat) (f : Group → Group) : (s.onGroup u f).granules = s.granules := rfl
@[simp] theorem State.onGroup_forwards (s : State) (u : Nat) (f : Group → Group) : (s.onGroup u f).forwards = s.forwards := rfl
@[simp] theorem State.onGroup_reqs (s : State) (u : Nat) (f : Group → Group) : (s.onGroup u f).reqs = s.reqs := rfl
@[simp] theorem State.onGroup_monitors (s : State) (u : Nat) (f : Group → Group) : (s.onGroup u f).monitors = s.monitors := rfl
@[simp] theorem State.onGroup_tlbs (s : State) (u : Nat) (f : Group → Group) : (s.onGroup u f).tlbs = s.tlbs := rfl
@[simp] theorem State.onGroup_asked (s : State) (u : Nat) (f : Group → Group) : (s.onGroup u f).asked = s.asked := rfl
@[simp] theorem State.onGroup_pwc (s : State) (u : Nat) (f : Group → Group) : (s.onGroup u f).pwc = s.pwc := rfl
@[simp] theorem State.onGroup_cores (s : State) (u : Nat) (f : Group → Group) : (s.onGroup u f).cores = s.cores := rfl
@[simp] theorem State.onGroup_copyq (s : State) (u : Nat) (f : Group → Group) : (s.onGroup u f).copyq = s.copyq := rfl
@[simp] theorem State.onGroup_tasks (s : State) (u : Nat) (f : Group → Group) : (s.onGroup u f).tasks = s.tasks := rfl
@[simp] theorem State.onGroup_arrays (s : State) (u : Nat) (f : Group → Group) : (s.onGroup u f).arrays = s.arrays := rfl
@[simp] theorem State.onGroup_dies (s : State) (u : Nat) (f : Group → Group) : (s.onGroup u f).dies = s.dies := rfl
@[simp] theorem State.onGroup_outer (s : State) (u : Nat) (f : Group → Group) : (s.onGroup u f).outer = s.outer := rfl
@[simp] theorem State.onGroup_frecs (s : State) (u : Nat) (f : Group → Group) : (s.onGroup u f).frecs = s.frecs := rfl
@[simp] theorem State.onGroup_ecnt (s : State) (u : Nat) (f : Group → Group) : (s.onGroup u f).ecnt = s.ecnt := rfl
@[simp] theorem State.onGroup_fcnt (s : State) (u : Nat) (f : Group → Group) : (s.onGroup u f).fcnt = s.fcnt := rfl
@[simp] theorem State.onGroup_lookups (s : State) (u : Nat) (f : Group → Group) : (s.onGroup u f).lookups = s.lookups := rfl
@[simp] theorem State.onGroup_inserts (s : State) (u : Nat) (f : Group → Group) : (s.onGroup u f).inserts = s.inserts := rfl
@[simp] theorem State.onGroup_waiters (s : State) (u : Nat) (f : Group → Group) : (s.onGroup u f).waiters = s.waiters := rfl
@[simp] theorem State.onGroup_objs (s : State) (u : Nat) (f : Group → Group) : (s.onGroup u f).objs = s.objs := rfl
@[simp] theorem State.onGroup_ocopies (s : State) (u : Nat) (f : Group → Group) : (s.onGroup u f).ocopies = s.ocopies := rfl
@[simp] theorem State.onGroup_calls (s : State) (u : Nat) (f : Group → Group) : (s.onGroup u f).calls = s.calls := rfl
@[simp] theorem State.onGroup_rops (s : State) (u : Nat) (f : Group → Group) : (s.onGroup u f).rops = s.rops := rfl
@[simp] theorem State.onGroup_rmsgs (s : State) (u : Nat) (f : Group → Group) : (s.onGroup u f).rmsgs = s.rmsgs := rfl
@[simp] theorem State.onGroup_receipts (s : State) (u : Nat) (f : Group → Group) : (s.onGroup u f).receipts = s.receipts := rfl
@[simp] theorem State.onGroup_faults (s : State) (u : Nat) (f : Group → Group) : (s.onGroup u f).faults = s.faults := rfl
@[simp] theorem State.onGroup_hub (s : State) (u : Nat) (f : Group → Group) : (s.onGroup u f).hub = s.hub := rfl
@[simp] theorem State.onGroup_mgmt (s : State) (u : Nat) (f : Group → Group) : (s.onGroup u f).mgmt = s.mgmt := rfl
@[simp] theorem State.onGroup_hostMode (s : State) (u : Nat) (f : Group → Group) : (s.onGroup u f).hostMode = s.hostMode := rfl
@[simp] theorem State.onGroup_out (s : State) (u : Nat) (f : Group → Group) : (s.onGroup u f).out = s.out := rfl
@[simp] theorem State.onGroup_nextId (s : State) (u : Nat) (f : Group → Group) : (s.onGroup u f).nextId = s.nextId := rfl
@[simp] theorem State.onGroup_free (s : State) (u : Nat) (f : Group → Group) : (s.onGroup u f).free = s.free := rfl
@[simp] theorem State.onGroup_agenda (s : State) (u : Nat) (f : Group → Group) : (s.onGroup u f).agenda = s.agenda := rfl
@[simp] theorem State.onGroup_turn (s : State) (u : Nat) (f : Group → Group) : (s.onGroup u f).turn = s.turn := rfl

/-! A change of one lane -/

@[simp] theorem State.onLane_cycle (s : State) (u l : Nat) (f : Lane → Lane) : (s.onLane u l f).cycle = s.cycle := rfl
@[simp] theorem State.onLane_bundle (s : State) (u l : Nat) (f : Lane → Lane) : (s.onLane u l f).bundle = s.bundle := rfl
@[simp] theorem State.onLane_teams (s : State) (u l : Nat) (f : Lane → Lane) : (s.onLane u l f).teams = s.teams := rfl
@[simp] theorem State.onLane_clusters (s : State) (u l : Nat) (f : Lane → Lane) : (s.onLane u l f).clusters = s.clusters := rfl
@[simp] theorem State.onLane_parked (s : State) (u l : Nat) (f : Lane → Lane) : (s.onLane u l f).parked = s.parked := rfl
@[simp] theorem State.onLane_grids (s : State) (u l : Nat) (f : Lane → Lane) : (s.onLane u l f).grids = s.grids := rfl
@[simp] theorem State.onLane_lslots (s : State) (u l : Nat) (f : Lane → Lane) : (s.onLane u l f).lslots = s.lslots := rfl
@[simp] theorem State.onLane_ctxs (s : State) (u l : Nat) (f : Lane → Lane) : (s.onLane u l f).ctxs = s.ctxs := rfl
@[simp] theorem State.onLane_mem (s : State) (u l : Nat) (f : Lane → Lane) : (s.onLane u l f).mem = s.mem := rfl
@[simp] theorem State.onLane_poison (s : State) (u l : Nat) (f : Lane → Lane) : (s.onLane u l f).poison = s.poison := rfl
@[simp] theorem State.onLane_sources (s : State) (u l : Nat) (f : Lane → Lane) : (s.onLane u l f).sources = s.sources := rfl
@[simp] theorem State.onLane_copies (s : State) (u l : Nat) (f : Lane → Lane) : (s.onLane u l f).copies = s.copies := rfl
@[simp] theorem State.onLane_replicas (s : State) (u l : Nat) (f : Lane → Lane) : (s.onLane u l f).replicas = s.replicas := rfl
@[simp] theorem State.onLane_partials (s : State) (u l : Nat) (f : Lane → Lane) : (s.onLane u l f).partials = s.partials := rfl
@[simp] theorem State.onLane_lines (s : State) (u l : Nat) (f : Lane → Lane) : (s.onLane u l f).lines = s.lines := rfl
@[simp] theorem State.onLane_granules (s : State) (u l : Nat) (f : Lane → Lane) : (s.onLane u l f).granules = s.granules := rfl
@[simp] theorem State.onLane_forwards (s : State) (u l : Nat) (f : Lane → Lane) : (s.onLane u l f).forwards = s.forwards := rfl
@[simp] theorem State.onLane_reqs (s : State) (u l : Nat) (f : Lane → Lane) : (s.onLane u l f).reqs = s.reqs := rfl
@[simp] theorem State.onLane_monitors (s : State) (u l : Nat) (f : Lane → Lane) : (s.onLane u l f).monitors = s.monitors := rfl
@[simp] theorem State.onLane_tlbs (s : State) (u l : Nat) (f : Lane → Lane) : (s.onLane u l f).tlbs = s.tlbs := rfl
@[simp] theorem State.onLane_asked (s : State) (u l : Nat) (f : Lane → Lane) : (s.onLane u l f).asked = s.asked := rfl
@[simp] theorem State.onLane_pwc (s : State) (u l : Nat) (f : Lane → Lane) : (s.onLane u l f).pwc = s.pwc := rfl
@[simp] theorem State.onLane_cores (s : State) (u l : Nat) (f : Lane → Lane) : (s.onLane u l f).cores = s.cores := rfl
@[simp] theorem State.onLane_copyq (s : State) (u l : Nat) (f : Lane → Lane) : (s.onLane u l f).copyq = s.copyq := rfl
@[simp] theorem State.onLane_tasks (s : State) (u l : Nat) (f : Lane → Lane) : (s.onLane u l f).tasks = s.tasks := rfl
@[simp] theorem State.onLane_arrays (s : State) (u l : Nat) (f : Lane → Lane) : (s.onLane u l f).arrays = s.arrays := rfl
@[simp] theorem State.onLane_dies (s : State) (u l : Nat) (f : Lane → Lane) : (s.onLane u l f).dies = s.dies := rfl
@[simp] theorem State.onLane_outer (s : State) (u l : Nat) (f : Lane → Lane) : (s.onLane u l f).outer = s.outer := rfl
@[simp] theorem State.onLane_frecs (s : State) (u l : Nat) (f : Lane → Lane) : (s.onLane u l f).frecs = s.frecs := rfl
@[simp] theorem State.onLane_ecnt (s : State) (u l : Nat) (f : Lane → Lane) : (s.onLane u l f).ecnt = s.ecnt := rfl
@[simp] theorem State.onLane_fcnt (s : State) (u l : Nat) (f : Lane → Lane) : (s.onLane u l f).fcnt = s.fcnt := rfl
@[simp] theorem State.onLane_lookups (s : State) (u l : Nat) (f : Lane → Lane) : (s.onLane u l f).lookups = s.lookups := rfl
@[simp] theorem State.onLane_inserts (s : State) (u l : Nat) (f : Lane → Lane) : (s.onLane u l f).inserts = s.inserts := rfl
@[simp] theorem State.onLane_waiters (s : State) (u l : Nat) (f : Lane → Lane) : (s.onLane u l f).waiters = s.waiters := rfl
@[simp] theorem State.onLane_objs (s : State) (u l : Nat) (f : Lane → Lane) : (s.onLane u l f).objs = s.objs := rfl
@[simp] theorem State.onLane_ocopies (s : State) (u l : Nat) (f : Lane → Lane) : (s.onLane u l f).ocopies = s.ocopies := rfl
@[simp] theorem State.onLane_calls (s : State) (u l : Nat) (f : Lane → Lane) : (s.onLane u l f).calls = s.calls := rfl
@[simp] theorem State.onLane_rops (s : State) (u l : Nat) (f : Lane → Lane) : (s.onLane u l f).rops = s.rops := rfl
@[simp] theorem State.onLane_rmsgs (s : State) (u l : Nat) (f : Lane → Lane) : (s.onLane u l f).rmsgs = s.rmsgs := rfl
@[simp] theorem State.onLane_receipts (s : State) (u l : Nat) (f : Lane → Lane) : (s.onLane u l f).receipts = s.receipts := rfl
@[simp] theorem State.onLane_faults (s : State) (u l : Nat) (f : Lane → Lane) : (s.onLane u l f).faults = s.faults := rfl
@[simp] theorem State.onLane_hub (s : State) (u l : Nat) (f : Lane → Lane) : (s.onLane u l f).hub = s.hub := rfl
@[simp] theorem State.onLane_mgmt (s : State) (u l : Nat) (f : Lane → Lane) : (s.onLane u l f).mgmt = s.mgmt := rfl
@[simp] theorem State.onLane_hostMode (s : State) (u l : Nat) (f : Lane → Lane) : (s.onLane u l f).hostMode = s.hostMode := rfl
@[simp] theorem State.onLane_out (s : State) (u l : Nat) (f : Lane → Lane) : (s.onLane u l f).out = s.out := rfl
@[simp] theorem State.onLane_nextId (s : State) (u l : Nat) (f : Lane → Lane) : (s.onLane u l f).nextId = s.nextId := rfl
@[simp] theorem State.onLane_free (s : State) (u l : Nat) (f : Lane → Lane) : (s.onLane u l f).free = s.free := rfl
@[simp] theorem State.onLane_agenda (s : State) (u l : Nat) (f : Lane → Lane) : (s.onLane u l f).agenda = s.agenda := rfl
@[simp] theorem State.onLane_turn (s : State) (u l : Nat) (f : Lane → Lane) : (s.onLane u l f).turn = s.turn := rfl

/-! A change of one team -/

@[simp] theorem State.onTeam_cycle (s : State) (u : Nat) (f : Team → Team) : (s.onTeam u f).cycle = s.cycle := rfl
@[simp] theorem State.onTeam_grp (s : State) (u : Nat) (f : Team → Team) : (s.onTeam u f).grp = s.grp := rfl
@[simp] theorem State.onTeam_bundle (s : State) (u : Nat) (f : Team → Team) : (s.onTeam u f).bundle = s.bundle := rfl
@[simp] theorem State.onTeam_groups (s : State) (u : Nat) (f : Team → Team) : (s.onTeam u f).groups = s.groups := rfl
@[simp] theorem State.onTeam_clusters (s : State) (u : Nat) (f : Team → Team) : (s.onTeam u f).clusters = s.clusters := rfl
@[simp] theorem State.onTeam_parked (s : State) (u : Nat) (f : Team → Team) : (s.onTeam u f).parked = s.parked := rfl
@[simp] theorem State.onTeam_grids (s : State) (u : Nat) (f : Team → Team) : (s.onTeam u f).grids = s.grids := rfl
@[simp] theorem State.onTeam_lslots (s : State) (u : Nat) (f : Team → Team) : (s.onTeam u f).lslots = s.lslots := rfl
@[simp] theorem State.onTeam_ctxs (s : State) (u : Nat) (f : Team → Team) : (s.onTeam u f).ctxs = s.ctxs := rfl
@[simp] theorem State.onTeam_mem (s : State) (u : Nat) (f : Team → Team) : (s.onTeam u f).mem = s.mem := rfl
@[simp] theorem State.onTeam_poison (s : State) (u : Nat) (f : Team → Team) : (s.onTeam u f).poison = s.poison := rfl
@[simp] theorem State.onTeam_sources (s : State) (u : Nat) (f : Team → Team) : (s.onTeam u f).sources = s.sources := rfl
@[simp] theorem State.onTeam_copies (s : State) (u : Nat) (f : Team → Team) : (s.onTeam u f).copies = s.copies := rfl
@[simp] theorem State.onTeam_replicas (s : State) (u : Nat) (f : Team → Team) : (s.onTeam u f).replicas = s.replicas := rfl
@[simp] theorem State.onTeam_partials (s : State) (u : Nat) (f : Team → Team) : (s.onTeam u f).partials = s.partials := rfl
@[simp] theorem State.onTeam_lines (s : State) (u : Nat) (f : Team → Team) : (s.onTeam u f).lines = s.lines := rfl
@[simp] theorem State.onTeam_granules (s : State) (u : Nat) (f : Team → Team) : (s.onTeam u f).granules = s.granules := rfl
@[simp] theorem State.onTeam_forwards (s : State) (u : Nat) (f : Team → Team) : (s.onTeam u f).forwards = s.forwards := rfl
@[simp] theorem State.onTeam_reqs (s : State) (u : Nat) (f : Team → Team) : (s.onTeam u f).reqs = s.reqs := rfl
@[simp] theorem State.onTeam_monitors (s : State) (u : Nat) (f : Team → Team) : (s.onTeam u f).monitors = s.monitors := rfl
@[simp] theorem State.onTeam_tlbs (s : State) (u : Nat) (f : Team → Team) : (s.onTeam u f).tlbs = s.tlbs := rfl
@[simp] theorem State.onTeam_asked (s : State) (u : Nat) (f : Team → Team) : (s.onTeam u f).asked = s.asked := rfl
@[simp] theorem State.onTeam_pwc (s : State) (u : Nat) (f : Team → Team) : (s.onTeam u f).pwc = s.pwc := rfl
@[simp] theorem State.onTeam_cores (s : State) (u : Nat) (f : Team → Team) : (s.onTeam u f).cores = s.cores := rfl
@[simp] theorem State.onTeam_copyq (s : State) (u : Nat) (f : Team → Team) : (s.onTeam u f).copyq = s.copyq := rfl
@[simp] theorem State.onTeam_tasks (s : State) (u : Nat) (f : Team → Team) : (s.onTeam u f).tasks = s.tasks := rfl
@[simp] theorem State.onTeam_arrays (s : State) (u : Nat) (f : Team → Team) : (s.onTeam u f).arrays = s.arrays := rfl
@[simp] theorem State.onTeam_dies (s : State) (u : Nat) (f : Team → Team) : (s.onTeam u f).dies = s.dies := rfl
@[simp] theorem State.onTeam_outer (s : State) (u : Nat) (f : Team → Team) : (s.onTeam u f).outer = s.outer := rfl
@[simp] theorem State.onTeam_frecs (s : State) (u : Nat) (f : Team → Team) : (s.onTeam u f).frecs = s.frecs := rfl
@[simp] theorem State.onTeam_ecnt (s : State) (u : Nat) (f : Team → Team) : (s.onTeam u f).ecnt = s.ecnt := rfl
@[simp] theorem State.onTeam_fcnt (s : State) (u : Nat) (f : Team → Team) : (s.onTeam u f).fcnt = s.fcnt := rfl
@[simp] theorem State.onTeam_lookups (s : State) (u : Nat) (f : Team → Team) : (s.onTeam u f).lookups = s.lookups := rfl
@[simp] theorem State.onTeam_inserts (s : State) (u : Nat) (f : Team → Team) : (s.onTeam u f).inserts = s.inserts := rfl
@[simp] theorem State.onTeam_waiters (s : State) (u : Nat) (f : Team → Team) : (s.onTeam u f).waiters = s.waiters := rfl
@[simp] theorem State.onTeam_objs (s : State) (u : Nat) (f : Team → Team) : (s.onTeam u f).objs = s.objs := rfl
@[simp] theorem State.onTeam_ocopies (s : State) (u : Nat) (f : Team → Team) : (s.onTeam u f).ocopies = s.ocopies := rfl
@[simp] theorem State.onTeam_calls (s : State) (u : Nat) (f : Team → Team) : (s.onTeam u f).calls = s.calls := rfl
@[simp] theorem State.onTeam_rops (s : State) (u : Nat) (f : Team → Team) : (s.onTeam u f).rops = s.rops := rfl
@[simp] theorem State.onTeam_rmsgs (s : State) (u : Nat) (f : Team → Team) : (s.onTeam u f).rmsgs = s.rmsgs := rfl
@[simp] theorem State.onTeam_receipts (s : State) (u : Nat) (f : Team → Team) : (s.onTeam u f).receipts = s.receipts := rfl
@[simp] theorem State.onTeam_faults (s : State) (u : Nat) (f : Team → Team) : (s.onTeam u f).faults = s.faults := rfl
@[simp] theorem State.onTeam_hub (s : State) (u : Nat) (f : Team → Team) : (s.onTeam u f).hub = s.hub := rfl
@[simp] theorem State.onTeam_mgmt (s : State) (u : Nat) (f : Team → Team) : (s.onTeam u f).mgmt = s.mgmt := rfl
@[simp] theorem State.onTeam_hostMode (s : State) (u : Nat) (f : Team → Team) : (s.onTeam u f).hostMode = s.hostMode := rfl
@[simp] theorem State.onTeam_out (s : State) (u : Nat) (f : Team → Team) : (s.onTeam u f).out = s.out := rfl
@[simp] theorem State.onTeam_nextId (s : State) (u : Nat) (f : Team → Team) : (s.onTeam u f).nextId = s.nextId := rfl
@[simp] theorem State.onTeam_free (s : State) (u : Nat) (f : Team → Team) : (s.onTeam u f).free = s.free := rfl
@[simp] theorem State.onTeam_agenda (s : State) (u : Nat) (f : Team → Team) : (s.onTeam u f).agenda = s.agenda := rfl
@[simp] theorem State.onTeam_turn (s : State) (u : Nat) (f : Team → Team) : (s.onTeam u f).turn = s.turn := rfl

/-! A change of one die -/

@[simp] theorem State.onDie_cycle (s : State) (d : Nat) (f : Die → Die) : (s.onDie d f).cycle = s.cycle := rfl
@[simp] theorem State.onDie_grp (s : State) (d : Nat) (f : Die → Die) : (s.onDie d f).grp = s.grp := rfl
@[simp] theorem State.onDie_bundle (s : State) (d : Nat) (f : Die → Die) : (s.onDie d f).bundle = s.bundle := rfl
@[simp] theorem State.onDie_groups (s : State) (d : Nat) (f : Die → Die) : (s.onDie d f).groups = s.groups := rfl
@[simp] theorem State.onDie_teams (s : State) (d : Nat) (f : Die → Die) : (s.onDie d f).teams = s.teams := rfl
@[simp] theorem State.onDie_clusters (s : State) (d : Nat) (f : Die → Die) : (s.onDie d f).clusters = s.clusters := rfl
@[simp] theorem State.onDie_parked (s : State) (d : Nat) (f : Die → Die) : (s.onDie d f).parked = s.parked := rfl
@[simp] theorem State.onDie_grids (s : State) (d : Nat) (f : Die → Die) : (s.onDie d f).grids = s.grids := rfl
@[simp] theorem State.onDie_lslots (s : State) (d : Nat) (f : Die → Die) : (s.onDie d f).lslots = s.lslots := rfl
@[simp] theorem State.onDie_ctxs (s : State) (d : Nat) (f : Die → Die) : (s.onDie d f).ctxs = s.ctxs := rfl
@[simp] theorem State.onDie_mem (s : State) (d : Nat) (f : Die → Die) : (s.onDie d f).mem = s.mem := rfl
@[simp] theorem State.onDie_poison (s : State) (d : Nat) (f : Die → Die) : (s.onDie d f).poison = s.poison := rfl
@[simp] theorem State.onDie_sources (s : State) (d : Nat) (f : Die → Die) : (s.onDie d f).sources = s.sources := rfl
@[simp] theorem State.onDie_copies (s : State) (d : Nat) (f : Die → Die) : (s.onDie d f).copies = s.copies := rfl
@[simp] theorem State.onDie_replicas (s : State) (d : Nat) (f : Die → Die) : (s.onDie d f).replicas = s.replicas := rfl
@[simp] theorem State.onDie_partials (s : State) (d : Nat) (f : Die → Die) : (s.onDie d f).partials = s.partials := rfl
@[simp] theorem State.onDie_lines (s : State) (d : Nat) (f : Die → Die) : (s.onDie d f).lines = s.lines := rfl
@[simp] theorem State.onDie_granules (s : State) (d : Nat) (f : Die → Die) : (s.onDie d f).granules = s.granules := rfl
@[simp] theorem State.onDie_forwards (s : State) (d : Nat) (f : Die → Die) : (s.onDie d f).forwards = s.forwards := rfl
@[simp] theorem State.onDie_reqs (s : State) (d : Nat) (f : Die → Die) : (s.onDie d f).reqs = s.reqs := rfl
@[simp] theorem State.onDie_monitors (s : State) (d : Nat) (f : Die → Die) : (s.onDie d f).monitors = s.monitors := rfl
@[simp] theorem State.onDie_tlbs (s : State) (d : Nat) (f : Die → Die) : (s.onDie d f).tlbs = s.tlbs := rfl
@[simp] theorem State.onDie_asked (s : State) (d : Nat) (f : Die → Die) : (s.onDie d f).asked = s.asked := rfl
@[simp] theorem State.onDie_pwc (s : State) (d : Nat) (f : Die → Die) : (s.onDie d f).pwc = s.pwc := rfl
@[simp] theorem State.onDie_cores (s : State) (d : Nat) (f : Die → Die) : (s.onDie d f).cores = s.cores := rfl
@[simp] theorem State.onDie_copyq (s : State) (d : Nat) (f : Die → Die) : (s.onDie d f).copyq = s.copyq := rfl
@[simp] theorem State.onDie_tasks (s : State) (d : Nat) (f : Die → Die) : (s.onDie d f).tasks = s.tasks := rfl
@[simp] theorem State.onDie_arrays (s : State) (d : Nat) (f : Die → Die) : (s.onDie d f).arrays = s.arrays := rfl
@[simp] theorem State.onDie_outer (s : State) (d : Nat) (f : Die → Die) : (s.onDie d f).outer = s.outer := rfl
@[simp] theorem State.onDie_frecs (s : State) (d : Nat) (f : Die → Die) : (s.onDie d f).frecs = s.frecs := rfl
@[simp] theorem State.onDie_ecnt (s : State) (d : Nat) (f : Die → Die) : (s.onDie d f).ecnt = s.ecnt := rfl
@[simp] theorem State.onDie_fcnt (s : State) (d : Nat) (f : Die → Die) : (s.onDie d f).fcnt = s.fcnt := rfl
@[simp] theorem State.onDie_lookups (s : State) (d : Nat) (f : Die → Die) : (s.onDie d f).lookups = s.lookups := rfl
@[simp] theorem State.onDie_inserts (s : State) (d : Nat) (f : Die → Die) : (s.onDie d f).inserts = s.inserts := rfl
@[simp] theorem State.onDie_waiters (s : State) (d : Nat) (f : Die → Die) : (s.onDie d f).waiters = s.waiters := rfl
@[simp] theorem State.onDie_objs (s : State) (d : Nat) (f : Die → Die) : (s.onDie d f).objs = s.objs := rfl
@[simp] theorem State.onDie_ocopies (s : State) (d : Nat) (f : Die → Die) : (s.onDie d f).ocopies = s.ocopies := rfl
@[simp] theorem State.onDie_calls (s : State) (d : Nat) (f : Die → Die) : (s.onDie d f).calls = s.calls := rfl
@[simp] theorem State.onDie_rops (s : State) (d : Nat) (f : Die → Die) : (s.onDie d f).rops = s.rops := rfl
@[simp] theorem State.onDie_rmsgs (s : State) (d : Nat) (f : Die → Die) : (s.onDie d f).rmsgs = s.rmsgs := rfl
@[simp] theorem State.onDie_receipts (s : State) (d : Nat) (f : Die → Die) : (s.onDie d f).receipts = s.receipts := rfl
@[simp] theorem State.onDie_faults (s : State) (d : Nat) (f : Die → Die) : (s.onDie d f).faults = s.faults := rfl
@[simp] theorem State.onDie_hub (s : State) (d : Nat) (f : Die → Die) : (s.onDie d f).hub = s.hub := rfl
@[simp] theorem State.onDie_mgmt (s : State) (d : Nat) (f : Die → Die) : (s.onDie d f).mgmt = s.mgmt := rfl
@[simp] theorem State.onDie_hostMode (s : State) (d : Nat) (f : Die → Die) : (s.onDie d f).hostMode = s.hostMode := rfl
@[simp] theorem State.onDie_out (s : State) (d : Nat) (f : Die → Die) : (s.onDie d f).out = s.out := rfl
@[simp] theorem State.onDie_nextId (s : State) (d : Nat) (f : Die → Die) : (s.onDie d f).nextId = s.nextId := rfl
@[simp] theorem State.onDie_free (s : State) (d : Nat) (f : Die → Die) : (s.onDie d f).free = s.free := rfl
@[simp] theorem State.onDie_agenda (s : State) (d : Nat) (f : Die → Die) : (s.onDie d f).agenda = s.agenda := rfl
@[simp] theorem State.onDie_turn (s : State) (d : Nat) (f : Die → Die) : (s.onDie d f).turn = s.turn := rfl

@[simp] theorem State.onLanes_grp_uid (s : State) (f : Nat → Lane → Lane) : (s.onLanes f).grp.uid = s.grp.uid := rfl
@[simp] theorem State.onLanes_grp_team (s : State) (f : Nat → Lane → Lane) : (s.onLanes f).grp.team = s.grp.team := rfl
@[simp] theorem State.onLanes_grp_gid (s : State) (f : Nat → Lane → Lane) : (s.onLanes f).grp.gid = s.grp.gid := rfl
@[simp] theorem State.onLanes_grp_bench (s : State) (f : Nat → Lane → Lane) : (s.onLanes f).grp.bench = s.grp.bench := rfl
@[simp] theorem State.onLanes_grp_slot (s : State) (f : Nat → Lane → Lane) : (s.onLanes f).grp.slot = s.grp.slot := rfl
@[simp] theorem State.onLanes_grp_order (s : State) (f : Nat → Lane → Lane) : (s.onLanes f).grp.order = s.grp.order := rfl
@[simp] theorem State.onLanes_grp_width (s : State) (f : Nat → Lane → Lane) : (s.onLanes f).grp.width = s.grp.width := rfl
@[simp] theorem State.onLanes_grp_vcount (s : State) (f : Nat → Lane → Lane) : (s.onLanes f).grp.vcount = s.grp.vcount := rfl
@[simp] theorem State.onLanes_grp_s (s : State) (f : Nat → Lane → Lane) : (s.onLanes f).grp.s = s.grp.s := rfl
@[simp] theorem State.onLanes_grp_pendS (s : State) (f : Nat → Lane → Lane) : (s.onLanes f).grp.pendS = s.grp.pendS := rfl
@[simp] theorem State.onLanes_grp_markedS (s : State) (f : Nat → Lane → Lane) : (s.onLanes f).grp.markedS = s.grp.markedS := rfl
@[simp] theorem State.onLanes_grp_fmode (s : State) (f : Nat → Lane → Lane) : (s.onLanes f).grp.fmode = s.grp.fmode := rfl
@[simp] theorem State.onLanes_grp_jointo (s : State) (f : Nat → Lane → Lane) : (s.onLanes f).grp.jointo = s.grp.jointo := rfl
@[simp] theorem State.onLanes_grp_sseed (s : State) (f : Nat → Lane → Lane) : (s.onLanes f).grp.sseed = s.grp.sseed := rfl
@[simp] theorem State.onLanes_grp_trapen (s : State) (f : Nat → Lane → Lane) : (s.onLanes f).grp.trapen = s.grp.trapen := rfl
@[simp] theorem State.onLanes_grp_trapv (s : State) (f : Nat → Lane → Lane) : (s.onLanes f).grp.trapv = s.grp.trapv := rfl
@[simp] theorem State.onLanes_grp_tpc (s : State) (f : Nat → Lane → Lane) : (s.onLanes f).grp.tpc = s.grp.tpc := rfl
@[simp] theorem State.onLanes_grp_tfpc (s : State) (f : Nat → Lane → Lane) : (s.onLanes f).grp.tfpc = s.grp.tfpc := rfl
@[simp] theorem State.onLanes_grp_tmask (s : State) (f : Nat → Lane → Lane) : (s.onLanes f).grp.tmask = s.grp.tmask := rfl
@[simp] theorem State.onLanes_grp_tmaskhi (s : State) (f : Nat → Lane → Lane) : (s.onLanes f).grp.tmaskhi = s.grp.tmaskhi := rfl
@[simp] theorem State.onLanes_grp_tcause (s : State) (f : Nat → Lane → Lane) : (s.onLanes f).grp.tcause = s.grp.tcause := rfl
@[simp] theorem State.onLanes_grp_tdst (s : State) (f : Nat → Lane → Lane) : (s.onLanes f).grp.tdst = s.grp.tdst := rfl
@[simp] theorem State.onLanes_grp_utrap (s : State) (f : Nat → Lane → Lane) : (s.onLanes f).grp.utrap = s.grp.utrap := rfl
@[simp] theorem State.onLanes_grp_wct (s : State) (f : Nat → Lane → Lane) : (s.onLanes f).grp.wct = s.grp.wct := rfl
@[simp] theorem State.onLanes_grp_ops (s : State) (f : Nat → Lane → Lane) : (s.onLanes f).grp.ops = s.grp.ops := rfl
@[simp] theorem State.onLanes_grp_eps (s : State) (f : Nat → Lane → Lane) : (s.onLanes f).grp.eps = s.grp.eps := rfl
@[simp] theorem State.onLanes_grp_rels (s : State) (f : Nat → Lane → Lane) : (s.onLanes f).grp.rels = s.grp.rels := rfl
@[simp] theorem State.onLanes_grp_pcause (s : State) (f : Nat → Lane → Lane) : (s.onLanes f).grp.pcause = s.grp.pcause := rfl
@[simp] theorem State.onLanes_grp_ctxrec (s : State) (f : Nat → Lane → Lane) : (s.onLanes f).grp.ctxrec = s.grp.ctxrec := rfl
@[simp] theorem State.onLanes_grp_pscr (s : State) (f : Nat → Lane → Lane) : (s.onLanes f).grp.pscr = s.grp.pscr := rfl
@[simp] theorem State.onLanes_grp_since (s : State) (f : Nat → Lane → Lane) : (s.onLanes f).grp.since = s.grp.since := rfl
@[simp] theorem State.onLanes_grp_yieldTo (s : State) (f : Nat → Lane → Lane) : (s.onLanes f).grp.yieldTo = s.grp.yieldTo := rfl
@[simp] theorem State.onLanes_grp_preempt (s : State) (f : Nat → Lane → Lane) : (s.onLanes f).grp.preempt = s.grp.preempt := rfl
@[simp] theorem State.onLanes_grp_aside (s : State) (f : Nat → Lane → Lane) : (s.onLanes f).grp.aside = s.grp.aside := rfl
@[simp] theorem State.onLanes_grp_isParked (s : State) (f : Nat → Lane → Lane) : (s.onLanes f).grp.isParked = s.grp.isParked := rfl
@[simp] theorem State.onLanes_grp_withdrawn (s : State) (f : Nat → Lane → Lane) : (s.onLanes f).grp.withdrawn = s.grp.withdrawn := rfl
@[simp] theorem State.onLanes_grp_method (s : State) (f : Nat → Lane → Lane) : (s.onLanes f).grp.method = s.grp.method := rfl
@[simp] theorem State.onLanes_grp_logged (s : State) (f : Nat → Lane → Lane) : (s.onLanes f).grp.logged = s.grp.logged := rfl
@[simp] theorem State.onLanes_grp_log (s : State) (f : Nat → Lane → Lane) : (s.onLanes f).grp.log = s.grp.log := rfl
@[simp] theorem State.onLanes_grp_lvq (s : State) (f : Nat → Lane → Lane) : (s.onLanes f).grp.lvq = s.grp.lvq := rfl
@[simp] theorem State.onLanes_grp_scb (s : State) (f : Nat → Lane → Lane) : (s.onLanes f).grp.scb = s.grp.scb := rfl
@[simp] theorem State.onLanes_grp_hurt (s : State) (f : Nat → Lane → Lane) : (s.onLanes f).grp.hurt = s.grp.hurt := rfl
@[simp] theorem State.onLanes_grp_held (s : State) (f : Nat → Lane → Lane) : (s.onLanes f).grp.held = s.grp.held := rfl
@[simp] theorem State.onLanes_grp_marks (s : State) (f : Nat → Lane → Lane) : (s.onLanes f).grp.marks = s.grp.marks := rfl

@[simp] theorem State.advance_grp_uid (s : State) (len : Nat) : (s.advance len).grp.uid = s.grp.uid := rfl
@[simp] theorem State.advance_grp_team (s : State) (len : Nat) : (s.advance len).grp.team = s.grp.team := rfl
@[simp] theorem State.advance_grp_gid (s : State) (len : Nat) : (s.advance len).grp.gid = s.grp.gid := rfl
@[simp] theorem State.advance_grp_bench (s : State) (len : Nat) : (s.advance len).grp.bench = s.grp.bench := rfl
@[simp] theorem State.advance_grp_slot (s : State) (len : Nat) : (s.advance len).grp.slot = s.grp.slot := rfl
@[simp] theorem State.advance_grp_order (s : State) (len : Nat) : (s.advance len).grp.order = s.grp.order := rfl
@[simp] theorem State.advance_grp_width (s : State) (len : Nat) : (s.advance len).grp.width = s.grp.width := rfl
@[simp] theorem State.advance_grp_vcount (s : State) (len : Nat) : (s.advance len).grp.vcount = s.grp.vcount := rfl
@[simp] theorem State.advance_grp_s (s : State) (len : Nat) : (s.advance len).grp.s = s.grp.s := rfl
@[simp] theorem State.advance_grp_pendS (s : State) (len : Nat) : (s.advance len).grp.pendS = s.grp.pendS := rfl
@[simp] theorem State.advance_grp_markedS (s : State) (len : Nat) : (s.advance len).grp.markedS = s.grp.markedS := rfl
@[simp] theorem State.advance_grp_fmode (s : State) (len : Nat) : (s.advance len).grp.fmode = s.grp.fmode := rfl
@[simp] theorem State.advance_grp_jointo (s : State) (len : Nat) : (s.advance len).grp.jointo = s.grp.jointo := rfl
@[simp] theorem State.advance_grp_sseed (s : State) (len : Nat) : (s.advance len).grp.sseed = s.grp.sseed := rfl
@[simp] theorem State.advance_grp_trapen (s : State) (len : Nat) : (s.advance len).grp.trapen = s.grp.trapen := rfl
@[simp] theorem State.advance_grp_trapv (s : State) (len : Nat) : (s.advance len).grp.trapv = s.grp.trapv := rfl
@[simp] theorem State.advance_grp_tpc (s : State) (len : Nat) : (s.advance len).grp.tpc = s.grp.tpc := rfl
@[simp] theorem State.advance_grp_tfpc (s : State) (len : Nat) : (s.advance len).grp.tfpc = s.grp.tfpc := rfl
@[simp] theorem State.advance_grp_tmask (s : State) (len : Nat) : (s.advance len).grp.tmask = s.grp.tmask := rfl
@[simp] theorem State.advance_grp_tmaskhi (s : State) (len : Nat) : (s.advance len).grp.tmaskhi = s.grp.tmaskhi := rfl
@[simp] theorem State.advance_grp_tcause (s : State) (len : Nat) : (s.advance len).grp.tcause = s.grp.tcause := rfl
@[simp] theorem State.advance_grp_tdst (s : State) (len : Nat) : (s.advance len).grp.tdst = s.grp.tdst := rfl
@[simp] theorem State.advance_grp_utrap (s : State) (len : Nat) : (s.advance len).grp.utrap = s.grp.utrap := rfl
@[simp] theorem State.advance_grp_wct (s : State) (len : Nat) : (s.advance len).grp.wct = s.grp.wct := rfl
@[simp] theorem State.advance_grp_ops (s : State) (len : Nat) : (s.advance len).grp.ops = s.grp.ops := rfl
@[simp] theorem State.advance_grp_eps (s : State) (len : Nat) : (s.advance len).grp.eps = s.grp.eps := rfl
@[simp] theorem State.advance_grp_rels (s : State) (len : Nat) : (s.advance len).grp.rels = s.grp.rels := rfl
@[simp] theorem State.advance_grp_pcause (s : State) (len : Nat) : (s.advance len).grp.pcause = s.grp.pcause := rfl
@[simp] theorem State.advance_grp_ctxrec (s : State) (len : Nat) : (s.advance len).grp.ctxrec = s.grp.ctxrec := rfl
@[simp] theorem State.advance_grp_pscr (s : State) (len : Nat) : (s.advance len).grp.pscr = s.grp.pscr := rfl
@[simp] theorem State.advance_grp_since (s : State) (len : Nat) : (s.advance len).grp.since = s.grp.since := rfl
@[simp] theorem State.advance_grp_yieldTo (s : State) (len : Nat) : (s.advance len).grp.yieldTo = s.grp.yieldTo := rfl
@[simp] theorem State.advance_grp_preempt (s : State) (len : Nat) : (s.advance len).grp.preempt = s.grp.preempt := rfl
@[simp] theorem State.advance_grp_aside (s : State) (len : Nat) : (s.advance len).grp.aside = s.grp.aside := rfl
@[simp] theorem State.advance_grp_isParked (s : State) (len : Nat) : (s.advance len).grp.isParked = s.grp.isParked := rfl
@[simp] theorem State.advance_grp_withdrawn (s : State) (len : Nat) : (s.advance len).grp.withdrawn = s.grp.withdrawn := rfl
@[simp] theorem State.advance_grp_method (s : State) (len : Nat) : (s.advance len).grp.method = s.grp.method := rfl
@[simp] theorem State.advance_grp_logged (s : State) (len : Nat) : (s.advance len).grp.logged = s.grp.logged := rfl
@[simp] theorem State.advance_grp_log (s : State) (len : Nat) : (s.advance len).grp.log = s.grp.log := rfl
@[simp] theorem State.advance_grp_lvq (s : State) (len : Nat) : (s.advance len).grp.lvq = s.grp.lvq := rfl
@[simp] theorem State.advance_grp_scb (s : State) (len : Nat) : (s.advance len).grp.scb = s.grp.scb := rfl
@[simp] theorem State.advance_grp_hurt (s : State) (len : Nat) : (s.advance len).grp.hurt = s.grp.hurt := rfl
@[simp] theorem State.advance_grp_held (s : State) (len : Nat) : (s.advance len).grp.held = s.grp.held := rfl
@[simp] theorem State.advance_grp_marks (s : State) (len : Nat) : (s.advance len).grp.marks = s.grp.marks := rfl

@[simp] theorem State.lanewise_grp_uid (s : State) (f : Fields) (h : Nat → Lane → Lane) : (s.lanewise f h).grp.uid = s.grp.uid := rfl
@[simp] theorem State.lanewise_grp_team (s : State) (f : Fields) (h : Nat → Lane → Lane) : (s.lanewise f h).grp.team = s.grp.team := rfl
@[simp] theorem State.lanewise_grp_gid (s : State) (f : Fields) (h : Nat → Lane → Lane) : (s.lanewise f h).grp.gid = s.grp.gid := rfl
@[simp] theorem State.lanewise_grp_bench (s : State) (f : Fields) (h : Nat → Lane → Lane) : (s.lanewise f h).grp.bench = s.grp.bench := rfl
@[simp] theorem State.lanewise_grp_slot (s : State) (f : Fields) (h : Nat → Lane → Lane) : (s.lanewise f h).grp.slot = s.grp.slot := rfl
@[simp] theorem State.lanewise_grp_order (s : State) (f : Fields) (h : Nat → Lane → Lane) : (s.lanewise f h).grp.order = s.grp.order := rfl
@[simp] theorem State.lanewise_grp_width (s : State) (f : Fields) (h : Nat → Lane → Lane) : (s.lanewise f h).grp.width = s.grp.width := rfl
@[simp] theorem State.lanewise_grp_vcount (s : State) (f : Fields) (h : Nat → Lane → Lane) : (s.lanewise f h).grp.vcount = s.grp.vcount := rfl
@[simp] theorem State.lanewise_grp_s (s : State) (f : Fields) (h : Nat → Lane → Lane) : (s.lanewise f h).grp.s = s.grp.s := rfl
@[simp] theorem State.lanewise_grp_pendS (s : State) (f : Fields) (h : Nat → Lane → Lane) : (s.lanewise f h).grp.pendS = s.grp.pendS := rfl
@[simp] theorem State.lanewise_grp_markedS (s : State) (f : Fields) (h : Nat → Lane → Lane) : (s.lanewise f h).grp.markedS = s.grp.markedS := rfl
@[simp] theorem State.lanewise_grp_fmode (s : State) (f : Fields) (h : Nat → Lane → Lane) : (s.lanewise f h).grp.fmode = s.grp.fmode := rfl
@[simp] theorem State.lanewise_grp_jointo (s : State) (f : Fields) (h : Nat → Lane → Lane) : (s.lanewise f h).grp.jointo = s.grp.jointo := rfl
@[simp] theorem State.lanewise_grp_sseed (s : State) (f : Fields) (h : Nat → Lane → Lane) : (s.lanewise f h).grp.sseed = s.grp.sseed := rfl
@[simp] theorem State.lanewise_grp_trapen (s : State) (f : Fields) (h : Nat → Lane → Lane) : (s.lanewise f h).grp.trapen = s.grp.trapen := rfl
@[simp] theorem State.lanewise_grp_trapv (s : State) (f : Fields) (h : Nat → Lane → Lane) : (s.lanewise f h).grp.trapv = s.grp.trapv := rfl
@[simp] theorem State.lanewise_grp_tpc (s : State) (f : Fields) (h : Nat → Lane → Lane) : (s.lanewise f h).grp.tpc = s.grp.tpc := rfl
@[simp] theorem State.lanewise_grp_tfpc (s : State) (f : Fields) (h : Nat → Lane → Lane) : (s.lanewise f h).grp.tfpc = s.grp.tfpc := rfl
@[simp] theorem State.lanewise_grp_tmask (s : State) (f : Fields) (h : Nat → Lane → Lane) : (s.lanewise f h).grp.tmask = s.grp.tmask := rfl
@[simp] theorem State.lanewise_grp_tmaskhi (s : State) (f : Fields) (h : Nat → Lane → Lane) : (s.lanewise f h).grp.tmaskhi = s.grp.tmaskhi := rfl
@[simp] theorem State.lanewise_grp_tcause (s : State) (f : Fields) (h : Nat → Lane → Lane) : (s.lanewise f h).grp.tcause = s.grp.tcause := rfl
@[simp] theorem State.lanewise_grp_tdst (s : State) (f : Fields) (h : Nat → Lane → Lane) : (s.lanewise f h).grp.tdst = s.grp.tdst := rfl
@[simp] theorem State.lanewise_grp_utrap (s : State) (f : Fields) (h : Nat → Lane → Lane) : (s.lanewise f h).grp.utrap = s.grp.utrap := rfl
@[simp] theorem State.lanewise_grp_wct (s : State) (f : Fields) (h : Nat → Lane → Lane) : (s.lanewise f h).grp.wct = s.grp.wct := rfl
@[simp] theorem State.lanewise_grp_ops (s : State) (f : Fields) (h : Nat → Lane → Lane) : (s.lanewise f h).grp.ops = s.grp.ops := rfl
@[simp] theorem State.lanewise_grp_eps (s : State) (f : Fields) (h : Nat → Lane → Lane) : (s.lanewise f h).grp.eps = s.grp.eps := rfl
@[simp] theorem State.lanewise_grp_rels (s : State) (f : Fields) (h : Nat → Lane → Lane) : (s.lanewise f h).grp.rels = s.grp.rels := rfl
@[simp] theorem State.lanewise_grp_pcause (s : State) (f : Fields) (h : Nat → Lane → Lane) : (s.lanewise f h).grp.pcause = s.grp.pcause := rfl
@[simp] theorem State.lanewise_grp_ctxrec (s : State) (f : Fields) (h : Nat → Lane → Lane) : (s.lanewise f h).grp.ctxrec = s.grp.ctxrec := rfl
@[simp] theorem State.lanewise_grp_pscr (s : State) (f : Fields) (h : Nat → Lane → Lane) : (s.lanewise f h).grp.pscr = s.grp.pscr := rfl
@[simp] theorem State.lanewise_grp_since (s : State) (f : Fields) (h : Nat → Lane → Lane) : (s.lanewise f h).grp.since = s.grp.since := rfl
@[simp] theorem State.lanewise_grp_yieldTo (s : State) (f : Fields) (h : Nat → Lane → Lane) : (s.lanewise f h).grp.yieldTo = s.grp.yieldTo := rfl
@[simp] theorem State.lanewise_grp_preempt (s : State) (f : Fields) (h : Nat → Lane → Lane) : (s.lanewise f h).grp.preempt = s.grp.preempt := rfl
@[simp] theorem State.lanewise_grp_aside (s : State) (f : Fields) (h : Nat → Lane → Lane) : (s.lanewise f h).grp.aside = s.grp.aside := rfl
@[simp] theorem State.lanewise_grp_isParked (s : State) (f : Fields) (h : Nat → Lane → Lane) : (s.lanewise f h).grp.isParked = s.grp.isParked := rfl
@[simp] theorem State.lanewise_grp_withdrawn (s : State) (f : Fields) (h : Nat → Lane → Lane) : (s.lanewise f h).grp.withdrawn = s.grp.withdrawn := rfl
@[simp] theorem State.lanewise_grp_method (s : State) (f : Fields) (h : Nat → Lane → Lane) : (s.lanewise f h).grp.method = s.grp.method := rfl
@[simp] theorem State.lanewise_grp_logged (s : State) (f : Fields) (h : Nat → Lane → Lane) : (s.lanewise f h).grp.logged = s.grp.logged := rfl
@[simp] theorem State.lanewise_grp_log (s : State) (f : Fields) (h : Nat → Lane → Lane) : (s.lanewise f h).grp.log = s.grp.log := rfl
@[simp] theorem State.lanewise_grp_lvq (s : State) (f : Fields) (h : Nat → Lane → Lane) : (s.lanewise f h).grp.lvq = s.grp.lvq := rfl
@[simp] theorem State.lanewise_grp_scb (s : State) (f : Fields) (h : Nat → Lane → Lane) : (s.lanewise f h).grp.scb = s.grp.scb := rfl
@[simp] theorem State.lanewise_grp_hurt (s : State) (f : Fields) (h : Nat → Lane → Lane) : (s.lanewise f h).grp.hurt = s.grp.hurt := rfl
@[simp] theorem State.lanewise_grp_held (s : State) (f : Fields) (h : Nat → Lane → Lane) : (s.lanewise f h).grp.held = s.grp.held := rfl
@[simp] theorem State.lanewise_grp_marks (s : State) (f : Fields) (h : Nat → Lane → Lane) : (s.lanewise f h).grp.marks = s.grp.marks := rfl

@[simp] theorem State.setScl_grp_uid (s : State) (n : Nat) (x : DWord) : (s.setScl n x).grp.uid = s.grp.uid := rfl
@[simp] theorem State.setScl_grp_team (s : State) (n : Nat) (x : DWord) : (s.setScl n x).grp.team = s.grp.team := rfl
@[simp] theorem State.setScl_grp_gid (s : State) (n : Nat) (x : DWord) : (s.setScl n x).grp.gid = s.grp.gid := rfl
@[simp] theorem State.setScl_grp_bench (s : State) (n : Nat) (x : DWord) : (s.setScl n x).grp.bench = s.grp.bench := rfl
@[simp] theorem State.setScl_grp_slot (s : State) (n : Nat) (x : DWord) : (s.setScl n x).grp.slot = s.grp.slot := rfl
@[simp] theorem State.setScl_grp_order (s : State) (n : Nat) (x : DWord) : (s.setScl n x).grp.order = s.grp.order := rfl
@[simp] theorem State.setScl_grp_width (s : State) (n : Nat) (x : DWord) : (s.setScl n x).grp.width = s.grp.width := rfl
@[simp] theorem State.setScl_grp_vcount (s : State) (n : Nat) (x : DWord) : (s.setScl n x).grp.vcount = s.grp.vcount := rfl
@[simp] theorem State.setScl_grp_lanes (s : State) (n : Nat) (x : DWord) : (s.setScl n x).grp.lanes = s.grp.lanes := rfl
@[simp] theorem State.setScl_grp_pendS (s : State) (n : Nat) (x : DWord) : (s.setScl n x).grp.pendS = s.grp.pendS := rfl
@[simp] theorem State.setScl_grp_markedS (s : State) (n : Nat) (x : DWord) : (s.setScl n x).grp.markedS = s.grp.markedS := rfl
@[simp] theorem State.setScl_grp_fmode (s : State) (n : Nat) (x : DWord) : (s.setScl n x).grp.fmode = s.grp.fmode := rfl
@[simp] theorem State.setScl_grp_jointo (s : State) (n : Nat) (x : DWord) : (s.setScl n x).grp.jointo = s.grp.jointo := rfl
@[simp] theorem State.setScl_grp_sseed (s : State) (n : Nat) (x : DWord) : (s.setScl n x).grp.sseed = s.grp.sseed := rfl
@[simp] theorem State.setScl_grp_trapen (s : State) (n : Nat) (x : DWord) : (s.setScl n x).grp.trapen = s.grp.trapen := rfl
@[simp] theorem State.setScl_grp_trapv (s : State) (n : Nat) (x : DWord) : (s.setScl n x).grp.trapv = s.grp.trapv := rfl
@[simp] theorem State.setScl_grp_tpc (s : State) (n : Nat) (x : DWord) : (s.setScl n x).grp.tpc = s.grp.tpc := rfl
@[simp] theorem State.setScl_grp_tfpc (s : State) (n : Nat) (x : DWord) : (s.setScl n x).grp.tfpc = s.grp.tfpc := rfl
@[simp] theorem State.setScl_grp_tmask (s : State) (n : Nat) (x : DWord) : (s.setScl n x).grp.tmask = s.grp.tmask := rfl
@[simp] theorem State.setScl_grp_tmaskhi (s : State) (n : Nat) (x : DWord) : (s.setScl n x).grp.tmaskhi = s.grp.tmaskhi := rfl
@[simp] theorem State.setScl_grp_tcause (s : State) (n : Nat) (x : DWord) : (s.setScl n x).grp.tcause = s.grp.tcause := rfl
@[simp] theorem State.setScl_grp_tdst (s : State) (n : Nat) (x : DWord) : (s.setScl n x).grp.tdst = s.grp.tdst := rfl
@[simp] theorem State.setScl_grp_utrap (s : State) (n : Nat) (x : DWord) : (s.setScl n x).grp.utrap = s.grp.utrap := rfl
@[simp] theorem State.setScl_grp_wct (s : State) (n : Nat) (x : DWord) : (s.setScl n x).grp.wct = s.grp.wct := rfl
@[simp] theorem State.setScl_grp_ops (s : State) (n : Nat) (x : DWord) : (s.setScl n x).grp.ops = s.grp.ops := rfl
@[simp] theorem State.setScl_grp_eps (s : State) (n : Nat) (x : DWord) : (s.setScl n x).grp.eps = s.grp.eps := rfl
@[simp] theorem State.setScl_grp_rels (s : State) (n : Nat) (x : DWord) : (s.setScl n x).grp.rels = s.grp.rels := rfl
@[simp] theorem State.setScl_grp_pcause (s : State) (n : Nat) (x : DWord) : (s.setScl n x).grp.pcause = s.grp.pcause := rfl
@[simp] theorem State.setScl_grp_ctxrec (s : State) (n : Nat) (x : DWord) : (s.setScl n x).grp.ctxrec = s.grp.ctxrec := rfl
@[simp] theorem State.setScl_grp_pscr (s : State) (n : Nat) (x : DWord) : (s.setScl n x).grp.pscr = s.grp.pscr := rfl
@[simp] theorem State.setScl_grp_since (s : State) (n : Nat) (x : DWord) : (s.setScl n x).grp.since = s.grp.since := rfl
@[simp] theorem State.setScl_grp_yieldTo (s : State) (n : Nat) (x : DWord) : (s.setScl n x).grp.yieldTo = s.grp.yieldTo := rfl
@[simp] theorem State.setScl_grp_preempt (s : State) (n : Nat) (x : DWord) : (s.setScl n x).grp.preempt = s.grp.preempt := rfl
@[simp] theorem State.setScl_grp_aside (s : State) (n : Nat) (x : DWord) : (s.setScl n x).grp.aside = s.grp.aside := rfl
@[simp] theorem State.setScl_grp_isParked (s : State) (n : Nat) (x : DWord) : (s.setScl n x).grp.isParked = s.grp.isParked := rfl
@[simp] theorem State.setScl_grp_withdrawn (s : State) (n : Nat) (x : DWord) : (s.setScl n x).grp.withdrawn = s.grp.withdrawn := rfl
@[simp] theorem State.setScl_grp_method (s : State) (n : Nat) (x : DWord) : (s.setScl n x).grp.method = s.grp.method := rfl
@[simp] theorem State.setScl_grp_logged (s : State) (n : Nat) (x : DWord) : (s.setScl n x).grp.logged = s.grp.logged := rfl
@[simp] theorem State.setScl_grp_log (s : State) (n : Nat) (x : DWord) : (s.setScl n x).grp.log = s.grp.log := rfl
@[simp] theorem State.setScl_grp_lvq (s : State) (n : Nat) (x : DWord) : (s.setScl n x).grp.lvq = s.grp.lvq := rfl
@[simp] theorem State.setScl_grp_scb (s : State) (n : Nat) (x : DWord) : (s.setScl n x).grp.scb = s.grp.scb := rfl
@[simp] theorem State.setScl_grp_hurt (s : State) (n : Nat) (x : DWord) : (s.setScl n x).grp.hurt = s.grp.hurt := rfl
@[simp] theorem State.setScl_grp_held (s : State) (n : Nat) (x : DWord) : (s.setScl n x).grp.held = s.grp.held := rfl
@[simp] theorem State.setScl_grp_marks (s : State) (n : Nat) (x : DWord) : (s.setScl n x).grp.marks = s.grp.marks := rfl

/-! What the updates set -/

@[simp] theorem State.onLanes_grp_lanes (s : State) (f : Nat → Lane → Lane) : (s.onLanes f).grp.lanes = mapLanes f 0 s.grp.lanes := rfl
@[simp] theorem State.setScl_grp_s (s : State) (n : Nat) (x : DWord) : (s.setScl n x).grp.s = sput 0 s.grp.s n x := rfl
@[simp] theorem State.onTeam_teams (s : State) (u : Nat) (f : Team → Team) :
    (s.onTeam u f).teams = updBy (fun t => t.uid == u) f s.teams := rfl
@[simp] theorem State.onDie_dies (s : State) (d : Nat) (f : Die → Die) : (s.onDie d f).dies = s.dies.modify d f := rfl
@[simp] theorem State.onGroup_groups (s : State) (u : Nat) (f : Group → Group) :
    (s.onGroup u f).groups = updBy (fun g => g.uid == u) f s.groups := rfl
@[simp] theorem State.onGroup_grp (s : State) (u : Nat) (f : Group → Group) :
    (s.onGroup u f).grp = if s.grp.uid = u then f s.grp else s.grp := rfl

end Sys2Proof.Machine
end

