-- ==== Sys2Proof/Laws/Lanes.lean ====
section
/-! SUPPORT. Lanes: what `mapLanes`, `onLanes`, `advance` and `lanewise` give for one lane, and what each shared operation of an instruction
can do. -/

namespace Sys2Proof.Machine

@[simp] theorem mapLanes_length (f : Nat → Lane → Lane) (i : Nat) (l : List Lane) : (mapLanes f i l).length = l.length := by
  induction l generalizing i with
  | nil => rfl
  | cons x xs ih => simp [mapLanes, ih]

/-- Each lane of a map is the map of that lane with its number. -/
theorem mapLanes_getElem? (f : Nat → Lane → Lane) (i : Nat) (l : List Lane) (j : Nat) :
    (mapLanes f i l)[j]? = (l[j]?).map (f (i + j)) := by
  induction l generalizing i j with
  | nil => simp [mapLanes]
  | cons x xs ih =>
    cases j with
    | zero => simp [mapLanes]
    | succ j => simp [mapLanes, ih, Nat.add_assoc, Nat.add_comm 1 j]

/-- A lane of the group after `onLanes`. -/
theorem State.laneAt_onLanes (s : State) (f : Nat → Lane → Lane) (l : Nat) (h : l < s.grp.lanes.length) :
    (s.onLanes f).laneAt l = f l (s.laneAt l) := by
  have := mapLanes_getElem? f 0 s.grp.lanes l
  simp only [State.laneAt, List.getD_eq_getElem?_getD, State.onLanes_grp_lanes, this]
  simp [h]

/-- A lane of the group after `lanewise` (R183). -/
theorem State.laneAt_lanewise (s : State) (f : Fields) (h : Nat → Lane → Lane) (l : Nat) (hl : l < s.grp.lanes.length) :
    (s.lanewise f h).laneAt l =
      if s.inBundle l then
        { (if guardOf f.gd (s.laneAt l) then h l (s.laneAt l) else s.laneAt l) with
          pc := (s.laneAt l).pc + BitVec.ofNat 64 f.form.len }
      else s.laneAt l :=
  State.laneAt_onLanes s _ l hl

/-- A lane of the group after `advance`. -/
theorem State.laneAt_advance (s : State) (len l : Nat) (hl : l < s.grp.lanes.length) :
    (s.advance len).laneAt l =
      if s.inBundle l then { s.laneAt l with pc := (s.laneAt l).pc + BitVec.ofNat 64 len } else s.laneAt l :=
  State.laneAt_onLanes s _ l hl

/-! Registers of a lane -/

/-- A register reads as written, and every other as before, while registers are in canonical form. -/
theorem Lane.reg_setReg (x : Lane) (n m : Nat) (w : Word) (h : swf (0 : Word) x.v = true) :
    (x.setReg n w).reg m = if m = n then w else x.reg m := sget_sput 0 x.v 0 n m w h

/-- Registers stay in canonical form. -/
theorem Lane.swf_setReg (x : Lane) (n : Nat) (w : Word) (h : swf (0 : Word) x.v = true) : swf (0 : Word) (x.setReg n w).v = true :=
  swf_sput 0 x.v n w h

/-- Predicate 0 reads true whatever is written (R7). -/
@[simp] theorem Lane.pred_zero (x : Lane) : x.pred 0 = true := rfl

@[simp] theorem Lane.setReg_pc (x : Lane) (n : Nat) (w : Word) : (x.setReg n w).pc = x.pc := rfl
@[simp] theorem Lane.setReg_preds (x : Lane) (n : Nat) (w : Word) : (x.setReg n w).preds = x.preds := rfl
@[simp] theorem Lane.setReg_st (x : Lane) (n : Nat) (w : Word) : (x.setReg n w).st = x.st := rfl
@[simp] theorem Lane.setPair_pc (x : Lane) (n : Nat) (w : DWord) : (x.setPair n w).pc = x.pc := rfl
@[simp] theorem Lane.setPair_preds (x : Lane) (n : Nat) (w : DWord) : (x.setPair n w).preds = x.preds := rfl
@[simp] theorem Lane.setPred_pc (x : Lane) (n : Nat) (b : Bool) : (x.setPred n b).pc = x.pc := by
  unfold Lane.setPred; split <;> rfl
@[simp] theorem Lane.setPred_v (x : Lane) (n : Nat) (b : Bool) : (x.setPred n b).v = x.v := by
  unfold Lane.setPred; split <;> rfl

/-! Shared operations of an instruction -/

/-- An instruction with a key answers a next state: its body's, or a stop's. -/
theorem run_next (k : Key) (f : Fields) (s : State) (body : State → State) :
    run k f s body = .next (match entryStop k f s with | some x => stop x s | none => body s) := by
  unfold run; split <;> simp_all

/-- An instruction whose entry checks pass has its own effect. -/
theorem run_ok (k : Key) (f : Fields) (s : State) (body : State → State) (h : entryStop k f s = none) :
    run k f s body = .next (body s) := by
  unfold run; rw [h]

/-- A lane-wise instruction whose entry checks pass. -/
theorem runLanes_ok (k : Key) (f : Fields) (s : State) (g : Nat → Lane → Lane) (h : entryStop k f s = none) :
    runLanes k f s g = .next (s.lanewise f g) := run_ok k f s _ h

/-- A scalar instruction whose entry checks pass and that some lane executes. -/
theorem runScalar_ok (k : Key) (f : Fields) (s : State) (g : State → Nat × Lane → State) (e : Nat × Lane)
    (h : entryStop k f s = none) (he : s.elect f.gd = some e) : runScalar k f s g = .next ((g s e).advance f.form.len) := by
  unfold runScalar; rw [run_ok _ _ _ _ h, he]

/-- A scalar instruction that no lane executes only moves its lanes on. -/
theorem runScalar_none (k : Key) (f : Fields) (s : State) (g : State → Nat × Lane → State)
    (h : entryStop k f s = none) (he : s.elect f.gd = none) : runScalar k f s g = .next (s.advance f.form.len) := by
  unfold runScalar; rw [run_ok _ _ _ _ h, he]

/-- A user trap touches nothing but the issuing group (R32, R34). -/
theorem userTrap_only (kind code : Nat) (d : TrapDst) (len : Nat) (inSet : Nat → Bool) (raised : Nat → FFlags) (second : Nat → Bool)
    (s : State) : ∃ g, userTrap kind code d len inSet raised second s = { s with grp := g } := ⟨_, rfl⟩

/-- Without an enabled exception no trap is taken (R32). -/
theorem userTrap_quiet (code : Nat) (d : TrapDst) (len : Nat) (inSet : Nat → Bool) (second : Nat → Bool) (s : State) :
    userTrap 1 code d len inSet (fun _ => 0) second s = s := by
  simp [userTrap, trapGroup]

/-- Forgetting a refused translation changes the TLBs only. -/
theorem State.forgetRefused_only (s : State) (x : FaultInfo) : ∃ l, s.forgetRefused x = { s with tlbs := l } := by
  unfold State.forgetRefused; split
  · exact ⟨_, rfl⟩
  · exact ⟨s.tlbs, rfl⟩

/-- A privileged fault outside a replay engine touches the bundle's lanes, the list of faults, the record numbers and, for a refused translation, the TLBs, and
nothing else (R183, R360, R364). -/
theorem raiseWith_only (x : FaultInfo) (s : State) (h : s.grp.method = none) :
    ∃ l, raiseWith x s =
      { (s.onLanes (fun l y => if s.inBundle l then { y with st := .faulted, hold := .none, waitCount := 0 } else y)) with
        tlbs := l, faults := s.faults ++ [faultRecord x s], nextId := s.nextId + 1 } := by
  obtain ⟨l, hl⟩ := State.forgetRefused_only (s.onLanes (fun l y => if s.inBundle l then { y with st := .faulted, hold := .none, waitCount := 0 } else y)) x
  exact ⟨l, by simp only [raiseWith, h, hl]; rfl⟩

/-- A lane of the bundle of a privileged fault is FAULTED with its PC at the instruction (R183). -/
theorem raiseWith_lane (x : FaultInfo) (s : State) (h : s.grp.method = none) (l : Nat) (hl : l < s.grp.lanes.length) (hb : s.inBundle l = true) :
    (raiseWith x s).laneAt l = { s.laneAt l with st := .faulted, hold := .none, waitCount := 0 } := by
  obtain ⟨t, ht⟩ := raiseWith_only x s h
  rw [ht]
  have := State.laneAt_onLanes s (fun l y => if s.inBundle l then { y with st := .faulted, hold := .none, waitCount := 0 } else y) l hl
  simp only [hb, if_true] at this
  exact this

end Sys2Proof.Machine
end

