-- ==== Sys2Proof/Laws/Memory.lean ====
section
/-! SUPPORT. What the shared operations do with memory: those that leave it alone, and that every operation that writes it keeps its canonical form. -/

namespace Sys2Proof.Machine

/-! Operations that leave memory alone -/

@[simp] theorem State.useFree_mem (s : State) : s.useFree.mem = s.mem := rfl
@[simp] theorem State.cleanse_mem (s : State) (pa n : Nat) : (s.cleanse pa n).mem = s.mem := rfl
@[simp] theorem State.noteWrite_mem (s : State) (d gr : Nat) : (s.noteWrite d gr).mem = s.mem := rfl
@[simp] theorem State.onReq_mem (s : State) (id : Nat) (f : Req → Req) : (s.onReq id f).mem = s.mem := rfl
@[simp] theorem State.dropReq_mem (s : State) (id : Nat) : (s.dropReq id).mem = s.mem := rfl

@[simp] theorem State.onLine_mem (s : State) (ln : Nat) (f : Line → Line) : (s.onLine ln f).mem = s.mem := by
  unfold State.onLine; split <;> rfl

@[simp] theorem State.onLine_nextId (s : State) (ln : Nat) (f : Line → Line) : (s.onLine ln f).nextId = s.nextId := by
  unfold State.onLine; split <;> rfl

@[simp] theorem State.scbAdd_mem (s : State) (g : Nat) (e : Scb) : (s.scbAdd g e).mem = s.mem := by
  unfold State.scbAdd; split <;> simp

@[simp] theorem State.addReq_mem (s : State) (r : Req) : (s.addReq r).mem = s.mem := by
  unfold State.addReq; split <;> simp

/-- A fold of operations that leave memory alone leaves it alone. -/
theorem foldl_mem {α : Type} (f : State → α → State) (h : ∀ t x, (f t x).mem = t.mem) (l : List α) (s : State) : (l.foldl f s).mem = s.mem := by
  induction l generalizing s with
  | nil => rfl
  | cons x l ih => rw [List.foldl_cons, ih, h]

/-! Operations that write memory -/

/-- A fold of writes keeps the canonical form. -/
theorem foldl_wf {α : Type} (f : List Host.Cell → α → List Host.Cell) (h : ∀ m x, Memory.wf m = true → Memory.wf (f m x) = true) (l : List α)
    (m : List Host.Cell) (hm : Memory.wf m = true) : Memory.wf (l.foldl f m) = true := by
  induction l generalizing m with
  | nil => exact hm
  | cons x l ih => exact ih _ (h _ _ hm)

/-- A write of a physical address goes out of the module or to memory, and keeps the canonical form. -/
theorem State.wf_writePhys (s : State) (pa n : Nat) (data mask : QWord) (h : Memory.wf s.mem = true) : Memory.wf (s.writePhys pa n data mask).mem = true := by
  unfold State.writePhys
  split
  · exact h
  · exact wf_wrBytes _ _ _ _ h

/-- A write in device memory leaves every byte outside it alone. -/
theorem State.rdByte_writePhys_out (s : State) (pa n b : Nat) (data mask : QWord) (h : Memory.wf s.mem = true) (hb : b < pa ∨ pa + n ≤ b) :
    rdByte (s.writePhys pa n data mask).mem b = rdByte s.mem b := by
  unfold State.writePhys
  split
  · rfl
  · exact rdByte_wrBytes_out _ _ _ _ _ h hb

/-- What a write does to memory depends on memory alone. -/
theorem State.writePhys_mem_congr (s t : State) (pa n : Nat) (data mask : QWord) (h : t.mem = s.mem) :
    (t.writePhys pa n data mask).mem = (s.writePhys pa n data mask).mem := by
  unfold State.writePhys
  split
  · exact h
  · show wrBytes t.mem pa n _ = wrBytes s.mem pa n _
    rw [h]

/-- What a write ordered at its home does to memory is that write, less the bytes that are read-only. -/
theorem State.orderWrite_mem (s : State) (d : Nat) (lease : BitVec 2) (pa n : Nat) (data mask : QWord) :
    (s.orderWrite d lease pa n data mask).mem = (s.writePhys pa n data (s.openMask pa mask n)).mem :=
  State.writePhys_mem_congr _ _ _ _ _ _ (foldl_mem _ (fun t x => t.onLine_mem x _) _ _)

/-- Outside the discovery structure every byte of a write is written. -/
theorem State.openMask_eq (s : State) (pa : Nat) (mask : QWord) (n : Nat) (h : s.hub.stage < 6 ∨ s.hub.disc = none) : s.openMask pa mask n = mask := by
  induction n with
  | zero => rfl
  | succ n ih =>
    unfold State.openMask
    rw [ih]
    split
    · rcases h with h | h
      · simp only [ite_eq_right_iff]; omega
      · simp_all
    · rfl

theorem State.wf_orderWrite (s : State) (d : Nat) (lease : BitVec 2) (pa n : Nat) (data mask : QWord) (h : Memory.wf s.mem = true) :
    Memory.wf (s.orderWrite d lease pa n data mask).mem = true := by
  rw [State.orderWrite_mem]; exact s.wf_writePhys pa n data _ h

/-- A fold of partials into memory keeps the canonical form. -/
theorem wf_foldWord (ln : Nat) (m : List Host.Cell) (op : CommOp) (w : Nat × Word) (h : Memory.wf m = true) : Memory.wf (foldWord ln m op w) = true :=
  wf_wrBytes _ _ _ _ h

theorem State.wf_foldedMem (s : State) (ln : Nat) (h : Memory.wf s.mem = true) : Memory.wf (s.foldedMem ln) = true :=
  foldl_wf _ (fun m p hm => foldl_wf _ (fun m w hm => wf_foldWord ln m p.op w hm) p.words m hm) _ _ h

theorem State.wf_combineNow (s : State) (ln : Nat) (h : Memory.wf s.mem = true) : Memory.wf (s.combineNow ln).mem = true := by
  unfold State.combineNow
  split
  · exact s.wf_foldedMem ln h
  · rw [State.onLine_mem]; exact s.wf_foldedMem ln h

/-- Combining the lines of an access keeps the canonical form. -/
theorem State.wf_combineLines (s : State) (pa n : Nat) (h : Memory.wf s.mem = true) : Memory.wf (s.combineLines pa n).mem = true := by
  unfold State.combineLines
  generalize linesOf pa n = l
  induction l generalizing s with
  | nil => exact h
  | cons ln l ih => exact ih _ (s.wf_combineNow ln h)

theorem wf_foldParts (s : State) (parts : List (Nat × Nat × CommOp × Word)) (h : Memory.wf s.mem = true) : Memory.wf (foldParts s parts).mem = true :=
  foldl_wf _ (fun _ _ hm => wf_wrBytes _ _ _ _ hm) _ _ h

/-! Headers -/

/-- The 384 bits of a header give it back, so no field of it is lost on its way (R371, Table 4). -/
theorem Jdp.ofWord_word (h : Jdp) : Jdp.ofWord h.word = h := by
  obtain ⟨a, b, c, d, e, f, g, h, i, j, k, l, m, n⟩ := h
  simp only [Jdp.ofWord, Jdp.word, Jdp.mk.injEq]
  refine ⟨?_, ?_, ?_, ?_, ?_, ?_, ?_, ?_, ?_, ?_, ?_, ?_, ?_, ?_⟩ <;>
    (apply BitVec.eq_of_toNat_eq
     simp only [BitVec.extractLsb'_toNat, BitVec.toNat_ofNat, Nat.shiftRight_eq_div_pow]
     omega)

end Sys2Proof.Machine
end

