-- ==== Sys2Proof/Tests/Slice0.lean ====
section
/-! SUPPORT. The model's own tests: an ill-formed term for each check of well-formedness, words written out from the encodings,
a witness for the hypotheses of each statement, and one-step results from the spec's examples. Every expected value is taken
from the spec or worked out by hand from its rules. -/

namespace Sys2Proof.Tests

open Sys2Proof Sys2Proof.Machine

set_option Elab.async false

abbrev z : Fields := Enc.blank .base
abbrev zl : Fields := Enc.blank .lit
abbrev zx : Fields := Enc.blank .ext
abbrev zxl : Fields := Enc.blank .extLit

/-! Well-formedness: each term breaks one check. -/

/-- A well-formed term, so that the refusals below are not refusals of everything. -/
theorem test_wf_ok : (Instr.iadd { z with d := .vec 3, a := .vec 4, b := .vec 5 }).wellFormed = true := by decide
theorem test_wf_base_register_range : (Instr.iadd { z with d := .vec 64, a := .vec 4, b := .vec 5 }).wellFormed = false := by decide
theorem test_wf_base_vector_not_scalar : (Instr.iadd { z with d := .scl 3, a := .vec 4, b := .vec 5 }).wellFormed = false := by decide
theorem test_wf_base_scalar_not_vector : (Instr.sadd { z with d := .vec 1, a := .scl 2, b := .scl 3 }).wellFormed = false := by decide
theorem test_wf_base_predicate_range : (Instr.icmp .lt { z with d := .prd 8, a := .vec 4, b := .vec 5 }).wellFormed = false := by decide
theorem test_wf_base_predicate_kind : (Instr.icmp .lt { z with d := .vec 3, a := .vec 4, b := .vec 5 }).wellFormed = false := by decide
theorem test_wf_base_number_range : (Instr.trap { z with b := .num 64 }).wellFormed = false := by decide
theorem test_wf_base_unused_field : (Instr.jmpr { z with a := .vec 10, d := .vec 1 }).wellFormed = false := by decide
theorem test_wf_base_type : (Instr.iadd { z with d := .vec 3, a := .vec 4, b := .vec 5, ty := 9 }).wellFormed = false := by decide
theorem test_wf_base_mod : (Instr.iadd { z with d := .vec 3, a := .vec 4, b := .vec 5, md := 1 }).wellFormed = false := by decide
theorem test_wf_base_literal_field : (Instr.iadd { z with d := .vec 3, a := .vec 4, b := .vec 5, lit := 1 }).wellFormed = false := by decide
theorem test_wf_base_third_source : (Instr.iadd { z with d := .vec 3, a := .vec 4, b := .vec 5, c := .vec 1 }).wellFormed = false := by decide
theorem test_wf_base_guard_range : (Instr.iadd { z with d := .vec 3, a := .vec 4, b := .vec 5, gd := ⟨8, false⟩ }).wellFormed = false := by decide
theorem test_wf_base_guard_negated : (Instr.iadd { z with d := .vec 3, a := .vec 4, b := .vec 5, gd := ⟨1, true⟩ }).wellFormed = false := by decide
theorem test_wf_base_immediate : (Instr.iadd { z with d := .vec 3, a := .vec 4, b := .vec 5, imm := 1 }).wellFormed = false := by decide
theorem test_wf_lit_needs_literal : (Instr.iadd { zl with d := .vec 3, a := .vec 4, b := .vec 5 }).wellFormed = false := by decide
theorem test_wf_base_has_no_literal : (Instr.iadd { z with d := .vec 3, a := .vec 4, b := .lit 1 }).wellFormed = false := by decide
theorem test_wf_imm12_range : (Instr.movi { z with d := .vec 7, imm := 0x1000 }).wellFormed = false := by decide
theorem test_wf_imm12_no_guard : (Instr.movi { z with d := .vec 7, gd := ⟨1, false⟩ }).wellFormed = false := by decide
theorem test_wf_off20_range : (Instr.bra { z with imm := 0x100000 }).wellFormed = false := by decide
theorem test_wf_off20_operand : (Instr.bra { z with a := .vec 1 }).wellFormed = false := by decide
theorem test_wf_off24_guard : (Instr.tgt { z with gd := ⟨1, false⟩ }).wellFormed = false := by decide
theorem test_wf_wait_field : (Instr.wait { z with d := .num 64, a := .num 0, b := .num 0, c := .num 0 }).wellFormed = false := by decide
theorem test_wf_gets_register : (Instr.gets { z with d := .prd 1, c := .num 0 }).wellFormed = false := by decide
theorem test_wf_gets_high : (Instr.gets { z with d := .scl 1, c := .num 1 }).wellFormed = false := by decide
theorem test_wf_sets_register : (Instr.sets { z with a := .vec 64, c := .num 0 }).wellFormed = false := by decide
theorem test_wf_ext_mod : (Instr.fadd { zx with d := .vec 1, a := .vec 2, b := .vec 3, ty := 0, md := 0x80 }).wellFormed = false := by decide
theorem test_wf_ext_immediate : (Instr.iadd { zx with d := .vec 1, a := .vec 2, b := .vec 3, imm := 1 }).wellFormed = false := by decide
theorem test_wf_ext_codable : (Instr.iadd { zx with d := .vec 0x600, a := .vec 2, b := .vec 3 }).wellFormed = false := by decide
theorem test_wf_ext_gap_code : (Instr.iadd { zx with d := .gap 0x4F, a := .vec 2, b := .vec 3 }).wellFormed = false := by decide
theorem test_wf_ext_literal_operand : (Instr.iadd { zx with d := .vec 1, a := .vec 2, b := .lit 3 }).wellFormed = false := by decide
theorem test_wf_ext_third_source : (Instr.lop3 { zx with d := .vec 1, a := .vec 2, b := .vec 3, c := .none, imm := 0x96 }).wellFormed = false := by decide
theorem test_wf_ext_unused_type : (Instr.braX { zx with ty := 1 }).wellFormed = false := by decide
theorem test_wf_branch_literal_no_immediate : (Instr.braX { zxl with imm := 4 }).wellFormed = false := by decide
theorem test_wf_ext_only : (Instr.lop3 { z with d := .vec 1, a := .vec 2, b := .vec 3, c := .vec 4 }).wellFormed = false := by decide
theorem test_wf_nop_body : (Instr.nop { z with imm := 1 }).wellFormed = false := by decide
theorem test_wf_pfi_form : (Instr.pfi zx).wellFormed = false := by decide
theorem test_wf_pfi_offset : (Instr.pfiX { zx with imm := 0x10000 }).wellFormed = false := by decide
theorem test_wf_pfi_mod : (Instr.pfiX { zx with md := 8 }).wellFormed = false := by decide
theorem test_wf_pfi_literal : (Instr.pfiX { zx with lit := 4 }).wellFormed = false := by decide
theorem test_wf_pfd_operand : (Instr.pfdL1 { z with a := .prd 1 }).wellFormed = false := by decide
theorem test_wf_pfd_guard : (Instr.pfdSlice { z with a := .vec 10, gd := ⟨8, false⟩ }).wellFormed = false := by decide
theorem test_wf_yield_form : (Instr.yield zx).wellFormed = false := by decide
theorem test_wf_yield_body : (Instr.yield { z with imm := 1 }).wellFormed = false := by decide
theorem test_wf_hint_code : (Instr.hint { z with imm := 0x1000 }).wellFormed = false := by decide
/-- R182, step 2: a condition of the words alone. A pair must start at an even register (R169). -/
theorem test_wf_word_condition : (Instr.iadd64 { z with d := .vec 1, a := .vec 2, b := .vec 4 }).wellFormed = false := by decide

/-! Words written out from the spec's encodings (R164 to R181) and the opcode table. -/

/-- FP32 vector arithmetic: MAJ 0x19, D 1, A 2, B 3 (`FADD v1, v2, v3`); a base float form is fp32 with the default MOD. -/
theorem test_word_fadd : decodeWords [0x190420C0] = .ok (.fadd { z with d := .vec 1, a := .vec 2, b := .vec 3, ty := 4, md := 5 }) := by decide
/-- Integer arithmetic: MAJ 0x08, D 3, A 4, B 5 (`IADD v3, v4, v5`). -/
theorem test_word_iadd : decodeWords [0x080C4140] = .ok (.iadd { z with d := .vec 3, a := .vec 4, b := .vec 5 }) := by decide
/-- The same with a literal: LEN 01. -/
theorem test_word_iadd_literal : decodeWords [0x480C4000, 0x12345678, 0] = .ok (.iadd { zl with d := .vec 3, a := .vec 4, b := .lit 0x12345678 }) := by decide
/-- Predicates: MAJ 0x0D, D p3, A 4, B 5, guard p1, FN 2 (`ICMP.lt p3, v4, v5`). -/
theorem test_word_icmp : decodeWords [0x0D0C414A] = .ok (.icmp .lt { z with d := .prd 3, a := .vec 4, b := .vec 5, gd := ⟨1, false⟩ }) := by decide
/-- Scalars: MAJ 0x10, s1, s2, s3. -/
theorem test_word_sadd : decodeWords [0x100420C0] = .ok (.sadd { z with d := .scl 1, a := .scl 2, b := .scl 3 }) := by decide
/-- An immediate: MAJ 0x15, v7, IMM12 0xFFB. -/
theorem test_word_movi : decodeWords [0x151C0FFB] = .ok (.movi { z with d := .vec 7, imm := 0xFFB }) := by decide
/-- A branch: MAJ 0x01, guard p1, OFF20 −3. -/
theorem test_word_bra : decodeWords [0x013FFFFD] = .ok (.bra { z with gd := ⟨1, true⟩, imm := 0xFFFFD }) := by decide
/-- Bundle operations: MAJ 0x24, v8, v9 (`SCAN.iadd v8, v9`). -/
theorem test_word_scan : decodeWords [0x24209000] = .ok (.scan .iadd { z with d := .vec 8, a := .vec 9, md := 5 }) := by decide
theorem test_word_putl : decodeWords [0x250C4140] = .ok (.putl { z with d := .vec 3, a := .vec 4, b := .vec 5 }) := by decide
/-- Global memory: MAJ 0x26, v4, base v10, offset 3, FN 4. -/
theorem test_word_ldg : decodeWords [0x2610A0C4] = .ok (.ldg .b32 { z with d := .vec 4, a := .vec 10, b := .num 3 }) := by decide
/-- Buffers: MAJ 0x28 and 0x29, FN 4. -/
theorem test_word_ldb : decodeWords [0x28083004] = .ok (.ldb .b32 { z with d := .vec 2, a := .vec 3, b := .num 0 }) := by decide
theorem test_word_stb : decodeWords [0x29143044] = .ok (.stb .b32 { z with d := .vec 5, a := .vec 3, b := .num 1 }) := by decide
/-- Atomics and commutative updates: MAJ 0x2A, 0x2B and 0x3B. -/
theorem test_word_atom : decodeWords [0x2A20A300] = .ok (.atom .add { z with d := .vec 8, a := .vec 10, b := .vec 12 }) := by decide
theorem test_word_atomb : decodeWords [0x2B0420C0] = .ok (.atomb .add { z with d := .vec 1, a := .vec 2, b := .vec 3 }) := by decide
theorem test_word_comm : decodeWords [0xBB000028, 0x02800000, 0] = .ok (.comm .fadd { zx with a := .vec 10, b := .vec 20 }) := by decide
/-- Synchronisation: WAIT, BAR ARRIVE and RING PUT. -/
theorem test_word_wait : decodeWords [0x2CFC0FFF] = .ok (.wait { z with d := .num 63, a := .num 0, b := .num 63, c := .num 63 }) := by decide
theorem test_word_bar : decodeWords [0x2E1C0C80] = .ok (.barArrive { z with d := .vec 7, b := .num 50 }) := by decide
/-- Engines: COPY, TILE MMA, FPROBE. -/
theorem test_word_copy : decodeWords [0x310D0000] = .ok (.copy { z with d := .num 3, a := .scl 16 }) := by decide
theorem test_word_tile : decodeWords [0x32014000] = .ok (.tileMma { z with a := .scl 20 }) := by decide
theorem test_word_fprobe : decodeWords [0x33080141] = .ok (.fprobe { z with d := .prd 2, b := .scl 5 }) := by decide
/-- System: LAUNCH, ZEROB, SYSCALL. -/
theorem test_word_launch : decodeWords [0x351C6000] = .ok (.launch { z with d := .scl 7, a := .scl 6 }) := by decide
theorem test_word_zerob : decodeWords [0x360020C4] = .ok (.zerob { z with a := .scl 2, b := .scl 3 }) := by decide
theorem test_word_syscall : decodeWords [0x37000300] = .ok (.syscall { z with b := .num 12 }) := by decide
/-- Hints: PFI, PFD, YIELD. -/
theorem test_word_pfi : decodeWords [0x3C000010] = .ok (.pfi { z with imm := 0x10 }) := by decide
theorem test_word_pfd : decodeWords [0x3D00A000] = .ok (.pfdL1 { z with a := .vec 10 }) := by decide
theorem test_word_yield : decodeWords [0x3E000000] = .ok (.yield z) := by decide
/-- The dual form: MAJ 0x39, guard p3; `FADD v4, v5, v6` beside `IADD v9, v10, v11`. -/
theorem test_word_dual : decodeWords [0xB964100C, 0x04050600, 0x090A0B00] = .ok (.dual ⟨3, false⟩ ⟨0x19, 0, 4, 5, 6, 0⟩ ⟨0x08, 0, 9, 10, 11, 0⟩) := by decide
/-- Words that are none (Table 3): RIDX is extended only, and LEN 01 needs two more words. -/
theorem test_word_ridx_base : (decodeWords [0x3A000000]).isOk = false := by decide
theorem test_word_truncated : (decodeWords [0x480C4000, 0x12345678]).isOk = false := by decide

/-! A small state: a group of four lanes, all in the bundle at 0x1000, in a team, a cluster and a grid of one core. -/

def lane (n : Nat) : Lane := { Lane.start 0x1000 with v := [(1, BitVec.ofNat 32 (10 + n)), (2, 3)] }
def team : Team :=
  { (default : Team) with
    uid := 1, lid := 5, die := 0, core := 0, cluster := 1, clsize := 1, asize := 16384, wsize := 16384, csize := 16384,
    bars := List.replicate 2 { expect := 4, pending := 4, phase := false, waiters := [] },
    rings := [{ (default : Ring) with base := 0, slotlog := 1, nslotm1 := 3, free := 4 }] }
def grp : Group := { (default : Group) with uid := 7, team := 1, width := 4, vcount := 64, lanes := [lane 0, lane 1, lane 2, lane 3] }
def cluster : Cluster := { (default : Cluster) with uid := 1, lid := 5, bars := List.replicate 16 { expect := 2, pending := 2, phase := true, waiters := [] } }
def grid : Grid := { (default : Grid) with lid := 5, asid := 3 }
def s : State := { State.reset with grp := grp, bundle := { lanes := 0xF, pc := 0x1000, secondary := false }, teams := [team], clusters := [cluster], grids := [grid] }

/-- The state an outcome gives. -/
def after (o : Out3) : State := match o with | .next t => t | _ => State.reset
/-- One lane that holds these in v1, v2 and v4. -/
def three (a b c : Word) : State := { s with grp := { grp with lanes := [{ lane 0 with v := [(1, a), (2, b), (4, c)] }] }, bundle := { s.bundle with lanes := 1 } }
def f3 : Fields := { z with d := .vec 3, a := .vec 1, b := .vec 2 }
def x3 : Fields := { zx with d := .vec 3, a := .vec 1, b := .vec 2, c := .vec 4 }
def fp3 : Fields := { f3 with ty := 4, md := 5 }
def fx3 : Fields := { x3 with ty := 4, md := 5 }
/-- v3 and the flags after an instruction that runs on v1 = a, v2 = b, v4 = c in one lane. -/
def res (i : Instr) (a b c : Word) : Word := ((after (exec i (three a b c))).laneAt 0).reg 3
def flags (i : Instr) (a b c : Word) : FFlags := ((after (exec i (three a b c))).laneAt 0).fflags
def bit (i : Instr) (a b : Word) : Bool := ((after (exec i (three a b 0))).laneAt 0).pred 3
/-- The same on the pairs v6:v7 and v8:v9, into v10:v11. -/
def res64 (i : Instr) (a b : DWord) : DWord :=
  let x := ((three 0 0 0).laneAt 0).setPair 6 a |>.setPair 8 b
  ((after (exec i { three 0 0 0 with grp := { grp with lanes := [x] } })).laneAt 0).pair 10
def f64 : Fields := { z with d := .vec 10, a := .vec 6, b := .vec 8 }
/-- s3 after a scalar instruction on s1 = a and s2 = b. -/
def resS (i : Instr) (a b : DWord) : DWord := (after (exec i { s with grp := { grp with s := [(1, a), (2, b)] } })).scl 3
def fs : Fields := { z with d := .scl 3, a := .scl 1, b := .scl 2 }
/-- The keys of major `m`, sub-opcode `q`. -/
def keys (m : BitVec 6) (q : BitVec 5) (fns : List (BitVec 3)) : List Key := fns.map (fun n => ⟨m, n, q⟩)

/-! Integers, predicates and scalars -/

theorem witness_IntegerArithmetic :
    (f3.d = .vec 3 ∧ f3.ty ∈ Enc.tI4 ∧ f3.ty ∈ Enc.tI2 ∧ ∀ k ∈ keys 8 0 [0, 1, 2, 3, 4, 5, 6, 7] ++ keys 9 0 [0, 1, 2, 3, 4, 5, 6, 7], entryStop k f3 s = none) ∧
    (x3.ty ∈ Enc.tI4 ∧ ∀ k ∈ keys 8 1 [0, 1, 2, 3, 4], entryStop k x3 s = none) := by decide
theorem witness_LogicAndShifts :
    (f3.ty ∈ Enc.tI4 ∧ f3.ty ∈ Enc.tI2 ∧ ∀ k ∈ keys 0x0A 0 [0, 1, 2, 3, 4, 5, 6, 7] ++ keys 0x0B 0 [0, 1, 2, 3, 4, 5, 6, 7], entryStop k f3 s = none) ∧
    (x3.ty ∈ Enc.tI4 ∧ entryStop ⟨0x0A, 0, 1⟩ x3 s = none) ∧
    ∀ k ∈ keys 0x0E 0 [1, 2, 3, 4], entryStop k { f3 with d := .prd 3, a := .prd 1, b := .lit 2 } s = none := by decide
theorem witness_BitOperations : f3.ty ∈ Enc.tI2 ∧ ∀ k ∈ keys 0x0C 0 [0, 1, 2, 3, 4, 5, 6, 7], entryStop k f3 s = none := by decide
theorem witness_ComparisonsAndPredicates :
    (∀ p ∈ ([0, 3] : List (BitVec 4)), let f := { f3 with d := .prd p }
      f.ty ∈ Enc.tIP ∧ (∀ k ∈ keys 0x0D 0 [0, 1, 2, 3, 4, 5, 6, 7], entryStop k f s = none) ∧ entryStop ⟨0x0E, 5, 0⟩ f s = none ∧
      (∀ k ∈ keys 0x12 0 [0, 1, 2, 3, 4, 5, 6, 7], entryStop k { f with a := .scl 1, b := .scl 2 } s = none) ∧
      ∀ k ∈ keys 0x0E 0 [1, 2, 3, 4], entryStop k { f with a := .prd 1, b := .prd 7 } s = none) ∧
    (f3.ty ∈ Enc.tSel ∧ entryStop ⟨0x0E, 0, 0⟩ f3 s = none) ∧ entryStop ⟨0x0E, 6, 0⟩ { f3 with a := .none, b := .none } s = none ∧
    entryStop ⟨0x0E, 7, 0⟩ { f3 with d := .none } s = none := by decide
theorem witness_SixtyFourBit : ∀ k ∈ keys 0x0F 0 [0, 1, 2, 3, 4, 5, 6, 7], entryStop k f64 s = none := by decide
theorem witness_ImmediatesAndScalars :
    let i : Fields := { z with d := .vec 3, a := .vec 1, imm := 0xFFF }
    (i.ty ∈ Enc.tSel ∧ i.ty ∈ Enc.tI2 ∧ i.b = .none ∧ entryStop ⟨0x15, 0, 0⟩ i s = none ∧ entryStop ⟨0x17, 0, 0⟩ i s = none) ∧
    (f3.ty ∈ Enc.tIP ∧ entryStop ⟨0x11, 7, 0⟩ { f3 with a := .scl 63, b := .none } s = none) ∧
    (∀ k ∈ keys 0x10 0 [0, 1, 2, 3, 4, 5, 6, 7] ++ keys 0x11 0 [0, 1, 2, 3, 4, 5], entryStop k fs s = none) ∧
    entryStop ⟨0x16, 0, 0⟩ { fs with a := .none, b := .none } s = none ∧ entryStop ⟨0x18, 0, 0⟩ { fs with b := .none } s = none ∧
    entryStop ⟨0x11, 6, 0⟩ { fs with a := .vec 1, b := .none } s = none := by decide

/-- R195, R196: wrap, saturation, the minimum by sign and without. -/
theorem test_iarith :
    res (.iadd f3) 0xFFFFFFFF 2 0 = 1 ∧ res (.isub f3) 1 2 0 = 0xFFFFFFFF ∧ res (.imin f3) 0x80000000 1 0 = 0x80000000 ∧
    res (.imax f3) 0x80000000 1 0 = 1 ∧ res (.umin f3) 0x80000000 1 0 = 1 ∧ res (.umax f3) 0x80000000 1 0 = 0x80000000 ∧
    res (.iadds x3) 0x7FFFFFFF 1 0 = 0x7FFFFFFF ∧ res (.isubs x3) 0x80000000 1 0 = 0x80000000 ∧ res (.uadds x3) 0xFFFFFFFF 1 0 = 0xFFFFFFFF ∧
    res (.usubs x3) 1 2 0 = 0 ∧ res (.iabs x3) 0x80000000 0 0 = 0x7FFFFFFF := by decide
/-- R195: the carry and the borrow of p7. -/
theorem test_carry :
    ((after (exec (.iaddc f3) (three 0xFFFFFFFF 1 0))).laneAt 0).pred 7 = true ∧ res (.iaddc f3) 0xFFFFFFFF 1 0 = 0 ∧
    ((after (exec (.isubb f3) (three 0 1 0))).laneAt 0).pred 7 = true ∧ res (.isubb f3) 0 1 0 = 0xFFFFFFFF := by decide
/-- R197 with the corners of its division table. -/
theorem test_imul :
    res (.imul f3) 0x10000 0x10001 0 = 0x10000 ∧ res (.imulh f3) 0xFFFFFFFF 2 0 = 0xFFFFFFFF ∧ res (.umulh f3) 0xFFFFFFFF 2 0 = 1 ∧
    res (.imad x3) 3 5 7 = 22 ∧ res (.idiv f3) 0xFFFFFFF9 2 0 = 0xFFFFFFFD ∧ res (.irem f3) 0xFFFFFFF9 2 0 = 0xFFFFFFFF ∧
    res (.idiv f3) 5 0 0 = 0xFFFFFFFF ∧ res (.irem f3) 5 0 0 = 5 ∧ res (.idiv f3) 0x80000000 0xFFFFFFFF 0 = 0x80000000 ∧
    res (.irem f3) 0x80000000 0xFFFFFFFF 0 = 0 ∧ res (.udiv f3) 0xFFFFFFF9 2 0 = 0x7FFFFFFC ∧ res (.urem f3) 7 0 0 = 7 := by decide
/-- R198: the truth tables; LOP3 with 0x96 is the XOR of three. -/
theorem test_logic :
    res (.and f3) 12 10 0 = 8 ∧ res (.or f3) 12 10 0 = 14 ∧ res (.xor f3) 12 10 0 = 6 ∧ res (.andn f3) 12 10 0 = 4 ∧ res (.orn f3) 12 10 0 = 0xFFFFFFFD ∧
    res (.xnor f3) 12 10 0 = 0xFFFFFFF9 ∧ res (.not f3) 12 0 0 = 0xFFFFFFF3 ∧ res (.mov f3) 12 0 0 = 12 ∧
    res (.lop3 { x3 with imm := 0x96 }) 12 10 9 = 15 := by decide
/-- R199: shifts by the width and more, rotation, counts. -/
theorem test_shift :
    res (.shl f3) 1 31 0 = 0x80000000 ∧ res (.shl f3) 1 32 0 = 0 ∧ res (.shr f3) 0x80000000 31 0 = 1 ∧ res (.sar f3) 0x80000000 40 0 = 0xFFFFFFFF ∧
    res (.rol f3) 0x80000001 33 0 = 3 ∧ res (.ror f3) 1 1 0 = 0x80000000 ∧ res (.brev f3) 1 0 0 = 0x80000000 ∧ res (.popc f3) 0xF0F 0 0 = 8 ∧
    res (.clz f3) 0x00010000 0 0 = 15 ∧ res (.clz f3) 0 0 0 = 32 := by decide
/-- R200. -/
theorem test_bits :
    res (.ctz f3) 8 0 0 = 3 ∧ res (.ctz f3) 0 0 0 = 32 ∧ res (.lea1 f3) 5 1 0 = 11 ∧ res (.lea2 f3) 5 1 0 = 21 ∧ res (.lea3 f3) 5 1 0 = 41 := by decide
/-- R201, R202: signed comparison, the discarded write to p0, SEL for false guards, and predicates gathered. -/
theorem test_predicates :
    bit (.icmp .lt { f3 with d := .prd 3 }) 0xFFFFFFFF 0 = true ∧ bit (.icmp .ult { f3 with d := .prd 3, ty := 1 }) 0xFFFFFFFF 0 = false ∧
    bit (.icmp .eq { f3 with d := .prd 0 }) 1 1 = false ∧ bit (.pset { f3 with d := .prd 3 }) 2 0 = true ∧ bit (.pand { f3 with d := .prd 3, a := .prd 0, b := .lit 3 }) 0 0 = true ∧ bit (.por { f3 with d := .prd 3, a := .prd 1, b := .lit 2 }) 0 0 = false ∧
    bit (.pand { f3 with d := .prd 3, a := .prd 0, b := .prd 0 }) 0 0 = true ∧ bit (.por { f3 with d := .prd 3, a := .prd 1, b := .prd 2 }) 0 0 = false ∧
    bit (.pxor { f3 with d := .prd 3, a := .prd 0, b := .prd 0 }) 0 0 = false ∧ bit (.pandn { f3 with d := .prd 3, a := .prd 0, b := .prd 1 }) 0 0 = true ∧
    res (.sel { f3 with gd := ⟨1, false⟩ }) 5 6 0 = 6 ∧ res (.p2v { f3 with a := .none, b := .none }) 0 0 0 = 1 ∧
    bit (.v2p { f3 with d := .none }) 0xF 0x8 = true ∧ bit (.scmp .eq { f3 with d := .prd 3, a := .scl 1, b := .scl 2 }) 0 1 = true := by decide
/-- R203. -/
theorem test_i64 :
    res64 (.iadd64 f64) 0xFFFFFFFF 1 = 0x100000000 ∧ res64 (.isub64 f64) 0 1 = 0xFFFFFFFFFFFFFFFF ∧ res64 (.shl64 f64) 1 63 = 0x8000000000000000 ∧
    res64 (.shr64 f64) 0x8000000000000000 63 = 1 ∧ res64 (.sar64 f64) 0x8000000000000000 64 = 0xFFFFFFFFFFFFFFFF ∧ res64 (.imulw f64) 0xFFFFFFFF 2 = 0xFFFFFFFFFFFFFFFE ∧
    res64 (.umulw f64) 0xFFFFFFFF 2 = 0x1FFFFFFFE ∧ res64 (.mov64 f64) 0x123456789 0 = 0x123456789 := by decide
/-- R204, R206. -/
theorem test_scalar :
    resS (.sadd fs) 0xFFFFFFFFFFFFFFFF 2 = 1 ∧ resS (.ssub fs) 1 2 = 0xFFFFFFFFFFFFFFFF ∧ resS (.smul fs) 0x100000000 3 = 0x300000000 ∧ resS (.sand fs) 12 10 = 8 ∧
    resS (.sor fs) 12 10 = 14 ∧ resS (.sxor fs) 12 10 = 6 ∧ resS (.sshl fs) 1 63 = 0x8000000000000000 ∧ resS (.sshr fs) 0x8000000000000000 64 = 0 ∧
    resS (.ssar fs) 0x8000000000000000 63 = 0xFFFFFFFFFFFFFFFF ∧ resS (.smin fs) 0xFFFFFFFFFFFFFFFF 1 = 0xFFFFFFFFFFFFFFFF ∧ resS (.smax fs) 0xFFFFFFFFFFFFFFFF 1 = 1 ∧
    resS (.sminu fs) 0xFFFFFFFFFFFFFFFF 1 = 1 ∧ resS (.smaxu fs) 0xFFFFFFFFFFFFFFFF 1 = 0xFFFFFFFFFFFFFFFF ∧ resS (.smov { fs with b := .none }) 7 0 = 7 ∧
    resS (.smovi { z with d := .scl 3, imm := 0xFFF }) 0 0 = 0xFFFFFFFFFFFFFFFF ∧ resS (.saddi { fs with b := .none, imm := 5 }) 7 0 = 12 ∧
    resS (.v2s { z with d := .scl 3, a := .vec 1 }) 0 0 = 10 ∧ res (.s2v { z with d := .vec 3, a := .scl 1 }) 0 0 0 = 0 ∧
    res (.movi { z with d := .vec 3, imm := 0xFFB }) 0 0 0 = 0xFFFFFFFB ∧ res (.iaddi { f3 with b := .none, imm := 0xFFF }) 1 0 0 = 0 := by decide

/-! Floating point -/

/-- 64 lanes, as the reductions need. -/
def s64 : State := { s with grp := { grp with width := 64, lanes := List.replicate 64 (lane 0) }, bundle := { s.bundle with lanes := 0xFFFFFFFFFFFFFFFF } }

theorem quiet : quietTraps s.grp := by unfold quietTraps; decide
theorem noflush : noFlush s.grp fp3 ∧ noFlush s.grp fx3 ∧ noFlush s.grp z ∧ noFlush s64.grp fp3 := by unfold noFlush; decide

/-- The patterns of 1 and 2, which the exact cases rest on, and inputs of each special case. -/
theorem witness_values : realOf Fp.f32 0x3F800000 = some 1 ∧ realOf Fp.f32 0x40000000 = some 2 ∧ realOf Fp.f16 0x3C00 = some 1 ∧ realOf Fp.bf16 0x3F80 = some 1 ∧
    realOf Fp.f32 0x7F800000 = none ∧ isNaN Fp.f32 0x7FC00000 = true ∧ isSNaN Fp.f32 0x7F800001 = true ∧ isInfinity Fp.f32 0xFF800000 = true ∧
    isZeroPat Fp.f32 0x80000000 = true := by decide +kernel
theorem witness_FloatingExact : fp3.d = .vec 3 ∧ fp3.ty ∈ Enc.tF ∧ ∀ k ∈ keys 0x19 0 [0, 1, 2, 3] ++ keys 0x1D 0 [0], entryStop k fp3 s = none := by decide
theorem witness_FloatingSpecials : fx3.ty ∈ Enc.tF ∧ ∀ k ∈ keys 0x19 0 [0, 1, 2, 3] ++ keys 0x1D 0 [0], entryStop k fx3 s = none := by decide
theorem witness_FloatingSelection : fp3.ty ∈ Enc.tF ∧ ∀ k ∈ keys 0x19 0 [4, 5, 6, 7] ++ keys 0x1A 0 [0, 1, 2, 3, 4, 5, 6, 7], entryStop k fp3 s = none := by decide
theorem witness_FloatingSpecialFunctions : fp3.ty = 4 ∧ ∀ k ∈ keys 0x1B 0 [0, 1, 2, 3, 4, 5, 6, 7], entryStop k fp3 s = none := by decide
theorem witness_FloatingCompare : ∀ k ∈ keys 0x1C 0 [0, 1, 2, 3, 4, 5, 6, 7], ∀ p ∈ ([0, 3] : List (BitVec 4)), entryStop k { fp3 with d := .prd p } s = none := by decide
theorem witness_PackedExact : ∀ k ∈ keys 0x1D 0 [1, 2, 3, 4, 5, 6] ++ keys 0x1E 0 [2, 3], entryStop k f3 s = none := by decide
theorem witness_BytesAndBlocks :
    (∀ k ∈ keys 0x1E 0 [0, 1], entryStop k f3 s = none) ∧ entryStop ⟨0x38, 4, 0⟩ { x3 with b := .none, c := .none } s = none ∧ s.anyActive z.gd = true := by decide
/-- QNT, DEQ, ROT and IROT of eight registers (a unit divides the span), of one (it does not), and of eight under a tag that does not match. -/
theorem witness_Blocks : ∀ k ∈ keys 0x38 0 [0, 1, 2, 3],
    entryStop k { zx with d := .vec 40, a := .vec 32, b := .scl 6, md := 5, imm := 0x705 } s = none ∧
    entryStop k { zx with d := .vec 40, a := .vec 32, b := .scl 6, md := 5, imm := 0x005 } s = none ∧
    entryStop k { zx with d := .vec 40, a := .vec 32, b := .scl 6, md := 5, imm := 0x705 } { s with grp := { grp with s := [(6, 0x21)] } } = none := by decide
theorem witness_Conversions :
    (∀ k ∈ ([0, 16, 34, 35] : List Nat), Enc.cvtDefined k = true) ∧ entryStop ⟨0x1F, 0, 0⟩ { f3 with d := .vec 4, b := .num 0 } s = none ∧
    entryStop ⟨0x1F, 4, 0⟩ { f3 with b := .num 16 } s = none ∧ entryStop ⟨0x1F, 0, 0⟩ { f3 with b := .num 35 } s = none := by decide

/-- A signaling NaN in lane 1 with the invalid exception enabled. -/
def sTrap : State := { s with grp := { grp with trapen := 0x1F, trapv := 0x2000, lanes := [lane 0, { lane 1 with v := [(1, 0x7F800001)] }] }, bundle := { s.bundle with lanes := 3 } }
theorem witness_FloatingTrap :
    fp3.ty ∈ Enc.tF ∧ entryStop ⟨0x19, 0, 0⟩ fp3 sTrap = none ∧ sTrap.grp.trapv ≠ 0 ∧ sTrap.grp.utrap = false ∧ (∀ p ∈ sTrap.actives fp3.gd, p.2.inH = false) ∧
    sTrap.grp.lanes.length ≤ 128 ∧ ∃ p ∈ sTrap.actives fp3.gd,
      (farithOp 0 Fp.f32 (fpMode sTrap.grp fp3) (srcVal sTrap.grp .f32 p.2 fp3.a) (srcVal sTrap.grp .f32 p.2 fp3.b) (srcVal sTrap.grp .f32 p.2 (third fp3))).2 &&&
        sTrap.grp.trapen.setWidth 5 ≠ 0 := by decide +kernel

/-- R90, R92, R215, R222: exact sums, a tie to even with NX, and the invalid and zero-divisor cases. -/
theorem test_farith :
    res (.fadd fp3) 0x3F800000 0x40000000 0 = 0x40400000 ∧ res (.fadd fp3) 0x3F800000 0x33800000 0 = 0x3F800000 ∧ flags (.fadd fp3) 0x3F800000 0x33800000 0 = flagNX ∧
    res (.fsub fp3) 0x7F800000 0x7F800000 0 = 0x7FC00000 ∧ flags (.fsub fp3) 0x7F800000 0x7F800000 0 = flagNV ∧ res (.fmul fp3) 0x40000000 0xC0400000 0 = 0xC0C00000 ∧
    flags (.fmul fp3) 0 0xFF800000 0 = flagNV ∧ res (.ffma fx3) 0x40000000 0x40400000 0x3F800000 = 0x40E00000 ∧ res (.fdiv fp3) 0x3F800000 0x80000000 0 = 0xFF800000 ∧
    flags (.fdiv fp3) 0x3F800000 0x80000000 0 = flagDZ ∧ res (.fdiv fp3) 0x40C00000 0x40000000 0 = 0x40400000 := by decide +kernel
/-- R216 to R218. -/
theorem test_fselect :
    res (.fmin fp3) 0 0x80000000 0 = 0x80000000 ∧ res (.fmax fp3) 0x80000000 0 0 = 0 ∧ res (.fmin fp3) 0x7FC00000 0x3F800000 0 = 0x7FC00000 ∧
    res (.fminm fp3) 0x7FC00001 0x3F800000 0 = 0x3F800000 ∧ res (.fmaxm fp3) 0x3F800000 0x40000000 0 = 0x40000000 ∧ res (.fabs fp3) 0xFFC00001 0 0 = 0x7FC00001 ∧
    res (.fneg fp3) 0x7FC00001 0 0 = 0xFFC00001 ∧ res (.fcopysign fp3) 0x3F800000 0x80000000 0 = 0xBF800000 ∧ res (.frnd fp3) 0x40200000 0 0 = 0x40000000 ∧
    res (.ffrac fp3) 0xC0200000 0 0 = 0xBF000000 ∧ res (.fgetexp fp3) 0x41000000 0 0 = 3 ∧ res (.fgetexp fp3) 0 0 0 = 0x80000000 ∧
    res (.fclass fp3) 0x7F800001 0 0 = 0x100 ∧ res (.fscale fp3) 0x3F800000 4 0 = 0x41800000 := by decide +kernel
/-- R219, R220: exact and special results. -/
theorem test_fspec :
    res (.frcp fp3) 0x40000000 0 0 = 0x3F000000 ∧ flags (.frcp fp3) 0 0 0 = flagDZ ∧ res (.frsq fp3) 0x40800000 0 0 = 0x3F000000 ∧ res (.fsqrt fp3) 0x41100000 0 0 = 0x40400000 ∧
    res (.fexp2 fp3) 0x40400000 0 0 = 0x41000000 ∧ res (.flog2 fp3) 0x41000000 0 0 = 0x40400000 ∧ res (.flog2 fp3) 0xBF800000 0 0 = 0x7FC00000 ∧
    res (.fsin fp3) 0x80000000 0 0 = 0x80000000 ∧ res (.fcos fp3) 0 0 0 = 0x3F800000 ∧ res (.ftanh fp3) 0xFF800000 0 0 = 0xBF800000 := by decide +kernel
/-- R221: zeros compare equal, LT with a quiet NaN is loud and EQ is not. -/
theorem test_fcmp :
    bit (.fcmp .eq { fp3 with d := .prd 3 }) 0 0x80000000 = true ∧ bit (.fcmp .lt { fp3 with d := .prd 3 }) 0xBF800000 0x3F800000 = true ∧
    bit (.fcmp .ne { fp3 with d := .prd 3 }) 0x7FC00000 0 = true ∧ flags (.fcmp .lt { fp3 with d := .prd 3 }) 0x7FC00000 0 0 = flagNV ∧
    flags (.fcmp .eq { fp3 with d := .prd 3 }) 0x7FC00000 0 0 = 0 := by decide +kernel
/-- R223 to R225. -/
theorem test_packed :
    res (.hadd2 f3) 0x3C003C00 0x3C003C00 0 = 0x40004000 ∧ res (.hmul2 f3) 0x40003C00 0x40004000 0 = 0x44004000 ∧ res (.hfma2 x3) 0x3C003C00 0x3C003C00 0x3C003C00 = 0x40004000 ∧
    res (.badd2 f3) 0x3F803F80 0x3F803F80 0 = 0x40004000 ∧ res (.bmul2 f3) 0x40004000 0x40004000 0 = 0x40804080 ∧ res (.bfma2 x3) 0x3F803F80 0x3F803F80 0x3F803F80 = 0x40004000 ∧
    res (.dot2h x3) 0x3C003C00 0x3C003C00 0x3F800000 = 0x40400000 ∧ res (.dot2b x3) 0x3F803F80 0x3F803F80 0x3F800000 = 0x40400000 ∧
    res (.dot4i x3) 0xFFFFFFFF 0x02020202 10 = 2 ∧ res (.dot4u x3) 0xFFFFFFFF 0x02020202 10 = 2050 := by decide +kernel
/-- R226 to R228, R233: ties to even, saturation, NaN to zero, and the scale byte of 1. -/
theorem test_convert :
    res (.cvt 0 { f3 with b := .num 16 }) 0x40200000 0 0 = 2 ∧ res (.cvt 0 { f3 with b := .num 16 }) 0xFF800000 0 0 = 0x80000000 ∧
    flags (.cvt 0 { f3 with b := .num 16 }) 0x7FC00000 0 0 = flagNV ∧ res (.cvt 0 { f3 with b := .num 24 }) 0xFFFFFFFF 0 0 = 0xBF800000 ∧
    res (.cvt 0 { f3 with b := .num 2 }) 0x3F800000 0 0 = 0x3C00 ∧ res (.scale { x3 with b := .none, c := .none, md := 5 }) 0x3F800000 0 0 = 127 := by decide +kernel
/-- Table 5 of 04_number_formats.md: E5M2 (FMT 5) is the code of 1.0, 0x3C, in the low byte; with block code 0 ROT copies. -/
theorem test_rot :
    let t := after (exec (.rot { zx with d := .vec 40, a := .vec 1, b := .scl 6, md := 5, imm := 0x100 }) s)
    (t.laneAt 1).reg 40 = 11 ∧ (t.laneAt 1).reg 41 = 3 ∧ (t.laneAt 1).pc = 0x100C := by decide +kernel

/-! Frames, special registers, registers by number, across lanes -/

theorem witness_LaneFrame :
    Enc.parts (.iadd f3) = some (⟨0x08, 0, 0⟩, f3) ∧ (Instr.iadd f3).wellFormed = true ∧ laneWise ⟨0x08, 0, 0⟩ f3 = true ∧ entryStop ⟨0x08, 0, 0⟩ f3 s = none ∧
    laneWise ⟨0x19, 0, 0⟩ fp3 = true ∧ mayFlag ⟨0x19, 0, 0⟩ = true ∧ goesOn (exec (.fadd fp3) s) ∧ goesOn (exec (.iadd f3) s) :=
  ⟨by decide, by decide, by decide, by decide, by decide, by decide, ⟨_, rfl⟩, ⟨_, rfl⟩⟩
theorem witness_SpecialRegisters :
    entryStop ⟨0x13, 0, 0⟩ { z with d := .vec 3, c := .num 0 } s = none ∧ entryStop ⟨0x13, 0, 0⟩ { z with d := .scl 3, c := .num 0, imm := 0x037 } s = none ∧
    Enc.tIP.contains z.ty = true ∧ s.elect z.gd = some (0, lane 0) ∧ swf (0 : DWord) s.grp.sseed = true ∧ Enc.isPairTy 2 = true := by decide
/-- The first and the last register of group scope that SETS writes, and FFLAGS, from each kind of source. -/
theorem witness_Sets :
    entryStop ⟨0x14, 0, 0⟩ { z with a := .vec 1, c := .num 0, imm := 0x013 } s = none ∧ entryStop ⟨0x14, 0, 0⟩ { z with a := .vec 1, c := .num 0, imm := 0x014 } s = none ∧
    entryStop ⟨0x14, 0, 0⟩ { z with a := .scl 1, c := .num 0, imm := 0x032 } s = none ∧
    entryStop ⟨0x14, 0, 0⟩ { zx with b := .vec 6, c := .num 0, ty := 2, imm := 0x020 } s = none ∧
    entryStop ⟨0x14, 0, 0⟩ { zxl with b := .lit 5, c := .num 0, imm := 0x027 } s = none := by decide
theorem witness_RegistersByNumber :
    s.anyActive z.gd = true ∧ ∀ p ∈ ([(0, none), (63, none), (64, some .regrange), (0x600, none), (0x63F, none), (0x64F, none), (0x650, some .regrange)] : List (BitVec 24 × Option Cause)),
      let f : Fields := { zx with d := .vec 3, a := .scl 1, b := .vec 1, imm := p.1 }
      let k := namedCode f s
      (if 0x64F < k then some .regrange else if k < 0x600 ∧ s.grp.vcount < k + 1 then some .regrange else none) = p.2 ∧ f.ty ∈ Enc.tIP ∧
      markedFault z.gd [(k, 1)] s = none ∧ entryStop ⟨0x3A, 0, 0⟩ f s = none ∧ entryStop ⟨0x3A, 1, 0⟩ { f with d := .none } s = none := by decide
theorem witness_ShuffleAndPut :
    f3.ty ∈ Enc.tX ∧ (∀ k ∈ keys 0x20 0 [0, 1, 2, 3], entryStop k f3 s = none) ∧ (∀ k ∈ keys 0x20 0 [4, 5, 6, 7], entryStop k { f3 with b := .num 1 } s = none) ∧
    (∀ k ∈ keys 0x20 0 [0, 1, 2, 3], entryStop k { x3 with imm := 1 } s = none) ∧ entryStop ⟨0x25, 0, 0⟩ f3 s = none := by decide
theorem witness_VotesAndReductions :
    s.grp.lanes.length ≤ 128 ∧ (∀ k ∈ keys 0x21 0 [0, 1, 3], entryStop k { z with d := .prd 3, a := .vec 1 } s = none) ∧
    (∀ k ∈ keys 0x21 0 [2, 4, 5, 6, 7], entryStop k { z with d := .vec 4, a := .vec 1 } s = none) ∧ s64.grp.lanes.length = 64 ∧
    isIntRed .iadd = true ∧ isIntRed .fmax = false ∧ (∀ k ∈ keys 0x22 0 [0, 6, 7] ++ keys 0x24 0 [0], entryStop k { f3 with b := .none, md := 5 } s64 = none) ∧
    entryStop ⟨0x23, 0, 0⟩ { f3 with b := .num 5, md := 5 } s64 = none ∧ { s64 with bundle := { s64.bundle with lanes := 1 } }.actives z.gd = [(0, lane 0)] ∧
    isNaN Fp.f32 (srcVal s64.grp .f32 (lane 0) (.vec 1)) = false ∧ isZeroPat Fp.f32 (srcVal s64.grp .f32 (lane 0) (.vec 1)) = false := by decide
theorem witness_DualForm :
    pairing ⟨0x19, 0, 4, 5, 6, 0⟩ ⟨0x19, 0, 4, 10, 11, 0⟩ = true ∧ dualStop ⟨0, false⟩ ⟨0x19, 0, 4, 5, 6, 0⟩ ⟨0x08, 0, 9, 10, 11, 0⟩ s = none ∧
    (Enc.build (dualKey ⟨0x19, 0, 4, 5, 6, 0⟩) (dualFields ⟨0x19, 0, 4, 5, 6, 0⟩ ⟨0, false⟩)).isSome = true ∧
    (Enc.build (dualKey ⟨0x08, 0, 9, 10, 11, 0⟩) (dualFields ⟨0x08, 0, 9, 10, 11, 0⟩ ⟨0, false⟩)).isSome = true := by decide
theorem witness_DecodeEncode : Enc.isEvent (.iadd f3) = false ∧ (Instr.iadd f3).wellFormed = true ∧ encode (.iadd f3) = [0x080C1080] := by decide
theorem witness_DecodedWellFormed : decodeWords [0x080C1080] = .ok (.iadd f3) := by decide

/-- R208 to R210: LANEID as each lane sees it, a word of a 64-bit register set, a register named at run time. -/
theorem test_special :
    ((after (exec (.gets { z with d := .vec 3, c := .num 0 }) s)).laneAt 2).reg 3 = 2 ∧ (after (exec (.gets { z with d := .scl 3, c := .num 0, imm := 1 }) s)).scl 3 = 4 ∧
    (after (exec (.sets { z with a := .vec 1, c := .num 1, imm := 0x020 }) s)).grp.sseed = [(0, 0xA00000000)] ∧
    ((after (exec (.rget { zx with d := .vec 3, a := .scl 1, imm := 2 }) s)).laneAt 0).reg 3 = 3 ∧
    ((after (exec (.rset { zx with a := .scl 1, b := .vec 1, imm := 5 }) s)).laneAt 3).reg 5 = 13 := by decide
/-- R235 to R240 in a bundle of four lanes that hold 10 to 13 in v1 and 3 in v2. -/
theorem test_across :
    let v (i : Instr) (l : Nat) : Word := ((after (exec i s)).laneAt l).reg 3
    v (.shflIdx f3) 0 = 13 ∧ v (.shflUp f3) 3 = 10 ∧ v (.shflUp f3) 0 = 0 ∧ v (.shflDown f3) 0 = 13 ∧ v (.shflXor f3) 1 = 12 ∧
    v (.shflXorw { f3 with b := .num 1 }) 0 = 12 ∧ v (.shflUpw { f3 with b := .num 1 }) 2 = 10 ∧ v (.shflDownw { f3 with b := .num 1 }) 1 = 13 ∧
    v (.shflRotw { f3 with b := .num 1 }) 3 = 11 ∧ v (.putl f3) 3 = 13 ∧ v (.putl f3) 0 = 0 := by decide
theorem test_votes :
    let v (i : Instr) (l : Nat) : Word := ((after (exec i s)).laneAt l).reg 4
    let p (i : Instr) (l : Nat) : Bool := ((after (exec i s)).laneAt l).pred 3
    let a : Fields := { z with d := .vec 4, a := .vec 1 }
    let q : Fields := { z with d := .prd 3, a := .vec 1 }
    p (.voteAll q) 0 = true ∧ p (.voteAny q) 1 = true ∧ p (.voteElect q) 0 = true ∧ p (.voteElect q) 1 = false ∧ v (.voteBallot a) 2 = 0xF ∧ v (.voteLmask a) 2 = 3 ∧
    v (.voteActm a) 0 = 0xF ∧ v (.votePopa a) 0 = 4 ∧ v (.voteMatch { a with a := .vec 2 }) 3 = 0 := by decide
theorem test_reductions :
    let v (i : Instr) (l : Nat) : Word := ((after (exec i s64)).laneAt l).reg 3
    v (.rdx .iadd { f3 with b := .none, md := 5 }) 5 = 640 ∧ v (.scan .iadd { f3 with b := .none, md := 5 }) 2 = 30 ∧ v (.rstep .imax { f3 with b := .num 0, md := 5 }) 2 = 10 := by decide +kernel
/-- R175, R176: `FADD v4, v1, v2` beside `IADD v9, v1, v2`. -/
theorem test_dual :
    let t := after (exec (.dual ⟨0, false⟩ ⟨0x19, 0, 4, 1, 2, 0⟩ ⟨0x08, 0, 9, 1, 2, 0⟩) (three 0x3F800000 0x40000000 0))
    (t.laneAt 0).reg 4 = 0x40400000 ∧ (t.laneAt 0).reg 9 = 0x7F800000 ∧ (t.laneAt 0).pc = 0x100C := by decide +kernel

/-! The machine as a whole -/

/-- One instruction at the place where `step` fetches, from reset; `IADD v3, v1, v2`. -/
def s0 : State := State.reset.withFetchWord 32 0x080C1080
/-- The group of `s` with this change. -/
def sg (h : Group → Group) : State := { s with grp := h grp }
/-- Every lane of `s` with this change. -/
def sl (h : Lane → Lane) : State := sg (fun g => { g with lanes := g.lanes.map h })
/-- A context whose descriptor is this. -/
def ctx (d : BitVec 1024) : Ctx := { (default : Ctx) with asid := 3, desc := d }

theorem witness_KnownWords : decodeWords [0x00000000] = .ok (.nop z) := by decide
theorem witness_StepRunsDecoded :
    let c := State.choose { s0 with agenda := [] } 0
    s0.agenda = [.issue 0] ∧ c.2 = true ∧ portPoison c.1 = none ∧ overrun c.1 = none ∧
    (match c.1.fetchBundle with | .words ws _ => ws | _ => []) = [0x080C1080] ∧
    { s0 with agenda := [.event (.claim 0)] }.agenda = [.event (.claim 0)] ∧ Enc.isEvent (.claim 0) = true := by decide +kernel
theorem witness_MemoryStaysCanonical : Memory.wf s.mem = true ∧ Memory.wf [(8, 1), (12, 8)] = true := by decide
theorem witness_FaultEntry :
    (Enc.parts (.iadd { f3 with b := .vec 64 }) = some (⟨0x08, 0, 0⟩, { f3 with b := .vec 64 }) ∧ outOfRange ⟨0x08, 0, 0⟩ { f3 with b := .vec 64 } s.grp.vcount = true) ∧
    s.grp.method = none ∧ s.privileged = false ∧ 0x800 ≤ (0x800 : BitVec 24).toNat := by decide

/-! Control flow, lane control, traps and privileged entry -/

/-- A branch table of one entry behind the BTAB at 0x1000: the TGT word at 0x1004, under a translation of the first 16 GiB. -/
def tlb (u : Nat) : TlbEntry := { (default : TlbEntry) with unit := u, asid := 3, szlg := 34, r := true, w := true, x := true, u := true }
def sm : State := { s with tlbs := [tlb 0, tlb 4096, tlb 8192] }
def sTab : State := { sm with mem := [(0x1004, 2), (0x1007, 5)] }
theorem witness_Branches :
    (∀ k ∈ keys 1 0 [0] ++ keys 2 0 [0], entryStop k z s = none ∧ entryStop k zx s = none ∧ entryStop k zxl s = none) ∧
    (∀ k ∈ keys 3 0 [0, 1, 2], entryStop k { z with a := .vec 10 } s = none) ∧ s.isSealed = false ∧
    (∀ p ∈ s.actives z.gd, (pairOf s.grp .i64 (.vec 10) p.2).extractLsb' 0 2 = 0) ∧ (pairOf s.grp .i64 (.vec 2) (lane 0)).extractLsb' 0 2 ≠ 0 ∧
    entryStop ⟨4, 0, 0⟩ { z with a := .vec 3, imm := 1 } sTab = none ∧ (∀ p ∈ sTab.actives z.gd, (wordOf sTab.grp .un32 (.vec 3) p.2).toNat < 1) ∧
    fetchWord sTab sTab.me 0x1004 = .ok 0x05000002 ∧ (0x05000002 : Word).extractLsb' 24 8 = 5 ∧ (wordOf sTab.grp .un32 (.vec 2) (lane 0)).toNat = 3 := by decide +kernel
/-- An episode at 0x1000 that ends at cycle 40, with lane 0 held there; and a lane asleep until cycle 9. -/
def sJoin (c : Nat) : State :=
  { sg (fun g => { g with lanes := [{ lane 0 with st := .joined }, { lane 1 with st := .timed, hold := .timed 9 0x1004 }], eps := [{ pc := 0x1000, start := 0, limit := 40, len := 4 }] }) with
    cycle := c }
/-- A group that is the only one. -/
theorem only_grp (t : State) (h : t.allGroups = [t.grp]) : t.only t.grp := by
  unfold State.only; rw [h]; exact ⟨List.mem_cons_self .., fun y hy _ => by simpa using hy⟩
theorem only_sJoin (c : Nat) : (sJoin c).only (sJoin c).grp := only_grp _ rfl
theorem witness_LaneControl :
    (∀ f ∈ [{ z with imm := 1 }, { z with imm := 0xFFF }, z], entryStop ⟨6, 0, 0⟩ f s = none) ∧ s.anyActive z.gd = true ∧ s.grp.eps = [] ∧ s.grp.jointo = 0 ∧
    (∃ e ∈ (sJoin 0).grp.eps, e.pc = (sJoin 0).bundle.pc ∧ e.start + e.limit = 40 ∧ 0 < e.limit) ∧ entryStop ⟨7, 0, 0⟩ z s = none ∧
    (∀ p ∈ s.actives z.gd, ∀ m ∈ p.2.marked, m.rcause ≠ 0) ∧ s.grp.utrap = false ∧ entryStop ⟨7, 3, 0⟩ { z with a := .scl 1 } s = none ∧
    ((sJoin 9).grp.lanes.getD 1 default).hold = .timed 9 0x1004 ∧ ((sJoin 8).grp.lanes.getD 1 default).st = .timed ∧
    (∀ x ∈ (sJoin 40).grp.lanes, ¬(x.st = .eligible ∧ x.free ≤ (sJoin 40).cycle)) ∧ (∀ y ∈ (sJoin 40).grp.eps, y.pc = 0x1000) ∧
    (∃ x ∈ (sJoin 39).grp.lanes, ¬(x.st = .exited ∨ (x.st = .joined ∧ x.pc = 0x1000))) := by decide
/-- A handler at 0x2000; and lanes that are in it. -/
def sHandler : State := sg (fun g => { g with trapv := 0x2000 })
def sIn : State := { sl (fun x => { x with inH := true }) with bundle := s.bundle }
theorem witness_UserTraps :
    (∀ k ∈ keys 7 0 [1, 2, 4], entryStop k { z with b := .num 5 } sHandler = none ∧ entryStop k { z with b := .num 5 } sIn = none) ∧ sHandler.grp.method = none ∧
    (sHandler.actives z.gd).length = 4 ∧ sHandler.grp.trapv ≠ 0 ∧ (∀ p ∈ sHandler.actives z.gd, p.2.inH = false) ∧ sHandler.grp.utrap = false ∧
    (∀ p ∈ sIn.actives z.gd, p.2.inH = true) ∧ s.grp.trapv = 0 ∧ s.actives ⟨1, false⟩ = [] := by decide
/-- The privileged state: lanes in the system-call routine; a context with a routine; a group told to PREEMPT. -/
def sSys : State := { sl (fun x => { x with routine := some .syscall }) with bundle := s.bundle }
def sCtx : State := { s with ctxs := [ctx ((0x8000 : BitVec 1024) <<< 576)] }
def sPre : State := sg (fun g => { g with preempt := true })
/-- Lanes in the restore routine that were joined. -/
def sBack : State := { sg (fun g => { g with aside := true, lanes := g.lanes.map (fun x => { x with routine := some .restore, prpc := 0x2000, prstate := 2 }) }) with
  bundle := s.bundle, tlbs := [tlb 0, tlb 4096, tlb 8192] }
theorem only_sPre : sPre.only sPre.grp := only_grp _ rfl
theorem witness_PrivilegedEntry :
    entryStop ⟨0x37, 0, 0⟩ { z with b := .num 12 } sCtx = none ∧ (sCtx.ctx (sCtx.asidOf sCtx.grp)).sysv = 0x8000 ∧ (s.ctx 3).sysv = 0 ∧
    (∀ p ∈ sCtx.actives z.gd, p.2.st = .eligible) ∧ entryStop ⟨0x36, 6, 0⟩ z sSys = none ∧ (∀ p ∈ sSys.actives z.gd, p.2.routine.isSome = true) ∧ sSys.grp.aside = false ∧
    (∀ p ∈ sSys.actives z.gd, bitsOf p.2.prstate 0 4 ≠ 2 ∧ bitsOf p.2.prstate 0 4 ≠ 7) ∧ sPre.grp.preempt = true ∧ sPre.grp.uid ≠ 0 ∧
    (∀ x ∈ sPre.grp.lanes, x.st ≠ .faulted ∧ x.routine = none) ∧ sPre.waiters = [] ∧ sCtx.isAssay sCtx.grp.uid = false ∧
    (match rftReads z sSys with | .ok ws => ws.length | _ => 1) = 0 ∧ rftFull z sSys = false ∧
    (∀ p ∈ sBack.actives z.gd, p.2.routine = some .restore ∧ bitsOf p.2.prstate 0 4 = 2) ∧ entryStop ⟨0x36, 6, 0⟩ z sBack = none ∧
    (match rftReads z sBack with | .ok ws => ws.length | _ => 0) = 4 ∧ rftFull z sBack = false ∧ sBack.grp.aside = true ∧
    (match rftReads z { sBack with tlbs := [] } with | .fault i => i.cause | _ => .illegal) = .fetch := by decide +kernel

/-- R188 to R192: a branch backwards, the link of a call, a register that is not aligned, and a table. -/
theorem test_branches :
    ((after (exec (.bra { z with imm := 0xFFFFD }) s)).laneAt 2).pc = 0xFF4 ∧ ((after (exec (.call { z with imm := 4 }) s)).laneAt 0).pc = 0x1010 ∧
    ((after (exec (.call { z with imm := 4 }) s)).laneAt 0).pair 62 = 0x1004 ∧ ((after (exec (.braX { zxl with lit := 0x402000 }) s)).laneAt 0).pc = 0x402000 ∧
    ((after (exec (.callX { zx with imm := 0xFFFF }) s)).laneAt 0).pc = 0xFFC ∧ ((after (exec (.jmpr { z with a := .vec 2 }) s)).laneAt 0).st = .faulted ∧
    ((after (exec (.callr { z with a := .vec 10 }) s)).laneAt 0).pair 62 = 0x1004 ∧ ((after (exec (.ret z) s)).laneAt 0).pc = 0 ∧
    ((after (exec (.btab { z with a := .vec 3, imm := 1 }) sTab)).laneAt 0).pc = 0x100C ∧ (after (exec (.tgt z) s)).faults.map (fun r => r.cause) = [.illegal] ∧
    ((after (exec (.nop z) s)).laneAt 3).pc = 0x1004 := by decide +kernel
/-- R12, R20, R193: the last lane of a team exits, JOIN holds, an episode that is over lets go, and a sleep that is over ends. -/
theorem test_lanes :
    (after (exec (.exit z) s)).teams.map (fun t => t.exited) = [true] ∧ ((after (exec (.exit z) s)).laneAt 0).st = .exited ∧
    ((after (exec (.join { z with imm := 5 }) s)).laneAt 0).st = .joined ∧ (after (exec (.joinX { zx with imm := 5000 }) s)).grp.eps.map (fun e => e.limit) = [40000] ∧
    ((after (exec (.joinTimeout 7 0x1000) (sJoin 40))).laneAt 0).pc = 0x1004 ∧ ((after (exec (.joinTimeout 7 0x1000) (sJoin 39))).laneAt 0).pc = 0x1000 ∧
    ((after (exec (.sleep { z with a := .scl 1 }) (sg (fun g => { g with s := [(1, 100)] })))).laneAt 0).hold = .timed 100 0x1004 ∧
    ((after (exec (.timedExpiry 7 1) (sJoin 9))).laneAt 1).pc = 0x1004 := by decide
/-- R32, R33, R282, R292, R358: user traps, returns, system calls and PREEMPT. -/
theorem test_traps :
    (after (exec (.trap { z with b := .num 5 }) sHandler)).grp.tcause = 0x1402 ∧ ((after (exec (.trap { z with b := .num 5 }) sHandler)).laneAt 0).pc = 0x2000 ∧
    (after (exec (.bkpt z) sHandler)).grp.tcause = 3 ∧ ((after (exec (.rett z) sIn)).laneAt 0).inH = false ∧
    ((after (exec (.syscall { z with b := .num 12 }) sCtx)).laneAt 1).prpc = 0x1004 ∧ (after (exec (.syscall { z with b := .num 12 }) sCtx)).grp.pcause = 0xC0002 ∧
    ((after (exec (.rft z) sSys)).laneAt 0).routine = none ∧ ((after (exec (.preemptEntry 7) sPre)).laneAt 0).routine = some .save := by decide +kernel

/-! Memory accesses -/

def fm : Fields := { z with d := .vec 4, a := .vec 10, b := .num 3 }
def fc : Fields := { zx with d := .vec 4, a := .vec 10, b := .vec 1, c := .vec 2, md := 2 }
/-- The range table at 0 declares [0, 128) for IADD. -/
def sRange : State := { sm with mem := [(8, 1), (12, 8), (15, 0x80)] }
/-- A host-mode context whose format table's page is in no TLB. -/
def sAwaits : State := { sm with hostMode := true, ctxs := [ctx ((1 : BitVec 1024) <<< 168)] }
theorem witness_GlobalAccesses :
    (∀ k ∈ keys 0x26 0 [0, 1, 2, 3, 4, 5, 6, 7] ++ keys 0x27 0 [0, 2, 4, 5, 6, 7], entryStop k fm sm = none) ∧ (∀ k ∈ keys 0x2A 0 [0, 1, 2, 3, 4, 5, 6, 7], entryStop k fc sm = none) ∧
    entryStop ⟨0x2A, 0, 1⟩ fc sm = none ∧ s.grp.method = none ∧ sm.actives ⟨1, false⟩ = [] ∧
    (let ea (x : Lane) : DWord := vaWith sm.grp fm (offsetOf sm.grp fm 4 x) x;
      (∀ q ∈ sm.actives z.gd, (ea q.2).toNat < 2 ^ 52 ∧ (ea q.2).toNat % 4 = 0 ∧ sm.reach sm.me .load (ea q.2).toNat = .page (tlb 0) ∧ ∀ m ∈ q.2.marked, m.rcause = 0) ∧
      2 ^ 52 ≤ (ea ((lane 0).setReg 11 0x100000)).toNat ∧ (ea ((lane 0).setReg 10 2)).toNat % 4 ≠ 0) ∧
    s.reach s.me .load 12 = .fail 1 0 ∧ ({ s with hostMode := true } : State).reach s.me .load 12 = .awaited ∧ relOf fm = false ∧
    pageFmt sm sm.me (tlb 0) ≠ none ∧ sm.tablesAwaited sm.me (tlb 0) = false ∧ sAwaits.tablesAwaited sAwaits.me (tlb 0) = true ∧ sAwaits.reach sAwaits.me .load 12 = .page (tlb 0) ∧
    (match ldgE sm fm (sm.actives z.gd) with | .fault i => i.cause | _ => .data) = .align ∧
    (match ldgE sm { fm with b := .num 0 } (sm.actives z.gd) with | .ok rs => rs.length | _ => 0) = 4 ∧ (match stgE sm { fm with b := .num 0 } (sm.actives z.gd) with | .ok rs => rs.length | _ => 0) = 4 ∧ (scopeOf { fc with md := 0x10 } ≠ 0 ∨ scopeOf { fc with md := 0x04 } ≠ 0 ∨ scopeOf { fc with md := 1 } ≠ 0) := by decide +kernel
theorem witness_Comm :
    entryStop ⟨0x3B, 1, 0⟩ { zx with a := .vec 10, b := .vec 1 } sRange = none ∧
    (match checkLanes sRange sRange.me .store 0 4 [(0, 0), (1, 128)] with | .ok l => l.map (fun p => p.range) | _ => []) = [some .iadd, none] ∧
    sRange.hasPartial (sRange.unitOf sRange.grp) 0 = false := by decide +kernel
/-- LDB past the end of the ABUF fails check 0, a store to region 3 check 2, a peer that is none check 1, an odd address check 5; the others pass. -/
theorem witness_BufferAccesses :
    (∀ k ∈ keys 0x28 0 [0, 4, 6] ++ keys 0x29 0 [0, 4, 6] ++ keys 0x2B 0 [0, 7], entryStop k { fm with a := .vec 3 } s = none) ∧ entryStop ⟨0x2B, 0, 1⟩ fc s = none ∧
    (bufFails s s.myTeam .load 4 16380).any id = false ∧ (bufFails s s.myTeam .load 4 16384).getD 0 false = true ∧
    (bufFails s s.myTeam .load 4 (5 * 2 ^ 28)).getD 1 false = true ∧ (bufFails s s.myTeam .store 4 (3 * 2 ^ 28)).getD 2 false = true ∧
    (bufFails s s.myTeam .load 4 2).getD 5 false = true := by decide +kernel
/-- A method on an object of 64 bytes of state. -/
def sMethod : State :=
  { sg (fun g => { g with width := 1, lanes := [lane 0], method := some { (default : Method) with obj := 9, mutates := true } }) with
    bundle := { s.bundle with lanes := 1 }, objs := [{ (default : Obj) with id := 9, desc := (64 : BitVec 512) <<< 192 }], ocopies := [{ (default : ObjCopy) with obj := 9 }] }
theorem witness_BufferAccessesOfMethods :
    let m : Method := { (default : Method) with obj := 9, mutates := true }
    sMethod.grp.method = some m ∧ sMethod.elect z.gd = some (0, lane 0) ∧ entryStop ⟨0x28, 4, 0⟩ { fm with a := .vec 3 } sMethod = none ∧
    methodAccess sMethod m false 4 60 = none ∧ methodAccess sMethod m true 4 61 = some 1 ∧ methodAccess sMethod m false 4 2 = some 5 := by decide +kernel
/-- R244 to R255: one request for each lane on its way; a word of no range faults COMM. -/
theorem test_global :
    (after (exec (.ldg .b32 fm) sm)).reqs.map (fun r => (r.lane, r.addr)) = [(0, 12), (1, 12), (2, 12), (3, 12)] ∧
    (after (exec (.stg .b32 { fm with d := .vec 1 }) sm)).grp.ops.map (fun o => o.cls) = [1] ∧ (after (exec (.ldg .b32 fm) s)).faults.map (fun r => r.cause) = [.data] ∧
    (after (exec (.atom .add { z with d := .vec 4, a := .vec 10, b := .vec 1 }) sm)).reqs.map (fun r => r.data) = [10, 11, 12, 13] ∧
    (after (exec (.atomCas fc) sm)).reqs.length = 4 ∧ (after (exec (.comm .iadd { zx with a := .vec 10, b := .vec 1 }) sRange)).reqs.length = 4 ∧
    (after (exec (.comm .fadd { zx with a := .vec 10, b := .vec 1 }) sRange)).faults.map (fun r => r.cause) = [.data] := by decide +kernel
/-- R39, R152, R251: requests to the buffer, a fault past its end, a method's access at once. -/
theorem test_buffers :
    (after (exec (.ldb .b32 { fm with a := .vec 3 }) s)).reqs.map (fun r => (r.isBuf, r.addr)) = [(true, 12), (true, 12), (true, 12), (true, 12)] ∧
    (after (exec (.stb .b32 { fm with d := .vec 1, a := .vec 3 }) s)).reqs.map (fun r => r.data) = [10, 11, 12, 13] ∧
    (after (exec (.ldb .b32 { fm with a := .vec 3, b := .num 0 }) (sl (fun x => x.setReg 3 16384)))).faults.map (fun r => r.cause) = [.bufrange] ∧
    (after (exec (.stb .b32 { fm with d := .vec 1, a := .vec 3 }) sMethod)).ocopies.map (fun y => y.bytes) = [[(12, 10)]] ∧
    (after (exec (.atomb .add { z with d := .vec 4, a := .vec 3, b := .vec 1 }) s)).reqs.length = 4 ∧ (after (exec (.atombCas fc) s)).reqs.length = 4 := by decide +kernel

/-! The agents of memory -/

/-- A load of lane 1 for four bytes at 12, on its way to its home, as the one request. -/
def rq : Req := { (default : Req) with id := 1, gid := 7, lane := 1, n := 4, addr := 12, va := 12, dst := 4, ext := .zext, lease := 1 }
def sr (q : Req) : State := { sm with reqs := [q], mem := [(12, 0x2A)] }
theorem only_sr (q : Req) : (sr q).only (sr q).grp := only_grp _ rfl
/-- The request reaches its home and takes a place, waits behind one of its core, is held while its granule moves; the first of the queue is served, one at W = 2000 is held, one on
its way to the wrong die goes on. -/
def qd : Req := { rq with stage := .queued, seq := 3 }
theorem witness_HomeRequests :
    let t := sr rq
    t.req 1 = some rq ∧ isHost rq.addr = false ∧ rq.refused = false ∧ rq.target = t.homeOf 12 ∧ t.inScb rq = false ∧ t.staysHere rq = false ∧ t.firstToSlice rq = true ∧
    (t.granule (granuleOf rq.addr)).moving = none ∧ t.queueRoom rq = true ∧ t.holdRoom rq = true ∧
    ({ t with reqs := [{ rq with id := 0, lane := 0, addr := 20 }, rq] } : State).firstToSlice rq = false ∧
    (sr qd).turnOf qd = true ∧ (sr qd).lineBusy 3 0 = false ∧ ({ t with reqs := [qd, { rq with id := 2, stage := .combining }] } : State).lineBusy 3 0 = true ∧
    ({ t with reqs := [{ qd with id := 0, seq := 1 }, qd] } : State).turnOf qd = false ∧ ((sr qd).line 0).holders = [] ∧ (sr qd).flushOwed 0 = false ∧
    ((sr qd).line 0).w ≤ (sr qd).homeNow 12 ∧ ((sr qd).die 0).skew = false ∧ ({ t with lines := [(0, { horizon := 0, w := 2000, hot := 0, holders := [4] })] } : State).homeNow 12 < 2000 ∧
    Memory.wf t.mem = true ∧
    (let q : Req := { qd with op := 5, acc := .atom .add 0 }; (sr q).reqs.filter (fun p => q.sibling p && p.stage != .served && p.stage != .port) = [q] ∧ (sr q).turnOf q = true) ∧
    (let q : Req := { rq with target := 3 }; (sr q).inScb q = false ∧ (sr q).firstToSlice q = true ∧ q.target ≠ (sr q).homeOf 12 ∧ q.target ≠ storageDie 12) := by decide +kernel
/-- A copy of line 0 in the L1 of core 0. -/
def sHit (q : Req) : State := { sr q with copies := [{ (default : Copy) with unit := 0, line := 0, expiry := 1000000, bytes := [(12, 0x2A)] }] }
theorem witness_Answers :
    (sr { rq with stage := .served, val := 0x2A }).req 1 = some { rq with stage := .served, val := 0x2A } ∧ rq.six = 0 ∧ rq.isScale = false ∧
    (∀ p ∈ (sr rq).reqs, ¬(p.op = rq.op ∧ p.gid = rq.gid ∧ p.lane = rq.lane ∧ p.acc = .load ∧ p.isScale ≠ rq.isScale)) ∧
    (sHit rq).localVal rq = some (0x2A, false) ∧ (sr rq).localVal rq = none ∧ (sr { rq with stage := .port }).req 1 = some { rq with stage := .port } ∧
    (let q : Req := { rq with op := 5, acc := .cas, l1 := true }; (sHit q).l1Word q = some (0x2A, false) ∧ (sr q).l1Word q = none ∧ lineOf 12 ∈ (sHit q).l1Lines 0 ∧ (sHit q).laneFirst q = true ∧
      (sHit q).inScb q = false ∧ (sHit q).reqs.filter (fun p => q.sibling p && p.stage != .served && p.stage != .port) = [q]) ∧
    (let q : Req := { rq with isBuf := true, team := 1, op := 5, acc := .cas }; (sr q).bufReady q = true ∧ (sr q).inScb q = false ∧
      (sr q).reqs.filter (fun p => q.sibling p && p.stage != .served && p.stage != .port) = [q]) ∧
    ({ sr rq with reqs := [{ rq with id := 0, isBuf := true, team := 1 }, { rq with isBuf := true, team := 1 }] } : State).bufReady { rq with isBuf := true, team := 1 } = false ∧
    (let q : Req := { rq with op := 5, ext := .elem 3, isScale := true, stage := .served }; ∃ p ∈ ({ sr q with reqs := [q, { q with id := 2, isScale := false }] } : State).reqs,
      p.op = q.op ∧ p.gid = q.gid ∧ p.lane = q.lane ∧ p.acc = .load ∧ p.isScale ≠ q.isScale) := by decide +kernel
/-- Drains of ABUF segment 0 before and after the writes they owe, a die whose millisecond is over, and a granule on its way to die 2. -/
def sDrain (o : Option (List Nat)) : State := { s with teams := [{ team with drain := [(false, 0, o)] }] }
def gran : Granule := { home := 0, movedAt := 0, horizon := 0, moving := some 2, counts := [(0, 1), (2, 200)] }
def sGran (c : Nat) : State := { s with granules := [(0, gran)], cycle := c }
theorem witness_CopiesAndHomes :
    (∀ o ∈ ([none, some [1], some []] : List (Option (List Nat))),
      (sDrain o).teams.find? (fun t => t.die * Config.coresPerDie + t.core == 0 && t.drain.any (fun d => d.1 == false && d.2.1 == 0)) = some { team with drain := [(false, 0, o)] } ∧
        ({ team with drain := [(false, 0, o)] } : Team).drain.find? (fun d => d.1 == false && d.2.1 == 0) = some (false, 0, o)) ∧
    ((sGran 0).granule 0).moving = some 2 ∧ (sGran 0).reqs = [] ∧ 0 < (sGran 0).dies.length ∧ (sGran 0).gtime 0 / ticksPerMs ≤ ((sGran 0).die 0).halved ∧
    ((sGran 100000000).die 0).halved < (sGran 100000000).gtime 0 / ticksPerMs := by decide +kernel
/-- A release of each stage. -/
def rel (st : Nat) : Rel := { (default : Rel) with id := 1, lanes := 0xF, pc := 0x1000, next := 0x1004, stage := st, scope := 1, waits := if st = 3 then [3] else [], cont := .fence false }
def sRel (st : Nat) : State := sg (fun g => { g with rels := [rel st], lanes := g.lanes.map (fun x => { x with st := .counting, hold := .release 1 }) })
theorem only_sRel (n : Nat) : (sRel n).only (sRel n).grp := only_grp _ rfl
/-- Core 0 holds a partial of line 0. -/
def sPart (q : Req) : State := { sr q with partials := [{ core := 0, line := 0, op := .iadd, words := [(3, 5)] }] }
theorem witness_PartialsAndReleases :
    (let q : Req := { rq with acc := .comm .iadd, stage := .queued }; (sr q).turnOf q = true ∧ (sr q).lineBusy 0 0 = false ∧ q.target = (sr q).homeOf 12 ∧ lineOf (q.addr + q.n - 1) = 0 ∧
      (sr q).hasPartial 0 12 = false ∧ (sPart { rq with acc := .comm .iadd }).hasPartial 0 12 = true ∧ (sPart { rq with acc := .comm .iadd }).inScb { rq with acc := .comm .iadd } = false) ∧
    (let q : Req := { rq with acc := .flush .iadd, stage := .queued }; (sr q).turnOf q = true ∧ q.target = (sr q).homeOf 12) ∧
    (let q : Req := { rq with stage := .combining, combine := true, holders := [0] }; (sr q).req 1 = some q ∧ (sr q).flushOwed 0 = false ∧ ∀ l ∈ linesOf 12 4, ((sr q).line l).w ≤ (sr q).homeNow 12) ∧
    (∀ n ∈ [0, 1, 2, 3], (sRel n).findRel 1 = some ((sRel n).grp, rel n) ∧ (∀ y ∈ (sRel n).allGroups, y.uid = 7) ∧ (sRel n).unmatched 7 1 = false ∧
      (∀ k ∈ (rel n).waits, (sRel n).relOwes { (sRel n).grp with rels := [] } (rel n).scope k = false)) ∧
    (rel 0).scope ≠ 0 ∧ (sRel 2).grp.wct ≤ (sRel 2).gtime 0 ∧ ({ sRel 2 with grp := { (sRel 2).grp with wct := 5 } } : State).gtime 0 < 5 ∧ (rel 3).waits = [3] := by decide +kernel
/-- A monitor for the word at 12 to be 42, that has a place or none; and one for a word of the host. -/
def mon : Monitor := { (default : Monitor) with id := 1, gid := 7, lane := 1, addr := 12, va := 12, n := 4, cond := .eq, b := 42, dst := 4, next := 0x1004 }
def sMon (k : Monitor) (c : Nat) : State := { sr rq with monitors := [k], cycle := c, reqs := [] }
theorem only_sMon (k : Monitor) (c : Nat) : (sMon k c).only (sMon k c).grp := only_grp _ rfl
theorem witness_Monitors :
    entryStop ⟨0x30, 0, 0⟩ { z with d := .vec 6, a := .vec 10, b := .vec 12 } sm = none ∧ (sm.actives z.gd).length = 4 ∧ (sMon mon 0).placed mon = true ∧ mon.holdsAt 42 = true ∧ mon.holdsAt 41 = false ∧
    ((sMon mon 0).granule (granuleOf 12)).moving = none ∧ ((sMon mon 0).line (lineOf 12)).w ≤ (sMon mon 0).homeNow 12 ∧ (sMon mon 0).poisonedAt 12 4 = false ∧
    (sMon mon 0).monitorWord mon = some (42, false) ∧ mon.asleep = false ∧ mon.at_ ≤ (sMon mon 0).homeNow 12 ∧ ¬ (1000 ≤ (sMon { mon with at_ := 1000 } 0).homeNow 12) ∧ isHost (2 ^ 51) = true ∧
    (match checkLanes sm sm.me .load 0 4 [(0, 0), (1, 128)] with | .ok l => l.map (fun p => p.range) | _ => []) = [none, none] := by decide +kernel

/-- R66, R69, R77, R82: an answer reaches its register; a store is performed with its W, and its acknowledgement raises WCT. -/
theorem test_requests :
    ((after (exec (.loadComplete 1) (sr { rq with stage := .served, val := 0x2A }))).laneAt 1).reg 4 = 0x2A ∧ (after (exec (.homeRequest 1) (sr qd))).reqs.map (fun r => (r.stage, r.val)) = [(.served, 0x2A)] ∧
    (after (exec (.homeRequest 1) (sr rq))).reqs.map (fun r => r.stage) = [.queued] ∧
    rdByte (after (exec (.homeRequest 1) (sr { qd with acc := .store, data := 0x11223344, mask := 0xFFFFFFFF }))).mem 13 = 0x33 ∧
    (after (exec (.storeAck 1) (sr { rq with acc := .store, stage := .served, w := 77 }))).grp.wct = 77 ∧
    (after (exec (.heldLoadRelease 1) (sr { rq with stage := .held }))).reqs.map (fun r => r.val) = [0x2A] ∧ (after (exec (.requestForward 1) (sr { rq with target := 3 }))).reqs.map (fun r => r.target) = [0] ∧
    (after (exec (.flitReoffer 1) (sr { rq with refused := true }))).reqs.map (fun r => r.refused) = [false] := by decide +kernel
/-- R50, R54 to R57: what goes home and what is forgotten. -/
theorem test_homes :
    (after (exec (.l1Eviction 0 0) { s with cores := [(0, { (default : Core) with dirty := [(5, 0x10A)] })] })).reqs.map (fun r => (r.acc, r.addr)) = [(.writeback, 5)] ∧
    (after (exec (.replicaEviction 2 9) { s with replicas := [{ (default : Copy) with unit := 2, line := 9 }] })).replicas = [] ∧
    (after (exec (.segmentDrain 0 false 0) (sDrain (some [])))).teams.map (fun t => t.drain) = [[]] ∧ ((after (exec (.claim 0) (sGran 0))).granule 0).home = 2 ∧
    ((after (exec (.granuleCountHalving 0) (sGran 100000000))).granule 0).counts = [(2, 100)] ∧
    (after (exec (.forwardPointerExpiry 0 1) { s with forwards := [{ die := 0, gran := 1, dest := 2, until_ := 0 }] })).forwards = [] := by decide +kernel
/-- R63, R64, R78, R81, R84, R262. -/
theorem test_partials :
    (after (exec (.partialRegistration 1) (sr { rq with acc := .comm .iadd, stage := .queued, data := 5 }))).partials.map (fun p => p.words) = [[(3, 5)]] ∧
    rdByte (after (exec (.partialFlush 1) (sr { qd with acc := .flush .iadd, data := 5 }))).mem 12 = 0x2F ∧
    (after (exec (.partialRecall 1 0) { sr { rq with stage := .combining, holders := [0] } with partials := [{ core := 0, line := 0, op := .iadd, words := [(3, 5)] }] })).partials = [] ∧
    (after (exec (.combineComplete 1) (sr { rq with stage := .combining, combine := true, parts := [(0, 3, .iadd, 5)] }))).reqs.map (fun r => r.val) = [0x2F] ∧
    (after (exec (.counterRetire 7 0) (sg (fun g => { g with ops := [{ id := 5, cls := 0, open_ := false }] })))).grp.ops = [] ∧
    ((after (exec (.releaseWctReached 1) (sRel 2))).laneAt 2).pc = 0x1004 ∧ (after (exec (.promoteRequest 1) (sRel 3))).grp.rels.map (fun x => x.stage) = [1] ∧
    ((after (exec (.monitorWake 1) (sMon mon 0))).laneAt 1).reg 4 = 42 ∧ ((after (exec (.hostMonitorPoll 1 42) (sMon { mon with addr := 2 ^ 51 } 20000))).laneAt 1).st = .eligible ∧
    (after (exec (.monitorRecheck 1) (sMon mon 20000))).monitors.length = 1 ∧ (after (exec (.waitc .ge { z with d := .vec 6, a := .vec 10, b := .vec 12 }) sm)).monitors.length = 4 := by decide +kernel

/-! WAIT, fences, barriers -/

theorem owes_nothing : nothingOwed s := by unfold nothingOwed State.freshNumber; decide
theorem witness_WaitAndFences :
    (let f : Fields := { z with d := .num 63, a := .num 0, b := .num 63, c := .num 63 };
      entryStop ⟨0x2C, 0, 0⟩ f s = none ∧ under (s.grp.counter 0) 63 = true ∧ under ((sg (fun g => { g with ops := [{ id := 5, cls := 1, open_ := false }] })).grp.counter 1) 0 = false) ∧
    (∀ k ∈ keys 0x2D 0 [0, 1, 2, 3, 4], entryStop k { z with a := .scl 1, b := .num 3 } s = none) ∧ fenceScope { z with b := .num 3 } ≠ 0 ∧ s.grp.rels = [] ∧
    sget 0 s.myGrid.places 0 = 0 ∧ sget 0 ({ s with grids := [{ grid with places := [(0, 4)] }] } : State).myGrid.places 0 = 4 ∧ s.grp.wct ≤ s.gtime (s.dieOf s.grp) ∧
    (sg (fun g => { g with hurt := [(0, 0x40)] })).grp.hurt = [] ++ (0, 0x40) :: [] := by decide +kernel
theorem fresh_s : s.freshNumber := by unfold State.freshNumber; decide
theorem witness_Releases : (sr { rq with acc := .store }).freshNumber ∧ (∀ r ∈ (sr { rq with acc := .store }).reqs, r.gid = 7 ∧ r.stage ≠ .served ∧ fenceScope { z with b := .num 3 } ≠ 0) ∧
    (sr rq).grp.uid ≠ 0 := by unfold State.freshNumber; decide
/-- The team's barrier 1, its last, which expects all four lanes; one past it; and cluster barrier 63. -/
theorem witness_Barriers :
    let f : Fields := { z with d := .vec 7, a := .scl 1, b := .num 1 }
    let b := s.bar s.myTeam (barCode f)
    (∀ k ∈ keys 0x2E 0 [0, 3, 4], entryStop k f s = none) ∧ entryStop ⟨0x2E, 1, 0⟩ { f with a := .vec 2 } s = none ∧ entryStop ⟨0x2E, 2, 0⟩ { f with d := .none } s = none ∧
    entryStop ⟨0x2E, 5, 0⟩ { f with d := .prd 2, a := .vec 2 } s = none ∧ s.grp.method = none ∧ barCode f = 1 ∧ 1 < s.myTeam.bars.length ∧ s.myTeam.bars.length ≤ barCode { f with b := .num 2 } ∧
    barCode { f with b := .num 63 } = 63 ∧ (s.clusters.any (fun c => c.uid == s.myTeam.cluster) = true ∧ 63 - 48 < (s.clusterOf s.myTeam).bars.length) ∧ s.grp.hurt = [] ∧
    s.myTeam.uid = s.grp.team ∧ s.teams.find? (fun x => x.uid == s.grp.team) = some s.myTeam ∧ (s.actives z.gd).length * barWeight f = b.pending.toNat ∧
    ({ s with bundle := { s.bundle with lanes := 7 } }.actives z.gd).length * barWeight f < b.pending.toNat := by decide +kernel
/-- R45, R46, R256 to R260. -/
theorem test_sync :
    let f : Fields := { z with d := .vec 7, a := .scl 1, b := .num 1 }
    let ops (c : Nat) : State := sg (fun g => { g with ops := [{ id := 5, cls := c, open_ := false }] })
    ((after (exec (.wait { z with d := .num 63, a := .num 0, b := .num 63, c := .num 63 }) (ops 1))).laneAt 0).st = .counting ∧
    ((after (exec (.wait { z with d := .num 63, a := .num 0, b := .num 63, c := .num 63 }) (ops 0))).laneAt 0).pc = 0x1004 ∧
    ((after (exec (.barArrive f) s)).laneAt 3).reg 7 = 0 ∧ ((after (exec (.barArrive f) s)).bar team 1).phase = true ∧ ((after (exec (.barSync { f with d := .none }) s)).bar team 1).pending = 4 ∧
    ((after (exec (.barWait { f with a := .vec 3 }) s)).laneAt 0).st = .barrier ∧ ((after (exec (.barTest { f with d := .prd 3, a := .vec 2 }) s)).laneAt 0).pred 3 = true ∧
    ((after (exec (.barInit f) (sg (fun g => { g with s := [(1, 9)] })))).bar team 1).pending = 9 ∧ ((after (exec (.barExpect f) (sg (fun g => { g with s := [(1, 9)] })))).bar team 1).pending = 4 ∧
    (after (exec (.barInit { f with b := .num 2 }) s)).faults.map (fun r => r.cause) = [.bufrange] := by decide +kernel
theorem test_fences :
    let f : Fields := { z with a := .scl 1, b := .num 3 }
    ((after (exec (.fenceRel f) s)).laneAt 0).pc = 0x1004 ∧ ((after (exec (.fenceFull f) s)).laneAt 0).pc = 0x1004 ∧ ((after (exec (.fenceAcq f) s)).laneAt 0).pc = 0x1004 ∧
    ((after (exec (.fencePromote f) s)).laneAt 0).pc = 0x1004 ∧ (after (exec (.fenceCflush f) { s with copies := [{ (default : Copy) with unit := 0 }] })).copies = [] ∧
    ((after (exec (.fenceRel f) (sr { rq with acc := .store }))).laneAt 0).st = .counting := by decide +kernel

/-! Rings and engines -/

/-- The team with ring 0 changed. -/
def sRing (h : Ring → Ring) : State := { s with teams := [{ team with rings := team.rings.map h }] }
def fr : Fields := { z with b := .num 0 }
/-- A slot is free and none is filled; a slot is held; s1 = 0 describes a ring of one slot of 128 bytes. -/
theorem witness_Rings :
    s.isAssay s.grp.uid = false ∧
    s.grp.method = none ∧ entryStop ⟨0x2F, 0, 0⟩ { fr with d := .scl 8 } s = none ∧ entryStop ⟨0x2F, 2, 0⟩ { fr with d := .scl 8 } s = none ∧
    entryStop ⟨0x2F, 5, 0⟩ { fr with d := .scl 8 } s = none ∧ (∀ k ∈ keys 0x2F 0 [1, 3, 4], entryStop k { fr with a := .scl 1 } s = none) ∧ ringNum fr < s.myTeam.rings.length ∧
    s.myTeam.rings.length ≤ ringNum { fr with b := .num 1 } ∧ (s.myTeam.ring 0).free ≠ 0 ∧ (s.myTeam.ring 0).filled = 0 ∧ (s.myTeam.ring 0).waits = [] ∧
    (s.myTeam.ring 0).heldAt true 0 = none ∧ ((sRing (fun r => { r with readers := [(0, false)] })).myTeam.ring 0).heldAt true 0 = some 0 ∧
    ((sRing (fun r => { r with writers := [(3, false)] })).myTeam.ring 0).heldAt false 768 = some 3 ∧ s.myTeam ∈ s.teams ∧ (∀ x ∈ s.teams, x.uid = s.grp.team → x = s.myTeam) ∧
    (((0 : DWord).extractLsb' 36 7).toNat + 1) * 2 ^ (((0 : DWord).extractLsb' 32 4).toNat + 7) ≤ s.myTeam.bound 0 ∧
    (let w : RingWait := { reader := true, gid := 7, lanes := 1, sd := 8, copy := 0 };
      ((sRing (fun r => { r with waits := [w], filled := 1 })).team 1).ring 0 = { base := 0, slotlog := 1, nslotm1 := 3, free := 4, filled := 1, head := 0, tail := 0, writers := [], readers := [], owners := [], waits := [w] }) := by
  decide +kernel
/-- A fill of four FP32 elements at 0 of the ABUF with 7, alone and as the command 1 of a core. -/
def fill : List DWord := [0, 0, 0, 0, 0xFF50000100010004, 0x700000000]
/-- A load of the same four elements from 0, which is mapped nowhere. -/
def load : List DWord := [0, 0x40000200004, 0, 0, 0xFF00000100010004, 0]
def sCopy : State := sg (fun g => { g with s := [(4, 0xFF50000100010004), (5, 0x700000000)] })
def cmd (st : CopyStage) : CopyCmd := { (default : CopyCmd) with id := 1, op := 5, gid := 7, team := 1, bar := 63, d := fill, stage := st }
def sCmd (c : CopyCmd) : State := { s with copyq := [c] }
theorem only_sCmd (c : CopyCmd) : (sCmd c).only (sCmd c).grp := only_grp _ rfl
theorem witness_CopyEngine :
    entryStop ⟨0x31, 0, 0⟩ { z with d := .num 63, a := .scl 0 } sCopy = none ∧ sCopy.grp.scalars 0 6 = fill ∧ copyFault sCopy.myTeam 63 fill = none ∧ copyRing fill = 255 ∧ copyOp fill = 5 ∧
    copyFault sCopy.myTeam 63 (fill.set 5 1) ≠ none ∧ 5 < copyOp (fill.set 4 0xFF60000100010004) ∧ copyRing (fill.set 4 0x0050000100010004) = 0 ∧ copyCount fill = 4 ∧
    copyFault sCopy.myTeam 63 (fill.set 4 0x0050000100010004) = none ∧
    (∀ st ∈ ([.queued, .ringWait, .walking] : List CopyStage), (sCmd (cmd st)).copyCmd 1 = some (cmd st)) ∧
    (let w : RingWait := { reader := false, gid := 7, lanes := 0, sd := 0, copy := 1 };
      (((sRing (fun r => { r with waits := [w] })).team 1).ring 0).waits = [] ++ w :: [] ∧ w.reader = copyOut fill) ∧
    ((sCmd (cmd .queued)).copyq.filter (fun x => x.core == 0 && x.stage == .queued)).head? = some (cmd .queued) ∧ (cmd .walking).faulted = false ∧
    (walkRest (sCmd (cmd .walking)) (cmd .walking)).2.2 = none ∧
    (walkRest (sCmd { cmd .walking with d := load }) { cmd .walking with d := load }).2.2.isSome = true ∧
    (sCmd (cmd .queued)).unmatched 7 1 = false ∧ (sCmd (cmd .walking)).turn = 0 ∧ (cmd .walking).bar = 63 ∧ (cmd .walking).slot = none ∧
    swf (0 : Byte) ((sCmd (cmd .walking)).team 1).abuf = true ∧ copyBuf fill + copyBytes fill ≤ 2 ^ 28 := by decide +kernel
/-- The C of one word at 0 of the CBUF with no barriers (TZERO), and int8 operands at 0 of the ABUF and the WBUF. -/
def tz : List DWord := [0, 0x20000000, 0x3FFFF00000000000, 0]
def ti : List DWord := [0x1000000000000000, 0x20000000, 0x3FFFF00000000155, 0]
def sTile (t : List DWord) : State := sg (fun g => { g with s := sput 0 (sput 0 (sput 0 [] 0 (t.getD 0 0)) 1 (t.getD 1 0)) 2 (t.getD 2 0) })
def task (st : TaskStage) (t : List DWord) : Task := { (default : Task) with id := 1, op := 5, gid := 7, team := 1, kind := .tzero, t := t, stage := st }
def sTask (x : Task) : State := { s with tasks := [x] }
theorem only_sTask (x : Task) : (sTask x).only (sTask x).grp := only_grp _ rfl
theorem witness_MatrixEngine :
    entryStop ⟨0x32, 4, 0⟩ { z with a := .scl 0 } (sTile tz) = none ∧ (sTile tz).grp.scalars 0 4 = tz ∧ tileFault grp team .tzero tz = none ∧ tileFault grp team .tzero (tz.set 1 0x60000000) ≠ none ∧
    256 < tileM (tz.set 1 0x10020000000) ∧ tileMode ti = 1 ∧ tileFault grp team .mma ti = none ∧ tileFault grp team .mmaz ti = none ∧ tileFault grp team .qout (ti.set 2 0x3FFFF00000000000) = none ∧
    tileFault grp team .trot (ti.set 2 0x3FFFF00000000000) = none ∧ (∀ k ∈ keys 0x32 0 [0, 1, 2, 3], entryStop k { z with a := .scl 0 } (sTile ti) = none) ∧
    (sTask (task .waiting tz)).task 1 = some (task .waiting tz) ∧ tileWait tz 0 = 63 ∧ tileWait tz 1 = 63 ∧ (sTask (task .draining tz)).task 1 = some (task .draining tz) ∧ tileSig tz = 63 ∧
    tileSig (tz.set 2 0x3FFC100000000000) = 1 ∧ 1 < (s.team 1).bars.length ∧ 1 < ((s.team 1).bars.getD 1 default).pending.toNat ∧
    (sTask (task .ready tz)).arbiter 0 = some (task .ready tz) ∧ s.arbiter 0 = none ∧ swf (0 : Byte) team.cbuf = true ∧ tileC ti / 2 ^ 28 = 2 ∧ tileC ti + tileCBytes ti ≤ 3 * 2 ^ 28 ∧
    (sTask (task .waiting tz)).unmatched 7 1 = false ∧ (sTask (task .draining tz)).turn = 0 ∧ (task .draining tz).poisoned = false ∧ tileM ti = 1 ∧ tileN ti = 1 ∧ tileAfmt ti = 5 ∧ tileA ti / 2 ^ 28 < 2 ∧ tileB ti / 2 ^ 28 < 2 := by decide +kernel
/-- R45, R47, R127, R261. -/
theorem test_rings :
    let a : Fields := { fr with a := .scl 1 }
    let t0 (t : State) : Ring := (t.team 1).ring 0
    (after (exec (.ringPut { fr with d := .scl 8 }) s)).scl 8 = 0 ∧ (t0 (after (exec (.ringPut { fr with d := .scl 8 }) s))).free = 3 ∧
    ((after (exec (.ringAcq { fr with d := .scl 8 }) s)).laneAt 0).st = .ring ∧ (t0 (after (exec (.ringAcq { fr with d := .scl 8 }) (sRing (fun r => { r with filled := 2, tail := 3 }))))).tail = 0 ∧
    (t0 (after (exec (.ringRel a) (sRing (fun r => { r with free := 3, readers := [(0, false)] }))))).free = 4 ∧
    (t0 (after (exec (.ringPub a) (sRing (fun r => { r with free := 3, writers := [(0, false)] }))))).filled = 1 ∧ (t0 (after (exec (.ringInit a) s))).free = 1 ∧
    (after (exec (.ringStat { fr with d := .scl 8 }) s)).scl 8 = 0x203100000000 ∧
    (after (exec (.ringWaiterWake 1 0 false) (sRing (fun r => { r with filled := 1, waits := [{ reader := true, gid := 7, lanes := 1, sd := 8, copy := 0 }] })))).teams.map (fun x => (x.ring 0).waits) = [[]] ∧
    (after (exec (.ringRel a) s)).faults.map (fun r => r.cause) = [.bufrange] := by decide +kernel
/-- R81, R122, R127, R128; R109 to R120. -/
theorem test_engines :
    (after (exec (.copy { z with d := .num 63, a := .scl 0 }) sCopy)).copyq.map (fun c => c.d) = [fill] ∧ (after (exec (.copyStart 1) (sCmd (cmd .queued)))).copyq.map (fun c => c.stage) = [.walking] ∧
    ((after (exec (.copyComplete 1) (sCmd (cmd .walking)))).team 1).abuf = [(0, 7), (4, 7), (8, 7), (12, 7)] ∧
    (after (exec (.copyWalkFault 1) (sCmd { cmd .walking with d := load }))).faults.length = 1 ∧
    (after (exec (.copyRingAcquire 1) { sRing (fun r => { r with waits := [{ reader := false, gid := 7, lanes := 0, sd := 0, copy := 1 }] }) with
      copyq := [{ cmd .ringWait with d := fill.set 4 0x0050000100010004 }] })).copyq.map (fun c => c.slot) = [some 0] ∧
    (after (exec (.tileTzero { z with a := .scl 0 }) (sTile tz))).tasks.map (fun x => x.t) = [tz] ∧ (after (exec (.taskReady 1) (sTask (task .waiting tz)))).tasks.map (fun x => x.stage) = [.ready] ∧
    (let p := after (exec (.passGrant 0) { sTask (task .ready tz) with teams := [{ team with cbuf := [(1, 9), (4, 9)] }] }); p.teams.map (fun x => x.cbuf) = [[(1, 9), (4, 9)]] ∧ p.arrays.map (fun a => a.words) = [[0]]) ∧
    (after (exec (.taskComplete 1) { sTask (task .draining tz) with teams := [{ team with cbuf := [(1, 9), (4, 9)] }], arrays := [{ quad := 0, task := 1, words := [0], clean := true }] })).teams.map (fun x => x.cbuf) = [[(4, 9)]] ∧
    (after (exec (.taskComplete 1) (sTask (task .draining tz)))).tasks = [] ∧
    (after (exec (.passGrant 0) { sTask { task .ready ti with kind := .mma } with teams := [{ team with abuf := [(0, 2), (31, 0xFF)], wbuf := [(0, 3), (31, 4)], cbuf := [(0, 5)] }] })).arrays.map (fun x => x.words) = [[7]] ∧
    (after (exec (.tileMma { z with a := .scl 0 }) (sTile ti))).tasks.length = 1 ∧ (after (exec (.tileMmaz { z with a := .scl 0 }) (sTile ti))).tasks.length = 1 ∧
    (after (exec (.tileQout { z with a := .scl 0 }) (sTile tz))).tasks.length = 1 ∧ (after (exec (.tileTrot { z with a := .scl 0 }) (sTile tz))).tasks.length = 1 := by decide +kernel

/-! The function store and replayed objects -/

/-- Memory that holds these values: address, bytes, value. -/
def bytes (l : List (Nat × Nat × Nat)) : List Host.Cell := l.foldl (fun m p => wrBytes m p.1 p.2.1 p.2.2) []
/-- Dies 0 to 2 are live. -/
def live (t : State) : State := { t with dies := List.replicate 3 { Die.reset with state := 1 } ++ List.replicate 13 Die.reset }
/-- Routine 1 at 128 (N = M = 1, quota 2, entry 0x3000, RMAX0 = 4), its handle in s1; context tables at 0 with four entries. -/
def sFun : State :=
  live { sg (fun g => { g with s := [(1, 1)] }) with
    tlbs := [tlb 0, tlb 4096, tlb 8192], ctxs := [ctx ((4 : BitVec 1024) <<< 384)], mem := bytes [(128, 8, 0x8000021100030001), (136, 8, 0x3000), (192, 4, 0x40800000)] }
def ff : Fields := { z with b := .scl 1 }
/-- Its descriptor. -/
def fd : BitVec 1024 := match sFun.routine sFun.grp 1 with | .ok d => d | _ => 0
def look (a : Option (Option (List Word))) : FLookup :=
  { (default : FLookup) with id := 1, bundle := 1, gid := 7, lane := 1, handle := 1, asid := 3, desc := fd, x := [0], key := cellKey 1 3 [0], slice := (keySlice (cellKey 1 3 [0])), set := keySet (cellKey 1 3 [0]), next := 0x1004, entry := 0x3000, ans := a }
def frec : FRec := { (default : FRec) with slice := (look none).slice, set := (look none).set, handle := 1, asid := 3, n := 1, m := 1, key := (look none).key, x0 := [0], rad := [0], y0 := [0x3F800000], jac := [0x40000000] }
def ins (x : Word) : FInsert := { (default : FInsert) with id := 1, slice := (look none).slice, set := (look none).set, key := (look none).key, gid := 7, handle := 1, asid := 3, desc := fd, x := [x], f := [0x3F800000], j := [0x40000000] }
def sLook (a : Option (Option (List Word))) : State :=
  { sFun with lookups := [look a], grp := { sFun.grp with lanes := sFun.grp.lanes.map (fun x => { x with hold := .stall 1 }) } }
theorem only_sLook (a : Option (Option (List Word))) : (sLook a).only (sLook a).grp := only_grp _ rfl
def fin (owed : List Nat) : Waiter := { (default : Waiter) with id := 1, gid := 7, lanes := 0xF, next := 0x1004, kind := .finval 3 1, owed := owed }
theorem witness_FunctionStore :
    (∀ k ∈ keys 0x33 0 [0, 2, 3], entryStop k ff sFun = none) ∧ entryStop ⟨0x33, 1, 0⟩ { ff with d := .prd 2 } sFun = none ∧ entryStop ⟨0x33, 4, 0⟩ { ff with d := .scl 9, a := .num 7 } sFun = none ∧
    (match sFun.routine sFun.grp 1 with | .ok d => decide (rdN d = 1 ∧ rdM d = 1 ∧ rdQuota d = 2 ∧ max (rdN d) (8 + rdM d) ≤ sFun.grp.vcount ∧ cellsOf d [0] = some [0] ∧ cellsOf d [0x7F800000] = none) | _ => false) = true ∧
    (match sFun.routine sFun.grp 4 with | .bad => true | _ => false) = true ∧ (match ({ sFun with hostMode := true, tlbs := [] } : State).routine sFun.grp 1 with | .awaited => true | _ => false) = true ∧ markedFault z.gd [(0, 1), (8, 1)] sFun = none ∧ (∀ p ∈ sFun.actives z.gd, (p.2.pair 62).extractLsb' 0 2 = 0) ∧
    (((lane 0).setReg 62 2).pair 62).extractLsb' 0 2 ≠ 0 := by decide +kernel
theorem witness_StoreSlices :
    (sLook none).lookups.find? (fun y => y.id == 1) = some (look none) ∧ (sLook none).sliceTurn 0 0 7 1 (look none).slice 1 = true ∧
    frec.inSet 0 (look none).slice (look none).set = true ∧ frec.matches_ fd 1 3 (look none).key [0] = true ∧ frec.contains [0] = true ∧
    ({ sFun with inserts := [ins 0] } : State).sliceTurn 0 0 7 0 (ins 0).slice 1 = true ∧ sFun.unmatched 7 1 = false ∧ rdQuota fd = 2 ∧ sFun.storeRoom 0 (ins 0).slice = 16 ∧ frec.contains [0x3F000000] = false ∧
    frec.matches_ fd 1 3 (ins 0).key [0x3F000000] = true ∧ mayGrow fd frec { ins 0x3F000000 with f := [0x40000000] } = true ∧
    ({ sFun with waiters := [fin [0, 2]] } : State).waiter 1 = some (fin [0, 2]) := by decide +kernel
/-- R134 to R143, R271 to R275. -/
theorem test_store :
    let rec0 : State := { sLook none with frecs := [frec] }
    (after (exec (.fcall ff) sFun)).lookups.length = 4 ∧ (after (exec (.fprobe { ff with d := .prd 2 }) sFun)).lookups.map (fun l => l.probe) = List.replicate 4 (some 2) ∧
    (after (exec (.storeLookup 1 []) rec0)).lookups.map (fun l => l.ans) = [some (some [0x3F800000])] ∧ (after (exec (.storeLookup 1 []) (sLook none))).lookups.map (fun l => l.ans) = [some none] ∧
    ((after (exec (.lookupAnswer 1) (sLook (some (some [5]))))).laneAt 1).reg 8 = 5 ∧ ((after (exec (.lookupAnswer 1) (sLook (some none)))).laneAt 1).pc = 0x3000 ∧
    (after (exec (.storeInsert 1) { sFun with inserts := [ins 0] })).frecs.map (fun r => (r.x0, r.y0)) = [([0], [0x3F800000])] ∧
    (after (exec (.storeInsert 1) { sFun with inserts := [{ ins 0x3F000000 with f := [0x40000000] }], frecs := [frec] })).frecs.map (fun r => r.rad) = [[0x3F000000]] ∧
    ((after (exec (.fret ff) sFun)).laneAt 0).pc = 0 ∧ (after (exec (.fret ff) sFun)).inserts.length = 4 ∧ (after (exec (.finval ff) sFun)).waiters.map (fun w => w.owed) = [[0, 1, 2]] ∧
    (after (exec (.storeInvalidate 0 1) { sFun with waiters := [fin [0, 2]], frecs := [frec] })).frecs = [] ∧ (after (exec (.finvalDone 1) { sFun with waiters := [fin []] })).waiters = [] ∧
    (after (exec (.fstat { ff with d := .scl 9, a := .num 0 }) { sFun with fcnt := [((0, 3, 1, 0), 6)] })).scl 9 = 6 := by decide +kernel

/-- Object 1 of the context, id 9, whose table entry stands at 64: one method, which mutates and takes one argument word pair; its log begins at 0x10000. -/
def object : Obj := { (default : Obj) with id := 9, handle := 1, asid := 3, desc := (0x8000 : BitVec 512) <<< 48 ||| 0x10000 <<< 64 ||| 64 <<< 192 ||| 0x0B0 <<< 32 ||| 0x30001, mtab := [(0x4000, true, 1, 1), (0x5000, false, 1, 1)] }
def sObj (o : Obj) : State :=
  live { sg (fun g => { g with s := [(1, 1)] }) with
    tlbs := [tlb 0, tlb 4096, tlb 8192], ctxs := [ctx ((4 : BitVec 1024) <<< 400)], mem := bytes [(64, 8, 0x800000B000030001), (72, 8, 0x10000), (88, 8, 64)], objs := [o],
    ocopies := [{ (default : ObjCopy) with die := 0, obj := 9, ckSeq := some 0 }, { (default : ObjCopy) with die := 1, obj := 9, ckSeq := some 0, bytes := [(0, 1)], ckBytes := [(0, 1)] },
      { (default : ObjCopy) with die := 2, obj := 9, ckSeq := some 0, applied := 64, resync := some 0 }] }
def call (st : CallStage) (sy : Bool) (m : Nat) : Call := { (default : Call) with id := 5, gid := 7, lane := 1, obj := 9, sync := sy, method := m, stage := st }
def sCall (o : Obj) (k : Call) : State := { sObj o with calls := [k] }
def rcpt (k : Call) : Receipt := { (default : Receipt) with reqinc := 1, rop := 6, copy := 1, what := .append k }
def rop (w : Numbered) : Rop := { (default : Rop) with id := 6, reqinc := 1, owninc := 1, what := w, copies := 1 }
def sAppend (o : Obj) : State :=   { sCall o (call .asked false 0) with rops := [rop (.append (call .asked false 0))], receipts := [rcpt (call .asked false 0)] }
theorem witness_ReplayedObjects :
    (∀ k ∈ keys 0x34 0 [0, 1], entryStop k ff (sObj object) = none) ∧ entryStop ⟨0x34, 3, 0⟩ { ff with d := .scl 9, a := .num 3 } (sObj object) = none ∧ entryStop ⟨0x34, 2, 0⟩ z sMethod = none ∧
    (match (sObj object).tableDesc 512 3 0 0 4 1 with | .ok _ => true | _ => false) = true ∧ (sObj object).object 3 1 = some object ∧ markedFault z.gd [(0, 2)] (sObj object) = none ∧
    (sObj object).away 7 = false ∧ odMethods object.desc = 1 ∧ odLogLg object.desc = 11 ∧ (sAppend object).appendReceipt 5 = some (rcpt (call .asked false 0), call .asked false 0) ∧
    (rcpt (call .asked false 0)).done = none ∧ (∀ r ∈ (sAppend object).rops, r.id = 6 → r.isHeld = false ∧ ∀ p ∈ r.replies, p.2 ≠ .held) ∧ (sAppend object).call 5 = some (call .asked false 0) ∧
    (∀ y ∈ (sAppend object).receipts, y = rcpt (call .asked false 0) ∨ y.appends 9 = false) ∧ (sObj object).replays 0 9 = true ∧
    ({ object with firstDigest := [(0, 0)] } : Obj).firstDigest.find? (fun y => decide (y.2 + ticksPerMs ≤ ({ sObj object with cycle := 100000000 } : State).gtime 0)) = some (0, 0) ∧ (sAppend object).objAt 9 = some object ∧
    ((sObj object).die 0).state = 1 ∧ (sObj object).ocopy 0 9 = { (default : ObjCopy) with die := 0, obj := 9, ckSeq := some 0 } ∧ (sObj object).engineBusy 0 = false ∧ 0 ∈ (sObj object).voters ∧
    (sObj object).copyDie 0 9 = 0 ∧ (sObj { object with next := 1 }).tailWaits 0 { object with next := 1 } 0 = false ∧ ((sObj object).readWords (sysWho 3 0) (logAt object 0) 8).isSome = true ∧
    sget 0 object.reports 2 + 64 ≤ ((sObj object).ocopy 2 9).applied ∧ object.settled 0 = false ∧ (∃ v ∈ (sObj object).voters, v ≠ 0) ∧
    ((sObj { object with agreed := some 0 }).voters.filter (fun d => d != 2 && ((sObj object).ocopy d 9).resync.isNone && ((sObj object).ocopy d 9).ckSeq == some 0)).head? = some 0 ∧
    (match (sObj object).reach (sysWho 3 (odLogHome object.desc)) .store (logAt object 0) with | .page e => isHost (e.phys (logAt object 0) + 63) | _ => true) = false := by decide +kernel
/-- R144 to R155, R276 to R279: a call, its place in the log, its execution, its return, and a copy that is brought back. -/
theorem test_objects :
    (after (exec (.ocall ff) (sObj object))).calls.length = 4 ∧ (after (exec (.osync ff) (sObj object))).calls.map (fun c => c.sync) = List.replicate 4 true ∧
    (after (exec (.ostat { ff with d := .scl 9, a := .num 0 }) { sObj object with ocopies := [{ (default : ObjCopy) with obj := 9, applied := 5 }] })).scl 9 = 5 ∧
    (after (exec (.logAppend 5) (sAppend object))).objs.map (fun o => o.next) = [1] ∧ (after (exec (.tailRead 5) (sCall { object with next := 3 } (call .asked true 0)))).calls.map (fun c => c.stage) = [.tail 3] ∧
    (after (exec (.readOnlyCall 5) (sCall object (call (.tail 0) true 0)))).calls = [] ∧
    (after (exec (.replayApply 0 9) (sObj { object with next := 1 }))).groups.map (fun g => (g.lanes.getD 0 default).pc) = [0x4000] ∧
    (after (exec (.oret z) sMethod)).grp.lanes.map (fun x => x.st) = [.exited] ∧ (after (exec (.appliedReport 2 9) (sObj object))).objs.map (fun o => o.reports) = [[(2, 64)]] ∧
    (after (exec (.digestReport 0 9) { sObj object with ocopies := [{ (default : ObjCopy) with obj := 9, sent := [(0, [])] }] })).objs.map (fun o => o.digests.length) = [1] ∧
    (after (exec (.digestTimeout 9) { (sObj { object with firstDigest := [(0, 0)], digests := [(0, 0, 1)] }) with dies := State.reset.dies, cycle := 100000000 })).objs.map (fun o => o.failed) = [true] ∧
    ((after (exec (.resync 2 9) (sObj { object with agreed := some 0 }))).ocopy 2 9).applied = 1 := by decide +kernel

/-! Launches, privileged operations, hints, numbered operations -/

/-- The state of a privileged save routine whose context tables lie at 0 and under whose translations everything is mapped. -/
def sp : State := live { sSys with grp := { sSys.grp with lanes := sSys.grp.lanes.map (fun x => { x with routine := some .save }) }, tlbs := [tlb 0, tlb 4096, tlb 8192], ctxs := [ctx ((0x40004 : BitVec 1024) <<< 384)] }
/-- A good launch record at 0x100: entry 0x2000, one cluster of four teams, VCOUNT 64, one group, die 0. -/
def sLaunch : State := { sp with mem := bytes [(0x100, 8, 0x2000), (0x108, 4, 3), (0x114, 4, 0x01010040), (0x11B, 1, 1)], grp := { sp.grp with s := [(6, 0x100)] } }
theorem witness_LaunchAndSnap :
    let f : Fields := { z with d := .scl 7, a := .scl 6 }
    entryStop ⟨0x35, 0, 0⟩ f sLaunch = none ∧ entryStop ⟨0x35, 1, 0⟩ z s = none ∧ (match blockCheck sLaunch sLaunch.me .load 256 256 0x100 with | .ok _ => true | _ => false) = true ∧
    (match blockCheck s s.me .load 256 256 0x100 with | .fault _ => true | _ => false) = true ∧ sLaunch.grp.uid ≠ 0 ∧ sLaunch.away 7 = false ∧ sLaunch.isAssay 7 = false ∧
    invalidCause sLaunch (BitVec.ofNat 2048 ((sLaunch.readWords { sLaunch.me with user := false } 0x100 32).getD 0)) = 0 ∧ invalidCause sLaunch 0 ≠ 0 ∧ s.isAssay 7 = false ∧
    ({ s with grids := [{ grid with record := (1 : BitVec 2048) <<< 192 }] } : State).isAssay 7 = true := by decide +kernel
theorem launch_owes_nothing : nothingOwed sLaunch := by unfold nothingOwed State.freshNumber; decide +kernel
/-- Lanes at rest, of a save routine; a whole group that parks. -/
def sPark : State := { sp with grp := { sp.grp with ctxrec := 0x4000 } }
theorem witness_SavedState :
    let f : Fields := { z with a := .scl 1, b := .num 0 }
    entryStop ⟨0x36, 0, 0⟩ f sp = none ∧ entryStop ⟨0x36, 1, 0⟩ f sp = none ∧ entryStop ⟨0x36, 4, 0⟩ { z with a := .scl 2, b := .scl 3 } sp = none ∧ entryStop ⟨0x36, 5, 0⟩ z sPark = none ∧
    (match blockCheck sp sp.me .store 64 (barBytes 0) 0 with | .ok _ => true | _ => false) = true ∧ (match blockCheck sp sp.me .load 64 (barBytes 0) 1 with | .fault _ => true | _ => false) = true ∧
    (∀ y ∈ sp.grp.lanes, y.routine = some .save) ∧ sp.tasks = [] ∧ sp.copyq = [] ∧ sp.myTeam.clrank = 0 ∧ sp.sysGet sp.me 0 % 2 ^ 28 ≠ barHeader sp.myTeam 1 0 ∧
    ({ sp with mem := bytes [(0, 2, barHeader team 1 0)] } : State).sysGet sp.me 0 % 2 ^ 28 = barHeader sp.myTeam (sp.groupsOf 1).length 0 ∧ (∀ y ∈ sp.teams, y.uid = sp.grp.team → y = sp.myTeam) ∧
    sp.reqs = [] ∧ sp.myTeam.uid = sp.grp.team ∧ sp.myTeam ∈ sp.teams ∧ ¬ sp.myTeam.bound 0 < 0 + 16384 ∧ sp.myTeam.bound 0 < 16 + 16384 ∧ sPark.grp.ctxrec ≠ 0 ∧ sp.grp.ctxrec = 0 ∧ sPark.grp.ops = [] ∧
    (match blockCheck sPark (sysWho 3 0) .store 16384 12352 0x4000 with | .ok _ => true | _ => false) = true ∧ sPark.groups = [] ∧ Memory.wf sp.mem = true ∧ sp.reach sp.me .store 0 = .page (tlb 0) := by decide +kernel
def shoot (owed : List Nat) : Waiter := { (default : Waiter) with id := 1, gid := 7, lanes := 0xF, next := 0x1004, kind := .shoot 0 3 0, owed := owed }
def purge (owed : List Nat) : Waiter := { (default : Waiter) with id := 1, gid := 7, lanes := 0xF, next := 0x1004, kind := .purge 4, owed := owed }
/-- A routine descriptor at 0x200 and an object descriptor at 0x280, both of handle 1. -/
def sDesc : State := { sp with mem := bytes [(0x200, 8, 0x8000021100030001), (0x208, 8, 0x3000), (0x280, 8, 0x800000B000030001), (0x288, 8, 0x10000), (0x298, 8, 64)], grp := { sp.grp with s := [(2, 0x200), (3, 0x280)] } }
theorem witness_InvalidateAndInstall :
    entryStop ⟨0x36, 2, 0⟩ { z with a := .scl 1, b := .scl 2 } sp = none ∧ entryStop ⟨0x36, 3, 0⟩ { z with a := .scl 1 } sp = none ∧ entryStop ⟨0x36, 7, 0⟩ { z with a := .scl 2, b := .num 1 } sp = none ∧
    sp.hostMode = false ∧ bitsOf (0 : DWord) 12 2 ≠ 3 ∧ (match blockCheck sDesc sDesc.me .load 128 128 0x200 with | .ok _ => true | _ => false) = true ∧
    (let d := BitVec.ofNat 1024 ((sDesc.readWords sDesc.me 0x200 16).getD 0);
      routineOk d = true ∧ handleOk 3 4 d = true ∧ bitAt d 63 = true ∧ bitsOf (sDesc.ctx 3).desc 384 16 = 4) ∧ routineOk ((1 : BitVec 1024) <<< 63) = false ∧ handleOk 3 4 (7 : BitVec 1024) = false ∧
    (match blockCheck sDesc sDesc.me .store 1 128 128 with | .ok _ => true | _ => false) = true ∧
    (let d := BitVec.ofNat 512 ((sDesc.readWords sDesc.me 0x280 8).getD 0);
      objectOk d = true ∧ handleOk 3 4 d = true ∧ bitAt d 63 = true ∧ (match logPages sDesc d with | .ok _ => true | _ => false) = true ∧
      (match blockCheck sDesc sDesc.me .load 64 (bitsOf d 192 17) (BitVec.ofNat 64 (odInitVA d)) with | .ok _ => true | _ => false) = true ∧
      (match blockCheck sDesc sDesc.me .load 16 (16 * odMethods d) (BitVec.ofNat 64 (odMtabVA d)) with | .ok _ => true | _ => false) = true) ∧
    objectOk ((1 : BitVec 512) <<< 63) = false ∧ handleOk 3 4 (0x30001 : BitVec 512) = true ∧ bitAt (0x30001 : BitVec 512) 63 = false ∧
    sDesc.object 3 1 = none ∧ (match blockCheck sDesc sDesc.me .load 64 64 0 with | .ok _ => true | _ => false) = true ∧
    ({ sp with waiters := [shoot [0, 4096]] } : State).waiter 1 = some (shoot [0, 4096]) ∧ ({ sp with waiters := [purge [0]] } : State).waiter 1 = some (purge [0]) ∧ 4096 ∈ (shoot [0, 4096]).owed := by decide +kernel
/-- The core traces into 32 bytes at 0x8000. -/
def sTrace : State := { sm with cores := [(0, { (default : Core) with trace := some (0x8000, 32, 16) })] }
theorem witness_Hints :
    hintBase sm { z with a := .vec 10 } = true ∧ hintBase sm { z with a := .vec 63 } = false ∧ (∀ p ∈ sm.actives z.gd, pfAwaited sm { z with a := .vec 10 } p = false) ∧
    (∀ p ∈ s.actives z.gd, pfAwaited { s with hostMode := true } { z with a := .vec 10 } p = true) ∧ (sm.core 0).trace = none ∧ sm.isSealed = false ∧ (sTrace.core (sTrace.unitOf sTrace.grp)).trace = some (0x8000, 32, 16) ∧
    isHost (0x8000 + 16) = false ∧ sm.grp.method = none ∧ sTrace.grp.method = none ∧ sMethod.grp.method ≠ none := by decide +kernel

/-- R152: a hint in a method ends it. -/
theorem test_hint_in_method : ((after (exec (.hint z) sMethod)).laneAt 0).st = .exited ∧ (after (exec (.hint z) sMethod)).ocopies.map (fun c => c.traps) = [1] ∧
    (after (exec (.yield z) sMethod)).grp.yieldTo = 0 := by decide +kernel

/-- R280, R281, R286 to R293, R389. -/
theorem test_system :
    (after (exec (.launch { z with d := .scl 7, a := .scl 6 }) sLaunch)).grids.length = 2 ∧ (after (exec (.launch { z with d := .scl 7, a := .scl 6 }) { sLaunch with mem := [] })).scl 7 = 0x301 := by decide +kernel
theorem test_saved :
    ((after (exec (.snap z) s)).laneAt 0).pc = 0x1004 ∧ (barWords 0 team 1 (sp.kindBars team 0)).head? = some (0, 0x102) ∧
    ((after (exec (.barrst { z with a := .scl 1, b := .num 0 }) { sp with mem := bytes [(0, 2, 0x102), (64, 3, 0x1003)] })).team 1).bars.map (fun b => b.word) = [0x1003, 0] ∧
    (after (exec (.zerob { z with a := .scl 2, b := .scl 3 }) { sp with teams := [{ team with abuf := [(15, 1), (16, 2)] }], grp := { sp.grp with s := [(3, 16)] } })).teams.map (fun t => t.abuf) = [[(16, 2)]] := by decide +kernel
theorem test_park :
    (after (exec (.park z) sPark)).parked.length = 1 ∧ (after (exec (.park z) sPark)).teams = [] ∧ (after (exec (.shoot { z with a := .scl 1, b := .scl 2 }) sp)).waiters.map (fun w => w.owed.length) = [3 * 288] ∧
    (after (exec (.shootInvalidationAtTlb 0 1) { sp with waiters := [shoot [0]] })).tlbs.length = 2 ∧ (after (exec (.shootInvalidationAtTlb 0 1) { sp with waiters := [shoot [0]] })).waiters = [] ∧
    (after (exec (.purge { z with a := .scl 1 }) sp)).waiters.map (fun w => w.owed) = [[0, 1, 2]] ∧ (after (exec (.purgeMomentOnDie 0 1) { sp with waiters := [purge [0]], grids := [{ grid with record := (4 : BitVec 2048) <<< 200 }] })).teams = [] ∧
    rdBytes (after (exec (.desc { z with a := .scl 2, b := .num 0 }) sDesc)).mem 128 8 = 0x8000021100030001 ∧ (after (exec (.desc { z with a := .scl 3, b := .num 1 }) sDesc)).objs.map (fun o => o.handle) = [1] := by decide +kernel
/-- R180, R263, R264, R283, R284, R401. -/
theorem test_hints :
    ((after (exec (.pfi { z with imm := 0x20 }) sm)).core 0).fills = [33] ∧ ((after (exec (.pfi { z with imm := 0x20 }) s)).core 0).pfdrop = 1 ∧ ((after (exec (.pfiX { zx with md := 1 }) sm)).core 0).fills.length = 2 ∧
    (after (exec (.pfdL1 { z with a := .vec 10 }) sm)).reqs.length = 4 ∧ (after (exec (.pfdSlice { z with a := .vec 10 }) sm)).reqs.map (fun r => r.l1) = List.replicate 4 true ∧
    (after (exec (.yield z) s)).grp.yieldTo = 8 ∧ rdBytes (after (exec (.hint { z with imm := 42 }) sTrace)).mem 0x8018 8 = 42 ∧ ((after (exec (.hint { z with imm := 42 }) s)).laneAt 0).pc = 0x1004 := by decide +kernel

/-- A numbered operation 6 of die 1 to die 0, whose owner knows its incarnation, with one copy on its way. -/
def nop_ (w : Numbered) : Rop := { rop w with die := 1 }
def seen (t : State) : State := live { t with dies := [] } |> fun u => { u with dies := u.dies.set 0 { Die.reset with state := 1, seen := [(1, 1)] } }
def aq : Req := { rq with op := 5, elems := 4, acc := .atom .add 0, data := 5 }
def sRop (n : Rop) : State := { seen (sr aq) with rops := [n] }
def msg (w : Numbered) : RMsg := { (default : RMsg) with rop := 6, copy := 1, hdr := { (default : Jdp) with src := 1, reqid := 1, reqinc := 1, owninc := 1 }, what := w }
def sMsg (m : RMsg) : State := { sRop (nop_ m.what) with rmsgs := [m] }
theorem only_sRop (n : Rop) : (sRop n).only (sRop n).grp := only_grp _ rfl
theorem witness_Receipts :
    (∀ w ∈ ([.atom aq, .append (call .asked false 0), .launch 5, .flush { rq with acc := .flush .iadd }] : List Numbered),
      (sMsg (msg w)).rmsgs.find? (fun m => m.rop == 6) = some (msg w) ∧ (sMsg (msg w)).msgReady (msg w) = true ∧ (sMsg (msg w)).arrivesNext (msg w) = true) ∧
    (sMsg (msg (.atom aq))).seenInc 0 1 = 1 ∧ ((sMsg (msg (.atom aq))).die 0).state = 1 ∧ (sMsg (msg (.atom aq))).incOf 0 = 1 ∧
    ((msg (.atom aq)).rsn - (msg (.atom aq)).ackw).toNat < 2 ^ 20 ∧ (sMsg (msg (.atom aq))).receiptAt 0 1 0 = none ∧ (sMsg (msg (.atom aq))).homeOf 12 = 0 ∧
    ({ sMsg (msg (.atom aq)) with receipts := [{ (default : Receipt) with reqid := 1 }] } : State).receiptAt 0 1 0 = some { (default : Receipt) with reqid := 1 } ∧
    ({ sMsg (msg (.atom aq)) with granules := [(0, { gran with home := 2, moving := none })] } : State).homeOf 12 = 2 ∧ rq.six = 0 ∧ aq.n ≤ 16 ∧ aq.combine = false ∧
    (let m := { msg (.atom { aq with addr := 2 ^ 51 }) with at_ := 16 }; (sMsg m).msgReady m = true ∧ (sMsg m).arrivesNext m = true) ∧
    ((1 : BitVec 16) - 0xFFFF).toNat < 2 ^ 15 ∧ 2 ^ 20 ≤ ((0x100000 : BitVec 32) - 0).toNat ∧ ((sMsg (msg (.atom aq))).die 4).state ≠ 1 := by decide +kernel
def hq : Req := { aq with addr := 2 ^ 51, acc := .cas }
def port (k : Nat) (q : Req) : Receipt := { (default : Receipt) with owner := 16, reqid := 1, rop := 6, copy := 1, what := .atom q, casTries := k }
def sPort (k : Nat) (q : Req) : State := { sRop (nop_ (.atom q)) with receipts := [port k q] }
theorem witness_RemoteOperations :
    (sRop { rop (.atom aq) with replies := [(1, .result 3 9)] }).rop 6 = some { rop (.atom aq) with replies := [(1, .result 3 9)] } ∧ (sRop (rop (.atom aq))).gtime 0 < (rop (.atom aq)).start + 256000 ∧
    ({ sRop (rop (.atom aq)) with cycle := 5120000 } : State).gtime 0 ≥ 256000 ∧ isPeer aq.addr = false ∧ (sRop (rop (.atom aq))).ropInScb (.atom aq) = false ∧ (rop (.atom aq)).copies = 1 ∧
    (sRop (rop (.atom aq))).away 7 = false ∧ (∀ k ∈ [0, 1, 4096], (sPort k hq).portOp 6 = some (port k hq, hq) ∧ (sPort k hq).portTurn hq = true) ∧
    ({ sPort 0 hq with rmsgs := [msg (.atom { hq with id := 0 })] } : State).portTurn hq = false ∧ hq.lock = false ∧ isHost hq.addr = true ∧
    Access.single .cas = true ∧ Access.single (.atom .min 0) = false ∧ (sPort 1 { hq with acc := .atom .min 0 }).portOp 6 = some (port 1 { hq with acc := .atom .min 0 }, { hq with acc := .atom .min 0 }) ∧
    (sCall object (call .asked false 0)).rop 5 = none ∧ (sCall object (call .asked false 0)).appendRop 5 = none ∧ ([4000, 12000, 28000, 60000, 124000, 252000] : List Nat)[0]? = some 4000 := by decide +kernel
/-- A receipt that the message of `aq` left, with a place in its slice's input queue. -/
def placed : Receipt := (msg (.atom aq)).receipt 0
def sPlaced : State := { sRop (nop_ (.atom aq)) with receipts := [{ placed with place := 3 }] }
theorem witness_placed :
    sPlaced.receipts = [{ placed with place := 3 }] ∧ placed.done = none ∧ placed.what.access = some aq ∧ (∀ k ∈ sPlaced.queueAt 0 (sliceOf 12), 3 ≤ k) ∧ sPlaced.linesBusy 3 aq = false ∧
    (∀ d, sPlaced.hub.disc = some d → aq.addr + 16 ≤ d * 2 ^ 37) ∧ ({ sPlaced with receipts := [{ placed with place := 3, aside := true }] } : State).portStep 6 ≠ none := by decide +kernel
/-- R156 to R161, R297, R376: the request takes a place in the input queue under a receipt, and in its turn it is performed and answered. -/
theorem test_numbered :
    let t := after (exec (.numberedRequest 6) (sMsg (msg (.atom aq))))
    t.rmsgs = [] ∧ t.receipts.map (fun x => (x.done.isSome, x.place != 0)) = [(false, true)] ∧ rdByte t.mem 12 = 0x2A := by decide +kernel
theorem test_numberedPlaced :
    let t := after (exec (.numberedRequest 6) sPlaced)
    t.receipts.map (fun x => x.done.isSome) = [true] ∧ t.rops.map (fun n => n.replies.length) = [1] ∧ rdByte t.mem 12 = 0x2F := by decide +kernel
theorem test_replies :
    (after (exec (.receiptRetire 0 1 0) { sRop (nop_ (.atom aq)) with receipts := [{ (default : Receipt) with reqid := 1, done := some .busy }], cycle := 50000000, dies := [{ Die.reset with acks := [(1, 1)] }] })).receipts = [] ∧
    (after (exec (.numberedReply 6) (sRop { rop (.atom aq) with replies := [(1, .result 3 9)] }))).reqs.map (fun q => (q.stage, q.val, q.w)) = [(.served, 3, 9)] ∧
    ((after (exec (.numberedReply 6) (sRop { rop (.atom aq) with replies := [(1, .stale)] }))).laneAt 1).marked.map (fun m => m.rcause) = [2] ∧
    (after (exec (.rouRetransmit 6) { sRop (rop (.atom aq)) with cycle := 5120000 })).rops.map (fun n => n.copies) = [2] ∧ (after (exec (.rouGiveUp 6) { sRop (rop (.atom aq)) with cycle := 50000000 })).rops = [] ∧
    (after (exec (.hostAtomic 6) (sPort 0 hq))).receipts.map (fun n => n.casTries) = [1] ∧
    (after (exec (.hostCasCompletion 6 true false 7) (sPort 1 hq))).rops.map (fun n => n.replies) = [[(1, .result 7 0)]] := by decide +kernel

/-! Distributors, the end of work, faults and translations -/

/-- A grid of one cluster of four teams on die 0, whose record names no completion record; its predecessor word 0 is at 0x400 when `p` is 0x400, and must equal 1. -/
def record (p : Nat) : BitVec 2048 := 0x2000 ||| (3 <<< 64) ||| (64 <<< 160) ||| (1 <<< 176) ||| (1 <<< 184) ||| (1 <<< 216) ||| (BitVec.ofNat 2048 p <<< 640) ||| (1 <<< 704)
def job (p : Nat) : Grid := { (default : Grid) with lid := 5, asid := 3, record := record p, owed := [0], arrived := [0] }
def slot : LSlot := { (default : LSlot) with lid := 5, preds := [false, true, true, true], last := 1 }
def sJob (g : Grid) (sl : List LSlot) : State :=
  live { State.reset with grids := [g], lslots := sl, tlbs := [tlb 8192], ctxs := [ctx 0], mem := bytes [(0x400, 4, 1)] }
/-- A team whose only group has exited, before its drain and after it. -/
def sDone (owed : Option (List Nat)) : State :=
  { sl (fun x => { x with st := .exited }) with teams := [{ team with exited := true, owed := owed }] }
theorem witness_LifeOfALaunch :
    ((sJob (job 0) []).grid 5).lid = 5 ∧ 0 ∈ ((sJob (job 0) []).grid 5).arrived ∧ ((sJob (job 0) []).lslots.filter (fun x => x.die == 0)).length < 64 ∧ ((sJob (job 0) []).die 0).state = 1 ∧
    recTeams (record 0) / (4 * recQuads (record 0)) = 1 ∧ (sJob (job 0x400) [slot]).lslots.find? (fun x => x.die == 0 && x.lid == 5) = some slot ∧ recPva (record 0x400) 0 = 0x400 ∧
    recPcmp (record 0x400) 0 = 0 ∧ (sJob (job 0x400) [slot]).reach (sysWho 3 0) .load 0x400 = .page (tlb 8192) ∧ ({ sJob (job 0x400) [slot] with tlbs := [] }).reach (sysWho 3 0) .load 0x400 = .fail 1 0 ∧
    (sDone none).teams.find? (fun t => t.uid == 1) = some { team with exited := true } ∧ (sDone none).finished 1 = true ∧ (sDone (some [])).finished 1 = true ∧
    (∀ d ∈ dieList (record 0), d ∈ [0]) ∧ (sJob { job 0 with reported := [0] } []).gtime 0 = 0 ∧ (sJob { job 0 with msix := true } []).hub.msixOn = false ∧
    (job 0).recOwed = false ∧ (sJob (job 0) []).lslots = [] ∧ recPcmp (record 0x400) 0 < 8 ∧ lineFree (sJob (job 0x400) [slot]) 0 false 0x400 4 = true ∧ (sJob (job 0x400) [slot]).partials = [] ∧
    ({ sJob (job 0x400) [slot] with hostMode := true, tlbs := [] } : State).reach (sysWho 3 0) .store 0x400 = .awaited := by decide +kernel
theorem witness_Placement :
    let t := sJob (job 0) [{ slot with preds := [true, true, true, true] }]
    (t.eligible 0).map (fun l => l.lid) = [5] ∧ t.parked = [] ∧ (t.die 0).state = 1 ∧ t.lineExists (job 0) 0 = true ∧ (t.findLine (job 0) 0 0 none).isSome = true ∧
    (match t.clusterPoints slot (job 0) with | some (.ok (pts, _)) => pts | _ => []) = [(0, 0, 0), (1, 0, 0), (2, 0, 0), (3, 0, 0)] ∧ (match t.launchInputs slot (job 0) (lineCores ((t.findLine (job 0) 0 0 none).getD (0, [])).2) with | .ok _ => true | _ => false) = true ∧
    (s.die 0).state ≠ 1 ∧ (sJob (job 0) []).eligible 0 = [] ∧ t.wantsPlace slot = true := by decide +kernel
/-- A fault that waits for the page of 0x5000, of lane 0. -/
def pf (rp : Bool) : PFault := { (default : PFault) with id := 1, gid := 7, cause := .data, access := 2, replay := rp, asid := 3, addr := 0x5000, lanes := 1 }
def sFault (rp : Bool) : State := { sg (fun g => { g with lanes := [{ lane 0 with st := .faulted }] }) with faults := [pf rp], tlbs := [tlb 0] }
theorem only_sFault (rp : Bool) : (sFault rp).only (sFault rp).grp := only_grp _ rfl
/-- Tables at 0x10000, 0x20000 and on that map 64 KiB at 0. -/
def sWalk : State := { s with ctxs := [ctx 0x10000], mem := bytes [(0x10000, 3, 0x20001), (0x20000, 3, 0x30001), (0x30000, 3, 0x40001), (0x40000, 3, 0x5000F)] }
theorem witness_FaultsAndTranslations :
    (∀ rp ∈ [true, false], (sFault rp).slotAwaited (pf rp) = false) ∧ (pf true).written = false ∧ (pf true).walk = 0 ∧ s.pfiAsks 0 3 0x1234 = false ∧ (3, 0) ∈ ({ s with asked := [(3, 0)] } : State).asked ∧ (∀ g ∈ sWalk.grids, g.asid = 3 ∧ g.state = 0) ∧
    (let f : State := { s with cores := [(0, { (default : Core) with fills := [5] })] }; 5 ∈ (f.core 0).fills ∧ lineFree f 0 false 640 1 = true ∧ f.replica 0 5 = none) ∧
    (∀ rp ∈ [true, false], (sFault rp).fault 1 = some (pf rp)) ∧ (sFault true).present (pf true) = true ∧ ({ sFault true with tlbs := [] } : State).present (pf true) = false ∧
    (sFault true).gtime 0 < (pf true).time + 1000000000 ∧ (pf true).time + 1000000000 ≤ ({ sFault true with cycle := 50000000000 } : State).gtime 0 ∧
    (match sWalk.walk { asid := 3, bench := 0, die := 0, user := false } 0x1234 with | .page e => (e.pa, e.szlg) | _ => (0, 0)) = (0x50000, 16) ∧ sWalk.pwc = [] ∧ sWalk.hostMode = false ∧
    (match s.walk { asid := 3, bench := 0, die := 0, user := false } 0x1234 with | .page _ => true | _ => false) = false := by decide +kernel

/-- R343 to R352: a launch is queued, placed, retired and completed. -/
theorem test_launches :
    (after (exec (.launchReceive 0 5) (sJob (job 0) []))).lslots.map (fun x => (x.lid, x.last)) = [(5, 1)] ∧
    (after (exec (.predecessorObserved 0 5 0) (sJob (job 0x400) [slot]))).lslots.map (fun x => x.preds) = [[true, true, true, true]] ∧
    (after (exec (.placeCluster 0) (sJob (job 0) [{ slot with preds := [true, true, true, true] }]))).teams.map (fun t => (t.clrank, t.tx)) = [(0, 0), (1, 1), (2, 2), (3, 3)] ∧
    (after (exec (.teamRetire 1) (sDone none))).teams.map (fun t => t.owed) = [some []] ∧ (after (exec (.teamRetire 1) (sDone (some [])))).grids.map (fun g => g.teamsDone) = [1] ∧
    (after (exec (.completionRecordWrite 5) (sJob { job 0 with reported := [0] } []))).grids.map (fun g => g.state) = [1] ∧
    (after (exec (.msixSend 5) { sJob { job 0 with msix := true } [] with hub := { (Hub.reset.setMask 0 false) with msixOn := true, vectors := 4 } })).out = [.msix 0] ∧
    (after (exec (.msixUnmask 2) { s with hub := { (Hub.reset.setMask 2 true) with pendingV := [2], msixOn := true, vectors := 4 } })).out = [.msix 2] ∧
    (after (exec (.monitorTeamPark 1) { sl (fun x => { x with st := .monitor }) with lslots := [{ slot with preds := [true, true, true, true] }] })).grp.preempt = true ∧
    (after (exec (.monitorTeamRestore 1) { sMon mon 0 with parked := [{ team := team, groups := [], monitors := [mon], woken := false, snap := false, avoid := none }] })).parked.map (fun p => p.woken) = [true] := by decide +kernel
def ats : Waiter := { id := 5, gid := 0, lanes := 0, next := 0, kind := .ats 3 0 16, owed := [] }
def sAts (b : Nat) : State := { sr { rq with born := b, asid := 3 } with hostMode := true, waiters := [ats], nextId := 9 }
theorem witness_atsInvalidate :
    (sAts 1).waiters.find? (fun w => w.kind == .ats 3 0 16) = some ats ∧ (sAts 1).undrainedAts 3 5 = true ∧ (sAts 7).undrainedAts 3 5 = false ∧ (sAts 7).undrainedAts 3 9 = true ∧
    sm.waiters = [] ∧ sm.undrainedAts 3 sm.nextId = false := by decide +kernel
/-- R361, R364 to R366, R353: a fault resolved or not, a walk, the host's answers, the end of a context. -/
theorem test_translations :
    ((after (exec (.faultResolved 1) (sFault true))).laneAt 0).st = .eligible ∧ (after (exec (.gridFail 1) (sFault false))).grids.map (fun g => (g.state, g.cause)) = [(2, 1)] ∧
    (after (exec (.replayTimeout 1) { sFault true with cycle := 50000000000, tlbs := [] })).grids.map (fun g => g.state) = [2] ∧ (after (exec (.tableWalk 0 3 0x1234) sWalk)).tlbs.map (fun e => (e.unit, e.pa)) = [(0, 0x50000), (4096, 0x50000)] ∧
    ((after (exec (.priPageResponse 1 true) { sFault true with hostMode := true, faults := [{ pf true with written := true }] })).laneAt 0).st = .eligible ∧
    (after (exec (.atsTranslationResponse 0 3 0x1234 0x50000 16 true false false) { s with hostMode := true, asked := [(3, 0)] })).tlbs.map (fun e => e.pa) = [0x50000, 0x50000] ∧
    (after (exec (.atsInvalidate 3 0 16) { sm with hostMode := true })).tlbs = [] ∧ (after (exec (.atsInvalidate 3 0 16) (sAts 7))).out = [.invalidated 3 0] ∧ (after (exec (.atsInvalidate 3 0 16) (sAts 1))).waiters = [ats] ∧ (after (exec (.contextEnd 3) { sm with grids := [] })).tlbs = [] ∧
    ((after (exec (.l1InstructionCacheFill 0 5) { s with cores := [(0, { (default : Core) with fills := [5] })] })).core 0).icache = [5] := by decide +kernel

/-! Boot, the host, reliability, fleet operation -/

/-- An image with a valid signature: the key was drawn at random and the signature made outside Lean by RFC 8017, with the salt 0 to 31. -/
def image : Signed :=
  { header := [1, 2], body := [3, 4]
    modulus := 0xb0f47c56d2602cf31d649bff84bf025d26c4d1036fa3129027cc092c69e8d904e1ab5c6663877e14981bf1bbf4337cc8dc0217796cc89406b62cd0bb16f45c55dbb2279136cecd31ebaa2da5a6aca70ca90904b74be3a2f39f4b55679ea023d50a149d9582d9cfbc67c1bece5df9b8f1869b9d2e653c57d53e9537a249fa8d065cf0258816918d9411fd998eb81e349e80c482faff29657196db7b3434259e6cfafec36f0fe853afb2bece773c6b7ebc90dc9db6dfd9524c2718cdebdad098b8e5bcb1a5fd55fe0a9e005662768a6cb0f54c94fce90df37f396b452df01e98413171479a2e32c726317dc52e31402a7af85909f21d013816539568fd3d25b92694da9c75e36a03aa9a836708f81d02ca87c8b009fc4d577c5a1261f2863a0edbb2ce743f3572f9d14b06e0e38211a836f7fb0ad0039876c27b73e240ae84cf5ecd037780e34a12673af4533f13dce653eed4ff4873c51e109cc66a127bbffc7c2cc6398227c9f194fd86190b07cfa91d30725e19b292e9ba839b9b94c0a2bcc9
    signature := 0x12edb606b5b8e3f217ca5d22de1a08b1b30e7bd7ddd2de1587c0e47cf3331ff3bace848bfacce6c9ede890f6b3dec642c00f987d2197f0dfe816558ea5f3a77eccf040ba0967a23468882f2a98d51d81af734be9348c13476b466022ea7cae70152e1e4e48ae5355a121f0bd347029db576a5637425e2a4c73fc976c9215d56749516e9cbb16b21e0e44149b14e3763f6b12fbab8f0b682b1492d9b90a0e8ecc41f9ddb0079f364808746507aa66157a3fdb4ba987a4ee618df529711eb264deb4d842900a1fb57f1cb8a34264493b53c506825cfc6ac2bbdde71163d1ca4ce5e3296dd36aba2106bcef0bf09ad62028aa56ce358cbb47f74f5f2bc721fdbffd5b82e499b6e9d0f0f98fa3ba1dedc78d67a7a4c40e5c8a3fb3101425308f79ea0c7ea0552b1d9f49108ea1f584eacd4f731af77a2ac644e391f59eb451915d3650f9736e17908f4be39a52d40b606424ebbea65caa092cba46de7d784983986e4f2acb752f36c028fb3f72600a0a20f936f01d80ab2ce8acdd29df173f8d19bd }
theorem image_verifies : imageVerifies image = true := by decide +kernel
/-- FIPS 180-4's example; and the signature is not one of another message. -/
theorem test_digest : sha256 [0x61, 0x62, 0x63] = 0xba7816bf8f01cfea414140de5dae2223b00361a396177a9cb410ff61f20015ad ∧ imageVerifies { image with body := [3, 5] } = false := by decide +kernel
/-- R367: a fused key that is not revoked, a valid signature and a version that is not below the counter. -/
theorem witness_images : acceptedBy [(imageKey image, false)] 0 image = true ∧ (imageKey image, false) ∈ [(imageKey image, false)] ∧ (0 : BitVec 32).toNat ≤ (imageVersion image).toNat := by
  simp [acceptedBy, image_verifies]
def hub (st : Nat) : State := { s with hub := { Hub.reset with stage := st, enabled := decide (st = 6) } }
/-- A die with a verified image, ready to start. -/
def sDie : State := { hub 2 with dies := { Die.reset with state := 3, verified := some image } :: List.replicate 15 { Die.reset with state := 2 } }
/-- A die that came up and waits for its image, with these fused keys. -/
def sUp (keys : List (BitVec 256 × Bool)) : State := { hub 2 with dies := { Die.reset with state := 3, up := true, keys := keys } :: List.replicate 15 { Die.reset with state := 2 } }
theorem witness_BootAndDies :
    (hub 1).hub.stage = 1 ∧ 2 ≤ (hub 2).hub.stage ∧ (sDie.die 0).verified ≠ none ∧ (sDie.die 0).state = 3 ∧ (sDie.die 5).state = 2 ∧
    (live (hub 2)).liveDies = [0, 1, 2] ∧ (∀ x ∈ (live (hub 2)).dies, x.state ≠ 3) ∧ (live (hub 2)).hub.clash = false ∧ (hub 5).hub.stage = 5 ∧ s.dies.length = 16 ∧
    (∀ x ∈ s.teams, ∃ g ∈ s.grids, g.lid = x.lid) ∧ sget 0x3F (s.die 15).links 3 = 0x3F ∧ swf (0x3F : BitVec 6) (s.die 15).links = true ∧ Memory.wf (live (hub 2)).mem = true := by decide +kernel
/-- Device memory of a live die with PCIe enabled; slot 3 of the host names the record of `sLaunch` at 0x100, under a context at 0. -/
def sHost : State := live { hub 6 with mem := [(8, 0x2A)], tlbs := [tlb 8192] }
theorem witness_HostAndPeers :
    sHost.hub.enabled = true ∧ sHost.hostReach 8 8 = true ∧ sHost.hostReach (2 ^ 51) 8 = false ∧ sHost.hostReady 8 = true ∧ (sHost.line 0).holders = [] ∧ (∀ l ∈ linesOf 8 8, sHost.hostReady (128 * l) = true) ∧
    sHost.seenInc 16 256 = 0 ∧ bitsOf ((7 : BitVec 384) <<< 12) 12 3 = 7 ∧ sHost.liveDies = [0, 1, 2] ∧ bitsOf (sHost.hub.slot 3).status 0 8 = 0 ∧ (sHost.granule 0).moving = none ∧
    sHost.hub.clash = false ∧ (sHost.startContext (sHost.hub.slot 3).ctxdesc.toNat).1.reach (sysWho (sHost.startContext (sHost.hub.slot 3).ctxdesc.toNat).2 0) .load 0 ≠ .awaited ∧
    ({ sHost with hub := { sHost.hub with measures := [(3, 7)] } } : State).hub.measures.find? (fun p => p.1 == 3) = some (3, 7) := by decide +kernel
/-- Core 0 due since 0, and in a cluster of an assay context whose snapshot is due. -/
def sDue (c : Nat) : State := { s with cores := [(0, { (default : Core) with testDue := some 0 })], cycle := c }
def sSnap : State := { sl (fun x => { x with hold := .stall 9 }) with grids := [{ grid with record := (1 : BitVec 2048) <<< 192 }], clusters := [{ cluster with snapDue := true }] }
def af : PFault := { (default : PFault) with id := 1, gid := 7, cause := .assay, lanes := 1 }
def scb : Scb := { (default : Scb) with id := 1, addr := 0x40, data := [5] }
theorem witness_Reliability :
    ((sDue 0).core 0).testDue = some 0 ∧ (s.core 0).testDue = none ∧ s.mgmt.quarantine = [] ∧ (∃ x ∈ (sDue 0).teams, x.die = 0 ∧ x.core = 0) ∧ (sDue 0).gtime 0 < 0 + 10000000 ∧ 10000000 ≤ (sDue 600000000).gtime 0 ∧
    recPrio ((sDue 0).gridOf team).record ≠ 7 ∧ (sg (fun g => { g with scb := [scb] })).group 7 = some { grp with scb := [scb] } ∧ [scb].find? (fun e => decide (e.at_ + 2400 ≤ 2400)) = some scb ∧
    sSnap.clusters.find? (fun y => y.uid == 1) = some { cluster with snapDue := true } ∧ (sSnap.groupsOf 1).map (fun g => (g.ops, g.scb, g.rels)) = [([], [], [])] ∧ sSnap.reqs = [] ∧ (∀ w ∈ sSnap.waiters, w.kind ≠ .snap) ∧ (∀ g ∈ sSnap.grids, g.rollbacks = 0 ∧ g.state = 0) ∧ sSnap.owesRop 7 = false ∧ sSnap.owesAnswer 7 = false ∧
    ({ sSnap with faults := [af] } : State).assayFault 1 = some af ∧ sSnap.teams.filter (fun t => t.cluster == 1) = [team] ∧ (s.die 0).log.length < 4096 := by decide +kernel
theorem witness_kill :
    bitsOf (0 : BitVec 32) 28 4 = 0 ∧ sSnap.clusters.map (fun c => ((sSnap.grid c.lid).rqtag, recAssay (sSnap.grid c.lid).record, (sSnap.grid c.lid).rollbacks, (sSnap.grid c.lid).state)) = [(0, true, 0, 0)] ∧
    (∃ x ∈ sSnap.teams, x.cluster = 1 ∧ x.die = 0 ∧ x.core = 0) ∧ (({ sSnap with faults := [{ af with cause := .poison }] } : State).rollable 0 0).map (fun c => c.uid) = [1] ∧ sSnap.rollable 0 0 = [] := by decide +kernel
theorem witness_FleetOperation :
    sget 0 s.mgmt.readAt 3 + 1000000 ≤ ({ s with cycle := 100000000 } : State).gtime 3 ∧ s.refTime < s.mgmt.windowAt + 1000000 ∧ 0 < (({ s with dies := [{ Die.reset with log := [[1]] }] } : State).die 0).log.length ∧
    swf 1200 s.mgmt.clocks = true ∧ swf 0 s.mgmt.hotSince = true ∧ (hub 6).hub.stage = 6 ∧ s.dies.length = 16 ∧ ((0 : BitVec 32) ∈ [(0 : BitVec 32)] ∧ bitsOf (0 : BitVec 32) 28 4 = 0) := by decide +kernel
theorem witness_StepsGoOn : (({ hub 6 with hub := { (hub 6).hub with fwA := some image } } : State).hub.running = some image ∧ (hub 6).hub.stage = 6) ∧
    6000 ≤ 7000 ∧ 7000 % 100 = 0 ∧ (0 : BitVec 32) ∈ ({ s with mgmt := { s.mgmt with quarantine := [0] } } : State).mgmt.quarantine := by decide +kernel
/-- R367 to R373: the boot chain. -/
theorem test_boot :
    (let t := after (exec (.moduleReset true image image) { s with hub := { s.hub with keys := [] } }); t.hub.stage = 0 ∧ t.hub.runsB = true ∧ t.hub.fwA = some image) ∧ (after (exec (.dieBringup 3) (hub 1))).dies.map (fun d => d.state) = [3, 3] ++ List.replicate 14 2 ∧
    ((after (exec (.dieImageVerify 0 image) (sUp []))).die 0).state = 2 ∧ ((after (exec (.headframeInit 0 true (List.replicate 16 0)) sDie)).die 0).state = 1 ∧
    (after (exec .discoveryBuild (live (hub 2)))).hub.disc = some 0 ∧ (after (exec .pcieEnable (hub 5))).hub.enabled = true ∧ (after (exec (.linkTrained 2 3) s)).out = [.ident 2 3 0x3F010230] ∧
    (after (exec (.identRepeat 2 3) { after (exec (.linkTrained 2 3) s) with cycle := 1000000 })).out = [.ident 2 3 0x3F010230, .ident 2 3 0x3F010230] ∧ sget 0x3F ((after (exec (.ident 2 3 (0x500 : BitVec 128)) s)).die 2).links 3 = 5 ∧
    (after (exec .timeSend { s with dies := (live s).dies.map (fun d => { d with ready := [3] }) })).out.length = 3 ∧ ((after (exec (.timeMessage 2 100) { s with dies := s.dies.map (fun d => { d with times := [(3, 0)] }) })).die 2).gofs = 100 ∧ ((after (exec (.dieReset 0) s)).die 0).inc = 2 ∧ (after (exec (.dieReset 0) s)).teams = [] ∧
    ((after (exec (.linkLoss 0) (live s))).die 0).state = 0 := by decide +kernel
/-- R371, R376 to R379. -/
theorem test_host :
    (after (exec (.hostBar2Read 8 2) sHost)).out = [.bar2 8 [0x2A, 0]] ∧ rdByte (after (exec (.hostBar2Write 0 9 [7]) sHost)).mem 9 = 7 ∧ (after (exec (.hostBar2Read (2 ^ 51) 2) sHost)).out = [.unsupported (2 ^ 51)] ∧
    rdByte (after (exec (.hostAtomicop 8 .fetchAdd 8 1 0) sHost)).mem 8 = 0x2B ∧ ((after (exec (.jdpMessage (7 <<< 12)) s)).die 0).jdpDrops = 1 ∧
    (after (exec (.peerFrame 0 ((8 : BitVec 384) <<< 96) []) sHost)).out.length = 1 ∧ ((after (exec (.doorbellStart 3) sHost)).hub.slot 3).status = 0x2 := by decide +kernel
theorem test_control :
    ((after (exec (.controlRegisterWrite 0x1000C8 9) sHost)).hub.slot 3).cmdrec = 9 ∧
    (after (exec (.doorbellStop 3) { sHost with hub := { sHost.hub with slots := [(3, { ctxdesc := 0, cmdrec := 0, status := 1, lid := 5 })] } })).waiters.map (fun w => w.owed) = [[0, 1, 2]] ∧
    (after (exec (.getMeasurements 3) { sHost with hub := { sHost.hub with measures := [(3, 7)] } })).out.length = 1 := by decide +kernel
/-- R381 to R393. -/
theorem test_reliability :
    hurtAt (after (exec (.patrolScrub 0x50000000 70 true) s)).poison 127 1 = true ∧ hurtAt (after (exec (.patrolScrub 0x50000000 70 true) s)).poison 63 1 = false ∧ (after (exec (.driftResend 1) (sr rq))).reqs.map (fun r => r.resends) = [1] ∧ ((after (exec (.selfTestDue 0) s)).core 0).testDue = none ∧ ((after (exec (.selfTestDue 0) { s with cycle := 240000000 })).core 0).testDue = some 200000000 ∧
    (after (exec (.selfTestPreempt 0) (sDue 600000000))).grp.preempt = true ∧ ((after (exec (.selfTestDone 0 true) { s with cores := [(0, { (default : Core) with testDue := some 0, testAt := some 0 })], cycle := 1200000, teams := [] })).core 0).testDue = none ∧
    (after (exec (.scbTimeout 7) { sg (fun g => { g with scb := [scb] }) with cycle := 2400 })).faults.map (fun p => p.cause) = [.assay] ∧
    (after (exec (.snapshotTimer 1) { sSnap with clusters := [cluster], cycle := 100000000 })).clusters.map (fun c => c.snapDue) = [true] ∧
    (after (exec (.kill 4 9) { s with grids := [{ grid with record := (4 : BitVec 2048) <<< 200 }] })).teams = [] := by decide +kernel
theorem test_rollback : (after (exec (.rollback 1) { sSnap with faults := [af] })).teams = [] ∧ (after (exec (.rollback 1) { sSnap with faults := [af] })).grids.map (fun g => g.rollbacks) = [1] := by decide +kernel
theorem test_snapshot : (after (exec (.snapshot 1) { sSnap with teams := [] })).clusters.map (fun c => (c.snapSeq, c.snapDue)) = [(1, false)] := by decide +kernel
/-- R396 to R402. -/
theorem test_fleet :
    (after (exec (.pldmTelemetryRead 3) s)).out = [.telemetry 3 0 1200 (List.replicate 10 0)] ∧ (after (exec (.telemetryRefresh [(3, 9)]) { s with cycle := 100000000 })).mgmt.readings = [(3, 9)] ∧
    (after (exec (.errorLogRead 0 0) { s with dies := [{ Die.reset with log := [[1]] }] })).out = [.errlog 0 0 [1]] ∧ (after (exec (.setPowerCap 7000) s)).mgmt.capNext = 7000 ∧ (after (exec (.setPowerCap 7050) s)).mgmt.capNext = 15000 ∧
    (after (exec (.powerWindow 15000001) { s with cycle := 1200000 })).clock 15 = 1100 ∧ (after (exec (.powerWindow 15000001) s)).clock 15 = 1200 ∧ (after (exec (.currentLimit 3 101) s)).clock 3 = 1100 ∧ (after (exec (.thermalStep 3 100) s)).isHot 3 = true ∧
    ((after (exec (.thermalTrip 0 110) s)).die 0).inc = 2 ∧ (after (exec (.firmwareUpdate image) s)).hub.update = some image ∧ (after (endUpdate { s with hub := { s.hub with update := some image } })).hub.fwB = some image ∧
    (after (exec .securityVersionCommit { hub 1 with dies := [{ Die.reset with verified := some image }] })).dies.map (fun d => d.secver) = [0] ∧
    ((after (exec (.traceEnable 0 0x8000 64) s)).core 0).trace = some (0x8000, 64, 0) ∧ (after (exec (.restore 0 true) { s with mgmt := { s.mgmt with quarantine := [0] } })).mgmt.restoring.map (fun r => r.unit) = [0] ∧
    (after (endRestore 0 { s with mgmt := { s.mgmt with quarantine := [0], restoring := [{ unit := 0, at_ := 0, passed := true }] }, teams := [], cycle := 1200000 })).mgmt.quarantine = [] := by decide +kernel

/-! Premises of single clauses -/

/-- SETS of a privileged register in a privileged routine; a constant among the sources; a table word that does not read; an assay group at SYSCALL and its held release. -/
def sAssay : State := { sCtx with grids := [{ grid with record := (1 : BitVec 2048) <<< 192 }] }
def sysRel : Rel := { (default : Rel) with id := 1, lanes := 0xF, next := 0x1004, cont := .syscall 12 }
def sSysRel : State := { sAssay with grp := { sAssay.grp with rels := [sysRel] } }
theorem only_sSysRel : sSysRel.only sSysRel.grp := only_grp _ rfl
theorem fresh_sAssay : sAssay.freshNumber := by unfold State.freshNumber; decide +kernel
theorem witness_clausesOfEntry :
    entryStop ⟨0x14, 0, 0⟩ { z with a := .scl 1, c := .num 0, imm := 0x012 } sSys = none ∧ entryStop ⟨0x14, 0, 0⟩ { z with a := .scl 1, c := .num 0, imm := 0x036 } sSys = none ∧ entryStop ⟨0x14, 0, 0⟩ { z with a := .scl 1, c := .num 0, imm := 0x800 } sSys = none ∧ entryStop ⟨0x14, 0, 0⟩ { z with a := .scl 1, c := .num 0, imm := 0x801 } sSys = none ∧ entryStop ⟨0x14, 0, 0⟩ { z with a := .scl 1, c := .num 0, imm := 0x80F } sSys = none ∧
    (sSys.elect z.gd).isSome = true ∧ sSys.privileged = true ∧ (0 : BitVec 5) ∈ Enc.tIP ∧ entryStop ⟨0x14, 0, 0⟩ { zx with b := .int 5, c := .num 0, imm := 0x020 } s = none ∧
    entryStop ⟨4, 0, 0⟩ { z with a := .vec 3, imm := 1 } s = none ∧ (match fetchWord s s.me 0x1004 with | .fault x => x.cause == .fetch | _ => false) = true ∧
    sAssay.isAssay 7 = true ∧ (sAssay.ctx (sAssay.asidOf sAssay.grp)).sysv ≠ 0 ∧ (∀ p ∈ sAssay.bundleLanes, p.2.routine = none) ∧ entryStop ⟨0x37, 0, 0⟩ { z with b := .num 12 } sAssay = none ∧
    sSysRel.findRel 1 = some (sSysRel.grp, sysRel) ∧ sysRel.waits = [] ∧ (∀ e ∈ sSysRel.grp.scb, e.id ≠ 1) := by decide +kernel
/-- A quad whose array holds the accumulators of the task that it runs, in an assay context; a team without a live lane beside one with a live lane. -/
def sArray : State := { sAssay with tasks := [task .active tz], arrays := [{ quad := 0, task := 1, words := [5], clean := true }] }
theorem witness_clausesOfArrays :
    sArray.array 0 = some { quad := 0, task := 1, words := [5], clean := true } ∧ sArray.task 1 = some (task .active tz) ∧ sArray.isAssay 7 = true ∧ sArray.group 7 ≠ none ∧
    tileM tz = 1 ∧ tileN tz = 1 ∧ tileC tz / 2 ^ 28 = 2 ∧ tileC tz + 4 ≤ 3 * 2 ^ 28 ∧ swf (0 : Byte) (sArray.team 1).cbuf = true := by decide +kernel
theorem test_passAgain : (after (execPassAgain 0 [6] sArray)).faults.map (fun p => p.cause) = [.assay] ∧ (after (execPassAgain 0 [6] sArray)).tasks = [] := by decide +kernel
/-- R384, R385: the shadow of an assay group reaches its oldest instruction, which wrote 5 to `v3` of lane 0 and sent one entry. -/
def sLog : State := { sAssay with grp := { sAssay.grp with logged := 1, log := [{ num := 1, pc := 0x1000, lanes := 1, second := false, wrote := [(0, 3, 5)] }], scb := [{ scb with logged := 1 }], lanes := (lane 0).setReg 3 5 :: sAssay.grp.lanes.drop 1 } }
theorem only_sLog : sLog.only sLog.grp := only_grp _ rfl
theorem witness_clausesOfShadows :
    sLog.isAssay 7 = true ∧ sLog.grp.settle.log = [{ num := 1, pc := 0x1000, lanes := 1, second := false, wrote := [(0, 3, 5)] }] ∧ sLog.grp.scb.map Scb.seen = [Scb.seen scb] := by decide +kernel
theorem test_shadow :
    (after (takeOutside (.shadow 7 [(0, 3, 5)] [scb]) sLog)).grp.scb = [] ∧ (after (takeOutside (.shadow 7 [(0, 3, 5)] [scb]) sLog)).faults = [] ∧
    (after (takeOutside (.shadow 7 [(0, 3, 6)] [scb]) sLog)).faults.map (fun p => (p.cause, p.pc, p.lanes)) = [(.assay, 0x1000, 1)] ∧
    (after (takeOutside (.shadow 7 [(0, 3, 5)] [{ scb with md := 1 }]) sLog)).faults.map (fun p => p.cause) = [.assay] := by decide +kernel
/-- A slot of the team in its save area, of SEQ 3, with VALID; scalar 1 of its group is 77 there. -/
def sSlot : State :=
  { sSnap with tlbs := [tlb 0, tlb 4096, tlb 8192], ctxs := [ctx ((0x8000 : BitVec 1024) <<< 640 ||| (0x8000 : BitVec 1024) <<< 704)], mem := bytes [(0x8000, 8, 0x100000003), (0x8000 + 64 + 8, 8, 77)] }
theorem witness_clausesOfSnapshots :
    sSlot.newestSlot team = some 3 ∧ sSnap.newestSlot team = none ∧ (sSlot.fromSlot 0 { cluster with snaps := [{ seq := 3, teams := [team], groups := [grp], bars := [], monitors := [] }] } team).groups.map (fun g => g.scl 1) = [77] ∧ sSlot.slotsUnread cluster = false ∧
    ({ sSlot with faults := [af] } : State).slotsAwaited (fun f => f.rqtag == 0) = false ∧ (∀ y ∈ sSlot.grids, y.rollbacks = 0) := by decide +kernel
/-- A unit whose RESTORE test failed stays out of service; a core whose test failed, on which launch 1 ran since its last passed test. -/
theorem witness_clausesOfTests :
    (s.mgmt.restoring = []) ∧ (let t : State := { s with mgmt := { s.mgmt with quarantine := [0], restoring := [{ unit := 0, at_ := 0, passed := false }] }, teams := [], cycle := 1200000 };
      t.mgmt.restoring.find? (fun x => x.unit == 0) = some { unit := 0, at_ := 0, passed := false } ∧ 0 + 1000000 ≤ t.gtime 0 ∧ (after (endRestore 0 t)).mgmt.quarantine = [0]) ∧
    (let t : State := { s with cores := [(0, { (default : Core) with testDue := some 0, testAt := some 0, ran := [(1, 0)] })], cycle := 1200000, teams := [] };
      (t.core 0).testAt = some 0 ∧ 0 + 1000000 ≤ t.gtime 0 ∧ sget 0 t.mgmt.passed 0 = 0 ∧ (after (exec (.selfTestDone 0 false) t)).mgmt.quarantine = [0]) := by decide +kernel
/-- A peer's numbered access to the word at 8, for the first time, by each kind of operation code: its header is what the 384 bits say (`Jdp.ofWord_word`). -/
def pj (opc : BitVec 8) (n : BitVec 16) : Jdp := { (default : Jdp) with owninc := 1, opc := opc, addr := 8, plen := n }
theorem witness_peerFrames :
    peerAccess (pj 0 0) = .load ∧ peerAccess (pj (Config.opcode 8) 16) = .cas ∧ peerAccess (pj (Config.opcode 1) 8) = .store ∧ peerAccess (pj (Config.opcode 48) 8) = .atom .add 0 := by
  simp [peerAccess, peerAtom, pj, peerKind, Config.opcode, atomIx, List.range, List.range.loop]
theorem witness_peerState :
    sHost.portHeld 0 = false ∧ (pj 0 0).cls ≠ 1 ∧ (pj 0 0).owninc = 1 ∧ sHost.seenInc 16 256 = 0 ∧ ((pj 0 0).rsn - (pj 0 0).ackw).toNat < 2 ^ 20 ∧ sHost.receipts = [] ∧ sHost.hostReach 8 8 = true ∧
    (∀ l ∈ spanLines 8 16, sHost.hostReady (128 * l) = true ∧ (sHost.line l).holders = []) ∧ sHost.poisonedAt 8 16 = false ∧ sHost.hub.disc = none ∧
    replyOf { pj (Config.opcode 16) 8 with cls := 1 } [7] ≠ none := by
  refine ⟨by decide +kernel, by decide, by decide, by decide +kernel, by decide, rfl, by decide +kernel, by decide +kernel, by decide +kernel, rfl, ?_⟩
  simp [replyOf, replyKind, pj]

end Sys2Proof.Tests
end

section
/-! Lanes as lists: what `numbered`, `mapLanes`, `actives` and the masks of lanes say of one lane, and what a change of one group does when no other has its number. -/

namespace Sys2Proof.Machine

/-! Lists of lanes -/

/-- Two maps that agree on every lane of a list give the same lanes. -/
theorem mapLanes_congr {f g : Nat → Lane → Lane} {i : Nat} {l : List Lane} (h : ∀ j x, l[j]? = some x → f (i + j) x = g (i + j) x) :
    mapLanes f i l = mapLanes g i l := by
  apply List.ext_getElem?
  intro j
  rw [mapLanes_getElem?, mapLanes_getElem?]
  cases hj : l[j]? with
  | none => rfl
  | some x => simp [h j x hj]

theorem mapLanes_mapLanes (f g : Nat → Lane → Lane) (i : Nat) (l : List Lane) :
    mapLanes f i (mapLanes g i l) = mapLanes (fun j x => f j (g j x)) i l := by
  induction l generalizing i with
  | nil => rfl
  | cons x xs ih => simp only [mapLanes, ih]

/-- A map that leaves every lane of a list as it is. -/
theorem mapLanes_same {f : Nat → Lane → Lane} {l : List Lane} (h : ∀ j x, l[j]? = some x → f j x = x) : mapLanes f 0 l = l := by
  apply List.ext_getElem?
  intro j
  rw [mapLanes_getElem?, Nat.zero_add]
  cases hj : l[j]? with
  | none => rfl
  | some x => simp [h j x hj]

theorem numbered_mapLanes (f : Nat → Lane → Lane) (i : Nat) (l : List Lane) :
    numbered i (mapLanes f i l) = (numbered i l).map (fun p => (p.1, f p.1 p.2)) := by
  induction l generalizing i with
  | nil => rfl
  | cons x xs ih => simp only [mapLanes, numbered, ih, List.map_cons]

/-- The numbered lanes are the lanes with their places. -/
theorem mem_numbered {i : Nat} {l : List Lane} {p : Nat × Lane} : p ∈ numbered i l ↔ i ≤ p.1 ∧ l[p.1 - i]? = some p.2 := by
  induction l generalizing i with
  | nil => simp [numbered]
  | cons x xs ih =>
    obtain ⟨k, y⟩ := p
    simp only [numbered, List.mem_cons, Prod.mk.injEq, ih]
    rcases Nat.lt_trichotomy k i with h | rfl | h
    · omega
    · simp [eq_comm]
    · obtain ⟨d, rfl⟩ : ∃ d, k = i + 1 + d := ⟨k - (i + 1), by omega⟩
      simp [show i + 1 + d - i = d + 1 by omega, show i + 1 + d ≠ i by omega, show i ≤ i + 1 + d by omega]

theorem State.laneAt_of_getElem? {s : State} {l : Nat} {x : Lane} (h : s.grp.lanes[l]? = some x) : s.laneAt l = x := by
  simp [State.laneAt, List.getD_eq_getElem?_getD, h]

theorem State.getElem?_laneAt {s : State} {l : Nat} (h : l < s.grp.lanes.length) : s.grp.lanes[l]? = some (s.laneAt l) := by
  simp [State.laneAt, List.getD_eq_getElem?_getD, h]

/-- A lane of a state whose lanes are a map of those of another. -/
theorem State.laneAt_mapLanes {s t : State} {c : Nat → Lane → Lane} (h : t.grp.lanes = mapLanes c 0 s.grp.lanes) {l : Nat} (hl : l < s.grp.lanes.length) :
    t.laneAt l = c l (s.laneAt l) := by
  apply State.laneAt_of_getElem?
  rw [h, mapLanes_getElem?, State.getElem?_laneAt hl, Nat.zero_add]
  rfl

/-! The guard-true lanes of the bundle -/

theorem State.mem_actives {s : State} {gd : Guard} {p : Nat × Lane} :
    p ∈ s.actives gd ↔ s.grp.lanes[p.1]? = some p.2 ∧ s.active gd p.1 p.2 = true := by
  simp [State.actives, mem_numbered]

/-- A lane of the group is among the guard-true lanes exactly when it is active. -/
theorem State.any_actives_fst {s : State} {gd : Guard} {l : Nat} {x : Lane} (h : s.grp.lanes[l]? = some x) :
    (s.actives gd).any (fun p => p.1 == l) = s.active gd l x := by
  rw [Bool.eq_iff_iff]
  simp only [List.any_eq_true, beq_iff_eq, Prod.exists, State.mem_actives]
  constructor
  · rintro ⟨_, y, ⟨hy, ha⟩, rfl⟩
    obtain rfl : x = y := by simpa [h] using hy
    exact ha
  · intro ha
    exact ⟨l, x, ⟨h, ha⟩, rfl⟩

/-! Masks -/

/-- A bit of an `or` over a list is that bit of some member. -/
theorem getLsbD_foldl_or {α : Type} {w : Nat} (r : α → BitVec w) (l : List α) (z : BitVec w) (i : Nat) :
    (l.foldl (fun m a => m ||| r a) z).getLsbD i = (z.getLsbD i || l.any (fun a => (r a).getLsbD i)) := by
  induction l generalizing z with
  | nil => simp
  | cons a l ih => simp [ih, Bool.or_assoc]

/-- Bit `i` of a mask of lanes says whether lane `i` is listed. -/
theorem getLsbD_maskOf (l : List Nat) (i : Nat) (h : i < 128) : (maskOf l).getLsbD i = l.any (fun a => a == i) := by
  have hbit (a : Nat) : (BitVec.ofNat 128 (2 ^ a)).getLsbD i = (a == i) := by
    rw [BitVec.getLsbD_ofNat, Nat.testBit_two_pow, decide_eq_true h, Bool.true_and, beq_eq_decide]
  rw [maskOf, getLsbD_foldl_or]
  simp only [hbit, show (0 : QWord).getLsbD i = false from BitVec.getLsbD_zero, Bool.false_or]

/-! One group among all -/

/-- A resident group that alone has its number is found by it. -/
theorem State.group_of_only {s : State} {g : Group} (h : s.only g) : s.group g.uid = some g := by
  obtain ⟨hmem, huniq⟩ := h
  unfold State.group
  split
  · next he => rw [huniq s.grp List.mem_cons_self he]
  · next hne =>
    rw [State.allGroups, List.mem_cons] at hmem
    have hg : g ∈ s.groups := hmem.resolve_left (fun e => hne (by rw [e]))
    obtain ⟨y, hy⟩ : ∃ y, s.groups.find? (fun y => y.uid == g.uid) = some y :=
      Option.isSome_iff_exists.mp (List.find?_isSome.mpr ⟨g, hg, beq_self_eq_true _⟩)
    have hu : y.uid = g.uid := by simpa using List.find?_some hy
    rw [hy, huniq y (List.mem_cons_of_mem _ (List.mem_of_find?_eq_some hy)) hu]

/-- What a change of a group does depends only on what it makes of the group that alone has the number. -/
theorem State.onGroup_congr {s : State} {g : Group} (h : s.only g) {f k : Group → Group} (hf : f g = k g) : s.onGroup g.uid f = s.onGroup g.uid k := by
  obtain ⟨-, huniq⟩ := h
  have hgrp : (if s.grp.uid = g.uid then f s.grp else s.grp) = if s.grp.uid = g.uid then k s.grp else s.grp := by
    split
    · next he => rw [huniq s.grp List.mem_cons_self he, hf]
    · rfl
  have hgroups : updBy (fun y => y.uid == g.uid) f s.groups = updBy (fun y => y.uid == g.uid) k s.groups := by
    apply List.map_congr_left
    intro y hy
    by_cases hu : y.uid = g.uid
    · rw [huniq y (List.mem_cons_of_mem _ hy) hu, hf]
    · simp [hu]
  simp only [State.onGroup, hgrp, hgroups]

theorem State.onGroup_id (s : State) (u : Nat) : s.onGroup u (fun g => g) = s := by
  simp [State.onGroup, updBy]

/-- What a change of one lane does depends only on what it makes of that lane of the group that alone has the number. -/
theorem State.onLane_congr {s : State} {g : Group} (h : s.only g) {l : Nat} {f k : Lane → Lane}
    (hf : f (g.lanes.getD l default) = k (g.lanes.getD l default)) : s.onLane g.uid l f = s.onLane g.uid l k := by
  apply State.onGroup_congr h
  congr 1
  apply mapLanes_congr
  intro j x hx
  by_cases hj : 0 + j = l
  · obtain rfl : j = l := by omega
    have : g.lanes.getD j default = x := by simp [List.getD_eq_getElem?_getD, hx]
    simp [this ▸ hf]
  · simp only [hj, if_false]

theorem State.onLane_id (s : State) (u l : Nat) : s.onLane u l (fun x => x) = s := by
  have : (fun g : Group => { g with lanes := mapLanes (fun i x => if i = l then x else x) 0 g.lanes }) = fun g => g := by
    funext g
    rw [mapLanes_same (fun j x _ => ite_self x)]
  rw [State.onLane, this, State.onGroup_id]

end Sys2Proof.Machine
end

section
/-! User traps (R30 to R33): the handler set of a trap of the issuing bundle, and the two ways a trap is taken. -/

namespace Sys2Proof.Machine

/-- The guard-true lanes that raised what the trap of kind `kind` answers: for an FP trap those with an enabled exception, else all (R32). -/
def State.trapping (s : State) (gd : Guard) (kind : Nat) (raised : Nat → FFlags) : List (Nat × Lane) :=
  if kind = 1 then (s.actives gd).filter (fun p => raised p.1 != 0) else s.actives gd

/-- After the bundle's lanes have changed outside their handler membership, the handler set is the changed guard-true lanes. -/
theorem State.handlerSet_onLanes {s : State} {gd : Guard} {c : Nat → Lane → Lane} (hc : ∀ l x, (c l x).inH = x.inH)
    (hout : ∀ p ∈ s.actives gd, p.2.inH = false) :
    (numbered 0 (s.onLanes c).grp.lanes).filter (fun p => s.active gd p.1 (s.laneAt p.1) && !p.2.inH) =
      (s.actives gd).map (fun p => (p.1, c p.1 p.2)) := by
  rw [State.onLanes_grp_lanes, numbered_mapLanes, List.filter_map, State.actives]
  congr 1
  apply List.filter_congr
  rintro ⟨l, x⟩ hp
  have hx : s.grp.lanes[l]? = some x := by simpa using (mem_numbered.mp hp).2
  simp only [Function.comp, State.laneAt_of_getElem? hx, hc]
  cases ha : s.active gd l x with
  | false => rfl
  | true => rw [hout (l, x) (State.mem_actives.mpr ⟨hx, ha⟩)]; rfl

section
variable {s : State} {gd : Guard} {c : Nat → Lane → Lane} {kind code len : Nat} {d : TrapDst} {raised : Nat → FFlags} {second : Nat → Bool}

/-- The trapping lanes, found among the changed lanes of the handler set. -/
theorem State.trapping_map :
    (if kind = 1 then ((s.actives gd).map (fun p => (p.1, c p.1 p.2))).filter (fun p => raised p.1 != 0) else (s.actives gd).map (fun p => (p.1, c p.1 p.2))) =
      (s.trapping gd kind raised).map (fun p => (p.1, c p.1 p.2)) := by
  unfold State.trapping
  split
  · exact List.filter_map
  · rfl

/-- With a handler set, a trap that some lane takes is taken. -/
theorem State.trap_taken (hhit : s.trapping gd kind raised ≠ []) (hv : s.grp.trapv ≠ 0) :
    ¬(((s.trapping gd kind raised).map (fun p => (p.1, c p.1 p.2))).isEmpty = true ∨ (kind = 1 ∧ (s.onLanes c).grp.trapv = 0)) :=
  not_or.mpr ⟨by simpa using hhit, fun h => hv h.2⟩

/-- A change of the handler set among changed lanes, as a change of the guard-true lanes. -/
theorem State.mapLanes_handlerSet (h : Nat → Lane → Lane) :
    mapLanes (fun l x => if ((s.actives gd).map (fun p => (p.1, c p.1 p.2))).any (fun p => p.1 == l) then h l x else x) 0 (s.onLanes c).grp.lanes =
      mapLanes (fun l x => if s.active gd l x then h l (c l x) else c l x) 0 s.grp.lanes := by
  rw [State.onLanes_grp_lanes, mapLanes_mapLanes]
  apply mapLanes_congr
  intro l x hx
  rw [Nat.zero_add, List.any_map]
  exact if_congr (by rw [← State.any_actives_fst hx]; rfl) rfl rfl

/-- The bundle's lanes have changed by `c` and entered the handler: the trap registers hold the instruction, the next, the lanes, the cause and the destination, and the
guard-true lanes go on at `TRAPV` (R32). -/
def State.entered (s : State) (gd : Guard) (c : Nat → Lane → Lane) (len : Nat) (mask : QWord) (cause dst : DWord) : State :=
  { s with grp := { s.grp with
    tfpc := s.bundle.pc, tpc := s.bundle.pc + BitVec.ofNat 64 len, tmask := mask.setWidth 64, tmaskhi := (mask >>> 64).setWidth 64, tcause := cause,
    tdst := dst, utrap := true,
    lanes := mapLanes (fun l x =>
      if s.active gd l x then { c l x with st := .eligible, pc := s.grp.trapv &&& ~~~3, inH := true } else c l x) 0 s.grp.lanes } }

/-- A user trap of the bundle with none in progress enters the handler and records the trapping lanes and what they raised (R32). -/
theorem userTrap_enters (hc : ∀ l x, (c l x).inH = x.inH) (hout : ∀ p ∈ s.actives gd, p.2.inH = false)
    (hfree : s.grp.utrap = false) (hhit : s.trapping gd kind raised ≠ []) (hv : s.grp.trapv ≠ 0) :
    userTrap kind code d len (fun l => s.active gd l (s.laneAt l)) raised second (s.onLanes c) =
      s.entered gd c len (maskOf ((s.trapping gd kind raised).map (fun p => p.1)))
        (tcause kind ((s.trapping gd kind raised).foldl (fun a p => a ||| raised p.1) 0) code)
        (tdst d ((s.trapping gd kind raised).any (fun p => second p.1))) := by
  simp only [userTrap, trapGroup, State.handlerSet_onLanes hc hout, State.trapping_map, State.trap_taken hhit hv, if_false]
  rw [if_neg (by simp [hfree]), enterTrap, State.mapLanes_handlerSet]
  simp only [List.map_map, List.foldl_map, List.any_map]
  rfl

/-- A user trap of the bundle while one is in progress: the guard-true lanes become TRAPHELD at the instruction with what they will record, all others are as `c`
left them (R32). -/
theorem userTrap_holds (hc : ∀ l x, (c l x).inH = x.inH) (hout : ∀ p ∈ s.actives gd, p.2.inH = false)
    (hbusy : s.grp.utrap = true) (hhit : s.trapping gd kind raised ≠ []) (hv : s.grp.trapv ≠ 0) :
    userTrap kind code d len (fun l => s.active gd l (s.laneAt l)) raised second (s.onLanes c) =
      s.onLanes (fun l x => if s.active gd l x then
        { c l x with st := .trapheld, pc := s.bundle.pc, heldLen := len, prheld := heldTrap kind (raised l) code d (second l),
                     heldAt := nextHeld (s.onLanes c).grp } else c l x) := by
  simp only [userTrap, trapGroup, State.handlerSet_onLanes hc hout, State.trapping_map, State.trap_taken hhit hv, if_false]
  rw [if_pos (by simp [hbusy]), State.mapLanes_handlerSet]
  rfl

end

end Sys2Proof.Machine
end

section
/-! What TRAP, BKPT and RETT do (R32, R33, R193), and `Obligations.UserTraps`. -/

namespace Sys2Proof.Machine

/-! The bundle of an instruction that ends a lane's turn -/

/-- The lanes of the bundle leave the instruction: those of guard false move past it, a guard-true lane becomes `h` of it, all others are untouched. -/
def State.splitBundle (s : State) (f : Fields) (h : Lane → Lane) : State := s.onLanes (fun l x =>
  if s.inBundle l = false then x else if guardOf f.gd x = false then { x with pc := x.pc + BitVec.ofNat 64 f.form.len } else h x)

/-- `splitBundle` in the form in which the model writes it. -/
theorem State.onLanes_eq_splitBundle (s : State) (f : Fields) (h : Lane → Lane) :
    s.onLanes (fun l x =>
      if s.inBundle l then (if guardOf f.gd x then h x else { x with pc := x.pc + BitVec.ofNat 64 f.form.len }) else x) = s.splitBundle f h := by
  unfold State.splitBundle
  congr 1
  funext l x
  cases s.inBundle l <;> cases guardOf f.gd x <;> rfl

/-- A lane after the whole bundle has moved past the instruction. -/
def State.past (s : State) (f : Fields) (l : Nat) (x : Lane) : Lane := if s.inBundle l then { x with pc := x.pc + BitVec.ofNat 64 f.form.len } else x

theorem State.advance_eq_past (s : State) (f : Fields) : s.advance f.form.len = s.onLanes (s.past f) := rfl

@[simp] theorem State.past_inH (s : State) (f : Fields) (l : Nat) (x : Lane) : (s.past f l x).inH = x.inH := by
  unfold State.past; split <;> rfl

@[simp] theorem State.past_heldAt (s : State) (f : Fields) (l : Nat) (x : Lane) : (s.past f l x).heldAt = x.heldAt := by
  unfold State.past; split <;> rfl

/-- `splitBundle` as a change of the guard-true lanes after the whole bundle has moved on, which they forget. -/
theorem State.onLanes_past_eq_splitBundle (s : State) (f : Fields) (k : Nat → Lane → Lane) (h : Lane → Lane)
    (hk : ∀ l x, k l { x with pc := x.pc + BitVec.ofNat 64 f.form.len } = h x) :
    s.onLanes (fun l x => if s.active f.gd l x then k l (s.past f l x) else s.past f l x) = s.splitBundle f h := by
  unfold State.splitBundle State.active State.past
  congr 1
  funext l x
  cases s.inBundle l <;> cases guardOf f.gd x <;> simp [hk]

/-! The order of held traps (R32) -/

theorem map_mapLanes {α : Type} {q : Lane → α} {c : Nat → Lane → Lane} (hc : ∀ l x, q (c l x) = q x) (i : Nat) (l : List Lane) :
    (mapLanes c i l).map q = l.map q := by
  induction l generalizing i with
  | nil => rfl
  | cons x xs ih => simp only [mapLanes, List.map_cons, hc, ih]

theorem nextHeld_eq (g : Group) : nextHeld g = 1 + (g.lanes.map (fun x => x.heldAt)).foldl max (2 ^ 16) := by
  rw [List.foldl_map]; rfl

/-- The place of a new held trap depends only on the places of those held before. -/
theorem nextHeld_onLanes {s : State} {c : Nat → Lane → Lane} (hc : ∀ l x, (c l x).heldAt = x.heldAt) : nextHeld (s.onLanes c).grp = nextHeld s.grp := by
  rw [nextHeld_eq, nextHeld_eq, State.onLanes_grp_lanes, map_mapLanes hc]

theorem le_foldl_max (l : List Nat) (m : Nat) : m ≤ l.foldl max m ∧ ∀ a ∈ l, a ≤ l.foldl max m := by
  induction l generalizing m with
  | nil => simp
  | cons b l ih =>
    obtain ⟨hm, hl⟩ := ih (max m b)
    rw [List.foldl_cons, List.forall_mem_cons]
    exact ⟨by omega, by omega, hl⟩

/-- A new held trap comes after every one held before, a restored one's place among them. -/
theorem lt_nextHeld (g : Group) : 2 ^ 16 < nextHeld g ∧ ∀ x ∈ g.lanes, x.heldAt < nextHeld g := by
  obtain ⟨hm, hl⟩ := le_foldl_max (g.lanes.map (fun x => x.heldAt)) (2 ^ 16)
  rw [nextHeld_eq]
  refine ⟨by omega, fun x hx => ?_⟩
  have := hl x.heldAt (List.mem_map_of_mem hx)
  omega

/-! TRAP and BKPT -/

section
variable {f : Fields} {s : State} {kind code : Nat}

theorem softTrap_of_none (h : s.actives f.gd = []) : softTrap kind code f s = s.advance f.form.len := by
  simp [softTrap, h]

/-- A trap from a handler lane, or with no handler set, is ILLEGAL (R32, R33). -/
theorem softTrap_illegal (h : s.actives f.gd ≠ []) (hbad : s.grp.trapv = 0 ∨ ∃ p ∈ s.actives f.gd, p.2.inH = true) :
    softTrap kind code f s = raise .illegal s := by
  have hbad' : ((s.actives f.gd).any (fun p => p.2.inH) || s.grp.trapv == 0) = true := by
    rw [Bool.or_eq_true, List.any_eq_true, beq_iff_eq]
    exact hbad.symm
  simp only [softTrap, List.isEmpty_iff, h, hbad', if_true, if_false]

/-- Otherwise a trap is the user trap of the bundle, whose lanes have moved past it. -/
theorem softTrap_traps (h : s.actives f.gd ≠ []) (hv : s.grp.trapv ≠ 0) (hout : ∀ p ∈ s.actives f.gd, p.2.inH = false) :
    softTrap kind code f s = userTrap kind code { nodst := true } f.form.len (fun l => s.active f.gd l (s.laneAt l)) (fun _ => 0) (fun _ => false)
      (s.advance f.form.len) := by
  have hgood : ((s.actives f.gd).any (fun p => p.2.inH) || s.grp.trapv == 0) = false := by
    rw [Bool.or_eq_false_iff, List.any_eq_false, beq_eq_false_iff_ne]
    exact ⟨fun p hp => by simp [hout p hp], hv⟩
  simp only [softTrap, List.isEmpty_iff, h, hgood, if_false, Bool.false_eq_true]

theorem State.trapping_of_ne_one (hk : kind ≠ 1) (gd : Guard) (raised : Nat → FFlags) : s.trapping gd kind raised = s.actives gd := if_neg hk

/-- A trap with none in progress puts the guard-true lanes into the handler and records the instruction, the next, the lanes, the kind and the code (R30 to R32). -/
theorem softTrap_enters (hk : kind ≠ 1) (h : s.actives f.gd ≠ []) (hv : s.grp.trapv ≠ 0) (hout : ∀ p ∈ s.actives f.gd, p.2.inH = false)
    (hfree : s.grp.utrap = false) :
    softTrap kind code f s =
      s.entered f.gd (s.past f) f.form.len (s.activeMask f.gd) (BitVec.ofNat 64 (kind + code % 64 * 1024)) 0x8000 := by
  have hhit := State.trapping_of_ne_one (s := s) hk f.gd (fun _ => 0)
  have hcause : tcause kind ((s.actives f.gd).foldl (fun (a : FFlags) _ => a ||| 0) 0) code = BitVec.ofNat 64 (kind + code % 64 * 1024) := by
    simp [tcause]
  have hdst : tdst { nodst := true } ((s.actives f.gd).any (fun _ => false)) = 0x8000 := by simp [tdst]
  rw [softTrap_traps h hv hout, State.advance_eq_past, userTrap_enters (s.past_inH f) hout hfree (hhit ▸ h) hv, hhit, hcause, hdst]
  rfl

/-- The handler entered from lanes that have moved past the instruction. -/
theorem State.entered_past (s : State) (f : Fields) (mask : QWord) (cause dst : DWord) :
    s.entered f.gd (s.past f) f.form.len mask cause dst = { s with grp := { s.grp with
      tfpc := s.bundle.pc, tpc := s.bundle.pc + BitVec.ofNat 64 f.form.len, tmask := mask.setWidth 64, tmaskhi := mask.extractLsb' 64 64,
      tcause := cause, tdst := dst, utrap := true,
      lanes := (s.splitBundle f (fun x => { x with st := .eligible, pc := s.grp.trapv &&& ~~~3, inH := true })).grp.lanes } } := by
  have hhi : mask.extractLsb' 64 64 = (mask >>> 64).setWidth 64 := by apply BitVec.eq_of_toNat_eq; simp
  rw [hhi, ← State.onLanes_past_eq_splitBundle s f (fun _ x => { x with st := .eligible, pc := s.grp.trapv &&& ~~~3, inH := true }) _ (fun _ _ => rfl)]
  rfl

/-- A trap while one is in progress: the guard-true lanes are TRAPHELD at the instruction with what they will record, after every trap held before (R32). -/
theorem softTrap_holds (hk : kind ≠ 1) (h : s.actives f.gd ≠ []) (hv : s.grp.trapv ≠ 0) (hout : ∀ p ∈ s.actives f.gd, p.2.inH = false)
    (hbusy : s.grp.utrap = true) :
    softTrap kind code f s = s.splitBundle f (fun x => { x with
      st := .trapheld, pc := s.bundle.pc, heldLen := f.form.len, heldAt := nextHeld s.grp, prheld := heldTrap kind 0 code { nodst := true } false }) := by
  have hhit := State.trapping_of_ne_one (s := s) hk f.gd (fun _ => 0)
  rw [softTrap_traps h hv hout, State.advance_eq_past, userTrap_holds (s.past_inH f) hout hbusy (hhit ▸ h) hv, nextHeld_onLanes (s.past_heldAt f)]
  exact State.onLanes_past_eq_splitBundle s f
    (fun _ x => { x with st := .trapheld, pc := s.bundle.pc, heldLen := f.form.len, heldAt := nextHeld s.grp, prheld := heldTrap kind 0 code { nodst := true } false })
    _ (fun _ _ => rfl)

end

/-! RETT -/

/-- A trap goes on while a lane is in its handler set (R33). -/
theorem settleTrap_stays {g : Group} (h : g.utrap = false ∨ ∃ x ∈ g.lanes, x.inH = true) : settleTrap g = g := by
  have : ¬(g.utrap && !(g.lanes.any (fun x => x.inH))) = true := by
    rcases h with h | ⟨x, hx, hin⟩
    · simp [h]
    · have : g.lanes.any (fun x => x.inH) = true := List.any_eq_true.mpr ⟨x, hx, hin⟩
      simp [this]
  rw [settleTrap, if_neg this]

/-- With the last lane out of the handler set and none TRAPHELD, the trap ends and none follows (R33). -/
theorem settleTrap_ends {g : Group} (hu : g.utrap = true) (h : ∀ x ∈ g.lanes, x.inH = false ∧ x.st ≠ .trapheld) :
    settleTrap g = { g with utrap := false } := by
  have hempty : g.lanes.any (fun x => x.inH) = false := List.any_eq_false.mpr (fun x hx => by simp [(h x hx).1])
  have hheld : heldLanes { g with utrap := false } = [] := by
    refine List.filter_eq_nil_iff.mpr (fun p hp => ?_)
    have hx : p.2 ∈ g.lanes := List.mem_of_getElem? (mem_numbered.mp hp).2
    simp [(h p.2 hx).2]
  rw [settleTrap, if_pos (by simp [hu, hempty]), takeHeld, hheld]
  split <;> rfl

section
variable {f : Fields} {s : State}

/-- RETT by a lane outside any handler set is ILLEGAL (R33). -/
theorem rett_illegal (h : ∃ p ∈ s.actives f.gd, p.2.inH = false) : rett f s = raise .illegal s := by
  have hany : (s.actives f.gd).any (fun p => !p.2.inH) = true := by simpa [List.any_eq_true] using h
  rw [rett, if_pos hany]

/-- The lanes of a RETT go to `TPC` and leave the handler set (R33). -/
def State.backAtTpc (s : State) (f : Fields) : State := s.splitBundle f (fun x => { x with pc := s.grp.tpc &&& ~~~3, inH := false })

/-- RETT by handler lanes takes them back, and the trap is settled (R33). -/
theorem rett_settles (h : ∀ p ∈ s.actives f.gd, p.2.inH = true) : rett f s = { s.backAtTpc f with grp := settleTrap (s.backAtTpc f).grp } := by
  have hnone : ¬(s.actives f.gd).any (fun p => !p.2.inH) = true := by simpa [List.any_eq_true] using h
  rw [rett, if_neg hnone, State.backAtTpc, ← State.onLanes_eq_splitBundle]

end

/-- Settles O32: TRAP and BKPT are one soft trap of two kinds, and RETT settles the trap that its lanes leave. -/
theorem userTraps : Obligations.UserTraps := by
  unfold Obligations.UserTraps
  intro f s _
  refine ⟨fun c hc hstop => ?_, fun hstop => ⟨fun hbad => ?_, fun hin => ⟨fun hstay => ?_, fun hu hend => ?_⟩⟩⟩
  · have hexec : exec c.1 s = .next (softTrap c.2.2.1 c.2.2.2 f s) ∧ c.2.2.1 ≠ 1 := by
      simp only [List.mem_cons, List.not_mem_nil, or_false] at hc
      rcases hc with rfl | rfl
      · exact ⟨run_go hstop, by simp⟩
      · exact ⟨run_go hstop, by simp⟩
    obtain ⟨hrun, hkind⟩ := hexec
    rw [hrun]
    refine ⟨fun hnone => ?_, fun hsome hbad => ?_, fun hsome hv hout => ⟨fun hfree => ?_, fun hbusy => ?_⟩⟩
    · rw [softTrap_of_none hnone]
    · rw [softTrap_illegal hsome hbad]
    · rw [softTrap_enters hkind hsome hv hout hfree, State.entered_past]; rfl
    · obtain ⟨hlow, hlanes⟩ := lt_nextHeld s.grp
      exact ⟨nextHeld s.grp, hlanes, hlow, by rw [softTrap_holds hkind hsome hv hout hbusy]; rfl⟩
  · exact (run_go hstop).trans (by rw [rett_illegal hbad])
  · exact (run_go hstop).trans (by rw [rett_settles hin, settleTrap_stays (g := (s.backAtTpc f).grp) hstay]; rfl)
  · exact (run_go hstop).trans (by rw [rett_settles hin, settleTrap_ends (g := (s.backAtTpc f).grp) hu hend]; rfl)

end Sys2Proof.Machine
end

section
/-! JOIN, EXIT, SLEEP and the events that end an episode or a sleep (R12, R20 to R22, R193), and `Obligations.LaneControl`. -/

namespace Sys2Proof.Machine

/-! JOIN (R20, R21) -/

section
variable {f : Fields} {s : State}

/-- A JOIN with no limit, on a replay engine, or that no lane executes, is passed at once (R20, R152). -/
theorem joinAt_passes (h : joinTime s.grp f = 0 ∨ s.grp.method.isSome = true ∨ s.anyActive f.gd = false) : joinAt f s = s.advance f.form.len := by
  unfold joinAt
  by_cases hpass : joinTime s.grp f = 0 ∨ s.grp.method.isSome = true
  · exact if_pos hpass
  · have hnone : s.anyActive f.gd = false := (or_assoc.mpr h).resolve_left hpass
    rw [if_neg hpass, hnone]
    rfl

/-- The lanes of a JOIN are held at it. -/
def State.joined (s : State) (f : Fields) : State := s.splitBundle f (fun x => { x with st := .joined })

/-- Any other JOIN holds its lanes, and opens an episode unless one is open at its PC (R20). -/
theorem joinAt_holds (ht : joinTime s.grp f ≠ 0) (hm : s.grp.method = none) (ha : s.anyActive f.gd = true) :
    joinAt f s = if s.grp.eps.any (fun e => e.pc == s.bundle.pc) then s.joined f
      else { s.joined f with grp := { (s.joined f).grp with
        eps := s.grp.eps ++ [{ pc := s.bundle.pc, start := s.cycle, limit := 8 * joinTime s.grp f, len := f.form.len }] } } := by
  have hstop : ¬(joinTime s.grp f = 0 ∨ s.grp.method.isSome = true) := by simp [ht, hm]
  rw [joinAt, if_neg hstop, ha, State.joined, ← State.onLanes_eq_splitBundle]
  rfl

end

/-! The end of an episode (R20, R26) -/

section
variable {s : State} {g : Group} {e : Episode}

/-- An episode is over when every live lane is held at it or its time is over. -/
theorem episodeOver_iff (he : e ∈ g.eps) (now : Nat) :
    episodeOver g now e = true ↔ (∀ x ∈ g.lanes, x.st = .exited ∨ (x.st = .joined ∧ x.pc = e.pc)) ∨ e.limit ≤ now - e.start := by
  have hany : g.eps.any (fun y => y.pc == e.pc) = true := List.any_eq_true.mpr ⟨e, he, beq_self_eq_true _⟩
  simp [episodeOver, joinHeld, hany]

theorem cycleOver_iff : s.cycleOver g = true ↔ g.bench + 2 ≤ s.turn ∨ ∀ x ∈ g.lanes, ¬(x.st = .eligible ∧ x.free ≤ s.cycle) := by
  simp [State.cycleOver]

theorem closeEpisode_eq (he : e ∈ g.eps) (now : Nat) : closeEpisode now e g = { g with
    lanes := g.lanes.map (fun x => if x.st = .joined ∧ x.pc = e.pc then
      { x with st := .eligible, hold := .none, pc := x.pc + BitVec.ofNat 64 e.len, free := now + 1 } else x)
    eps := g.eps.filter (fun y => y.pc != e.pc) } := by
  have hany : g.eps.any (fun y => y.pc == e.pc) = true := List.any_eq_true.mpr ⟨e, he, beq_self_eq_true _⟩
  simp [closeEpisode, joinHeld, hany, Lane.wake]

/-- What JOIN_TIMEOUT finds of an episode that alone has its PC: itself, when it is over. -/
theorem find_episode (he : e ∈ g.eps) (huniq : ∀ y ∈ g.eps, y.pc = e.pc → y = e) (now : Nat) :
    g.eps.find? (fun y => y.pc == e.pc && episodeOver g now y) = if episodeOver g now e then some e else none := by
  split
  · next hover =>
    obtain ⟨y, hy⟩ : ∃ y, g.eps.find? (fun y => y.pc == e.pc && episodeOver g now y) = some y :=
      Option.isSome_iff_exists.mp (List.find?_isSome.mpr ⟨e, he, by simp [hover]⟩)
    have hpc := List.find?_some hy
    simp only [Bool.and_eq_true, beq_iff_eq] at hpc
    rw [hy, huniq y (List.mem_of_find?_eq_some hy) hpc.1]
  · next hgoes =>
    refine List.find?_eq_none.mpr (fun y hy hyes => hgoes ?_)
    simp only [Bool.and_eq_true, beq_iff_eq] at hyes
    exact huniq y hy hyes.1 ▸ hyes.2

/-- JOIN_TIMEOUT closes an episode of the group that is over, once no lane can reach it in this core cycle, and does nothing else. -/
theorem execJoinTimeout_eq (hg : s.only g) (he : e ∈ g.eps) (huniq : ∀ y ∈ g.eps, y.pc = e.pc → y = e) :
    execJoinTimeout g.uid e.pc s =
      .next (if s.cycleOver g = true ∧ episodeOver g s.cycle e = true then s.onGroup g.uid (closeEpisode s.cycle e) else s) := by
  rw [execJoinTimeout, State.group_of_only hg, Option.bind_some, find_episode he huniq]
  cases s.cycleOver g <;> cases episodeOver g s.cycle e <;> rfl

end

/-! EXIT (R12, R193) -/

/-- The lanes of an EXIT leave execution and their handler set. -/
def State.exiting (s : State) (f : Fields) : State := s.splitBundle f (fun x => { x with st := .exited, hold := .none, inH := false, acq := [] })

theorem State.teamDone_iff (s : State) (u : Nat) :
    s.teamDone u = true ↔ ∀ g ∈ s.allGroups, g.team = u → g.uid ≠ 0 → ∀ x ∈ g.lanes, x.st = .exited := by
  rw [State.teamDone, List.all_eq_true]
  simp only [List.mem_filter, Bool.and_eq_true, beq_iff_eq, bne_iff_ne, List.all_eq_true, and_imp]

/-- EXIT outside a trap, with no poison unread: the lanes leave, and after the last lane of its team the team has exited (R12). -/
theorem exitLanes_eq {f : Fields} {s : State} (hmark : ∀ p ∈ s.actives f.gd, ∀ m ∈ p.2.marked, m.rcause ≠ 0) (hu : s.grp.utrap = false) :
    exitLanes f s = if (s.exiting f).teamDone s.grp.team then (s.exiting f).onTeam s.grp.team (fun t => { t with exited := true }) else s.exiting f := by
  have hnone : (s.actives f.gd).findSome? (fun p => poisonMark p.2) = none := by
    refine List.findSome?_eq_none_iff.mpr (fun p hp => List.find?_eq_none.mpr (fun m hm => ?_))
    simpa using hmark p hp m hm
  have hleft : exitLanes f s =
      (let t : State := { s.exiting f with grp := settleTrap (s.exiting f).grp }
       if t.teamDone t.grp.team then t.onTeam t.grp.team (fun t => { t with exited := true }) else t) := by
    rw [exitLanes, hnone, State.exiting, ← State.onLanes_eq_splitBundle]
  rw [hleft, settleTrap_stays (g := (s.exiting f).grp) (Or.inl hu)]
  rfl

/-! SLEEP and its end (R26, R193) -/

/-- SLEEP of no core cycle only moves on; any other holds its lanes as TIMED until their time (R193). -/
theorem sleep_eq (f : Fields) (s : State) :
    let n := ((sclVal s.grp f.a).setWidth 32 : Word).toNat
    sleep f s = if n = 0 then s.advance f.form.len
      else s.splitBundle f (fun x => { x with st := .timed, hold := .timed (s.cycle + n) (x.pc + BitVec.ofNat 64 f.form.len) }) := by
  intro n
  have hn : (sclVal s.grp f.a).toNat % 2 ^ 32 = n := (BitVec.toNat_setWidth ..).symm
  rw [← State.onLanes_eq_splitBundle, sleep, hn]
  split
  · next hzero => simp only [hzero, ne_eq, not_true_eq_false, and_false, if_false]; rfl
  · next hsome => simp only [ne_eq, hsome, not_false_eq_true, and_true]

/-- A lane asleep stays so until its time has come, and then goes on (R26). -/
theorem wakeTimed_eq {x : Lane} {t : Nat} {next : DWord} (hst : x.st = .timed) (hh : x.hold = .timed t next) (now : Nat) :
    wakeTimed now x = if t ≤ now then x.wake now next else x := by
  simp [wakeTimed, hst, hh]

/-- Settles O31: each instruction by its own lemma, and an event by what it makes of the one group it names. -/
theorem laneControl : Obligations.LaneControl := by
  unfold Obligations.LaneControl
  intro f s
  refine ⟨fun i hi hstop => ?_, fun g e hg he huniq => ⟨fun hdone hquiet => ?_, fun hnot => ?_⟩, fun hstop hmark hu => ⟨fun hlast => ?_, fun hmore => ?_⟩,
    fun hstop => ?_, fun g l hg _ t next hst hh => ⟨fun hearly => ?_, fun hdue => ?_⟩⟩
  · have hrun : exec i s = .next (joinAt f s) := by
      simp only [List.mem_cons, List.not_mem_nil, or_false] at hi
      rcases hi with rfl | rfl
      · exact run_go hstop
      · exact run_go hstop
    rw [hrun]
    refine ⟨fun hpass => ?_, fun ht hm ha => ⟨fun hopen => ?_, fun hclosed => ?_⟩⟩
    · rw [joinAt_passes hpass]
    · have hany : s.grp.eps.any (fun e => e.pc == s.bundle.pc) = true := by simpa [List.any_eq_true] using hopen
      rw [joinAt_holds ht hm ha, if_pos hany]; rfl
    · have hany : ¬s.grp.eps.any (fun e => e.pc == s.bundle.pc) = true := by simpa [List.any_eq_true] using hclosed
      rw [joinAt_holds ht hm ha, if_neg hany]; rfl
  · have hover := (episodeOver_iff he s.cycle).mpr (hdone.imp_right (fun h => by omega))
    refine (execJoinTimeout_eq hg he huniq).trans ?_
    rw [if_pos ⟨cycleOver_iff.mpr hquiet, hover⟩]
    exact congrArg Host.Outcome.next (State.onGroup_congr hg (closeEpisode_eq he s.cycle))
  · refine (execJoinTimeout_eq hg he huniq).trans ?_
    rw [if_neg]
    rintro ⟨hquiet, hover⟩
    rcases hnot with h | ⟨hgoes, hlimit⟩
    · exact h (cycleOver_iff.mp hquiet)
    · exact hgoes (((episodeOver_iff he s.cycle).mp hover).imp_right (fun h => by omega))
  · refine (run_go hstop).trans ?_
    rw [exitLanes_eq hmark hu, if_pos ((State.teamDone_iff (s.exiting f) s.grp.team).mpr hlast)]; rfl
  · refine (run_go hstop).trans ?_
    rw [exitLanes_eq hmark hu, if_neg (fun h => hmore ((State.teamDone_iff (s.exiting f) s.grp.team).mp h))]; rfl
  · exact (run_go hstop).trans (congrArg Host.Outcome.next (sleep_eq f s))
  · refine congrArg Host.Outcome.next ((State.onLane_congr hg ?_).trans (s.onLane_id g.uid l))
    rw [wakeTimed_eq hst hh, if_neg (by omega)]
  · refine congrArg Host.Outcome.next (State.onLane_congr hg ?_)
    rw [wakeTimed_eq hst hh, if_pos hdue]; rfl

end Sys2Proof.Machine
end

section
/-! An enabled floating-point exception (R30 to R32, R214): the user trap after an FP instruction completes, and `Obligations.FloatingTrap`. -/

namespace Sys2Proof.Machine

/-! What the trap registers say (R30, R31) -/

theorem tcause_kind {k : Nat} (_ : k < 16) (fx : FFlags) (code : Nat) : (tcause k fx code).extractLsb' 0 4 = BitVec.ofNat 4 k := by
  apply BitVec.eq_of_toNat_eq
  simp only [tcause, BitVec.extractLsb'_toNat, BitVec.toNat_ofNat, Nat.shiftRight_zero]
  omega

theorem tcause_flags {k : Nat} (_ : k < 16) (fx : FFlags) (code : Nat) : (tcause k fx code).extractLsb' 4 5 = fx := by
  apply BitVec.eq_of_toNat_eq
  simp only [tcause, BitVec.extractLsb'_toNat, BitVec.toNat_ofNat, Nat.shiftRight_eq_div_pow]
  omega

/-- Exception `i` stands at bit 4 + `i` of `TCAUSE`. -/
theorem getLsbD_tcause {k : Nat} (hk : k < 16) (fx : FFlags) (code : Nat) {i : Nat} (hi : i < 5) : (tcause k fx code).getLsbD (4 + i) = fx.getLsbD i := by
  conv_rhs => rw [← tcause_flags hk fx code, BitVec.getLsbD_extractLsb', decide_eq_true hi, Bool.true_and]

theorem tdst_dst (d : TrapDst) (second : Bool) : (tdst d second).extractLsb' 0 11 = d.dst := by
  apply BitVec.eq_of_toNat_eq
  simp only [tdst, BitVec.extractLsb'_toNat, BitVec.toNat_ofNat, Nat.shiftRight_zero]
  split <;> split <;> omega

/-! Destinations -/

@[simp] theorem Lane.setPred_inH (x : Lane) (n : Nat) (b : Bool) : (x.setPred n b).inH = x.inH := by
  unfold Lane.setPred; split <;> rfl

@[simp] theorem dstVal_inH (t : Ty) (o : Operand) (v : Nat) (x : Lane) : (dstVal t o v x).inH = x.inH := by
  unfold dstVal
  split
  · split <;> rfl
  · exact Lane.setPred_inH ..
  · rfl

/-- A vector destination of an FP type is a register, or for f64 a pair. -/
theorem dstVal_vec {f : Fields} (h : f.ty ∈ Enc.tF) (n : BitVec 11) (v : Nat) (x : Lane) :
    dstVal (tyOf f) (.vec n) v x = putReg (f.ty == 5) n (BitVec.ofNat 64 v) x := by
  have hword : BitVec.setWidth 32 (BitVec.ofNat 64 v) = BitVec.ofNat 32 v := BitVec.setWidth_ofNat_of_le (by omega) v
  simp only [Enc.tF, List.mem_cons, List.not_mem_nil, or_false] at h
  rcases h with h | h
  · simp [dstVal, putReg, tyOf, h, Ty.ofCode, Ty.isPair, hword]
  · simp [dstVal, putReg, tyOf, h, Ty.ofCode, Ty.isPair]

/-! The trap -/

section
variable {f : Fields} {s : State} {h : Nat → Lane → Lane × FFlags}

/-- The enabled exceptions that a lane raised. -/
def State.raisedEnabled (s : State) (h : Nat → Lane → Lane × FFlags) (p : Nat × Lane) : FFlags := (h p.1 p.2).2 &&& s.grp.trapen.setWidth 5

/-- The same by the lane's number, and none outside the guard-true lanes. -/
def State.raisedAt (s : State) (f : Fields) (h : Nat → Lane → Lane × FFlags) (l : Nat) : FFlags :=
  if s.active f.gd l (s.laneAt l) then s.raisedEnabled h (l, s.laneAt l) else 0

theorem State.raisedAt_of_active {p : Nat × Lane} (hp : p ∈ s.actives f.gd) : s.raisedAt f h p.1 = s.raisedEnabled h p := by
  obtain ⟨hx, ha⟩ := State.mem_actives.mp hp
  rw [State.raisedAt, State.laneAt_of_getElem? hx, if_pos ha]

/-- The lanes of an FP instruction that raised an enabled exception. -/
def State.excepted (s : State) (f : Fields) (h : Nat → Lane → Lane × FFlags) : List (Nat × Lane) := (s.actives f.gd).filter (fun p => s.raisedEnabled h p != 0)

/-- A lane of the bundle completes an FP instruction: under a true guard it takes its result and adds its flags (R214). -/
def State.completed (s : State) (f : Fields) (h : Nat → Lane → Lane × FFlags) (l : Nat) (x : Lane) : Lane :=
  if s.inBundle l then
    { (if guardOf f.gd x then { (h l x).1 with fflags := x.fflags ||| (h l x).2 } else x) with pc := x.pc + BitVec.ofNat 64 f.form.len }
  else x

theorem State.completed_of_active {l : Nat} {x : Lane} (ha : s.active f.gd l x = true) :
    s.completed f h l x = { (h l x).1 with fflags := x.fflags ||| (h l x).2, pc := x.pc + BitVec.ofNat 64 f.form.len } := by
  obtain ⟨hb, hg⟩ := Bool.and_eq_true_iff.mp ha
  simp only [State.completed, hb, hg, if_true]

theorem State.completed_of_not_active {l : Nat} {x : Lane} (ha : ¬s.active f.gd l x = true) :
    s.completed f h l x = if s.inBundle l then { x with pc := x.pc + BitVec.ofNat 64 f.form.len } else x := by
  unfold State.completed
  split
  · next hb =>
    have hg : ¬guardOf f.gd x = true := fun hg => ha (Bool.and_eq_true_iff.mpr ⟨hb, hg⟩)
    rw [if_neg hg]
  · rfl

theorem State.completed_inH (hin : ∀ l x, (h l x).1.inH = x.inH) (l : Nat) (x : Lane) : (s.completed f h l x).inH = x.inH := by
  by_cases ha : s.active f.gd l x = true
  · rw [State.completed_of_active ha]
    exact hin l x
  · rw [State.completed_of_not_active ha]
    split <;> rfl

/-- `TMASK` has a bit for each guard-true lane that raised an enabled exception. -/
theorem State.getLsbD_mask_excepted {l : Nat} (hl : l < 64) :
    ((maskOf ((s.excepted f h).map (fun p => p.1))).setWidth 64).getLsbD l = (s.actives f.gd).any (fun p => p.1 == l && s.raisedEnabled h p != 0) := by
  rw [BitVec.getLsbD_setWidth, getLsbD_maskOf _ _ (by omega), decide_eq_true hl, Bool.true_and, List.any_map, State.excepted, List.any_filter]
  exact congrArg _ (funext fun p => Bool.and_comm ..)

/-- The flags in `TCAUSE` are those that some guard-true lane raised enabled. -/
theorem State.getLsbD_flags_excepted (i : Nat) :
    ((s.excepted f h).foldl (fun a p => a ||| s.raisedEnabled h p) 0).getLsbD i = (s.actives f.gd).any (fun p => (s.raisedEnabled h p).getLsbD i) := by
  rw [getLsbD_foldl_or, State.excepted, List.any_filter, show (0 : FFlags).getLsbD i = false from BitVec.getLsbD_zero, Bool.false_or]
  refine congrArg _ (funext fun p => ?_)
  by_cases hz : s.raisedEnabled h p = 0
  · rw [hz]; simp
  · have hraised : (s.raisedEnabled h p != 0) = true := by simpa using hz
    rw [hraised, Bool.true_and]

/-- An FP instruction of which some lane raised an enabled exception, with a handler and no trap in progress: it completes, and the guard-true lanes go on in the
handler (R32, R214). -/
theorem fpComplete_enters (hin : ∀ l x, (h l x).1.inH = x.inH) (hout : ∀ p ∈ s.actives f.gd, p.2.inH = false) (hfree : s.grp.utrap = false)
    (hv : s.grp.trapv ≠ 0) (hhit : s.excepted f h ≠ []) :
    fpComplete f h s = s.entered f.gd (s.completed f h) f.form.len (maskOf ((s.excepted f h).map (fun p => p.1)))
      (tcause 1 ((s.excepted f h).foldl (fun a p => a ||| s.raisedEnabled h p) 0) 0) (tdst (trapDst f.d) false) := by
  have htrapping : s.trapping f.gd 1 (s.raisedAt f h) = s.excepted f h := by
    rw [State.trapping, if_pos rfl]
    exact List.filter_congr (fun p hp => by rw [State.raisedAt_of_active hp])
  have hfold : (s.excepted f h).foldl (fun a p => a ||| s.raisedAt f h p.1) 0 = (s.excepted f h).foldl (fun a p => a ||| s.raisedEnabled h p) 0 :=
    List.foldl_ext _ _ _ (fun a p hp => by rw [State.raisedAt_of_active (List.mem_of_mem_filter hp)])
  have htrap := userTrap_enters (c := s.completed f h) (kind := 1) (code := 0) (len := f.form.len) (d := trapDst f.d) (second := fun _ => false) (raised := s.raisedAt f h)
    (State.completed_inH hin) hout hfree (htrapping ▸ hhit) hv
  rw [htrapping, hfold, List.any_eq_false.mpr (fun _ _ => Bool.false_ne_true)] at htrap
  exact htrap

end

/-- A lane once the handler is entered: a guard-true one goes on there. -/
theorem State.laneAt_entered {s : State} {gd : Guard} {c : Nat → Lane → Lane} {len : Nat} {mask : QWord} {cause dst : DWord} {l : Nat}
    (hl : l < s.grp.lanes.length) :
    (s.entered gd c len mask cause dst).laneAt l =
      if s.active gd l (s.laneAt l) then { c l (s.laneAt l) with st := .eligible, pc := s.grp.trapv &&& ~~~3, inH := true } else c l (s.laneAt l) :=
  State.laneAt_mapLanes (c := fun l x =>
    if s.active gd l x then { c l x with st := .eligible, pc := s.grp.trapv &&& ~~~3, inH := true } else c l x) rfl hl

/-- What FADD makes of a lane, and the flags it raises there (R215). -/
def faddLane (g : Group) (f : Fields) (_ : Nat) (x : Lane) : Lane × FFlags := farithLane 0 g f x

/-- Settles O15: FADD is an FP instruction whose lanes raise what `farithOp 0` raises. -/
theorem floatingTrap : Obligations.FloatingTrap := by
  unfold Obligations.FloatingTrap
  intro f s n hd hty hstop hv hfree hout _ r hit hsome
  have hne : s.excepted f (faddLane s.grp f) ≠ [] := by
    obtain ⟨p, hp, hpe⟩ := hsome
    exact List.ne_nil_of_mem (List.mem_filter.mpr ⟨hp, hpe⟩)
  have hrun : exec (.fadd f) s = .next (fpComplete f (faddLane s.grp f) s) := run_go hstop
  rw [fpComplete_enters (fun _ x => dstVal_inH _ _ _ x) hout hfree hv hne] at hrun
  refine ⟨_, hrun, rfl, rfl, rfl, fun l hl => ?_, ?_, fun i hi => ?_, ?_, fun l hl => ?_, rfl⟩
  · exact State.getLsbD_mask_excepted hl
  · exact tcause_kind (by omega) _ _
  · exact (getLsbD_tcause (by omega) _ _ hi).trans (State.getLsbD_flags_excepted i)
  · rw [hd]
    exact tdst_dst _ _
  · simp only [State.laneAt_entered hl]
    generalize s.laneAt l = x
    by_cases ha : s.active f.gd l x = true
    · simp only [ha, if_true, State.completed_of_active ha, true_and]
      exact ⟨rfl, BitVec.ofNat 64 (r x).1, by rw [← dstVal_vec hty, ← hd]; rfl⟩
    · simp only [ha, Bool.false_eq_true, if_false, State.completed_of_not_active ha]
      split <;> rfl

end Sys2Proof.Machine
end

section
/-! A step and the instruction it runs (R14, R166, R182, R395): what the issue of a bundle decides, and `Obligations.StepRunsDecoded`. -/

namespace Sys2Proof.Machine

/-! Before the instruction's own effect (R152, R339, R384) -/

/-- What the notes of an issue may touch: the cores, the issue log, the load-value queue and the method of the issuing group. -/
def notesOnly (s t : State) : Prop :=
  ∃ k n l c m, t = { s with cores := k, grp := { s.grp with log := n, lvq := l, logged := c, method := m } } ∧ (s.grp.method = none → m = none)

theorem notesOnly.trans {s t u : State} (h : notesOnly s t) (h' : notesOnly t u) : notesOnly s u := by
  obtain ⟨_, _, _, _, _, rfl, hm⟩ := h
  obtain ⟨k, n, l, c, m, rfl, hm'⟩ := h'
  exact ⟨k, n, l, c, m, rfl, fun h => hm' (hm h)⟩

theorem notesOnly_refl (s : State) : notesOnly s s := ⟨_, _, _, _, _, rfl, id⟩

theorem onCore_notesOnly (s : State) (c : Nat) (f : Core → Core) : notesOnly s (s.onCore c f) := by
  unfold State.onCore
  split <;> exact ⟨_, _, _, _, _, rfl, id⟩

theorem noteFetch_notesOnly (s : State) (pas : List Nat) : notesOnly s (s.noteFetch pas) := by
  unfold State.noteFetch
  split
  · exact notesOnly_refl s
  · exact onCore_notesOnly s _ _

theorem settle_fields (g : Group) : ∃ n l, g.settle = { g with log := n, lvq := l } := by
  unfold Group.settle
  split <;> exact ⟨_, _, rfl⟩

theorem assayNote_notesOnly (i : Instr) (s : State) : notesOnly s (assayNote i s) := by
  obtain ⟨n, l, hsettle⟩ := settle_fields s.grp
  unfold assayNote
  split
  · simp only [hsettle]
    split <;> exact ⟨_, _, _, _, _, rfl, id⟩
  · exact notesOnly_refl s

theorem countMethod_notesOnly (s : State) (i : Instr) : notesOnly s (countMethod s i) := by
  have hcount (waits : Bool) : notesOnly s
      (if waits then s else { s with grp := { s.grp with method := s.grp.method.map (fun m => { m with ran := m.ran + 1 }) } }) := by
    cases waits with
    | true => exact notesOnly_refl s
    | false => exact ⟨_, _, _, _, _, rfl, fun hm => by rw [hm]; rfl⟩
  exact hcount _

/-- What an issue does before the instruction's own effect is to note it. -/
theorem begin_notesOnly (s : State) (i : Instr) (pas : List Nat) : notesOnly s (s.begin i pas) :=
  ((noteFetch_notesOnly s pas).trans (assayNote_notesOnly i _)).trans (countMethod_notesOnly _ i)

/-! The words at the bundle's PC decide (R166, R182) -/

section
variable {u : State} {ws : List Word} {pas : List Nat}

/-- With no port poison and no method at its limit, words that are an instruction run it in the state that has noted it. -/
theorem issueBundle_instr (hp : portPoison u = none) (ho : overrun u = none) (hf : u.fetchBundle = .words ws pas) {i : Instr} (hd : decodeWords ws = .ok i) :
    u.issueBundle = exec i (u.begin i pas) := by
  simp only [State.issueBundle, hp, ho, hf, hd]

/-- Words that are none raise ILLEGAL (R166). -/
theorem issueBundle_bad (hp : portPoison u = none) (ho : overrun u = none) (hf : u.fetchBundle = .words ws pas) {e : Enc.Reject} (hd : decodeWords ws = .error e) :
    u.issueBundle = .next (raise .illegal (u.noteFetch pas)) := by
  simp only [State.issueBundle, hp, ho, hf, hd]

/-- A word that cannot be fetched raises FETCH (R166). -/
theorem issueBundle_fail (hp : portPoison u = none) (ho : overrun u = none) {tout level : Nat} {va : DWord} (hf : u.fetchBundle = .fail tout level va) :
    u.issueBundle = .next (fetchFault { cause := .fetch, access := (fetchTouch u.grp).code, tout := tout, level := level, addr := va } u) := by
  simp only [State.issueBundle, hp, ho, hf]

end

/-! The turn at the head of the agenda (log 1) -/

section
variable {s : State} {rest : List Turn}

theorem step_issue {b : Nat} (h : s.agenda = .issue b :: rest) (hc : (State.choose { s with agenda := rest, turn := max s.turn (b + 2) } b).2 = true) :
    step s = (State.choose { s with agenda := rest, turn := max s.turn (b + 2) } b).1.issueBundle := by
  rw [step, h]
  exact if_pos hc

theorem step_event {i : Instr} (h : s.agenda = .event i :: rest) (he : Enc.isEvent i = true) (hm : isManagement i = false) :
    step s = exec i { s with agenda := rest } := by
  rw [step, h]
  simp only [takeTurn, hm, he, Bool.false_eq_true, if_false, if_true]

/-- A management request joins the queue, and the oldest one is served (R395). -/
theorem step_management {i : Instr} (h : s.agenda = .event i :: rest) (hm : isManagement i = true) :
    step s = serveAsk (State.ask { s with agenda := rest } (.command i)) := by
  rw [step, h]
  simp only [takeTurn, hm, if_true]

theorem serveAsk_command {j : Instr} {q : List Ask} (hq : s.mgmt.queue = .command j :: q) (hj : isManagement j = true) :
    serveAsk s = exec j { s with mgmt := { s.mgmt with queue := q } } := by
  simp only [serveAsk, hq, hj, if_true]

/-- A command that finds no other before it is served at once. -/
theorem serveAsk_ask {i : Instr} (hq : s.mgmt.queue = []) (hm : isManagement i = true) : serveAsk (s.ask (.command i)) = exec i s := by
  have hkeep : ({ s with mgmt := { s.mgmt with queue := [] } } : State) = s := by rw [← hq]
  rw [serveAsk_command (j := i) (q := []) (by rw [State.ask, hq]; rfl) hm]
  exact congrArg (exec i) hkeep

end

/-- Settles O25: a step is the turn at the head of the agenda, and an issue is what the fetched words decide. -/
theorem stepRunsDecoded : Obligations.StepRunsDecoded := by
  unfold Obligations.StepRunsDecoded
  refine ⟨fun s b rest hs hc hp ho => ⟨fun ws pas i hf hd => ⟨?_, ?_⟩, fun ws pas e hf hd => ?_, fun tout level va hf => ?_⟩,
    fun _ _ _ => step_event, fun s i rest hs hm => ⟨fun hq => ?_, fun j q hq hj => ?_⟩⟩
  · rw [step_issue hs hc, issueBundle_instr hp ho hf hd]
  · exact begin_notesOnly _ i pas
  · rw [step_issue hs hc, issueBundle_bad hp ho hf hd]
  · rw [step_issue hs hc, issueBundle_fail hp ho hf]
  · rw [step_management hs hm]
    exact serveAsk_ask hq hm
  · rw [step_management hs hm, serveAsk_command (j := j) (q := q ++ [.command i]) (by simp [State.ask, hq]) hj]
    rfl

end Sys2Proof.Machine
end

section
/-! Operations that leave memory alone, in the order of the model: one lemma each. What may write memory is left to the section on writes. -/

namespace Sys2Proof.Machine

/-! Who and where -/

@[simp] theorem State.snapNote_mem (s : State) (u) : (s.snapNote u).mem = s.mem := by
  unfold State.snapNote; split <;> rfl
@[simp] theorem State.onCore_mem (s : State) (c f) : (s.onCore c f).mem = s.mem := by
  unfold State.onCore; split <;> rfl

/-! Privileged faults -/

@[simp] theorem State.holdResult_mem (s : State) (u h) : (s.holdResult u h).mem = s.mem := rfl
@[simp] theorem deliverCall_mem (c status cause res) (s : State) : (deliverCall c status cause res s).mem = s.mem := by
  unfold deliverCall; split <;> rfl
@[simp] theorem State.dropObjCopies_mem (s : State) : s.dropObjCopies.mem = s.mem := rfl
@[simp] theorem endMethod_mem (m trapCause res) (s : State) : (endMethod m trapCause res s).mem = s.mem := by
  simp only [endMethod]
  split
  · split <;> simp
  · rfl
@[simp] theorem methodTrap_mem (cause m) (s : State) : (methodTrap cause m s).mem = s.mem := by simp [methodTrap]
@[simp] theorem State.forgetPage_mem (s : State) (bench asid va) : (s.forgetPage bench asid va).mem = s.mem := rfl
@[simp] theorem State.forgetRefused_mem (s : State) (x) : (s.forgetRefused x).mem = s.mem := by
  unfold State.forgetRefused; split <;> rfl
@[simp] theorem raiseWith_mem (x) (s : State) : (raiseWith x s).mem = s.mem := by
  unfold raiseWith; split <;> simp
@[simp] theorem raise_mem (c) (s : State) : (raise c s).mem = s.mem := by simp [raise]

/-! User traps (R30 to R34) -/

@[simp] theorem userTrap_mem (kind code d len inSet raised second) (s : State) : (userTrap kind code d len inSet raised second s).mem = s.mem := rfl

/-! Registers an instruction uses -/

@[simp] theorem stop_mem (x) (s : State) : (stop x s).mem = s.mem := by
  unfold stop; repeat' split
  all_goals simp

/-! Floating-point instructions -/

@[simp] theorem fpComplete_mem (f h) (s : State) : (fpComplete f h s).mem = s.mem := rfl

/-! Physical memory -/

@[simp] theorem State.onGranule_mem (s : State) (gr f) : (s.onGranule gr f).mem = s.mem := by
  unfold State.onGranule; split <;> rfl

/-! Copies (R50, R57, R68) -/

@[simp] theorem State.fixLoads_mem (s : State) (gid lane core pa n) : (s.fixLoads gid lane core pa n).mem = s.mem := rfl

/-! Sending -/

@[simp] theorem State.learnHome_mem (s : State) (die pa) : (s.learnHome die pa).mem = s.mem := rfl
@[simp] theorem State.scbNote_mem (s : State) (id op md addr data) : (s.scbNote id op md addr data).mem = s.mem := by simp [State.scbNote]
@[simp] theorem State.touchCopies_mem (s : State) (c pa n data mask) : (s.touchCopies c pa n data mask).mem = s.mem := rfl
@[simp] theorem State.dropCopies_mem (s : State) (c pa n) : (s.dropCopies c pa n).mem = s.mem := rfl
@[simp] theorem State.supersedeWaiting_mem (s : State) (c pa n mask) : (s.supersedeWaiting c pa n mask).mem = s.mem := rfl
@[simp] theorem State.touchCore_mem (s : State) (c pa n data mask) : (s.touchCore c pa n data mask).mem = s.mem := by simp [State.touchCore]
@[simp] theorem State.writeBack_mem (s : State) (c p) : (s.writeBack c p).mem = s.mem := by simp [State.writeBack, foldl_mem]

/-! Numbered operations (R156, R157) -/

@[simp] theorem State.sendCopy_mem (s : State) (r) : (s.sendCopy r).mem = s.mem := by
  unfold State.sendCopy; split <;> rfl
@[simp] theorem State.newRop_mem (s : State) (die dst rqtag what) : (s.newRop die dst rqtag what).mem = s.mem := by simp [State.newRop]
@[simp] theorem State.hostPut_mem (s : State) (asid core pa n data mask) : (s.hostPut asid core pa n data mask).mem = s.mem := by
  unfold State.hostPut; split <;> simp
@[simp] theorem State.sendFlush_mem (s : State) (r) : (s.sendFlush r).mem = s.mem := by
  unfold State.sendFlush; split
  · simp
  · split <;> simp
@[simp] theorem State.flushPartials_mem (s : State) (c p) : (s.flushPartials c p).mem = s.mem := by simp [State.flushPartials, foldl_mem]

/-! The L1's sets and ways (R48, R50) -/

@[simp] theorem State.evictLine_mem (s : State) (c ln) : (s.evictLine c ln).mem = s.mem := by simp [State.evictLine]
@[simp] theorem State.makeRoom_mem (s : State) (c ln) : (s.makeRoom c ln).mem = s.mem := by
  simp only [State.makeRoom]
  split
  · rfl
  · split <;> simp
@[simp] theorem State.writeL1_mem (s0 : State) (c pa n data mask place) : (s0.writeL1 c pa n data mask place).mem = s0.mem := by simp [State.writeL1, foldl_mem]

/-! At the home -/

@[simp] theorem State.putCopy_mem (s : State) (c) : (s.putCopy c).mem = s.mem := by simp [State.putCopy]
@[simp] theorem State.putReplica_mem (s : State) (ways c) : (s.putReplica ways c).mem = s.mem := by
  simp only [State.putReplica]
  split
  · rfl
  · split <;> rfl
@[simp] theorem State.grantLease_mem (s : State) (r) : (s.grantLease r).mem = s.mem := by
  simp only [State.grantLease]
  repeat' split
  all_goals simp
@[simp] theorem State.atomL1_mem (under hurt) (s0 : State) (r) : (State.atomL1 under hurt s0 r).mem = s0.mem := by simp [State.atomL1, foldl_mem]
@[simp] theorem State.atomsL1_mem (s : State) (under hurt r) : (s.atomsL1 under hurt r).mem = s.mem := by simp [State.atomsL1, foldl_mem]
@[simp] theorem State.loadHome_mem (s : State) (r) : (s.loadHome r).mem = s.mem := by simp [State.loadHome]
@[simp] theorem State.fetchAtoms_mem (s : State) (r) : (s.fetchAtoms r).mem = s.mem := by
  simp only [State.fetchAtoms]; split <;> simp [foldl_mem]

/-! Input queues of slices (R52, R296, R297) -/

@[simp] theorem State.enqueue_mem (s : State) (r) : (s.enqueue r).mem = s.mem := by
  simp only [State.enqueue]
  repeat' split
  all_goals rfl
theorem State.atHome_mem (s : State) (r) {go : State → Req → State} (hgo : (go s r).mem = s.mem) : (s.atHome r go).mem = s.mem := by
  unfold State.atHome
  repeat' split
  all_goals simp [hgo]

/-! Buffers (R38 to R41, R79) -/

@[simp] theorem State.writeBuf_mem (s : State) (tu region off n x) : (s.writeBuf tu region off n x).mem = s.mem := rfl
@[simp] theorem State.atomBank_mem (s : State) (r) : (s.atomBank r).mem = s.mem := rfl
@[simp] theorem State.atomsBank_mem (s : State) (r) : (s.atomsBank r).mem = s.mem := foldl_mem _ State.atomBank_mem _ _

/-! Delivery (R82, R248) -/

@[simp] theorem State.deliver_mem (s : State) (r) : (s.deliver r).mem = s.mem := by
  unfold State.deliver; split <;> simp

/-! Counters (R81) -/

@[simp] theorem State.count_mem (s : State) (cls isOpen) : (s.count cls isOpen).mem = s.mem := rfl
@[simp] theorem State.closeOp_mem (s : State) (gid id) : (s.closeOp gid id).mem = s.mem := rfl
@[simp] theorem State.acquire_mem (s : State) (gid p) : (s.acquire gid p).mem = s.mem := rfl

/-! Accesses that issue -/

@[simp] theorem State.pending_mem (s : State) (r) : (s.pending r).mem = s.mem := by
  simp only [State.pending]; split <;> simp
@[simp] theorem State.foldPartial_mem (s : State) (c addr op v) : (s.foldPartial c addr op v).mem = s.mem := by
  unfold State.foldPartial; split <;> simp
@[simp] theorem State.sendNumbered_mem (s : State) (r) : (s.sendNumbered r).mem = s.mem := by simp [State.sendNumbered]
@[simp] theorem State.issueStore_mem (s : State) (r) : (s.issueStore r).mem = s.mem := by
  unfold State.issueStore; repeat' split
  all_goals simp
@[simp] theorem State.issueAtom_mem (s : State) (r0) : (s.issueAtom r0).mem = s.mem := by
  simp only [State.issueAtom]
  repeat' split
  all_goals simp
@[simp] theorem State.issueReq_mem (s : State) (r) : (s.issueReq r).mem = s.mem := by
  unfold State.issueReq; repeat' split
  all_goals simp
@[simp] theorem State.issueReqs_mem (s : State) (rs) : (s.issueReqs rs).mem = s.mem := by simp [State.issueReqs, foldl_mem]

/-! Barriers (R45, R46, R110, R260) -/

@[simp] theorem State.onBar_mem (s : State) (t code f) : (s.onBar t code f).mem = s.mem := by
  unfold State.onBar; split <;> rfl
@[simp] theorem State.flip_mem (s : State) (t code) : (s.flip t code).mem = s.mem := rfl
@[simp] theorem State.arrive_mem (s : State) (t code w) : (s.arrive t code w).mem = s.mem := by
  simp only [State.arrive]; split <;> simp
@[simp] theorem State.signal_mem (s : State) (tu code) : (s.signal tu code).mem = s.mem := by
  unfold State.signal; split <;> simp
@[simp] theorem State.arriveLane_mem (s : State) (uid t code w dst l) : (s.arriveLane uid t code w dst l).mem = s.mem := by
  simp only [State.arriveLane]; split <;> simp
@[simp] theorem State.sleepBar_mem (s : State) (uid t code next l) : (s.sleepBar uid t code next l).mem = s.mem := by simp [State.sleepBar]
@[simp] theorem arriveAll_mem (uid t code w dst l) (s : State) : (arriveAll uid t code w dst l s).1.mem = s.mem := by
  induction l generalizing s with
  | nil => rfl
  | cons x l ih => simp [arriveAll, ih]
@[simp] theorem waitAll_mem (uid t code next l) (s : State) : (waitAll uid t code next l s).mem = s.mem := by
  induction l generalizing s with
  | nil => rfl
  | cons p l ih =>
    rw [waitAll, ih]
    split <;> simp

/-! Rings (R47, R261) -/

@[simp] theorem State.onRing_mem (s : State) (tu n f) : (s.onRing tu n f).mem = s.mem := rfl
@[simp] theorem State.ringLeave_mem (s : State) (uid lanes reader sd addr) : (s.ringLeave uid lanes reader sd addr).mem = s.mem := by
  unfold State.ringLeave; split <;> rfl

/-! LAUNCH (R280, R344) -/

@[simp] theorem State.freshTag_mem (s : State) (tag) : (s.freshTag tag).mem = s.mem := by
  unfold State.freshTag; split <;> rfl
@[simp] theorem State.launchStatus_mem (s : State) (uid sd src status) : (s.launchStatus uid sd src status).mem = s.mem := by
  unfold State.launchStatus; split
  · simp
  · split <;> simp
@[simp] theorem State.postLaunch_mem (s : State) (uid sd va pc) : (s.postLaunch uid sd va pc).mem = s.mem := by
  simp only [State.postLaunch]
  repeat' split
  all_goals simp [foldl_mem]

/-! Releases (R72) -/

@[simp] theorem State.watch_mem (s : State) (k) : (s.watch k).mem = s.mem := by simp [State.watch]
@[simp] theorem State.follow_mem (s : State) (uid m next c) : (s.follow uid m next c).mem = s.mem := by
  unfold State.follow
  cases c with
  | fence a => cases a <;> simp
  | access rs a fx => cases a <;> simp
  | arrive code w dst sync => cases sync <;> simp
  | monitor ms => simp [foldl_mem]
  | launch sd va pc => simp only; split <;> simp
  | _ => simp
@[simp] theorem State.endRel_mem (s : State) (g r) : (s.endRel g r).mem = s.mem := by
  unfold State.endRel; split <;> simp
@[simp] theorem State.raiseWct_mem (s : State) (uid w) : (s.raiseWct uid w).mem = s.mem := rfl
@[simp] theorem State.relTo_mem (s : State) (uid id stage waits) : (s.relTo uid id stage waits).mem = s.mem := rfl
@[simp] theorem State.flushCore_mem (s : State) (core) : (s.flushCore core).mem = s.mem := by simp [State.flushCore]
theorem State.relStep_mem {s t : State} {g : Group} {r : Rel} (h : s.relStep g r = some t) : t.mem = s.mem := by
  simp only [State.relStep] at h
  grind [State.endRel_mem, State.relTo_mem, State.flushCore_mem, State.raiseWct_mem]
@[simp] theorem State.relRun_mem (id n) (s : State) : (State.relRun id n s).mem = s.mem := by
  induction n generalizing s with
  | zero => rfl
  | succ n ih =>
    simp only [State.relRun]
    split
    · split
      · next h => rw [ih, State.relStep_mem h]
      · rfl
    · rfl
@[simp] theorem State.holdRel_mem (s : State) (m r) : (s.holdRel m r).mem = s.mem := by simp [State.holdRel]
@[simp] theorem State.release_mem (s : State) (scope m len cont) : (s.release scope m len cont).mem = s.mem := by simp [State.release]
@[simp] theorem State.tellW_mem (s : State) (r w) : (s.tellW r w).mem = s.mem := by
  unfold State.tellW; split <;> simp

/-! Requests of a bundle -/

@[simp] theorem State.passFalse_mem (s : State) (f) : (s.passFalse f).mem = s.mem := rfl
@[simp] theorem accessGo_mem (cls f rs fx) (s0 : State) : (accessGo cls f rs fx s0).mem = s0.mem := by
  unfold accessGo; split
  · simp
  · split <;> simp
@[simp] theorem accessFx_mem (cls f) (s : State) (check fx) : (accessFx cls f s check fx).mem = s.mem := by
  unfold accessFx; repeat' split
  all_goals simp
@[simp] theorem access_mem (cls f) (s : State) (check) : (access cls f s check).mem = s.mem := by simp [access]

/-! Buffers (R251, R254) -/

@[simp] theorem methodBuf_mem (m f n writes ea h back) (s : State) : (methodBuf m f n writes ea h back s).mem = s.mem := by
  unfold methodBuf; repeat' split
  all_goals simp

/-! Atomics (R252 to R254) -/

@[simp] theorem bufAtomic_mem (acc n off b c f) (s : State) : (bufAtomic acc n off b c f s).mem = s.mem := by
  unfold bufAtomic; split <;> simp

/-! WAITC (R262) -/

@[simp] theorem pendMonitors_mem (ms n) (s : State) : (pendMonitors ms n s).mem = s.mem := rfl

/-! Prefetch hints (R263, R264) -/

@[simp] theorem prefetch_mem (slice f) (s : State) (p) : (prefetch slice f s p).mem = s.mem := by
  simp only [prefetch]
  repeat' split
  all_goals simp
@[simp] theorem pfd_mem (slice f) (s : State) : (pfd slice f s).mem = s.mem := by
  unfold pfd; repeat' split
  all_goals simp [foldl_mem]

/-! Fetch (R166) -/

@[simp] theorem fetchFault_mem (x) (s : State) : (fetchFault x s).mem = s.mem := by simp [fetchFault]

/-! Branches and calls (R179, R188) -/

@[simp] theorem State.transfer_mem (s : State) (f link t) : (s.transfer f link t).mem = s.mem := rfl
@[simp] theorem jumpReg_mem (f link t) (s : State) : (jumpReg f link t s).mem = s.mem := by
  unfold jumpReg; split <;> simp
@[simp] theorem jumpTo_mem (f link) (s : State) : (jumpTo f link s).mem = s.mem := by
  unfold jumpTo; split <;> simp

/-! Branch tables (R191, R192) -/

@[simp] theorem btab_mem (f) (s : State) : (btab f s).mem = s.mem := by
  simp only [btab]
  repeat' split
  all_goals simp

/-! JOIN (R20 to R22) -/

@[simp] theorem joinAt_mem (f) (s : State) : (joinAt f s).mem = s.mem := by
  simp only [joinAt]
  repeat' split
  all_goals rfl

/-! Lane control (R193, R30 to R33) -/

@[simp] theorem exitLanes_mem (f) (s : State) : (exitLanes f s).mem = s.mem := by
  simp only [exitLanes]
  repeat' split
  all_goals simp
@[simp] theorem softTrap_mem (kind code f) (s : State) : (softTrap kind code f s).mem = s.mem := by
  simp only [softTrap]
  repeat' split
  all_goals simp
@[simp] theorem rett_mem (f) (s : State) : (rett f s).mem = s.mem := by
  unfold rett; split <;> simp
@[simp] theorem sleep_mem (f) (s : State) : (sleep f s).mem = s.mem := rfl

/-! Immediates (R206) -/

@[simp] theorem State.putScl_mem (s : State) (o x) : (s.putScl o x).mem = s.mem := by
  unfold State.putScl; split <;> rfl

/-! WAIT (R256) -/

@[simp] theorem waitCounters_mem (f) (s : State) : (waitCounters f s).mem = s.mem := rfl
theorem hurtOr_mem (p) (s : State) {body : State → State} (hb : (body s).mem = s.mem) : (hurtOr p s body).mem = s.mem := by
  simp only [hurtOr]
  split
  · simp
  · exact hb

/-! Fences (R257 to R259) -/

theorem fence_mem (f) (s : State) {h : QWord → State → State} (hb : ∀ m t, (h m t).mem = t.mem) : (fence f s h).mem = s.mem := by
  unfold fence; split <;> simp [hb]
@[simp] theorem promote_mem (f m) (s : State) : (promote f m s).mem = s.mem := by simp [promote]
@[simp] theorem cflush_mem (f m) (s : State) : (cflush f m s).mem = s.mem := by simp [cflush]

/-! Rings (R261) -/

@[simp] theorem ringTake_mem (reader f r) (s : State) : (ringTake reader f r s).mem = s.mem := by
  unfold ringTake; repeat' split
  all_goals simp

/-! Copy descriptors (R124) -/

@[simp] theorem State.postCopy_mem (s : State) (g op bar d pc priv) : (s.postCopy g op bar d pc priv).mem = s.mem := by
  simp only [State.postCopy]; split <;> simp

/-! The walk (R125) -/

@[simp] theorem State.onCopy_mem (s : State) (id f) : (s.onCopy id f).mem = s.mem := rfl

/-! Tile descriptors (R109) -/

@[simp] theorem State.postTile_mem (s : State) (g op lanes pc kind t) : (s.postTile g op lanes pc kind t).mem = s.mem := rfl

/-! Passes (R111, R103, R104) -/

@[simp] theorem State.onTask_mem (s : State) (id f) : (s.onTask id f).mem = s.mem := rfl
@[simp] theorem State.setArray_mem (s : State) (quad a) : (s.setArray quad a).mem = s.mem := rfl
@[simp] theorem State.writeArray_mem (s : State) (quad) : (s.writeArray quad).mem = s.mem := by
  unfold State.writeArray; split
  · simp
  · split <;> simp
@[simp] theorem State.pass_mem (s0 : State) (quad x) : (s0.pass quad x).mem = s0.mem := by
  simp only [State.pass]; split <;> simp
@[simp] theorem State.faultHeld_mem (s : State) (uid m x) : (s.faultHeld uid m x).mem = s.mem := by
  unfold State.faultHeld; split <;> rfl
@[simp] theorem State.tilePoison_mem (s : State) (x) : (s.tilePoison x).mem = s.mem := by
  simp only [State.tilePoison]
  repeat' split
  all_goals simp

/-! Counters (R143, R301) -/

@[simp] theorem State.fbump_mem (s : State) (die asid handle ix) : (s.fbump die asid handle ix).mem = s.mem := rfl
@[simp] theorem State.tickSlice_mem (s : State) (die slice) : (s.tickSlice die slice).mem = s.mem := rfl

/-! FCALL and FPROBE (R272) -/

@[simp] theorem lookupLane_mem (d handle bundle probe len) (s : State) (p) : (lookupLane d handle bundle probe len s p).mem = s.mem := by
  simp only [lookupLane]; split <;> simp
@[simp] theorem lookups_mem (f probe d) (s : State) : (lookups f probe d s).mem = s.mem := by
  simp only [lookups]
  repeat' split
  all_goals simp [foldl_mem]

/-! FRET (R273, R137) -/

@[simp] theorem insertLane_mem (d handle) (s : State) (p) : (insertLane d handle s p).mem = s.mem := by
  simp only [insertLane]
  repeat' split
  all_goals simp

/-! Held bundles (R268) -/

@[simp] theorem State.holdFor_mem (s : State) (f k owed) : (s.holdFor f k owed).mem = s.mem := rfl
@[simp] theorem State.leave_mem (s : State) (w) : (s.leave w).mem = s.mem := rfl
@[simp] theorem State.answered_mem (s : State) (id from_) : (s.answered id from_).mem = s.mem := rfl

/-! The slices' steps -/

@[simp] theorem State.newRecord_mem (s : State) (d i) : (s.newRecord d i).mem = s.mem := by
  simp only [State.newRecord]; split <;> simp

/-! Objects -/

@[simp] theorem State.onObj_mem (s : State) (id f) : (s.onObj id f).mem = s.mem := rfl
@[simp] theorem State.onOcopy_mem (s : State) (die obj f) : (s.onOcopy die obj f).mem = s.mem := rfl
@[simp] theorem State.endCall_mem (s : State) (c status cause) : (s.endCall c status cause).mem = s.mem := by simp [State.endCall]
@[simp] theorem State.failObject_mem (s : State) (id) : (s.failObject id).mem = s.mem := by simp [State.failObject, foldl_mem]
@[simp] theorem State.stopCopy_mem (s : State) (die obj k) : (s.stopCopy die obj k).mem = s.mem := rfl
@[simp] theorem State.stopCopies_mem (s : State) (die) : (s.stopCopies die).mem = s.mem := foldl_mem _ (fun t _ => t.stopCopy_mem _ _ _) _ _
@[simp] theorem State.failThin_mem (s : State) : s.failThin.mem = s.mem := by
  unfold State.failThin
  split
  · exact foldl_mem _ (fun t o => by split <;> simp) _ _
  · rfl

/-! OCALL, OSYNC, ORET, OSTAT -/

@[simp] theorem callLane_mem (o sync method) (s : State) (p) : (callLane o sync method s p).mem = s.mem := by
  unfold callLane; repeat' split
  all_goals simp

/-! The log (R147, R150, R153) -/

@[simp] theorem State.replyCopy_mem (s : State) (rop copy y) : (s.replyCopy rop copy y).mem = s.mem := rfl
@[simp] theorem State.onReceipt_mem (s : State) (x f) : (s.onReceipt x f).mem = s.mem := rfl
@[simp] theorem State.receiptDone_mem (s : State) (x y) : (s.receiptDone x y).mem = s.mem := rfl
@[simp] theorem State.holdAppend_mem (s : State) (x) : (s.holdAppend x).mem = s.mem := by
  unfold State.holdAppend; split <;> rfl

/-! Replay (R151, R152) -/

@[simp] theorem State.startMethod_mem (s : State) (die o ix args seq call mutates) : (s.startMethod die o ix args seq call mutates).mem = s.mem := rfl

/-! Reports, checkpoints and votes (R153, R154, R394) -/

@[simp] theorem State.retrim_mem (s : State) (id) : (s.retrim id).mem = s.mem := rfl

/-! Interrupts (R352, R375) -/

@[simp] theorem State.sendMsix_mem (s : State) (v) : (s.sendMsix v).mem = s.mem := by grind [State.sendMsix]
@[simp] theorem State.failRestoring_mem (s : State) (kind unit) : (s.failRestoring kind unit).mem = s.mem := by
  unfold State.failRestoring; split <;> rfl
@[simp] theorem State.logError_mem (s : State) (die kind unit tag addr) : (s.logError die kind unit tag addr).mem = s.mem := by simp [State.logError]
@[simp] theorem State.ranHere_mem (s : State) (lid core) : (s.ranHere lid core).mem = s.mem := by simp [State.ranHere]
@[simp] theorem State.quarantine_mem (s : State) (unit) : (s.quarantine unit).mem = s.mem := by
  unfold State.quarantine; split <;> rfl
@[simp] theorem State.minority_mem (first seq obj) (s : State) (die) : (State.minority first seq obj s die).mem = s.mem := by simp [State.minority]
@[simp] theorem State.vote_mem (s : State) (o seq) : (s.vote o seq).mem = s.mem := by
  simp only [State.vote]; split <;> simp [foldl_mem]

/-! Answers (R71, R77, R82) -/

@[simp] theorem State.fillFromReplica_mem (s : State) (r) : (s.fillFromReplica r).mem = s.mem := by
  unfold State.fillFromReplica; repeat' split
  all_goals simp
@[simp] theorem State.arrived_mem (s : State) (r) : (s.arrived r).mem = s.mem := by
  unfold State.arrived; split
  · simp
  · split <;> simp
theorem bufAnswer_mem {s u : State} {r : Req} (h : bufAnswer s r = some u) : u.mem = s.mem := by
  simp only [bufAnswer] at h
  grind [State.deliver_mem, State.atomsBank_mem]
theorem loadAnswer_mem {s u : State} {r : Req} (h : loadAnswer s r = some u) : u.mem = s.mem := by
  unfold loadAnswer at h
  split at h
  · split at h <;> cases h
    simp
  · split at h <;> cases h
    simp
  · obtain ⟨v, -, rfl⟩ := Option.map_eq_some_iff.mp h
    simp
  · cases h
theorem atomAnswer_mem {s u : State} {r : Req} (h : atomAnswer s r = some u) : u.mem = s.mem := by
  unfold atomAnswer at h
  split at h
  · cases h
    split <;> simp
  · split at h
    · obtain ⟨v, -, rfl⟩ := Option.map_eq_some_iff.mp h
      simp
    · cases h
theorem answer_mem {s u : State} {r : Req} (h : answer s r = some u) : u.mem = s.mem := by
  simp only [answer] at h
  grind [bufAnswer_mem, loadAnswer_mem, atomAnswer_mem]
theorem portAck_mem {s u : State} {r : Req} (h : portAck s r = some u) : u.mem = s.mem := by
  simp only [portAck] at h
  repeat' split at h
  all_goals cases h
  all_goals simp
theorem ackOf_mem {s u : State} {r : Req} (h : ackOf s r = some u) : u.mem = s.mem := by
  unfold ackOf at h
  split at h
  · split at h <;> cases h
    simp
  · split at h
    · cases h
    · split at h
      · cases h
        split <;> simp
      · exact portAck_mem h
      · cases h

/-! Commutative partials (R63, R64) -/

@[simp] theorem State.register_mem (op) (s0 : State) (q) : (State.register op s0 q).mem = s0.mem := by simp [State.register]

/-! Monitors (R84, R262) -/

@[simp] theorem State.wakeMonitor_mem (s : State) (m w hurt) : (s.wakeMonitor m w hurt).mem = s.mem := by
  simp only [State.wakeMonitor]; split <;> simp
@[simp] theorem State.compareLater_mem (s : State) (m) : (s.compareLater m).mem = s.mem := rfl

/-! Serials -/

@[simp] theorem State.onRop_mem (s : State) (id f) : (s.onRop id f).mem = s.mem := rfl
@[simp] theorem State.dropRop_mem (s : State) (id) : (s.dropRop id).mem = s.mem := rfl

/-! What an owner knows of its requesters (R158) -/

@[simp] theorem State.noteReq_mem (s : State) (owner req i a) : (s.noteReq owner req i a).mem = s.mem := by
  unfold State.noteReq; split <;> rfl
@[simp] theorem State.dropRsn_mem (s : State) (owner) : (s.dropRsn owner).mem = s.mem := by
  unfold State.dropRsn; split <;> rfl
@[simp] theorem State.meet_mem (s : State) (m) : (s.meet m).mem = s.mem := by
  simp only [State.meet]; split <;> simp

/-! Execution at the owner (R56, R158, R247) -/

@[simp] theorem State.execute_mem (s : State) (x) : (s.execute x).mem = s.mem := by
  unfold State.execute; split
  · simp
  · split <;> simp
@[simp] theorem State.sendOn_mem (s : State) (m r) : (s.sendOn m r).mem = s.mem := rfl
@[simp] theorem State.sendFrame_mem (s : State) (m r) : (s.sendFrame m r).mem = s.mem := rfl
@[simp] theorem State.receive_mem (s0 : State) (m) : (s0.receive m).mem = s0.mem := by
  simp only [State.receive]
  repeat' split
  all_goals simp

/-! Replies (R157, R159) -/

@[simp] theorem atomFails_mem (s : State) (n r cause) : (atomFails s n r cause).mem = s.mem := by
  unfold atomFails; split <;> rfl
@[simp] theorem launchFails_mem (s : State) (n lid cause) : (launchFails s n lid cause).mem = s.mem := by
  unfold launchFails; repeat' split
  all_goals simp
@[simp] theorem State.failRop_mem (s : State) (n cause) : (s.failRop n cause).mem = s.mem := by
  simp only [State.failRop]
  repeat' split
  all_goals simp
@[simp] theorem State.finishRop_mem (s : State) (n val w) : (s.finishRop n val w).mem = s.mem := by
  simp only [State.finishRop]
  repeat' split
  all_goals simp

/-! Retransmission and give-up (R157, R277) -/

@[simp] theorem State.resend_mem (s : State) (n) : (s.resend n).mem = s.mem := by simp [State.resend]

/-! Host atomics (R160, R161) -/

@[simp] theorem State.toHost_mem (s : State) (x r op cmp new) : (s.toHost x r op cmp new).mem = s.mem := rfl
@[simp] theorem State.askHost_mem (s : State) (r) : (s.askHost r).mem = s.mem := rfl
@[simp] theorem State.casLoop_mem (s : State) (x r seen) : (s.casLoop x r seen).mem = s.mem := rfl
@[simp] theorem State.portResult_mem (s : State) (x v) : (s.portResult x v).mem = s.mem := rfl

/-! BARSAVE and BARRST (R286, R287) -/

@[simp] theorem barrst_mem (f) (s : State) : (barrst f s).mem = s.mem := by
  simp only [barrst]
  repeat' split
  all_goals simp

/-! ZEROB (R290) -/

@[simp] theorem zerob_mem (f) (s : State) : (zerob f s).mem = s.mem := by
  unfold zerob; split
  · simp
  · split <;> simp

/-! PARK (R291, R357) -/

@[simp] theorem State.parkTeam_mem (s : State) (tu) : (s.parkTeam tu).mem = s.mem := by
  simp only [State.parkTeam]; split <;> simp

/-! RFT (R292, R287, R359) -/

@[simp] theorem repost_mem (s : State) (w0 d pc) : (repost s w0 d pc).mem = s.mem := by
  unfold repost; split <;> simp
@[simp] theorem State.repend_mem (s : State) : s.repend.mem = s.mem := rfl
@[simp] theorem repostAll_mem (l) (s : State) : (repostAll l s).mem = s.mem := by simp [repostAll, foldl_mem]
@[simp] theorem repostMate_mem (s : State) (g) : (repostMate s g).mem = s.mem := by simp [repostMate]
@[simp] theorem firstRft_mem (fromRecord) (s : State) : (firstRft fromRecord s).mem = s.mem := by simp [firstRft, foldl_mem]
@[simp] theorem rft_mem (f) (s : State) : (rft f s).mem = s.mem := by
  unfold rft; repeat' split
  all_goals simp

/-! DESC (R293, R130, R144, R145) -/

theorem descGo_mem (ok pages f) {go : State → State} (s : State) (hgo : (go s).mem = s.mem) : (descGo ok pages f go s).mem = s.mem := by
  unfold descGo
  repeat' split
  all_goals simp [hgo]

/-! Hints (R283, R284, R340, R341) -/

@[simp] theorem prefetchAt_mem (c w va) (s : State) : (prefetchAt c w va s).mem = s.mem := by simp [prefetchAt]
@[simp] theorem prefetchLines_mem (n va) (s : State) : (prefetchLines n va s).mem = s.mem := by simp [prefetchLines, foldl_mem]

/-! Removing teams (R87, R123, R391) -/

@[simp] theorem State.dropUnsent_mem (s : State) (u) : (s.dropUnsent u).mem = s.mem := rfl

/-! PURGE and KILL (R289, R389) -/

@[simp] theorem State.queuedAnswer_mem (s : State) (die lid) : (s.queuedAnswer die lid).mem = s.mem := by
  simp only [State.queuedAnswer]
  repeat' split
  all_goals simp
@[simp] theorem State.unqueue_mem (die) (s : State) (g) : (State.unqueue die s g).mem = s.mem := by simp [State.unqueue]
@[simp] theorem State.stopSlots_mem (s : State) (tag) : (s.stopSlots tag).mem = s.mem := rfl

/-! Walks, ATS and invalidations (R364 to R366, R288) -/

@[simp] theorem State.addTlb_mem (s : State) (e) : (s.addTlb e).mem = s.mem := rfl
@[simp] theorem State.settlePfis_mem (s : State) (c) : (s.settlePfis c).mem = s.mem := by simp [State.settlePfis, foldl_mem]

/-! Slots (R345, R348) -/

@[simp] theorem State.onGrid_mem (s : State) (lid f) : (s.onGrid lid f).mem = s.mem := rfl
@[simp] theorem State.onSlot_mem (s : State) (die lid f) : (s.onSlot die lid f).mem = s.mem := rfl
@[simp] theorem State.freeReported_mem (s : State) (lid) : (s.freeReported lid).mem = s.mem := rfl
@[simp] theorem State.reportDie_mem (s : State) (die lid) : (s.reportDie die lid).mem = s.mem := rfl

/-! Placing a team (R9, R11, R43, R44, R299, R349, R359) -/

@[simp] theorem State.seat_mem (s : State) (bench g) : (s.seat bench g).mem = s.mem := rfl
@[simp] theorem placeTeam_mem (g die cl kd) (s : State) (p) : (placeTeam g die cl kd s p).mem = s.mem := by
  obtain ⟨rank, core, lin, x, y, z⟩ := p
  simp only [placeTeam, State.ranHere_mem, State.onGrid_mem]
  refine (foldl_mem _ (fun u q => ?_) _ _).trans rfl
  exact State.seat_mem _ _ _

/-! Choosing what to place (R346, R349) -/

@[simp] theorem State.sweepRetired_mem (s : State) : s.sweepRetired.mem = s.mem := rfl

/-! Pre-emption (R350) -/

@[simp] theorem State.withdraw_mem (s : State) (u tu) : (s.withdraw u tu).mem = s.mem := rfl
@[simp] theorem State.withdrawExited_mem (s : State) (tu) : (s.withdrawExited tu).mem = s.mem := foldl_mem _ (fun t m => by simp) _ _
@[simp] theorem State.preemptTeams_mem (s : State) (p) : (s.preemptTeams p).mem = s.mem := by simp [State.preemptTeams, foldl_mem]
@[simp] theorem State.startPreempt_mem (s : State) (die) : (s.startPreempt die).mem = s.mem := by
  unfold State.startPreempt; split
  · simp
  · split <;> simp

/-! Retirement (R9, R12, R351) -/

@[simp] theorem State.leaveCluster_mem (s : State) (t) : (s.leaveCluster t).mem = s.mem := by
  simp only [State.leaveCluster]
  repeat' split
  all_goals simp
@[simp] theorem State.retire_mem (s : State) (t) : (s.retire t).mem = s.mem := by simp [State.retire]

/-! Images (R367) -/

@[simp] theorem State.boot_mem (s : State) (h) : (s.boot h).mem = [] := rfl

/-! Dies that are no compute dies -/

@[simp] theorem State.onOuter_mem (s : State) (n f) : (s.onOuter n f).mem = s.mem := rfl

/-! IDENT (R369) -/

@[simp] theorem State.onPorts_mem (s : State) (die f g) : (s.onPorts die f g).mem = s.mem := by
  unfold State.onPorts; split <;> rfl
@[simp] theorem State.sendIdent_mem (s : State) (die port) : (s.sendIdent die port).mem = s.mem := rfl
@[simp] theorem State.noteIdent_mem (s : State) (die strap payload) : (s.noteIdent die strap payload).mem = s.mem := by
  unfold State.noteIdent; repeat' split
  all_goals simp

/-! Time (R372) -/

@[simp] theorem State.sendTime_mem (s : State) (die port) : (s.sendTime die port).mem = s.mem := rfl

/-! Die resets and lost links (R158, R373, R399) -/

@[simp] theorem State.loseCopies_mem (s : State) (die) : (s.loseCopies die).mem = s.mem := by simp [State.loseCopies]

/-! Messages from outside (R371, R376) -/

@[simp] theorem State.answerPeer_mem (s : State) (hub h y data) : (s.answerPeer hub h y data).mem = s.mem := rfl
@[simp] theorem State.portReads_mem (s : State) (pa n) : (s.portReads pa n).mem = s.mem := by
  unfold State.portReads; split <;> simp
@[simp] theorem State.peerResponse_mem (s : State) (h data) : (s.peerResponse h data).mem = s.mem := by
  unfold State.peerResponse; split <;> rfl

/-! The host (R377, R379) -/

@[simp] theorem State.onHSlot_mem (s : State) (n f) : (s.onHSlot n f).mem = s.mem := rfl
@[simp] theorem State.startContext_mem (s : State) (pa) : (s.startContext pa).1.mem = s.mem := by
  simp only [State.startContext]; split <;> simp
@[simp] theorem State.sendLaunch_mem (s : State) (die asid r) : (s.sendLaunch die asid r).1.mem = s.mem := by simp [State.sendLaunch, foldl_mem]

/-! PUTL (R240) -/

@[simp] theorem dualGo_mem (gd x y) (s : State) : (dualGo gd x y s).mem = s.mem := rfl

/-! Units (R392, R393) -/

@[simp] theorem State.takeOut_mem (s : State) (u tag) : (s.takeOut u tag).mem = s.mem := by
  unfold State.takeOut; repeat' split
  all_goals simp

/-! Scrub and drifts (R381, R382) -/

@[simp] theorem State.upsetL1_mem (s : State) (core pa) : (s.upsetL1 core pa).mem = s.mem := by
  simp only [State.upsetL1]; split <;> simp

/-! Assay contexts (R384 to R388) -/

@[simp] theorem State.assayRaise_mem (s : State) (uid lanes pc addr) : (s.assayRaise uid lanes pc addr).mem = s.mem := by simp [State.assayRaise]
@[simp] theorem State.leaveSnaps_mem (s : State) (c) : (s.leaveSnaps c).mem = s.mem := foldl_mem _ State.leave_mem _ _
@[simp] theorem State.orphan_mem (s0 : State) (u) : (s0.orphan u).mem = s0.mem := rfl

/-! Power and heat (R398, R399) -/

@[simp] theorem State.setClock_mem (s : State) (i mhz) : (s.setClock i mhz).mem = s.mem := by
  unfold State.setClock; split <;> simp
@[simp] theorem State.slower_mem (s : State) (i) : (s.slower i).mem = s.mem := by simp [State.slower]
@[simp] theorem State.faster_mem (s : State) (i) : (s.faster i).mem = s.mem := by simp [State.faster]

/-! Firmware, tracing, restoring (R400 to R402) -/

@[simp] theorem State.beginTests_mem (s : State) : s.beginTests.mem = s.mem := rfl
@[simp] theorem State.noteFetch_mem (s : State) (pas) : (s.noteFetch pas).mem = s.mem := by
  unfold State.noteFetch; split <;> simp

/-! The log and the queue (R384) -/

@[simp] theorem assayNote_mem (i) (s : State) : (assayNote i s).mem = s.mem := by
  unfold assayNote; split <;> rfl

/-! Bundles -/

@[simp] theorem State.focus_mem (s : State) (u) : (s.focus u).mem = s.mem := by
  unfold State.focus; split
  · simp
  · split <;> simp
@[simp] theorem State.withBundle_mem (s : State) (pc lanes second) : (s.withBundle pc lanes second).mem = s.mem := rfl

/-! The choice of a group (R16) -/

@[simp] theorem State.demand_mem (s : State) (u) : (s.demand u).mem = s.mem := by
  simp only [State.demand]; split <;> simp
@[simp] theorem State.noteSince_mem (s : State) (can all chosen) : (s.noteSince can all chosen).mem = s.mem := rfl
@[simp] theorem State.choose_mem (s0 : State) (b) : (s0.choose b).1.mem = s0.mem := by
  simp only [State.choose]
  repeat' split
  all_goals simp [foldl_mem]

/-! The issue of a bundle -/

@[simp] theorem countMethod_mem (s : State) (i) : (countMethod s i).mem = s.mem := by
  obtain ⟨_, _, _, _, _, hs, -⟩ := countMethod_notesOnly s i
  rw [hs]
@[simp] theorem State.begin_mem (s : State) (i pas) : (s.begin i pas).mem = s.mem := by simp [State.begin]

/-! Management (R395) -/

@[simp] theorem State.ask_mem (s : State) (a) : (s.ask a).mem = s.mem := rfl

/-! The turn -/

@[simp] theorem State.forgetOwn_mem (s : State) : s.forgetOwn.mem = s.mem := rfl
@[simp] theorem State.tick_mem (s : State) (shadows) : (s.tick shadows).mem = s.mem := rfl

end Sys2Proof.Machine
end

section
/-! Instructions and steps of agents that leave memory alone, the shared operations of instructions first. -/

namespace Sys2Proof.Machine

/-- The next state of an outcome, when there is one, has the memory of `s`. -/
def keepsMem (s : State) (o : Out3) : Prop := ∀ t, o = .next t → t.mem = s.mem

@[simp] theorem keepsMem_next {s t : State} : keepsMem s (.next t) ↔ t.mem = s.mem :=
  ⟨fun h => h t rfl, by rintro h _ ⟨⟩; exact h⟩

/-! Operations that run an instruction -/

section
variable {k : Key} {f : Fields} {s : State} {fn : BitVec 3}

theorem run_keepsMem {body : State → State} (hb : (body s).mem = s.mem) : keepsMem s (run k f s body) := by
  rw [run_next, keepsMem_next]
  split
  · exact stop_mem _ _
  · exact hb

theorem runLanes_keepsMem {h : Nat → Lane → Lane} : keepsMem s (runLanes k f s h) := run_keepsMem rfl

theorem runFp_keepsMem {h : Nat → Lane → Lane × FFlags} : keepsMem s (runFp k f s h) := run_keepsMem rfl

theorem runScalar_keepsMem {h : State → Nat × Lane → State} (hh : ∀ e, (h s e).mem = s.mem) : keepsMem s (runScalar k f s h) := by
  apply run_keepsMem
  split
  · exact hh _
  · rfl

theorem salu_keepsMem {n : Nat} : keepsMem s (salu k n f s) := runScalar_keepsMem (fun _ => State.putScl_mem _ _ _)

theorem hinted_keepsMem {t : State} (ht : t.mem = s.mem) : keepsMem s (hinted s t) := by
  unfold hinted
  split <;> simp [ht]

theorem ridx_keepsMem {body : Nat → State → State} (hb : ∀ n, (body n s).mem = s.mem) : keepsMem s (ridx fn f s body) := by
  apply run_keepsMem
  simp only []
  repeat' split
  all_goals simp [hb]

theorem barOp_keepsMem {h : State → State} (hh : (h s).mem = s.mem) : keepsMem s (barOp fn f s h) := by
  apply run_keepsMem
  repeat' split
  all_goals simp [hh, hurtOr_mem]

theorem ringOp_keepsMem {h : Ring → State → State} (hh : ∀ r, (h r s).mem = s.mem) : keepsMem s (ringOp fn f s h) := by
  apply run_keepsMem
  repeat' split
  all_goals simp [hh]

theorem tile_keepsMem {op} : keepsMem s (tile fn op f s) := by
  apply run_keepsMem
  simp only []
  repeat' split
  all_goals simp

theorem fst_keepsMem {body : BitVec 1024 → State → State} (hb : ∀ d, (body d s).mem = s.mem) : keepsMem s (fst fn f s body) := by
  apply run_keepsMem
  repeat' split
  all_goals simp [hb]

theorem objOp_keepsMem {body : Obj → State → State} (hb : ∀ o, (body o s).mem = s.mem) : keepsMem s (objOp fn f s body) := by
  apply run_keepsMem
  simp only []
  repeat' split
  all_goals simp [hb]

theorem sysOp_keepsMem {body : State → State} (hb : (body s).mem = s.mem) : keepsMem s (sysOp fn f s body) := by
  apply run_keepsMem
  split <;> simp [hb]

theorem qntOp_keepsMem {unit} {h} : keepsMem s (qntOp fn unit f s h) := by
  apply run_keepsMem
  simp only []
  repeat' split
  all_goals simp

end

/-! LDG (R249) -/

theorem execLdg_keepsMem (w f) (s : State) : keepsMem s (execLdg w f s) := run_keepsMem (by simp)

/-! STG (R250, R60) -/

theorem execStg_keepsMem (w f) (s : State) : keepsMem s (execStg w f s) := run_keepsMem (by simp)

/-! Buffers (R251, R254) -/

theorem execLdb_keepsMem (w f) (s : State) : keepsMem s (execLdb w f s) := run_keepsMem (by split <;> simp)
theorem execStb_keepsMem (w f) (s : State) : keepsMem s (execStb w f s) := run_keepsMem (by split <;> simp)

/-! Atomics (R252 to R254) -/

theorem execAtom_keepsMem (op f) (s : State) : keepsMem s (execAtom op f s) := run_keepsMem (by simp)
theorem execAtomCas_keepsMem (f) (s : State) : keepsMem s (execAtomCas f s) := run_keepsMem (by simp)
theorem execAtomb_keepsMem (op f) (s : State) : keepsMem s (execAtomb op f s) := run_keepsMem (by simp)
theorem execAtombCas_keepsMem (f) (s : State) : keepsMem s (execAtombCas f s) := run_keepsMem (by simp)

/-! COMM (R255) -/

theorem execComm_keepsMem (op f) (s : State) : keepsMem s (execComm op f s) := run_keepsMem (by simp)

/-! WAITC (R262) -/

theorem execWaitc_keepsMem (c f) (s : State) : keepsMem s (execWaitc c f s) := by
  apply run_keepsMem
  simp only []
  repeat' split
  all_goals simp

/-! Prefetch hints (R263, R264) -/

theorem execPfdL1_keepsMem (f) (s : State) : keepsMem s (execPfdL1 f s) := hinted_keepsMem (by simp)
theorem execPfdSlice_keepsMem (f) (s : State) : keepsMem s (execPfdSlice f s) := hinted_keepsMem (by simp)
theorem execYield_keepsMem (f) (s : State) : keepsMem s (execYield f s) := hinted_keepsMem (by simp)

/-! Branches and calls (R179, R188) -/

theorem execNop_keepsMem (f) (s : State) : keepsMem s (execNop f s) := keepsMem_next.mpr (by simp)
theorem execBra_keepsMem (f) (s : State) : keepsMem s (execBra f s) := run_keepsMem (by simp)
theorem execBraX_keepsMem (f) (s : State) : keepsMem s (execBraX f s) := run_keepsMem (by simp)
theorem execCall_keepsMem (f) (s : State) : keepsMem s (execCall f s) := run_keepsMem (by simp)
theorem execCallX_keepsMem (f) (s : State) : keepsMem s (execCallX f s) := run_keepsMem (by simp)
theorem execJmpr_keepsMem (f) (s : State) : keepsMem s (execJmpr f s) := run_keepsMem (by simp)
theorem execCallr_keepsMem (f) (s : State) : keepsMem s (execCallr f s) := run_keepsMem (by simp)
theorem execRet_keepsMem (f) (s : State) : keepsMem s (execRet f s) := run_keepsMem (by simp)

/-! Branch tables (R191, R192) -/

theorem execBtab_keepsMem (f) (s : State) : keepsMem s (execBtab f s) := run_keepsMem (by simp)
theorem execTgt_keepsMem (x0) (s : State) : keepsMem s (execTgt x0 s) := keepsMem_next.mpr (by simp)

/-! JOIN (R20 to R22) -/

theorem execJoin_keepsMem (f) (s : State) : keepsMem s (execJoin f s) := run_keepsMem (by simp)
theorem execJoinX_keepsMem (f) (s : State) : keepsMem s (execJoinX f s) := run_keepsMem (by simp)
theorem execJoinTimeout_keepsMem (g pc) (s : State) : keepsMem s (execJoinTimeout g pc s) := by
  simp only [execJoinTimeout, keepsMem_next]; split <;> simp

/-! Lane control (R193, R30 to R33) -/

theorem execExit_keepsMem (f) (s : State) : keepsMem s (execExit f s) := run_keepsMem (by simp)
theorem execTrap_keepsMem (f) (s : State) : keepsMem s (execTrap f s) := run_keepsMem (by simp)
theorem execBkpt_keepsMem (f) (s : State) : keepsMem s (execBkpt f s) := run_keepsMem (by simp)
theorem execRett_keepsMem (f) (s : State) : keepsMem s (execRett f s) := run_keepsMem (by simp)
theorem execSleep_keepsMem (f) (s : State) : keepsMem s (execSleep f s) := run_keepsMem (by simp)
theorem execTimedExpiry_keepsMem (g lane) (s : State) : keepsMem s (execTimedExpiry g lane s) := keepsMem_next.mpr (by simp)

/-! Comparisons and predicates -/

theorem execSel_keepsMem (f) (s : State) : keepsMem s (execSel f s) := by
  simp only [execSel]
  exact run_keepsMem rfl

/-! The scalar unit -/

theorem execV2s_keepsMem (f) (s : State) : keepsMem s (execV2s f s) := runScalar_keepsMem (fun _ => by simp)
theorem execSmovi_keepsMem (f) (s : State) : keepsMem s (execSmovi f s) := runScalar_keepsMem (fun _ => by simp)
theorem execSaddi_keepsMem (f) (s : State) : keepsMem s (execSaddi f s) := runScalar_keepsMem (fun _ => by simp)

/-! The special registers -/

theorem execGets_keepsMem (f) (s : State) : keepsMem s (execGets f s) := by
  unfold execGets
  split
  · exact runScalar_keepsMem (fun _ => State.setScl_mem _ _ _)
  · exact runLanes_keepsMem

theorem execSets_keepsMem (f) (s : State) : keepsMem s (execSets f s) := by
  simp only [execSets]
  split
  · simp
  · split
    · exact runLanes_keepsMem
    · exact runScalar_keepsMem (fun _ => rfl)

/-! RIDX (R210) -/

theorem execRget_keepsMem (f) (s : State) : keepsMem s (execRget f s) := ridx_keepsMem (fun _ => rfl)
theorem execRset_keepsMem (f) (s : State) : keepsMem s (execRset f s) := ridx_keepsMem (fun _ => by
  repeat' split
  all_goals simp)

/-! WAIT (R256) -/

theorem execWait_keepsMem (f) (s : State) : keepsMem s (execWait f s) := by
  apply run_keepsMem
  split
  · exact hurtOr_mem _ _ (waitCounters_mem _ _)
  · exact waitCounters_mem _ _

/-! Fences (R257 to R259) -/

theorem execFenceRel_keepsMem (f) (s : State) : keepsMem s (execFenceRel f s) := run_keepsMem (fence_mem _ _ (by simp))
theorem execFenceAcq_keepsMem (f) (s : State) : keepsMem s (execFenceAcq f s) := run_keepsMem (by split <;> simp)
theorem execFenceFull_keepsMem (f) (s : State) : keepsMem s (execFenceFull f s) := run_keepsMem (fence_mem _ _ (by simp))
theorem execFencePromote_keepsMem (f) (s : State) : keepsMem s (execFencePromote f s) := run_keepsMem (fence_mem _ _ (by simp))
theorem execFenceCflush_keepsMem (f) (s : State) : keepsMem s (execFenceCflush f s) := run_keepsMem (fence_mem _ _ (by simp))

/-! Barriers (R260) -/

theorem execBarArrive_keepsMem (f) (s : State) : keepsMem s (execBarArrive f s) := barOp_keepsMem (by simp)
theorem execBarWait_keepsMem (f) (s : State) : keepsMem s (execBarWait f s) := barOp_keepsMem (by simp)
theorem execBarSync_keepsMem (f) (s : State) : keepsMem s (execBarSync f s) := barOp_keepsMem (by simp)
theorem execBarInit_keepsMem (f) (s : State) : keepsMem s (execBarInit f s) := barOp_keepsMem (by simp)
theorem execBarExpect_keepsMem (f) (s : State) : keepsMem s (execBarExpect f s) := barOp_keepsMem (by simp)
theorem execBarTest_keepsMem (f) (s : State) : keepsMem s (execBarTest f s) := barOp_keepsMem (by simp)

/-! Rings (R261) -/

theorem execRingAcq_keepsMem (f) (s : State) : keepsMem s (execRingAcq f s) := ringOp_keepsMem (fun _ => by simp)
theorem execRingPut_keepsMem (f) (s : State) : keepsMem s (execRingPut f s) := ringOp_keepsMem (fun _ => by simp)
theorem execRingRel_keepsMem (f) (s : State) : keepsMem s (execRingRel f s) := ringOp_keepsMem (fun _ => by split <;> simp)
theorem execRingPub_keepsMem (f) (s : State) : keepsMem s (execRingPub f s) := ringOp_keepsMem (fun _ => by simp only []; split <;> simp)
theorem execRingInit_keepsMem (f) (s : State) : keepsMem s (execRingInit f s) := ringOp_keepsMem (fun _ => by simp only []; split <;> simp)
theorem execRingStat_keepsMem (f) (s : State) : keepsMem s (execRingStat f s) := ringOp_keepsMem (fun _ => by simp)
theorem execRingWaiterWake_keepsMem (team ring writer) (s : State) : keepsMem s (execRingWaiterWake team ring writer s) := by
  simp only [execRingWaiterWake]
  repeat' split
  all_goals simp

/-! Copy descriptors (R124) -/

theorem execCopy_keepsMem (f) (s : State) : keepsMem s (execCopy f s) := by
  apply run_keepsMem
  simp only []
  repeat' split
  all_goals simp

/-! Fault records (R360) -/

theorem execCopyRingAcquire_keepsMem (id) (s : State) : keepsMem s (execCopyRingAcquire id s) := by
  simp only [execCopyRingAcquire, keepsMem_next]
  repeat' split
  all_goals simp

theorem execCopyStart_keepsMem (id) (s : State) : keepsMem s (execCopyStart id s) := by
  simp only [execCopyStart, keepsMem_next]
  repeat' split
  all_goals simp

/-! Passes (R111, R103, R104) -/

theorem execTaskReady_keepsMem (id) (s : State) : keepsMem s (execTaskReady id s) := by
  simp only [execTaskReady, keepsMem_next]
  repeat' split
  all_goals simp

theorem execPassGrant_keepsMem (quad) (s : State) : keepsMem s (execPassGrant quad s) := by
  simp only [execPassGrant, keepsMem_next]; split <;> simp

theorem execTaskComplete_keepsMem (id) (s : State) : keepsMem s (execTaskComplete id s) := by
  simp only [execTaskComplete, keepsMem_next]
  repeat' split
  all_goals simp

/-! FCALL and FPROBE (R272) -/

theorem execFcall_keepsMem (f) (s : State) : keepsMem s (execFcall f s) := fst_keepsMem (fun _ => by simp)
theorem execFprobe_keepsMem (f) (s : State) : keepsMem s (execFprobe f s) := fst_keepsMem (fun _ => by simp)

/-! FRET (R273, R137) -/

theorem execFret_keepsMem (f) (s : State) : keepsMem s (execFret f s) := fst_keepsMem (fun _ => by
  simp only []
  repeat' split
  all_goals simp [foldl_mem])

/-! Held bundles (R268) -/

theorem execFinval_keepsMem (f) (s : State) : keepsMem s (execFinval f s) := fst_keepsMem (fun _ => by simp)
theorem execFstat_keepsMem (f) (s : State) : keepsMem s (execFstat f s) := fst_keepsMem (fun _ => by simp only []; split <;> simp)

/-! The slices' steps -/

theorem execStoreLookup_keepsMem (id ecc) (s : State) : keepsMem s (execStoreLookup id ecc s) := by
  simp only [execStoreLookup, keepsMem_next]
  repeat' split
  all_goals simp [foldl_mem]

theorem execLookupAnswer_keepsMem (id) (s : State) : keepsMem s (execLookupAnswer id s) := by
  simp only [execLookupAnswer, keepsMem_next]
  split
  · rfl
  · split
    · rfl
    · exact foldl_mem _ (fun t y => t.onLane_mem _ _ _) _ _

theorem execStoreInsert_keepsMem (id) (s : State) : keepsMem s (execStoreInsert id s) := by
  simp only [execStoreInsert, keepsMem_next]
  repeat' split
  all_goals simp

theorem execStoreInvalidate_keepsMem (die v) (s : State) : keepsMem s (execStoreInvalidate die v s) := by
  simp only [execStoreInvalidate, keepsMem_next]
  repeat' split
  all_goals simp

theorem execFinvalDone_keepsMem (v) (s : State) : keepsMem s (execFinvalDone v s) := by
  simp only [execFinvalDone, keepsMem_next]
  repeat' split
  all_goals simp

/-! OCALL, OSYNC, ORET, OSTAT -/

theorem execOcall_keepsMem (f) (s : State) : keepsMem s (execOcall f s) := objOp_keepsMem (fun _ => by simp only []; split <;> simp [foldl_mem])
theorem execOsync_keepsMem (f) (s : State) : keepsMem s (execOsync f s) := objOp_keepsMem (fun _ => by simp [foldl_mem])
theorem execOret_keepsMem (f) (s : State) : keepsMem s (execOret f s) := by
  apply run_keepsMem
  split
  · rfl
  · split <;> simp

theorem execOstat_keepsMem (f) (s : State) : keepsMem s (execOstat f s) := objOp_keepsMem (fun _ => by simp only []; split <;> simp)

/-! The log (R147, R150, R153) -/

theorem execTailRead_keepsMem (c) (s : State) : keepsMem s (execTailRead c s) := by
  simp only [execTailRead, keepsMem_next]
  repeat' split
  all_goals simp

/-! Replay (R151, R152) -/

theorem execReplayApply_keepsMem (die obj) (s : State) : keepsMem s (execReplayApply die obj s) := by
  simp only [execReplayApply, keepsMem_next]
  repeat' split
  all_goals simp

theorem execReadOnlyCall_keepsMem (id) (s : State) : keepsMem s (execReadOnlyCall id s) := by
  simp only [execReadOnlyCall, keepsMem_next]
  repeat' split
  all_goals simp

/-! Reports, checkpoints and votes (R153, R154, R394) -/

theorem execAppliedReport_keepsMem (die obj) (s : State) : keepsMem s (execAppliedReport die obj s) := by
  simp only [execAppliedReport, keepsMem_next]
  repeat' split
  all_goals simp

/-! Interrupts (R352, R375) -/

theorem execDigestReport_keepsMem (die obj) (s : State) : keepsMem s (execDigestReport die obj s) := by
  simp only [execDigestReport, keepsMem_next]
  repeat' split
  all_goals simp

theorem execDigestTimeout_keepsMem (obj) (s : State) : keepsMem s (execDigestTimeout obj s) := by
  simp only [execDigestTimeout, keepsMem_next]
  repeat' split
  all_goals simp

theorem execResync_keepsMem (die obj) (s : State) : keepsMem s (execResync die obj s) := by
  simp only [execResync, keepsMem_next]
  repeat' split
  all_goals simp

/-! Answers (R71, R77, R82) -/

theorem execLoadComplete_keepsMem (r) (s : State) : keepsMem s (execLoadComplete r s) := by
  simp only [execLoadComplete, keepsMem_next]
  split
  · next q _ =>
    cases ha : answer s q with
    | none => rfl
    | some t => exact answer_mem ha
  · rfl

theorem execStoreAck_keepsMem (r) (s : State) : keepsMem s (execStoreAck r s) := by
  simp only [execStoreAck, keepsMem_next]
  split
  · next q _ =>
    cases ha : ackOf s q with
    | none => rfl
    | some t => exact ackOf_mem ha
  · rfl

/-! Homes (R52 to R54, R64, R67 to R69) -/

theorem execRequestForward_keepsMem (r) (s : State) : keepsMem s (execRequestForward r s) := by
  simp only [execRequestForward, keepsMem_next]
  repeat' split
  all_goals simp

theorem execFlitReoffer_keepsMem (r) (s : State) : keepsMem s (execFlitReoffer r s) := by
  simp only [execFlitReoffer, keepsMem_next]
  repeat' split
  all_goals simp

/-! Evictions (R50, R57, R75) -/

theorem execL1Eviction_keepsMem (core line) (s : State) : keepsMem s (execL1Eviction core line s) := keepsMem_next.mpr (by simp)
theorem execReplicaEviction_keepsMem (die line) (s : State) : keepsMem s (execReplicaEviction die line s) := keepsMem_next.mpr (by simp)

/-! Lent segments (R44, R48, R49) -/

theorem execSegmentDrain_keepsMem (core weight seg) (s : State) : keepsMem s (execSegmentDrain core weight seg s) := by
  simp only [execSegmentDrain, keepsMem_next]
  repeat' split
  all_goals simp

/-! Moving homes (R55, R56, R86) -/

theorem execGranuleCountHalving_keepsMem (die) (s : State) : keepsMem s (execGranuleCountHalving die s) := by
  simp only [execGranuleCountHalving]
  repeat' split
  all_goals simp

theorem execClaim_keepsMem (gran) (s : State) : keepsMem s (execClaim gran s) := by
  simp only [execClaim]
  repeat' split
  all_goals simp

theorem execForwardPointerExpiry_keepsMem (die gran) (s : State) : keepsMem s (execForwardPointerExpiry die gran s) := keepsMem_next.mpr (by simp)

/-! Commutative partials (R63, R64) -/

theorem execPartialRegistration_keepsMem (r) (s : State) : keepsMem s (execPartialRegistration r s) := by
  simp only [execPartialRegistration, keepsMem_next]
  repeat' split
  all_goals simp [State.atHome_mem]

theorem execPartialRecall_keepsMem (r core) (s : State) : keepsMem s (execPartialRecall r core s) := by
  simp only [execPartialRecall, keepsMem_next]
  repeat' split
  all_goals simp [foldl_mem]

/-! Counters and releases (R72, R78, R81) -/

theorem execCounterRetire_keepsMem (g cls) (s : State) : keepsMem s (execCounterRetire g cls s) := keepsMem_next.mpr (by simp)
theorem execReleaseWctReached_keepsMem (r) (s : State) : keepsMem s (execReleaseWctReached r s) := keepsMem_next.mpr (by simp)
theorem execPromoteRequest_keepsMem (r) (s : State) : keepsMem s (execPromoteRequest r s) := by
  simp only [execPromoteRequest, keepsMem_next]
  repeat' split
  all_goals simp

/-! Monitors (R84, R262) -/

theorem execMonitorWake_keepsMem (m) (s : State) : keepsMem s (execMonitorWake m s) := by
  simp only [execMonitorWake, keepsMem_next]
  repeat' split
  all_goals simp

theorem execMonitorRecheck_keepsMem (m) (s : State) : keepsMem s (execMonitorRecheck m s) := by
  simp only [execMonitorRecheck, keepsMem_next]
  repeat' split
  all_goals simp

theorem execHostMonitorPoll_keepsMem (m seen) (s : State) : keepsMem s (execHostMonitorPoll m seen s) := by
  simp only [execHostMonitorPoll, keepsMem_next]
  repeat' split
  all_goals simp

/-! Replies (R157, R159) -/

theorem execNumberedReply_keepsMem (id) (s : State) : keepsMem s (execNumberedReply id s) := by
  simp only [execNumberedReply, keepsMem_next]
  repeat' split
  all_goals simp

/-! Retransmission and give-up (R157, R277) -/

theorem execRouRetransmit_keepsMem (id) (s : State) : keepsMem s (execRouRetransmit id s) := by
  simp only [execRouRetransmit, keepsMem_next]
  repeat' split
  all_goals simp

theorem execRouGiveUp_keepsMem (id) (s : State) : keepsMem s (execRouGiveUp id s) := by
  simp only [execRouGiveUp, keepsMem_next]
  repeat' split
  all_goals simp

theorem execReceiptRetire_keepsMem (die reqid rsn) (s : State) : keepsMem s (execReceiptRetire die reqid rsn s) := keepsMem_next.mpr (by simp)

/-! Host atomics (R160, R161) -/

theorem execHostAtomic_keepsMem (id) (s : State) : keepsMem s (execHostAtomic id s) := by
  simp only [execHostAtomic, keepsMem_next]
  repeat' split
  all_goals simp

theorem execHostCasCompletion_keepsMem (id ok refusedByHost seen) (s : State) : keepsMem s (execHostCasCompletion id ok refusedByHost seen s) := by
  simp only [execHostCasCompletion, keepsMem_next]
  repeat' split
  all_goals simp

/-! LAUNCH, SNAP, SYSCALL (R280 to R282) -/

theorem execLaunch_keepsMem (f) (s : State) : keepsMem s (execLaunch f s) := by
  apply run_keepsMem
  simp only []
  repeat' split
  all_goals simp

theorem execSnap_keepsMem (f) (s : State) : keepsMem s (execSnap f s) := run_keepsMem (by split <;> simp)
theorem execSyscall_keepsMem (f) (s : State) : keepsMem s (execSyscall f s) := by
  apply run_keepsMem
  simp only []
  repeat' split
  all_goals simp

/-! BARSAVE and BARRST (R286, R287) -/

theorem execBarrst_keepsMem (f) (s : State) : keepsMem s (execBarrst f s) := sysOp_keepsMem (by simp)

/-! SHOOT and PURGE (R288, R289) -/

theorem execShoot_keepsMem (f) (s : State) : keepsMem s (execShoot f s) := sysOp_keepsMem (by simp only []; split <;> simp)
theorem execPurge_keepsMem (f) (s : State) : keepsMem s (execPurge f s) := sysOp_keepsMem (by simp)

/-! ZEROB (R290) -/

theorem execZerob_keepsMem (f) (s : State) : keepsMem s (execZerob f s) := sysOp_keepsMem (by simp)

/-! RFT (R292, R287, R359) -/

theorem execRft_keepsMem (f) (s : State) : keepsMem s (execRft f s) := sysOp_keepsMem (by simp)

/-! Hints (R283, R284, R340, R341) -/

theorem execPfi_keepsMem (f) (s : State) : keepsMem s (execPfi f s) := hinted_keepsMem (by simp)
theorem execPfiX_keepsMem (f) (s : State) : keepsMem s (execPfiX f s) := by
  apply hinted_keepsMem
  rw [State.advance_mem]
  split <;> simp

/-! Walks, ATS and invalidations (R364 to R366, R288) -/

theorem execTableWalk_keepsMem (bench asid va) (s : State) : keepsMem s (execTableWalk bench asid va s) := by
  simp only [execTableWalk]
  repeat' split
  all_goals simp

theorem execAtsTranslationResponse_keepsMem (bench asid va pa szlg r w x) (s : State) : keepsMem s (execAtsTranslationResponse bench asid va pa szlg r w x s) := by
  simp only [execAtsTranslationResponse]
  repeat' split
  all_goals simp [foldl_mem]

theorem execAtsInvalidate_keepsMem (asid va szlg) (s : State) : keepsMem s (execAtsInvalidate asid va szlg s) := by
  simp only [execAtsInvalidate]
  repeat' split
  all_goals simp

theorem execShootInvalidationAtTlb_keepsMem (tlb sh) (s : State) : keepsMem s (execShootInvalidationAtTlb tlb sh s) := by
  simp only [execShootInvalidationAtTlb, keepsMem_next]
  repeat' split
  all_goals simp

/-! Slots (R345, R348) -/

theorem execLaunchReceive_keepsMem (die l) (s : State) : keepsMem s (execLaunchReceive die l s) := by
  simp only [execLaunchReceive, keepsMem_next]
  repeat' split
  all_goals simp

/-! PREEMPT (R26, R87, R123, R358) -/

theorem execPreemptEntry_keepsMem (g) (s : State) : keepsMem s (execPreemptEntry g s) := by
  simp only [execPreemptEntry, keepsMem_next]
  repeat' split
  all_goals simp

/-! Teams at monitors (R26) -/

theorem execMonitorTeamPark_keepsMem (team) (s : State) : keepsMem s (execMonitorTeamPark team s) := by
  simp only [execMonitorTeamPark]
  repeat' split
  all_goals simp

theorem execMonitorTeamRestore_keepsMem (team) (s : State) : keepsMem s (execMonitorTeamRestore team s) := by
  simp only [execMonitorTeamRestore, keepsMem_next]
  repeat' split
  all_goals simp

/-! Retirement (R9, R12, R351) -/

theorem execTeamRetire_keepsMem (team) (s : State) : keepsMem s (execTeamRetire team s) := by
  simp only [execTeamRetire, keepsMem_next]
  repeat' split
  all_goals simp

/-! Completion (R351, R352) -/

theorem execMsixSend_keepsMem (l) (s : State) : keepsMem s (execMsixSend l s) := by
  simp only [execMsixSend]
  repeat' split
  all_goals simp

theorem execMsixUnmask_keepsMem (v) (s : State) : keepsMem s (execMsixUnmask v s) := by
  unfold execMsixUnmask; split <;> simp

/-! Instruction lines (R339, R340) -/

theorem execL1InstructionCacheFill_keepsMem (core line) (s : State) : keepsMem s (execL1InstructionCacheFill core line s) := by
  simp only [execL1InstructionCacheFill, keepsMem_next]; split <;> simp

/-! Dies that are no compute dies -/

theorem execDieBringup_keepsMem (mask) (s : State) : keepsMem s (execDieBringup mask s) := by
  simp only [execDieBringup]
  split
  · simp
  · exact keepsMem_next.mpr (foldl_mem _ (fun t _ => t.onOuter_mem _ _) _ _)

/-! The discovery structure (R370) -/

theorem execPcieEnable_keepsMem (s : State) : keepsMem s (execPcieEnable s) := by
  unfold execPcieEnable; split <;> simp

/-! IDENT (R369) -/

theorem execLinkTrained_keepsMem (die port) (s : State) : keepsMem s (execLinkTrained die port s) := keepsMem_next.mpr (by simp)
theorem execIdent_keepsMem (die port payload) (s : State) : keepsMem s (execIdent die port payload s) := by
  simp only [execIdent]
  repeat' split
  all_goals simp

theorem execIdentRepeat_keepsMem (die port) (s : State) : keepsMem s (execIdentRepeat die port s) := by
  simp only [execIdentRepeat, keepsMem_next]; split <;> simp

/-! Time (R372) -/

theorem execTimeSend_keepsMem (s : State) : keepsMem s (execTimeSend s) := by
  simp only [execTimeSend, keepsMem_next]
  split
  · rfl
  · exact foldl_mem _ (fun t d => foldl_mem _ (fun u p => u.sendTime_mem _ _) _ _) _ _

/-! Messages from outside (R371, R376) -/

theorem execJdpMessage_keepsMem (hdr) (s : State) : keepsMem s (execJdpMessage hdr s) := by
  simp only [execJdpMessage, keepsMem_next]
  repeat' split
  all_goals simp

/-! The host (R377, R379) -/

theorem execDoorbellStart_keepsMem (slot) (s : State) : keepsMem s (execDoorbellStart slot s) := by
  simp only [execDoorbellStart]
  repeat' split
  all_goals simp

theorem execDoorbellStop_keepsMem (slot) (s : State) : keepsMem s (execDoorbellStop slot s) := by
  simp only [execDoorbellStop]
  repeat' split
  all_goals simp

theorem execControlRegisterWrite_keepsMem (off x) (s : State) : keepsMem s (execControlRegisterWrite off x s) := by
  simp only [execControlRegisterWrite]
  repeat' split
  all_goals simp

theorem execGetMeasurements_keepsMem (ix) (s : State) : keepsMem s (execGetMeasurements ix s) := by
  simp only [execGetMeasurements, keepsMem_next]; split <;> simp

/-! BAR 0, BAR 4, MSI-X and TDISP (R352, R375, R378, R379) -/

theorem readBar0_keepsMem (hub off) (s : State) : keepsMem s (readBar0 hub off s) := by
  simp only [readBar0, keepsMem_next]; split <;> simp

theorem readBar4_keepsMem (hub off) (s : State) : keepsMem s (readBar4 hub off s) := by
  simp only [readBar4, keepsMem_next]; split <;> simp

theorem writeBar4_keepsMem (hub off x) (s : State) : keepsMem s (writeBar4 hub off x s) := by
  simp only [writeBar4]
  split
  · simp
  · split
    · exact execMsixUnmask_keepsMem _ _
    · simp

theorem setMsix_keepsMem (on n) (s : State) : keepsMem s (setMsix on n s) := keepsMem_next.mpr (by simp)
theorem setTdisp_keepsMem (runs ide) (s : State) : keepsMem s (setTdisp runs ide s) := keepsMem_next.mpr (by simp)

/-! FARITH (R215, R216) -/

theorem farith_keepsMem (fn f) (s : State) : keepsMem s (farith fn f s) := runFp_keepsMem

/-! FUNARY (R217, R218) -/

theorem funary_keepsMem (fn f) (s : State) : keepsMem s (funary fn f s) := runFp_keepsMem

/-! FSPEC (R219, R220) -/

theorem fspec_keepsMem (fn f) (s : State) : keepsMem s (fspec fn f s) := runFp_keepsMem

/-! FPACK (R222, R223) -/

theorem fpack_keepsMem (fn op t ty f) (s : State) : keepsMem s (fpack fn op t ty f s) := runFp_keepsMem

/-! SHFL (R235) -/

theorem shfl_keepsMem (fn f) (s : State) : keepsMem s (shfl fn f s) := runLanes_keepsMem

/-! VOTE (R236) -/

theorem vote_keepsMem (fn t f) (s : State) (h) : keepsMem s (vote fn t f s h) := runLanes_keepsMem

/-! The dual form -/

theorem execDual_keepsMem (gd x y) (s : State) : keepsMem s (execDual gd x y s) := by
  unfold execDual; split <;> simp

/-! The block operations QNT, DEQ, ROT and IROT over register spans, and SCALE -/

theorem execQnt_keepsMem (f) (s : State) : keepsMem s (execQnt f s) := qntOp_keepsMem
theorem execDeq_keepsMem (f) (s : State) : keepsMem s (execDeq f s) := qntOp_keepsMem
theorem execRot_keepsMem (f) (s : State) : keepsMem s (execRot f s) := qntOp_keepsMem
theorem execIrot_keepsMem (f) (s : State) : keepsMem s (execIrot f s) := qntOp_keepsMem

/-! Scrub and drifts (R381, R382) -/

theorem execPatrolScrub_keepsMem (unit pa bad) (s : State) : keepsMem s (execPatrolScrub unit pa bad s) := by
  unfold execPatrolScrub; split <;> simp

theorem execDriftResend_keepsMem (r) (s : State) : keepsMem s (execDriftResend r s) := keepsMem_next.mpr (by simp)

/-! Self-test (R383, log 115) -/

theorem execSelfTestDue_keepsMem (core) (s : State) : keepsMem s (execSelfTestDue core s) := by
  simp only [execSelfTestDue]
  repeat' split
  all_goals simp

theorem execSelfTestPreempt_keepsMem (core) (s : State) : keepsMem s (execSelfTestPreempt core s) := by
  simp only [execSelfTestPreempt, keepsMem_next]
  repeat' split
  all_goals simp

/-! Assay contexts (R384 to R388) -/

theorem execScbTimeout_keepsMem (g) (s : State) : keepsMem s (execScbTimeout g s) := by
  simp only [execScbTimeout, keepsMem_next]; split <;> simp

theorem execSnapshotTimer_keepsMem (cluster) (s : State) : keepsMem s (execSnapshotTimer cluster s) := by
  simp only [execSnapshotTimer]
  simp

/-! Telemetry and logs (R396, R397) -/

theorem execPldmTelemetryRead_keepsMem (island) (s : State) : keepsMem s (execPldmTelemetryRead island s) := keepsMem_next.mpr (by simp)
theorem execTelemetryRefresh_keepsMem (readings) (s : State) : keepsMem s (execTelemetryRefresh readings s) := by
  simp only [execTelemetryRefresh]
  simp

theorem execErrorLogRead_keepsMem (die ix) (s : State) : keepsMem s (execErrorLogRead die ix s) := by
  simp only [execErrorLogRead, keepsMem_next]; split <;> simp

/-! Power and heat (R398, R399) -/

theorem execSetPowerCap_keepsMem (watts) (s : State) : keepsMem s (execSetPowerCap watts s) := by
  simp only [execSetPowerCap, keepsMem_next]; split <;> simp

theorem execPowerWindow_keepsMem (mw) (s : State) : keepsMem s (execPowerWindow mw s) := by
  have hrise (l : List Nat) : (l.foldl (fun t i => if t.mayRise i then t.faster i else t) s).mem = s.mem :=
    foldl_mem _ (fun t i => by split <;> simp) _ _
  simp only [execPowerWindow, keepsMem_next]
  repeat' split
  all_goals simp [foldl_mem, hrise]

theorem execCurrentLimit_keepsMem (island amps) (s : State) : keepsMem s (execCurrentLimit island amps s) := by
  simp only [execCurrentLimit, keepsMem_next]
  repeat' split
  all_goals simp

theorem execThermalStep_keepsMem (island temp) (s : State) : keepsMem s (execThermalStep island temp s) := by
  simp only [execThermalStep, keepsMem_next]
  repeat' split
  all_goals simp

/-! Firmware, tracing, restoring (R400 to R402) -/

theorem execFirmwareUpdate_keepsMem (img) (s : State) : keepsMem s (execFirmwareUpdate img s) := by
  simp only [execFirmwareUpdate, keepsMem_next]; split <;> simp

theorem endUpdate_keepsMem (s : State) : keepsMem s (endUpdate s) := by
  simp only [endUpdate, keepsMem_next]; split <;> simp

theorem execSecurityVersionCommit_keepsMem (s : State) : keepsMem s (execSecurityVersionCommit s) := by
  unfold execSecurityVersionCommit; split <;> simp

theorem execTraceEnable_keepsMem (core va len) (s : State) : keepsMem s (execTraceEnable core va len s) := keepsMem_next.mpr (by simp)
theorem execRestore_keepsMem (unit passed) (s : State) : keepsMem s (execRestore unit passed s) := by
  simp only [execRestore, keepsMem_next]; split <;> simp

theorem endRestore_keepsMem (unit) (s : State) : keepsMem s (endRestore unit s) := by
  simp only [endRestore, keepsMem_next]
  repeat' split
  all_goals simp

/-! What the shadow finds (R385) -/

theorem execShadow_keepsMem (gid wrote sent) (s0 : State) : keepsMem s0 (execShadow gid wrote sent s0) := by
  simp only [execShadow]
  repeat' split
  all_goals simp

theorem execPassAgain_keepsMem (quad again) (s : State) : keepsMem s (execPassAgain quad again s) := by
  simp only [execPassAgain, keepsMem_next]
  repeat' split
  all_goals simp

end Sys2Proof.Machine
end

section
/-! Operations that write memory keep its canonical form, from the writes at a home up to the ends of grids and dies. -/

namespace Sys2Proof.Machine

/-! Operations of a home that write (R52, R64, R69) -/

section
variable {s : State} (h : Memory.wf s.mem = true)

/-- A fold of operations that keep the canonical form keeps it. -/
theorem State.wf_foldl {α : Type} {f : State → α → State} (hf : ∀ t x, Memory.wf t.mem = true → Memory.wf (f t x).mem = true) (l : List α) {s : State}
    (h : Memory.wf s.mem = true) : Memory.wf (l.foldl f s).mem = true := by
  induction l generalizing s with
  | nil => exact h
  | cons x l ih => exact ih (hf s x h)

include h

@[simp] theorem State.wf_orderRaw (d lease pa n data mask) : Memory.wf (s.orderRaw d lease pa n data mask).mem = true := by
  refine State.wf_writePhys _ _ _ _ _ ?_
  rwa [State.noteWrite_mem, foldl_mem _ (fun t ln => t.onLine_mem ln _)]

@[simp] theorem State.wf_atomHome (r) : Memory.wf (s.atomHome r).mem = true := by
  simp only [State.atomHome]
  split <;> simp [State.wf_orderWrite, h]

@[simp] theorem State.wf_flushHome (r op) : Memory.wf (s.flushHome r op).mem = true := by
  simp only [State.flushHome]
  split <;> simp [State.wf_orderWrite, h]

@[simp] theorem State.wf_storeHome (r) : Memory.wf (s.storeHome r).mem = true := by
  simp only [State.storeHome]
  split <;> simp [State.wf_orderWrite, h]

@[simp] theorem State.wf_serveHome (r) : Memory.wf (s.serveHome r).mem = true := by
  unfold State.serveHome
  repeat' split
  all_goals simp [h]

@[simp] theorem State.wf_begin_ (r) : Memory.wf (s.begin_ r).mem = true := by
  simp only [State.begin_]
  repeat' split
  all_goals simp [h]

theorem State.wf_atHome {r} {go : State → Req → State} (hgo : Memory.wf (go s r).mem = true) : Memory.wf (s.atHome r go).mem = true := by
  unfold State.atHome
  repeat' split
  all_goals simp [h, hgo]

/-! Walks of the copy engine (R125) -/

@[simp] theorem wf_walkRead (c sp a n) : Memory.wf (walkRead s c sp a n).mem = true := by
  simp only [walkRead]
  repeat' split
  all_goals simp [State.wf_combineLines, h]

@[simp] theorem wf_walkWrite (c sp a n) : Memory.wf (walkWrite s c sp a n).mem = true := by
  simp only [walkWrite]
  repeat' split
  all_goals simp [State.wf_combineLines, State.wf_orderWrite, h]

/-- An element that a walk takes in keeps the canonical form. -/
theorem wf_walkElem {c a n t} (ht : walkElem c a n s = .on t) : Memory.wf t.mem = true := by
  simp only [walkElem] at ht
  repeat' split at ht
  all_goals cases ht
  all_goals simp [h]

end

theorem wf_walkFromTo (c a fuel n) {s : State} (h : Memory.wf s.mem = true) : Memory.wf (walkFromTo c a fuel n s).1.mem = true := by
  induction fuel generalizing n s with
  | zero => exact h
  | succ fuel ih =>
    rw [walkFromTo]
    split
    · next hw => exact ih _ (wf_walkElem h hw)
    · exact h
    · exact h

section
variable {s : State} (h : Memory.wf s.mem = true)
include h

@[simp] theorem wf_walkRest (c) : Memory.wf (walkRest s c).1.mem = true := by
  simp only [walkRest]
  refine wf_walkFromTo _ _ _ _ ?_
  split <;> simpa using h

/-! Fault records (R360) -/

@[simp] theorem State.wf_putAt (w p n x) : Memory.wf (s.putAt w p n x).mem = true := by
  simp only [State.putAt]
  split <;> simp [State.wf_combineLines, State.wf_orderWrite, h]

@[simp] theorem State.wf_putPage (w e va n x) : Memory.wf (s.putPage w e va n x).mem = true := State.wf_putAt h _ _ _ _

@[simp] theorem State.wf_putFault (f) : Memory.wf (s.putFault f).1.mem = true := by
  simp only [State.putFault]
  split
  · exact h
  · exact State.wf_foldl (fun t p ht => State.wf_putPage ht _ _ _ _ _) _ h

@[simp] theorem State.wf_recordFault (id) : Memory.wf (s.recordFault id).mem = true := by
  simp only [State.recordFault]
  repeat' split
  all_goals simp [h]

@[simp] theorem State.wf_passFault (id) : Memory.wf (s.passFault id).mem = true := by
  simp only [State.passFault]
  repeat' split
  all_goals simp [h]

@[simp] theorem State.wf_recordFaults (p) : Memory.wf (s.recordFaults p).mem = true := State.wf_foldl (fun _ _ ht => State.wf_recordFault ht _) _ h

/-! The log of an object (R147) and operations at their owner (R158) -/

@[simp] theorem State.wf_writeLog (o seq x) : Memory.wf (s.writeLog o seq x).mem = true := by
  simp only [State.writeLog]
  split
  · exact State.wf_foldl (fun t i ht => State.wf_putAt ht _ _ _ _) _ h
  · exact h

@[simp] theorem State.wf_append (o x c) : Memory.wf (s.append o x c).mem = true := by
  simp only [State.append]
  repeat' split
  all_goals simp [h]

@[simp] theorem wf_portAtom (x r) : Memory.wf (portAtom s x r).mem = true := by
  simp only [portAtom]
  split <;> simp [State.wf_combineLines, h]

@[simp] theorem wf_portFlush (x r) : Memory.wf (portFlush s x r).mem = true := by
  simp only [portFlush]
  split <;> simp [h]

theorem State.wf_portServe {x r t} (ht : s.portServe x r = some t) : Memory.wf t.mem = true := by
  simp only [State.portServe] at ht
  repeat' split at ht
  all_goals cases ht
  all_goals simp [h]

theorem State.wf_portStep {id t} (ht : s.portStep id = some t) : Memory.wf t.mem = true := by
  obtain ⟨x, -, hx⟩ := List.exists_of_findSome?_eq_some ht
  split at hx
  · split at hx
    · exact State.wf_portServe h hx
    · cases hx
  · cases hx

/-! Stores of privileged operations (R285 to R293) -/

@[simp] theorem State.wf_sysPut (w uid va x) : Memory.wf (s.sysPut w uid va x).mem = true := by
  simp only [State.sysPut]
  split <;> simp [h]

@[simp] theorem State.wf_sysPuts (w uid va l) : Memory.wf (s.sysPuts w uid va l).mem = true := State.wf_foldl (fun _ _ ht => State.wf_sysPut ht _ _ _ _) _ h

@[simp] theorem wf_barsave (f) : Memory.wf (barsave f s).mem = true := by
  simp only [barsave]
  repeat' split
  all_goals simp [h]

@[simp] theorem State.wf_writeRecord (g) : Memory.wf (s.writeRecord g).mem = true := State.wf_sysPuts h _ _ _ _

@[simp] theorem wf_park (f) : Memory.wf (park f s).mem = true := by
  simp only [park]
  repeat' split
  all_goals simp [h]

@[simp] theorem State.wf_putEntry (va n x) : Memory.wf (s.putEntry va n x).mem = true := State.wf_sysPuts h _ _ _ _

@[simp] theorem wf_installRoutine (c asid d) : Memory.wf (installRoutine c asid d s).mem = true := by
  simp [installRoutine, h]

@[simp] theorem State.wf_zeroPhys (uid d pa n) : Memory.wf (s.zeroPhys uid d pa n).mem = true :=
  State.wf_foldl (fun t a ht => by simp [State.wf_combineNow, State.wf_orderWrite, ht]) _ h

@[simp] theorem State.wf_zeroLog (uid o) : Memory.wf (s.zeroLog uid o).mem = true :=
  State.wf_foldl (fun t i ht => by split <;> simp [ht]) _ h

@[simp] theorem wf_dropObject (asid n) : Memory.wf (dropObject s asid n).mem = true := by
  simp only [dropObject]
  split <;> simp [h]

@[simp] theorem wf_installObject (c asid d) : Memory.wf (installObject c asid d s).mem = true := by
  simp only [installObject]
  split <;> simp [h]

theorem wf_descGo {ok pages f} {go : State → State} (hgo : Memory.wf (go s).mem = true) : Memory.wf (descGo ok pages f go s).mem = true := by
  unfold descGo
  repeat' split
  all_goals simp [h, hgo]

@[simp] theorem wf_descRoutine (f) : Memory.wf (descRoutine f s).mem = true := by
  simp only [descRoutine]
  split
  · simp [h]
  · exact h
  · exact wf_descGo h (wf_installRoutine h _ _ _)

@[simp] theorem wf_descObject (f) : Memory.wf (descObject f s).mem = true := by
  simp only [descObject]
  split
  · simp [h]
  · exact h
  · exact wf_descGo h (wf_installObject h _ _ _)

@[simp] theorem wf_traceMark (v) : Memory.wf (traceMark v s).mem = true := by
  simp only [traceMark]
  repeat' split
  all_goals simp [State.wf_orderWrite, h]

/-! Ends of teams, grids and requests (R351 to R353, R388 to R391) -/

@[simp] theorem State.wf_removeTeams (p) : Memory.wf (s.removeTeams p).mem = true := by
  simp only [State.removeTeams]
  rw [foldl_mem _ (fun t x => t.ranHere_mem _ _)]
  simp [h]

@[simp] theorem State.wf_writeCompletion (lid) : Memory.wf (s.writeCompletion lid).mem = true := by
  simp only [State.writeCompletion]
  repeat' split
  all_goals simp [h]

@[simp] theorem State.wf_endGrid (lid state cause unit faultrec) : Memory.wf (s.endGrid lid state cause unit faultrec).mem = true := by
  simp only [State.endGrid]
  repeat' split
  all_goals simp [h]

@[simp] theorem State.wf_purgeOn (tag die) : Memory.wf (s.purgeOn tag die).mem = true := by
  simp only [State.purgeOn]
  rw [foldl_mem _ (State.unqueue_mem die)]
  simp [h]

@[simp] theorem State.wf_endTag (tag state unit) : Memory.wf (s.endTag tag state unit).mem = true :=
  State.wf_foldl (fun _ _ ht => State.wf_endGrid ht _ _ _ _ _) _ h

@[simp] theorem State.wf_purgeAll (tag state unit) : Memory.wf (s.purgeAll tag state unit).mem = true := by
  rw [State.purgeAll, State.stopSlots_mem]
  exact State.wf_endTag (State.wf_foldl (fun _ _ ht => State.wf_purgeOn ht _ _) _ h) _ _ _

@[simp] theorem State.wf_unresolved (f) : Memory.wf (s.unresolved f).mem = true := by
  simp only [State.unresolved]
  split
  · simp [h]
  · exact State.wf_endGrid (State.wf_recordFaults (State.wf_recordFault h _) _) _ _ _ _ _

@[simp] theorem State.wf_resolve (f) : Memory.wf (s.resolve f).mem = true := by
  simp only [State.resolve]
  split <;> simp [h]

@[simp] theorem State.wf_badInput (lid cause) : Memory.wf (s.badInput lid cause).mem = true := State.wf_endGrid h _ _ _ _ _

/-! Placement (R349, R357, R387) -/

@[simp] theorem wf_replaceTeam (g die kd cores p) : Memory.wf (replaceTeam g die kd cores s p).mem = true := by
  simp only [replaceTeam, State.ranHere_mem, State.onGrid_mem]
  rw [foldl_mem _ (fun u q => u.seat_mem _ _)]
  split
  · exact h
  · exact State.wf_foldl (fun u x hu => by split <;> simp [hu]) _ h

theorem State.wf_placeParked {l c t} (ht : s.placeParked l c = some t) : Memory.wf t.mem = true := by
  simp only [State.placeParked] at ht
  split at ht
  · cases ht
  obtain ⟨q, -, hq⟩ := Option.bind_eq_some_iff.mp ht
  split at hq
  · cases hq
  · cases hq
    simp [h]
  · cases hq
    have hwf (g die kd cores) (l : List Parked) (k) : Memory.wf (l.foldl (replaceTeam g die kd cores) { s with parked := k }).mem = true :=
      State.wf_foldl (fun t p ht => wf_replaceTeam ht _ _ _ _ _) l h
    split
    · rw [foldl_mem _ repostMate_mem]
      simp [hwf]
    · simp [hwf]

theorem State.wf_placeNext {l t} (ht : s.placeNext l = some t) : Memory.wf t.mem = true := by
  simp only [State.placeNext] at ht
  repeat' split at ht
  all_goals cases ht
  all_goals simp [foldl_mem, h]

theorem State.wf_placeFor {l t} (ht : s.placeFor l = some t) : Memory.wf t.mem = true := by
  unfold State.placeFor at ht
  split at ht
  · exact State.wf_placeParked h ht
  · exact State.wf_placeNext h ht

theorem State.wf_placeRolled {die t} (ht : s.placeRolled die = some t) : Memory.wf t.mem = true := by
  obtain ⟨l, -, hl⟩ := List.exists_of_findSome?_eq_some ht
  obtain ⟨c, -, hc⟩ := List.exists_of_findSome?_eq_some hl
  exact State.wf_placeParked h hc

/-! Dies and the discovery structure (R370, R373) -/

/-- A list of words, each written at the address its entry gives. -/
theorem State.wf_foldl_orderRaw {α : Type} (l : List α) (d n m) (a : α → Nat) (x : α → QWord) :
    Memory.wf (l.foldl (fun t p => t.orderRaw d 1 (a p) n (x p) m) s).mem = true :=
  State.wf_foldl (fun _ _ ht => State.wf_orderRaw ht _ _ _ _ _ _) l h

@[simp] theorem State.wf_publish : Memory.wf s.publish.mem = true := by
  unfold State.publish
  split
  · exact h
  · exact State.wf_foldl_orderRaw h _ _ _ _ _ _

@[simp] theorem State.wf_bootFails : Memory.wf s.bootFails.mem = true := by
  unfold State.bootFails
  split
  · rw [State.boot_mem]; rfl
  · exact h

@[simp] theorem State.wf_loseDie (die) : Memory.wf (s.loseDie die).mem = true := by
  simp only [State.loseDie, State.loseCopies_mem]
  rw [foldl_mem _ (fun t o => t.failObject_mem _)]
  exact State.wf_foldl (fun _ _ ht => State.wf_purgeAll ht _ _ _) _ h

@[simp] theorem State.wf_resetDie (die) : Memory.wf (s.resetDie die).mem = true := by
  unfold State.resetDie
  split
  · exact h
  · exact State.wf_publish (by simp [h])

/-! The host and peers (R376, R379) -/

@[simp] theorem State.wf_combined (pa) : Memory.wf (s.combined pa).mem = true := by
  unfold State.combined
  split
  · exact h
  · exact s.wf_combineNow _ h

@[simp] theorem State.wf_putBytes (pa data) : Memory.wf (s.putBytes pa data).mem = true :=
  State.wf_foldl (fun _ _ ht => State.wf_orderWrite _ _ _ _ _ _ _ (State.wf_combined ht _)) _ h

@[simp] theorem State.wf_outerAtom (pa n acc x cmp) : Memory.wf (s.outerAtom pa n acc x cmp).1.mem = true :=
  State.wf_orderWrite _ _ _ _ _ _ _ (State.wf_combined h _)

@[simp] theorem State.wf_peerGo (hub j data) : Memory.wf (s.peerGo hub j data).mem = true := by
  have h0 := State.wf_foldl (fun t (l : Nat) ht => State.wf_combined ht (128 * l)) (spanLines j.addr.toNat (peerBytes j)) h
  simp only [State.peerGo]
  repeat' split
  all_goals simp [h, h0]

/-! Containment (R383, R386 to R393) -/

@[simp] theorem State.wf_holdPort (u) : Memory.wf (s.holdPort u).mem = true := by
  simp only [State.holdPort]
  repeat' split
  all_goals simp [h]

@[simp] theorem State.wf_testFailed (u) : Memory.wf (s.testFailed u).mem = true := by
  simp only [State.testFailed]
  exact State.wf_foldl (fun t tag ht => by split <;> simp [ht]) _ (by simp [h])

@[simp] theorem State.wf_writeSlot (c t) : Memory.wf (s.writeSlot c t).mem = true := State.wf_sysPuts (State.wf_sysPuts h _ _ _ _) _ _ _ _

@[simp] theorem State.wf_rollBack (core unit c) : Memory.wf (s.rollBack core unit c).mem = true := by
  simp [State.rollBack, h]

end

end Sys2Proof.Machine
end

section
/-! Steps that write memory, every instruction and every step of an agent, and `Obligations.MemoryStaysCanonical`. -/

namespace Sys2Proof.Machine

/-- The next state of an outcome, when there is one, has memory in its canonical form. -/
def Canonical (o : Out3) : Prop := ∀ t, o = .next t → t.Inv

@[simp] theorem canonical_next {t : State} : Canonical (.next t) ↔ Memory.wf t.mem = true :=
  ⟨fun h => h t rfl, by rintro h _ ⟨⟩; exact h⟩

theorem keepsMem.canonical {s : State} {o : Out3} (ho : keepsMem s o) (h : s.Inv) : Canonical o := fun t ht => by
  rw [State.Inv, ho t ht]
  exact h

/-! Steps that write memory -/

section
variable {s : State} (h : Memory.wf s.mem = true)
include h

theorem run_canonical {k f} {body : State → State} (hb : Memory.wf (body s).mem = true) : Canonical (run k f s body) := by
  rw [run_next, canonical_next]
  split
  · rwa [stop_mem]
  · exact hb

theorem sysOp_canonical {fn f} {body : State → State} (hb : Memory.wf (body s).mem = true) : Canonical (sysOp fn f s body) := by
  apply run_canonical h
  split
  · exact hb
  · exact h

theorem execBarsave_canonical (f) : Canonical (execBarsave f s) := sysOp_canonical h (wf_barsave h f)

theorem execPark_canonical (f) : Canonical (execPark f s) := sysOp_canonical h (wf_park h f)

theorem execDesc_canonical (f) : Canonical (execDesc f s) := by
  apply sysOp_canonical h
  repeat' split
  all_goals simp [h]

theorem execHint_canonical (f) : Canonical (execHint f s) := by
  unfold execHint hinted
  repeat' split
  all_goals simp [h]

theorem execCopyWalkFault_canonical (id) : Canonical (execCopyWalkFault id s) := by
  simp only [execCopyWalkFault, canonical_next]
  split
  · next c _ =>
    split
    · have hwalk := wf_walkRest h c
      split
      · next hw =>
        rw [hw] at hwalk
        refine State.wf_passFault ?_ _
        split <;> simpa using hwalk
      · exact h
    · exact h
  · exact h

theorem execCopyComplete_canonical (id) : Canonical (execCopyComplete id s) := by
  simp only [execCopyComplete, canonical_next]
  split
  · next c _ =>
    split
    · have hwalk := wf_walkRest h c
      split
      · next hw =>
        rw [hw] at hwalk
        split <;> simpa using hwalk
      · exact h
    · exact h
  · exact h

theorem execNumberedRequest_canonical (id) : Canonical (execNumberedRequest id s) := by
  simp only [execNumberedRequest, canonical_next]
  cases hp : s.portStep id with
  | some t => exact State.wf_portStep h hp
  | none =>
    simp only [Option.getD_none]
    repeat' split
    all_goals simpa using h

theorem execPlaceCluster_canonical (die) : Canonical (execPlaceCluster die s) := by
  have h0 : Memory.wf s.sweepRetired.mem = true := by simpa using h
  simp only [execPlaceCluster, canonical_next]
  split
  · exact h
  · split
    · next ht => exact State.wf_placeRolled h0 ht
    · split
      · next ht =>
        obtain ⟨l, -, hl⟩ := List.exists_of_findSome?_eq_some ht
        exact State.wf_placeFor h0 hl
      · simpa using h

omit h in
theorem execModuleReset_canonical (slotB a b) : Canonical (execModuleReset slotB a b s) := by
  rw [execModuleReset, canonical_next, State.boot_mem]
  rfl

theorem execContextEnd_canonical (asid) : Canonical (execContextEnd asid s) := by
  simp only [execContextEnd]
  split
  · exact canonical_next.mpr h
  · refine canonical_next.mpr (State.wf_foldl (fun t o ht => State.wf_zeroLog ht _ _) _ ?_)
    rw [foldl_mem _ (fun t c => t.flushPartials_mem _ _), foldl_mem _ (fun t o => t.failObject_mem _)]
    exact h

theorem execKill_canonical (rqtag unit) : Canonical (execKill rqtag unit s) := by
  have h1 (p) : Memory.wf (s.recordFaults p).mem = true := State.wf_recordFaults h p
  simp only [execKill]
  split
  · exact canonical_next.mpr h
  · split
    · rw [canonical_next]
      refine State.wf_purgeAll ?_ _ _ _
      split <;> simp [h1]
    · refine canonical_next.mpr (State.wf_foldl (fun t c ht => State.wf_rollBack ht _ _ _) _ ?_)
      split <;> simp [h1]

theorem execUpset_canonical (u) : Canonical (execUpset u s) := by
  have hfold (die) (l : List FRec) (t : State) : (l.foldl (fun t q => t.fbump die q.asid q.handle 7) t).mem = t.mem :=
    foldl_mem _ (fun t q => t.fbump_mem _ _ _ _) _ _
  cases u with
  | vector | scalar | object =>
    simp only [execUpset, canonical_next]
    split <;> simp [h]
  | _ => simp [execUpset, h, hfold]

theorem execSnapshot_canonical (cluster) : Canonical (execSnapshot cluster s) := by
  simp only [execSnapshot, canonical_next]
  split
  · exact h
  · split
    · exact h
    · exact State.wf_foldl (fun t x ht => State.wf_writeSlot ht _ _) _ (by simpa using h)

theorem execHostBar2Read_canonical (pa n) : Canonical (execHostBar2Read pa n s) := by
  have hfold := State.wf_foldl (fun t (l : Nat) ht => State.wf_combined ht (128 * l)) (spanLines pa.toNat n) h
  simp only [execHostBar2Read]
  repeat' split
  all_goals simpa using by assumption

theorem execLogAppend_canonical (c) : Canonical (execLogAppend c s) := by
  simp only [execLogAppend, canonical_next]
  repeat' split
  all_goals simp [h]

theorem execHomeRequest_canonical (r) : Canonical (execHomeRequest r s) := by
  simp only [execHomeRequest, canonical_next]
  repeat' split
  · exact h
  · exact State.wf_atHome h (State.wf_begin_ h _)
  · exact h

theorem execHeldLoadRelease_canonical (r) : Canonical (execHeldLoadRelease r s) := by
  simp only [execHeldLoadRelease, canonical_next]
  repeat' split
  all_goals simp [h]

theorem execPartialFlush_canonical (r) : Canonical (execPartialFlush r s) := by
  have hflush (q : Req) (op) : Memory.wf ((s.learnHome q.die q.addr).flushHome q op).mem = true := State.wf_flushHome (by simpa using h) q op
  simp only [execPartialFlush, canonical_next]
  repeat' split
  · exact State.wf_atHome h (hflush _ _)
  · exact h
  · exact h

theorem execCombineComplete_canonical (r) : Canonical (execCombineComplete r s) := by
  simp only [execCombineComplete, canonical_next]
  repeat' split
  · refine State.wf_begin_ ?_ _
    simpa using wf_foldParts s _ h
  · exact h
  · exact h

theorem execPurgeMomentOnDie_canonical (die p) : Canonical (execPurgeMomentOnDie die p s) := by
  simp only [execPurgeMomentOnDie, canonical_next]
  repeat' split
  all_goals simp [h]

theorem execGridFail_canonical (f) : Canonical (execGridFail f s) := by
  simp only [execGridFail, canonical_next]
  repeat' split
  all_goals simp [h]

theorem execFaultResolved_canonical (f) : Canonical (execFaultResolved f s) := by
  simp only [execFaultResolved, canonical_next]
  repeat' split
  all_goals simp [h]

theorem execReplayTimeout_canonical (f) : Canonical (execReplayTimeout f s) := by
  simp only [execReplayTimeout, canonical_next]
  repeat' split
  all_goals simp [h]

theorem execPriPageResponse_canonical (f ok) : Canonical (execPriPageResponse f ok s) := by
  simp only [execPriPageResponse, canonical_next]
  repeat' split
  all_goals simp [h]

theorem execPredecessorObserved_canonical (die l i) : Canonical (execPredecessorObserved die l i s) := by
  simp only [execPredecessorObserved, canonical_next]
  repeat' split
  all_goals simp [h]

theorem execCompletionRecordWrite_canonical (l) : Canonical (execCompletionRecordWrite l s) := by
  simp only [execCompletionRecordWrite, canonical_next]
  repeat' split
  all_goals simp [h]

theorem execDieImageVerify_canonical (die img) : Canonical (execDieImageVerify die img s) := by
  simp only [execDieImageVerify, canonical_next]
  repeat' split
  all_goals simp [h]

theorem execHeadframeInit_canonical (die ok classes) : Canonical (execHeadframeInit die ok classes s) := by
  simp only [execHeadframeInit]
  repeat' split
  all_goals simp [h]

theorem execDiscoveryBuild_canonical : Canonical (execDiscoveryBuild s) := by
  simp only [execDiscoveryBuild, canonical_next]
  repeat' split
  all_goals simp [h]

theorem execTimeMessage_canonical (die err) : Canonical (execTimeMessage die err s) := by
  simp only [execTimeMessage, canonical_next]
  split <;> simp [h]

theorem execDieReset_canonical (die) : Canonical (execDieReset die s) := by
  simp [execDieReset, h]

theorem execLinkLoss_canonical (die) : Canonical (execLinkLoss die s) := by
  simp only [execLinkLoss, canonical_next]
  repeat' split
  all_goals simp [h]

theorem execPeerFrame_canonical (hub hdr data) : Canonical (execPeerFrame hub hdr data s) := by
  simp only [execPeerFrame, canonical_next]
  repeat' split
  all_goals simp [h]

theorem execHostBar2Write_canonical (hub pa data) : Canonical (execHostBar2Write hub pa data s) := by
  simp only [execHostBar2Write]
  repeat' split
  all_goals simp [h]

theorem execHostAtomicop_canonical (pa op n x cmp) : Canonical (execHostAtomicop pa op n x cmp s) := by
  simp only [execHostAtomicop]
  repeat' split
  all_goals simp [h]

theorem execSelfTestDone_canonical (unit passed) : Canonical (execSelfTestDone unit passed s) := by
  simp only [execSelfTestDone, canonical_next]
  repeat' split
  all_goals simp [h]

theorem execRollback_canonical (cluster) : Canonical (execRollback cluster s) := by
  simp only [execRollback, canonical_next]
  repeat' split
  all_goals simp [h]

theorem execThermalTrip_canonical (die temp) : Canonical (execThermalTrip die temp s) := by
  simp only [execThermalTrip, canonical_next]
  repeat' split
  all_goals simp [h]

end

/-- Every instruction and every step of an agent keeps the canonical form: most leave memory alone. -/
theorem exec_canonical (i : Instr) {s : State} (h : s.Inv) : Canonical (exec i s) := by
  cases i with
  | nop => exact (execNop_keepsMem _ _).canonical h
  | bra => exact (execBra_keepsMem _ _).canonical h
  | braX => exact (execBraX_keepsMem _ _).canonical h
  | call => exact (execCall_keepsMem _ _).canonical h
  | callX => exact (execCallX_keepsMem _ _).canonical h
  | jmpr => exact (execJmpr_keepsMem _ _).canonical h
  | callr => exact (execCallr_keepsMem _ _).canonical h
  | ret => exact (execRet_keepsMem _ _).canonical h
  | btab => exact (execBtab_keepsMem _ _).canonical h
  | tgt f => exact (execTgt_keepsMem f s).canonical h
  | join => exact (execJoin_keepsMem _ _).canonical h
  | joinX => exact (execJoinX_keepsMem _ _).canonical h
  | joinTimeout => exact (execJoinTimeout_keepsMem _ _ _).canonical h
  | exit => exact (execExit_keepsMem _ _).canonical h
  | trap => exact (execTrap_keepsMem _ _).canonical h
  | rett => exact (execRett_keepsMem _ _).canonical h
  | sleep => exact (execSleep_keepsMem _ _).canonical h
  | bkpt => exact (execBkpt_keepsMem _ _).canonical h
  | timedExpiry => exact (execTimedExpiry_keepsMem _ _ _).canonical h
  | iadd | isub | iaddc | isubb | imin | imax | umin | umax | iadds | isubs | uadds | usubs | iabs | imul | imulh | umulh | imad | idiv
  | udiv | irem | urem | and | or | xor | andn | orn | xnor | not | mov | lop3 | shl | shr | sar | rol | ror | brev | popc | clz | ctz | bfe
  | bfes | bfi | lea1 | lea2 | lea3 | prmt | icmp | pand | por | pxor | pandn | pset | p2v | v2p | iadd64 | isub64 | shl64 | shr64 | sar64
  | imulw | umulw | mov64 | s2v | scmp | movi | iaddi | dot4i | dot4u | shflIdx | shflUp | shflDown | shflXor | shflUpw | shflDownw
  | shflXorw | shflRotw | voteAll | voteAny | voteBallot | voteElect | voteMatch | votePopa | voteLmask | voteActm | putl =>
    exact runLanes_keepsMem.canonical h
  | sel => exact (execSel_keepsMem _ _).canonical h
  | sadd | ssub | smul | sand | sor | sxor | sshl | sshr | ssar | smin | smax | sminu | smaxu | smov => exact salu_keepsMem.canonical h
  | v2s => exact (execV2s_keepsMem _ _).canonical h
  | gets => exact (execGets_keepsMem _ _).canonical h
  | sets => exact (execSets_keepsMem _ _).canonical h
  | smovi => exact (execSmovi_keepsMem _ _).canonical h
  | saddi => exact (execSaddi_keepsMem _ _).canonical h
  | rget => exact (execRget_keepsMem _ _).canonical h
  | rset => exact (execRset_keepsMem _ _).canonical h
  | fadd | fsub | fmul | ffma | fmin | fmax | fminm | fmaxm | fabs | fneg | frnd | ffrac | fclass | fgetexp | fscale | fcopysign | frcp
  | frsq | fsqrt | fexp2 | flog2 | fsin | fcos | ftanh | fcmp | fdiv | hadd2 | hmul2 | hfma2 | badd2 | bmul2 | bfma2 | dot2b | dot2h | cvt
  | rdx | rstep | scan | scale =>
    exact runFp_keepsMem.canonical h
  | qnt => exact (execQnt_keepsMem _ _).canonical h
  | deq => exact (execDeq_keepsMem _ _).canonical h
  | rot => exact (execRot_keepsMem _ _).canonical h
  | irot => exact (execIrot_keepsMem _ _).canonical h
  | dual => exact (execDual_keepsMem _ _ _ _).canonical h
  | ldg => exact (execLdg_keepsMem _ _ _).canonical h
  | stg => exact (execStg_keepsMem _ _ _).canonical h
  | ldb => exact (execLdb_keepsMem _ _ _).canonical h
  | stb => exact (execStb_keepsMem _ _ _).canonical h
  | atom => exact (execAtom_keepsMem _ _ _).canonical h
  | atomCas => exact (execAtomCas_keepsMem _ _).canonical h
  | atomb => exact (execAtomb_keepsMem _ _ _).canonical h
  | atombCas => exact (execAtombCas_keepsMem _ _).canonical h
  | comm => exact (execComm_keepsMem _ _ _).canonical h
  | wait => exact (execWait_keepsMem _ _).canonical h
  | fenceRel => exact (execFenceRel_keepsMem _ _).canonical h
  | fenceAcq => exact (execFenceAcq_keepsMem _ _).canonical h
  | fenceFull => exact (execFenceFull_keepsMem _ _).canonical h
  | fencePromote => exact (execFencePromote_keepsMem _ _).canonical h
  | fenceCflush => exact (execFenceCflush_keepsMem _ _).canonical h
  | barArrive => exact (execBarArrive_keepsMem _ _).canonical h
  | barWait => exact (execBarWait_keepsMem _ _).canonical h
  | barSync => exact (execBarSync_keepsMem _ _).canonical h
  | barInit => exact (execBarInit_keepsMem _ _).canonical h
  | barExpect => exact (execBarExpect_keepsMem _ _).canonical h
  | barTest => exact (execBarTest_keepsMem _ _).canonical h
  | ringAcq => exact (execRingAcq_keepsMem _ _).canonical h
  | ringRel => exact (execRingRel_keepsMem _ _).canonical h
  | ringPut => exact (execRingPut_keepsMem _ _).canonical h
  | ringPub => exact (execRingPub_keepsMem _ _).canonical h
  | ringInit => exact (execRingInit_keepsMem _ _).canonical h
  | ringStat => exact (execRingStat_keepsMem _ _).canonical h
  | ringWaiterWake => exact (execRingWaiterWake_keepsMem _ _ _ _).canonical h
  | waitc => exact (execWaitc_keepsMem _ _ _).canonical h
  | monitorWake => exact (execMonitorWake_keepsMem _ _).canonical h
  | monitorRecheck => exact (execMonitorRecheck_keepsMem _ _).canonical h
  | hostMonitorPoll => exact (execHostMonitorPoll_keepsMem _ _ _).canonical h
  | copy => exact (execCopy_keepsMem _ _).canonical h
  | tileMma | tileMmaz | tileQout | tileTrot | tileTzero => exact tile_keepsMem.canonical h
  | fcall => exact (execFcall_keepsMem _ _).canonical h
  | fprobe => exact (execFprobe_keepsMem _ _).canonical h
  | fret => exact (execFret_keepsMem _ _).canonical h
  | finval => exact (execFinval_keepsMem _ _).canonical h
  | fstat => exact (execFstat_keepsMem _ _).canonical h
  | ocall => exact (execOcall_keepsMem _ _).canonical h
  | osync => exact (execOsync_keepsMem _ _).canonical h
  | oret => exact (execOret_keepsMem _ _).canonical h
  | ostat => exact (execOstat_keepsMem _ _).canonical h
  | launch => exact (execLaunch_keepsMem _ _).canonical h
  | snap => exact (execSnap_keepsMem _ _).canonical h
  | barsave => exact execBarsave_canonical h _
  | barrst => exact (execBarrst_keepsMem _ _).canonical h
  | shoot => exact (execShoot_keepsMem _ _).canonical h
  | purge => exact (execPurge_keepsMem _ _).canonical h
  | zerob => exact (execZerob_keepsMem _ _).canonical h
  | park => exact execPark_canonical h _
  | rft => exact (execRft_keepsMem _ _).canonical h
  | desc => exact execDesc_canonical h _
  | syscall => exact (execSyscall_keepsMem _ _).canonical h
  | pfi => exact (execPfi_keepsMem _ _).canonical h
  | pfiX => exact (execPfiX_keepsMem _ _).canonical h
  | pfdL1 => exact (execPfdL1_keepsMem _ _).canonical h
  | pfdSlice => exact (execPfdSlice_keepsMem _ _).canonical h
  | yield => exact (execYield_keepsMem _ _).canonical h
  | hint => exact execHint_canonical h _
  | loadComplete => exact (execLoadComplete_keepsMem _ _).canonical h
  | storeAck => exact (execStoreAck_keepsMem _ _).canonical h
  | releaseWctReached => exact (execReleaseWctReached_keepsMem _ _).canonical h
  | counterRetire => exact (execCounterRetire_keepsMem _ _ _).canonical h
  | promoteRequest => exact (execPromoteRequest_keepsMem _ _).canonical h
  | homeRequest => exact execHomeRequest_canonical h _
  | heldLoadRelease => exact execHeldLoadRelease_canonical h _
  | requestForward => exact (execRequestForward_keepsMem _ _).canonical h
  | flitReoffer => exact (execFlitReoffer_keepsMem _ _).canonical h
  | l1Eviction => exact (execL1Eviction_keepsMem _ _ _).canonical h
  | replicaEviction => exact (execReplicaEviction_keepsMem _ _ _).canonical h
  | segmentDrain => exact (execSegmentDrain_keepsMem _ _ _ _).canonical h
  | granuleCountHalving => exact (execGranuleCountHalving_keepsMem _ _).canonical h
  | claim => exact (execClaim_keepsMem _ _).canonical h
  | forwardPointerExpiry => exact (execForwardPointerExpiry_keepsMem _ _ _).canonical h
  | partialRegistration => exact (execPartialRegistration_keepsMem _ _).canonical h
  | partialFlush => exact execPartialFlush_canonical h _
  | partialRecall => exact (execPartialRecall_keepsMem _ _ _).canonical h
  | combineComplete => exact execCombineComplete_canonical h _
  | taskReady => exact (execTaskReady_keepsMem _ _).canonical h
  | passGrant => exact (execPassGrant_keepsMem _ _).canonical h
  | taskComplete => exact (execTaskComplete_keepsMem _ _).canonical h
  | copyStart => exact (execCopyStart_keepsMem _ _).canonical h
  | copyRingAcquire => exact (execCopyRingAcquire_keepsMem _ _).canonical h
  | copyWalkFault => exact execCopyWalkFault_canonical h _
  | copyComplete => exact execCopyComplete_canonical h _
  | storeLookup => exact (execStoreLookup_keepsMem _ _ _).canonical h
  | lookupAnswer => exact (execLookupAnswer_keepsMem _ _).canonical h
  | storeInsert => exact (execStoreInsert_keepsMem _ _).canonical h
  | storeInvalidate => exact (execStoreInvalidate_keepsMem _ _ _).canonical h
  | finvalDone => exact (execFinvalDone_keepsMem _ _).canonical h
  | logAppend => exact execLogAppend_canonical h _
  | tailRead => exact (execTailRead_keepsMem _ _).canonical h
  | replayApply => exact (execReplayApply_keepsMem _ _ _).canonical h
  | readOnlyCall => exact (execReadOnlyCall_keepsMem _ _).canonical h
  | appliedReport => exact (execAppliedReport_keepsMem _ _ _).canonical h
  | digestReport => exact (execDigestReport_keepsMem _ _ _).canonical h
  | digestTimeout => exact (execDigestTimeout_keepsMem _ _).canonical h
  | resync => exact (execResync_keepsMem _ _ _).canonical h
  | numberedRequest => exact execNumberedRequest_canonical h _
  | numberedReply => exact (execNumberedReply_keepsMem _ _).canonical h
  | rouRetransmit => exact (execRouRetransmit_keepsMem _ _).canonical h
  | rouGiveUp => exact (execRouGiveUp_keepsMem _ _).canonical h
  | receiptRetire => exact (execReceiptRetire_keepsMem _ _ _ _).canonical h
  | hostAtomic => exact (execHostAtomic_keepsMem _ _).canonical h
  | hostCasCompletion => exact (execHostCasCompletion_keepsMem _ _ _ _ _).canonical h
  | launchReceive => exact (execLaunchReceive_keepsMem _ _ _).canonical h
  | predecessorObserved => exact execPredecessorObserved_canonical h _ _ _
  | placeCluster => exact execPlaceCluster_canonical h _
  | preemptEntry => exact (execPreemptEntry_keepsMem _ _).canonical h
  | monitorTeamPark => exact (execMonitorTeamPark_keepsMem _ _).canonical h
  | monitorTeamRestore => exact (execMonitorTeamRestore_keepsMem _ _).canonical h
  | teamRetire => exact (execTeamRetire_keepsMem _ _).canonical h
  | completionRecordWrite => exact execCompletionRecordWrite_canonical h _
  | msixSend => exact (execMsixSend_keepsMem _ _).canonical h
  | msixUnmask => exact (execMsixUnmask_keepsMem _ _).canonical h
  | gridFail => exact execGridFail_canonical h _
  | faultResolved => exact execFaultResolved_canonical h _
  | replayTimeout => exact execReplayTimeout_canonical h _
  | priPageResponse => exact execPriPageResponse_canonical h _ _
  | tableWalk => exact (execTableWalk_keepsMem _ _ _ _).canonical h
  | atsTranslationResponse => exact (execAtsTranslationResponse_keepsMem _ _ _ _ _ _ _ _ _).canonical h
  | atsInvalidate => exact (execAtsInvalidate_keepsMem _ _ _ _).canonical h
  | moduleReset => exact execModuleReset_canonical _ _ _
  | dieBringup => exact (execDieBringup_keepsMem _ _).canonical h
  | dieImageVerify => exact execDieImageVerify_canonical h _ _
  | headframeInit => exact execHeadframeInit_canonical h _ _ _
  | discoveryBuild => exact execDiscoveryBuild_canonical h
  | pcieEnable => exact (execPcieEnable_keepsMem _).canonical h
  | linkTrained => exact (execLinkTrained_keepsMem _ _ _).canonical h
  | ident => exact (execIdent_keepsMem _ _ _ _).canonical h
  | identRepeat => exact (execIdentRepeat_keepsMem _ _ _).canonical h
  | timeSend => exact (execTimeSend_keepsMem _).canonical h
  | timeMessage => exact execTimeMessage_canonical h _ _
  | dieReset => exact execDieReset_canonical h _
  | linkLoss => exact execLinkLoss_canonical h _
  | jdpMessage => exact (execJdpMessage_keepsMem _ _).canonical h
  | peerFrame => exact execPeerFrame_canonical h _ _ _
  | hostBar2Read => exact execHostBar2Read_canonical h _ _
  | hostBar2Write => exact execHostBar2Write_canonical h _ _ _
  | hostAtomicop => exact execHostAtomicop_canonical h _ _ _ _ _
  | doorbellStart => exact (execDoorbellStart_keepsMem _ _).canonical h
  | doorbellStop => exact (execDoorbellStop_keepsMem _ _).canonical h
  | controlRegisterWrite => exact (execControlRegisterWrite_keepsMem _ _ _).canonical h
  | getMeasurements => exact (execGetMeasurements_keepsMem _ _).canonical h
  | patrolScrub => exact (execPatrolScrub_keepsMem _ _ _ _).canonical h
  | driftResend => exact (execDriftResend_keepsMem _ _).canonical h
  | selfTestDue => exact (execSelfTestDue_keepsMem _ _).canonical h
  | selfTestPreempt => exact (execSelfTestPreempt_keepsMem _ _).canonical h
  | selfTestDone => exact execSelfTestDone_canonical h _ _
  | scbTimeout => exact (execScbTimeout_keepsMem _ _).canonical h
  | snapshotTimer => exact (execSnapshotTimer_keepsMem _ _).canonical h
  | snapshot => exact execSnapshot_canonical h _
  | rollback => exact execRollback_canonical h _
  | kill => exact execKill_canonical h _ _
  | pldmTelemetryRead => exact (execPldmTelemetryRead_keepsMem _ _).canonical h
  | telemetryRefresh => exact (execTelemetryRefresh_keepsMem _ _).canonical h
  | errorLogRead => exact (execErrorLogRead_keepsMem _ _ _).canonical h
  | setPowerCap => exact (execSetPowerCap_keepsMem _ _).canonical h
  | powerWindow => exact (execPowerWindow_keepsMem _ _).canonical h
  | currentLimit => exact (execCurrentLimit_keepsMem _ _ _).canonical h
  | thermalStep => exact (execThermalStep_keepsMem _ _ _).canonical h
  | thermalTrip => exact execThermalTrip_canonical h _ _
  | firmwareUpdate => exact (execFirmwareUpdate_keepsMem _ _).canonical h
  | securityVersionCommit => exact (execSecurityVersionCommit_keepsMem _).canonical h
  | traceEnable => exact (execTraceEnable_keepsMem _ _ _ _).canonical h
  | restore => exact (execRestore_keepsMem _ _ _).canonical h
  | l1InstructionCacheFill => exact (execL1InstructionCacheFill_keepsMem _ _ _).canonical h
  | contextEnd => exact execContextEnd_canonical h _
  | purgeMomentOnDie => exact execPurgeMomentOnDie_canonical h _ _
  | shootInvalidationAtTlb => exact (execShootInvalidationAtTlb_keepsMem _ _ _).canonical h

/-! A step of an agent, an issue and a turn (R14, R16, R395) -/

/-- A step of an agent that keeps the canonical form. -/
def Act.sound (a : Act) : Prop := ∀ t, t.Inv → Canonical (a t)

theorem Act.sound_exec (i : Instr) : Act.sound (exec i) := fun _ h => exec_canonical i h

theorem serveAsk_canonical {s : State} (h : s.Inv) : Canonical (serveAsk s) := by
  unfold serveAsk
  split
  · exact canonical_next.mpr h
  · split
    · split
      · exact exec_canonical _ h
      · exact canonical_next.mpr h
    · exact canonical_next.mpr h

section
variable {s : State}

/-- The lists of steps that could be due hold sound steps only. -/
def allSound (l : List Act) : Prop := ∀ a ∈ l, Act.sound a

@[simp] theorem allSound_nil : allSound [] := fun _ h => nomatch h

@[simp] theorem allSound_cons {a : Act} {l : List Act} : allSound (a :: l) ↔ Act.sound a ∧ allSound l := List.forall_mem_cons

@[simp] theorem allSound_append {l m : List Act} : allSound (l ++ m) ↔ allSound l ∧ allSound m := List.forall_mem_append

theorem allSound_map {α : Type} {f : α → Act} (hf : ∀ x, Act.sound (f x)) (l : List α) : allSound (l.map f) := by
  simp [allSound, hf]

theorem allSound_flatMap {α : Type} {f : α → List Act} (hf : ∀ x, allSound (f x)) (l : List α) : allSound (l.flatMap f) := by
  intro a ha
  obtain ⟨x, -, hx⟩ := List.mem_flatMap.mp ha
  exact hf x a hx

theorem allSound_ite {c : Prop} [Decidable c] {l m : List Act} (hl : allSound l) (hm : allSound m) : allSound (if c then l else m) := by
  split <;> assumption

theorem allSound_one {a : Act} (ha : Act.sound a) : allSound [a] := allSound_cons.mpr ⟨ha, allSound_nil⟩

theorem reqTurns_sound (r : Req) : allSound (reqTurns r) := by
  simp only [reqTurns, allSound_append, allSound_cons, allSound_nil, and_true]
  exact ⟨⟨⟨Act.sound_exec (.flitReoffer _), Act.sound_exec (.requestForward _), Act.sound_exec (.homeRequest _), Act.sound_exec (.partialRegistration _),
    Act.sound_exec (.partialFlush _), Act.sound_exec (.heldLoadRelease _)⟩, allSound_map (fun _ => Act.sound_exec (.partialRecall _ _)) _⟩,
    Act.sound_exec (.combineComplete _), Act.sound_exec (.loadComplete _), Act.sound_exec (.storeAck _)⟩

theorem groupTurns_sound (g : Group) : allSound (groupTurns g) := by
  simp only [groupTurns, allSound_append]
  refine ⟨⟨⟨⟨allSound_map (fun _ => Act.sound_exec (.joinTimeout _ _)) _, allSound_flatMap (fun p => ?_) _⟩,
    allSound_ite allSound_nil (allSound_map (fun _ => Act.sound_exec (.counterRetire _ _)) _)⟩, allSound_flatMap (fun r => ?_) _⟩,
    allSound_ite (allSound_one (Act.sound_exec (.preemptEntry _))) allSound_nil⟩
  · split
    · exact allSound_one (Act.sound_exec (.timedExpiry _ _))
    · exact allSound_nil
  · exact allSound_append.mpr ⟨allSound_one (Act.sound_exec (.promoteRequest _)),
      allSound_ite allSound_nil (allSound_one (Act.sound_exec (.releaseWctReached _)))⟩

theorem teamTurns_sound (t : Team) : allSound (teamTurns t) := by
  simp only [teamTurns, allSound_append]
  refine ⟨⟨allSound_flatMap (fun p => allSound_ite allSound_nil ?_) _, allSound_map (fun _ => Act.sound_exec (.segmentDrain _ _ _)) _⟩,
    allSound_ite (allSound_one (Act.sound_exec (.teamRetire _))) allSound_nil⟩
  exact allSound_cons.mpr ⟨Act.sound_exec (.ringWaiterWake _ _ true), allSound_one (Act.sound_exec (.ringWaiterWake _ _ false))⟩

theorem engineTurns_sound (s : State) : allSound (engineTurns s) := by
  refine allSound_append.mpr ⟨allSound_flatMap (fun c => ?_) _, allSound_flatMap (fun x => ?_) _⟩
  all_goals simp only [allSound_cons, allSound_nil, and_true]
  · exact ⟨Act.sound_exec (.copyRingAcquire _), Act.sound_exec (.copyStart _), Act.sound_exec (.copyWalkFault _), Act.sound_exec (.copyComplete _)⟩
  · exact ⟨Act.sound_exec (.taskReady _), Act.sound_exec (.passGrant _), Act.sound_exec (.taskComplete _)⟩

theorem appendTurns_sound (l : List Receipt) :
    allSound (l.filterMap (fun x => match x.what with | .append c => if x.done.isNone then some (execLogAppend c.id) else none | _ => none)) := by
  intro a ha
  obtain ⟨x, -, hx⟩ := List.mem_filterMap.mp ha
  split at hx
  · split at hx <;> cases hx
    exact Act.sound_exec (.logAppend _)
  · cases hx

theorem storeTurns_sound (s : State) : allSound (storeTurns s) := by
  simp only [storeTurns, allSound_append]
  refine ⟨⟨⟨⟨⟨allSound_flatMap (fun l => ?_) _, allSound_map (fun _ => Act.sound_exec (.storeInsert _)) _⟩, appendTurns_sound _⟩,
    allSound_flatMap (fun c => ?_) _⟩, allSound_flatMap (fun c => ?_) _⟩, allSound_map (fun _ => Act.sound_exec (.digestTimeout _)) _⟩
  all_goals simp only [allSound_cons, allSound_nil, and_true]
  · exact ⟨Act.sound_exec (.storeLookup _ []), Act.sound_exec (.lookupAnswer _)⟩
  · exact ⟨Act.sound_exec (.tailRead _), Act.sound_exec (.readOnlyCall _), Act.sound_exec (.rouRetransmit _), Act.sound_exec (.rouGiveUp _)⟩
  · exact ⟨Act.sound_exec (.replayApply _ _), Act.sound_exec (.digestReport _ _), Act.sound_exec (.appliedReport _ _), Act.sound_exec (.resync _ _)⟩

theorem waiterTurns_sound (w : Waiter) : allSound (waiterTurns w) := by
  unfold waiterTurns
  split
  · exact allSound_append.mpr ⟨allSound_map (fun _ => Act.sound_exec (.storeInvalidate _ _)) _, allSound_one (Act.sound_exec (.finvalDone _))⟩
  · exact allSound_map (fun _ => Act.sound_exec (.shootInvalidationAtTlb _ _)) _
  · exact allSound_map (fun _ => Act.sound_exec (.purgeMomentOnDie _ _)) _
  · exact allSound_nil
  · exact allSound_one (Act.sound_exec (.atsInvalidate _ _ _))

theorem ropTurns_sound (s : State) : allSound (ropTurns s) := by
  simp only [ropTurns, allSound_append]
  refine ⟨⟨⟨allSound_map (fun _ => Act.sound_exec (.numberedRequest _)) _, allSound_map (fun _ => Act.sound_exec (.numberedRequest _)) _⟩,
    allSound_flatMap (fun r => ?_) _⟩, allSound_flatMap (fun x => ?_) _⟩
  all_goals simp only [allSound_cons, allSound_nil, and_true]
  · exact ⟨Act.sound_exec (.numberedReply _), Act.sound_exec (.rouRetransmit _), Act.sound_exec (.rouGiveUp _)⟩
  · exact ⟨Act.sound_exec (.hostAtomic _), Act.sound_exec (.receiptRetire _ _ _)⟩

theorem gridTurns_sound (s : State) : allSound (gridTurns s) := by
  simp only [gridTurns, allSound_append]
  refine ⟨⟨allSound_flatMap (fun g => ?_) _, allSound_flatMap (fun l => ?_) _⟩, allSound_map (fun _ => Act.sound_exec (.monitorTeamRestore _)) _⟩
  · exact allSound_append.mpr ⟨allSound_append.mpr ⟨allSound_map (fun _ => Act.sound_exec (.launchReceive _ _)) _,
      allSound_one (Act.sound_exec (.completionRecordWrite _))⟩, allSound_ite (allSound_one (Act.sound_exec (.msixSend _))) allSound_nil⟩
  · exact allSound_append.mpr ⟨allSound_map (fun _ => Act.sound_exec (.predecessorObserved _ _ _)) _, allSound_one (Act.sound_exec (.placeCluster _))⟩

theorem faultTurns_sound (s : State) (f : PFault) : allSound (faultTurns s f) := by
  unfold faultTurns
  repeat' apply allSound_ite
  all_goals simp only [allSound_cons, allSound_nil, and_true]
  · exact Act.sound_exec (.kill _ _)
  · exact ⟨Act.sound_exec (.rollback _), Act.sound_exec (.kill _ _)⟩
  · exact ⟨Act.sound_exec (.faultResolved _), Act.sound_exec (.replayTimeout _)⟩
  · exact Act.sound_exec (.gridFail _)

theorem clusterTurns_sound (s : State) (c : Cluster) : allSound (clusterTurns s c) :=
  allSound_ite (allSound_cons.mpr ⟨Act.sound_exec (.snapshotTimer _), allSound_one (Act.sound_exec (.snapshot _))⟩) allSound_nil

theorem dieTurns_sound (s : State) : allSound (dieTurns s) := by
  simp only [dieTurns, allSound_append]
  refine ⟨⟨⟨⟨⟨⟨⟨allSound_flatMap (fun p => ?_) _, allSound_map (fun _ => Act.sound_exec (.forwardPointerExpiry _ _)) _⟩, ?_⟩,
    allSound_flatMap (fun p => ?_) _⟩, ?_⟩, allSound_map (fun r t h => (endRestore_keepsMem _ t).canonical h) _⟩, ?_⟩, ?_⟩
  · exact allSound_ite (allSound_one (Act.sound_exec (.claim _))) allSound_nil
  · exact allSound_ite allSound_nil (allSound_map (fun _ => Act.sound_exec (.granuleCountHalving _)) _)
  · exact allSound_append.mpr ⟨allSound_map (fun _ => Act.sound_exec (.l1InstructionCacheFill _ _)) _,
      allSound_ite (allSound_one (Act.sound_exec (.selfTestPreempt _))) allSound_nil⟩
  · exact allSound_ite (allSound_one (fun t h => (endUpdate_keepsMem t).canonical h)) allSound_nil
  · exact allSound_ite (allSound_one (Act.sound_exec .discoveryBuild)) allSound_nil
  · exact allSound_ite (allSound_one (Act.sound_exec .pcieEnable)) allSound_nil

/-- Every step that the machine's own agents could make keeps the canonical form. -/
theorem ownTurns_sound (s : State) : allSound (ownTurns s) := by
  simp only [ownTurns, allSound_append]
  refine ⟨⟨⟨⟨⟨⟨⟨⟨⟨⟨⟨⟨allSound_flatMap reqTurns_sound _, allSound_flatMap groupTurns_sound _⟩, ropTurns_sound s⟩, allSound_flatMap teamTurns_sound _⟩,
    engineTurns_sound s⟩, storeTurns_sound s⟩, allSound_flatMap waiterTurns_sound _⟩, allSound_flatMap (fun m => ?_) _⟩,
    allSound_flatMap (faultTurns_sound s) _⟩, gridTurns_sound s⟩, allSound_flatMap (clusterTurns_sound s) _⟩, dieTurns_sound s⟩,
    allSound_ite allSound_nil (allSound_one (fun _ => serveAsk_canonical))⟩
  exact allSound_cons.mpr ⟨Act.sound_exec (.monitorWake _), allSound_one (Act.sound_exec (.monitorRecheck _))⟩

theorem arrivalTurns_sound (s : State) : allSound (arrivalTurns s) :=
  allSound_flatMap (fun _ => allSound_map (fun _ => Act.sound_exec (.releaseWctReached _)) _) _

theorem firstMove_inv {s t : State} (h : s.Inv) {l : List Act} (hl : allSound l) (ht : firstMove s l = some t) : t.Inv := by
  induction l with
  | nil => cases ht
  | cons a l ih =>
    obtain ⟨ha, hl⟩ := allSound_cons.mp hl
    rw [firstMove] at ht
    split at ht
    · next hu =>
      split at ht
      · cases ht
        exact ha s h _ hu
      · exact ih hl ht
    · exact ih hl ht

/-! The issue of a bundle (R14, R166) -/

theorem State.issueBundle_canonical {s : State} (h : s.Inv) : Canonical s.issueBundle := by
  replace h : Memory.wf s.mem = true := h
  have hbegin (i pas) : (s.begin i pas).Inv := by simpa [State.Inv] using h
  unfold State.issueBundle
  split
  · simp [h]
  · split
    · simp [h]
    · split
      · exact canonical_next.mpr h
      · simp [h]
      · split
        · simp [h]
        · exact exec_canonical _ (hbegin _ _)

theorem issueBench_canonical (b : Nat) {s : State} (h : s.Inv) : Canonical (issueBench b s) := by
  have hc : (s.choose b).1.Inv := by rwa [State.Inv, State.choose_mem]
  simp only [issueBench]
  split
  · exact State.issueBundle_canonical hc
  · exact canonical_next.mpr hc

theorem issueSecond_canonical (u m pc) {s : State} (h : s.Inv) : Canonical (issueSecond u m pc s) := by
  simp only [issueSecond]
  split
  · exact canonical_next.mpr h
  · refine State.issueBundle_canonical ?_
    rwa [State.Inv, State.withBundle_mem, State.focus_mem]

theorem takeOutside_canonical (o : Outside) {s : State} (h : s.Inv) : Canonical (takeOutside o s) := by
  cases o with
  | shadow g wrote sent => exact (execShadow_keepsMem _ _ _ _).canonical h
  | pass quad again => exact (execPassAgain_keepsMem _ _ _).canonical h
  | upset u => exact execUpset_canonical h u
  | ask a => exact canonical_next.mpr h
  | bar0Read hub off => exact (readBar0_keepsMem _ _ _).canonical h
  | bar4Read hub off => exact (readBar4_keepsMem _ _ _).canonical h
  | bar4Write hub off x => exact (writeBar4_keepsMem _ _ _ _).canonical h
  | msix on n => exact (setMsix_keepsMem _ _ _).canonical h
  | tdisp runs ide => exact (setTdisp_keepsMem _ _ _).canonical h

theorem tick_canonical (shadows : Bool) {s : State} (h : s.Inv) : Canonical (.next (s.tick shadows)) := by
  rwa [canonical_next, State.tick_mem]

theorem benchTurn_canonical (lo : Nat) {s : State} (h : s.Inv) : Canonical (benchTurn lo s) := by
  unfold benchTurn
  split
  · exact issueBench_canonical _ h
  · exact tick_canonical true h

theorem defaultTurn_canonical {s : State} (h : s.Inv) : Canonical (defaultTurn s) := by
  unfold defaultTurn
  split
  · split
    · next ht =>
      refine canonical_next.mpr (firstMove_inv h (allSound_append.mpr ⟨?_, arrivalTurns_sound s⟩) ht)
      exact allSound_ite (ownTurns_sound s) allSound_nil
    · exact benchTurn_canonical 0 h
  · exact benchTurn_canonical _ h

theorem takeTurn_canonical (t : Turn) {s : State} (h : s.Inv) : Canonical (takeTurn t s) := by
  cases t with
  | event i =>
    simp only [takeTurn]
    split
    · exact serveAsk_canonical h
    · split
      · exact exec_canonical i h
      · exact canonical_next.mpr h
  | issue b => exact issueBench_canonical b h
  | second u m pc => exact issueSecond_canonical u m pc h
  | tick => exact tick_canonical true h
  | lag => exact tick_canonical false h
  | outside o => exact takeOutside_canonical o h

/-- Settles O26: the turn a step takes, named by the agenda or the default one, keeps the canonical form. -/
theorem memoryStaysCanonical : Obligations.MemoryStaysCanonical := by
  intro s t h ht
  have hstep : Canonical (step s) := by
    unfold step
    split
    · exact takeTurn_canonical _ h
    · exact defaultTurn_canonical h
  exact hstep t ht

end

end Sys2Proof.Machine
end

section
/-! Releases of a group that owes nothing, arrivals at barriers and waits on them, and `Obligations.Barriers`. -/

namespace Sys2Proof.Machine

/-! The lanes of a mask -/

/-- The bit of a lane in the mask of the guard-true lanes says whether it is active. -/
theorem State.getLsbD_activeMask {s : State} {gd : Guard} {l : Nat} {x : Lane} (h : s.grp.lanes[l]? = some x) :
    (s.activeMask gd).getLsbD l = s.active gd l x := by
  rcases Nat.lt_or_ge l 128 with hl | hl
  · rw [State.activeMask, getLsbD_maskOf _ _ hl, List.any_map]
    exact State.any_actives_fst h
  · rw [BitVec.getLsbD_of_ge _ _ hl, State.active, State.inBundle, BitVec.getLsbD_of_ge _ _ hl, Bool.false_and]

theorem map_fst_numbered (i : Nat) (l : List Lane) : (numbered i l).map (fun p => p.1) = List.range' i l.length := by
  induction l generalizing i with
  | nil => rfl
  | cons x xs ih => simp [numbered, ih, List.range'_succ]

/-- Each guard-true lane is listed once. -/
theorem State.nodup_actives (s : State) (gd : Guard) : ((s.actives gd).map (fun p => p.1)).Nodup := by
  have hsub : ((s.actives gd).map (fun p => p.1)).Sublist ((numbered 0 s.grp.lanes).map (fun p => p.1)) := List.filter_sublist.map _
  rw [map_fst_numbered] at hsub
  exact hsub.nodup List.nodup_range'

theorem nodup_lanesOf (m : QWord) : (lanesOf m).Nodup := List.nodup_range.filter _

theorem mem_lanesOf {m : QWord} {l : Nat} : l ∈ lanesOf m ↔ m.getLsbD l = true := by
  simp only [lanesOf, List.mem_filter, List.mem_range, and_iff_right_iff_imp]
  exact BitVec.lt_of_getLsbD

/-- The lanes of the mask of guard-true lanes are as many as there are guard-true lanes. -/
theorem State.length_lanesOf_activeMask (s : State) (gd : Guard) : (lanesOf (s.activeMask gd)).length = (s.actives gd).length := by
  rw [← List.length_map (f := fun p : Nat × Lane => p.1)]
  refine ((List.perm_ext_iff_of_nodup (nodup_lanesOf _) (s.nodup_actives gd)).2 fun l => ?_).length_eq
  rw [mem_lanesOf]
  constructor
  · intro h
    rw [State.activeMask, getLsbD_maskOf _ _ (BitVec.lt_of_getLsbD h)] at h
    simpa using h
  · intro h
    obtain ⟨p, hp, rfl⟩ := List.mem_map.1 h
    obtain ⟨hx, ha⟩ := State.mem_actives.1 hp
    rw [State.getLsbD_activeMask hx, ha]

/-! Barrier objects -/

/-- Barrier object `code` of team `t` exists. -/
def State.hasBar (s : State) (t : Team) (code : Nat) : Prop :=
  if code < 48 then ∃ x, s.teams.find? (fun x => x.uid == t.uid) = some x ∧ code < x.bars.length
  else ∃ c, s.clusters.find? (fun c => c.uid == t.cluster) = some c ∧ code - 48 < c.bars.length

theorem find?_updBy {α : Type} {p q : α → Bool} {f : α → α} (h : ∀ x, q (f x) = q x) (l : List α) :
    (updBy p f l).find? q = (l.find? q).map (fun x => if p x then f x else x) := by
  rw [updBy, List.find?_map]
  congr 2
  funext x
  simp only [Function.comp]
  split <;> simp [h]

/-- Barrier objects are the teams' and the clusters'. -/
theorem State.bar_congr {s t : State} (ht : t.teams = s.teams) (hc : t.clusters = s.clusters) : t.bar = s.bar := by
  funext x code
  simp only [State.bar, State.team, State.clusterOf, ht, hc]

theorem State.hasBar_congr {s t : State} (ht : t.teams = s.teams) (hc : t.clusters = s.clusters) : t.hasBar = s.hasBar := by
  funext x code
  simp only [State.hasBar, ht, hc]

/-- A change of a barrier object that exists. -/
theorem State.bar_onBar {s : State} {t : Team} {code : Nat} (h : s.hasBar t code) (f : Bar → Bar) : (s.onBar t code f).bar t code = f (s.bar t code) := by
  unfold State.hasBar at h
  unfold State.bar State.onBar
  split at h
  · next hlt =>
    obtain ⟨x, hx, hlen⟩ := h
    have hu : x.uid = t.uid := by simpa using List.find?_some hx
    simp only [hlt, if_true, State.team, State.onTeam_teams]
    rw [find?_updBy (by intro; rfl), hx]
    simp [hu, hlen]
  · next hlt =>
    obtain ⟨c, hc, hlen⟩ := h
    have hu : c.uid = t.cluster := by simpa using List.find?_some hc
    simp only [hlt, if_false, State.clusterOf]
    rw [find?_updBy (by intro; rfl), hc]
    simp [hu, hlen]

theorem State.hasBar_onBar {s : State} {t : Team} {code : Nat} (h : s.hasBar t code) (f : Bar → Bar) : (s.onBar t code f).hasBar t code := by
  unfold State.hasBar at h ⊢
  unfold State.onBar
  split at h
  · next hlt =>
    obtain ⟨x, hx, hlen⟩ := h
    simp only [hlt, if_true, State.onTeam_teams]
    rw [find?_updBy (by intro; rfl), hx]
    refine ⟨_, rfl, ?_⟩
    beta_reduce
    split <;> simpa using hlen
  · next hlt =>
    obtain ⟨c, hc, hlen⟩ := h
    simp only [hlt, if_false]
    rw [find?_updBy (by intro; rfl), hc]
    refine ⟨_, rfl, ?_⟩
    beta_reduce
    split <;> simpa using hlen

/-- A SNAP note leaves the barrier objects alone. -/
theorem State.bar_snapNote (s : State) (u : Nat) : (s.snapNote u).bar = s.bar := by
  unfold State.snapNote
  split
  · funext t code
    simp only [State.bar, State.clusterOf, State.team]
    rw [find?_updBy (by intro; rfl)]
    cases s.clusters.find? (fun c => c.uid == t.cluster) with
    | none => rfl
    | some c =>
      simp only [Option.map_some, Option.getD_some]
      split
      · rfl
      · split <;> rfl
  · rfl

theorem State.hasBar_snapNote (s : State) (u : Nat) (t : Team) (code : Nat) (h : s.hasBar t code) : (s.snapNote u).hasBar t code := by
  unfold State.snapNote
  split
  · unfold State.hasBar at h ⊢
    split at h
    · next hlt => simpa [hlt] using h
    · next hlt =>
      obtain ⟨c, hc, hlen⟩ := h
      simp only [hlt, if_false]
      rw [find?_updBy (by intro; rfl), hc]
      refine ⟨_, rfl, ?_⟩
      beta_reduce
      split <;> exact hlen
  · exact h

/-! A release of a group that owes nothing (R72) -/

/-- Lane `l` of a release's lanes waits in COUNTING. -/
def heldFor (m : QWord) (id l : Nat) (x : Lane) : Lane := if m.getLsbD l then { x with st := .counting, hold := .release id } else x

/-- The issuing group with the release `r` of its lanes `m` in progress; `w`, `cs` and `gs` are its WCT, the cores and the other groups. -/
def State.inRel (s : State) (m : QWord) (r : Rel) (w : Nat) (cs : List (Nat × Core)) (gs : List Group) : State :=
  { s with nextId := s.nextId + 1, cores := cs, groups := gs, grp := { s.grp with wct := w, rels := [r], lanes := mapLanes (heldFor m s.nextId) 0 s.grp.lanes } }

/-- The same when the release is over, before what follows it. -/
def State.released (s : State) (m : QWord) (w : Nat) (cs : List (Nat × Core)) (gs : List Group) : State :=
  { s with nextId := s.nextId + 1, cores := cs, groups := gs, grp := { s.grp with wct := w, rels := [], lanes := mapLanes (heldFor m s.nextId) 0 s.grp.lanes } }

theorem State.core_onCore (s : State) (c : Nat) (f : Core → Core) : (s.onCore c f).core c = f (s.core c) := by
  unfold State.onCore State.core
  split
  · next h =>
    have hsome := List.find?_isSome.2 (by simpa using h : ∃ p ∈ s.cores, (p.1 == c) = true)
    obtain ⟨p, hp⟩ := Option.isSome_iff_exists.1 hsome
    have hc : p.1 = c := by simpa using List.find?_some hp
    simp only
    rw [find?_updBy (by intro; rfl), hp]
    simp [hc]
  · next h =>
    have hnone : s.cores.find? (fun p => p.1 == c) = none :=
      List.find?_eq_none.2 fun p hp hc => h (List.any_eq_true.2 ⟨p, hp, hc⟩)
    simp [List.find?_append, hnone]

theorem State.findRel_of_rels {s : State} {r : Rel} (h : s.grp.rels = [r]) : s.findRel r.id = some (s.grp, r) := by
  simp [State.findRel, State.allGroups, h]

theorem relRun_succ {s t : State} {r : Rel} (n : Nat) (h : s.grp.rels = [r]) (hs : s.relStep s.grp r = some t) :
    State.relRun r.id (n + 1) s = State.relRun r.id n t := by
  simp only [State.relRun, State.findRel_of_rels h, hs]

/-- No group has a release `id`. -/
def State.noRel (s : State) (id : Nat) : Prop := ∀ g ∈ s.allGroups, ∀ r ∈ g.rels, r.id ≠ id

theorem relRun_of_noRel {s : State} {id : Nat} (h : s.noRel id) (n : Nat) : State.relRun id n s = s := by
  cases n with
  | zero => rfl
  | succ n =>
    have hf : s.findRel id = none := by
      simp only [State.findRel, List.findSome?_eq_none_iff, Option.map_eq_none_iff, List.find?_eq_none, beq_iff_eq]
      exact h
    simp only [State.relRun, hf]

/-- With no dirty byte and no partial of a core nothing is sent home. -/
theorem State.flushCore_of_clean {s : State} {c : Nat} (hd : (s.core c).dirty = []) (hp : ∀ p ∈ s.partials, p.core ≠ c) :
    ∃ cs, s.flushCore c = { s with cores := cs } ∧ ({ s with cores := cs }.core c).maxW = (s.core c).maxW := by
  refine ⟨(s.onCore c (fun k => { k with dirty := [] })).cores, ?_, ?_⟩
  · have hw : s.writeBack c (fun _ => true) = s.onCore c (fun k => { k with dirty := [] }) := by
      simp [State.writeBack, hd, gather]
    have hpart : (s.onCore c (fun k => { k with dirty := [] })).partials = s.partials := by unfold State.onCore; split <;> rfl
    have hnone : s.partials.filter (fun x => x.core == c && true) = [] := by simpa using hp
    have hall : s.partials.filter (fun x => !(x.core == c && true)) = s.partials := by simpa using hp
    rw [State.flushCore, hw, State.flushPartials]
    simp only [hpart, hnone, hall, List.flatMap_nil, List.foldl_nil]
    unfold State.onCore
    split <;> rfl
  · have := congrArg Core.maxW (s.core_onCore c (fun k => { k with dirty := [] }))
    exact this

/-- A continuation that needs no room and no record. -/
def Cont.plain : Cont → Prop
  | .access _ _ _ => False
  | .launch _ _ _ => False
  | _ => True

theorem State.mayFollow_of_plain {s : State} {g : Group} {r : Rel} (h : r.cont.plain) : s.mayFollow g r = true := by
  unfold State.mayFollow
  cases hc : r.cont <;> simp_all [Cont.plain]

section
/-- The release that the bundle's lanes `m` start when the group owes nothing. -/
def State.newRel (s : State) (scope : BitVec 2) (m : QWord) (len : Nat) (cont : Cont) : Rel :=
  { id := s.nextId, lanes := m, pc := s.bundle.pc, next := s.bundle.pc + BitVec.ofNat 64 len, scope := scope, stage := 0, waits := [], timed := scope != 0, cont := cont }

/-- What follows a release that is over, the SNAP note of a wide one included. -/
def State.passRel (s : State) (scope : BitVec 2) (m : QWord) (next : DWord) (cont : Cont) : State :=
  (if scope = 0 then s else s.snapNote s.grp.uid).follow s.grp.uid m next cont

variable {s : State} {scope : BitVec 2} {m : QWord} {len : Nat} {cont : Cont}

theorem State.olderOf_of_nothingOwed (h : nothingOwed s) : s.olderOf s.grp = [] := by
  obtain ⟨hreqs, -, -, hrels, -⟩ := h
  have hnone : s.reqs.filter (fun r => r.gid == s.grp.uid && s.grp.uid != 0) = [] := by
    rw [List.filter_eq_nil_iff]
    intro r hr
    simp [(hreqs r hr).1]
  simp [State.olderOf, hnone, hrels]

theorem State.coreWrites_of_nothingOwed (h : nothingOwed s) : s.coreWrites (s.unitOf s.grp) = [] := by
  obtain ⟨hreqs, -⟩ := h
  have hnone : s.reqs.filter (fun r => !r.isBuf && r.core == s.unitOf s.grp && r.acc.writes) = [] := by
    rw [List.filter_eq_nil_iff]
    intro r hr
    rcases (hreqs r hr).2 with h | h | h <;> simp [h]
  simp [State.coreWrites, hnone]

/-- A release starts as one that has no older access to wait for. -/
theorem State.release_eq_relRun (h : nothingOwed s) : s.release scope m len cont =
    State.relRun s.nextId 3 (s.inRel m (s.newRel scope m len cont) s.grp.wct s.cores s.groups) := by
  have hold := State.olderOf_of_nothingOwed h
  obtain ⟨-, -, -, hrels, -⟩ := h
  simp only [State.release, State.holdRel, hold, hrels, List.nil_append]
  rfl

theorem State.unmatched_inRel (h : nothingOwed s) (r : Rel) (w : Nat) (cs : List (Nat × Core)) (gs : List Group) :
    (s.inRel m r w cs gs).unmatched s.grp.uid s.nextId = false := by
  obtain ⟨-, -, -, -, -, -, hfresh⟩ := h
  have hg : (s.inRel m r w cs gs).group s.grp.uid = some (s.inRel m r w cs gs).grp := if_pos rfl
  simp only [State.unmatched, hg, Option.map_some, Option.getD_some, List.any_eq_false, beq_iff_eq]
  intro e he
  exact Nat.ne_of_lt ((hfresh s.grp List.mem_cons_self).2 e he)

/-- The releases of a group that wait for release `id` wait for the requests `new` too. -/
def Group.waitNew (id : Nat) (new : List Nat) (g : Group) : Group :=
  { g with rels := g.rels.map (fun x => if x.waits.contains id then { x with waits := x.waits ++ new } else x) }

/-- Release `id` leaves the groups `gs` that have the issuing group's number. -/
def State.othersAfter (s : State) (id : Nat) (gs : List Group) : List Group :=
  updBy (fun g => g.uid == s.grp.uid) (fun g => { g with rels := g.rels.filter (fun x => x.id != id) }) gs

/-- The end of a release in progress. -/
theorem State.endRel_inRel (r : Rel) (w : Nat) (cs : List (Nat × Core)) (gs : List Group) : ∃ new,
    (s.inRel m r w cs gs).endRel (s.inRel m r w cs gs).grp r =
      ((s.released m w cs (s.othersAfter r.id gs)).passRel r.scope r.lanes r.next r.cont).onGroup s.grp.uid (Group.waitNew r.id new) := by
  have hs1 : (s.inRel m r w cs gs).onGroup s.grp.uid (fun g => { g with rels := g.rels.filter (fun x => x.id != r.id) }) =
      s.released m w cs (s.othersAfter r.id gs) := by
    simp [State.onGroup, State.inRel, State.released, State.othersAfter]
  refine ⟨?_, ?_⟩
  rotate_left
  · unfold State.endRel
    rw [show (s.inRel m r w cs gs).grp.uid = s.grp.uid from rfl, hs1]
    rfl

/-- A release in progress goes on in a later stage. -/
theorem State.relTo_inRel {r : Rel} (hid : r.id = s.nextId) (w : Nat) (cs : List (Nat × Core)) (gs : List Group) (stage : Nat) : ∃ gs',
    (s.inRel m r w cs gs).relTo s.grp.uid s.nextId stage [] = s.inRel m { r with stage := stage, waits := [] } w cs gs' := by
  refine ⟨?_, ?_⟩
  rotate_left
  · simp only [State.relTo, State.onGroup, State.inRel, updBy, List.map_cons, List.map_nil, hid, beq_self_eq_true, if_true]
    rfl

theorem State.raiseWct_inRel (r : Rel) (w v : Nat) (cs : List (Nat × Core)) (gs : List Group) : ∃ gs',
    (s.inRel m r w cs gs).raiseWct s.grp.uid v = s.inRel m r (max w v) cs gs' := by
  refine ⟨?_, ?_⟩
  rotate_left
  · simp only [State.raiseWct, State.onGroup, State.inRel, if_true]
    rfl

/-- The first step of a release that waits for nothing. -/
theorem State.relStep_start {t : State} {g : Group} {r : Rel} (hst : r.stage = 0) (hw : r.waits = []) (hc : r.cont.plain) (hu : t.unmatched g.uid r.id = false) :
    t.relStep g r = if r.scope = 0 then some (t.endRel g r)
      else some ((t.flushCore (t.unitOf g)).relTo g.uid r.id 1 ((t.flushCore (t.unitOf g)).coreWrites (t.unitOf g))) := by
  have hmay : t.mayFollow g r = true := State.mayFollow_of_plain hc
  cases hr : r.cont <;> simp_all [State.relStep, Cont.plain]

/-- The second step, of a timed release whose writes are all acknowledged. -/
theorem State.relStep_acked {t : State} {g : Group} {r : Rel} (hst : r.stage = 1) (hw : r.waits = []) (ht : r.timed = true) (hc : r.cont ≠ .promote) :
    t.relStep g r = some ((t.raiseWct g.uid (t.core (t.unitOf g)).maxW).relTo g.uid r.id 2 []) := by
  simp [State.relStep, hst, hw, ht, hc]

/-- The third step, when GTIME has reached WCT. -/
theorem State.relStep_timed {t : State} {g : Group} {r : Rel} (hst : r.stage = 2) (hc : r.cont.plain) (hw : g.wct ≤ t.gtime (t.dieOf g)) :
    t.relStep g r = some (t.endRel g r) := by
  have hmay : t.mayFollow g r = true := State.mayFollow_of_plain hc
  simp [State.relStep, hst, hmay, hw]

theorem State.relRun_inRel {r : Rel} (hid : r.id = s.nextId) {w : Nat} {cs : List (Nat × Core)} {gs : List Group} {t : State} (n : Nat)
    (hs : (s.inRel m r w cs gs).relStep (s.inRel m r w cs gs).grp r = some t) :
    State.relRun s.nextId (n + 1) (s.inRel m r w cs gs) = State.relRun s.nextId n t :=
  hid ▸ relRun_succ n rfl hs

/-- A release of team scope that owes nothing is over after its first step. -/
theorem State.relRun_narrow (h : nothingOwed s) (hc : cont.plain) :
    ∃ gs new, (∀ g ∈ gs, ∀ r ∈ g.rels, r.id ≠ s.nextId) ∧ State.relRun s.nextId 3 (s.inRel m (s.newRel 0 m len cont) s.grp.wct s.cores s.groups) =
      State.relRun s.nextId 2
        (((s.released m s.grp.wct s.cores gs).passRel 0 m (s.bundle.pc + BitVec.ofNat 64 len) cont).onGroup s.grp.uid (Group.waitNew s.nextId new)) := by
  let r := s.newRel 0 m len cont
  obtain ⟨new, hend⟩ := s.endRel_inRel (m := m) r s.grp.wct s.cores s.groups
  have hstep := State.relStep_start (t := s.inRel m r s.grp.wct s.cores s.groups) (g := (s.inRel m r s.grp.wct s.cores s.groups).grp) (r := r) rfl rfl hc
    (State.unmatched_inRel h r s.grp.wct s.cores s.groups)
  rw [if_pos (show r.scope = 0 from rfl), hend] at hstep
  refine ⟨_, new, ?_, State.relRun_inRel rfl 2 hstep⟩
  obtain ⟨-, -, -, -, -, -, hfresh⟩ := h
  intro g hg x hx
  obtain ⟨y, hy, rfl⟩ := List.mem_map.1 hg
  have hlt := (hfresh y (List.mem_cons_of_mem _ hy)).1 x
  split at hx
  · exact Nat.ne_of_lt (hlt (List.mem_of_mem_filter hx))
  · exact Nat.ne_of_lt (hlt hx)

/-- A wider one sends nothing home, waits for no acknowledgement, and finds GTIME at `WCT`: it is over after three steps. -/
theorem State.relRun_wide (h : nothingOwed s) (hs : scope ≠ 0) (hc : cont.plain) (hp : cont ≠ .promote) :
    ∃ w cs gs new, State.relRun s.nextId 3 (s.inRel m (s.newRel scope m len cont) s.grp.wct s.cores s.groups) =
      ((s.released m w cs gs).passRel scope m (s.bundle.pc + BitVec.ofNat 64 len) cont).onGroup s.grp.uid (Group.waitNew s.nextId new) := by
  have hwrites := State.coreWrites_of_nothingOwed h
  have hu := State.unmatched_inRel (m := m) h
  obtain ⟨-, hdirty, hpart, -, hwct, hmaxW, -⟩ := h
  let r := s.newRel scope m len cont
  let c := s.unitOf s.grp
  -- the write-backs and flushes send nothing
  let t0 := s.inRel m r s.grp.wct s.cores s.groups
  obtain ⟨cs, hflush, hmax⟩ := State.flushCore_of_clean (s := t0) (c := c) hdirty hpart
  obtain ⟨gs1, hto1⟩ := State.relTo_inRel (s := s) (m := m) (r := r) rfl s.grp.wct cs s.groups 1
  have h1 : t0.relStep t0.grp r = some (s.inRel m { r with stage := 1, waits := [] } s.grp.wct cs gs1) := by
    rw [State.relStep_start rfl rfl hc (hu r s.grp.wct s.cores s.groups), if_neg (show r.scope ≠ 0 from hs), show t0.unitOf t0.grp = c from rfl, hflush, ← hto1, ← hwrites]
    rfl
  -- WCT takes the largest W the core has seen
  let t1 := s.inRel m { r with stage := 1, waits := [] } s.grp.wct cs gs1
  obtain ⟨gs2, hraise⟩ := s.raiseWct_inRel (m := m) { r with stage := 1, waits := [] } s.grp.wct (t1.core c).maxW cs gs1
  let w := max s.grp.wct (t1.core c).maxW
  obtain ⟨gs3, hto2⟩ := State.relTo_inRel (s := s) (m := m) (r := { r with stage := 1, waits := [] }) rfl w cs gs2 2
  have h2 : t1.relStep t1.grp { r with stage := 1, waits := [] } = some (s.inRel m { r with stage := 2, waits := [] } w cs gs3) := by
    rw [State.relStep_acked rfl rfl (by simpa [r, State.newRel] using hs) hp, ← hto2, ← hraise]
    rfl
  -- and GTIME is there
  let t2 := s.inRel m { r with stage := 2, waits := [] } w cs gs3
  have hw : w ≤ s.gtime (s.dieOf s.grp) := Nat.max_le.2 ⟨hwct, (show (t1.core c).maxW = (s.core c).maxW from hmax) ▸ hmaxW⟩
  obtain ⟨new, hend⟩ := s.endRel_inRel (m := m) { r with stage := 2, waits := [] } w cs gs3
  have h3 := State.relStep_timed (t := t2) (g := t2.grp) (r := { r with stage := 2, waits := [] }) rfl hc hw
  rw [hend] at h3
  exact ⟨w, cs, _, new, (State.relRun_inRel rfl 2 h1).trans ((State.relRun_inRel rfl 1 h2).trans (State.relRun_inRel rfl 0 h3))⟩

/-- A release that owes nothing is over at once, whatever its scope: what follows it happens to the issuing group with its lanes held, up to the WCT, the cores and the
other groups. -/
theorem State.release_nothingOwed (h : nothingOwed s) (hc : cont.plain) (hp : cont ≠ .promote) : ∃ n w cs gs new,
    (n = 0 ∨ ∀ g ∈ gs, ∀ r ∈ g.rels, r.id ≠ s.nextId) ∧ s.release scope m len cont =
    State.relRun s.nextId n (((s.released m w cs gs).passRel scope m (s.bundle.pc + BitVec.ofNat 64 len) cont).onGroup s.grp.uid (Group.waitNew s.nextId new)) := by
  rw [State.release_eq_relRun h]
  by_cases hs : scope = 0
  · subst hs
    obtain ⟨gs, new, hfresh, heq⟩ := State.relRun_narrow h hc
    exact ⟨2, _, _, gs, new, Or.inr hfresh, heq⟩
  · obtain ⟨w, cs, gs, new, heq⟩ := State.relRun_wide h hs hc hp
    exact ⟨0, w, cs, gs, new, Or.inl rfl, heq⟩

end

/-! What arrivals and waits leave of the groups (R46) -/

/-- The releases of every group. -/
def State.allRels (s : State) : List (List Rel) := s.allGroups.map (fun g => g.rels)

theorem State.noRel_iff {s : State} {id : Nat} : s.noRel id ↔ ∀ rs ∈ s.allRels, ∀ r ∈ rs, r.id ≠ id := by
  simp only [State.noRel, State.allRels, List.mem_map, forall_exists_index, and_imp, forall_apply_eq_imp_iff₂]

theorem State.allRels_onGroup (s : State) (u : Nat) {k : Group → Group} (hk : ∀ g, (k g).rels = g.rels) : (s.onGroup u k).allRels = s.allRels := by
  have hif (c : Prop) [Decidable c] (g : Group) : (if c then k g else g).rels = g.rels := by split <;> simp [hk]
  simp [State.allRels, State.allGroups, State.onGroup, updBy, hif]

@[simp] theorem State.allRels_onLane (s : State) (u l : Nat) (k : Lane → Lane) : (s.onLane u l k).allRels = s.allRels := s.allRels_onGroup u fun _ => rfl

@[simp] theorem State.allRels_acquire (s : State) (u : Nat) (p : Nat → Bool) : (s.acquire u p).allRels = s.allRels := s.allRels_onGroup u fun _ => rfl

@[simp] theorem State.allRels_onBar (s : State) (t : Team) (code : Nat) (k : Bar → Bar) : (s.onBar t code k).allRels = s.allRels := by
  unfold State.onBar; split <;> rfl

@[simp] theorem State.allRels_flip (s : State) (t : Team) (code : Nat) : (s.flip t code).allRels = s.allRels := by
  have hif (c : Prop) [Decidable c] (g : Group) : (if c then wakeBar s code g else g).rels = g.rels := by split <;> rfl
  simp [State.allRels, State.allGroups, State.flip, hif]

@[simp] theorem State.allRels_arrive (s : State) (t : Team) (code w : Nat) : (s.arrive t code w).allRels = s.allRels := by
  simp only [State.arrive]; split <;> simp

@[simp] theorem State.allRels_arriveLane (s : State) (u : Nat) (t : Team) (code w : Nat) (dst : Option Nat) (l : Nat) :
    (s.arriveLane u t code w dst l).allRels = s.allRels := by
  cases dst <;> simp [State.arriveLane]

@[simp] theorem allRels_arriveAll (u : Nat) (t : Team) (code w : Nat) (dst : Option Nat) (ls : List Nat) (s : State) :
    (arriveAll u t code w dst ls s).1.allRels = s.allRels := by
  induction ls generalizing s with
  | nil => rfl
  | cons l ls ih => simp [arriveAll, ih]

@[simp] theorem allRels_waitAll (u : Nat) (t : Team) (code : Nat) (next : DWord) (toks : List (Nat × Bool)) (s : State) :
    (waitAll u t code next toks s).allRels = s.allRels := by
  induction toks generalizing s with
  | nil => rfl
  | cons p toks ih => simp only [waitAll, ih]; split <;> simp [State.sleepBar]

/-- What follows an arrival leaves every release as it is. -/
theorem State.allRels_follow_arrive (s : State) (u : Nat) (m : QWord) (next : DWord) (code w : Nat) (dst : Option Nat) (sync : Bool) :
    (s.follow u m next (.arrive code w dst sync)).allRels = s.allRels := by
  have h (t : Team) : (arriveAll u t code w dst (lanesOf m) { s with turn := max 1 s.turn }).1.allRels = s.allRels := allRels_arriveAll _ _ _ _ _ _ _
  cases sync
  · simp only [State.follow, Bool.false_eq_true, if_false]
    rw [State.allRels_onGroup _ _ (by intro; rfl), h]
  · simp only [State.follow, if_true, allRels_waitAll, h]

/-- What follows a publication leaves every release as it is. -/
theorem State.allRels_follow_pub (s : State) (u : Nat) (m : QWord) (next : DWord) (n : Nat) (addr : Word) :
    (s.follow u m next (.pub n addr)).allRels = s.allRels := by
  simp only [State.follow]
  rw [State.allRels_onGroup _ _ (by intro; rfl)]
  rfl

theorem State.allRels_snapNote (s : State) (u : Nat) : (s.snapNote u).allRels = s.allRels := by
  unfold State.snapNote; split <;> rfl

/-- A release that is over is in progress nowhere, when what follows it starts none. -/
theorem State.noRel_passRel {s : State} {m : QWord} {w : Nat} {cs : List (Nat × Core)} {gs : List Group} {scope : BitVec 2} {next : DWord} {cont : Cont}
    (hgs : ∀ g ∈ gs, ∀ r ∈ g.rels, r.id ≠ s.nextId) (hc : ∀ t : State, (t.follow s.grp.uid m next cont).allRels = t.allRels) (new : List Nat) :
    (((s.released m w cs gs).passRel scope m next cont).onGroup s.grp.uid (Group.waitNew s.nextId new)).noRel s.nextId := by
  have hpass : ((s.released m w cs gs).passRel scope m next cont).allRels = (s.released m w cs gs).allRels := by
    unfold State.passRel
    rw [show (s.released m w cs gs).grp.uid = s.grp.uid from rfl, hc]
    split
    · rfl
    · rw [State.allRels_snapNote]
  have hno : ((s.released m w cs gs).passRel scope m next cont).noRel s.nextId := by
    rw [State.noRel_iff, hpass, ← State.noRel_iff]
    intro g hg r hr
    rcases List.mem_cons.1 hg with rfl | hg
    · exact absurd hr List.not_mem_nil
    · exact hgs g hg r hr
  have hnew (g : Group) (hg : ∀ r ∈ g.rels, r.id ≠ s.nextId) : ∀ r ∈ (Group.waitNew s.nextId new g).rels, r.id ≠ s.nextId := by
    intro r hr
    obtain ⟨x, hx, rfl⟩ := List.mem_map.1 hr
    split <;> exact hg x hx
  have hif (c : Prop) [Decidable c] (g : Group) (hg : ∀ r ∈ g.rels, r.id ≠ s.nextId) : ∀ r ∈ (if c then Group.waitNew s.nextId new g else g).rels, r.id ≠ s.nextId := by
    split
    · exact hnew g hg
    · exact hg
  intro g hg
  rcases List.mem_cons.1 hg with rfl | hg
  · exact hif _ _ (hno _ List.mem_cons_self)
  · obtain ⟨y, hy, rfl⟩ := List.mem_map.1 hg
    exact hif _ _ (hno y (List.mem_cons_of_mem _ hy))

/-- A release that owes nothing and starts no other: what follows it has happened, to the issuing group with its lanes held. -/
theorem State.release_passes {s : State} {scope : BitVec 2} {m : QWord} {len : Nat} {cont : Cont} (h : nothingOwed s) (hc : cont.plain) (hp : cont ≠ .promote)
    (hrel : ∀ t : State, (t.follow s.grp.uid m (s.bundle.pc + BitVec.ofNat 64 len) cont).allRels = t.allRels) : ∃ w cs gs new, s.release scope m len cont =
    ((s.released m w cs gs).passRel scope m (s.bundle.pc + BitVec.ofNat 64 len) cont).onGroup s.grp.uid (Group.waitNew s.nextId new) := by
  obtain ⟨n, w, cs, gs, new, hn, heq⟩ := State.release_nothingOwed (scope := scope) (m := m) (len := len) h hc hp
  refine ⟨w, cs, gs, new, heq.trans ?_⟩
  rcases hn with rfl | hgs
  · rfl
  · exact relRun_of_noRel (State.noRel_passRel hgs hrel new) n

section
/-! Arrivals at a barrier (R46) -/

/-- The barrier after `n` arrivals, fewer than it expects. -/
def Bar.counted (b : Bar) (n : Nat) : Bar := { b with pending := b.pending - BitVec.ofNat 12 n }

/-- The barrier after its last arrival. -/
def Bar.flipped (b : Bar) : Bar := { b with phase := !b.phase, pending := b.expect, waiters := [] }

theorem Bar.toNat_counted {b : Bar} {n : Nat} (h : n ≤ b.pending.toNat) : (b.counted n).pending.toNat = b.pending.toNat - n := by
  have hb := b.pending.isLt
  simp only [Bar.counted, BitVec.toNat_sub, BitVec.toNat_ofNat]
  omega

theorem Bar.counted_zero (b : Bar) : b.counted 0 = b := by
  simp [Bar.counted]

theorem Bar.counted_counted (b : Bar) (n k : Nat) : (b.counted n).counted k = b.counted (n + k) := by
  simp only [Bar.counted, Bar.mk.injEq, and_true, true_and]
  apply BitVec.eq_of_toNat_eq
  simp only [BitVec.toNat_sub, BitVec.toNat_ofNat]
  omega

theorem Bar.flipped_counted (b : Bar) (n : Nat) : (b.counted n).flipped = b.flipped := rfl

theorem Bar.pending_counted_ne_zero {b : Bar} {n : Nat} (h : n < b.pending.toNat) : (b.counted n).pending ≠ 0 := by
  intro h0
  have := Bar.toNat_counted (Nat.le_of_lt h)
  rw [h0] at this
  simp at this
  omega

/-- Fewer arrivals than the barrier expects only count. -/
theorem countArrivals_of_lt {n : Nat} {b : Bar} (h : n < b.pending.toNat) : countArrivals n b = (b.counted n, false) := by
  induction n generalizing b with
  | zero => rw [Bar.counted_zero]; rfl
  | succ n ih =>
    have h0 : b.pending ≠ 0 := by rintro h0; simp [h0] at h
    have h1 : b.pending ≠ 1 := by rintro h1; simp [h1] at h
    have hlt : n < (b.counted 1).pending.toNat := by rw [Bar.toNat_counted (by omega)]; omega
    rw [countArrivals, if_neg h0, if_neg h1]
    exact (ih hlt).trans (by rw [Bar.counted_counted, Nat.add_comm])

/-- The last of the arrivals it expects flips it. -/
theorem countArrivals_of_eq {n : Nat} {b : Bar} (h : n = b.pending.toNat) (hn : 0 < n) : countArrivals n b = (b.flipped, true) := by
  induction n generalizing b with
  | zero => omega
  | succ n ih =>
    have h0 : b.pending ≠ 0 := by rintro h0; simp [h0] at h
    rw [countArrivals, if_neg h0]
    split
    · next h1 =>
      obtain rfl : n = 0 := by simpa [h1] using h
      rfl
    · next h1 =>
      have hn0 : 0 < n := by
        rcases Nat.eq_zero_or_pos n with rfl | hn0
        · exact absurd (BitVec.eq_of_toNat_eq (by simpa using h.symm)) h1
        · exact hn0
      have heq : n = (b.counted 1).pending.toNat := by rw [Bar.toNat_counted (by omega)]; omega
      exact ih heq hn0

variable {s : State} {t : Team} {code w : Nat}

theorem State.arrive_of_lt (h : w < (s.bar t code).pending.toNat) : s.arrive t code w = s.onBar t code (fun _ => (s.bar t code).counted w) := by
  simp [State.arrive, countArrivals_of_lt h]

theorem State.arrive_of_eq (h : w = (s.bar t code).pending.toNat) (hw : 0 < w) :
    s.arrive t code w = (s.onBar t code (fun _ => (s.bar t code).flipped)).flip t code := by
  simp [State.arrive, countArrivals_of_eq h hw]

@[simp] theorem State.onBar_grp (s : State) (t : Team) (code : Nat) (k : Bar → Bar) : (s.onBar t code k).grp = s.grp := by
  unfold State.onBar; split <;> rfl

@[simp] theorem State.onBar_cycle (s : State) (t : Team) (code : Nat) (k : Bar → Bar) : (s.onBar t code k).cycle = s.cycle := by
  unfold State.onBar; split <;> rfl

@[simp] theorem State.onBar_reqs (s : State) (t : Team) (code : Nat) (k : Bar → Bar) : (s.onBar t code k).reqs = s.reqs := by
  unfold State.onBar; split <;> rfl

@[simp] theorem State.onLane_bar (s : State) (u l : Nat) (k : Lane → Lane) : (s.onLane u l k).bar = s.bar := rfl

/-- A lane of the issuing group takes the phase `ph` as its token, if its instruction names a register. -/
def Lane.tokened (dst : Option Nat) (ph : Bool) (x : Lane) : Lane :=
  match dst with
  | some r => x.setReg r (if ph then 1 else 0)
  | none => x

theorem State.onLane_self_grp (s : State) (l : Nat) (k : Lane → Lane) :
    (s.onLane s.grp.uid l k).grp = { s.grp with lanes := mapLanes (fun i x => if i = l then k x else x) 0 s.grp.lanes } := by
  simp [State.onLane]

theorem State.onLane_grp {s : State} {u : Nat} (hu : s.grp.uid = u) (l : Nat) (k : Lane → Lane) :
    (s.onLane u l k).grp = { s.grp with lanes := mapLanes (fun i x => if i = l then k x else x) 0 s.grp.lanes } := by
  rw [← hu, State.onLane_self_grp]

/-- One lane's arrivals, as a change of the lane and then of the barrier. -/
theorem State.arriveLane_eq (s : State) (t : Team) (code w : Nat) (dst : Option Nat) (l : Nat) :
    s.arriveLane s.grp.uid t code w dst l = (s.onLane s.grp.uid l (Lane.tokened dst (s.bar t code).phase)).arrive t code w := by
  cases dst with
  | some r => rfl
  | none => rw [show Lane.tokened none (s.bar t code).phase = fun x => x from rfl, State.onLane_id]; rfl

/-- The lanes `ls` arrive, fewer times than the barrier expects: their tokens are its phase, and the arrivals count. -/
theorem arriveAll_of_lt {dst : Option Nat} {ls : List Nat} (hb : s.hasBar t code) (hls : ls.Nodup) (hlt : ls.length * w < (s.bar t code).pending.toNat) :
    ∃ s1, arriveAll s.grp.uid t code w dst ls s = (s1, ls.map (fun l => (l, (s.bar t code).phase))) ∧ s1.hasBar t code ∧ s1.cycle = s.cycle ∧
      s1.bar t code = (s.bar t code).counted (ls.length * w) ∧
      s1.grp = { s.grp with lanes := mapLanes (fun l x => if l ∈ ls then Lane.tokened dst (s.bar t code).phase x else x) 0 s.grp.lanes } := by
  induction ls generalizing s with
  | nil =>
    refine ⟨s, rfl, hb, rfl, by simp [Bar.counted_zero], ?_⟩
    rw [mapLanes_same (fun l x _ => by simp)]
  | cons l ls ih =>
    obtain ⟨hl, hls⟩ := List.nodup_cons.1 hls
    rw [List.length_cons, Nat.succ_mul] at hlt
    let s0 := s.onLane s.grp.uid l (Lane.tokened dst (s.bar t code).phase)
    have hbar0 : s0.bar t code = s.bar t code := rfl
    have hstep : s.arriveLane s.grp.uid t code w dst l = s0.onBar t code (fun _ => (s.bar t code).counted w) := by
      rw [State.arriveLane_eq, State.arrive_of_lt (by simp only [State.onLane_bar]; omega)]
      rfl
    let s1 := s0.onBar t code (fun _ => (s.bar t code).counted w)
    have hb0 : s0.hasBar t code := hb
    have hbar1 : s1.bar t code = (s.bar t code).counted w := State.bar_onBar hb0 _
    have huid : s1.grp.uid = s.grp.uid := by simp [s1, s0, State.onLane]
    obtain ⟨s2, h2, hb2, hc2, hbar2, hgrp2⟩ := ih (s := s1) (State.hasBar_onBar hb0 _) hls (by rw [hbar1, Bar.toNat_counted (by omega)]; omega)
    rw [huid] at h2
    refine ⟨s2, ?_, hb2, ?_, ?_, ?_⟩
    · simp only [arriveAll, hstep]
      rw [h2, hbar1]
      rfl
    · rw [hc2]; simp [s1, s0, State.onLane]
    · rw [hbar2, hbar1, Bar.counted_counted, List.length_cons, Nat.succ_mul, Nat.add_comm]
    · rw [hgrp2, hbar1]
      simp only [s1, State.onBar_grp, s0, State.onLane_self_grp, mapLanes_mapLanes]
      congr 1
      refine mapLanes_congr fun j x _ => ?_
      by_cases hj : j = l
      · subst hj; simp [hl]
      · simp [hj, Bar.counted]

end

section
variable {s : State} {t : Team} {code w : Nat}

theorem State.hasBar_flip (h : s.hasBar t code) : (s.flip t code).hasBar t code := h

theorem State.bar_flip (s : State) (t : Team) (code : Nat) : (s.flip t code).bar = s.bar := rfl

/-- A flip leaves the lanes of the issuing group that do not wait on the barrier. -/
theorem State.lane_flip {l : Nat} {x : Lane} (hx : s.grp.lanes[l]? = some x) (hhold : ∀ next, x.hold ≠ .barrier code next) :
    (s.flip t code).grp.lanes[l]? = some x := by
  have hw : (wakeBar s code s.grp).lanes[l]? = some x := by
    simp only [wakeBar, List.getElem?_map, hx, Option.map_some]
    split
    · next c next hc =>
      split
      · next he => subst he; exact absurd hc (hhold next)
      · rfl
    · rfl
  simp only [State.flip]
  split
  · exact hw
  · exact hx

theorem State.grp_flip (s : State) (t : Team) (code : Nat) : (s.flip t code).grp = { s.grp with lanes := (s.flip t code).grp.lanes } := by
  simp only [State.flip]
  split <;> rfl

theorem arriveAll_concat (u : Nat) (t : Team) (code w : Nat) (dst : Option Nat) (ls : List Nat) (l : Nat) (s : State) :
    arriveAll u t code w dst (ls ++ [l]) s =
      ((arriveAll u t code w dst ls s).1.arriveLane u t code w dst l,
        (arriveAll u t code w dst ls s).2 ++ [(l, ((arriveAll u t code w dst ls s).1.bar t code).phase)]) := by
  induction ls generalizing s with
  | nil => rfl
  | cons k ls ih => simp [arriveAll, ih]

theorem Lane.tokened_hold (dst : Option Nat) (ph : Bool) (x : Lane) : (Lane.tokened dst ph x).hold = x.hold := by
  cases dst <;> rfl

/-- The lanes `ls` bring the last arrivals that the barrier expects: their tokens are the phase that ends, and lanes that did not wait on the barrier only take them. -/
theorem arriveAll_of_eq {dst : Option Nat} {ls : List Nat} (hb : s.hasBar t code) (hls : ls.Nodup) (hw : 0 < w) (hne : ls ≠ [])
    (heq : ls.length * w = (s.bar t code).pending.toNat) :
    ∃ s1, arriveAll s.grp.uid t code w dst ls s = (s1, ls.map (fun l => (l, (s.bar t code).phase))) ∧ s1.hasBar t code ∧ s1.cycle = s.cycle ∧
      s1.bar t code = (s.bar t code).flipped ∧ s1.grp = { s.grp with lanes := s1.grp.lanes } ∧
      ∀ l x, s.grp.lanes[l]? = some x → (∀ next, x.hold ≠ .barrier code next) →
        s1.grp.lanes[l]? = some (if l ∈ ls then Lane.tokened dst (s.bar t code).phase x else x) := by
  obtain ⟨ls, l, rfl⟩ := (List.eq_nil_or_concat ls).resolve_left hne
  simp only [List.concat_eq_append] at hls heq ⊢
  obtain ⟨hnd, -, hdis⟩ := List.nodup_append.1 hls
  have hl : l ∉ ls := fun h => hdis l h l (List.mem_singleton_self l) rfl
  rw [List.length_append, List.length_singleton, Nat.succ_mul] at heq
  obtain ⟨s1, h1, hb1, hc1, hbar1, hgrp1⟩ := arriveAll_of_lt (dst := dst) (w := w) hb hnd (by omega)
  -- the last lane's arrivals flip the barrier
  have huid : s1.grp.uid = s.grp.uid := by rw [hgrp1]
  have hlast : w = (s1.bar t code).pending.toNat := by rw [hbar1, Bar.toNat_counted (by omega)]; omega
  let s2 := s1.onLane s.grp.uid l (Lane.tokened dst (s.bar t code).phase)
  let s3 := s2.onBar t code (fun _ => (s.bar t code).flipped)
  have hph : (s1.bar t code).phase = (s.bar t code).phase := by rw [hbar1]; rfl
  have hstep : s1.arriveLane s.grp.uid t code w dst l = s3.flip t code := by
    rw [← huid, State.arriveLane_eq, State.arrive_of_eq (by exact hlast) hw, hph, State.onLane_bar, hbar1, Bar.flipped_counted, huid]
  have hb2 : s2.hasBar t code := hb1
  have hgrp2 : s2.grp = { s1.grp with lanes := mapLanes (fun i x => if i = l then Lane.tokened dst (s.bar t code).phase x else x) 0 s1.grp.lanes } := by
    rw [← State.onLane_self_grp, huid]
  have hgrp3 : s3.grp = { s.grp with lanes := mapLanes (fun j x => if j ∈ ls ++ [l] then Lane.tokened dst (s.bar t code).phase x else x) 0 s.grp.lanes } := by
    simp only [s3, State.onBar_grp, hgrp2, hgrp1, mapLanes_mapLanes]
    congr 1
    refine mapLanes_congr fun j x _ => ?_
    by_cases hj : j = l
    · subst hj; simp [hl]
    · simp [hj]
  refine ⟨s3.flip t code, ?_, State.hasBar_flip (State.hasBar_onBar hb2 _), ?_, ?_, ?_, ?_⟩
  · rw [arriveAll_concat, h1, List.map_append]
    simp only [hstep, hph, List.map_cons, List.map_nil]
  · rw [show (s3.flip t code).cycle = s3.cycle from rfl, State.onBar_cycle]
    exact hc1
  · rw [State.bar_flip]
    exact State.bar_onBar hb2 _
  · rw [State.grp_flip, hgrp3]
  · intro j x hx hhold
    refine State.lane_flip ?_ ?_
    · rw [hgrp3, mapLanes_getElem?, hx, Nat.zero_add]
      rfl
    · split
      · rw [Lane.tokened_hold]; exact hhold
      · exact hhold

/-! Waits on a barrier (R46, R260) -/

/-- Lane `x` waits on barrier `code` until its phase flips. -/
def Lane.sleepOn (code : Nat) (next : DWord) (x : Lane) : Lane := { x with st := .barrier, hold := .barrier code next }

/-- What WAIT makes of a lane with token `tok` while the phase is `ph`: it sleeps, or passes at an acquire point. -/
def State.waitLane (s : State) (code : Nat) (ph : Bool) (next : DWord) (tok : Bool) (x : Lane) : Lane :=
  if ph = tok then x.sleepOn code next else { x.wake s.cycle next with acq := s.acquireSet s.grp }

/-- Lane `l` of the issuing group after WAIT with the tokens `toks`. -/
def State.waited (s : State) (code : Nat) (ph : Bool) (next : DWord) (toks : List (Nat × Bool)) (l : Nat) (x : Lane) : Lane :=
  match toks.find? (fun p => p.1 == l) with
  | some p => s.waitLane code ph next p.2 x
  | none => x

theorem State.waited_of_mem {ph : Bool} {next : DWord} {toks : List (Nat × Bool)} (hnd : (toks.map (fun p => p.1)).Nodup) {p : Nat × Bool} (hp : p ∈ toks) (x : Lane) :
    s.waited code ph next toks p.1 x = s.waitLane code ph next p.2 x := by
  have hfind : toks.find? (fun q => q.1 == p.1) = some p := by
    obtain ⟨q, hq⟩ := Option.isSome_iff_exists.1 (List.find?_isSome.2 ⟨p, hp, by simp⟩ : (toks.find? (fun q => q.1 == p.1)).isSome)
    have hqp : q.1 = p.1 := by simpa using List.find?_some hq
    rw [hq, List.inj_on_of_nodup_map hnd (List.mem_of_find?_eq_some hq) hp hqp]
  simp only [State.waited, hfind]

theorem State.waited_of_not_mem {ph : Bool} {next : DWord} {toks : List (Nat × Bool)} {l : Nat} (h : l ∉ toks.map (fun p => p.1)) (x : Lane) :
    s.waited code ph next toks l x = x := by
  have hfind : toks.find? (fun q => q.1 == l) = none := by
    rw [List.find?_eq_none]
    intro q hq hql
    exact h (List.mem_map.2 ⟨q, hq, by simpa using hql⟩)
  simp only [State.waited, hfind]

/-- One lane of WAIT. -/
def State.waitStep (s : State) (t : Team) (code : Nat) (next : DWord) (l : Nat) (tok : Bool) : State :=
  if (s.bar t code).phase = tok then s.sleepBar s.grp.uid t code next l
  else (s.onLane s.grp.uid l (fun x => x.wake s.cycle next)).acquire s.grp.uid (fun i => i == l)

theorem waitAll_cons (t : Team) (code : Nat) (next : DWord) (l : Nat) (tok : Bool) (toks : List (Nat × Bool)) (s : State) :
    waitAll s.grp.uid t code next ((l, tok) :: toks) s = waitAll s.grp.uid t code next toks (s.waitStep t code next l tok) := rfl

/-- A lane's WAIT sets at most a waiter bit of the barrier. -/
theorem State.waitStep_keeps (hb : s.hasBar t code) (next : DWord) (l : Nat) (tok : Bool) :
    (s.waitStep t code next l tok).hasBar t code ∧ (s.waitStep t code next l tok).cycle = s.cycle ∧ (s.waitStep t code next l tok).reqs = s.reqs ∧
      ((s.waitStep t code next l tok).bar t code).phase = (s.bar t code).phase ∧ ((s.waitStep t code next l tok).bar t code).pending = (s.bar t code).pending := by
  unfold State.waitStep
  split
  · simp only [State.sleepBar]
    exact ⟨State.hasBar_onBar hb _, State.onBar_cycle _ _ _ _, State.onBar_reqs _ _ _ _, by rw [State.onLane_bar, State.bar_onBar hb],
      by rw [State.onLane_bar, State.bar_onBar hb]⟩
  · exact ⟨hb, rfl, rfl, rfl, rfl⟩

theorem State.waitStep_grp (s : State) (t : Team) (code : Nat) (next : DWord) (l : Nat) (tok : Bool) : (s.waitStep t code next l tok).grp =
    { s.grp with lanes := mapLanes (fun i x => if i = l then s.waitLane code (s.bar t code).phase next tok x else x) 0 s.grp.lanes } := by
  unfold State.waitStep State.waitLane
  split
  · simp only [State.sleepBar]
    rw [State.onLane_grp (by rw [State.onBar_grp]), State.onBar_grp]
    rfl
  · simp only [State.acquire, State.onGroup_grp, State.onLane_self_grp, if_true, mapLanes_mapLanes, beq_iff_eq]
    congr 1
    refine mapLanes_congr fun j x _ => ?_
    rw [Nat.zero_add]
    by_cases hj : j = l
    · simp only [hj, if_true]
      rfl
    · simp only [hj, if_false]

/-- WAIT of the lanes with tokens: each sleeps or passes, and the barrier's phase and arrivals are as before. -/
theorem waitAll_eq {next : DWord} {toks : List (Nat × Bool)} (hb : s.hasBar t code) (hnd : (toks.map (fun p => p.1)).Nodup) :
    ((waitAll s.grp.uid t code next toks s).bar t code).phase = (s.bar t code).phase ∧
    ((waitAll s.grp.uid t code next toks s).bar t code).pending = (s.bar t code).pending ∧
    (waitAll s.grp.uid t code next toks s).grp = { s.grp with lanes := mapLanes (s.waited code (s.bar t code).phase next toks) 0 s.grp.lanes } := by
  induction toks generalizing s with
  | nil => exact ⟨rfl, rfl, by rw [mapLanes_same (fun _ _ _ => State.waited_of_not_mem List.not_mem_nil _)]; rfl⟩
  | cons p toks ih =>
    obtain ⟨l, tok⟩ := p
    obtain ⟨hl, hnd'⟩ := List.nodup_cons.1 hnd
    obtain ⟨hb1, hc1, hr1, hph1, hpend1⟩ := State.waitStep_keeps hb next l tok
    have hgrp1 := s.waitStep_grp t code next l tok
    obtain ⟨hph2, hpend2, hgrp2⟩ := ih hb1 hnd'
    have huid : (s.waitStep t code next l tok).grp.uid = s.grp.uid := by rw [hgrp1]
    have hacq : (s.waitStep t code next l tok).acquireSet (s.waitStep t code next l tok).grp = s.acquireSet s.grp := by
      unfold State.acquireSet State.opDone
      rw [hr1, hgrp1]
    rw [waitAll_cons, ← huid]
    refine ⟨hph2.trans hph1, hpend2.trans hpend1, hgrp2.trans ?_⟩
    rw [hph1, hgrp1]
    simp only [mapLanes_mapLanes]
    congr 1
    refine mapLanes_congr fun j x _ => ?_
    rw [Nat.zero_add]
    by_cases hj : j = l
    · subst hj
      rw [if_pos rfl, State.waited_of_not_mem hl]
      exact (State.waited_of_mem hnd List.mem_cons_self x).symm
    · have hlj : (l == j) = false := by simpa using fun h => hj h.symm
      rw [if_neg hj]
      simp only [State.waited, List.find?_cons, hlj, State.waitLane, hacq, hc1]

end

/-! BAR (R260) -/

theorem State.anyActive_of_nil {s : State} {gd : Guard} (h : s.actives gd = []) : s.anyActive gd = false := by
  simp [State.anyActive, State.elect, h]

theorem State.anyActive_of_ne_nil {s : State} {gd : Guard} (h : s.actives gd ≠ []) : s.anyActive gd = true := by
  rw [State.anyActive, State.elect, List.isSome_head?]
  simpa using h

section
variable {f : Fields} {s : State} {fn : BitVec 3} {h : State → State}

theorem barOp_of_none (he : entryStop ⟨0x2E, fn, 0⟩ f s = none) (hon : s.actives f.gd = []) : barOp fn f s h = .next (s.advance f.form.len) := by
  rw [barOp, run_go he]
  simp [State.anyActive_of_nil hon]

theorem barOp_beyond (he : entryStop ⟨0x2E, fn, 0⟩ f s = none) (hon : s.actives f.gd ≠ []) (hn : barCode f < 48) (hlen : s.myTeam.bars.length ≤ barCode f) :
    barOp fn f s h = .next (raise .bufrange s) := by
  rw [barOp, run_go he]
  simp [State.anyActive_of_ne_nil hon, barBeyond, hn, hlen]

theorem barBeyond_eq_false (hn : 48 ≤ barCode f ∨ barCode f < s.myTeam.bars.length) : barBeyond s.myTeam (barCode f) = false := by
  simp only [barBeyond, Bool.and_eq_false_iff, decide_eq_false_iff_not]
  omega

theorem barOp_acts (he : entryStop ⟨0x2E, fn, 0⟩ f s = none) (hon : s.actives f.gd ≠ []) (hn : 48 ≤ barCode f ∨ barCode f < s.myTeam.bars.length)
    (hfn : ¬(fn = 1 ∨ fn = 2)) : barOp fn f s h = .next (h s) := by
  rw [barOp, run_go he, if_neg (by simp [State.anyActive_of_ne_nil hon]), if_neg (by simp [barBeyond_eq_false hn]), if_neg hfn]

/-- WAIT and SYNC act when no poisoned arrival is noted for the barrier. -/
theorem barOp_waits (he : entryStop ⟨0x2E, fn, 0⟩ f s = none) (hon : s.actives f.gd ≠ []) (hn : 48 ≤ barCode f ∨ barCode f < s.myTeam.bars.length)
    (hfn : fn = 1 ∨ fn = 2) (hurt : ∀ e ∈ s.grp.hurt, e.1 ≠ barCode f ∨ e.1 = 63) : barOp fn f s h = .next (h s) := by
  have hnone : s.grp.hurt.find? (fun e => e.1 == barCode f && e.1 != 63) = none := by
    rw [List.find?_eq_none]
    intro e he'
    rcases hurt e he' with h | h <;> simp [h]
  rw [barOp, run_go he, if_neg (by simp [State.anyActive_of_ne_nil hon]), if_neg (by simp [barBeyond_eq_false hn]), if_pos hfn]
  simp only [hurtOr, hnone]

end

/-! Arrivals of a group that owes nothing -/

section
variable {s : State} {scope : BitVec 2} {m : QWord} {len code w : Nat} {dst : Option Nat} {sync : Bool}

/-- What follows an arrival. -/
def State.afterArrivals (s : State) (now : Nat) (t : Team) (code : Nat) (m : QWord) (next : DWord) (sync : Bool) (a : State × List (Nat × Bool)) : State :=
  if sync then waitAll s.grp.uid t code next a.2 a.1 else a.1.onGroup s.grp.uid (fun g => g.resume now m next)

theorem State.follow_arrive (s : State) (m : QWord) (next : DWord) : s.follow s.grp.uid m next (.arrive code w dst sync) =
    s.afterArrivals s.cycle s.myTeam code m next sync (arriveAll s.grp.uid s.myTeam code w dst (lanesOf m) { s with turn := max 1 s.turn }) := by
  simp only [State.follow, State.group, if_true, Option.map_some, Option.getD_some, State.myTeam, State.afterArrivals]

/-- The release of an arrival passes at once when nothing is owed: the lanes arrive while they are held. -/
theorem State.release_arrive (h : nothingOwed s) (hb : s.hasBar s.myTeam code) : ∃ s1, s1.grp.uid = s.grp.uid ∧ s1.cycle = s.cycle ∧
    s1.hasBar s.myTeam code ∧ s1.bar s.myTeam code = s.bar s.myTeam code ∧ s1.grp.lanes = mapLanes (heldFor m s.nextId) 0 s.grp.lanes ∧
    let u := s.afterArrivals s.cycle s.myTeam code m (s.bundle.pc + BitVec.ofNat 64 len) sync (arriveAll s.grp.uid s.myTeam code w dst (lanesOf m) s1)
    (s.release scope m len (.arrive code w dst sync)).bar = u.bar ∧ (s.release scope m len (.arrive code w dst sync)).grp.lanes = u.grp.lanes := by
  obtain ⟨wct, cs, gs, new, heq⟩ := State.release_passes (scope := scope) (m := m) (len := len) (cont := .arrive code w dst sync) h trivial (by simp)
    (fun t => t.allRels_follow_arrive _ _ _ _ _ _ _)
  let r := s.released m wct cs gs
  let r1 := if scope = 0 then r else r.snapNote s.grp.uid
  have hnote : r1.grp = r.grp ∧ r1.teams = r.teams ∧ r1.cycle = r.cycle ∧ r1.bar = r.bar ∧ r1.hasBar s.myTeam code := by
    simp only [r1]
    split
    · exact ⟨rfl, rfl, rfl, rfl, hb⟩
    · refine ⟨?_, ?_, ?_, State.bar_snapNote _ _, State.hasBar_snapNote _ _ _ _ hb⟩ <;> (unfold State.snapNote; split <;> rfl)
  obtain ⟨hgrp, hteams, hcycle, hbar, hb1⟩ := hnote
  have huid : r1.grp.uid = s.grp.uid := by rw [hgrp]; rfl
  have hteam : r1.myTeam = s.myTeam := by unfold State.myTeam State.team; rw [hgrp, hteams]; rfl
  refine ⟨{ r1 with turn := max 1 r1.turn }, huid, hcycle, hb1, ?_, by rw [show ({ r1 with turn := max 1 r1.turn } : State).grp = r.grp from hgrp]; rfl, ?_⟩
  · exact congrFun (congrFun hbar _) _
  · have hpass : r.passRel scope m (s.bundle.pc + BitVec.ofNat 64 len) (.arrive code w dst sync) =
        s.afterArrivals s.cycle s.myTeam code m (s.bundle.pc + BitVec.ofNat 64 len) sync
          (arriveAll s.grp.uid s.myTeam code w dst (lanesOf m) { r1 with turn := max 1 r1.turn }) := by
      unfold State.passRel
      rw [show r.grp.uid = s.grp.uid from rfl, show (if scope = 0 then r else r.snapNote s.grp.uid) = r1 from rfl, ← huid, State.follow_arrive, hteam, hcycle, huid]
      simp only [State.afterArrivals, huid]
      rfl
    rw [heq, hpass]
    refine ⟨rfl, ?_⟩
    rw [State.onGroup_grp]
    split <;> rfl

end

section
variable {f : Fields} {s : State} {l : Nat} {x : Lane}

theorem State.passFalse_lane (hx : s.grp.lanes[l]? = some x) : (s.passFalse f).grp.lanes[l]? =
    some (if s.inBundle l && !guardOf f.gd x then { x with pc := x.pc + BitVec.ofNat 64 f.form.len } else x) := by
  simp [State.passFalse, mapLanes_getElem?, hx]

/-- A guard-true lane is not touched while the others move past. -/
theorem State.passFalse_active (hx : s.grp.lanes[l]? = some x) (ha : s.active f.gd l x = true) : (s.passFalse f).grp.lanes[l]? = some x := by
  obtain ⟨-, hg⟩ := Bool.and_eq_true_iff.1 ha
  simp [State.passFalse_lane hx, hg]

/-- A change of the guard-true lanes after the others have moved past is a split of the bundle. -/
theorem moved_eq {k h : Nat → Lane → Lane} (hk : ∀ l x, s.grp.lanes[l]? = some x → s.active f.gd l x = true → k l x = h l x)
    (hid : ∀ l x y, s.grp.lanes[l]? = some x → s.active f.gd l x = false → k l y = y) :
    mapLanes k 0 (s.passFalse f).grp.lanes = moved s f h := by
  rw [State.passFalse, State.onLanes_grp_lanes, mapLanes_mapLanes, moved]
  refine mapLanes_congr fun j x hx => ?_
  simp only [Nat.zero_add]
  have ha : s.active f.gd j x = (s.inBundle j && guardOf f.gd x) := rfl
  cases hb : s.inBundle j <;> cases hg : guardOf f.gd x <;> simp only [hb, hg, Bool.and_true, Bool.and_false, Bool.and_self] at ha
  all_goals simp only [Bool.not_true, Bool.not_false, Bool.and_true, Bool.and_false, Bool.and_self, Bool.false_eq_true, if_true, if_false, reduceCtorEq]
  · exact hid j x _ hx ha
  · exact hid j x _ hx ha
  · exact hid j x _ hx ha
  · exact hk j x hx ha

end

theorem nothingOwed_onLanes {s : State} (h : nothingOwed s) (k : Nat → Lane → Lane) : nothingOwed (s.onLanes k) := by
  obtain ⟨hreqs, hdirty, hpart, hrels, hwct, hmaxW, hfresh⟩ := h
  refine ⟨hreqs, hdirty, hpart, hrels, hwct, hmaxW, fun g hg => ?_⟩
  rcases List.mem_cons.1 hg with rfl | hg
  · exact hfresh s.grp List.mem_cons_self
  · exact hfresh g (List.mem_cons_of_mem _ hg)

/-! What the arrivals of a bundle give -/

section
variable {f : Fields} {s : State} {scope : BitVec 2} {code w : Nat} {dst : Option Nat}

theorem State.mem_lanesOf_activeMask {l : Nat} {x : Lane} (hx : s.grp.lanes[l]? = some x) : l ∈ lanesOf (s.activeMask f.gd) ↔ s.active f.gd l x = true := by
  rw [mem_lanesOf, State.getLsbD_activeMask hx]

/-- The guard-true lanes of a bundle that owes nothing arrive while they are held. -/
theorem State.bundle_arrives {sync : Bool} (h : nothingOwed s) (hb : s.hasBar s.myTeam code) : ∃ s1, s1.grp.uid = s.grp.uid ∧ s1.cycle = s.cycle ∧
    s1.hasBar s.myTeam code ∧ s1.bar s.myTeam code = s.bar s.myTeam code ∧
    s1.grp.lanes = mapLanes (heldFor (s.activeMask f.gd) s.nextId) 0 (s.passFalse f).grp.lanes ∧
    let t := (s.passFalse f).release scope (s.activeMask f.gd) f.form.len (.arrive code w dst sync)
    let u := s.afterArrivals s.cycle s.myTeam code (s.activeMask f.gd) (s.bundle.pc + BitVec.ofNat 64 f.form.len) sync
      (arriveAll s.grp.uid s.myTeam code w dst (lanesOf (s.activeMask f.gd)) s1)
    t.bar = u.bar ∧ t.grp.lanes = u.grp.lanes :=
  State.release_arrive (s := s.passFalse f) (nothingOwed_onLanes h _) hb

/-- A guard-true lane while it is held. -/
theorem heldFor_active {l id : Nat} {x : Lane} (hx : s.grp.lanes[l]? = some x) (ha : s.active f.gd l x = true) :
    heldFor (s.activeMask f.gd) id l x = { x with st := .counting, hold := .release id } := by
  simp [heldFor, State.getLsbD_activeMask hx, ha]

/-- Lanes that arrive while more arrivals are expected take their tokens and move past. -/
theorem State.arrive_few (h : nothingOwed s) (hb : s.hasBar s.myTeam code) (hlt : (s.actives f.gd).length * w < (s.bar s.myTeam code).pending.toNat) :
    let t := (s.passFalse f).release scope (s.activeMask f.gd) f.form.len (.arrive code w dst false)
    t.bar s.myTeam code = (s.bar s.myTeam code).counted ((s.actives f.gd).length * w) ∧ t.grp.lanes = moved s f (fun _ x =>
      (Lane.tokened dst (s.bar s.myTeam code).phase x).wake s.cycle (s.bundle.pc + BitVec.ofNat 64 f.form.len)) := by
  intro t
  obtain ⟨s1, huid, -, hb1, hbar1, hlanes1, hbar, hlanes⟩ := State.bundle_arrives (f := f) (scope := scope) (w := w) (dst := dst) (sync := false) h hb
  rw [← s.length_lanesOf_activeMask] at hlt ⊢
  obtain ⟨s2, h2, -, -, hbar2, hgrp2⟩ := arriveAll_of_lt (dst := dst) hb1 (nodup_lanesOf _) (by rw [hbar1]; exact hlt)
  rw [huid] at h2
  rw [h2] at hbar hlanes
  refine ⟨?_, ?_⟩
  · rw [congrFun (congrFun hbar _) _]
    exact hbar2.trans (by rw [hbar1])
  · have hu2 : s2.grp.uid = s.grp.uid := by rw [hgrp2]; exact huid
    rw [hlanes]
    simp only [State.afterArrivals, Bool.false_eq_true, if_false, State.onGroup_grp, if_pos hu2, Group.resume]
    rw [hgrp2, hlanes1, mapLanes_mapLanes, mapLanes_mapLanes, hbar1]
    refine moved_eq (fun l x hx ha => ?_) (fun l x y hx ha => ?_)
    · simp only [heldFor, State.mem_lanesOf_activeMask hx, State.getLsbD_activeMask hx, ha, if_true]
      cases dst <;> rfl
    · simp only [heldFor, State.mem_lanesOf_activeMask hx, State.getLsbD_activeMask hx, ha, Bool.false_eq_true, if_false]

/-- Lanes that bring the last arrivals take the phase that ended and move past; the barrier flips. -/
theorem State.arrive_last (h : nothingOwed s) (hb : s.hasBar s.myTeam code) (hw : 0 < w) (hon : s.actives f.gd ≠ [])
    (heq : (s.actives f.gd).length * w = (s.bar s.myTeam code).pending.toNat) :
    let t := (s.passFalse f).release scope (s.activeMask f.gd) f.form.len (.arrive code w dst false)
    t.bar s.myTeam code = (s.bar s.myTeam code).flipped ∧ ∀ p ∈ s.actives f.gd, ∃ y : Lane, y.v = p.2.v ∧
      t.laneAt p.1 = (Lane.tokened dst (s.bar s.myTeam code).phase y).wake s.cycle (s.bundle.pc + BitVec.ofNat 64 f.form.len) := by
  intro t
  obtain ⟨s1, huid, -, hb1, hbar1, hlanes1, hbar, hlanes⟩ := State.bundle_arrives (f := f) (scope := scope) (w := w) (dst := dst) (sync := false) h hb
  have hlen := s.length_lanesOf_activeMask f.gd
  rw [← hlen] at heq
  obtain ⟨s2, h2, -, -, hbar2, hgrp2, hkeep⟩ := arriveAll_of_eq (dst := dst) hb1 (nodup_lanesOf (s.activeMask f.gd)) hw
    (by rw [← List.length_pos_iff, hlen, List.length_pos_iff]; exact hon) (by rw [hbar1]; exact heq)
  rw [huid] at h2
  rw [h2] at hbar hlanes
  refine ⟨?_, ?_⟩
  · rw [congrFun (congrFun hbar _) _]
    exact hbar2.trans (by rw [hbar1])
  · intro p hp
    obtain ⟨hx, ha⟩ := State.mem_actives.1 hp
    refine ⟨heldFor (s.activeMask f.gd) s.nextId p.1 p.2, ?_, State.laneAt_of_getElem? ?_⟩
    · simp [heldFor, State.getLsbD_activeMask hx, ha]
    have hu2 : s2.grp.uid = s.grp.uid := by rw [hgrp2]; exact huid
    have hheld : s1.grp.lanes[p.1]? = some (heldFor (s.activeMask f.gd) s.nextId p.1 p.2) := by
      rw [hlanes1, mapLanes_getElem?, State.passFalse_active hx ha, Nat.zero_add]
      rfl
    have h2 := hkeep p.1 _ hheld (fun next => by simp [heldFor, State.getLsbD_activeMask hx, ha])
    rw [hlanes]
    simp only [State.afterArrivals, Bool.false_eq_true, if_false, State.onGroup_grp, if_pos hu2, Group.resume]
    rw [mapLanes_getElem?, h2, if_pos ((State.mem_lanesOf_activeMask hx).2 ha), hbar1]
    simp only [Option.map_some, Nat.zero_add, State.getLsbD_activeMask hx, ha, if_true]

/-- The lanes of SYNC with their tokens. -/
theorem State.mem_tokens {p : Nat × Lane} (hp : p ∈ s.actives f.gd) (ph : Bool) : (p.1, ph) ∈ (lanesOf (s.activeMask f.gd)).map (fun l => (l, ph)) := by
  obtain ⟨hx, ha⟩ := State.mem_actives.1 hp
  exact List.mem_map.2 ⟨p.1, (State.mem_lanesOf_activeMask hx).2 ha, rfl⟩

theorem nodup_tokens (ls : List Nat) (hls : ls.Nodup) (ph : Bool) : ((ls.map (fun l => (l, ph))).map (fun p => p.1)).Nodup := by
  rw [List.map_map]
  simpa [Function.comp_def] using hls

/-- A lane that waits with its token. -/
theorem waitAll_laneAt {u : State} {t : Team} {next : DWord} {toks : List (Nat × Bool)} (hb : u.hasBar t code) (hnd : (toks.map (fun p => p.1)).Nodup)
    {p : Nat × Bool} (hp : p ∈ toks) {y : Lane} (hy : u.grp.lanes[p.1]? = some y) :
    (waitAll u.grp.uid t code next toks u).grp.lanes[p.1]? = some (u.waitLane code (u.bar t code).phase next p.2 y) := by
  obtain ⟨-, -, hgrp⟩ := waitAll_eq (next := next) hb hnd
  rw [hgrp, mapLanes_getElem?, hy, Nat.zero_add, Option.map_some, State.waited_of_mem hnd hp]

/-- Lanes that synchronise while more arrivals are expected wait on the barrier. -/
theorem State.sync_few (h : nothingOwed s) (hb : s.hasBar s.myTeam code) (hlt : (s.actives f.gd).length * w < (s.bar s.myTeam code).pending.toNat) :
    let t := (s.passFalse f).release scope (s.activeMask f.gd) f.form.len (.arrive code w none true)
    (t.bar s.myTeam code).pending = (s.bar s.myTeam code).pending - BitVec.ofNat 12 ((s.actives f.gd).length * w) ∧
      (t.bar s.myTeam code).phase = (s.bar s.myTeam code).phase ∧
      ∀ p ∈ s.actives f.gd, (t.laneAt p.1).st = .barrier ∧ (t.laneAt p.1).hold = .barrier code (s.bundle.pc + BitVec.ofNat 64 f.form.len) := by
  intro t
  obtain ⟨s1, huid, hcyc, hb1, hbar1, hlanes1, hbar, hlanes⟩ := State.bundle_arrives (f := f) (scope := scope) (w := w) (dst := none) (sync := true) h hb
  rw [← s.length_lanesOf_activeMask] at hlt ⊢
  obtain ⟨s2, h2, hb2, -, hbar2, hgrp2⟩ := arriveAll_of_lt (dst := none) hb1 (nodup_lanesOf _) (by rw [hbar1]; exact hlt)
  have hu2 : s2.grp.uid = s.grp.uid := by rw [hgrp2]; exact huid
  rw [hbar1] at hbar2 h2
  rw [huid] at h2
  rw [h2] at hbar hlanes
  have hnd := nodup_tokens _ (nodup_lanesOf (s.activeMask f.gd)) (s.bar s.myTeam code).phase
  obtain ⟨hph3, hpend3, -⟩ := waitAll_eq (next := s.bundle.pc + BitVec.ofNat 64 f.form.len) hb2 hnd
  rw [hu2, hbar2] at hph3 hpend3
  refine ⟨?_, ?_, ?_⟩
  · rw [congrFun (congrFun hbar _) _]
    exact hpend3
  · rw [congrFun (congrFun hbar _) _]
    exact hph3
  · intro p hp
    obtain ⟨hx, ha⟩ := State.mem_actives.1 hp
    have hy : s2.grp.lanes[p.1]? = some (heldFor (s.activeMask f.gd) s.nextId p.1 p.2) := by
      rw [hgrp2, hlanes1, mapLanes_mapLanes, mapLanes_getElem?, State.passFalse_active hx ha, Nat.zero_add, Option.map_some]
      split <;> rfl
    have hlane := waitAll_laneAt (next := s.bundle.pc + BitVec.ofNat 64 f.form.len) hb2 hnd (State.mem_tokens hp _) hy
    rw [hu2, hbar2, State.waitLane, if_pos (by rfl)] at hlane
    rw [State.laneAt_of_getElem? (hlanes ▸ hlane)]
    exact ⟨rfl, rfl⟩

/-- Lanes that bring the last arrivals pass; the barrier flips. -/
theorem State.sync_last (h : nothingOwed s) (hb : s.hasBar s.myTeam code) (hw : 0 < w) (hon : s.actives f.gd ≠ [])
    (heq : (s.actives f.gd).length * w = (s.bar s.myTeam code).pending.toNat) :
    let t := (s.passFalse f).release scope (s.activeMask f.gd) f.form.len (.arrive code w none true)
    (t.bar s.myTeam code).pending = (s.bar s.myTeam code).expect ∧ (t.bar s.myTeam code).phase = !(s.bar s.myTeam code).phase ∧
      ∀ p ∈ s.actives f.gd, (t.laneAt p.1).st = .eligible ∧ (t.laneAt p.1).pc = s.bundle.pc + BitVec.ofNat 64 f.form.len := by
  intro t
  obtain ⟨s1, huid, hcyc, hb1, hbar1, hlanes1, hbar, hlanes⟩ := State.bundle_arrives (f := f) (scope := scope) (w := w) (dst := none) (sync := true) h hb
  have hlen := s.length_lanesOf_activeMask f.gd
  rw [← hlen] at heq
  obtain ⟨s2, h2, hb2, -, hbar2, hgrp2, hkeep⟩ := arriveAll_of_eq (dst := none) hb1 (nodup_lanesOf (s.activeMask f.gd)) hw
    (by rw [← List.length_pos_iff, hlen, List.length_pos_iff]; exact hon) (by rw [hbar1]; exact heq)
  have hu2 : s2.grp.uid = s.grp.uid := by rw [hgrp2]; exact huid
  rw [hbar1] at hbar2 h2
  rw [huid] at h2
  rw [h2] at hbar hlanes
  have hnd := nodup_tokens _ (nodup_lanesOf (s.activeMask f.gd)) (s.bar s.myTeam code).phase
  obtain ⟨hph3, hpend3, -⟩ := waitAll_eq (next := s.bundle.pc + BitVec.ofNat 64 f.form.len) hb2 hnd
  rw [hu2, hbar2] at hph3 hpend3
  refine ⟨?_, ?_, ?_⟩
  · rw [congrFun (congrFun hbar _) _]
    exact hpend3
  · rw [congrFun (congrFun hbar _) _]
    exact hph3
  · intro p hp
    obtain ⟨hx, ha⟩ := State.mem_actives.1 hp
    have hheld : s1.grp.lanes[p.1]? = some { p.2 with st := .counting, hold := .release s.nextId } := by
      rw [hlanes1, mapLanes_getElem?, State.passFalse_active hx ha, Nat.zero_add, Option.map_some, heldFor_active hx ha]
    have hy := hkeep p.1 _ hheld (fun next => by simp)
    have hlane := waitAll_laneAt (next := s.bundle.pc + BitVec.ofNat 64 f.form.len) hb2 hnd (State.mem_tokens hp _) hy
    rw [hu2, hbar2, State.waitLane, if_neg (by simp [Bar.flipped])] at hlane
    rw [State.laneAt_of_getElem? (hlanes ▸ hlane)]
    exact ⟨rfl, rfl⟩

end

section
variable {f : Fields} {s : State}

theorem State.acquire_lanes {s : State} {u : Nat} (hu : s.grp.uid = u) (p : Nat → Bool) :
    (s.acquire u p).grp.lanes = mapLanes (fun l x => if p l then { x with acq := s.acquireSet s.grp } else x) 0 s.grp.lanes := by
  simp only [State.acquire, State.onGroup_grp, if_pos hu]

/-- BAR TEST tells each guard-true lane whether its token's phase has ended (R260). -/
theorem barTest_acts (he : entryStop ⟨0x2E, 5, 0⟩ f s = none) (hon : s.actives f.gd ≠ []) (hn : 48 ≤ barCode f ∨ barCode f < s.myTeam.bars.length)
    {p : BitVec 4} (hd : f.d = .prd p) : ∃ t, exec (.barTest f) s = .next t ∧ t.mem = s.mem ∧ t.teams = s.teams ∧ t.clusters = s.clusters ∧
      t.grp.lanes = moved s f (fun _ x =>
        let hit := (s.bar s.myTeam (barCode f)).phase != (wordOf s.grp .un32 f.a x).getLsbD 0
        let y := { x.setPred p.toNat hit with pc := x.pc + BitVec.ofNat 64 f.form.len }
        if hit then { y with acq := s.acquireSet s.grp } else y) := by
  refine ⟨_, barOp_acts he hon hn (by decide), rfl, rfl, rfl, ?_⟩
  rw [State.acquire_lanes (by rfl)]
  simp only [State.lanewise, State.onLanes_grp_lanes, mapLanes_mapLanes, moved]
  refine mapLanes_congr fun j x hx => ?_
  have htest : tested s f x = ((s.bar s.myTeam (barCode f)).phase != (wordOf s.grp .un32 f.a x).getLsbD 0) := rfl
  rw [Nat.zero_add, State.laneAt_of_getElem? hx, ← htest, hd]
  cases hb : s.inBundle j with
  | false => simp [State.active, hb]
  | true =>
    cases hg : guardOf f.gd x with
    | false => simp [State.active, hb, hg]
    | true => cases ht : tested s f x <;> simp only [State.active, hb, hg, dstVal] <;> rfl

/-- BAR WAIT holds the lanes whose token is the current phase in BARRIER; the others pass (R260). -/
theorem barWait_acts (he : entryStop ⟨0x2E, 1, 0⟩ f s = none) (hon : s.actives f.gd ≠ []) (hn : 48 ≤ barCode f ∨ barCode f < s.myTeam.bars.length)
    (hurt : ∀ e ∈ s.grp.hurt, e.1 ≠ barCode f ∨ e.1 = 63) (hb : s.hasBar s.myTeam (barCode f)) : ∃ t, exec (.barWait f) s = .next t ∧ t.mem = s.mem ∧
      (t.bar s.myTeam (barCode f)).phase = (s.bar s.myTeam (barCode f)).phase ∧ (t.bar s.myTeam (barCode f)).pending = (s.bar s.myTeam (barCode f)).pending ∧
      t.grp.lanes = moved s f (fun _ x => s.waitLane (barCode f) (s.bar s.myTeam (barCode f)).phase (s.bundle.pc + BitVec.ofNat 64 f.form.len)
        ((wordOf s.grp .un32 f.a x).getLsbD 0) x) := by
  let toks := (s.actives f.gd).map (fun p => (p.1, (wordOf s.grp .un32 f.a p.2).getLsbD 0))
  let next := s.bundle.pc + BitVec.ofNat 64 f.form.len
  have hnd : (toks.map (fun p => p.1)).Nodup := by
    rw [List.map_map]
    exact s.nodup_actives f.gd
  have hexec : exec (.barWait f) s = .next (waitAll s.grp.uid s.myTeam (barCode f) next toks (s.passFalse f)) := barOp_waits he hon hn (Or.inl rfl) hurt
  obtain ⟨hph, hpend, hgrp⟩ := waitAll_eq (s := s.passFalse f) (t := s.myTeam) (code := barCode f) (next := next) (toks := toks) hb hnd
  refine ⟨_, hexec, execBarWait_keepsMem f s _ hexec, hph, hpend, ?_⟩
  rw [show (waitAll s.grp.uid s.myTeam (barCode f) next toks (s.passFalse f)).grp = _ from hgrp]
  refine moved_eq (fun l x hx ha => ?_) (fun l x y hx ha => ?_)
  · have hp : (l, (wordOf s.grp .un32 f.a x).getLsbD 0) ∈ toks := List.mem_map.2 ⟨(l, x), State.mem_actives.2 ⟨hx, ha⟩, rfl⟩
    exact State.waited_of_mem hnd hp x
  · refine State.waited_of_not_mem (fun hl => ?_) y
    obtain ⟨_, hq, rfl⟩ := List.mem_map.1 hl
    obtain ⟨p, hp, rfl⟩ := List.mem_map.1 hq
    obtain ⟨hx', ha'⟩ := State.mem_actives.1 hp
    obtain rfl : x = p.2 := Option.some.inj (hx.symm.trans hx')
    exact absurd ha' (by simp [ha])

theorem barWeight_pos (f : Fields) : 0 < barWeight f := by
  unfold barWeight
  split
  · exact Nat.one_pos
  · next h => exact Nat.pos_of_ne_zero h

/-- The barrier object of a code within the allotment of a team that is resident, with its cluster. -/
theorem State.hasBar_of_there {s : State} {code : Nat}
    (h : s.myTeam.uid = s.grp.team ∧ s.teams.find? (fun x => x.uid == s.grp.team) = some s.myTeam ∧
      (48 ≤ code → s.clusters.any (fun c => c.uid == s.myTeam.cluster) = true ∧ code - 48 < (s.clusterOf s.myTeam).bars.length) ∧
      (code < 48 → code < s.myTeam.bars.length)) : s.hasBar s.myTeam code := by
  obtain ⟨huid, hteam, hcl, hlt⟩ := h
  unfold State.hasBar
  split
  · next hc => exact ⟨s.myTeam, by rw [huid]; exact hteam, hlt hc⟩
  · next hc =>
    obtain ⟨hany, hlen⟩ := hcl (by omega)
    obtain ⟨c, hcmem, hcu⟩ := List.any_eq_true.1 hany
    obtain ⟨y, hy⟩ := Option.isSome_iff_exists.1 (List.find?_isSome.2 ⟨c, hcmem, hcu⟩ : (s.clusters.find? (fun c => c.uid == s.myTeam.cluster)).isSome)
    refine ⟨y, hy, ?_⟩
    simpa [State.clusterOf, hy] using hlen

end

/-- Settles O42: ARRIVE and SYNC are arrivals that follow a release, which passes at once when nothing is owed. -/
theorem barriers : Obligations.Barriers := by
  unfold Obligations.Barriers
  intro f s hm on len t0 n b count past ph tok unhurt there
  refine ⟨fun c hc he => ⟨fun hon => ?_, fun hon hn hlen => ?_⟩, fun hon hn => ⟨fun he => ?_, fun he => ?_, fun he p hd => ?_, fun he hu ht => ?_, fun ht howed _ => ?_⟩⟩
  · simp only [List.mem_cons, List.not_mem_nil, or_false] at hc
    rcases hc with rfl | rfl | rfl | rfl | rfl | rfl <;> exact barOp_of_none he hon
  · simp only [List.mem_cons, List.not_mem_nil, or_false] at hc
    rcases hc with rfl | rfl | rfl | rfl | rfl | rfl <;> exact barOp_beyond he hon hn hlen
  · exact barOp_acts he hon hn (by decide)
  · exact barOp_acts he hon hn (by decide)
  · exact barTest_acts he hon hn hd
  · exact barWait_acts he hon hn hu (State.hasBar_of_there ht)
  · have hb := State.hasBar_of_there ht
    refine ⟨fun he d hd => ⟨fun hlt => ?_, fun heq => ?_⟩, fun he hu => ⟨fun hlt => ?_, fun heq => ?_⟩⟩
    · have hexec : exec (.barArrive f) s = _ := barOp_acts he hon hn (by decide)
      obtain ⟨hbar, hlanes⟩ := State.arrive_few (scope := barScope f) (dst := some (vecNum f.d)) howed hb hlt
      refine ⟨_, hexec, execBarArrive_keepsMem f s _ hexec, ?_, ?_, hlanes.trans ?_⟩
      · rw [hbar]; rfl
      · rw [hbar]; rfl
      · rw [hd]; rfl
    · have hexec : exec (.barArrive f) s = _ := barOp_acts he hon hn (by decide)
      obtain ⟨hbar, hlanes⟩ := State.arrive_last (scope := barScope f) (dst := some (vecNum f.d)) howed hb (barWeight_pos f) hon heq
      refine ⟨_, hexec, execBarArrive_keepsMem f s _ hexec, ?_, ?_, fun p hp => ?_⟩
      · rw [hbar]; rfl
      · rw [hbar]; rfl
      · obtain ⟨y, hy, hlane⟩ := hlanes p hp
        rw [hlane, hd]
        exact ⟨rfl, congrArg (fun v => sput 0 v d.toNat ph) hy⟩
    · have hexec : exec (.barSync f) s = _ := barOp_waits he hon hn (Or.inr rfl) hu
      exact ⟨_, hexec, execBarSync_keepsMem f s _ hexec, State.sync_few howed hb hlt⟩
    · have hexec : exec (.barSync f) s = _ := barOp_waits he hon hn (Or.inr rfl) hu
      exact ⟨_, hexec, execBarSync_keepsMem f s _ hexec, State.sync_last howed hb (barWeight_pos f) hon heq⟩

end Sys2Proof.Machine
end

section
/-! Rings: what a slot's taker and giver leave, the RING operations and the waking of waiters, and `Obligations.Rings`. -/

namespace Sys2Proof.Machine

/-! Slots of a ring (R47) -/

/-- What was put is found, whatever stood there. -/
theorem sget_sput_self {β : Type} [DecidableEq β] {d x : β} (m : Sparse β) (k : Nat) (hx : x ≠ d) : sget d (sput d m k x) k = x := by
  induction m with
  | nil => simp [sput, sget, hx]
  | cons p m ih =>
    obtain ⟨a, y⟩ := p
    by_cases hlt : k < a
    · simp [sput, sget, hlt, hx]
    · by_cases heq : k = a
      · simp [sput, sget, heq, hx]
      · simp [sput, sget, hlt, heq, Ne.symm heq, ih]

/-- The done slots at the front of the held ones. -/
theorem doneRun_spec (l : List (Nat × Bool)) :
    (doneRun l).2 = l.drop (doneRun l).1 ∧ (∀ p ∈ l.take (doneRun l).1, p.2 = true) ∧ ∀ p, (doneRun l).2.head? = some p → p.2 = false := by
  induction l with
  | nil => simp [doneRun]
  | cons q l ih =>
    obtain ⟨k, d⟩ := q
    obtain ⟨hdrop, htake, hhead⟩ := ih
    cases d with
    | true => exact ⟨hdrop, by simpa [doneRun] using htake, hhead⟩
    | false => simp [doneRun]

theorem Ring.after_eq (r : Ring) (k : BitVec 7) : r.after k = if k.toNat = r.nslotm1.toNat then 0 else k + 1 := by
  simp only [Ring.after, Ring.slots, Nat.add_right_cancel_iff]

theorem Ring.take_reader (r : Ring) (h : r.filled ≠ 0) : r.take true =
    some (r.tail.toNat, { r with filled := r.filled - 1, tail := r.after r.tail, readers := r.readers ++ [(r.tail.toNat, false)] }) := by
  simp only [Ring.take, if_true, if_neg h]

theorem Ring.take_writer (r : Ring) (h : r.free ≠ 0) : r.take false =
    some (r.head.toNat, { r with free := r.free - 1, head := r.after r.head, writers := r.writers ++ [(r.head.toNat, false)] }) := by
  simp only [Ring.take, Bool.false_eq_true, if_false, if_neg h]

theorem Ring.take_none (r : Ring) (reader : Bool) (h : (if reader then r.filled else r.free) = 0) : r.take reader = none := by
  cases reader <;> simpa [Ring.take] using h

/-- The held slot at an address. -/
theorem Ring.heldAt_some {r : Ring} {reader : Bool} {a : Word} {k : Nat} (h : r.heldAt reader a = some k) :
    r.slotAddr k = a ∧ (k, false) ∈ (if reader then r.readers else r.writers) := by
  obtain ⟨p, hp, rfl⟩ := Option.map_eq_some_iff.1 h
  have hcond := List.find?_some hp
  simp only [Bool.and_eq_true, beq_iff_eq, Bool.not_eq_true'] at hcond
  obtain ⟨haddr, hdone⟩ := hcond
  refine ⟨haddr, ?_⟩
  rw [← hdone]
  exact List.mem_of_find?_eq_some hp

theorem any_held {k : Nat} {l : List (Nat × Bool)} (h : (k, false) ∈ l) : l.any (fun p => p.1 == k && !p.2) = true :=
  List.any_eq_true.2 ⟨_, h, by simp⟩

/-- The held slots of a role with slot `k` marked done. -/
def markDone (k : Nat) (l : List (Nat × Bool)) : List (Nat × Bool) := updFirst (fun p => p.1 == k && !p.2) (fun p => (p.1, true)) l

theorem Ring.give_reader {r : Ring} {k : Nat} (h : (k, false) ∈ r.readers) : r.give true k =
    some { r with readers := (doneRun (markDone k r.readers)).2, free := r.free + BitVec.ofNat 8 (doneRun (markDone k r.readers)).1 } := by
  simp [Ring.give, any_held h, markDone]

theorem Ring.give_writer {r : Ring} {k : Nat} (h : (k, false) ∈ r.writers) : r.give false k =
    some { r with writers := (doneRun (markDone k r.writers)).2, filled := r.filled + BitVec.ofNat 8 (doneRun (markDone k r.writers)).1 } := by
  simp [Ring.give, any_held h, markDone]

theorem Ring.word0_eq (r : Ring) : r.word0 =
    BitVec.ofNat 64 (r.base.toNat + r.slotlog.toNat * 2 ^ 32 + r.nslotm1.toNat * 2 ^ 36 + r.free.toNat * 2 ^ 43 + r.filled.toNat * 2 ^ 51) := by
  apply BitVec.eq_of_toNat_eq
  have h1 := r.base.isLt
  have h2 := r.slotlog.isLt
  have h3 := r.nslotm1.isLt
  have h4 := r.free.isLt
  have h5 := r.filled.isLt
  simp only [Ring.word0, BitVec.toNat_append, BitVec.toNat_ofNat]
  rw [← Nat.shiftLeft_add_eq_or_of_lt h1, ← Nat.shiftLeft_add_eq_or_of_lt h2, ← Nat.shiftLeft_add_eq_or_of_lt h3, ← Nat.shiftLeft_add_eq_or_of_lt h4,
    ← Nat.shiftLeft_add_eq_or_of_lt h5]
  simp only [Nat.shiftLeft_eq]
  omega

/-! RING (R261) -/

section
variable {f : Fields} {s : State} {fn : BitVec 3} {h : Ring → State → State}

theorem ringOp_of_none (he : entryStop ⟨0x2F, fn, 0⟩ f s = none) (hon : s.actives f.gd = []) : ringOp fn f s h = .next (s.advance f.form.len) := by
  rw [ringOp, run_go he]
  simp [State.anyActive_of_nil hon]

theorem ringOp_beyond (he : entryStop ⟨0x2F, fn, 0⟩ f s = none) (hon : s.actives f.gd ≠ []) (hn : s.myTeam.rings.length ≤ ringNum f) :
    ringOp fn f s h = .next (raise .bufrange s) := by
  rw [ringOp, run_go he]
  simp [State.anyActive_of_ne_nil hon, hn]

theorem ringOp_acts (he : entryStop ⟨0x2F, fn, 0⟩ f s = none) (hon : s.actives f.gd ≠ []) (hn : ringNum f < s.myTeam.rings.length) :
    ringOp fn f s h = .next (h (s.myTeam.ring (ringNum f)) s) := by
  rw [ringOp, run_go he, if_neg (by simp [State.anyActive_of_ne_nil hon]), if_neg (by omega)]

end

section
variable {f : Fields} {s : State} {reader : Bool}

/-- A change of the guard-true lanes after the whole bundle has moved past. -/
theorem moved_eq_advance {k h : Nat → Lane → Lane}
    (hk : ∀ l x, s.grp.lanes[l]? = some x → s.active f.gd l x = true → k l { x with pc := x.pc + BitVec.ofNat 64 f.form.len } = h l x)
    (hid : ∀ l x y, s.grp.lanes[l]? = some x → s.active f.gd l x = false → k l y = y) :
    mapLanes k 0 (s.advance f.form.len).grp.lanes = moved s f h := by
  rw [State.advance, State.onLanes_grp_lanes, mapLanes_mapLanes, moved]
  refine mapLanes_congr fun j x hx => ?_
  rw [Nat.zero_add]
  have ha : s.active f.gd j x = (s.inBundle j && guardOf f.gd x) := rfl
  cases hb : s.inBundle j with
  | false => exact hid j x _ hx (by rw [ha, hb, Bool.false_and])
  | true =>
    cases hg : guardOf f.gd x with
    | false => exact hid j x _ hx (by rw [ha, hg, Bool.and_false])
    | true => exact hk j x hx (by rw [ha, hb, hg, Bool.and_self])

/-- The slot that a taker of a role gets next. -/
def Ring.nextSlot (r : Ring) (reader : Bool) : Nat := if reader then r.tail.toNat else r.head.toNat

/-- What the ring is after a slot was taken. -/
def Ring.taken (r : Ring) (reader : Bool) : Ring :=
  if reader then { r with filled := r.filled - 1, tail := r.after r.tail, readers := r.readers ++ [(r.tail.toNat, false)] }
  else { r with free := r.free - 1, head := r.after r.head, writers := r.writers ++ [(r.head.toNat, false)] }

theorem Ring.take_some {r : Ring} (h : (if reader then r.filled else r.free) ≠ 0) : r.take reader = some (r.nextSlot reader, r.taken reader) := by
  cases reader
  · exact r.take_writer h
  · exact r.take_reader h

/-- A slot at once (R261): its address goes to the scalar, and the bundle moves past, a reader at an acquire point. -/
theorem ringTake_now {r : Ring} (hr : (if reader then r.filled else r.free) ≠ 0) (hw : ∀ w ∈ r.waits, w.reader ≠ reader) :
    (ringTake reader f r s).teams = (s.onRing s.myTeam.uid (ringNum f) (fun _ => (r.taken reader).heldBy (r.nextSlot reader) s.grp.uid)).teams ∧
    (ringTake reader f r s).grp.s = sput 0 s.grp.s (sclNum f.d) ((r.slotAddr (r.nextSlot reader)).setWidth 64) ∧
    (ringTake reader f r s).grp.lanes = moved s f (fun _ x =>
      { x with pc := x.pc + BitVec.ofNat 64 f.form.len, acq := if reader then s.acquireSet s.grp else x.acq }) := by
  have hany : r.waits.any (fun w => w.reader == reader) = false := by simpa using hw
  simp only [ringTake, hany, Bool.false_eq_true, if_false, Ring.take_some hr]
  let s1 := ((s.onRing s.myTeam.uid (ringNum f) (fun _ => (r.taken reader).heldBy (r.nextSlot reader) s.grp.uid)).setScl (sclNum f.d)
    ((r.slotAddr (r.nextSlot reader)).setWidth 64)).advance f.form.len
  have hs1 : s1.grp.lanes = (s.advance f.form.len).grp.lanes := rfl
  cases reader with
  | false =>
    refine ⟨rfl, rfl, ?_⟩
    exact (mapLanes_same (f := fun _ x => x) (fun _ _ _ => rfl)).symm.trans (moved_eq_advance (fun _ _ _ _ => rfl) (fun _ _ _ _ _ => rfl))
  | true =>
    refine ⟨rfl, ?_, ?_⟩
    · exact congrArg Group.s (if_pos rfl : (s1.acquire s.grp.uid _).grp = _)
    · refine (State.acquire_lanes (s := s1) (by rfl) _).trans ?_
      rw [hs1]
      refine moved_eq_advance (fun l x hx ha => ?_) (fun l x y hx ha => ?_)
      · rw [State.getLsbD_activeMask hx, ha]
        rfl
      · rw [State.getLsbD_activeMask hx, ha]
        rfl

/-- Otherwise the bundle waits in RING (R261). -/
theorem ringTake_later {r : Ring} (h : (if reader then r.filled else r.free) = 0 ∨ ∃ w ∈ r.waits, w.reader = reader) : ringTake reader f r s =
    { s with
      teams := (s.onRing s.myTeam.uid (ringNum f) (fun r => { r with waits := r.waits ++
        [{ reader := reader, gid := s.grp.uid, lanes := s.activeMask f.gd, sd := sclNum f.d, copy := 0 }] })).teams
      grp := { s.grp with lanes := moved s f (fun _ x => { x with st := .ring, hold := .ring (s.bundle.pc + BitVec.ofNat 64 f.form.len) }) } } := by
  have hnone : (if r.waits.any (fun w => w.reader == reader) then none else r.take reader) = none := by
    split
    · rfl
    · next hany =>
      refine r.take_none reader (h.resolve_right ?_)
      simpa using hany
  have hlanes : moved s f (fun _ x => { x with st := .ring, hold := .ring (s.bundle.pc + BitVec.ofNat 64 f.form.len) }) = mapLanes (fun l x =>
      if (s.activeMask f.gd).getLsbD l then { x with st := .ring, hold := .ring (s.bundle.pc + BitVec.ofNat 64 f.form.len) } else x) 0 (s.passFalse f).grp.lanes := by
    refine (moved_eq (fun l x hx ha => ?_) (fun l x y hx ha => ?_)).symm
    · rw [State.getLsbD_activeMask hx, ha]
      rfl
    · rw [State.getLsbD_activeMask hx, ha]
      rfl
  simp only [ringTake, hnone]
  rw [hlanes]
  rfl

/-- A reader gives a held slot back (R261). -/
theorem ringRel_gives {k : Nat} (he : entryStop ⟨0x2F, 1, 0⟩ f s = none) (hon : s.actives f.gd ≠ []) (hn : ringNum f < s.myTeam.rings.length)
    (hk : (s.myTeam.ring (ringNum f)).heldAt true ((sclVal s.grp f.a).setWidth 32) = some k) :
    exec (.ringRel f) s = .next ((s.onRing s.myTeam.uid (ringNum f) (fun _ => { s.myTeam.ring (ringNum f) with
      readers := (doneRun (markDone k (s.myTeam.ring (ringNum f)).readers)).2
      free := (s.myTeam.ring (ringNum f)).free + BitVec.ofNat 8 (doneRun (markDone k (s.myTeam.ring (ringNum f)).readers)).1 })).advance f.form.len) := by
  change execRingRel f s = _
  rw [execRingRel, ringOp_acts he hon hn]
  obtain ⟨-, hheld⟩ := Ring.heldAt_some hk
  rw [hk, Option.bind_some, Ring.give_reader hheld]

theorem ringRel_notHeld (he : entryStop ⟨0x2F, 1, 0⟩ f s = none) (hon : s.actives f.gd ≠ []) (hn : ringNum f < s.myTeam.rings.length)
    (hk : (s.myTeam.ring (ringNum f)).heldAt true ((sclVal s.grp f.a).setWidth 32) = none) : exec (.ringRel f) s = .next (raise .bufrange s) := by
  change execRingRel f s = _
  rw [execRingRel, ringOp_acts he hon hn]
  rw [hk, Option.bind_none]

theorem ringPub_notHeld (he : entryStop ⟨0x2F, 3, 0⟩ f s = none) (hon : s.actives f.gd ≠ []) (hn : ringNum f < s.myTeam.rings.length)
    (hk : (s.myTeam.ring (ringNum f)).heldAt false ((sclVal s.grp f.a).setWidth 32) = none) : exec (.ringPub f) s = .next (raise .bufrange s) := by
  change execRingPub f s = _
  rw [execRingPub, ringOp_acts he hon hn]
  dsimp only
  rw [hk]
  rfl

theorem State.onGroup_self_grp {u : Nat} (hu : s.grp.uid = u) (k : Group → Group) : (s.onGroup u k).grp = k s.grp := if_pos hu

/-- What becomes of a ring when the slot at an address is published. -/
def Ring.published (a : Word) (r : Ring) : Ring := match r.heldAt false a with | some k => (r.give false k).getD r | none => r

theorem Ring.published_of_held {r r1 : Ring} {a : Word} {k : Nat} (hk : r.heldAt false a = some k) (hg : r.give false k = some r1) : r.published a = r1 := by
  simp only [Ring.published, hk, hg, Option.getD_some]

/-- What follows the release of PUB. -/
theorem State.follow_pub (s : State) (m : QWord) (next : DWord) (n : Nat) (addr : Word) : s.follow s.grp.uid m next (.pub n addr) =
    (s.onRing s.myTeam.uid n (Ring.published addr)).onGroup s.grp.uid
      (fun g => g.resume s.cycle m next) := by
  simp only [State.follow, State.group, if_true, Option.map_some, Option.getD_some, State.myTeam]
  rfl

/-- One ring of the team that alone has its number. -/
theorem State.onRing_congr {t : Team} {n : Nat} {k : Ring → Ring} {r : Ring} (hu : ∀ x ∈ s.teams, x.uid = t.uid → x = t) (hn : n < t.rings.length)
    (hk : k (t.ring n) = r) : (s.onRing t.uid n k).teams = (s.onRing t.uid n (fun _ => r)).teams := by
  simp only [State.onRing, State.onTeam_teams, updBy]
  refine List.map_congr_left fun x hx => ?_
  split
  · next h =>
    obtain rfl := hu x hx (by simpa using h)
    congr 1
    refine List.ext_getElem? fun i => ?_
    rw [List.getElem?_modify, List.getElem?_modify]
    by_cases hi : n = i
    · subst hi
      have hring : x.rings[n]? = some (x.ring n) := by simp [Team.ring, hn]
      simp [hring, hk]
    · simp [hi]
  · rfl

/-- A team with a ring is resident. -/
theorem State.myTeam_uid_of_ring (hn : n < s.myTeam.rings.length) : s.myTeam.uid = s.grp.team := by
  unfold State.myTeam State.team at hn ⊢
  cases hf : s.teams.find? (fun t => t.uid == s.grp.team) with
  | none => rw [hf] at hn; exact absurd hn (Nat.not_lt_zero _)
  | some t => simpa using List.find?_some hf

/-- A writer publishes a held slot when nothing is owed (R261). -/
theorem ringPub_gives {k : Nat} (he : entryStop ⟨0x2F, 3, 0⟩ f s = none) (hon : s.actives f.gd ≠ []) (hn : ringNum f < s.myTeam.rings.length)
    (hk : (s.myTeam.ring (ringNum f)).heldAt false ((sclVal s.grp f.a).setWidth 32) = some k) (howed : nothingOwed s) (hassay : s.isAssay s.grp.uid = false)
    (huniq : ∀ x ∈ s.teams, x.uid = s.grp.team → x = s.myTeam) : ∃ t r1, exec (.ringPub f) s = .next t ∧ t.mem = s.mem ∧
      t.teams = (s.onRing s.myTeam.uid (ringNum f) (fun _ => r1)).teams ∧ (s.myTeam.ring (ringNum f)).give false k = some r1 ∧
      t.grp.lanes = moved s f (fun _ x => x.wake s.cycle (s.bundle.pc + BitVec.ofNat 64 f.form.len)) := by
  obtain ⟨-, hheld⟩ := Ring.heldAt_some hk
  have hgive := Ring.give_writer hheld
  let a : Word := (sclVal s.grp f.a).setWidth 32
  have hnote : (s.passFalse f).scbNote s.nextId .publish f.md (a.setWidth 64) [] = s.passFalse f := by
    have hass : (s.passFalse f).isAssay (s.passFalse f).grp.uid = false := by
      rw [← hassay]
      simp only [State.isAssay, State.group, if_true]
      rfl
    rw [State.scbNote, State.scbAdd, hass]
    rfl
  have hexec : exec (.ringPub f) s = .next ((s.passFalse f).release 0 (s.activeMask f.gd) f.form.len (.pub (ringNum f) a)) := by
    change execRingPub f s = _
    rw [execRingPub, ringOp_acts he hon hn]
    dsimp only
    rw [hk, if_neg (by simp), hnote]
  obtain ⟨w, cs, gs, new, heq⟩ := State.release_passes (s := s.passFalse f) (scope := 0) (m := s.activeMask f.gd) (len := f.form.len) (cont := .pub (ringNum f) a)
    (nothingOwed_onLanes howed _) trivial (by simp) (fun t => t.allRels_follow_pub _ _ _ _ _)
  let r := (s.passFalse f).released (s.activeMask f.gd) w cs gs
  have hpass : r.passRel 0 (s.activeMask f.gd) (s.bundle.pc + BitVec.ofNat 64 f.form.len) (.pub (ringNum f) a) =
      (r.onRing s.myTeam.uid (ringNum f) (Ring.published a)).onGroup s.grp.uid
        (fun g => g.resume s.cycle (s.activeMask f.gd) (s.bundle.pc + BitVec.ofNat 64 f.form.len)) := by
    unfold State.passRel
    rw [if_pos rfl]
    exact State.follow_pub r _ _ _ _
  have hrel : (s.passFalse f).release 0 (s.activeMask f.gd) f.form.len (.pub (ringNum f) a) =
      ((r.onRing s.myTeam.uid (ringNum f) (Ring.published a)).onGroup s.grp.uid
        (fun g => g.resume s.cycle (s.activeMask f.gd) (s.bundle.pc + BitVec.ofNat 64 f.form.len))).onGroup s.grp.uid (Group.waitNew s.nextId new) :=
    heq.trans (congrArg (fun t => t.onGroup s.grp.uid (Group.waitNew s.nextId new)) hpass)
  have huid := State.myTeam_uid_of_ring hn
  refine ⟨_, _, hexec, execRingPub_keepsMem f s _ hexec, ?_, hgive, ?_⟩
  · rw [hrel]
    refine State.onRing_congr (fun x hx hxu => huniq x hx (hxu.trans huid)) hn ?_
    exact Ring.published_of_held hk hgive
  · have hgo := State.onGroup_self_grp (s := r.onRing s.myTeam.uid (ringNum f) (Ring.published a)) (u := s.grp.uid) rfl
      (fun g => g.resume s.cycle (s.activeMask f.gd) (s.bundle.pc + BitVec.ofNat 64 f.form.len))
    rw [hrel, State.onGroup_self_grp (by rw [hgo]; rfl), hgo]
    refine (mapLanes_mapLanes _ _ _ _).trans (moved_eq (fun l x hx ha => ?_) (fun l x y hx ha => ?_))
    · rw [heldFor_active hx ha, State.getLsbD_activeMask hx, ha]
      rfl
    · rw [heldFor, State.getLsbD_activeMask hx, ha]
      rfl

end

section
variable {f : Fields} {s : State}

theorem ringFits_iff (t : Team) (r : Ring) (x : DWord) : ringFits t r x = true ↔
    (x.extractLsb' 32 4).toNat < 10 ∧ ((x.setWidth 32 : Word).toNat / 2 ^ 28) < 3 ∧
      (x.setWidth 32 : Word).toNat % 2 ^ 28 + ((x.extractLsb' 36 7).toNat + 1) * 2 ^ ((x.extractLsb' 32 4).toNat + 7) ≤ t.bound ((x.setWidth 32 : Word).toNat / 2 ^ 28) ∧
      r.writers = [] ∧ r.readers = [] ∧ ∀ w ∈ r.waits, w.copy = 0 := by
  have hbase : x.extractLsb' 0 32 = (x.setWidth 32 : Word) := by
    ext i hi
    simp
  simp only [ringFits, Bool.and_eq_true, decide_eq_true_eq, List.isEmpty_iff, Bool.not_eq_true', List.any_eq_false, bne_iff_ne, ne_eq, not_not, and_assoc]
  simp only [bitsOf, hbase]

/-! RING_WAITER_WAKE (R127, R261) -/

/-- The first waiter of a role is found behind those of the other. -/
theorem find?_waiter {writer : Bool} {l rest : List RingWait} {w : RingWait} (hl : ∀ v ∈ l, v.reader = writer) (hw : w.reader = !writer) :
    (l ++ w :: rest).find? (fun w => w.reader != writer) = some w := by
  have hnone : l.find? (fun w => w.reader != writer) = none := by
    rw [List.find?_eq_none]
    intro v hv
    simp [hl v hv]
  rw [List.find?_append, hnone, Option.none_or, List.find?_cons_of_pos]
  cases writer <;> simp [hw]

variable {tu k : Nat} {writer : Bool}

theorem ringWaiterWake_none (h : ∀ w ∈ ((s.team tu).ring k).waits, w.reader = writer) : exec (.ringWaiterWake tu k writer) s = .next s := by
  have hnone : ((s.team tu).ring k).waits.find? (fun w => w.reader != writer) = none := by
    rw [List.find?_eq_none]
    intro w hw
    simp [h w hw]
  change execRingWaiterWake tu k writer s = _
  simp only [execRingWaiterWake, hnone]

/-- A waiter with no slot for it, or a copy command's, stays. -/
theorem ringWaiterWake_waits {w : RingWait} (hf : ((s.team tu).ring k).waits.find? (fun w => w.reader != writer) = some w) (hw : w.reader = !writer)
    (h : w.copy ≠ 0 ∨ (if writer then ((s.team tu).ring k).free else ((s.team tu).ring k).filled) = 0) : exec (.ringWaiterWake tu k writer) s = .next s := by
  change execRingWaiterWake tu k writer s = _
  simp only [execRingWaiterWake, hf]
  split
  · rfl
  · next hc =>
    have hnone : ((s.team tu).ring k).take w.reader = none := Ring.take_none _ _ (by cases writer <;> simpa [hw] using h.resolve_left hc)
    simp only [hnone]

/-- The first waiter of a role takes the slot that is there and leaves RING. -/
theorem ringWaiterWake_wakes {w : RingWait} (hf : ((s.team tu).ring k).waits.find? (fun w => w.reader != writer) = some w)
    (hc : w.copy = 0) (h : (if w.reader then ((s.team tu).ring k).filled else ((s.team tu).ring k).free) ≠ 0) :
    exec (.ringWaiterWake tu k writer) s =
      .next ((s.onRing tu k (fun _ => { (((s.team tu).ring k).taken w.reader).heldBy (((s.team tu).ring k).nextSlot w.reader) w.gid with
          waits := ((s.team tu).ring k).waits.erase w })).ringLeave w.gid w.lanes w.reader w.sd
        (((s.team tu).ring k).slotAddr (((s.team tu).ring k).nextSlot w.reader))) := by
  change execRingWaiterWake tu k writer s = _
  simp only [execRingWaiterWake, hf, hc, ne_eq, not_true_eq_false, if_false, Ring.take_some h]
  cases w.reader <;> rfl

@[simp] theorem State.ringLeave_teams (s : State) (uid : Nat) (m : QWord) (reader : Bool) (sd : Nat) (a : Word) : (s.ringLeave uid m reader sd a).teams = s.teams := by
  cases reader <;> rfl

theorem State.allGroups_onGroup (s : State) (u : Nat) (k : Group → Group) : (s.onGroup u k).allGroups = updBy (fun g => g.uid == u) k s.allGroups := by
  simp [State.allGroups, State.onGroup, updBy]

/-- A change of the groups with a number, seen at one of them. -/
theorem State.mem_onGroup {g : Group} (hg : g ∈ s.allGroups) (k : Group → Group) : k g ∈ (s.onGroup g.uid k).allGroups := by
  rw [State.allGroups_onGroup]
  exact List.mem_map.2 ⟨g, hg, if_pos (by simp)⟩

/-- A lane of a group after a map of its lanes. -/
theorem getD_mapLanes {ls : List Lane} {i : Nat} (hi : i < ls.length) (k : Nat → Lane → Lane) : (mapLanes k 0 ls).getD i default = k i (ls.getD i default) := by
  rw [List.getD_eq_getElem?_getD, List.getD_eq_getElem?_getD, mapLanes_getElem?, List.getElem?_eq_getElem hi, Nat.zero_add]
  rfl

/-- The lanes of a group leave RING with the slot's address in its scalar. -/
theorem State.ringLeave_group {g : Group} (hg : g ∈ s.allGroups) (m : QWord) (reader : Bool) (sd : Nat) (a : Word) :
    ∃ y ∈ (s.ringLeave g.uid m reader sd a).allGroups, y.uid = g.uid ∧ y.s = sput 0 g.s sd (a.setWidth 64) ∧
      ∀ i next, i < g.lanes.length → m.getLsbD i = true → (g.lanes.getD i default).hold = .ring next →
        (y.lanes.getD i default).st = .eligible ∧ (y.lanes.getD i default).pc = next := by
  let leave (l : Nat) (x : Lane) : Lane := match x.hold with | .ring next => if m.getLsbD l then x.wake s.cycle next else x | _ => x
  let k (g : Group) : Group := { g with s := sput 0 g.s sd (a.setWidth 64), lanes := mapLanes leave 0 g.lanes }
  have hk := s.mem_onGroup hg k
  have hleave {i : Nat} {next : DWord} {x : Lane} (hm : m.getLsbD i = true) (hx : x.hold = .ring next) : leave i x = x.wake s.cycle next := by
    simp only [leave, hx, hm, if_true]
  cases reader with
  | false =>
    refine ⟨k g, hk, rfl, rfl, fun i next hi hm hx => ?_⟩
    rw [show (k g).lanes = mapLanes leave 0 g.lanes from rfl, getD_mapLanes hi, hleave hm hx]
    exact ⟨rfl, rfl⟩
  | true =>
    let t := s.onGroup g.uid k
    let acq (g : Group) : Group := { g with lanes := mapLanes (fun l x => if m.getLsbD l then { x with acq := t.acquireSet g } else x) 0 g.lanes }
    refine ⟨acq (k g), State.mem_onGroup hk acq, rfl, rfl, fun i next hi hm hx => ?_⟩
    rw [show (acq (k g)).lanes = mapLanes (fun l x => if m.getLsbD l then { x with acq := t.acquireSet (k g) } else x) 0 (k g).lanes from rfl,
      show (k g).lanes = mapLanes leave 0 g.lanes from rfl, getD_mapLanes ((mapLanes_length _ _ _).symm ▸ hi), getD_mapLanes hi, hleave hm hx, hm]
    exact ⟨rfl, rfl⟩

end

/-- The six operations of RING begin with the same checks. -/
theorem exec_ring_eq {f : Fields} {s : State} {c : Instr × Key}
    (hc : c ∈ ([(.ringAcq f, ⟨0x2F, 0, 0⟩), (.ringRel f, ⟨0x2F, 1, 0⟩), (.ringPut f, ⟨0x2F, 2, 0⟩), (.ringPub f, ⟨0x2F, 3, 0⟩), (.ringInit f, ⟨0x2F, 4, 0⟩),
        (.ringStat f, ⟨0x2F, 5, 0⟩)] : List (Instr × Key))) : ∃ fn h, c.2 = ⟨0x2F, fn, 0⟩ ∧ exec c.1 s = ringOp fn f s h := by
  simp only [List.mem_cons, List.not_mem_nil, or_false] at hc
  rcases hc with rfl | rfl | rfl | rfl | rfl | rfl
  · exact ⟨0, _, rfl, (rfl : execRingAcq f s = _)⟩
  · exact ⟨1, _, rfl, (rfl : execRingRel f s = _)⟩
  · exact ⟨2, _, rfl, (rfl : execRingPut f s = _)⟩
  · exact ⟨3, _, rfl, (rfl : execRingPub f s = _)⟩
  · exact ⟨4, _, rfl, (rfl : execRingInit f s = _)⟩
  · exact ⟨5, _, rfl, (rfl : execRingStat f s = _)⟩

/-- The slot that was taken belongs to its taker. -/
theorem Ring.owner_heldBy (r : Ring) (k u : Nat) (hu : u ≠ 0) : sget 0 (r.heldBy k u).owners k = u := sget_sput_self r.owners k hu

/-- The facts about a ring of which a reader took a slot. -/
theorem Ring.taken_reader (r : Ring) (u : Nat) : let r1 := (r.taken true).heldBy r.tail.toNat u
    r1.filled = r.filled - 1 ∧ r1.readers = r.readers ++ [(r.tail.toNat, false)] ∧ r1.free = r.free ∧ r1.head = r.head ∧
      r1.tail = if r.tail.toNat = r.nslotm1.toNat then 0 else r.tail + 1 := ⟨rfl, rfl, rfl, rfl, r.after_eq r.tail⟩

/-- The facts about a ring of which a writer took a slot. -/
theorem Ring.taken_writer (r : Ring) (u : Nat) : let r1 := (r.taken false).heldBy r.head.toNat u
    r1.free = r.free - 1 ∧ r1.writers = r.writers ++ [(r.head.toNat, false)] ∧ r1.filled = r.filled ∧ r1.tail = r.tail ∧
      r1.head = if r.head.toNat = r.nslotm1.toNat then 0 else r.head + 1 := ⟨rfl, rfl, rfl, rfl, r.after_eq r.head⟩

/-- Settles O43: what a ring operation does follows from the slot that its role takes next, or from the one at the address it names. -/
theorem rings : Obligations.Rings := by
  unfold Obligations.Rings
  intro f s hm on len t0 n r a all
  refine ⟨fun c hc he => ⟨fun hon => ?_, fun hon hn => ?_⟩, fun hon hn => ⟨fun d hd c hc he => ?_, fun he => ⟨fun hk => ?_, fun k hk => ?_⟩,
    fun he => ⟨fun hk => ?_, fun k hk howed hassay _ huniq => ?_⟩, fun he => ?_, fun he d hd => ?_⟩, fun tu k writer => ⟨fun h => ?_, fun l w rest hq hl hw => ⟨fun h => ?_, fun hc h => ?_⟩⟩⟩
  · obtain ⟨fn, h, hkey, hexec⟩ := exec_ring_eq (s := s) hc
    exact hexec.trans (ringOp_of_none (hkey ▸ he) hon)
  · obtain ⟨fn, h, hkey, hexec⟩ := exec_ring_eq (s := s) hc
    exact hexec.trans (ringOp_beyond (hkey ▸ he) hon hn)
  · simp only [List.mem_cons, List.not_mem_nil, or_false] at hc
    have hd' : sclNum f.d = d.toNat := by rw [hd]; rfl
    rcases hc with rfl | rfl
    · refine ⟨fun hr hw => ?_, fun h => ?_⟩
      · have hexec : exec (.ringAcq f) s = .next (ringTake true f r s) := ringOp_acts he hon hn
        obtain ⟨hteams, hs, hlanes⟩ := ringTake_now (f := f) (s := s) (reader := true) hr hw
        exact ⟨_, _, hexec, execRingAcq_keepsMem f s _ hexec, hteams, hs.trans (by rw [hd']; rfl), hlanes, rfl, Ring.owner_heldBy _ _ _,
          fun _ => r.taken_reader _, fun h => Bool.noConfusion h⟩
      · have hexec : exec (.ringAcq f) s = .next (ringTake true f r s) := ringOp_acts he hon hn
        rw [hexec, ringTake_later (reader := true) (r := r) h, hd']
    · refine ⟨fun hr hw => ?_, fun h => ?_⟩
      · have hexec : exec (.ringPut f) s = .next (ringTake false f r s) := ringOp_acts he hon hn
        obtain ⟨hteams, hs, hlanes⟩ := ringTake_now (f := f) (s := s) (reader := false) hr hw
        exact ⟨_, _, hexec, execRingPut_keepsMem f s _ hexec, hteams, hs.trans (by rw [hd']; rfl), hlanes, rfl, Ring.owner_heldBy _ _ _,
          fun h => Bool.noConfusion h, fun _ => r.taken_writer _⟩
      · have hexec : exec (.ringPut f) s = .next (ringTake false f r s) := ringOp_acts he hon hn
        rw [hexec, ringTake_later (reader := false) (r := r) h, hd']
  · exact ringRel_notHeld he hon hn hk
  · obtain ⟨haddr, hheld⟩ := Ring.heldAt_some hk
    obtain ⟨hdrop, htake, hhead⟩ := doneRun_spec (markDone k r.readers)
    exact ⟨haddr, hheld, _, ringRel_gives he hon hn hk, rfl, rfl, rfl, _, rfl, hdrop, htake, hhead⟩
  · exact ringPub_notHeld he hon hn hk
  · exact ringPub_gives he hon hn hk howed hassay huniq
  · intro x size region good
    have hgood : ringFits t0 r x = true ↔ good := ringFits_iff t0 r x
    refine ⟨fun h => ?_, fun h => ?_⟩
    · change execRingInit f s = _
      rw [execRingInit, ringOp_acts he hon hn]
      exact congrArg _ (if_neg (mt hgood.1 h))
    · change execRingInit f s = _
      rw [execRingInit, ringOp_acts he hon hn]
      exact congrArg _ (if_pos (hgood.2 h))
  · change execRingStat f s = _
    rw [execRingStat, ringOp_acts he hon hn, hd, Ring.word0_eq]
    rfl
  · exact ringWaiterWake_none h
  · exact ringWaiterWake_waits (by rw [hq]; exact find?_waiter hl hw) hw h
  · have hr : (if w.reader then ((s.team tu).ring k).filled else ((s.team tu).ring k).free) ≠ 0 := by rw [hw]; cases writer <;> exact h
    have hslot : ((s.team tu).ring k).nextSlot w.reader = if writer then ((s.team tu).ring k).head.toNat else ((s.team tu).ring k).tail.toNat := by
      rw [hw]; cases writer <;> rfl
    have hexec := ringWaiterWake_wakes (s := s) (tu := tu) (k := k) (writer := writer) (by rw [hq]; exact find?_waiter hl hw) hc hr
    rw [hslot] at hexec
    refine ⟨_, _, hexec, execRingWaiterWake_keepsMem tu k writer s _ hexec, State.ringLeave_teams _ _ _ _ _ _, rfl, Ring.owner_heldBy _ _ _, fun g hg hu => ?_⟩
    obtain ⟨hmem, -⟩ := hg
    rw [← hu]
    exact State.ringLeave_group (s := s.onRing tu k _) hmem _ _ _ _

end Sys2Proof.Machine
end

section
/-! What a core sends home, drains, halvings and claims, and `Obligations.CopiesAndHomes`. -/

namespace Sys2Proof.Machine

/-! Requests that a core sends home (R49, R63) -/

/-- The numbers and the releases of the groups. -/
def State.relView (s : State) : List (Nat × List Rel) := s.allGroups.map (fun g => (g.uid, g.rels))

theorem State.relView_onGroup (s : State) (u : Nat) {k : Group → Group} (hk : ∀ g, ((k g).uid, (k g).rels) = (g.uid, g.rels)) : (s.onGroup u k).relView = s.relView := by
  have hif (c : Prop) [Decidable c] (g : Group) : ((if c then k g else g).uid, (if c then k g else g).rels) = (g.uid, g.rels) := by
    split
    · exact hk g
    · rfl
  simp only [State.relView, State.allGroups, State.onGroup, updBy, List.map_cons, List.map_map, Function.comp_def, hif]

/-- `t` is `s` with the requests `rs` sent besides: the cores' states, the partials, the lines at their homes and the releases are as before. -/
def sentHome (s t : State) (rs : List Req) : Prop :=
  t.cores = s.cores ∧ t.partials = s.partials ∧ t.lines = s.lines ∧ t.relView = s.relView ∧ t.reqs = s.reqs ++ rs

theorem sentHome.refl (s : State) : sentHome s s [] := ⟨rfl, rfl, rfl, rfl, (List.append_nil _).symm⟩

theorem sentHome.trans {s t u : State} {q p : List Req} (h : sentHome s t q) (k : sentHome t u p) : sentHome s u (q ++ p) := by
  obtain ⟨hc, hp, hl, hv, hr⟩ := h
  obtain ⟨kc, kp, kl, kv, kr⟩ := k
  exact ⟨kc.trans hc, kp.trans hp, kl.trans hl, kv.trans hv, by rw [kr, hr, List.append_assoc]⟩

/-- An entry for the shadow touches groups alone. -/
theorem State.scbAdd_sends (s : State) (u : Nat) (e : Scb) : sentHome s (s.scbAdd u e) [] ∧ (s.scbAdd u e).copies = s.copies := by
  unfold State.scbAdd
  split
  · refine ⟨⟨rfl, rfl, rfl, s.relView_onGroup u fun g => ?_, (List.append_nil _).symm⟩, rfl⟩
    split <;> rfl
  · exact ⟨sentHome.refl s, rfl⟩

theorem State.addReq_sends (s : State) (r : Req) : sentHome s (s.addReq r) [{ r with id := s.nextId }] ∧ (s.addReq r).copies = s.copies := by
  have hadd : sentHome s { s with reqs := s.reqs ++ [{ r with id := s.nextId }], nextId := s.nextId + 1 } [{ r with id := s.nextId }] := ⟨rfl, rfl, rfl, rfl, rfl⟩
  unfold State.addReq
  dsimp only
  split
  · exact ⟨hadd, rfl⟩
  · obtain ⟨hsent, hcopies⟩ := State.scbAdd_sends { s with reqs := s.reqs ++ [{ r with id := s.nextId }], nextId := s.nextId + 1 } r.gid
      { id := s.nextId, op := .access r.acc, lane := r.lane, pc := r.pc, addr := r.va, n := r.n, data := [r.data, r.cmp], md := r.md, logged := r.logged, at_ := 0 }
    exact ⟨hadd.trans hsent, hcopies⟩

theorem State.newRop_sends (s : State) (die dst tag : Nat) (what : Numbered) :
    sentHome s (s.newRop die dst tag what) [] ∧ (s.newRop die dst tag what).copies = s.copies := by
  unfold State.newRop State.sendCopy
  dsimp only
  split <;> exact ⟨⟨rfl, rfl, rfl, rfl, (List.append_nil _).symm⟩, rfl⟩

/-- A flush is one more request. -/
theorem State.sendFlush_sends (s : State) (r : Req) : ∃ q, sentHome s (s.sendFlush r) [q] ∧ (s.sendFlush r).copies = s.copies := by
  unfold State.sendFlush
  split
  · exact ⟨_, s.addReq_sends r⟩
  · obtain ⟨hadd, hcopies⟩ := s.addReq_sends { r with id := s.nextId, stage := .port }
    refine ⟨{ r with id := s.nextId, stage := .port }, ?_⟩
    dsimp only
    split
    · exact ⟨hadd, hcopies⟩
    · obtain ⟨hnew, hcopies'⟩ := (s.addReq { r with id := s.nextId, stage := .port }).newRop_sends r.die r.target noTag (.flush { r with id := s.nextId, stage := .port })
      exact ⟨hadd.trans hnew, hcopies'.trans hcopies⟩

/-- One flushed word leaves a core; the die's replica of its line is dropped. -/
def State.flushOne (c : Nat) (t : State) (r : Req) : State :=
  { t.sendFlush r with replicas := t.replicas.filter (fun x => !(x.unit == c / Config.coresPerDie && x.line == lineOf r.addr)) }

theorem State.flushOne_sends (c : Nat) (rs : List Req) (s : State) : ∃ q, sentHome s (rs.foldl (State.flushOne c) s) q ∧ (rs.foldl (State.flushOne c) s).copies = s.copies := by
  induction rs generalizing s with
  | nil => exact ⟨[], sentHome.refl s, rfl⟩
  | cons r rs ih =>
    obtain ⟨q, hq, hcopies⟩ := s.sendFlush_sends r
    obtain ⟨q', hq', hcopies'⟩ := ih (State.flushOne c s r)
    exact ⟨_, sentHome.trans (s := s) (t := State.flushOne c s r) hq hq', hcopies'.trans hcopies⟩

/-- Flushing partials sends requests and drops them. -/
theorem State.flushPartials_sends (s : State) (c : Nat) (p : Partial → Bool) : ∃ q,
    sentHome { s with partials := s.partials.filter (fun x => !(x.core == c && p x)) } (s.flushPartials c p) q ∧ (s.flushPartials c p).copies = s.copies :=
  State.flushOne_sends c ((s.partials.filter (fun x : Partial => x.core == c && p x)).flatMap (fun x : Partial => x.words.map (flushReq s x)))
    { s with partials := s.partials.filter (fun x => !(x.core == c && p x)) }

/-! Dirty bytes gathered to write-backs (R49, R75) -/

/-- An address is among the bytes of a gathered write-back. -/
def covers (g : Nat × Nat × QWord × List Nat) (a : Nat) : Prop := g.1 ≤ a ∧ a < g.1 + g.2.1

/-- A byte begins a write-back of its own, or is put before the next one, which begins right after it. -/
theorem gather_cons (a : Nat) (x : BitVec 16) (rest : List (Nat × BitVec 16)) :
    (∃ v h, gather ((a, x) :: rest) = (a, 1, v, h) :: gather rest) ∨
      ∃ g more v h, gather rest = g :: more ∧ g.1 = a + 1 ∧ gather ((a, x) :: rest) = (a, g.2.1 + 1, v, h) :: more := by
  rw [gather.eq_def ((a, x) :: rest)]
  dsimp only
  generalize (if dirtyHurt x then [a / 8 * 8] else []) = h0
  split
  · next a2 n2 v2 h2 more _ y _ hg =>
    split
    · next hj => exact Or.inr ⟨(a2, n2, v2, h2), more, _, _, hg, hj.1, rfl⟩
    · exact Or.inl ⟨_, _, by rw [hg]⟩
  · next rest _ _ hnone =>
    refine Or.inl ⟨(x.setWidth 8).setWidth 128, h0, ?_⟩
    cases rest with
    | nil => rfl
    | cons y ys =>
      cases hg : gather (y :: ys) with
      | nil => rfl
      | cons g more => exact absurd hg (fun hg => hnone _ _ _ _ _ _ _ _ hg rfl)

/-- Every byte is in a write-back. -/
theorem gather_covers {l : List (Nat × BitVec 16)} {y : Nat × BitVec 16} (hy : y ∈ l) : ∃ g ∈ gather l, covers g y.1 := by
  induction l with
  | nil => exact absurd hy List.not_mem_nil
  | cons p rest ih =>
    obtain ⟨a, x⟩ := p
    rcases gather_cons a x rest with ⟨v, h, heq⟩ | ⟨g, more, v, h, hg, ha, heq⟩
    · rw [heq]
      rcases List.mem_cons.1 hy with rfl | hy
      · exact ⟨_, List.mem_cons_self, Nat.le_refl _, Nat.lt_succ_self _⟩
      · obtain ⟨k, hk, hcov⟩ := ih hy
        exact ⟨k, List.mem_cons_of_mem _ hk, hcov⟩
    · rw [heq]
      rcases List.mem_cons.1 hy with rfl | hy
      · exact ⟨_, List.mem_cons_self, Nat.le_refl _, by dsimp only; omega⟩
      · obtain ⟨k, hk, hlo, hhi⟩ := ih hy
        rw [hg] at hk
        rcases List.mem_cons.1 hk with rfl | hk
        · exact ⟨_, List.mem_cons_self, by dsimp only; omega, by dsimp only; omega⟩
        · exact ⟨k, List.mem_cons_of_mem _ hk, hlo, hhi⟩

/-- A write-back has bytes, and dirty ones alone. -/
theorem gather_within {l : List (Nat × BitVec 16)} {g : Nat × Nat × QWord × List Nat} (hg : g ∈ gather l) : 0 < g.2.1 ∧ ∀ a, covers g a → ∃ y ∈ l, y.1 = a := by
  induction l generalizing g with
  | nil => exact absurd hg List.not_mem_nil
  | cons p rest ih =>
    obtain ⟨a, x⟩ := p
    have hold {k : Nat × Nat × QWord × List Nat} (hk : k ∈ gather rest) : 0 < k.2.1 ∧ ∀ b, covers k b → ∃ y ∈ (a, x) :: rest, y.1 = b := by
      obtain ⟨hpos, hin⟩ := ih hk
      refine ⟨hpos, fun b hb => ?_⟩
      obtain ⟨y, hy, he⟩ := hin b hb
      exact ⟨y, List.mem_cons_of_mem _ hy, he⟩
    rcases gather_cons a x rest with ⟨v, h, heq⟩ | ⟨k, more, v, h, hk, ha, heq⟩
    · rw [heq] at hg
      rcases List.mem_cons.1 hg with rfl | hg
      · refine ⟨Nat.one_pos, fun b hb => ⟨(a, x), List.mem_cons_self, ?_⟩⟩
        obtain ⟨hlo, hhi⟩ := hb
        dsimp only at hlo hhi ⊢
        omega
      · exact hold hg
    · rw [heq] at hg
      rcases List.mem_cons.1 hg with rfl | hg
      · refine ⟨Nat.succ_pos _, fun b hb => ?_⟩
        obtain ⟨hlo, hhi⟩ := hb
        dsimp only at hlo hhi
        rcases Nat.eq_or_lt_of_le hlo with rfl | hlt
        · exact ⟨(a, x), List.mem_cons_self, rfl⟩
        · exact (hold (hk ▸ List.mem_cons_self)).2 b ⟨by omega, by omega⟩
      · exact hold (hk ▸ List.mem_cons_of_mem _ hg)

/-! Write-backs -/

/-- A change of members that a filter drops is not seen behind it. -/
theorem filter_updBy_of_dropped {α : Type} {p q : α → Bool} {f : α → α} (h : ∀ x, p x = true → q x = false ∧ q (f x) = false) (l : List α) :
    (updBy p f l).filter q = l.filter q := by
  induction l with
  | nil => rfl
  | cons x xs ih =>
    rw [updBy, List.map_cons] at *
    cases hp : p x with
    | false => simp only [Bool.false_eq_true, if_false, List.filter_cons, ih]
    | true =>
      obtain ⟨hq, hqf⟩ := h x hp
      simp only [if_true, List.filter_cons, hq, hqf, ih, Bool.false_eq_true, if_false]

theorem State.core_congr {s t : State} (h : t.cores = s.cores) : t.core = s.core := by
  funext c
  rw [State.core, State.core, h]

/-- One write-back leaves a core; it updates the core's copies of its lines. -/
def State.writeBackOne (c : Nat) (t : State) (r : Req) : State := (t.touchCopies c r.addr r.n r.data r.mask).addReq r

theorem State.writeBackOne_sends (c : Nat) (rs : List Req) (s : State) : ∃ q, sentHome s (rs.foldl (State.writeBackOne c) s) q ∧
    (∀ r ∈ rs, ∃ k ∈ q, k.acc = r.acc ∧ k.core = r.core ∧ k.addr = r.addr ∧ k.n = r.n) ∧
    ∀ line, (∀ r ∈ rs, linesOf r.addr r.n = [line]) → (rs.foldl (State.writeBackOne c) s).copies.filter (fun x => !(x.unit == c && x.line == line)) =
      s.copies.filter (fun x => !(x.unit == c && x.line == line)) := by
  induction rs generalizing s with
  | nil => exact ⟨[], sentHome.refl s, fun r hr => absurd hr List.not_mem_nil, fun _ _ => rfl⟩
  | cons r rs ih =>
    obtain ⟨hsent, hcopies⟩ := (s.touchCopies c r.addr r.n r.data r.mask).addReq_sends r
    obtain ⟨q, hq, hmem, hkeep⟩ := ih (State.writeBackOne c s r)
    refine ⟨_, sentHome.trans (s := s) (t := State.writeBackOne c s r) hsent hq, fun k hk => ?_, fun line hline => ?_⟩
    · rcases List.mem_cons.1 hk with rfl | hk
      · exact ⟨_, List.mem_append_left _ (List.mem_singleton_self _), rfl, rfl, rfl, rfl⟩
      · obtain ⟨x, hx, hface⟩ := hmem k hk
        exact ⟨x, List.mem_append_right _ hx, hface⟩
    · refine (hkeep line (fun k hk => hline k (List.mem_cons_of_mem _ hk))).trans ?_
      rw [show (State.writeBackOne c s r).copies = _ from hcopies, State.touchCopies, hline r List.mem_cons_self]
      refine filter_updBy_of_dropped (fun x hx => ?_) _
      have hx' : (x.unit == c && x.line == line) = true := by simpa using hx
      exact ⟨by rw [hx']; rfl, by rw [Bool.not_eq_false']; exact hx'⟩

/-- Writing back sends the dirty bytes that satisfy `p` home; the others stay. -/
theorem State.writeBack_sends (s : State) (c : Nat) (p : Nat → Bool) : ∃ q,
    sentHome (s.onCore c (fun k => { k with dirty := (s.core c).dirty.filter (fun e => !p e.1) })) (s.writeBack c p) q ∧
    (∀ x ∈ (s.core c).dirty, p x.1 = true → ∃ k ∈ q, k.acc = .writeback ∧ k.core = c ∧ k.addr ≤ x.1 ∧ x.1 < k.addr + k.n) ∧
    ∀ line, (∀ a, p a = true → lineOf a = line) → (s.writeBack c p).copies.filter (fun x => !(x.unit == c && x.line == line)) =
      s.copies.filter (fun x => !(x.unit == c && x.line == line)) := by
  let d := (s.core c).dirty
  let s0 := s.onCore c (fun k => { k with dirty := d.filter (fun e => !p e.1) })
  have hk0 : s0.copies = s.copies := by
    simp only [s0, State.onCore]
    split <;> rfl
  let rs := (gather (d.filter (fun e => p e.1))).map (wbReq s c)
  obtain ⟨q, hsent, hmem, hkeep⟩ := State.writeBackOne_sends c rs s0
  refine ⟨q, hsent, fun x hx hpx => ?_, fun line hline => ?_⟩
  · obtain ⟨g, hg, hlo, hhi⟩ := gather_covers (List.mem_filter.2 ⟨hx, hpx⟩ : x ∈ d.filter (fun e => p e.1))
    obtain ⟨k, hk, hacc, hcore, haddr, hn⟩ := hmem (wbReq s c g) (List.mem_map_of_mem hg)
    exact ⟨k, hk, hacc, hcore, by rw [haddr]; exact hlo, by rw [haddr, hn]; exact hhi⟩
  · rw [← hk0]
    refine hkeep line (fun r hr => ?_)
    obtain ⟨g, hg, rfl⟩ := List.mem_map.1 hr
    obtain ⟨hpos, hin⟩ := gather_within hg
    have hon {a : Nat} (ha : covers g a) : lineOf a = line := by
      obtain ⟨y, hy, rfl⟩ := hin a ha
      exact hline y.1 (List.mem_filter.1 hy).2
    have hfirst : lineOf (wbReq s c g).addr = line := hon (a := g.1) ⟨Nat.le_refl _, by omega⟩
    have hlast : lineOf ((wbReq s c g).addr + (wbReq s c g).n - 1) = line := hon (a := g.1 + g.2.1 - 1) ⟨by omega, by omega⟩
    rw [linesOf, hlast, hfirst, if_pos rfl]

/-- What a core sends home leaves its other dirty bytes, its other partials, the lines at their homes and the releases. -/
theorem State.sendHome_spec (s : State) (c : Nat) (p : Nat → Bool) (pp : Partial → Bool) : ∃ q,
    let t := (s.writeBack c p).flushPartials c pp
    (t.core c).dirty = (s.core c).dirty.filter (fun e => !p e.1) ∧ t.partials = s.partials.filter (fun x => !(x.core == c && pp x)) ∧ t.lines = s.lines ∧
    t.relView = s.relView ∧ t.reqs = s.reqs ++ q ∧ t.copies = (s.writeBack c p).copies ∧
    ∀ x ∈ (s.core c).dirty, p x.1 = true → ∃ k ∈ q, k.acc = .writeback ∧ k.core = c ∧ k.addr ≤ x.1 ∧ x.1 < k.addr + k.n := by
  obtain ⟨q, ⟨hc, hp, hl, hv, hr⟩, hsent, -⟩ := s.writeBack_sends c p
  obtain ⟨q', ⟨hc', hp', hl', hv', hr'⟩, hk'⟩ := (s.writeBack c p).flushPartials_sends c pp
  have hs0 (k : Core → Core) : (s.onCore c k).partials = s.partials ∧ (s.onCore c k).lines = s.lines ∧ (s.onCore c k).relView = s.relView ∧ (s.onCore c k).reqs = s.reqs := by
    unfold State.onCore
    split <;> exact ⟨rfl, rfl, rfl, rfl⟩
  obtain ⟨hp0, hl0, hv0, hr0⟩ := hs0 (fun k => { k with dirty := (s.core c).dirty.filter (fun e => !p e.1) })
  refine ⟨q ++ q', ?_, ?_, (hl'.trans hl).trans hl0, (hv'.trans hv).trans hv0, ?_, hk', fun x hx hpx => ?_⟩
  · rw [congrFun (State.core_congr (hc'.trans hc)) c, State.core_onCore]
  · rw [hp', hp, hp0]
  · rw [hr', ← List.append_assoc, ← hr0, ← hr]
  · obtain ⟨k, hk, hface⟩ := hsent x hx hpx
    exact ⟨k, List.mem_append_left _ hk, hface⟩

/-- A line leaves an L1 with its dirty bytes and its partial (R50, R75). -/
theorem State.evictLine_spec (s : State) (c line : Nat) : ((s.evictLine c line).core c).dirty = (s.core c).dirty.filter (fun e => !(lineOf e.1 == line)) ∧
    (s.evictLine c line).copies = s.copies.filter (fun x => !(x.unit == c && x.line == line)) ∧
    (s.evictLine c line).partials = s.partials.filter (fun p => !(p.core == c && p.line == line)) ∧ ∃ q, (s.evictLine c line).reqs = s.reqs ++ q ∧
      ∀ x ∈ (s.core c).dirty, lineOf x.1 = line → ∃ k ∈ q, k.acc = .writeback ∧ k.core = c ∧ k.addr ≤ x.1 ∧ x.1 < k.addr + k.n := by
  obtain ⟨q, hd, hp, hl, hv, hr, hk, hsent⟩ := s.sendHome_spec c (fun a => lineOf a == line) (fun p => p.line == line)
  obtain ⟨-, -, -, hkeep⟩ := s.writeBack_sends c (fun a => lineOf a == line)
  refine ⟨hd, ?_, hp, q, hr, fun x hx hxl => hsent x hx (by simpa using hxl)⟩
  rw [← hkeep line (fun a ha => by simpa using ha), ← hk]
  rfl

theorem State.evictLine_lines (s : State) (c line : Nat) : (s.evictLine c line).lines = s.lines := by
  obtain ⟨q, hd, hp, hl, hv, hr, hk, hsent⟩ := s.sendHome_spec c (fun a => lineOf a == line) (fun p => p.line == line)
  exact hl

/-- A core that is flushed has no dirty byte and no partial left (R72). -/
theorem State.flushCore_spec (s : State) (c : Nat) : ((s.flushCore c).core c).dirty = [] ∧ (∀ p ∈ (s.flushCore c).partials, p.core ≠ c) := by
  obtain ⟨q, hd, hp, -⟩ := s.sendHome_spec c (fun _ => true) (fun _ => true)
  refine ⟨?_, fun p hpm => ?_⟩
  · rw [show ((s.flushCore c).core c).dirty = _ from hd]
    simp
  · rw [show (s.flushCore c).partials = _ from hp, List.mem_filter] at hpm
    simpa using hpm.2

theorem State.flushCore_relView (s : State) (c : Nat) : (s.flushCore c).relView = s.relView := by
  obtain ⟨q, -, -, -, hv, -⟩ := s.sendHome_spec c (fun _ => true) (fun _ => true)
  exact hv

/-! SEGMENT_DRAIN (R49) -/

section
variable {s : State} {core seg : Nat} {weight : Bool} {t : Team}

/-- The state after the first step of a drain: the whole core is written back, and its copies are dropped (log 36). -/
def State.drained (s : State) (core seg : Nat) (weight : Bool) (u : Nat) : State :=
  let s1 := s.flushCore core
  let new := (s1.reqs.filter (fun r => decide (s.nextId ≤ r.id))).map (fun r => r.id)
  { s1 with copies := s1.copies.filter (fun c => c.unit != core) }.onTeam u (fun t =>
    { t with drain := updBy (fun d => d.1 == weight && d.2.1 == seg) (fun d => (d.1, d.2.1, some new)) t.drain })

theorem segmentDrain_starts (ht : s.teams.find? (fun t => t.die * Config.coresPerDie + t.core == core && t.drain.any (fun d => d.1 == weight && d.2.1 == seg)) = some t)
    (hd : (t.drain.find? (fun d => d.1 == weight && d.2.1 == seg)).bind (fun d => d.2.2) = none) :
    exec (.segmentDrain core weight seg) s = .next (s.drained core seg weight t.uid) := by
  change execSegmentDrain core weight seg s = _
  simp only [execSegmentDrain, ht, hd]
  rfl

theorem State.drained_empty (s : State) (core seg : Nat) (weight : Bool) (u : Nat) : ((s.drained core seg weight u).core core).dirty = [] ∧
    (∀ c ∈ (s.drained core seg weight u).copies, c.unit ≠ core) ∧ ∀ p ∈ (s.drained core seg weight u).partials, p.core ≠ core := by
  obtain ⟨hdirty, hpart⟩ := s.flushCore_spec core
  refine ⟨hdirty, fun c hc => ?_, hpart⟩
  simpa using (List.mem_filter.1 hc).2

/-- A drain waits for what it sent home, and then hands its segment over. -/
theorem segmentDrain_goesOn {owed : List Nat}
    (ht : s.teams.find? (fun t => t.die * Config.coresPerDie + t.core == core && t.drain.any (fun d => d.1 == weight && d.2.1 == seg)) = some t)
    (hd : (t.drain.find? (fun d => d.1 == weight && d.2.1 == seg)).bind (fun d => d.2.2) = some owed) : exec (.segmentDrain core weight seg) s =
      .next (if s.reqs.any (fun r => owed.contains r.id) then s
        else s.onTeam t.uid (fun t => { t with drain := t.drain.filter (fun d => !(d.1 == weight && d.2.1 == seg)) })) := by
  change execSegmentDrain core weight seg s = _
  simp only [execSegmentDrain, ht, hd]

end

/-! GRANULE_COUNT_HALVING (R55) -/

/-- The counts of a granule at a halving. -/
theorem sget_halveCounts {lo : Nat} {c : Sparse (BitVec 8)} (h : swfFrom (0 : BitVec 8) lo c = true) (d : Nat) : sget 0 (halveCounts c) d = sget 0 c d >>> (1 : Nat) := by
  induction c generalizing lo with
  | nil => exact (BitVec.zero_ushiftRight).symm
  | cons p m ih =>
    obtain ⟨a, y⟩ := p
    obtain ⟨hlo, hy, hm⟩ : lo ≤ a ∧ y ≠ 0 ∧ swfFrom (0 : BitVec 8) (a + 1) m = true := by simpa [swfFrom, and_assoc] using h
    have hcons : halveCounts ((a, y) :: m) = if y >>> (1 : Nat) ≠ 0 then (a, y >>> (1 : Nat)) :: halveCounts m else halveCounts m := by
      simp only [halveCounts, List.map_cons, List.filter_cons, bne_iff_ne]
    rw [hcons]
    split
    · simp only [sget, ih hm]
      split <;> rfl
    · next h0 =>
      rw [ih hm, sget]
      split
      · next ha =>
        subst ha
        rw [sget_below 0 m (a + 1) a hm (Nat.lt_succ_self a), not_not.1 h0]
        rfl
      · rfl

theorem moveTarget_some {g : Granule} {now d : Nat} (h : moveTarget g now = some d) :
    d ≠ g.home ∧ 128 ≤ (sget 0 g.counts d).toNat ∧ 2 * (sget 0 g.counts g.home).toNat ≤ (sget 0 g.counts d).toNat ∧ g.movedAt + ticksPerMs ≤ now := by
  unfold moveTarget at h
  dsimp only at h
  split at h
  · next hc =>
    obtain rfl := Option.some.inj h
    exact hc
  · exact absurd h (by simp)

/-- What a halving makes of one granule of die `die`. -/
def halved (die now : Nat) (p : Nat × Granule) : Nat × Granule :=
  if p.2.home = die then
    (p.1, { p.2 with counts := halveCounts p.2.counts, moving := if p.2.moving.isSome then p.2.moving else moveTarget p.2 now })
  else p

theorem granuleCountHalving_eq (die : Nat) (s : State) : exec (.granuleCountHalving die) s =
    if (s.die die).halved < s.gtime die / ticksPerMs then
      .next ({ s with granules := s.granules.map (halved die (s.gtime die)) }.onDie die (fun d => { d with halved := s.gtime die / ticksPerMs }))
    else .next s := rfl

theorem halved_home (die now : Nat) (p : Nat × Granule) : ((halved die now p).1, (halved die now p).2.home) = (p.1, p.2.home) := by
  unfold halved
  split <;> rfl

/-! CLAIM (R55, R56, R86) -/

theorem State.granule_onGranule (s : State) (gr : Nat) (f : Granule → Granule) : (s.onGranule gr f).granule gr = f (s.granule gr) := by
  unfold State.onGranule State.granule
  split
  · next h =>
    obtain ⟨p, hp, hgr⟩ := List.any_eq_true.1 h
    obtain ⟨y, hy⟩ := Option.isSome_iff_exists.1 (List.find?_isSome.2 ⟨p, hp, hgr⟩ : (s.granules.find? (fun p => p.1 == gr)).isSome)
    have hgr' : y.1 = gr := by simpa using List.find?_some hy
    simp only
    rw [find?_updBy (by intro; rfl), hy]
    simp [hgr']
  · next h =>
    have hnone : s.granules.find? (fun p => p.1 == gr) = none := List.find?_eq_none.2 fun p hp hc => h (List.any_eq_true.2 ⟨p, hp, hc⟩)
    simp [List.find?_append, hnone]

theorem State.onGranule_keeps (s : State) (gr : Nat) (f : Granule → Granule) :
    (s.onGranule gr f).lines = s.lines ∧ (s.onGranule gr f).reqs = s.reqs ∧ (s.onGranule gr f).mem = s.mem := by
  unfold State.onGranule
  split <;> exact ⟨rfl, rfl, rfl⟩

theorem le_foldl_horizon (l : List (Nat × Line)) (m : Nat) : m ≤ l.foldl (fun m p => max m p.2.horizon) m ∧ ∀ p ∈ l, p.2.horizon ≤ l.foldl (fun m p => max m p.2.horizon) m := by
  induction l generalizing m with
  | nil => simp
  | cons x l ih =>
    obtain ⟨hm, hl⟩ := ih (max m x.2.horizon)
    rw [List.foldl_cons, List.forall_mem_cons]
    exact ⟨by omega, by omega, hl⟩

/-- The horizon a claim hands on is at least the granule's, and at least that of each of its lines (R86). -/
theorem State.granuleHorizon_ge (s : State) (gr : Nat) :
    (s.granule gr).horizon ≤ s.granuleHorizon gr ∧ ∀ k ∈ s.lines, k.1 / 512 = gr → k.2.horizon ≤ s.granuleHorizon gr := by
  obtain ⟨hm, hl⟩ := le_foldl_horizon (s.lines.filter (fun p => p.1 / 512 == gr)) (s.granule gr).horizon
  exact ⟨hm, fun k hk hgr => hl k (List.mem_filter.2 ⟨hk, by simpa using hgr⟩)⟩

/-- A request of granule `gran` at its home. -/
def Req.atHomeOf (home gran : Nat) (r : Req) : Bool := !r.isBuf && !isHost r.addr && granuleOf r.addr == gran && r.target == home

theorem Req.atHomeOf_iff {home gran : Nat} {r : Req} : r.atHomeOf home gran = true ↔ r.isBuf = false ∧ isHost r.addr = false ∧ granuleOf r.addr = gran ∧ r.target = home := by
  simp [Req.atHomeOf, and_assoc]

theorem Req.begun_iff {r : Req} : r.begun = true ↔ r.stage = .queued ∨ r.stage = .held ∨ r.stage = .combining := by
  simp [Req.begun, or_assoc]

/-- The state after a claim: the new home `d` has the granule, and the old one forwards what it held. -/
def State.claimed (s : State) (gran d : Nat) : State :=
  let g := s.granule gran
  let now := s.gtime g.home
  let s1 := s.onGranule gran (fun _ => { home := d, movedAt := now, horizon := s.granuleHorizon gran, moving := none, counts := [] })
  { s1 with
    forwards := s1.forwards.filter (fun f => !(f.gran == gran && (f.die == d || f.die == g.home))) ++ [{ die := g.home, gran := gran, dest := d, until_ := now + ticksPerMs }]
    reqs := updBy (fun r => r.atHomeOf g.home gran && r.stage == .waiting) (fun r => { r with stage := .sent, target := d, hops := r.hops + 1 }) s1.reqs }

theorem claim_eq {s : State} {gran d : Nat} (h : (s.granule gran).moving = some d) : exec (.claim gran) s =
    .next (if s.reqs.any (fun r => r.atHomeOf (s.granule gran).home gran && r.begun) ||
      (List.range 16).any (fun i => (s.portWork (s.granule gran).home i).any (fun p => granuleOf p.2.2.addr == gran)) then s else s.claimed gran d) := by
  change execClaim gran s = _
  simp only [execClaim, h]
  rfl

/-- What a claim changes (R55, R56, R86). -/
theorem State.claimed_spec (s : State) (gran d : Nat) :
    ((s.claimed gran d).granule gran).home = d ∧ ((s.claimed gran d).granule gran).moving = none ∧
    ((s.claimed gran d).granule gran).movedAt = s.gtime (s.granule gran).home ∧
    (∃ k ∈ (s.claimed gran d).forwards, k.die = (s.granule gran).home ∧ k.gran = gran ∧ k.dest = d ∧ k.until_ = s.gtime (s.granule gran).home + ticksPerMs) ∧
    (s.claimed gran d).lines = s.lines ∧ (s.granule gran).horizon ≤ ((s.claimed gran d).granule gran).horizon ∧
    ∀ k ∈ s.lines, k.1 / 512 = gran → k.2.horizon ≤ ((s.claimed gran d).granule gran).horizon := by
  let new : Granule := { home := d, movedAt := s.gtime (s.granule gran).home, horizon := s.granuleHorizon gran, moving := none, counts := [] }
  obtain ⟨hlines, -, -⟩ := s.onGranule_keeps gran (fun _ => new)
  have hgr : (s.claimed gran d).granule gran = new := s.granule_onGranule gran _
  rw [hgr]
  exact ⟨rfl, rfl, rfl, ⟨_, List.mem_append_right _ (List.mem_singleton_self _), rfl, rfl, rfl, rfl⟩, hlines, s.granuleHorizon_ge gran⟩

theorem State.claimed_reqs (s : State) (gran d : Nat) : (s.claimed gran d).reqs =
    updBy (fun r => r.atHomeOf (s.granule gran).home gran && r.stage == .waiting) (fun r => { r with stage := .sent, target := d, hops := r.hops + 1 }) s.reqs := by
  obtain ⟨-, hreqs, -⟩ := s.onGranule_keeps gran
    (fun _ => { home := d, movedAt := s.gtime (s.granule gran).home, horizon := s.granuleHorizon gran, moving := none, counts := [] })
  rw [← hreqs]
  rfl

/-- A claim waits for what the old home has begun, its numbered work included. -/
theorem claim_done {s : State} {gran d : Nat} (h : (s.granule gran).moving = some d)
    (hb : ∀ r ∈ s.reqs, r.atHomeOf (s.granule gran).home gran = true → r.begun = false)
    (hport : ∀ i, i < 16 → ∀ p ∈ s.portWork (s.granule gran).home i, granuleOf p.2.2.addr ≠ gran) : exec (.claim gran) s = .next (s.claimed gran d) := by
  have hnone : s.reqs.any (fun r => r.atHomeOf (s.granule gran).home gran && r.begun) = false := by
    refine List.any_eq_false.2 fun r hr hrb => ?_
    obtain ⟨hh, hst⟩ := Bool.and_eq_true_iff.1 hrb
    exact absurd hst (by rw [hb r hr hh]; decide)
  have hport' : (List.range 16).any (fun i => (s.portWork (s.granule gran).home i).any (fun p => granuleOf p.2.2.addr == gran)) = false := by
    refine List.any_eq_false.2 fun i hi hany => ?_
    obtain ⟨p, hp, hg⟩ := List.any_eq_true.1 hany
    exact hport i (List.mem_range.1 hi) p hp (by simpa using hg)
  rw [claim_eq h, hnone, hport']
  rfl

/-- What a halving does to a granule of its die, and that it leaves those of other dies. -/
theorem halved_spec (die now : Nat) (p : Nat × Granule) : (halved die now p).1 = p.1 ∧ (p.2.home ≠ die → halved die now p = p) ∧
    (p.2.home = die → (∀ d, swf (0 : BitVec 8) p.2.counts = true → sget 0 (halved die now p).2.counts d = sget 0 p.2.counts d >>> (1 : Nat)) ∧
      ∀ d, p.2.moving = none → (halved die now p).2.moving = some d → d ≠ die ∧ 128 ≤ (sget 0 p.2.counts d).toNat ∧
        2 * (sget 0 p.2.counts die).toNat ≤ (sget 0 p.2.counts d).toNat ∧ p.2.movedAt + ticksPerMs ≤ now) := by
  refine ⟨(Prod.mk.inj (halved_home die now p)).1, fun hh => if_neg hh, fun hh => ?_⟩
  rw [halved, if_pos hh]
  refine ⟨fun d hc => sget_halveCounts hc d, fun d hnone hsome => ?_⟩
  have hsome' : moveTarget p.2 now = some d := by simpa [hnone] using hsome
  rw [← hh]
  exact moveTarget_some hsome'

/-- Settles O38: each of these steps is one change of the state, whose parts the lemmas above name. -/
theorem copiesAndHomes : Obligations.CopiesAndHomes := by
  unfold Obligations.CopiesAndHomes
  intro s
  refine ⟨fun core line => ?_, fun die line => rfl, fun team weight seg owed ht hd => ?_, fun die hdie => ?_, fun gran d hm => ?_, fun die gran => rfl⟩
  · exact ⟨_, rfl, execL1Eviction_keepsMem core line s _ rfl, s.evictLine_spec core line⟩
  · refine ⟨fun ho => ?_, fun l ho hl => ?_, fun l ho hl => ?_⟩
    · have hexec := segmentDrain_starts ht (by rw [hd, ho]; rfl)
      exact ⟨_, hexec, execSegmentDrain_keepsMem _ weight seg s _ hexec, s.drained_empty _ seg weight team.uid⟩
    · obtain ⟨q, hq, hql⟩ := hl
      rw [segmentDrain_goesOn ht (by rw [hd, ho]; rfl), if_pos (List.any_eq_true.2 ⟨q, hq, hql⟩)]
    · rw [segmentDrain_goesOn ht (by rw [hd, ho]; rfl), if_neg (by simpa using hl)]
  · intro ms
    refine ⟨fun h => ?_, fun h => ?_⟩
    · rw [granuleCountHalving_eq, if_neg (Nat.not_lt.2 h)]
    · have hexec := (granuleCountHalving_eq die s).trans (if_pos h)
      refine ⟨_, hexec, execGranuleCountHalving_keepsMem die s _ hexec, ?_, ?_, fun p hp => ⟨halved die (s.gtime die) p, List.mem_map_of_mem hp, halved_spec die _ p⟩⟩
      · simp [State.die, State.onDie, hdie]
        rfl
      · rw [show ((State.onDie _ _ _).granules) = s.granules.map (halved die (s.gtime die)) from rfl, List.map_map]
        exact List.map_congr_left fun p _ => halved_home die _ p
  · intro g here begun
    refine ⟨fun hb => ?_, fun hb hport => ?_⟩
    · obtain ⟨r, hr, hst, hh⟩ := hb
      have hany : s.reqs.any (fun r => r.atHomeOf g.home gran && r.begun) = true :=
        List.any_eq_true.2 ⟨r, hr, by rw [Req.atHomeOf_iff.2 hh, Req.begun_iff.2 hst]; rfl⟩
      rw [claim_eq hm, if_pos (by rw [show s.reqs.any _ = true from hany]; rfl)]
    · have hexec := claim_done hm (fun r hr hh => by
        rw [← Bool.not_eq_true, Req.begun_iff]
        exact fun hst => hb ⟨r, hr, hst, Req.atHomeOf_iff.1 hh⟩) hport
      obtain ⟨hhome, hmoving, hat, hfwd, hlines, hhor, hhorl⟩ := s.claimed_spec gran d
      have hrq := s.claimed_reqs gran d
      refine ⟨_, hexec, execClaim_keepsMem gran s _ hexec, hhome, hmoving, hat, hfwd, hlines, hhor, hhorl, by rw [hrq, updBy, List.length_map], fun i r hr => ?_⟩
      rw [hrq, updBy, List.getElem?_map, hr, Option.map_some]
      refine ⟨fun hh hst => ?_, fun hh => ?_⟩
      · rw [if_pos (by rw [Req.atHomeOf_iff.2 hh, hst]; rfl)]
      · rw [if_neg ?_]
        rw [Bool.and_eq_true, Req.atHomeOf_iff, beq_iff_eq, not_and_or]
        exact hh

end Sys2Proof.Machine
end

section
/-! Bytes of a write, partials, combines, counters and releases, and `Obligations.PartialsAndReleases`. -/

namespace Sys2Proof.Machine

/-! Bytes of a write (R36) -/

/-- A byte of a stored value. -/
theorem rdByte_wrBytes_in (m : Sparse Byte) (a n x j : Nat) (h : Memory.wf m = true) (hj : j < n) : rdByte (wrBytes m a n x) (a + j) = BitVec.ofNat 8 (x / 256 ^ j) := by
  induction n generalizing m a x j with
  | zero => omega
  | succ n ih =>
    have hw := wf_wrByte m a (BitVec.ofNat 8 x) h
    rw [wrBytes]
    cases j with
    | zero =>
      rw [rdByte_wrBytes_out _ _ _ _ _ hw (by omega), rdByte_wrByte m a _ _ h]
      simp
    | succ j =>
      rw [show a + (j + 1) = a + 1 + j by omega, ih _ _ _ j hw (by omega), Nat.pow_succ, Nat.mul_comm, Nat.div_div_eq_div_mul]

/-- A byte of the bytes at an address. -/
theorem rdBytes_byte (m : Sparse Byte) (a n j : Nat) (hj : j < n) : BitVec.ofNat 8 (rdBytes m a n / 256 ^ j) = rdByte m (a + j) := by
  induction n generalizing a j with
  | zero => omega
  | succ n ih =>
    have hlt := (rdByte m a).isLt
    rw [rdBytes]
    cases j with
    | zero =>
      apply BitVec.eq_of_toNat_eq
      simp only [BitVec.toNat_ofNat, Nat.pow_zero, Nat.div_one, Nat.add_zero]
      omega
    | succ j =>
      rw [Nat.pow_succ', ← Nat.div_div_eq_div_mul, show ((rdByte m a).toNat + 256 * rdBytes m (a + 1) n) / 256 = rdBytes m (a + 1) n by omega,
        ih (a + 1) j (by omega), show a + 1 + j = a + (j + 1) by omega]

/-- A bit of the bytes at an address. -/
theorem getLsbD_rdBytes (m : Sparse Byte) (a n j k : Nat) (hj : j < n) (hk : k < 8) :
    (BitVec.ofNat 128 (rdBytes m a n)).getLsbD (8 * j + k) = (((rdByte m (a + j)).setWidth 128 : QWord) <<< (8 * j)).getLsbD (8 * j + k) := by
  have hbit : (rdByte m (a + j)).getLsbD k = (rdBytes m a n).testBit (8 * j + k) := by
    rw [← rdBytes_byte m a n j hj, BitVec.getLsbD_ofNat, decide_eq_true hk, Bool.true_and, show (256 : Nat) = 2 ^ 8 from rfl, ← Nat.pow_mul, Nat.testBit_div_two_pow, Nat.add_comm]
  rw [BitVec.getLsbD_ofNat, BitVec.getLsbD_shiftLeft, BitVec.getLsbD_setWidth, Nat.add_sub_cancel_left, hbit, decide_eq_false (by omega : ¬ 8 * j + k < 8 * j)]
  by_cases hlt : 8 * j + k < 128
  · simp [hlt, show k < 128 by omega]
  · simp [hlt]

/-- What a write does to memory, bit by bit. -/
theorem putBytes_wrBytes (m : List Host.Cell) (a n : Nat) (d mask : QWord) (h : Memory.wf m = true) :
    putBytes m (wrBytes m a n ((BitVec.ofNat 128 (rdBytes m a n) &&& ~~~mask) ||| (d &&& mask)).toNat) a n d mask := by
  intro b
  split
  · next hb =>
    obtain ⟨j, rfl⟩ : ∃ j, b = a + j := ⟨b - a, by omega⟩
    have hj : j < n := by omega
    dsimp only
    rw [rdByte_wrBytes_in m a n _ j h hj, Nat.add_sub_cancel_left]
    apply BitVec.eq_of_getLsbD_eq
    intro k hk
    rw [BitVec.getLsbD_ofNat, decide_eq_true hk, Bool.true_and, show (256 : Nat) = 2 ^ 8 from rfl, ← Nat.pow_mul, Nat.testBit_div_two_pow, BitVec.getLsbD_extractLsb',
      decide_eq_true hk, Bool.true_and, BitVec.testBit_toNat, Nat.add_comm k, BitVec.getLsbD_or, BitVec.getLsbD_or]
    simp only [BitVec.getLsbD_and, getLsbD_rdBytes m a n j k hj hk]
  · next hb => exact rdByte_wrBytes_out m a n _ b h (by omega)

/-- What a write in device memory does to it. -/
theorem putBytes_writePhys {s : State} (h : s.Inv) (pa n : Nat) (d mask : QWord) (hpa : isHost pa = false) :
    putBytes s.mem (s.writePhys pa n d mask).mem pa n d mask := by
  rw [State.writePhys, if_neg (by simp [hpa])]
  exact putBytes_wrBytes s.mem pa n d mask h

/-- What a write ordered at its home does to memory. -/
theorem putBytes_orderWrite {s : State} (h : s.Inv) (dd : Nat) (lease : BitVec 2) (pa n : Nat) (d mask : QWord) (hpa : isHost pa = false) :
    putBytes s.mem (s.orderWrite dd lease pa n d mask).mem pa n d (s.openMask pa mask n) := by
  rw [State.orderWrite_mem]
  exact putBytes_writePhys h pa n d _ hpa

/-! Requests and lines -/

theorem State.req_id {s : State} {r : Nat} {q : Req} (h : s.req r = some q) : q.id = r := by
  simpa using List.find?_some h

theorem State.req_congr {s t : State} (h : t.reqs = s.reqs) : t.req = s.req := by
  funext r
  rw [State.req, State.req, h]

/-- A request after a change of it that keeps its number. -/
theorem State.req_onReq {s : State} {r : Nat} {q : Req} (h : s.req r = some q) {f : Req → Req} (hf : ∀ x, (f x).id = x.id) : (s.onReq r f).req r = some (f q) := by
  have hq := State.req_id h
  rw [State.req] at h
  rw [State.req, State.onReq]
  dsimp only
  rw [find?_updBy (by intro x; simp [hf]), h]
  simp [hq]

theorem State.line_congr {s t : State} (h : t.lines = s.lines) : t.line = s.line := by
  funext l
  rw [State.line, State.line, h]

theorem State.line_onLine_self (s : State) (ln : Nat) (f : Line → Line) : (s.onLine ln f).line ln = f (s.line ln) := by
  unfold State.onLine
  split
  · next h =>
    obtain ⟨p, hp, hl⟩ := List.any_eq_true.1 h
    obtain ⟨y, hy⟩ := Option.isSome_iff_exists.1 (List.find?_isSome.2 ⟨p, hp, hl⟩ : (s.lines.find? (fun p => p.1 == ln)).isSome)
    have hly : y.1 = ln := by simpa using List.find?_some hy
    simp only [State.line]
    rw [find?_updBy (by intro; rfl), hy]
    simp [hly]
  · next h =>
    have hnone : s.lines.find? (fun p => p.1 == ln) = none := List.find?_eq_none.2 fun p hp hc => h (List.any_eq_true.2 ⟨p, hp, hc⟩)
    simp [State.line, List.find?_append, hnone]

theorem State.line_onLine_ne (s : State) {ln l : Nat} (hl : l ≠ ln) (f : Line → Line) : (s.onLine ln f).line l = s.line l := by
  unfold State.onLine
  split
  · simp only [State.line]
    rw [find?_updBy (by intro; rfl)]
    cases hf : s.lines.find? (fun p => p.1 == l) with
    | none => rfl
    | some y =>
      have hly : y.1 = l := by simpa using List.find?_some hf
      simp [hly, hl]
  · have hne : ((ln == l) : Bool) = false := by simpa using fun h => hl h.symm
    simp [State.line, List.find?_append, hne]

/-- What a line change leaves. -/
theorem State.onLine_keeps (s : State) (ln : Nat) (f : Line → Line) : (s.onLine ln f).reqs = s.reqs ∧ (s.onLine ln f).partials = s.partials ∧
    (s.onLine ln f).copies = s.copies ∧ (s.onLine ln f).cores = s.cores ∧ (s.onLine ln f).hub = s.hub ∧ (s.onLine ln f).granules = s.granules ∧ (s.onLine ln f).dies = s.dies := by
  unfold State.onLine
  split <;> exact ⟨rfl, rfl, rfl, rfl, rfl, rfl, rfl⟩

/-! Commutative partials (R63) -/

/-- A partial into whose word `k` the value `v` was folded. -/
def Partial.folded (op : CommOp) (k : Nat) (v : Word) (p : Partial) : Partial :=
  { p with words := p.words.filter (fun e => e.1 != k) ++ [(k, commFold op (((p.words.find? (fun e => e.1 == k)).map (fun e => e.2)).getD (commIdentity op)) v)] }

theorem State.foldPartial_of_has {s : State} {c addr : Nat} (h : s.hasPartial c addr = true) (op : CommOp) (v : Word) : s.foldPartial c addr op v =
    { s with partials := updBy (fun p => p.core == c && p.line == lineOf addr) (Partial.folded op (addr % 128 / 4) v) s.partials } := by
  simp only [State.foldPartial, h, if_true]
  rfl

theorem State.foldPartial_of_not {s : State} {c addr : Nat} (h : s.hasPartial c addr = false) (op : CommOp) (v : Word) : s.foldPartial c addr op v =
    { (s.makeRoom c (lineOf addr)) with partials := (updBy (fun p => p.core == c && p.line == lineOf addr) (Partial.folded op (addr % 128 / 4) v)
        ((s.makeRoom c (lineOf addr)).partials ++ [{ core := c, line := lineOf addr, op := op, words := [] }])) } := by
  simp only [State.foldPartial, h, Bool.false_eq_true, if_false]
  rfl

theorem State.makeRoom_lines (s : State) (c ln : Nat) : (s.makeRoom c ln).lines = s.lines := by
  unfold State.makeRoom
  dsimp only
  split
  · rfl
  · split
    · exact State.evictLine_lines _ _ _
    · rfl

theorem State.foldPartial_lines (s : State) (c addr : Nat) (op : CommOp) (v : Word) : (s.foldPartial c addr op v).lines = s.lines := by
  cases h : s.hasPartial c addr with
  | true => rw [State.foldPartial_of_has h]
  | false => rw [State.foldPartial_of_not h]; exact s.makeRoom_lines c _

theorem State.dropReq_only (s : State) (id : Nat) : s.dropReq id = { s with reqs := s.reqs.filter (fun r => r.id != id) } := rfl

theorem State.snapNote_keeps (s : State) (u : Nat) : (s.snapNote u).lines = s.lines ∧ (s.snapNote u).reqs = s.reqs ∧ (s.snapNote u).partials = s.partials := by
  unfold State.snapNote
  split <;> exact ⟨rfl, rfl, rfl⟩

/-- What the end of a COMM leaves: it is answered and nothing else. -/
theorem State.answered_keeps (s : State) (id u : Nat) : ((s.dropReq id).snapNote u).lines = s.lines ∧ ((s.dropReq id).snapNote u).partials = s.partials ∧
    ∀ p ∈ ((s.dropReq id).snapNote u).reqs, p.id ≠ id := by
  obtain ⟨hl, hr, hp⟩ := (s.dropReq id).snapNote_keeps u
  refine ⟨hl, hp, fun p hpm => ?_⟩
  rw [hr] at hpm
  simpa using (List.mem_filter.1 hpm).2

/-- The partials of a line of a core after a fold into one word (R63). -/
theorem State.mem_foldPartial {s : State} {c addr : Nat} (h : s.hasPartial c addr = true) (op : CommOp) (v : Word) {p : Partial} (hp : p ∈ s.partials)
    (hc : p.core = c) (hl : p.line = lineOf addr) : ∃ p' ∈ (s.foldPartial c addr op v).partials, p'.core = p.core ∧ p'.line = p.line ∧ p'.op = p.op ∧
      (addr % 128 / 4, commFold op (((p.words.find? (fun e => e.1 == addr % 128 / 4)).map (fun e => e.2)).getD (commIdentity op)) v) ∈ p'.words ∧
      ∀ e ∈ p.words, e.1 ≠ addr % 128 / 4 → e ∈ p'.words := by
  refine ⟨Partial.folded op (addr % 128 / 4) v p, ?_, rfl, rfl, rfl, List.mem_append_right _ (List.mem_singleton_self _), fun e he hne => ?_⟩
  · rw [State.foldPartial_of_has h]
    exact List.mem_map.2 ⟨p, hp, if_pos (by simp [hc, hl])⟩
  · exact List.mem_append_left _ (List.mem_filter.2 ⟨he, by simpa using hne⟩)

/-- A core that held no partial of the line begins one at the identity (R63). -/
theorem State.mem_foldPartial_new {s : State} {c addr : Nat} (h : s.hasPartial c addr = false) (op : CommOp) (v : Word) :
    ∃ p ∈ (s.foldPartial c addr op v).partials, p.core = c ∧ p.line = lineOf addr ∧ p.op = op ∧ p.words = [(addr % 128 / 4, commFold op (commIdentity op) v)] := by
  let new : Partial := { core := c, line := lineOf addr, op := op, words := [] }
  refine ⟨Partial.folded op (addr % 128 / 4) v new, ?_, rfl, rfl, rfl, rfl⟩
  rw [State.foldPartial_of_not h]
  exact List.mem_map.2 ⟨new, List.mem_append_right _ (List.mem_singleton_self _), if_pos (by simp [new])⟩

/-! The turn of a request at its home (R52, R297) -/

/-- A request whose turn has come is queued or waits. -/
theorem State.stage_ne_sent_of_turnOf {s : State} {q : Req} (h : s.turnOf q = true) : q.stage ≠ .sent := by
  intro hs
  simp [State.turnOf, hs] at h

/-- A request at its home, in a window that is not lost. -/
def State.isHere (s : State) (q : Req) : Prop := q.isBuf = false ∧ isHost q.addr = false ∧ q.refused = false ∧ s.windowGone q.addr = false ∧ q.target = s.homeOf q.addr

/-- What the home does with a request that is there (R52, R64, R297). -/
theorem State.atHome_here {s : State} {q : Req} (h : s.isHere q) (go : State → Req → State) : s.atHome q go =
    if q.stage = .sent then (if !s.inScb q && !s.staysHere q && s.firstToSlice q then s.enqueue q else s)
    else if !s.turnOf q then s
    else if q.stage = .queued ∧ !q.acc.isFlush ∧ s.linesBusy q.seq q then s.onReq q.id (fun q => { q with stage := .waiting })
    else go s q := by
  obtain ⟨hbuf, hhost, href, hgone, htarget⟩ := h
  rw [State.atHome, if_neg (by simp [hbuf, hhost, href, hgone, htarget])]

/-- In its turn a request that need not wait for its lines is performed. -/
theorem State.atHome_turn {s : State} {q : Req} (h : s.isHere q) (ht : s.turnOf q = true) (hb : q.acc.isFlush = true ∨ (q.stage = .queued → s.linesBusy q.seq q = false))
    (go : State → Req → State) : s.atHome q go = go s q := by
  rw [State.atHome_here h, if_neg (State.stage_ne_sent_of_turnOf ht), if_neg (by simp [ht]), if_neg ?_]
  rintro ⟨hq, hf, hl⟩
  rcases hb with hb | hb
  · simp [hb] at hf
  · simp [hb hq] at hl

theorem exec_partialRegistration {s : State} {r : Nat} {q : Req} {op : CommOp} (h : s.req r = some q) (hacc : q.acc = .comm op) : exec (.partialRegistration r) s =
    .next (if s.hasPartial q.core q.addr && q.stage == .sent && !s.inScb q && s.foldsNext q then
        ((s.foldPartial q.core q.addr op (q.data.setWidth 32)).dropReq r).snapNote q.gid
      else s.atHome q (State.register op)) := by
  change execPartialRegistration r s = _
  simp only [execPartialRegistration, h, hacc]

/-- The state in which a COMM folds when its home has registered its core. -/
def State.registered (s : State) (q : Req) : State :=
  (s.learnHome q.die q.addr).onLine (lineOf q.addr) (fun l => { l with holders := l.holders.filter (fun c => c != q.core) ++ [q.core] })

theorem State.registered_spec (s : State) (q : Req) : (s.registered q).partials = s.partials ∧ q.core ∈ ((s.registered q).line (lineOf q.addr)).holders := by
  refine ⟨?_, ?_⟩
  · obtain ⟨-, hp, -⟩ := (s.learnHome q.die q.addr).onLine_keeps (lineOf q.addr) (fun l => { l with holders := l.holders.filter (fun c => c != q.core) ++ [q.core] })
    exact hp
  · rw [State.registered, State.line_onLine_self]
    exact List.mem_append_right _ (List.mem_singleton_self _)

theorem State.register_eq (s : State) (op : CommOp) (q : Req) : State.register op s q =
    (((s.registered q).foldPartial q.core q.addr op (q.data.setWidth 32)).dropReq q.id).snapNote q.gid := rfl

/-- The home registers a core as a holder, and the COMM folds (R63). -/
theorem State.register_spec (s : State) (op : CommOp) (q : Req) : (∀ p ∈ (State.register op s q).reqs, p.id ≠ q.id) ∧
    q.core ∈ ((State.register op s q).line (lineOf q.addr)).holders ∧
    (State.register op s q).partials = ((s.registered q).foldPartial q.core q.addr op (q.data.setWidth 32)).partials := by
  obtain ⟨hl, hp, hr⟩ := ((s.registered q).foldPartial q.core q.addr op (q.data.setWidth 32)).answered_keeps q.id q.gid
  obtain ⟨-, hh⟩ := s.registered_spec q
  refine ⟨hr, ?_, hp⟩
  rw [State.register_eq, State.line_congr hl, State.line_congr (State.foldPartial_lines _ _ _ _ _)]
  exact hh

/-! Flushes and recalls (R63, R64) -/

theorem exec_partialFlush {s : State} {r : Nat} {q : Req} {op : CommOp} (h : s.req r = some q) (hacc : q.acc = .flush op) : exec (.partialFlush r) s =
    .next (s.atHome q (fun s q => (s.learnHome q.die q.addr).flushHome q op)) := by
  change execPartialFlush r s = _
  simp only [execPartialFlush, h, hacc]

/-- The state in which a home answers a flushed word, once it has folded it. -/
def State.flushed (s : State) (q : Req) (op : CommOp) : State :=
  s.orderWrite q.die q.lease q.addr 4 ((commFold op (BitVec.ofNat 32 (s.readPhys q.addr 4)) (q.data.setWidth 32)).setWidth 128) (fullMask 4)

/-- Changes of lines leave the requests, the copies, the cores and the partials. -/
theorem foldl_onLine_keeps (f : Nat → Line → Line) (ls : List Nat) (s : State) :
    (ls.foldl (fun t ln => t.onLine ln (f ln)) s).reqs = s.reqs ∧ (ls.foldl (fun t ln => t.onLine ln (f ln)) s).copies = s.copies ∧
      (ls.foldl (fun t ln => t.onLine ln (f ln)) s).partials = s.partials ∧ (ls.foldl (fun t ln => t.onLine ln (f ln)) s).cores = s.cores := by
  induction ls generalizing s with
  | nil => exact ⟨rfl, rfl, rfl, rfl⟩
  | cons l ls ih =>
    obtain ⟨hr, hp, hk, hc, -⟩ := s.onLine_keeps l (f l)
    obtain ⟨hr', hk', hp', hc'⟩ := ih (s.onLine l (f l))
    exact ⟨hr'.trans hr, hk'.trans hk, hp'.trans hp, hc'.trans hc⟩

/-- A line after changes of some lines, each listed once. -/
theorem line_foldl_onLine (f : Nat → Line → Line) {ls : List Nat} (hls : ls.Nodup) (s : State) (l : Nat) :
    (ls.foldl (fun t ln => t.onLine ln (f ln)) s).line l = if l ∈ ls then f l (s.line l) else s.line l := by
  induction ls generalizing s with
  | nil => rfl
  | cons k ls ih =>
    obtain ⟨hk, hls⟩ := List.nodup_cons.1 hls
    rw [List.foldl_cons, ih hls]
    by_cases h : l = k
    · subst h
      simp [hk, State.line_onLine_self]
    · simp [h, State.line_onLine_ne _ h]

theorem nodup_linesOf (pa n : Nat) : (linesOf pa n).Nodup := by
  unfold linesOf
  split
  · exact List.nodup_singleton _
  · next h => simp [Ne.symm h]

/-- The line of an address that a write makes W of, and marks when a horizon lay ahead (R68, R69). -/
def State.marked (s : State) (lease : BitVec 2) (pa n : Nat) (ln : Nat) (l : Line) : Line :=
  { l with w := s.nextW pa n, hot := if s.homeNow pa < s.horizonOf ln ∧ lease ≠ 3 then s.homeNow pa + 1000000 else l.hot }

theorem State.orderWrite_eq (s : State) (d : Nat) (lease : BitVec 2) (pa n : Nat) (data mask : QWord) : s.orderWrite d lease pa n data mask =
    (((linesOf pa n).foldl (fun t ln => t.onLine ln (s.marked lease pa n ln)) s).noteWrite d (granuleOf pa)).writePhys pa n data (s.openMask pa mask n) := rfl

theorem State.writePhys_keeps (s : State) (pa n : Nat) (data mask : QWord) : (s.writePhys pa n data mask).reqs = s.reqs ∧ (s.writePhys pa n data mask).copies = s.copies ∧
    (s.writePhys pa n data mask).lines = s.lines := by
  unfold State.writePhys
  split
  · exact ⟨rfl, rfl, rfl⟩
  · dsimp only
    split <;> exact ⟨rfl, rfl, rfl⟩

/-- What ordering a write leaves, and what it makes of its lines (R69). -/
theorem State.orderWrite_spec (s : State) (d : Nat) (lease : BitVec 2) (pa n : Nat) (data mask : QWord) :
    (s.orderWrite d lease pa n data mask).reqs = s.reqs ∧ (s.orderWrite d lease pa n data mask).copies = s.copies ∧
    ∀ l ∈ linesOf pa n, ((s.orderWrite d lease pa n data mask).line l).w = s.nextW pa n := by
  let s1 := (linesOf pa n).foldl (fun t ln => t.onLine ln (s.marked lease pa n ln)) s
  obtain ⟨hr, hk, -⟩ := foldl_onLine_keeps (s.marked lease pa n) (linesOf pa n) s
  obtain ⟨hr', hk', hl'⟩ := (s1.noteWrite d (granuleOf pa)).writePhys_keeps pa n data (s.openMask pa mask n)
  rw [State.orderWrite_eq]
  refine ⟨hr'.trans hr, hk'.trans hk, fun l hl => ?_⟩
  rw [State.line_congr hl', show (s1.noteWrite d (granuleOf pa)).line = s1.line from State.line_congr rfl, line_foldl_onLine _ (nodup_linesOf pa n), if_pos hl]
  rfl

/-- A flushed word is folded into the home's (R63). -/
theorem State.flushHome_spec {s : State} {r : Nat} {q : Req} (h : s.req r = some q) (op : CommOp) : (s.flushHome q op).mem = (s.flushed q op).mem ∧
    ∃ q', (s.flushHome q op).req r = some q' ∧ q'.stage = .served := by
  have hq := State.req_id h
  obtain ⟨hr, -⟩ := s.orderWrite_spec q.die q.lease q.addr 4 ((commFold op (BitVec.ofNat 32 (s.readPhys q.addr 4)) (q.data.setWidth 32)).setWidth 128) (fullMask 4)
  have hserve (t : State) (ht : t.reqs = s.reqs) : ∃ q', (t.onReq q.id (fun x => { x with stage := .served, w := s.nextW q.addr 4 })).req r = some q' ∧ q'.stage = .served := by
    rw [hq]
    exact ⟨_, State.req_onReq (by rw [State.req_congr ht]; exact h) (fun _ => rfl), rfl⟩
  unfold State.flushHome
  dsimp only
  split
  · exact ⟨rfl, hserve _ hr⟩
  · obtain ⟨hr', -⟩ := (s.flushed q op).onLine_keeps (lineOf q.addr) (fun l => { l with holders := l.holders.filter (fun c => c != q.core) })
    exact ⟨State.onLine_mem _ _ _, hserve _ (hr'.trans hr)⟩

theorem State.readPhys_of_device {s : State} {pa : Nat} (h : isHost pa = false) (n : Nat) : s.readPhys pa n = rdBytes s.mem pa n := by
  rw [State.readPhys, if_neg (by simp [h])]

/-- PARTIAL_FLUSH in its turn. -/
theorem partialFlush_turn {s : State} {r : Nat} {q : Req} {op : CommOp} (h : s.req r = some q) (hacc : q.acc = .flush op) (hh : s.isHere q) (ht : s.turnOf q = true) (hinv : s.Inv) :
    ∃ t, exec (.partialFlush r) s = .next t ∧ (∃ q', t.req r = some q' ∧ q'.stage = .served) ∧
      putBytes s.mem t.mem q.addr 4 ((commFold op (BitVec.ofNat 32 (rdBytes s.mem q.addr 4)) (q.data.setWidth 32)).setWidth 128) (s.openMask q.addr (fullMask 4) 4) := by
  obtain ⟨hmem, hserved⟩ := (State.flushHome_spec (s := s.learnHome q.die q.addr) h op)
  have hhost : isHost q.addr = false := hh.2.1
  refine ⟨_, ?_, hserved, ?_⟩
  · rw [exec_partialFlush h hacc, State.atHome_turn hh ht (Or.inl (by rw [hacc]; rfl))]
  · rw [hmem, State.flushed, State.readPhys_of_device hhost]
    exact putBytes_orderWrite (s := s.learnHome q.die q.addr) hinv _ _ _ _ _ _ hhost

/-- What a holder returns of its partials when a line is recalled (R64). -/
def State.returned (s : State) (q : Req) (core : Nat) : List (Nat × Nat × CommOp × Word) :=
  (s.partials.filter (fun p => p.core == core && (linesOf q.addr q.n).contains p.line)).flatMap (fun p => p.words.map (fun e => (core, 32 * p.line + e.1, p.op, e.2)))

/-- PARTIAL_RECALL (R64). -/
theorem partialRecall_spec {s : State} {r core : Nat} {q : Req} (h : s.req r = some q) (hst : q.stage = .combining) (hc : core ∈ q.holders) :
    ∃ t, exec (.partialRecall r core) s = .next t ∧ t.mem = s.mem ∧
      t.partials = s.partials.filter (fun p => !(p.core == core && (linesOf q.addr q.n).contains p.line)) ∧ (∀ l ∈ linesOf q.addr q.n, core ∉ (t.line l).holders) ∧
      ∃ q', t.req r = some q' ∧ q'.stage = .combining ∧ q'.holders = q.holders.filter (fun c => c != core) ∧ q'.parts = q.parts ++ s.returned q core := by
  let s1 := s.onReq r (fun x => { x with holders := x.holders.filter (fun c => c != core), parts := x.parts ++ s.returned q core })
  let s2 := (linesOf q.addr q.n).foldl (fun t ln => t.onLine ln (fun l => { l with holders := l.holders.filter (fun c => c != core) })) s1
  have hexec : exec (.partialRecall r core) s = .next { s2 with partials := s.partials.filter (fun p => !(p.core == core && (linesOf q.addr q.n).contains p.line)) } := by
    change execPartialRecall r core s = _
    simp only [execPartialRecall, h, hst, List.contains_iff_mem, hc, and_self, if_true]
    rfl
  obtain ⟨hr, -⟩ := foldl_onLine_keeps (fun _ l => { l with holders := l.holders.filter (fun c => c != core) }) (linesOf q.addr q.n) s1
  refine ⟨_, hexec, execPartialRecall_keepsMem r core s _ hexec, rfl, fun l hl => ?_, ?_⟩
  · change core ∉ (s2.line l).holders
    rw [line_foldl_onLine _ (nodup_linesOf _ _), if_pos hl]
    simp
  · change ∃ q', s2.req r = some q' ∧ _
    rw [show s2.req = s1.req from State.req_congr hr]
    exact ⟨_, State.req_onReq h (fun _ => rfl), hst, rfl, rfl⟩

/-! COMBINE_COMPLETE (R64) -/

/-- Memory after a home folded the returned words in their order (R64). -/
def foldedParts (parts : List (Nat × Nat × CommOp × Word)) (m : List Host.Cell) : List Host.Cell :=
  (parts.mergeSort (fun a b => decide (a.1 ≤ b.1))).foldl (fun m p =>
    wrBytes m (4 * p.2.1) 4 (commFold p.2.2.1 (BitVec.ofNat 32 (rdBytes m (4 * p.2.1) 4)) p.2.2.2).toNat) m

theorem foldParts_eq (s : State) (parts : List (Nat × Nat × CommOp × Word)) : foldParts s parts = { s with mem := foldedParts parts s.mem } := rfl

section
variable {s : State} {r : Nat} {q : Req}

theorem combineComplete_waits (h : s.req r = some q) (hw : q.holders ≠ [] ∨ ∃ l ∈ linesOf q.addr q.n, s.flushOwed l = true) : exec (.combineComplete r) s = .next s := by
  change execCombineComplete r s = _
  simp only [execCombineComplete, h]
  rw [if_neg ?_]
  rintro ⟨-, hh, hf⟩
  rcases hw with hw | ⟨l, hl, hlf⟩
  · exact hw (by simpa using hh)
  · rw [Bool.not_eq_true', List.any_eq_false] at hf
    exact hf l hl hlf

theorem combineComplete_performs (h : s.req r = some q) (hst : q.stage = .combining) (hh : q.holders = []) (hf : ∀ l ∈ linesOf q.addr q.n, s.flushOwed l = false) :
    exec (.combineComplete r) s = .next (((foldParts s q.parts).onReq r (fun x => { x with parts := [] })).begin_ { q with parts := [] }) := by
  change execCombineComplete r s = _
  simp only [execCombineComplete, h]
  rw [if_pos ⟨hst, by rw [hh]; rfl, by simpa using hf⟩]

/-- A load of a combined line is granted no lease (R68). -/
theorem State.grantLease_combine (hc : q.combine = true) : s.grantLease q = s := by
  unfold State.grantLease
  dsimp only
  rw [if_pos (Or.inr (Or.inl hc))]

/-- The value of a load served at its home: the bytes there with its own core's over them (R66). -/
def State.seenAt (s : State) (q : Req) : QWord :=
  let own := if q.fixed then (q.data, q.mask) else if q.combine then (0, 0) else s.coreView q.core q.addr q.n
  (BitVec.ofNat 128 (rdBytes s.mem q.addr q.n) &&& ~~~own.2) ||| (own.1 &&& own.2)

theorem State.loadHome_eq (hhost : isHost q.addr = false) : s.loadHome q =
    (s.grantLease q).onReq q.id (fun x => { x with stage := .served, val := s.seenAt q, poisoned := q.poisoned || s.poisonedAt q.addr q.n }) := by
  unfold State.loadHome State.seenAt
  simp only [State.readPhys_of_device hhost, hhost, Bool.false_eq_true, false_or, layOver]

end

/-- What a home knows of a granule's claims changes no line, no clock and no granule. -/
theorem State.gtime_learnHome (s : State) (die pa d : Nat) : (s.learnHome die pa).gtime d = s.gtime d := by
  have hgofs : ((s.learnHome die pa).die d).gofs = (s.die d).gofs := by
    simp only [State.die, State.learnHome, State.onDie_dies, List.getD_eq_getElem?_getD, List.getElem?_modify]
    split
    · cases s.dies[d]? <;> rfl
    · simp
  simp only [State.gtime, hgofs]
  rfl

theorem State.homeNow_learnHome (s : State) (die pa a : Nat) : (s.learnHome die pa).homeNow a = s.homeNow a := State.gtime_learnHome _ _ _ _

theorem layOver_zero (x : QWord) : (x &&& ~~~(0 : QWord)) ||| ((0 : QWord) &&& 0) = x := by
  rw [BitVec.and_self, show (0 : QWord) = 0#128 from rfl, BitVec.or_zero, BitVec.not_zero, BitVec.and_allOnes]

/-- COMBINE_COMPLETE of a load (R64). -/
theorem combineComplete_load {s : State} {r : Nat} {q : Req} (h : s.req r = some q) (hst : q.stage = .combining) (hh : q.holders = [])
    (hf : ∀ l ∈ linesOf q.addr q.n, s.flushOwed l = false) (hacc : q.acc = .load) (hc : q.combine = true) (hfix : q.fixed = false)
    (hw : ∀ l ∈ linesOf q.addr q.n, (s.line l).w ≤ s.homeNow q.addr) (hhost : isHost q.addr = false) :
    ∃ t, exec (.combineComplete r) s = .next t ∧ t.mem = foldedParts q.parts s.mem ∧ ∃ q', t.req r = some q' ∧ q'.stage = .served ∧ q'.parts = [] ∧
      q'.val = BitVec.ofNat 128 (rdBytes (foldedParts q.parts s.mem) q.addr q.n) := by
  let q1 : Req := { q with parts := [] }
  let s1 := (foldParts s q.parts).onReq r (fun x => { x with parts := [] })
  let s2 := s1.learnHome q.die q.addr
  have hreq : s2.req r = some q1 := State.req_onReq (s := foldParts s q.parts) h (fun _ => rfl)
  have hahead : (linesOf q1.addr q1.n).any (fun ln => decide (s2.homeNow q1.addr < (s2.line ln).w)) = false := by
    refine List.any_eq_false.2 fun l hl hlt => ?_
    have hnow : s2.homeNow q.addr = s.homeNow q.addr := s1.homeNow_learnHome _ _ _
    exact absurd (hw l hl) (Nat.not_le.2 (hnow ▸ of_decide_eq_true hlt))
  have hbegin : s1.begin_ q1 = s2.loadHome q1 := by
    unfold State.begin_
    dsimp only
    rw [if_neg (by simp [q1, hst]), if_neg (by rw [show s1.learnHome q1.die q1.addr = s2 from rfl, hahead, Bool.and_false]; decide)]
    simp only [State.serveHome, q1, hacc]
    rfl
  have hseen : s2.seenAt q1 = BitVec.ofNat 128 (rdBytes (foldedParts q.parts s.mem) q.addr q.n) := by
    simp only [State.seenAt, q1, hfix, hc, Bool.false_eq_true, if_false, if_true]
    exact layOver_zero _
  have hid : q.id = r := State.req_id h
  refine ⟨_, (combineComplete_performs h hst hh hf).trans (congrArg _ hbegin), ?_, ?_⟩
  · rw [State.loadHome_eq (q := q1) hhost, State.grantLease_combine (q := q1) hc]
    rfl
  · rw [State.loadHome_eq (q := q1) hhost, State.grantLease_combine (q := q1) hc, show q1.id = r from hid]
    exact ⟨_, State.req_onReq hreq (fun _ => rfl), rfl, rfl, hseen⟩

/-! COUNTER_RETIRE (R81) -/

/-- The operations of a class that are left: those from the first uncompleted one on; other classes keep theirs. -/
theorem filter_retireOps (done : COp → Bool) (cls k : Nat) (l : List COp) : (retireOps done cls l).filter (fun o => o.cls == k) =
    if k = cls then (l.filter (fun o => o.cls == k)).dropWhile done else l.filter (fun o => o.cls == k) := by
  induction l with
  | nil => simp [retireOps]
  | cons o rest ih =>
    rw [retireOps]
    by_cases ho : o.cls = cls
    · rw [if_pos ho]
      by_cases hk : k = cls
      · subst hk
        rw [if_pos rfl] at ih ⊢
        cases hd : done o <;> simp [ho, hd, ih]
      · rw [if_neg hk] at ih ⊢
        have hko : (o.cls == k) = false := by simpa [ho] using fun h => hk h.symm
        cases hd : done o <;> simp [hko, ih]
    · rw [if_neg ho]
      by_cases hk : k = cls
      · subst hk
        rw [if_pos rfl] at ih ⊢
        simp [ho, ih]
      · rw [if_neg hk] at ih ⊢
        simp [List.filter_cons, ih]

/-- COUNTER_RETIRE of a group (R81). -/
theorem counterRetire_spec {s : State} {g : Group} (hg : g ∈ s.allGroups) (cls : Nat) : ∃ t y, exec (.counterRetire g.uid cls) s = .next t ∧ t.mem = s.mem ∧
    y ∈ t.allGroups ∧ y.uid = g.uid ∧ y.s = g.s ∧
    (∀ k, y.ops.filter (fun o => o.cls == k) =
      if k = cls then (g.ops.filter (fun o => o.cls == k)).dropWhile s.opDone else g.ops.filter (fun o => o.cls == k)) ∧
    y.lanes = g.lanes.map (fun x => match x.hold with
      | .wait a b c d next => if under (y.counter 0) a && under (y.counter 1) b && under (y.counter 2) c && under (y.counter 3) d
          then { x with st := .eligible, hold := .none, pc := next, free := s.cycle + 1 } else x
      | _ => x) :=
  ⟨_, releaseWaits s.cycle { g with ops := retireOps s.opDone cls g.ops }, rfl, rfl, s.mem_onGroup hg _, rfl, rfl, fun k => filter_retireOps _ _ k _, rfl⟩

/-! The steps of a release (R72) -/

/-- The first release with a number, and the number of its group. -/
def State.firstRel (s : State) (id : Nat) : Option (Nat × Rel) := s.relView.findSome? (fun v => (v.2.find? (fun r => r.id == id)).map (fun r => (v.1, r)))

theorem State.findRel_view (s : State) (id : Nat) : (s.findRel id).map (fun p => (p.1.uid, p.2)) = s.firstRel id := by
  rw [State.findRel, State.firstRel, State.relView, List.findSome?_map, List.map_findSome?]
  congr 1
  funext g
  simp [Function.comp_def]

theorem State.findRel_id {s : State} {id : Nat} {g : Group} {x : Rel} (h : s.findRel id = some (g, x)) : x.id = id := by
  obtain ⟨y, -, hy⟩ := List.exists_of_findSome?_eq_some h
  obtain ⟨z, hz, he⟩ := Option.map_eq_some_iff.1 hy
  obtain ⟨-, rfl⟩ := Prod.mk.inj he
  simpa using List.find?_some hz

/-- Every release with number `id` is one of group `u`. -/
def State.relOnly (s : State) (id u : Nat) : Prop := ∀ v ∈ s.relView, (∃ z ∈ v.2, z.id = id) → v.1 = u

theorem findSome?_congr {α β : Type} {f g : α → Option β} {l : List α} (h : ∀ x ∈ l, f x = g x) : l.findSome? f = l.findSome? g := by
  induction l with
  | nil => rfl
  | cons x l ih => rw [List.findSome?_cons, List.findSome?_cons, h x List.mem_cons_self, ih fun y hy => h y (List.mem_cons_of_mem _ hy)]

/-- A release in a later stage, with what it waits for there. -/
def Rel.movedOn (stage : Nat) (waits : List Nat) (r : Rel) : Rel := { r with stage := stage, waits := waits }

theorem State.relView_relTo (s : State) (u id stage : Nat) (waits : List Nat) : (s.relTo u id stage waits).relView =
    s.relView.map (fun v => if v.1 == u then (v.1, updBy (fun x => x.id == id) (Rel.movedOn stage waits) v.2) else v) := by
  rw [State.relTo, State.relView, State.allGroups_onGroup, updBy, State.relView, List.map_map, List.map_map]
  refine List.map_congr_left fun g _ => ?_
  simp only [Function.comp]
  split <;> rfl

/-- What moving a release on does to the first release with its number. -/
theorem State.firstRel_relTo {s : State} {id u : Nat} (h : s.relOnly id u) (stage : Nat) (waits : List Nat) :
    (s.relTo u id stage waits).firstRel id = (s.firstRel id).map (fun p => (p.1, p.2.movedOn stage waits)) := by
  rw [State.firstRel, State.firstRel, State.relView_relTo, List.findSome?_map, List.map_findSome?]
  refine findSome?_congr fun v hv => ?_
  simp only [Function.comp]
  split
  · dsimp only
    rw [find?_updBy (by intro; rfl)]
    cases hf : v.2.find? (fun r => r.id == id) with
    | none => rfl
    | some z =>
      have hz : (z.id == id) = true := by simpa using List.find?_some hf
      simp only [Option.map_some, hz, if_true]
  · next hne =>
    have hnone : v.2.find? (fun r => r.id == id) = none :=
      List.find?_eq_none.2 fun z hz hzid => hne (by simpa using h v hv ⟨z, hz, by simpa using hzid⟩)
    rw [hnone]
    rfl

theorem State.relOnly_relTo {s : State} {id u : Nat} (h : s.relOnly id u) (stage : Nat) (waits : List Nat) : (s.relTo u id stage waits).relOnly id u := by
  rintro v hv ⟨z, hz, hzid⟩
  rw [State.relView_relTo] at hv
  obtain ⟨y, hy, rfl⟩ := List.mem_map.1 hv
  by_cases he : (y.1 == u) = true
  · rw [if_pos he]
    simpa using he
  · rw [if_neg he] at hz ⊢
    exact h y hy ⟨z, hz, hzid⟩

theorem State.relOnly_of_noRel {s : State} {id : Nat} (h : s.noRel id) (u : Nat) : s.relOnly id u := by
  rintro v hv ⟨z, hz, hzid⟩
  obtain ⟨g, hg, rfl⟩ := List.mem_map.1 hv
  exact absurd hzid (h g hg z hz)

theorem State.firstRel_of_noRel {s : State} {id : Nat} (h : s.noRel id) : s.firstRel id = none := by
  rw [State.firstRel, List.findSome?_eq_none_iff]
  intro v hv
  obtain ⟨g, hg, rfl⟩ := List.mem_map.1 hv
  rw [Option.map_eq_none_iff, List.find?_eq_none]
  exact fun z hz hzid => h g hg z hz (by simpa using hzid)

/-- The state after the end of a fence's release. -/
def State.fenceEnded (s : State) (g : Group) (x : Rel) (a : Bool) : State :=
  let s1 := s.onGroup g.uid (fun g => { g with rels := g.rels.filter (fun y => y.id != x.id) })
  let s2 := (if x.scope = 0 then s1 else s1.snapNote g.uid)
  let s3 := s2.onGroup g.uid (fun g => g.resume s2.cycle x.lanes x.next)
  if a then s3.acquire g.uid (fun l => x.lanes.getLsbD l) else s3

theorem State.endRel_fence {s : State} {g : Group} {x : Rel} {a : Bool} (hc : x.cont = .fence a) :
    ∃ new, s.endRel g x = (s.fenceEnded g x a).onGroup g.uid (Group.waitNew x.id new) := by
  refine ⟨?_, ?_⟩
  rotate_left
  · unfold State.endRel State.fenceEnded
    rw [hc]
    rfl

theorem State.snapNote_keeps' (s : State) (u : Nat) : (s.snapNote u).cores = s.cores ∧ (s.snapNote u).relView = s.relView ∧ (s.snapNote u).allGroups = s.allGroups ∧
    (s.snapNote u).cycle = s.cycle := by
  unfold State.snapNote
  split <;> exact ⟨rfl, rfl, rfl, rfl⟩

/-- No group has a release with a number after it has left the group that alone had it. -/
theorem State.noRel_filter {s : State} {id u : Nat} (h : s.relOnly id u) : (s.onGroup u (fun g => { g with rels := g.rels.filter (fun y => y.id != id) })).noRel id := by
  intro y hy z hz
  rw [State.allGroups_onGroup] at hy
  obtain ⟨g, hg, rfl⟩ := List.mem_map.1 hy
  by_cases hu : (g.uid == u) = true
  · rw [if_pos hu] at hz
    simpa using (List.mem_filter.1 hz).2
  · rw [if_neg hu] at hz
    exact fun hzid => hu (by simpa using h (g.uid, g.rels) (List.mem_map.2 ⟨g, hg, rfl⟩) ⟨z, hz, hzid⟩)

theorem State.noRel_congr {s t : State} {id : Nat} (h : t.relView = s.relView) (hs : s.noRel id) : t.noRel id := by
  intro y hy z hz
  have hv : (y.uid, y.rels) ∈ s.relView := h ▸ List.mem_map.2 ⟨y, hy, rfl⟩
  obtain ⟨g, hg, he⟩ := List.mem_map.1 hv
  obtain ⟨-, he⟩ := Prod.mk.inj he
  exact hs g hg z (he ▸ hz)

theorem State.noRel_onGroup {s : State} {id u : Nat} {k : Group → Group} (hs : s.noRel id) (hk : ∀ g, (k g).rels.map (fun r => r.id) = g.rels.map (fun r => r.id)) :
    (s.onGroup u k).noRel id := by
  intro y hy z hz hzid
  rw [State.allGroups_onGroup] at hy
  obtain ⟨g, hg, rfl⟩ := List.mem_map.1 hy
  by_cases hu : (g.uid == u) = true
  · rw [if_pos hu] at hz
    have hmem : z.id ∈ (k g).rels.map (fun r => r.id) := List.mem_map_of_mem hz
    rw [hk] at hmem
    obtain ⟨w, hw, he⟩ := List.mem_map.1 hmem
    exact hs g hg w hw (he.trans hzid)
  · rw [if_neg hu] at hz
    exact hs g hg z hz hzid

theorem Group.waitNew_ids (id : Nat) (new : List Nat) (g : Group) : (Group.waitNew id new g).rels.map (fun r => r.id) = g.rels.map (fun r => r.id) := by
  rw [Group.waitNew, List.map_map]
  refine List.map_congr_left fun r _ => ?_
  simp only [Function.comp]
  split <;> rfl

theorem State.relView_acquire (s : State) (u : Nat) (p : Nat → Bool) : (s.acquire u p).relView = s.relView := s.relView_onGroup u (by intro; rfl)

theorem State.fenceEnded_spec {s : State} {g : Group} {x : Rel} (a : Bool) (h : s.relOnly x.id g.uid) :
    (s.fenceEnded g x a).noRel x.id ∧ (s.fenceEnded g x a).cores = s.cores ∧ (s.fenceEnded g x a).partials = s.partials := by
  let s1 := s.onGroup g.uid (fun g => { g with rels := g.rels.filter (fun y => y.id != x.id) })
  let s2 := if x.scope = 0 then s1 else s1.snapNote g.uid
  let s3 := s2.onGroup g.uid (fun g => g.resume s2.cycle x.lanes x.next)
  have h2 : s2.relView = s1.relView ∧ s2.cores = s1.cores ∧ s2.partials = s1.partials := by
    simp only [s2]
    split
    · exact ⟨rfl, rfl, rfl⟩
    · obtain ⟨hc, hv, -, -⟩ := s1.snapNote_keeps' g.uid
      obtain ⟨-, -, hp⟩ := s1.snapNote_keeps g.uid
      exact ⟨hv, hc, hp⟩
  obtain ⟨hv2, hc2, hp2⟩ := h2
  have hv3 : s3.relView = s2.relView := s2.relView_onGroup g.uid fun _ => rfl
  have hno3 : s3.noRel x.id := State.noRel_congr (hv3.trans hv2) (State.noRel_filter h)
  cases a with
  | false => exact ⟨hno3, hc2, hp2⟩
  | true => exact ⟨State.noRel_congr (s3.relView_acquire g.uid _) hno3, hc2, hp2⟩

/-- The end of a fence's release sends nothing and leaves no release with its number. -/
theorem State.endRel_fence_spec {s : State} {g : Group} {x : Rel} {a : Bool} (hc : x.cont = .fence a) (h : s.relOnly x.id g.uid) :
    (s.endRel g x).noRel x.id ∧ (s.endRel g x).cores = s.cores ∧ (s.endRel g x).partials = s.partials := by
  obtain ⟨new, heq⟩ := State.endRel_fence (s := s) (g := g) hc
  obtain ⟨hno, hcores, hparts⟩ := State.fenceEnded_spec (s := s) (g := g) a h
  rw [heq]
  exact ⟨State.noRel_onGroup hno (Group.waitNew_ids x.id new), hcores, hparts⟩

/-- The first release with number `id`, if there is one, is a fence's that no longer waits for the older accesses. -/
def State.fencing (s : State) (id u : Nat) (a : Bool) : Prop :=
  s.relOnly id u ∧ ∀ p, s.firstRel id = some p → p.2.cont = .fence a ∧ p.2.stage ≠ 0

theorem State.fencing_of_noRel {s : State} {id : Nat} (h : s.noRel id) (u : Nat) (a : Bool) : s.fencing id u a :=
  ⟨State.relOnly_of_noRel h u, fun p hp => by rw [State.firstRel_of_noRel h] at hp; exact absurd hp (by simp)⟩

theorem State.fencing_relTo {s : State} {id u : Nat} {a : Bool} (h : s.relOnly id u) (hc : ∀ p, s.firstRel id = some p → p.2.cont = .fence a) {stage : Nat} (hst : stage ≠ 0)
    (waits : List Nat) : (s.relTo u id stage waits).fencing id u a := by
  refine ⟨State.relOnly_relTo h stage waits, fun p hp => ?_⟩
  rw [State.firstRel_relTo h] at hp
  obtain ⟨y, hy, rfl⟩ := Option.map_eq_some_iff.1 hp
  exact ⟨hc y hy, hst⟩

/-- A release of group `g` still waits for some access or older release (R72). -/
def State.relWaits (s : State) (g : Group) (x : Rel) : Bool := x.waits.any (s.relOwes { g with rels := g.rels.filter (fun y => y.id != x.id) } x.scope)

section
variable {s : State} {g : Group} {x : Rel} {a : Bool}

theorem State.relStep_zero_waits (hst : x.stage = 0) (h : s.relWaits g x = true ∨ s.unmatched g.uid x.id = true) : s.relStep g x = none := by
  have hw : (x.waits.any (s.relOwes { g with rels := g.rels.filter (fun y => y.id != x.id) } x.scope)) = s.relWaits g x := rfl
  unfold State.relStep
  dsimp only
  rw [hst, hw]
  rcases h with h | h <;> simp [h]

theorem State.relStep_one_waits (hst : x.stage = 1) (h : s.relWaits g x = true) : s.relStep g x = none := by
  have hw : (x.waits.any (s.relOwes { g with rels := g.rels.filter (fun y => y.id != x.id) } x.scope)) = s.relWaits g x := rfl
  unfold State.relStep
  dsimp only
  rw [hst, hw]
  simp [h]

theorem State.relStep_two_waits (hst : x.stage = 2) (h : s.gtime (s.dieOf g) < g.wct) : s.relStep g x = none := by
  unfold State.relStep
  dsimp only
  rw [hst]
  simp [Nat.not_le.2 h]

theorem State.mayFollow_fence (hc : x.cont = .fence a) : s.mayFollow g x = true := State.mayFollow_of_plain (by rw [hc]; trivial)

theorem State.relStep_fence_zero (hc : x.cont = .fence a) (hst : x.stage = 0) (hw : s.relWaits g x = false) (hu : s.unmatched g.uid x.id = false) (hs : x.scope ≠ 0) :
    s.relStep g x = some ((s.flushCore (s.unitOf g)).relTo g.uid x.id 1 ((s.flushCore (s.unitOf g)).coreWrites (s.unitOf g))) := by
  have hw' : (x.waits.any (s.relOwes { g with rels := g.rels.filter (fun y => y.id != x.id) } x.scope)) = s.relWaits g x := rfl
  unfold State.relStep
  dsimp only
  rw [hst, hw', hw, hu, hc]
  exact if_neg hs

theorem State.relStep_fence_one (hc : x.cont = .fence a) (hst : x.stage = 1) : s.relStep g x =
    if s.relWaits g x then none else if x.timed = false then some (s.endRel g x) else some ((s.raiseWct g.uid (s.core (s.unitOf g)).maxW).relTo g.uid x.id 2 []) := by
  have hw : (x.waits.any (s.relOwes { g with rels := g.rels.filter (fun y => y.id != x.id) } x.scope)) = s.relWaits g x := rfl
  unfold State.relStep
  dsimp only
  rw [hst, hw]
  simp [State.mayFollow_fence hc, hc]

theorem State.relStep_fence_two (hc : x.cont = .fence a) (hst : x.stage = 2) : s.relStep g x = if g.wct ≤ s.gtime (s.dieOf g) then some (s.endRel g x) else none := by
  unfold State.relStep
  dsimp only
  rw [hst]
  simp [State.mayFollow_fence hc]

theorem State.relStep_done (hst : 2 < x.stage) : s.relStep g x = none := by
  unfold State.relStep
  dsimp only
  split
  · omega
  · omega
  · omega
  · rfl

end

theorem State.relView_raiseWct (s : State) (u w : Nat) : (s.raiseWct u w).relView = s.relView := s.relView_onGroup u (by intro; rfl)

/-- The group of the first release with a number. -/
theorem State.relOnly_findRel {s : State} {id u : Nat} (h : s.relOnly id u) {g : Group} {x : Rel} (hf : s.findRel id = some (g, x)) : g ∈ s.allGroups ∧ x ∈ g.rels ∧ g.uid = u := by
  obtain ⟨y, hy, hmap⟩ := List.exists_of_findSome?_eq_some hf
  obtain ⟨z, hz, he⟩ := Option.map_eq_some_iff.1 hmap
  obtain ⟨rfl, rfl⟩ := Prod.mk.inj he
  have hmem := List.mem_of_find?_eq_some hz
  exact ⟨hy, hmem, h (y.uid, y.rels) (List.mem_map.2 ⟨y, hy, rfl⟩) ⟨z, hmem, State.findRel_id hf⟩⟩

/-- A step of a fence's release past its first stage sends nothing. -/
theorem State.relStep_fencing {s t : State} {id u : Nat} {a : Bool} {g : Group} {x : Rel} (h : s.fencing id u a) (hf : s.findRel id = some (g, x))
    (ht : s.relStep g x = some t) : t.fencing id u a ∧ t.cores = s.cores ∧ t.partials = s.partials := by
  obtain ⟨honly, hfirst⟩ := h
  have hid := State.findRel_id hf
  have hx : s.firstRel id = some (g.uid, x) := by rw [← State.findRel_view, hf]; rfl
  obtain ⟨hc, hst⟩ := hfirst _ hx
  obtain ⟨-, -, hu⟩ := State.relOnly_findRel honly hf
  have hend (he : t = s.endRel g x) : t.fencing id u a ∧ t.cores = s.cores ∧ t.partials = s.partials := by
    obtain ⟨hno, hcores, hparts⟩ := State.endRel_fence_spec (s := s) (g := g) hc (by rw [hid, hu]; exact honly)
    rw [hid] at hno
    rw [he]
    exact ⟨State.fencing_of_noRel hno u a, hcores, hparts⟩
  dsimp only at hst hc
  by_cases h1 : x.stage = 1
  · rw [State.relStep_fence_one hc h1] at ht
    split at ht
    · exact absurd ht (by simp)
    · split at ht
      · exact hend (Option.some.inj ht).symm
      · obtain rfl := Option.some.inj ht
        have hv := s.relView_raiseWct g.uid (s.core (s.unitOf g)).maxW
        rw [hid, hu] at *
        refine ⟨State.fencing_relTo (s := s.raiseWct u (s.core (s.unitOf g)).maxW) ?_ (fun p hp => ?_) (by decide) [], rfl, rfl⟩
        · rw [State.relOnly, hv]
          exact honly
        · rw [State.firstRel, hv] at hp
          exact (hfirst p hp).1
  · by_cases h2 : x.stage = 2
    · rw [State.relStep_fence_two hc h2] at ht
      split at ht
      · exact hend (Option.some.inj ht).symm
      · exact absurd ht (by simp)
    · rw [State.relStep_done (by omega)] at ht
      exact absurd ht (by simp)

/-- However far a fence's release goes past its first stage, it sends nothing. -/
theorem relRun_fencing {id u : Nat} {a : Bool} (n : Nat) {s : State} (h : s.fencing id u a) :
    (State.relRun id n s).cores = s.cores ∧ (State.relRun id n s).partials = s.partials := by
  induction n generalizing s with
  | zero => exact ⟨rfl, rfl⟩
  | succ n ih =>
    rw [State.relRun]
    cases hf : s.findRel id with
    | none => exact ⟨rfl, rfl⟩
    | some p =>
      obtain ⟨g, x⟩ := p
      dsimp only
      cases ht : s.relStep g x with
      | none => exact ⟨rfl, rfl⟩
      | some t =>
        obtain ⟨hfence, hc, hp⟩ := State.relStep_fencing h hf ht
        obtain ⟨hc', hp'⟩ := ih hfence
        exact ⟨hc'.trans hc, hp'.trans hp⟩

/-- A release that cannot go on leaves the state as it is. -/
theorem relRun_stays {s : State} {id : Nat} {g : Group} {x : Rel} (hf : s.findRel id = some (g, x)) (hs : s.relStep g x = none) (n : Nat) : State.relRun id n s = s := by
  cases n with
  | zero => rfl
  | succ n => simp only [State.relRun, hf, hs]

theorem relRun_goes {s t : State} {id : Nat} {g : Group} {x : Rel} (hf : s.findRel id = some (g, x)) (hs : s.relStep g x = some t) (n : Nat) :
    State.relRun id (n + 1) s = State.relRun id n t := by
  simp only [State.relRun, hf, hs]

/-! RELEASE_WCT_REACHED and PROMOTE_REQUEST (R72, R78) -/

section
variable {s : State} {r : Nat} {g : Group} {x : Rel}

/-- What a fence's release leaves once the older accesses are performed: the core has nothing of its own to send (R72). -/
theorem relRun_fence_flushes {a : Bool} (hf : s.findRel r = some (g, x)) (honly : s.relOnly r g.uid) (hc : x.cont = .fence a) (hst : x.stage = 0)
    (hw : s.relWaits g x = false) (hu : s.unmatched g.uid r = false) (hs : x.scope ≠ 0) :
    ((State.relRun r 3 s).core (s.unitOf g)).dirty = [] ∧ ∀ p ∈ (State.relRun r 3 s).partials, p.core ≠ s.unitOf g := by
  have hid := State.findRel_id hf
  have hx : s.firstRel r = some (g.uid, x) := by rw [← State.findRel_view, hf]; rfl
  let s1 := s.flushCore (s.unitOf g)
  have hv : s1.relView = s.relView := s.flushCore_relView _
  have hfence : (s1.relTo g.uid r 1 (s1.coreWrites (s.unitOf g))).fencing r g.uid a := by
    refine State.fencing_relTo (by rw [State.relOnly, hv]; exact honly) (fun p hp => ?_) (by decide) _
    rw [State.firstRel, hv] at hp
    obtain rfl := Option.some.inj (hx.symm.trans hp)
    exact hc
  obtain ⟨hcores, hparts⟩ := relRun_fencing 2 hfence
  obtain ⟨hdirty, hpart⟩ := s.flushCore_spec (s.unitOf g)
  have hstep := State.relStep_fence_zero hc hst hw (by rw [hid]; exact hu) hs
  rw [hid] at hstep
  rw [relRun_goes hf hstep, State.core_congr hcores, hparts]
  exact ⟨hdirty, hpart⟩

/-- A fence's release ends when GTIME has reached `WCT`: its lanes go on (R72). -/
theorem relRun_fence_ends (hf : s.findRel r = some (g, x)) (honly : s.relOnly r g.uid) (hc : x.cont = .fence false) (hst : x.stage = 2)
    (hw : g.wct ≤ s.gtime (s.dieOf g)) : ∃ y ∈ (State.relRun r 3 s).allGroups, y.uid = g.uid ∧ (∀ z ∈ y.rels, z.id ≠ r) ∧
      y.lanes = mapLanes (fun l z => if x.lanes.getLsbD l then z.wake s.cycle x.next else z) 0 g.lanes := by
  have hid := State.findRel_id hf
  obtain ⟨hg, -, -⟩ := State.relOnly_findRel honly hf
  obtain ⟨new, heq⟩ := State.endRel_fence (s := s) (g := g) hc
  obtain ⟨hno, -, -⟩ := State.endRel_fence_spec (s := s) (g := g) hc (by rw [hid]; exact honly)
  rw [hid] at hno
  rw [relRun_goes hf (by rw [State.relStep_fence_two hc hst, if_pos hw]), relRun_of_noRel hno, heq]
  let k1 (g : Group) : Group := { g with rels := g.rels.filter (fun y => y.id != x.id) }
  let s1 := s.onGroup g.uid k1
  let s2 := if x.scope = 0 then s1 else s1.snapNote g.uid
  have h2 : s2.allGroups = s1.allGroups ∧ s2.cycle = s.cycle := by
    simp only [s2]
    split
    · exact ⟨rfl, rfl⟩
    · obtain ⟨-, -, hgr, hcy⟩ := s1.snapNote_keeps' g.uid
      exact ⟨hgr, hcy⟩
  obtain ⟨hgr2, hcy2⟩ := h2
  have hm1 : k1 g ∈ s2.allGroups := hgr2 ▸ s.mem_onGroup hg k1
  have hm2 : (k1 g).resume s2.cycle x.lanes x.next ∈ (s.fenceEnded g x false).allGroups := s2.mem_onGroup hm1 (fun g => g.resume s2.cycle x.lanes x.next)
  have hm3 := State.mem_onGroup hm2 (Group.waitNew x.id new)
  refine ⟨_, hm3, rfl, fun z hz hzid => ?_, by rw [← hcy2]; rfl⟩
  have hmem : z.id ∈ (k1 g).rels.map (fun r => r.id) := by
    rw [← Group.waitNew_ids x.id new]
    exact List.mem_map_of_mem hz
  obtain ⟨w, hwm, he⟩ := List.mem_map.1 hmem
  have hne := (List.mem_filter.1 hwm).2
  simp only [bne_iff_ne, ne_eq] at hne
  exact hne (he.trans (hzid.trans hid.symm))

/-- A promoting release sends the victim core's dirty bytes and partials home, and waits for its writes (R78). -/
theorem promoteRequest_flushes {core : Nat} {more : List Nat} (hf : s.findRel r = some (g, x)) (hst : x.stage = 3) (hwaits : x.waits = core :: more) :
    exec (.promoteRequest r) s = .next ((s.flushCore core).relTo g.uid r 1 ((s.flushCore core).coreWrites core)) := by
  change execPromoteRequest r s = _
  simp only [execPromoteRequest, hf, hst, hwaits, List.head?_cons]

/-- A group and its releases after the core's flush and the release's next stage. -/
theorem State.mem_relTo {core : Nat} (hf : s.findRel r = some (g, x)) (honly : s.relOnly r g.uid) (stage : Nat) (waits : List Nat) :
    ∃ y ∈ ((s.flushCore core).relTo g.uid r stage waits).allGroups, y.uid = g.uid ∧ ∃ z ∈ y.rels, z.id = r ∧ z.stage = stage ∧ z.waits = waits := by
  have hid := State.findRel_id hf
  obtain ⟨hg, hx, -⟩ := State.relOnly_findRel honly hf
  have hmem : (g.uid, g.rels) ∈ (s.flushCore core).relView := by
    rw [s.flushCore_relView core]
    exact List.mem_map.2 ⟨g, hg, rfl⟩
  obtain ⟨y, hy, he⟩ := List.mem_map.1 hmem
  obtain ⟨hyu, hyr⟩ := Prod.mk.inj he
  let k (y : Group) : Group := { y with rels := updBy (fun x => x.id == r) (Rel.movedOn stage waits) y.rels }
  have hky : k y ∈ ((s.flushCore core).onGroup y.uid k).allGroups := State.mem_onGroup hy k
  rw [hyu] at hky
  refine ⟨k y, hky, hyu, x.movedOn stage waits, List.mem_map.2 ⟨x, hyr ▸ hx, if_pos (by simpa using hid)⟩, hid, rfl, rfl⟩

end

/-- Settles O39: each step is described by the lemmas above; a release in its first stage is followed through the steps it takes at once. -/
theorem partialsAndReleases : Obligations.PartialsAndReleases := by
  unfold Obligations.PartialsAndReleases
  intro r s
  refine ⟨fun q h => ?_, fun g cls hg => counterRetire_spec hg.1 cls, fun g x hg hf hall => ?_⟩
  · intro ln lines word turn folded
    have hid := State.req_id h
    have hhere (ht : turn) : s.isHere q := by
      obtain ⟨hbuf, hhost, href, htarget, hgone, -⟩ := ht
      exact ⟨hbuf, hhost, href, hgone, htarget⟩
    have hturn (ht : turn) : s.turnOf q = true := ht.2.2.2.2.2
    refine ⟨fun op hacc => ⟨fun hst hscb hhas hnext => ?_, fun ht hb => ?_⟩, fun op hacc ht hinv => partialFlush_turn h hacc (hhere ht) (hturn ht) hinv,
      fun core hst hc => partialRecall_spec h hst hc, fun hst hh hf hacc hc hfix hw hhost => combineComplete_load h hst hh hf hacc hc hfix hw hhost,
      fun hst hw => combineComplete_waits h hw⟩
    · have hexec : exec (.partialRegistration r) s = .next (((s.foldPartial q.core q.addr op (q.data.setWidth 32)).dropReq r).snapNote q.gid) := by
        rw [exec_partialRegistration h hacc, if_pos (by simp [hhas, hst, hscb, hnext])]
      obtain ⟨hl, hp, hr⟩ := (s.foldPartial q.core q.addr op (q.data.setWidth 32)).answered_keeps r q.gid
      refine ⟨_, hexec, execPartialRegistration_keepsMem r s _ hexec, hl.trans (State.foldPartial_lines _ _ _ _ _), hr, fun p hpm hc hln => ?_⟩
      rw [hp]
      exact State.mem_foldPartial hhas op _ hpm hc hln
    · have hexec : exec (.partialRegistration r) s = .next (State.register op s q) := by
        rw [exec_partialRegistration h hacc, if_neg (by simp [State.stage_ne_sent_of_turnOf (hturn ht)]), State.atHome_turn (hhere ht) (hturn ht) (Or.inr hb)]
      obtain ⟨hr, hholder, hp⟩ := State.register_spec s op q
      obtain ⟨hparts, -⟩ := s.registered_spec q
      have hhas : (s.registered q).hasPartial q.core q.addr = s.hasPartial q.core q.addr := by rw [State.hasPartial, State.hasPartial, hparts]
      refine ⟨_, hexec, execPartialRegistration_keepsMem r s _ hexec, by rw [← hid]; exact hr, hholder, fun hhp p hpm hc hln => ?_, fun hhp => ?_⟩
      · rw [hp]
        exact State.mem_foldPartial (by rw [hhas]; exact hhp) op _ (by rw [hparts]; exact hpm) hc hln
      · rw [hp]
        exact State.mem_foldPartial_new (by rw [hhas]; exact hhp) op _
  · intro now owes
    have hid := State.findRel_id hf
    have honly : s.relOnly r g.uid := by
      rintro v hv hz
      obtain ⟨y, hy, rfl⟩ := List.mem_map.1 hv
      exact hall y hy hz
    have howes : owes ↔ s.relWaits g x = true := by rw [State.relWaits, hid, List.any_eq_true]
    have hmem {t : State} (ht : exec (.releaseWctReached r) s = .next t) : t.mem = s.mem := execReleaseWctReached_keepsMem r s _ ht
    refine ⟨fun hst ho => ?_, fun a hst ho hu hs hc => ?_, fun hst ho => ?_, fun hst hlt => ?_, fun hst hle hc => ?_, fun core more hst hwaits => ?_⟩
    · exact congrArg _ (relRun_stays hf (State.relStep_zero_waits hst (ho.imp howes.1 (by rw [hid]; exact id))) 3)
    · exact ⟨_, rfl, hmem rfl, relRun_fence_flushes hf honly hc hst (by rw [← Bool.not_eq_true, ← howes]; exact ho) hu hs⟩
    · exact congrArg _ (relRun_stays hf (State.relStep_one_waits hst (howes.1 ho)) 3)
    · exact congrArg _ (relRun_stays hf (State.relStep_two_waits hst hlt) 3)
    · obtain ⟨y, hy, hfacts⟩ := relRun_fence_ends hf honly hc hst hle
      exact ⟨_, y, rfl, hmem rfl, hy, hfacts⟩
    · have hexec := promoteRequest_flushes hf hst hwaits
      obtain ⟨hdirty, hpart⟩ := s.flushCore_spec core
      obtain ⟨y, hy, hyu, hz⟩ := State.mem_relTo (core := core) hf honly 1 ((s.flushCore core).coreWrites core)
      exact ⟨_, y, hexec, execPromoteRequest_keepsMem r s _ hexec, hdirty, hpart, hy, hyu, hz⟩

end Sys2Proof.Machine
end

section
/-! Room in an L1, the fetch of an L1 atomic, and the refutation of `Obligations.HomeRequests`. -/

namespace Sys2Proof.Machine

/-! Room in an L1, and the fetch of an L1 atomic (R50, R68, R77) -/

section
variable {s : State} {q : Req}

/-- In a core without a way, the one line of a set leaves for another. -/
theorem State.makeRoom_of_one {c ln v : Nat} (hset : (s.l1Lines c).filter (fun x => x % 128 == ln % 128) = [v]) (hv : v ≠ ln) (hways : s.l1Ways c = 0) :
    s.makeRoom c ln = (s.evictLine c v).useFree := by
  unfold State.makeRoom
  dsimp only
  rw [hset, hways, if_neg (by simpa using Ne.symm hv), List.length_singleton, Nat.mod_one]
  rfl

/-- The home's line of an address with the horizon of a lease granted now. -/
def State.leased (s : State) (q : Req) : State :=
  s.onLine (lineOf q.addr) (fun l =>
    { l with horizon := max l.horizon (s.homeNow q.addr + leaseTicks (grantCode (s.homeNow q.addr) (s.line (lineOf q.addr)) q.lease)) })

/-- What a lease of the core's own die adds to the requests is what the copy's room needs. -/
theorem State.reqs_grantLease (hgrant : ¬(isHost q.addr ∨ q.combine ∨ s.homeNow q.addr < (s.line (lineOf q.addr)).w ∨ (s.die (s.homeOf q.addr)).skew))
    (hdie : q.die = s.homeOf q.addr) (hacc : q.acc ≠ .load) : (s.grantLease q).reqs = ((s.leased q).makeRoom q.core (lineOf q.addr)).reqs := by
  unfold State.grantLease
  dsimp only
  rw [if_neg hgrant, if_neg (fun hc => hc.2 hdie), if_neg (fun hc => hc.1 hdie), if_neg (fun hc => hacc hc.1)]
  rfl

theorem State.laneFirst_congr {t : State} (h : t.reqs = s.reqs) : t.laneFirst = s.laneFirst := by
  funext x
  rw [State.laneFirst, State.laneFirst, h]

theorem State.siblings_congr {t : State} (h : t.reqs = s.reqs) : t.siblings = s.siblings := by
  funext x
  rw [State.siblings, State.siblings, h]

/-- An atomic alone on its word that has an older access of its lane to wait for, once its line has come, stays in its core (R77). -/
theorem State.fetchAtoms_of_late {t : State} {ln : Nat} (hln : linesOf q.addr q.n = [ln]) (hstart : 128 * ln ≤ q.addr) (hreqs : (s.grantLease q).reqs = t.reqs)
    (halone : t.siblings q = [q]) (hlate : t.laneFirst q = false) : s.fetchAtoms q = (s.grantLease q).onReq q.id (fun x => { x with stage := .sent, seq := 0 }) := by
  unfold State.fetchAtoms
  simp only [hln, List.foldl_cons, List.foldl_nil, Nat.max_eq_left hstart]
  rw [State.siblings_congr hreqs, State.laneFirst_congr hreqs, halone, if_neg (by simp [hlate])]

/-- A request in its turn at its home. -/
theorem exec_homeRequest_turn {r : Nat} (h : s.req r = some q) (hacc : (q.acc.isComm || q.acc.isFlush) = false) (hhere : s.isHere q) (hturn : s.turnOf q = true)
    (hbusy : q.stage = .queued → s.linesBusy q.seq q = false) : exec (.homeRequest r) s = .next (s.begin_ q) := by
  change execHomeRequest r s = _
  simp only [execHomeRequest, h, hacc, Bool.false_eq_true, if_false]
  rw [State.atHome_turn hhere hturn (Or.inr hbusy)]

end

/-! The fetch that sends its atomic back

`State.fetchAtoms` makes room in the L1 for the line it fetches, which can send home a flush of the core (R50, R63), and then performs the atomic only if no older access of its lane to its bytes is
left. A flush belongs to lane 0 of group 0; it is younger than the atomic as long as numbers are given out in order, and touches another line as long as a partial lists words of its own line.
`Obligations.HomeRequests` speaks of every state, so also of one where neither is so. -/

/-- An atomic of lane 0 that executes in the L1 of core 0, on line 128; its turn at its home has come. -/
def waitingAtomic : Req :=
  { (default : Req) with id := 1, op := 1, acc := .cas, addr := 128 * 128, n := 4, elems := 4, l1 := true, stage := .waiting }

/-- A state whose next request number is below that of `waitingAtomic`. All of core 0's L1 is lent to a team; line 0, of the atomic's set, is there with a partial, one of whose words is
at the atomic's address. -/
def strayPartialState : State :=
  { State.reset with
    reqs := [waitingAtomic]
    nextId := 0
    teams := [{ (default : Team) with asegs := List.replicate 64 0 }]
    partials := [{ core := 0, line := 0, op := default, words := [(4096, 0)] }] }

/-- `strayPartialState` once the home has begun the atomic. -/
def strayPartialBegun : State := strayPartialState.learnHome 0 (128 * 128)

/-- The lease of the atomic's line evicts line 0, and its partial is on its way home. -/
theorem reqs_grantLease_strayPartialBegun : (strayPartialBegun.grantLease waitingAtomic).reqs = ((strayPartialBegun.leased waitingAtomic).evictLine 0 0).reqs := by
  rw [State.reqs_grantLease (by decide +kernel) (by decide +kernel) Access.noConfusion]
  change ((strayPartialBegun.leased waitingAtomic).makeRoom 0 128).reqs = _
  rw [State.makeRoom_of_one (v := 0) (by decide +kernel) (by decide) (by decide +kernel)]
  rfl

theorem begin_strayPartialState : strayPartialState.begin_ waitingAtomic = strayPartialBegun.fetchAtoms waitingAtomic := by
  unfold State.begin_
  dsimp only
  rw [if_neg (by decide +kernel), if_neg (by decide +kernel)]
  rfl

/-- The flush, number 0, is taken for an older access to the atomic's bytes, and the atomic is back on its way to the home. -/
theorem homeRequest_strayPartialState : exec (.homeRequest 1) strayPartialState =
    .next ((strayPartialBegun.grantLease waitingAtomic).onReq 1 (fun x => { x with stage := .sent, seq := 0 })) := by
  have hhere : strayPartialState.isHere waitingAtomic := ⟨rfl, by decide +kernel, rfl, by decide +kernel, by decide +kernel⟩
  rw [exec_homeRequest_turn (q := waitingAtomic) rfl rfl hhere (by decide +kernel) Stage.noConfusion, begin_strayPartialState,
    State.fetchAtoms_of_late (ln := 128) (by decide +kernel) (by decide) reqs_grantLease_strayPartialBegun (by decide +kernel) (by decide +kernel)]
  rfl

/-- The atomic is then not served. -/
theorem req_homeRequest_strayPartialState {t : State} {q : Req} (ht : exec (.homeRequest 1) strayPartialState = .next t) (hq : t.req 1 = some q) : q.stage = .sent := by
  have hold : (strayPartialBegun.grantLease waitingAtomic).req 1 = some waitingAtomic := by
    rw [State.req_congr reqs_grantLease_strayPartialBegun]
    decide +kernel
  rw [homeRequest_strayPartialState] at ht
  rw [← Host.Outcome.next.inj ht, State.req_onReq hold (by intro; rfl)] at hq
  rw [← Option.some.inj hq]

/-- Refutes O36: in `strayPartialState` the fetch of an L1 atomic that nothing older of its lane precedes does not end with the atomic served. -/
theorem not_homeRequests : ¬ Obligations.HomeRequests := by
  unfold Obligations.HomeRequests
  intro h
  obtain ⟨hhome, -⟩ := h 1 waitingAtomic strayPartialState rfl
  obtain ⟨-, hlive⟩ := hhome rfl (by decide +kernel) rfl (by decide +kernel)
  obtain ⟨-, -, -, hturn⟩ := hlive (by decide +kernel)
  obtain ⟨-, hbegin⟩ := hturn (by decide +kernel) Stage.noConfusion (fun _ => Access.noConfusion) (fun _ => Access.noConfusion)
  obtain ⟨-, -, -, hatom⟩ := hbegin (Or.inl rfl)
  obtain ⟨hfetch, -⟩ := hatom (by decide +kernel : Memory.wf strayPartialState.mem = true) (Or.inr rfl) rfl (by decide +kernel) (by decide +kernel)
  obtain ⟨t, hexec, -, q, hq, hserved, -⟩ := hfetch rfl (by decide +kernel) (by decide +kernel)
  exact Stage.noConfusion (hserved.symm.trans (req_homeRequest_strayPartialState hexec hq))

end Sys2Proof.Machine
end

section
/-! A release that stands under the number of WAITC's own, and the refutation of `Obligations.Monitors`. -/

namespace Sys2Proof.Machine

/-! The release before a WAITC (R72, R84, R262)

An ordered WAITC begins with a release, which takes the next number of the model and is then looked up by it. Where numbers are given out in order no other release has that number;
`Obligations.Monitors` speaks of every state, so also of one whose group holds an older release under it. That one is found first, and what follows it happens in place of the monitor. -/

section
variable {c : Cond} {f : Fields} {s : State} {sps : List Spot}

/-- The lanes of an ordered WAITC that has passed its checks wait for its release. -/
theorem exec_waitc_release (hstop : entryStop ⟨0x30, Enc.condFn c, 0⟩ f s = none) (hon : s.actives f.gd ≠ [])
    (hcheck : checkLanes s s.me .load f.md (atomBytes f.ty) ((s.actives f.gd).map (fun p => (p.1, vaWith s.grp f (immOff f) p.2))) = .ok sps)
    (hrange : ∀ p ∈ sps, p.range = none) (hrel : relOf f = true) : exec (.waitc c f) s =
      .next (((pendMonitors (monitorsOf s f c s.nextId sps) (if Enc.isPairTy f.ty then 2 else 1) s).passFalse f).release (if scopeOf f = 3 then 3 else 2)
        (s.activeMask f.gd) f.form.len (.monitor (monitorsOf s f c s.nextId sps))) := by
  change execWaitc c f s = _
  have hfind : sps.find? (fun sp => sp.range.isSome) = none := List.find?_eq_none.2 fun p hp => by simp [hrange p hp]
  rw [execWaitc, run_go hstop]
  dsimp only
  split
  · next hnil => exact absurd hnil hon
  · rw [hcheck]
    dsimp only
    rw [hfind]
    dsimp only
    rw [if_pos hrel]

end

/-- WAITC.eq v6, v10:v11, v12 with release order (MOD bit 3). -/
def orderedWait : Fields := { Enc.blank .ext with d := .vec 6, a := .vec 10, b := .vec 12, md := 0x08 }

/-- An arrival at barrier 0 whose release, of team scope, waits for nothing. -/
def strayArrival : Rel := { (default : Rel) with id := 2, lanes := 1, cont := .arrive 0 1 none false }

/-- The translation of the first 16 GiB. -/
def lowPage : TlbEntry := { (default : TlbEntry) with szlg := 34, r := true, u := true }

/-- A group of one lane, in its bundle, that holds `strayArrival`. The monitor's number is 1, and that of its release 2. -/
def strayArrivalState : State :=
  { State.reset with
    grp := { Group.none with lanes := [Lane.start 0], rels := [strayArrival] }
    bundle := { lanes := 1, pc := 0, secondary := false }
    teams := [{ (default : Team) with bars := [{ (default : Bar) with pending := 2 }] }]
    tlbs := [lowPage]
    nextId := 1 }

/-- The lane's access to address 0. -/
def strayArrivalSpot : Spot := strayArrivalState.spot strayArrivalState.me 0x08 0 0 4 lowPage

theorem checkLanes_strayArrivalState : checkLanes strayArrivalState strayArrivalState.me .load orderedWait.md 4
    ((strayArrivalState.actives orderedWait.gd).map (fun p => (p.1, vaWith strayArrivalState.grp orderedWait (immOff orderedWait) p.2))) = .ok [strayArrivalSpot] := by
  decide +kernel

/-- WAITC begins, with no lane stopped by the entry checks. -/
theorem entryStop_strayArrivalState : entryStop ⟨0x30, Enc.condFn .eq, 0⟩ orderedWait strayArrivalState = none := by decide +kernel

/-- The state after the WAITC. -/
def strayArrivalDone : State :=
  ((pendMonitors (monitorsOf strayArrivalState orderedWait .eq 1 [strayArrivalSpot]) 1 strayArrivalState).passFalse orderedWait).release 2
    (strayArrivalState.activeMask orderedWait.gd) orderedWait.form.len (.monitor (monitorsOf strayArrivalState orderedWait .eq 1 [strayArrivalSpot]))

theorem exec_waitc_strayArrivalState : exec (.waitc .eq orderedWait) strayArrivalState = .next strayArrivalDone :=
  exec_waitc_release entryStop_strayArrivalState (by decide +kernel) checkLanes_strayArrivalState (by decide +kernel) (by decide)

/-- The release that was found is the stray one: one arrival fewer is pending at barrier 0 of the team. -/
theorem pending_strayArrivalDone : strayArrivalDone.teams.map (fun t => t.bars.map (fun b => b.pending)) = [[1]] := by decide +kernel

/-- Refutes O40: in `strayArrivalState` an ordered WAITC changes a team. -/
theorem not_monitors : ¬ Obligations.Monitors := by
  unfold Obligations.Monitors
  intro h
  obtain ⟨hwait, -⟩ := h strayArrivalState
  obtain ⟨-, -, -, hchecked⟩ := hwait .eq orderedWait entryStop_strayArrivalState
  obtain ⟨-, hwatched⟩ := hchecked [strayArrivalSpot] (by decide +kernel) checkLanes_strayArrivalState
  obtain ⟨t, hexec, -, hteams, -⟩ := hwatched (by decide +kernel)
  obtain rfl : strayArrivalDone = t := Host.Outcome.next.inj (exec_waitc_strayArrivalState.symm.trans hexec)
  have hpending := pending_strayArrivalDone
  rw [hteams] at hpending
  exact absurd hpending (by decide +kernel)

end Sys2Proof.Machine
end

section
/-! What room in an L1 sends home, the delivery of an answer, atomics and stores in an L1, and `Obligations.Answers`. -/

namespace Sys2Proof.Machine

/-! Writes that a core sends home, and the lanes (R50, R63, R75) -/

/-- The numbers, the scalars and the lanes of the groups. -/
def State.laneView (s : State) : List (Nat × Sparse DWord × List Lane) := s.allGroups.map (fun g => (g.uid, g.s, g.lanes))

theorem State.laneView_onGroup (s : State) (u : Nat) {k : Group → Group} (hk : ∀ g, ((k g).uid, (k g).s, (k g).lanes) = (g.uid, g.s, g.lanes)) :
    (s.onGroup u k).laneView = s.laneView := by
  rw [State.laneView, State.allGroups_onGroup, updBy, List.map_map]
  refine List.map_congr_left fun g _ => ?_
  rw [Function.comp_apply]
  split
  · exact hk g
  · rfl

/-- From `s` to `t` cores sent writes home: every lane and scalar is as before, and no load is among the requests that came. -/
def sentWrites (s t : State) : Prop := t.laneView = s.laneView ∧ ∃ rs, t.reqs = s.reqs ++ rs ∧ ∀ r ∈ rs, r.acc ≠ .load

theorem sentWrites.of_eq {s t : State} (hv : t.laneView = s.laneView) (hr : t.reqs = s.reqs) : sentWrites s t :=
  ⟨hv, [], by rw [hr, List.append_nil], fun _ hr => absurd hr List.not_mem_nil⟩

theorem sentWrites.refl (s : State) : sentWrites s s := sentWrites.of_eq rfl rfl

theorem sentWrites.trans {s t u : State} (h : sentWrites s t) (k : sentWrites t u) : sentWrites s u := by
  obtain ⟨hv, q, hr, hq⟩ := h
  obtain ⟨kv, p, kr, kp⟩ := k
  exact ⟨kv.trans hv, q ++ p, by rw [kr, hr, List.append_assoc], fun r hm => (List.mem_append.1 hm).elim (hq r) (kp r)⟩

theorem sentWrites.foldl {α : Type} {f : State → α → State} {l : List α} (h : ∀ a ∈ l, ∀ s, sentWrites s (f s a)) (s : State) : sentWrites s (l.foldl f s) := by
  induction l generalizing s with
  | nil => exact sentWrites.refl s
  | cons a l ih => exact (h a List.mem_cons_self s).trans (ih (fun b hb => h b (List.mem_cons_of_mem _ hb)) _)

theorem State.scbAdd_writes (s : State) (u : Nat) (e : Scb) : sentWrites s (s.scbAdd u e) := by
  unfold State.scbAdd
  split
  · exact sentWrites.of_eq (s.laneView_onGroup u fun g => by split <;> rfl) rfl
  · exact sentWrites.refl s

theorem State.addReq_writes (s : State) {r : Req} (hr : r.acc ≠ .load) : sentWrites s (s.addReq r) := by
  have hadd : sentWrites s { s with reqs := s.reqs ++ [{ r with id := s.nextId }], nextId := s.nextId + 1 } :=
    ⟨rfl, _, rfl, fun q hq => by rw [List.mem_singleton.1 hq]; exact hr⟩
  rw [State.addReq, if_neg hr]
  exact hadd.trans (State.scbAdd_writes _ _ _)

theorem State.onCore_writes (s : State) (c : Nat) (f : Core → Core) : sentWrites s (s.onCore c f) := by
  unfold State.onCore
  split <;> exact sentWrites.of_eq rfl rfl

theorem State.onCore_reqs (s : State) (c : Nat) (f : Core → Core) : (s.onCore c f).reqs = s.reqs := by
  unfold State.onCore
  split <;> rfl

theorem State.newRop_writes (s : State) (die dst tag : Nat) (what : Numbered) : sentWrites s (s.newRop die dst tag what) := by
  unfold State.newRop State.sendCopy
  dsimp only
  split <;> exact sentWrites.of_eq rfl rfl

theorem State.sendFlush_writes (s : State) {r : Req} (hr : r.acc ≠ .load) : sentWrites s (s.sendFlush r) := by
  unfold State.sendFlush
  split
  · exact s.addReq_writes hr
  · have hadd : sentWrites s (s.addReq { r with id := s.nextId, stage := .port }) := s.addReq_writes hr
    dsimp only
    split
    · exact hadd
    · exact hadd.trans (State.newRop_writes _ _ _ _ _)

theorem State.flushPartials_writes (s : State) (c : Nat) (p : Partial → Bool) : sentWrites s (s.flushPartials c p) := by
  have hkept : sentWrites s { s with partials := s.partials.filter (fun x => !(x.core == c && p x)) } := sentWrites.of_eq rfl rfl
  refine hkept.trans (sentWrites.foldl (f := State.flushOne c) (fun r hr t => ?_) _)
  obtain ⟨x, -, hx⟩ := List.mem_flatMap.1 hr
  obtain ⟨w, -, rfl⟩ := List.mem_map.1 hx
  exact (t.sendFlush_writes (r := flushReq s x w) Access.noConfusion).trans (sentWrites.of_eq rfl rfl)

theorem State.writeBackOne_writes (s : State) (c : Nat) {r : Req} (hr : r.acc ≠ .load) : sentWrites s (State.writeBackOne c s r) :=
  (sentWrites.of_eq rfl rfl : sentWrites s (s.touchCopies c r.addr r.n r.data r.mask)).trans (State.addReq_writes _ hr)

theorem State.writeBack_writes (s : State) (c : Nat) (p : Nat → Bool) : sentWrites s (s.writeBack c p) := by
  have hsent := sentWrites.foldl (f := State.writeBackOne c) (l := (gather ((s.core c).dirty.filter (fun e => p e.1))).map (wbReq s c)) (fun r hr t => by
    obtain ⟨g, -, rfl⟩ := List.mem_map.1 hr
    exact t.writeBackOne_writes c Access.noConfusion) (s.onCore c (fun k => { k with dirty := (s.core c).dirty.filter (fun e => !p e.1) }))
  exact (s.onCore_writes c _).trans hsent

theorem State.evictLine_writes (s : State) (c ln : Nat) : sentWrites s (s.evictLine c ln) :=
  ((s.writeBack_writes c _).trans (State.flushPartials_writes _ c _)).trans (sentWrites.of_eq rfl rfl)

theorem State.useFree_writes (s : State) : sentWrites s s.useFree := sentWrites.of_eq rfl rfl

theorem State.makeRoom_writes (s : State) (c ln : Nat) : sentWrites s (s.makeRoom c ln) := by
  unfold State.makeRoom
  dsimp only
  split
  · exact sentWrites.refl s
  · split
    · exact (s.evictLine_writes c _).trans (State.useFree_writes _)
    · exact sentWrites.refl s

theorem State.putCopy_writes (s : State) (c : Copy) : sentWrites s (s.putCopy c) :=
  (s.makeRoom_writes c.unit c.line).trans (sentWrites.of_eq rfl rfl)

theorem State.fillFromReplica_writes (s : State) (r : Req) : sentWrites s (s.fillFromReplica r) := by
  unfold State.fillFromReplica
  split
  · split
    · exact sentWrites.refl s
    · exact s.putCopy_writes _
  · exact sentWrites.refl s

/-- A line that is in the L1 needs no room. -/
theorem State.makeRoom_of_mem {s : State} {c ln : Nat} (h : ln ∈ s.l1Lines c) : s.makeRoom c ln = s := by
  unfold State.makeRoom
  exact if_pos (Or.inl (by simp [h]))

/-! Delivery (R71, R82, R248) -/

/-- `v` is what the registers of a request take of the bytes `x` (Table 2 of 11_isa_memory_sync.md). -/
def Req.fills (q : Req) (x : QWord) (v : Nat) : Prop :=
  (q.ext = .zext → v = x.toNat) ∧ (∀ n, q.ext = .words n → v = x.toNat) ∧ (∀ b, q.ext = .sext b → v = ((BitVec.ofNat b x.toNat).signExtend 32).toNat)

/-- The request with its answer. -/
def Req.answering (q : Req) (x : QWord) (hurt : Bool) : Req := { q with val := x, poisoned := hurt }

theorem Req.fills_regVal {q : Req} (hsix : q.six = 0) (x : QWord) (hurt : Bool) : q.fills x (q.answering x hurt).regVal := by
  have hval : unpackVal q.six q.elems x.toNat = x.toNat := if_pos hsix
  refine ⟨fun h => ?_, fun n h => ?_, fun b h => ?_⟩
  · simp only [Req.regVal, Req.answering, h, hval]
  · simp only [Req.regVal, Req.answering, h, hval]
  · simp only [Req.regVal, Req.answering, h, hval]
    rfl

/-- What an answer makes of its lane. -/
def Req.put (r : Req) (x : Lane) : Lane :=
  let y := if r.ext.words_ = 0 then x else if r.poisoned then
      { x with marked := x.marked ++ [{ reg := r.dst, n := r.ext.words_, addr := r.va, rsn := 0, rcause := 0, pc := r.pc }] }
    else x.setWords r.dst r.ext.words_ r.regVal
  { y with pend := y.pend.filter (fun p => p.src != r.id) }

/-- A group one of whose lanes has its answer. -/
def Req.putIn (r : Req) (g : Group) : Group := { g with lanes := mapLanes (fun i x => if i = r.lane then r.put x else x) 0 g.lanes }

theorem State.deliver_eq (s : State) (r : Req) : s.deliver r = ((if r.acc = .load then s else s.snapNote r.gid).onGroup r.gid r.putIn).dropReq r.id := rfl

theorem State.mem_deliver {s : State} {r : Req} {g : Group} (hg : g ∈ s.allGroups) (hu : g.uid = r.gid) : r.putIn g ∈ (s.deliver r).allGroups := by
  have hnote : g ∈ (if r.acc = .load then s else s.snapNote r.gid).allGroups := by
    split
    · exact hg
    · rw [(s.snapNote_keeps' r.gid).2.2.1]
      exact hg
  have hmem := State.mem_onGroup hnote r.putIn
  rw [hu] at hmem
  exact hmem

theorem Lane.setWords_keeps (x : Lane) (r n w : Nat) : (x.setWords r n w).pc = x.pc ∧ (x.setWords r n w).st = x.st ∧ (x.setWords r n w).preds = x.preds ∧
    (x.setWords r n w).pend = x.pend ∧ (x.setWords r n w).marked = x.marked := by
  induction n generalizing x r w with
  | zero => exact ⟨rfl, rfl, rfl, rfl, rfl⟩
  | succ n ih => exact ih (x.setReg r (BitVec.ofNat 32 w)) (r + 1) (w / 2 ^ 32)

/-- The registers take the value, or are marked, and are pending no more; the lane stays where it is. -/
theorem Req.put_spec (r : Req) (x : Lane) : (r.put x).pc = x.pc ∧ (r.put x).st = x.st ∧ (r.put x).preds = x.preds ∧ (r.put x).pend = x.pend.filter (fun p => p.src != r.id) ∧
    (r.poisoned = false ∨ r.ext.words_ = 0 → (r.put x).v = (x.setWords r.dst r.ext.words_ r.regVal).v ∧ (r.put x).marked = x.marked) ∧
    (r.poisoned = true → 0 < r.ext.words_ → (r.put x).v = x.v ∧ ∃ m, (r.put x).marked = x.marked ++ [m] ∧ m.reg = r.dst ∧ m.n = r.ext.words_ ∧ m.rcause = 0 ∧ m.addr = r.va) := by
  by_cases hn : r.ext.words_ = 0
  · have hput : r.put x = { x with pend := x.pend.filter (fun p => p.src != r.id) } := by simp only [Req.put, hn, if_true]
    rw [hput, hn]
    exact ⟨rfl, rfl, rfl, rfl, fun _ => ⟨rfl, rfl⟩, fun _ h => absurd h (Nat.lt_irrefl 0)⟩
  · cases hp : r.poisoned with
    | true =>
      have hput : r.put x = { x with
          marked := x.marked ++ [{ reg := r.dst, n := r.ext.words_, addr := r.va, rsn := 0, rcause := 0, pc := r.pc }], pend := x.pend.filter (fun p => p.src != r.id) } := by
        simp only [Req.put, hn, hp, if_true, if_false]
      rw [hput]
      exact ⟨rfl, rfl, rfl, rfl, fun h => absurd h (by simp [hn]), fun _ _ => ⟨rfl, _, rfl, rfl, rfl, rfl, rfl⟩⟩
    | false =>
      obtain ⟨hpc, hst, hpreds, hpend, hmarked⟩ := x.setWords_keeps r.dst r.ext.words_ r.regVal
      have hput : r.put x = { x.setWords r.dst r.ext.words_ r.regVal with pend := x.pend.filter (fun p => p.src != r.id) } := by
        simp only [Req.put, hn, hp, Bool.false_eq_true, if_false, hpend]
      rw [hput]
      exact ⟨hpc, hst, hpreds, rfl, fun _ => ⟨rfl, hmarked⟩, fun h => Bool.noConfusion h⟩

/-- A resident group stands among the groups of a state with the same lanes. -/
theorem State.mem_of_laneView {s t : State} (h : t.laneView = s.laneView) {g : Group} (hg : g ∈ s.allGroups) :
    ∃ y ∈ t.allGroups, y.uid = g.uid ∧ y.s = g.s ∧ y.lanes = g.lanes := by
  have hmem : (g.uid, g.s, g.lanes) ∈ t.laneView := h ▸ List.mem_map_of_mem hg
  obtain ⟨y, hy, he⟩ := List.mem_map.1 hmem
  simp only [Prod.mk.injEq] at he
  exact ⟨y, hy, he⟩

/-- An answer that reaches its lane in a state whose lanes are those of `s` is delivered. -/
theorem State.deliver_delivered {s t : State} (h : t.laneView = s.laneView) (q : Req) (x : QWord) (hurt : Bool) :
    delivered s (t.deliver (q.answering x hurt)) q (q.answering x hurt).regVal hurt := by
  refine ⟨fun p hp => ?_, fun g hg hu => ?_⟩
  · rw [State.deliver_eq] at hp
    simpa [Req.answering] using (List.mem_filter.1 hp).2
  · obtain ⟨y, hy, hyu, hys, hyl⟩ := State.mem_of_laneView h hg.1
    refine ⟨(q.answering x hurt).putIn y, State.mem_deliver hy (hyu.trans hu), hyu, hys, by rw [Req.putIn, mapLanes_length, hyl], fun l hl => ?_⟩
    have hlane : ((q.answering x hurt).putIn y).lanes.getD l default = if l = q.lane then (q.answering x hurt).put (g.lanes.getD l default) else g.lanes.getD l default := by
      rw [← hyl]
      exact getD_mapLanes (hyl ▸ hl) _
    refine ⟨fun hne => hlane.trans (if_neg hne), fun he => ?_⟩
    rw [hlane, if_pos he]
    exact (q.answering x hurt).put_spec _

/-- What the registers of `q` take of the bytes `x` is delivered. -/
def answersWith (s t : State) (q : Req) (x : QWord) (hurt : Bool) : Prop := ∃ v, q.fills x v ∧ delivered s t q v hurt

theorem State.deliver_answersWith {s t : State} (h : t.laneView = s.laneView) {q : Req} (hsix : q.six = 0) (x : QWord) (hurt : Bool) :
    answersWith s (t.deliver (q.answering x hurt)) q x hurt :=
  ⟨_, Req.fills_regVal hsix x hurt, State.deliver_delivered h q x hurt⟩

/-! Dirty bytes (R66, R75) -/

theorem sget_sput_of_ne {β : Type} [DecidableEq β] {d x : β} (m : Sparse β) {k j : Nat} (hx : x ≠ d) (hj : j ≠ k) : sget d (sput d m k x) j = sget d m j := by
  induction m with
  | nil => simp [sput, sget, hx, Ne.symm hj]
  | cons p m ih =>
    obtain ⟨a, y⟩ := p
    by_cases hlt : k < a
    · simp [sput, sget, hlt, hx, Ne.symm hj]
    · by_cases heq : k = a
      · subst heq
        simp [sput, sget, hx, Ne.symm hj]
      · simp [sput, sget, hlt, heq, ih]

theorem dirtyByte_ne_zero (x : Byte) (place : Nat) (hurt : Bool) : dirtyByte x place hurt ≠ 0 := by
  intro h
  have hbit := congrArg (fun y : BitVec 16 => y.getLsbD 8) h
  simp [dirtyByte] at hbit

theorem dirtyHurt_dirtyByte (x : Byte) (hurt : Bool) : dirtyHurt (dirtyByte x 0 hurt) = hurt := by
  cases hurt <;> simp [dirtyHurt, dirtyByte]

/-- The low bits of a dirty byte are its value and the mark that it is dirty. -/
theorem setWidth_dirtyByte (x : Byte) (hurt : Bool) : (dirtyByte x 0 hurt).setWidth 13 = (0x100 : BitVec 13) ||| x.setWidth 13 := by
  cases hurt <;> simp [dirtyByte]

/-- Bytes above those that become dirty are as before. -/
theorem sget_dirtyBytes_above (d : Sparse (BitVec 16)) (pa : Nat) (x mask : QWord) (place : Nat) (hurt : Nat → Bool) {n k : Nat} (hk : pa + n ≤ k) :
    sget 0 (dirtyBytes d pa x mask place hurt n) k = sget 0 d k := by
  induction n generalizing d with
  | zero => rfl
  | succ n ih =>
    rw [dirtyBytes, ih _ (by omega)]
    split
    · rfl
    · exact sget_sput_of_ne d (dirtyByte_ne_zero _ _ _) (by omega)

/-- A byte that a mask names becomes dirty with its value. -/
theorem sget_dirtyBytes (d : Sparse (BitVec 16)) (pa : Nat) (x mask : QWord) (hurt : Nat → Bool) {n i : Nat} (hmask : ∀ j, j < n → (mask >>> (8 * j)).setWidth 8 ≠ (0 : Byte))
    (hi : i < n) : sget 0 (dirtyBytes d pa x mask 0 hurt n) (pa + i) = dirtyByte ((x >>> (8 * i)).setWidth 8) 0 (hurt (pa + i)) := by
  induction n generalizing d with
  | zero => exact absurd hi (Nat.not_lt_zero i)
  | succ n ih =>
    rw [dirtyBytes]
    rcases Nat.lt_succ_iff_lt_or_eq.1 hi with hlt | rfl
    · exact ih _ (fun j hj => hmask j (Nat.lt_succ_of_lt hj)) hlt
    · rw [sget_dirtyBytes_above _ _ _ _ _ _ (Nat.le_refl _), if_neg (hmask i (Nat.lt_succ_self i)), if_pos rfl, sget_sput_self _ _ (dirtyByte_ne_zero _ _ _)]

theorem getLsbD_fullMask {n k : Nat} (hk : k < 128) : (fullMask n).getLsbD k = decide (k < 8 * n) := by
  rw [fullMask, BitVec.getLsbD_ofNat, Nat.testBit_two_pow_sub_one, decide_eq_true hk, Bool.true_and]

/-- Every byte of a whole write is named. -/
theorem fullMask_byte_ne_zero {n j : Nat} (hn : n ≤ 16) (hj : j < n) : (fullMask n >>> (8 * j)).setWidth 8 ≠ (0 : Byte) := by
  intro h
  have hbit := congrArg (fun y : Byte => y.getLsbD 0) h
  simp [getLsbD_fullMask (n := n) (k := 8 * j) (by omega)] at hbit
  omega

/-- A byte of a whole write is that of the value written. -/
theorem byte_of_wholeWrite (old : QWord) (x : Nat) {n i : Nat} (hn : n ≤ 16) (hi : i < n) :
    ((((old &&& ~~~fullMask n) ||| (BitVec.ofNat 128 x &&& fullMask n)) >>> (8 * i)).setWidth 8 : Byte) = BitVec.ofNat 8 (x / 256 ^ i) := by
  apply BitVec.eq_of_getLsbD_eq
  intro k hk
  have hlow : 8 * i + k < 128 := by omega
  have hin : (fullMask n).getLsbD (8 * i + k) = true := by
    rw [getLsbD_fullMask hlow]
    exact decide_eq_true (by omega)
  rw [BitVec.getLsbD_setWidth, BitVec.getLsbD_ushiftRight, BitVec.getLsbD_or, BitVec.getLsbD_and, BitVec.getLsbD_and, BitVec.getLsbD_not, hin, BitVec.getLsbD_ofNat,
    BitVec.getLsbD_ofNat, show (256 : Nat) = 2 ^ 8 from rfl, ← Nat.pow_mul, Nat.testBit_div_two_pow, Nat.add_comm k]
  simp [hk, hlow]

/-- The dirty bytes of a core that saw `old` in `n` bytes and wrote `x` there. -/
def wholeDirty (pa n : Nat) (old : QWord) (x : Nat) (hurt : Nat → Bool) (d : Sparse (BitVec 16)) : Sparse (BitVec 16) :=
  dirtyBytes d pa ((old &&& ~~~fullMask n) ||| (BitVec.ofNat 128 x &&& fullMask n)) (fullMask n) 0 hurt n

theorem sget_wholeDirty (d : Sparse (BitVec 16)) (pa : Nat) (old : QWord) (x : Nat) (hurt : Nat → Bool) {n i : Nat} (hn : n ≤ 16) (hi : i < n) :
    sget 0 (wholeDirty pa n old x hurt d) (pa + i) = dirtyByte (BitVec.ofNat 8 (x / 256 ^ i)) 0 (hurt (pa + i)) := by
  rw [wholeDirty, sget_dirtyBytes _ _ _ _ _ (fun j hj => fullMask_byte_ne_zero hn hj) hi, byte_of_wholeWrite old x hn hi]

/-- A whole write to the L1 makes its bytes dirty with their values (R75). -/
theorem State.writeL1_whole (s : State) (c pa : Nat) (data : QWord) {n i : Nat} (hn : n ≤ 16) (hi : i < n) :
    ∃ hurt, sget 0 ((s.writeL1 c pa n data (fullMask n) 0).core c).dirty (pa + i) = dirtyByte (BitVec.ofNat 8 (data.toNat / 256 ^ i)) 0 hurt := by
  rw [State.writeL1]
  dsimp only
  rw [State.core_onCore, show data = BitVec.ofNat 128 data.toNat by rw [BitVec.ofNat_toNat, BitVec.setWidth_eq], BitVec.toNat_ofNat, Nat.mod_eq_of_lt data.isLt]
  exact ⟨_, sget_wholeDirty _ pa _ data.toNat _ hn hi⟩

/-! Loads (R59, R66, R69, R71, R82) -/

section
variable {s : State} {r : Nat} {q : Req}

theorem exec_loadComplete (h : s.req r = some q) : exec (.loadComplete r) s = .next ((answer s q).getD s) := by
  change execLoadComplete r s = _
  simp only [execLoadComplete, h]

theorem loadComplete_stays (h : s.req r = some q) (ha : answer s q = none) : exec (.loadComplete r) s = .next s := by
  rw [exec_loadComplete h, ha]
  rfl

/-- An answer is delivered, and memory is as it was. -/
theorem loadComplete_answers {t : State} {x : QWord} {hurt : Bool} (h : s.req r = some q) (ha : answer s q = some t) (ht : answersWith s t q x hurt) :
    ∃ t v, exec (.loadComplete r) s = .next t ∧ t.mem = s.mem ∧ q.fills x v ∧ delivered s t q v hurt := by
  obtain ⟨v, hv, hd⟩ := ht
  exact ⟨t, v, by rw [exec_loadComplete h, ha]; rfl, answer_mem ha, hv, hd⟩

/-- The other half of a kind E load is on its way (R59). -/
theorem any_mate_iff : s.reqs.any q.mate = true ↔ ∃ p ∈ s.reqs, p.op = q.op ∧ p.gid = q.gid ∧ p.lane = q.lane ∧ p.acc = .load ∧ p.isScale ≠ q.isScale := by
  simp only [List.any_eq_true, Req.mate, Bool.and_eq_true, beq_iff_eq, bne_iff_ne, and_assoc]

theorem answer_load (hb : q.isBuf = false) (hacc : q.acc = .load) : answer s q = loadAnswer s q := by
  simp only [answer, hb, hacc, Bool.false_eq_true, if_false]

/-- Writes sent home are no half of a load. -/
theorem any_mate_of_sentWrites {t : State} (h : sentWrites s t) (hm : s.reqs.any q.mate = false) : t.reqs.any q.mate = false := by
  obtain ⟨-, rs, hr, hrs⟩ := h
  rw [hr, List.any_append, hm, Bool.false_or, List.any_eq_false]
  intro p hp
  simp [Req.mate, hrs p hp]

/-- A load that is no half of another answers as soon as its value is there. -/
theorem State.arrived_alone {t : State} (hscale : q.isScale = false) (hm : t.reqs.any q.mate = false) (x : QWord) (hurt : Bool) :
    t.arrived (q.answering x hurt) = t.deliver (q.answering x hurt) := by
  rw [State.arrived, if_neg (by rw [Req.answering, hscale]; exact Bool.false_ne_true)]
  exact if_neg (by rw [show (q.answering x hurt).mate = q.mate from rfl, hm]; exact Bool.false_ne_true)

section
variable (h : s.req r = some q) (hb : q.isBuf = false) (hacc : q.acc = .load) (hsix : q.six = 0) (hscale : q.isScale = false) (hm : s.reqs.any q.mate = false)
include h hb hacc hsix hscale hm

theorem loadComplete_served (hst : q.stage = .served) :
    ∃ t v, exec (.loadComplete r) s = .next t ∧ t.mem = s.mem ∧ q.fills q.val v ∧ delivered s t q v q.poisoned := by
  refine loadComplete_answers (t := s.deliver q) h ?_ (State.deliver_answersWith rfl hsix q.val q.poisoned)
  rw [answer_load hb hacc, loadAnswer, hst]
  exact (if_neg (by rw [hm, Bool.and_false]; exact Bool.false_ne_true)).trans (congrArg some (State.arrived_alone hscale hm q.val q.poisoned))

theorem loadComplete_local (hst : q.stage = .sent) {x : QWord} {hurt : Bool} (hx : s.localVal q = some (x, hurt)) :
    ∃ t v, exec (.loadComplete r) s = .next t ∧ t.mem = s.mem ∧ q.fills x v ∧ delivered s t q v (q.poisoned || hurt) := by
  have hfill := s.fillFromReplica_writes q
  refine loadComplete_answers (t := (s.fillFromReplica q).deliver (q.answering x (q.poisoned || hurt))) h ?_ (State.deliver_answersWith hfill.1 hsix x _)
  rw [answer_load hb hacc, loadAnswer, hst, hx, ← State.arrived_alone hscale (any_mate_of_sentWrites hfill hm) x]
  rfl

omit hsix hscale hm in
theorem loadComplete_local_stays (hst : q.stage = .sent) (hx : s.localVal q = none) : exec (.loadComplete r) s = .next s := by
  refine loadComplete_stays h ?_
  rw [answer_load hb hacc, loadAnswer, hst, hx]
  rfl

omit hsix hscale hm in
theorem loadComplete_port_stays (hst : q.stage = .port) (hport : isPeer q.addr = true ∨ s.hubsDown q.die q.addr = true) : exec (.loadComplete r) s = .next s := by
  refine loadComplete_stays h ?_
  rw [answer_load hb hacc, loadAnswer, hst]
  exact if_pos hport

/-- A load of a host window leaves by a hub's port and takes what the host answers (log 28). -/
theorem loadComplete_port (hst : q.stage = .port) (hpeer : isPeer q.addr = false) (hhubs : s.hubsDown q.die q.addr = false) :
    ∃ t v, exec (.loadComplete r) s = .next t ∧ t.mem = s.mem ∧ t.free = s.free + 1 ∧ t.out = s.out ++ [.hostRead (s.pasidOf q.asid) q.addr q.n] ∧
      q.fills (BitVec.ofNat 128 (s.hostValue q.n)) v ∧ delivered s t q v q.poisoned := by
  let d := s.deliver (q.answering (BitVec.ofNat 128 (s.hostValue q.n)) q.poisoned)
  have ha : answer s q = some { d.useFree with out := s.out ++ [.hostRead (s.pasidOf q.asid) q.addr q.n] } := by
    rw [answer_load hb hacc, loadAnswer, hst]
    dsimp only
    rw [if_neg (by simp [hpeer, hhubs])]
    simp only [d, ← State.arrived_alone hscale hm]
    rfl
  have hfree : d.free = s.free := by
    simp only [d, State.deliver_eq, Req.answering, hacc, if_true]
    rfl
  obtain ⟨v, hv, hd⟩ : answersWith s d q _ _ := State.deliver_answersWith rfl hsix _ _
  exact ⟨_, v, by rw [exec_loadComplete h, ha]; rfl, answer_mem ha, by rw [← hfree]; rfl, rfl, hv, hd⟩

end

theorem loadComplete_element_waits (h : s.req r = some q) (hb : q.isBuf = false) (hacc : q.acc = .load) (hst : q.stage = .served) (hm : s.reqs.any q.mate = true)
    (hscale : q.isScale = false) : exec (.loadComplete r) s = .next s := by
  refine loadComplete_stays h ?_
  rw [answer_load hb hacc, loadAnswer, hst, hm, hscale]
  rfl

/-- A scale byte joins its element. -/
theorem loadComplete_scale (h : s.req r = some q) (hb : q.isBuf = false) (hacc : q.acc = .load) (hst : q.stage = .served) (hscale : q.isScale = true) (hsix : q.six = 0) :
    exec (.loadComplete r) s = .next { s with
      reqs := (updBy q.mate (fun p => { p with scale := q.val.setWidth 8, poisoned := p.poisoned || q.poisoned }) s.reqs).filter (fun p => p.id != q.id) } := by
  have hbyte : BitVec.ofNat 8 (unpackVal q.six q.elems q.val.toNat) = q.val.setWidth 8 := by
    rw [unpackVal, if_pos hsix, BitVec.ofNat_toNat]
  rw [exec_loadComplete h, answer_load hb hacc, loadAnswer, hst]
  simp only [hscale, Bool.not_true, Bool.false_and, Bool.false_eq_true, if_false, State.arrived, if_true, hbyte]
  rfl

/-! Acknowledgements with W (R69, R82) -/

/-- The group of an acknowledged request, and one whose release waits for it, takes W. -/
def Group.told (q : Req) (w : Nat) (g : Group) : Group := if g.uid = q.gid ∨ g.rels.any (fun x => x.waits.contains q.id) then { g with wct := max g.wct w } else g

theorem Group.told_of_uid {g : Group} (h : g.uid = q.gid) (w : Nat) : g.told q w = { g with wct := max g.wct w } := if_pos (Or.inl h)

theorem State.tellW_keeps (s : State) (q : Req) (w : Nat) : (s.tellW q w).allGroups = s.allGroups.map (Group.told q w) ∧ (s.tellW q w).reqs = s.reqs := by
  unfold State.tellW
  dsimp only
  split
  · unfold State.onCore
    split <;> exact ⟨rfl, rfl⟩
  · exact ⟨rfl, rfl⟩

theorem State.laneView_tellW (s : State) (q : Req) (w : Nat) : (s.tellW q w).laneView = s.laneView := by
  rw [State.laneView, (s.tellW_keeps q w).1, List.map_map]
  refine List.map_congr_left fun g _ => ?_
  rw [Function.comp_apply, Group.told]
  split <;> rfl

theorem State.mem_tellW {g : Group} (hg : g ∈ s.allGroups) (hu : g.uid = q.gid) (w : Nat) : { g with wct := max g.wct w } ∈ (s.tellW q w).allGroups := by
  rw [(s.tellW_keeps q w).1, ← Group.told_of_uid hu w]
  exact List.mem_map_of_mem hg

/-! Atomics (R75, R77, R82, R247) -/

theorem answer_atom (hb : q.isBuf = false) (hat : (∃ op ty, q.acc = .atom op ty) ∨ q.acc = .cas) : answer s q = atomAnswer s q := by
  obtain ⟨op, ty, hacc⟩ | hacc := hat <;> simp only [answer, hb, hacc, Bool.false_eq_true, if_false]

/-- The answer of a served atomic reaches its lane, and its W the group's WCT unless it was performed in the L1. -/
theorem loadComplete_atom_served (h : s.req r = some q) (hb : q.isBuf = false) (hat : (∃ op ty, q.acc = .atom op ty) ∨ q.acc = .cas) (hsix : q.six = 0) (hst : q.stage = .served) :
    ∃ t v, exec (.loadComplete r) s = .next t ∧ t.mem = s.mem ∧ q.fills q.val v ∧ delivered s t q v q.poisoned ∧
      ∀ g, s.only g → g.uid = q.gid → ∃ y ∈ t.allGroups, y.uid = g.uid ∧ y.wct = if q.l1 then g.wct else max g.wct q.w := by
  let told := if q.l1 then s else s.tellW q q.w
  have ha : answer s q = some (told.deliver q) := by
    rw [answer_atom hb hat, atomAnswer, if_pos hst]
  have hview : told.laneView = s.laneView := by
    dsimp only [told]
    split
    · rfl
    · exact s.laneView_tellW q q.w
  obtain ⟨v, hv, hd⟩ : answersWith s (told.deliver q) q q.val q.poisoned := State.deliver_answersWith hview hsix _ _
  refine ⟨_, v, by rw [exec_loadComplete h, ha]; rfl, answer_mem ha, hv, hd, fun g hg hu => ?_⟩
  dsimp only [told]
  cases q.l1 with
  | true => exact ⟨_, State.mem_deliver hg.1 hu, rfl, rfl⟩
  | false => exact ⟨_, State.mem_deliver (State.mem_tellW hg.1 hu q.w) hu, rfl, rfl⟩

theorem State.fillFromReplica_l1 (hl1 : q.l1 = true) : s.fillFromReplica q = s := by
  unfold State.fillFromReplica
  split
  · exact if_pos hl1
  · rfl

/-- An atomic performed in the L1 that holds its line: the word as the core sees it is the answer, and the new one is dirty there (R75, R77). -/
theorem State.atomL1_spec (h : s.req r = some q) (hsix : q.six = 0) (hn : q.n ≤ 16) (hline : lineOf (q.addr + q.n - 1) = lineOf q.addr)
    (hin : lineOf q.addr ∈ s.l1Lines q.core) (x : QWord) (hurt : Bool) :
    let view := s.coreView q.core q.addr q.n
    let old : QWord := (x &&& ~~~view.2) ||| (view.1 &&& view.2)
    let bad := (hurt && view.2 != fullMask q.n) || s.coreHurt q.core q.addr q.n
    let t := State.atomL1 x hurt s q
    t.req r = some { q with stage := .served, val := old, poisoned := bad } ∧
      ∀ i, i < q.n → ∃ b, sget 0 (t.core q.core).dirty (q.addr + i) = dirtyByte (BitVec.ofNat 8 (q.newVal old.toNat / 256 ^ i)) 0 b ∧ (bad = true → b = true) := by
  intro view old bad t
  have hroom : (linesOf q.addr q.n).foldl (fun t ln => t.makeRoom q.core ln) s = s := by
    rw [linesOf, if_pos hline]
    exact State.makeRoom_of_mem hin
  let write (c : Core) : Core := { c with dirty := wholeDirty q.addr q.n old (q.newVal old.toNat) (fun a => bad || s.l1Hurt q.core a) c.dirty }
  have ht : t = (s.onCore q.core write).onReq q.id (fun p => { p with stage := .served, val := old, poisoned := bad }) := by
    simp only [t, State.atomL1, hroom, unpackVal, packVal, Req.place12, hsix, if_true]
    rfl
  rw [ht]
  refine ⟨?_, fun i hi => ⟨bad || s.l1Hurt q.core (q.addr + i), ?_, fun hbad => by rw [hbad, Bool.true_or]⟩⟩
  · obtain rfl := State.req_id h
    exact State.req_onReq ((congrFun (State.req_congr (s.onCore_reqs q.core write)) _).trans h) (by intro; rfl)
  · rw [← sget_wholeDirty (s.core q.core).dirty q.addr old _ (fun a => bad || s.l1Hurt q.core a) hn hi]
    exact congrArg (fun c : Core => sget 0 c.dirty (q.addr + i)) (s.core_onCore q.core write)

/-- An atomic of team scope, alone on its word, is performed in the L1 when the word is there (R77). -/
theorem answer_atom_l1 (hb : q.isBuf = false) (hat : (∃ op ty, q.acc = .atom op ty) ∨ q.acc = .cas) (hl1 : q.l1 = true) (hst : q.stage = .sent) (hscb : s.inScb q = false)
    (hfirst : s.laneFirst q = true) (halone : s.siblings q = [q]) : answer s q = (s.l1Word q).map (fun v => State.atomL1 v.1 (q.poisoned || v.2) s q) := by
  rw [answer_atom hb hat, atomAnswer, if_neg (by rw [hst]; exact Stage.noConfusion), if_pos (by simp [hl1, hst, hscb, hfirst, halone]), State.fillFromReplica_l1 hl1]
  simp only [State.atomsL1, halone, List.foldl_cons, List.foldl_nil]

/-! Buffers (R77, R79, R254) -/

theorem answer_buf (hb : q.isBuf = true) : answer s q = bufAnswer s q := if_pos hb

theorem State.deliver_teams (s : State) (q : Req) : (s.deliver q).teams = s.teams := by
  have hnote : (s.snapNote q.gid).teams = s.teams := by
    unfold State.snapNote
    split <;> rfl
  rw [State.deliver_eq]
  split
  · rfl
  · exact hnote

/-- The answer of a bank reaches its lane, and the buffers are as before. -/
theorem loadComplete_buf_answers {x : QWord} {hurt : Bool} (h : s.req r = some q) (hb : q.isBuf = true) (hsix : q.six = 0)
    (ha : bufAnswer s q = some (s.deliver (q.answering x hurt))) :
    ∃ t v, exec (.loadComplete r) s = .next t ∧ t.mem = s.mem ∧ t.teams = s.teams ∧ q.fills x v ∧ delivered s t q v hurt := by
  have ha' := (answer_buf hb).trans ha
  obtain ⟨v, hv, hd⟩ : answersWith s (s.deliver (q.answering x hurt)) q x hurt := State.deliver_answersWith rfl hsix x hurt
  exact ⟨_, v, by rw [exec_loadComplete h, ha']; rfl, answer_mem ha', s.deliver_teams _, hv, hd⟩

theorem bufAnswer_waits (hst : q.stage ≠ .served) (hready : s.bufReady q = false) : bufAnswer s q = none := by
  rw [bufAnswer, if_neg hst, hready]
  rfl

theorem bufAnswer_load (hst : q.stage ≠ .served) (hready : s.bufReady q = true) (hacc : q.acc = .load) :
    bufAnswer s q = some (s.deliver (q.answering (BitVec.ofNat 128 ((s.team q.team).read q.region q.addr q.n)) (s.bufPoison q))) := by
  simp only [bufAnswer, if_neg hst, hready, hacc, Bool.not_true, Bool.false_eq_true, if_false, Req.answering]
  rfl

/-- A buffer atomic, alone on its word, is performed in the banks. -/
theorem bufAnswer_atom (hst : q.stage ≠ .served) (hready : s.bufReady q = true) (hat : (∃ op ty, q.acc = .atom op ty) ∨ q.acc = .cas) (hscb : s.inScb q = false)
    (halone : s.siblings q = [q]) : bufAnswer s q = some (s.atomBank q) := by
  have hbundle : s.bundleReady q = true := by simp [State.bundleReady, halone, hready]
  have hone : s.atomsBank q = s.atomBank q := by rw [State.atomsBank, halone]; rfl
  rw [bufAnswer, if_neg hst, hready]
  obtain ⟨op, ty, hacc⟩ | hacc := hat <;> simp [hacc, hscb, hbundle, hone]

/-- A buffer atomic has the old bytes as its answer, and the banks the new ones. -/
theorem State.atomBank_spec (h : s.req r = some q) :
    let old := (s.team q.team).read q.region q.addr q.n
    (s.atomBank q).req r = some { q with stage := .served, val := BitVec.ofNat 128 old, poisoned := s.bufPoison q } ∧
      (s.atomBank q).teams = updBy (fun x => x.uid == q.team) (fun x =>
        { x.write q.region q.addr q.n (q.newVal old) with poison := clearPoison x.poison (2 ^ 28 * q.region + q.addr) q.n }) s.teams := by
  obtain rfl := State.req_id h
  exact ⟨State.req_onReq (s := s.writeBuf q.team q.region q.addr q.n _) h (by intro; rfl), rfl⟩

/-! Acknowledgements of writes (R66, R69, R75, R79, R374) -/

theorem exec_storeAck (h : s.req r = some q) : exec (.storeAck r) s = .next ((ackOf s q).getD s) := by
  change execStoreAck r s = _
  simp only [execStoreAck, h]

theorem storeAck_buf (h : s.req r = some q) (hb : q.isBuf = true) (hacc : q.acc = .store) (hready : s.bufReady q = true) (hscb : s.inScb q = false) :
    exec (.storeAck r) s = .next ((s.writeBuf q.team q.region q.addr q.n q.data.toNat).dropReq q.id) := by
  rw [exec_storeAck h, ackOf, if_pos hb, if_pos ⟨hacc, hready, by rw [hscb]; rfl⟩]
  rfl

/-- An acknowledgement is for a store, a write-back or a flush. -/
theorem ackOf_write (hb : q.isBuf = false) (hacc : q.acc = .store ∨ q.acc = .writeback ∨ ∃ op, q.acc = .flush op) :
    (q.stage = .served → ackOf s q = some (((if isHost q.addr then s.snapNote q.gid else s).tellW q q.w).dropReq q.id)) ∧ (q.stage = .port → ackOf s q = portAck s q) := by
  have hwrites : ¬(!(q.acc.puts || q.acc.isFlush)) = true := by
    obtain hacc | hacc | ⟨op, hacc⟩ := hacc <;> rw [hacc] <;> exact Bool.false_ne_true
  constructor <;> intro hst <;> rw [ackOf, if_neg (by rw [hb]; exact Bool.false_ne_true), if_neg hwrites, hst]

/-- The W of an acknowledgement enters the group's WCT, and the request is gone. -/
theorem storeAck_served (h : s.req r = some q) (hb : q.isBuf = false) (hacc : q.acc = .store ∨ q.acc = .writeback ∨ ∃ op, q.acc = .flush op) (hst : q.stage = .served) :
    ∃ t, exec (.storeAck r) s = .next t ∧ t.mem = s.mem ∧ t.reqs = s.reqs.filter (fun p => p.id != q.id) ∧
      (∀ g, s.only g → g.uid = q.gid → ∃ y ∈ t.allGroups, y = { g with wct := max g.wct q.w }) := by
  let noted := if isHost q.addr then s.snapNote q.gid else s
  have hnoted : noted.reqs = s.reqs ∧ noted.allGroups = s.allGroups := by
    dsimp only [noted]
    split
    · exact ⟨(s.snapNote_keeps q.gid).2.1, (s.snapNote_keeps' q.gid).2.2.1⟩
    · exact ⟨rfl, rfl⟩
  have ha : ackOf s q = some ((noted.tellW q q.w).dropReq q.id) := (ackOf_write hb hacc).1 hst
  refine ⟨_, by rw [exec_storeAck h, ha]; rfl, ackOf_mem ha, ?_, fun g hg hu => ⟨_, State.mem_tellW (hnoted.2 ▸ hg.1) hu q.w, rfl⟩⟩
  rw [State.dropReq_only]
  exact congrArg _ ((noted.tellW_keeps q q.w).2.trans hnoted.1)

section
variable (hb : q.isBuf = false) (hacc : q.acc = .store) (hst : q.stage = .port) (hscb : s.inScb q = false)
include hb hacc hst hscb

/-- A store at its core or at a port. -/
theorem ackOf_port : ackOf s q =
    if isPeer q.addr then none
    else if !isHost q.addr then
      if s.reqs.any (fun p => decide (p.id < q.id) && p.inCore && p.core == q.core && overlap p.addr p.n q.addr q.n) then none
      else some ((s.writeL1 q.core q.addr q.n q.data q.mask q.place12).dropReq q.id)
    else if s.hubsDown q.die q.addr ∨ s.reqs.any (fun p => decide (p.id < q.id) && p.stage == .port && p.acc == .store && p.core == q.core && isHost p.addr) then none
    else some (((s.hostPut q.asid q.core q.addr q.n q.data q.mask).snapNote q.gid).dropReq q.id) := by
  rw [(ackOf_write hb (Or.inl hacc)).2 hst, portAck, hscb, hacc]
  rfl

theorem storeAck_peer (h : s.req r = some q) (hpeer : isPeer q.addr = true) : exec (.storeAck r) s = .next s := by
  rw [exec_storeAck h, ackOf_port hb hacc hst hscb, if_pos hpeer]
  rfl

/-- A store to the host leaves the module after the older ones of its core. -/
theorem storeAck_host (h : s.req r = some q) (hhost : isHost q.addr = true) (hpeer : isPeer q.addr = false) (hhubs : s.hubsDown q.die q.addr = false)
    (hold : ∀ p ∈ s.reqs, p.id < q.id → p.stage = .port → p.acc = .store → p.core = q.core → isHost p.addr = false) :
    ∃ t, exec (.storeAck r) s = .next t ∧ t.mem = s.mem ∧ t.out = s.out ++ [.hostWrite (s.pasidOf q.asid) q.addr q.data q.mask] ∧
      t.reqs = s.reqs.filter (fun p => p.id != q.id) := by
  let put : State := { s with out := s.out ++ [.hostWrite (s.pasidOf q.asid) q.addr q.data q.mask] }
  have hnone : s.reqs.any (fun p => decide (p.id < q.id) && p.stage == .port && p.acc == .store && p.core == q.core && isHost p.addr) = false := by
    rw [List.any_eq_false]
    intro p hp hall
    simp only [Bool.and_eq_true, decide_eq_true_eq, beq_iff_eq, and_assoc] at hall
    obtain ⟨hid, hstage, hstore, hcore, hphost⟩ := hall
    rw [hold p hp hid hstage hstore hcore] at hphost
    exact Bool.false_ne_true hphost
  have ha : ackOf s q = some ((put.snapNote q.gid).dropReq q.id) := by
    rw [ackOf_port hb hacc hst hscb, if_neg (by simp [hpeer]), if_neg (by simp [hhost]), if_neg (by simp [hhubs, hnone]), State.hostPut, if_neg (by simp [hpeer])]
  have hout : (put.snapNote q.gid).out = put.out := by
    unfold State.snapNote
    split <;> rfl
  exact ⟨_, by rw [exec_storeAck h, ha]; rfl, ackOf_mem ha, hout, congrArg _ (put.snapNote_keeps q.gid).2.1⟩

/-- A team-scope store that waited in its core is written into the L1 (R75, R266). -/
theorem storeAck_l1 (h : s.req r = some q) (hhost : isHost q.addr = false) (hmask : q.mask = fullMask q.n) (hn : q.n ≤ 16) (hsix : q.six = 0)
    (hold : ∀ p ∈ s.reqs, p.id < q.id → p.inCore = true → p.core = q.core → overlap p.addr p.n q.addr q.n = false) :
    ∃ t, exec (.storeAck r) s = .next t ∧ t.mem = s.mem ∧ (∀ p ∈ t.reqs, p.id ≠ q.id) ∧
      ∀ i, i < q.n → (sget 0 (t.core q.core).dirty (q.addr + i)).setWidth 13 = (0x100 : BitVec 13) ||| (BitVec.ofNat 8 (q.data.toNat / 256 ^ i)).setWidth 13 := by
  have hpeer : isPeer q.addr = false := by rw [isPeer, hhost, Bool.false_and]
  have hnone : s.reqs.any (fun p => decide (p.id < q.id) && p.inCore && p.core == q.core && overlap p.addr p.n q.addr q.n) = false := by
    rw [List.any_eq_false]
    intro p hp hall
    simp only [Bool.and_eq_true, decide_eq_true_eq, beq_iff_eq, and_assoc] at hall
    obtain ⟨hid, hin, hcore, hover⟩ := hall
    rw [hold p hp hid hin hcore] at hover
    exact Bool.false_ne_true hover
  have ha : ackOf s q = some ((s.writeL1 q.core q.addr q.n q.data (fullMask q.n) 0).dropReq q.id) := by
    rw [ackOf_port hb hacc hst hscb, if_neg (by simp [hpeer]), if_pos (by simp [hhost]), if_neg (by simp [hnone]), hmask, Req.place12, if_pos hsix]
  refine ⟨_, by rw [exec_storeAck h, ha]; rfl, ackOf_mem ha, fun p hp => by simpa using (List.mem_filter.1 hp).2, fun i hi => ?_⟩
  obtain ⟨hurt, hbyte⟩ := s.writeL1_whole q.core q.addr q.data hn hi
  exact (congrArg (fun x : BitVec 16 => x.setWidth 13) hbyte).trans (setWidth_dirtyByte _ hurt)

end

end

/-- Settles O37, one answer or acknowledgement at a time: each is read off `answer` or `ackOf` at its stage. -/
theorem answers : Obligations.Answers := by
  unfold Obligations.Answers
  intro r q s h plain at_ atom alone mated
  have hnomate (hm : ¬mated) : s.reqs.any q.mate = false := by rw [← Bool.not_eq_true, any_mate_iff]; exact hm
  refine ⟨fun hb hacc hsix hscale hm => ⟨?_, ?_, ?_, ?_, ?_⟩, fun hb hacc hst hm => ⟨?_, ?_⟩, ?_, fun hb hat hl1 hsix hn hst hscb hfirst halone => ⟨fun hword => ?_, ?_⟩,
    fun hb hsix hn => ⟨fun hst => ?_, fun hst hready => ?_, fun hst hready => ⟨fun hacc => ?_, fun hat hscb halone => ?_⟩⟩, ?_, ?_, ?_⟩
  · exact loadComplete_served h hb hacc hsix hscale (hnomate hm)
  · exact fun hst x hurt hx => loadComplete_local h hb hacc hsix hscale (hnomate hm) hst hx
  · exact loadComplete_local_stays h hb hacc
  · exact loadComplete_port_stays h hb hacc
  · intro hst hpeer hhubs
    obtain ⟨t, v, hexec, hmem, hfree, hout, hv, hd⟩ := loadComplete_port h hb hacc hsix hscale (hnomate hm) hst hpeer hhubs
    exact ⟨t, v, hexec, hmem, hfree, hout, fun _ => hv, hd⟩
  · exact loadComplete_element_waits h hb hacc hst (any_mate_iff.2 hm)
  · exact loadComplete_scale h hb hacc hst
  · exact loadComplete_atom_served h
  · exact loadComplete_stays h (by rw [answer_atom_l1 hb hat hl1 hst hscb hfirst halone, hword]; rfl)
  · intro x hurt hword hline hin view old
    have ha : answer s q = some (State.atomL1 x (q.poisoned || hurt) s q) := by rw [answer_atom_l1 hb hat hl1 hst hscb hfirst halone, hword]; rfl
    obtain ⟨hreq, hdirty⟩ := State.atomL1_spec h hsix hn hline hin x (q.poisoned || hurt)
    refine ⟨_, _, by rw [exec_loadComplete h, ha]; rfl, answer_mem ha, hreq, rfl, rfl, fun i hi => ?_⟩
    obtain ⟨b, hbyte, hbad⟩ := hdirty i hi
    intro d
    have hd : d = _ := hbyte
    rw [hd, setWidth_dirtyByte, dirtyHurt_dirtyByte]
    exact ⟨rfl, fun hbits => hbad (by simpa [view] using hbits)⟩
  · exact loadComplete_buf_answers h hb hsix (if_pos hst)
  · exact loadComplete_stays h ((answer_buf hb).trans (bufAnswer_waits hst hready))
  · exact loadComplete_buf_answers h hb hsix (bufAnswer_load hst hready hacc)
  · have ha := (answer_buf hb).trans (bufAnswer_atom hst hready hat hscb halone)
    obtain ⟨hreq, hteams⟩ := State.atomBank_spec h
    exact ⟨_, _, by rw [exec_loadComplete h, ha]; rfl, answer_mem ha, hreq, rfl, rfl, rfl, hteams⟩
  · exact storeAck_buf h
  · exact storeAck_served h
  · exact fun hb hacc hst hscb => ⟨storeAck_peer hb hacc hst hscb h, storeAck_host hb hacc hst hscb h, storeAck_l1 hb hacc hst hscb h⟩

end Sys2Proof.Machine
end

section
/-! What the engines' steps leave alone: teams, commands, tasks and groups through the operations that a walk, a fault record and a signal are made of. -/

namespace Sys2Proof.Machine

/-! Counted operations and entries that wait for a shadow (R81, R384) -/

/-- An entry that waits for a shadow changes the group's list of them and nothing else of it. -/
theorem State.scbNote_grp (s : State) (id : Nat) (op : Sent) (md : BitVec 8) (addr : DWord) (data : List QWord) :
    ∃ l, (s.scbNote id op md addr data).grp = { s.grp with scb := l } := by
  unfold State.scbNote State.scbAdd
  split
  · rw [State.onGroup_grp, if_pos rfl]
    split
    · exact ⟨_, rfl⟩
    · exact ⟨_, rfl⟩
  · exact ⟨_, rfl⟩

/-- An entry that waits for a shadow leaves the teams, the engines' queues and the bundle alone. -/
theorem State.scbNote_engines (s : State) (id : Nat) (op : Sent) (md : BitVec 8) (addr : DWord) (data : List QWord) :
    (s.scbNote id op md addr data).teams = s.teams ∧ (s.scbNote id op md addr data).copyq = s.copyq ∧ (s.scbNote id op md addr data).tasks = s.tasks ∧
      (s.scbNote id op md addr data).bundle = s.bundle := by
  unfold State.scbNote State.scbAdd
  split <;> exact ⟨rfl, rfl, rfl, rfl⟩

/-- The lanes of a bundle that has moved on depend on the lanes and the bundle alone. -/
theorem State.advance_lanes_congr {s t : State} (hl : t.grp.lanes = s.grp.lanes) (hb : t.bundle = s.bundle) (len : Nat) :
    (t.advance len).grp.lanes = (s.advance len).grp.lanes := by
  simp only [State.advance, State.onLanes_grp_lanes, State.inBundle, hl, hb]
  rfl

/-- An operation of an engine is posted: it is counted, perhaps noted for the shadow, and the bundle moves past (R81, R269, R270). -/
theorem State.posted_grp {s p : State} {id : Nat} {op : Sent} {md : BitVec 8} {addr : DWord} {data : List QWord} {cls len : Nat} (hp : p.grp = (s.count cls true).grp)
    (hb : p.bundle = s.bundle) :
    ((p.scbNote id op md addr data).advance len).grp.ops = s.grp.ops ++ [{ id := s.nextId, cls := cls, open_ := true }] ∧
      ((p.scbNote id op md addr data).advance len).grp.lanes = (s.advance len).grp.lanes := by
  obtain ⟨l, hl⟩ := p.scbNote_grp id op md addr data
  obtain ⟨-, -, -, hbundle⟩ := p.scbNote_engines id op md addr data
  refine ⟨?_, State.advance_lanes_congr ?_ (hbundle.trans hb) len⟩
  · rw [State.advance_grp_ops, hl, hp]
    rfl
  · rw [hl, hp]
    rfl

/-! Commands and faults through a walk and a fault record (R125, R360) -/

/-- What the elements of a walk and the writes of a fault record never touch: the commands of the copy engines and the faults. -/
def State.walkView (s : State) : List CopyCmd × List PFault := (s.copyq, s.faults)

@[simp] theorem State.onTeam_walkView (s : State) (u : Nat) (f : Team → Team) : (s.onTeam u f).walkView = s.walkView := rfl

@[simp] theorem State.onGroup_walkView (s : State) (u : Nat) (f : Group → Group) : (s.onGroup u f).walkView = s.walkView := rfl

theorem State.raiseWct_walkView (s : State) (u w : Nat) : (s.raiseWct u w).walkView = s.walkView := rfl

theorem State.poison_walkView (s : State) (l : List Nat) : ({ s with poison := l } : State).walkView = s.walkView := rfl

@[simp] theorem State.onLine_walkView (s : State) (ln : Nat) (f : Line → Line) : (s.onLine ln f).walkView = s.walkView := by
  unfold State.onLine
  split <;> rfl

/-- A fold of operations that leave the commands and the faults alone leaves them alone. -/
theorem foldl_walkView {α : Type} {f : State → α → State} (h : ∀ t x, (f t x).walkView = t.walkView) (l : List α) (s : State) :
    (l.foldl f s).walkView = s.walkView := by
  induction l generalizing s with
  | nil => rfl
  | cons x l ih => rw [List.foldl_cons, ih, h]

@[simp] theorem State.combineNow_walkView (s : State) (ln : Nat) : (s.combineNow ln).walkView = s.walkView := by
  unfold State.combineNow
  dsimp only
  split
  · rfl
  · exact State.onLine_walkView _ _ _

@[simp] theorem State.combineLines_walkView (s : State) (pa n : Nat) : (s.combineLines pa n).walkView = s.walkView :=
  foldl_walkView State.combineNow_walkView _ _

@[simp] theorem State.writePhys_walkView (s : State) (pa n : Nat) (data mask : QWord) : (s.writePhys pa n data mask).walkView = s.walkView := by
  unfold State.writePhys
  dsimp only
  repeat' split
  all_goals rfl

@[simp] theorem State.orderWrite_walkView (s : State) (d : Nat) (lease : BitVec 2) (pa n : Nat) (data mask : QWord) :
    (s.orderWrite d lease pa n data mask).walkView = s.walkView := by
  rw [State.orderWrite_eq, State.writePhys_walkView]
  exact foldl_walkView (fun t ln => t.onLine_walkView ln _) _ _

theorem State.sendCopy_walkView (s : State) (r : Rop) : (s.sendCopy r).walkView = s.walkView := by
  unfold State.sendCopy
  split <;> rfl

@[simp] theorem State.hostPut_walkView (s : State) (asid core pa n : Nat) (data mask : QWord) : (s.hostPut asid core pa n data mask).walkView = s.walkView := by
  unfold State.hostPut
  split
  · exact State.sendCopy_walkView _ _
  · rfl

@[simp] theorem State.touchCore_walkView (s : State) (c pa n : Nat) (data mask : QWord) : (s.touchCore c pa n data mask).walkView = s.walkView := by
  unfold State.touchCore State.onCore
  split <;> rfl

theorem walkRead_walkView (s : State) (c : CopyCmd) (sp : Spot) (a n : Nat) : (walkRead s c sp a n).walkView = s.walkView := by
  have hcombined : (if sp.range.isSome then s.combineLines sp.pa sp.n else s).walkView = s.walkView := by
    split <;> simp
  simp only [walkRead, State.onTeam_walkView]
  split
  · exact hcombined
  · exact hcombined

theorem walkWrite_walkView (s : State) (c : CopyCmd) (sp : Spot) (a n : Nat) : (walkWrite s c sp a n).walkView = s.walkView := by
  simp only [walkWrite]
  repeat' split
  all_goals simp only [State.poison_walkView, State.raiseWct_walkView, State.touchCore_walkView, State.orderWrite_walkView, State.combineLines_walkView,
    State.onGroup_walkView, State.hostPut_walkView]

/-- An element leaves every command and every fault as it is. -/
theorem walkElem_walkView {s t : State} {c : CopyCmd} {a k : Nat} (h : walkElem c a k s = .on t) : t.walkView = s.walkView := by
  simp only [walkElem] at h
  repeat' split at h
  all_goals cases h
  all_goals simp [walkRead_walkView, walkWrite_walkView]

theorem walkFromTo_walkView (c : CopyCmd) (a fuel t : Nat) (s : State) : (walkFromTo c a fuel t s).1.walkView = s.walkView := by
  induction fuel generalizing t s with
  | zero => rfl
  | succ fuel ih =>
    rw [walkFromTo]
    split
    · next hw => exact (ih _ _).trans (walkElem_walkView hw)
    · rfl
    · rfl

theorem walkRest_walkView (s : State) (c : CopyCmd) : (walkRest s c).1.walkView = s.walkView := by
  simp only [walkRest]
  refine (walkFromTo_walkView _ _ _ _ _).trans ?_
  split <;> rfl

theorem State.putAt_walkView (s : State) (w : Who) (p : Nat × Nat × Nat) (n x : Nat) : (s.putAt w p n x).walkView = s.walkView := by
  simp only [State.putAt]
  split <;> simp

theorem State.putFault_walkView (s : State) (f : PFault) : (s.putFault f).1.walkView = s.walkView := by
  unfold State.putFault
  split
  · rfl
  · exact foldl_walkView (fun t p => t.putAt_walkView _ _ _ _) _ _

/-- Two states of one fault, before and after its record was written: group, walk, cause, access, address, lanes and PC agree. -/
def PFault.sameCase (p q : PFault) : Prop :=
  p.gid = q.gid ∧ p.walk = q.walk ∧ p.cause = q.cause ∧ p.access = q.access ∧ p.addr = q.addr ∧ p.lanes = q.lanes ∧ p.pc = q.pc

/-- Passing a fault on leaves the commands, and every fault says what it said (R360, R361). -/
theorem State.passFault_spec (s : State) (id : Nat) : (s.passFault id).copyq = s.copyq ∧ ∀ q ∈ s.faults, ∃ p ∈ (s.passFault id).faults, p.sameCase q := by
  have hrecord : (s.recordFault id).copyq = s.copyq ∧ ∀ q ∈ s.faults, ∃ p ∈ (s.recordFault id).faults, p.sameCase q := by
    unfold State.recordFault
    split
    · exact ⟨rfl, fun q hq => ⟨q, hq, rfl, rfl, rfl, rfl, rfl, rfl, rfl⟩⟩
    · next f _ =>
      split
      · exact ⟨rfl, fun q hq => ⟨q, hq, rfl, rfl, rfl, rfl, rfl, rfl, rfl⟩⟩
      · obtain ⟨hcopyq, hfaults⟩ := Prod.mk.inj (s.putFault_walkView f)
        refine ⟨hcopyq, fun q hq => ?_⟩
        refine ⟨_, List.mem_map.2 ⟨q, hfaults ▸ hq, rfl⟩, ?_⟩
        beta_reduce
        split <;> exact ⟨rfl, rfl, rfl, rfl, rfl, rfl, rfl⟩
  unfold State.passFault
  dsimp only
  repeat' split
  all_goals exact hrecord

end Sys2Proof.Machine
end

section
/-! The copy engine: COPY (R124, R126, R269), the command's way to its walk (R127, R128), and where the walk stops (R125, R126). -/

namespace Sys2Proof.Machine

/-! COPY (R269) -/

theorem usesRing_eq_false {d : List DWord} (h : copyRing d = 255 ∨ copyCount d = 0) : usesRing d = false := by
  rcases h with h | h <;> simp [usesRing, h]

theorem usesRing_eq_true {d : List DWord} (hr : copyRing d ≠ 255) (hc : copyCount d ≠ 0) : usesRing d = true := by
  simp [usesRing, hr, hc]

/-- The command that a post adds to the queue (R127, R128). -/
def State.newCopy (s : State) (g : Group) (op bar : Nat) (d : List DWord) (pc : DWord) (priv : Bool) : CopyCmd :=
  { id := s.nextId, op := op, gid := g.uid, team := g.team, core := s.unitOf g, bar := bar, d := d, pc := pc, priv := priv,
    stage := if usesRing d then .ringWait else .queued, slot := none, at_ := 0, faulted := false }

section
variable {s : State} {g : Group} {op bar : Nat} {d : List DWord} {pc : DWord} {priv : Bool}

theorem State.postCopy_spec : (s.postCopy g op bar d pc priv).copyq = s.copyq ++ [s.newCopy g op bar d pc priv] ∧ (s.postCopy g op bar d pc priv).grp = s.grp ∧
    (s.postCopy g op bar d pc priv).bundle = s.bundle := by
  unfold State.postCopy State.newCopy
  cases usesRing d <;> exact ⟨rfl, rfl, rfl⟩

theorem State.postCopy_teams_queued (h : usesRing d = false) : (s.postCopy g op bar d pc priv).teams = s.teams := by
  simp [State.postCopy, h]

theorem State.postCopy_teams_ring (h : usesRing d = true) : (s.postCopy g op bar d pc priv).teams = (s.onRing g.team (copyRing d) (fun r => { r with
    waits := r.waits ++ [{ reader := copyOut d, gid := g.uid, lanes := 0, sd := 0, copy := s.nextId }] })).teams := by
  simp only [State.postCopy, h, if_true]
  rfl

end

/-- The command of a COPY that passes R126's checks is posted, and its operation is counted. -/
def State.copyPost (s : State) (f : Fields) : State :=
  (s.count 2 true).postCopy s.grp s.nextId (numOf f.d % 64) (s.grp.scalars (sclNum f.a) 6) s.bundle.pc s.privileged

/-- Posted, and noted for the shadow where there is one. -/
def State.copyNoted (s : State) (f : Fields) : State :=
  (s.copyPost f).scbNote (s.nextId + 1) .copy f.md ((s.grp.scalars (sclNum f.a) 6).getD 0 0) ((s.grp.scalars (sclNum f.a) 6).map (fun x => x.setWidth 128))

section
variable {f : Fields} {s : State} (he : entryStop ⟨0x31, 0, 0⟩ f s = none)
include he

theorem exec_copy_of_nil (hon : s.actives f.gd = []) : exec (.copy f) s = .next ((s.count 2 false).advance f.form.len) := by
  change execCopy f s = _
  rw [execCopy, run_go he, if_pos (by simp [State.anyActive_of_nil hon])]

variable (hon : s.actives f.gd ≠ [])
include hon

theorem exec_copy_raises {i : FaultInfo} (hi : copyFault s.myTeam (numOf f.d % 64) (s.grp.scalars (sclNum f.a) 6) = some i) :
    exec (.copy f) s = .next (raiseWith i s) := by
  change execCopy f s = _
  rw [execCopy, run_go he, if_neg (by simp [State.anyActive_of_ne_nil hon])]
  simp only [hi]

theorem exec_copy_posts (hok : copyFault s.myTeam (numOf f.d % 64) (s.grp.scalars (sclNum f.a) 6) = none) :
    exec (.copy f) s = .next ((s.copyNoted f).advance f.form.len) := by
  change execCopy f s = _
  rw [execCopy, run_go he, if_neg (by simp [State.anyActive_of_ne_nil hon])]
  simp only [hok]
  rfl

/-- A COPY that passes R126's checks is one more command and one more open operation (R81, R127, R269). -/
theorem exec_copy_spec (hok : copyFault s.myTeam (numOf f.d % 64) (s.grp.scalars (sclNum f.a) 6) = none) :
    ∃ t c, exec (.copy f) s = .next t ∧ t.mem = s.mem ∧ t.copyq = s.copyq ++ [c] ∧
      t.grp.ops = s.grp.ops ++ [{ id := s.nextId, cls := 2, open_ := true }] ∧ t.grp.lanes = (s.advance f.form.len).grp.lanes ∧
      c = (s.count 2 true).newCopy s.grp s.nextId (numOf f.d % 64) (s.grp.scalars (sclNum f.a) 6) s.bundle.pc s.privileged ∧ t.teams = (s.copyPost f).teams := by
  have hexec := exec_copy_posts he hon hok
  obtain ⟨hcopyq, hgrp, hbundle⟩ := State.postCopy_spec (s := s.count 2 true)
  obtain ⟨hops, hlanes⟩ := State.posted_grp (p := s.copyPost f) hgrp hbundle
  obtain ⟨hteams, hnoted, -⟩ := State.scbNote_engines (s.copyPost f) _ _ _ _ _
  exact ⟨_, _, hexec, execCopy_keepsMem f s _ hexec, hnoted.trans hcopyq, hops, hlanes, rfl, hteams⟩

end

/-- The first checks of R126 are those of the command's kind and format. -/
theorem copyFault_illegal {t : Team} {bar : Nat} {d : List DWord}
    (h : 5 < copyOp d ∨ 7 < copyFmt d ∨ (copyFmt d = 4 ∧ (copyOp d = 2 ∨ copyWindow d 0 % 4 ≠ 0))) :
    copyFault t bar d = some { cause := .illegal } := by
  rw [copyFault, if_pos h]

/-! A slot for the command, and its start (R127, R128) -/

section
variable {id : Nat} {c : CopyCmd} {s : State}

theorem State.copyCmd_id (h : s.copyCmd id = some c) : c.id = id := by
  simpa using List.find?_some h

theorem State.copyCmd_onCopy (h : s.copyCmd id = some c) {k : CopyCmd → CopyCmd} (hk : ∀ x, (k x).id = x.id) : (s.onCopy id k).copyCmd id = some (k c) := by
  unfold State.copyCmd State.onCopy at *
  rw [find?_updBy (by intro x; rw [hk]), h]
  simp [State.copyCmd_id h]

variable {w : RingWait} (h : s.copyCmd id = some c) (hw : ((s.team c.team).ring (copyRing c.d)).waits.find? (fun v => v.reader == copyOut c.d) = some w)
include h hw

/-- A command that is not the first waiter of its role, or for which no slot is there, waits on. -/
theorem copyRingAcquire_waits (hno : w.copy ≠ id ∨ c.stage ≠ .ringWait ∨ s.unmatched c.gid id = true ∨
      (if w.reader then ((s.team c.team).ring (copyRing c.d)).filled else ((s.team c.team).ring (copyRing c.d)).free) = 0) :
    exec (.copyRingAcquire id) s = .next s := by
  change execCopyRingAcquire id s = _
  simp only [execCopyRingAcquire, h, hw]
  split
  · next hcond =>
    obtain ⟨hid, hst, hum⟩ := hcond
    have hempty : (if w.reader then ((s.team c.team).ring (copyRing c.d)).filled else ((s.team c.team).ring (copyRing c.d)).free) = 0 := by
      rcases hno with hno | hno | hno | hno
      · exact absurd hid hno
      · exact absurd hst hno
      · rw [hno] at hum
        cases hum
      · exact hno
    rw [Ring.take_none _ _ hempty]
  · rfl

/-- The first waiter of its role takes the slot that is there (R127). -/
theorem copyRingAcquire_takes (hid : w.copy = id) (hst : c.stage = .ringWait) (hum : s.unmatched c.gid id = false)
    (hthere : (if w.reader then ((s.team c.team).ring (copyRing c.d)).filled else ((s.team c.team).ring (copyRing c.d)).free) ≠ 0) :
    let r := (s.team c.team).ring (copyRing c.d)
    exec (.copyRingAcquire id) s = .next ((s.onRing c.team (copyRing c.d) (fun _ =>
        { (r.taken w.reader).heldBy (r.nextSlot w.reader) c.gid with waits := r.waits.erase w })).onCopy id
      (fun c => { c with stage := .queued, slot := some (r.nextSlot w.reader) })) := by
  intro r
  change execCopyRingAcquire id s = _
  simp only [execCopyRingAcquire, h, hw]
  rw [if_pos ⟨hid, hst, by simp [hum]⟩, Ring.take_some hthere]
  cases w.reader <;> rfl

end

section
variable {id : Nat} {c : CopyCmd} {s : State} (h : s.copyCmd id = some c)
include h

theorem copyStart_starts (hfirst : (s.copyq.filter (fun x => x.core == c.core && x.stage == .queued)).head? = some c)
    (hfew : (s.copyq.filter (fun x => x.core == c.core && x.stage == .walking)).length < 4) (hum : s.unmatched c.gid id = false) :
    exec (.copyStart id) s = .next (s.onCopy id (fun c => { c with stage := .walking })) := by
  change execCopyStart id s = _
  simp only [execCopyStart, h]
  rw [if_pos ⟨by simp [hfirst, State.copyCmd_id h], hfew, by simp [hum]⟩]

theorem copyStart_waits (hno : (∀ x, (s.copyq.filter (fun x => x.core == c.core && x.stage == .queued)).head? = some x → x.id ≠ id) ∨
      4 ≤ (s.copyq.filter (fun x => x.core == c.core && x.stage == .walking)).length ∨ s.unmatched c.gid id = true) : exec (.copyStart id) s = .next s := by
  change execCopyStart id s = _
  simp only [execCopyStart, h]
  rw [if_neg]
  rintro ⟨hfirst, hfew, hum⟩
  rcases hno with hno | hno | hno
  · obtain ⟨x, hx, hxid⟩ := Option.map_eq_some_iff.1 (beq_iff_eq.1 hfirst)
    exact hno x hx hxid
  · omega
  · simp [hno] at hum

end

/-! Where a walk stops (R125, R126) -/

section
variable {id : Nat} {c : CopyCmd} {s : State} (h : s.copyCmd id = some c)
include h

theorem copyWalkFault_idle (hno : c.stage ≠ .walking ∨ c.faulted = true) : exec (.copyWalkFault id) s = .next s := by
  change execCopyWalkFault id s = _
  simp only [execCopyWalkFault, h]
  rw [if_neg]
  rintro ⟨hst, hf⟩
  rcases hno with hno | hno
  · exact hno hst
  · simp [hno] at hf

theorem copyComplete_idle (hno : c.stage ≠ .walking ∨ c.faulted = true ∨ (s.turn ≠ 0 ∧ c.bar ≠ 63)) : exec (.copyComplete id) s = .next s := by
  change execCopyComplete id s = _
  simp only [execCopyComplete, h]
  rw [if_neg]
  rintro ⟨hst, hf, hturn⟩
  rcases hno with hno | hno | ⟨hno, hbar⟩
  · exact hno hst
  · simp [hno] at hf
  · exact hturn.elim hno hbar

/-- A walk that something stops does not complete. -/
theorem copyComplete_stopped {x : Option FaultInfo} (hx : (walkRest s c).2.2 = some x) : exec (.copyComplete id) s = .next s := by
  change execCopyComplete id s = _
  simp only [execCopyComplete, h]
  split
  · split
    · next heq => rw [heq] at hx; cases hx
    · rfl
  · rfl

/-- A walk that ends raises nothing. -/
theorem copyWalkFault_ended (hx : (walkRest s c).2.2 = none) : exec (.copyWalkFault id) s = .next s := by
  change execCopyWalkFault id s = _
  simp only [execCopyWalkFault, h]
  split
  · split
    · next heq => rw [heq] at hx; cases hx
    · rfl
  · rfl

variable (hst : c.stage = .walking) (hf : c.faulted = false)
include hst hf

/-- The command stops at the element that meets a condition, with a fault record of the walk (R126, R360). -/
theorem copyWalkFault_stops {s1 : State} {k : Nat} {x : FaultInfo} (hx : walkRest s c = (s1, k, some (some x))) :
    ∃ t p, exec (.copyWalkFault id) s = .next t ∧ p ∈ t.faults ∧ p.walk = id ∧ p.cause = x.cause ∧ p.access = 5 ∧ p.addr = x.addr ∧ p.pc = c.pc ∧
      ∃ c', t.copyCmd id = some c' ∧ c'.faulted = true ∧ c'.at_ = k := by
  let s2 : State := (if x.tout = 5 ∨ x.tout = 3 then s1.forgetPage (copyWho s c).bench (copyWho s c).asid x.addr.toNat else s1).onCopy id
    (fun c => { c with at_ := k, faulted := true })
  have hexec : exec (.copyWalkFault id) s =
      .next (({ s2 with faults := s2.faults ++ [walkFault s2 c x], nextId := s2.nextId + 1 } : State).passFault s2.nextId) := by
    change execCopyWalkFault id s = _
    simp only [execCopyWalkFault, h]
    rw [if_pos ⟨hst, by simp [hf]⟩]
    simp only [hx]
    rfl
  obtain ⟨hcopyq, hfaults⟩ := State.passFault_spec { s2 with faults := s2.faults ++ [walkFault s2 c x], nextId := s2.nextId + 1 } s2.nextId
  obtain ⟨p, hp, -, hwalk, hcause, haccess, haddr, -, hpc⟩ := hfaults (walkFault s2 c x) (List.mem_append_right _ List.mem_cons_self)
  have hwalked : s1.copyq = s.copyq := by
    have hview := walkRest_walkView s c
    rw [hx] at hview
    exact (Prod.mk.inj hview).1
  have hforget : (if x.tout = 5 ∨ x.tout = 3 then s1.forgetPage (copyWho s c).bench (copyWho s c).asid x.addr.toNat else s1).copyCmd id = some c := by
    rw [← h]
    split <;> exact congrArg (List.find? _) hwalked
  refine ⟨_, p, hexec, hp, hwalk.trans (State.copyCmd_id h), hcause, haccess, haddr, hpc, { c with at_ := k, faulted := true }, ?_, rfl, rfl⟩
  exact (congrArg (List.find? _) hcopyq).trans (State.copyCmd_onCopy hforget (by intro; rfl))

end

end Sys2Proof.Machine
end

section
/-! The end of a copy (R82, R122, R127, R128), what a fill leaves in the buffer (R125), and `Obligations.CopyEngine`. -/

namespace Sys2Proof.Machine

/-! Signals and closed operations -/

theorem State.signal_none (s : State) (tu : Nat) : s.signal tu 63 = s := if_pos rfl

theorem State.onBar_copyq (s : State) (t : Team) (code : Nat) (k : Bar → Bar) : (s.onBar t code k).copyq = s.copyq := by
  unfold State.onBar
  split <;> rfl

theorem State.signal_copyq (s : State) (tu code : Nat) : (s.signal tu code).copyq = s.copyq := by
  unfold State.signal State.arrive
  split
  · rfl
  · dsimp only
    split <;> exact State.onBar_copyq _ _ _ _

/-- A closed operation leaves its group as it is besides (R81). -/
theorem State.mem_closeOp {s : State} {g : Group} (hg : g ∈ s.allGroups) {gid : Nat} (hu : g.uid = gid) (op : Nat) :
    ∃ y ∈ (s.closeOp gid op).allGroups, y.uid = g.uid ∧ y.lanes = g.lanes ∧ y.ops = updBy (fun o => o.id == op) (fun o => { o with open_ := false }) g.ops := by
  subst hu
  exact ⟨_, State.mem_onGroup hg _, rfl, rfl, rfl⟩

/-- A walk that ends leaves the queue, closes its operation and arrives at the barrier (R82, R122, R128). -/
theorem copyComplete_ends {id k : Nat} {c : CopyCmd} {s s1 : State} (h : s.copyCmd id = some c) (hst : c.stage = .walking) (hf : c.faulted = false)
    (hx : walkRest s c = (s1, k, none)) (hslot : c.slot = none) (hturn : s.turn = 0 ∨ c.bar = 63) :
    exec (.copyComplete id) s = .next ((({ s1 with copyq := s1.copyq.filter (fun x => x.id != id) } : State).closeOp c.gid c.op).signal c.team c.bar) := by
  change execCopyComplete id s = _
  simp only [execCopyComplete, h]
  rw [if_pos ⟨hst, by simp [hf], hturn⟩]
  simp only [hx, hslot]
  rfl

/-! Changes of a team -/

/-- A team that is resident, after a change that keeps its number. -/
theorem State.team_onTeam {s : State} {u : Nat} (h : ∃ tm ∈ s.teams, tm.uid = u) {f : Team → Team} (hf : ∀ t, (f t).uid = t.uid) :
    (s.onTeam u f).team u = f (s.team u) := by
  obtain ⟨tm, htm, hu⟩ := h
  obtain ⟨t, ht⟩ := Option.isSome_iff_exists.1 (List.find?_isSome.2 ⟨tm, htm, by simp [hu]⟩ : (s.teams.find? (fun t => t.uid == u)).isSome)
  have htu : t.uid = u := by simpa using List.find?_some ht
  rw [State.team, State.onTeam_teams, find?_updBy (by intro x; rw [hf]), State.team, ht, Option.map_some, if_pos (beq_iff_eq.2 htu)]
  rfl

/-- Two changes of a team in a row. -/
theorem State.onTeam_onTeam (s : State) (u : Nat) {f g : Team → Team} (hf : ∀ t, (f t).uid = t.uid) : (s.onTeam u f).onTeam u g = s.onTeam u (fun t => g (f t)) := by
  have hteams : updBy (fun t => t.uid == u) g (updBy (fun t => t.uid == u) f s.teams) = updBy (fun t => t.uid == u) (fun t => g (f t)) s.teams := by
    simp only [updBy, List.map_map]
    refine List.map_congr_left fun t _ => ?_
    by_cases ht : t.uid = u <;> simp [ht, hf]
  simp only [State.onTeam, hteams]

/-! A fill (R125) -/

/-- The first `n` elements of a fill of the window at `a`, from element `k` on. -/
def Team.fillFrom (d : List DWord) (a k n : Nat) (t : Team) : Team := (List.range' k n).foldl (fun u i => u.wrElem d a i (fillOf d)) t

theorem Team.wr_uid (t : Team) (a n x : Nat) : (t.wr a n x).uid = t.uid := by
  unfold Team.wr Team.write
  split <;> rfl

theorem Team.wrElem_uid (t : Team) (d : List DWord) (a n x : Nat) : (t.wrElem d a n x).uid = t.uid := by
  unfold Team.wrElem
  split
  · exact t.wr_uid _ _ _
  · exact t.wr_uid _ _ _

theorem Team.fillFrom_uid (d : List DWord) (a k n : Nat) (t : Team) : (t.fillFrom d a k n).uid = t.uid := by
  unfold Team.fillFrom
  generalize List.range' k n = l
  induction l generalizing t with
  | nil => rfl
  | cons i l ih => exact (ih _).trans (t.wrElem_uid _ _ _ _)

theorem walkNum_eq {d : List DWord} (h : copyOp d ≠ 2) (t : Nat) : walkNum d t = t := by
  unfold walkNum
  exact if_neg h

/-- A walk of a fill meets no condition and waits for nothing (R125). -/
theorem walkFromTo_fill {c : CopyCmd} (hop : copyOp c.d = 5) (a n k : Nat) (s : State) :
    walkFromTo c a n k s = (s.onTeam c.team (fun t => t.fillFrom c.d a k n), k + n, none) := by
  induction n generalizing k s with
  | zero =>
    have hid : s.onTeam c.team (fun t => t.fillFrom c.d a k 0) = s := by
      simp [State.onTeam, Team.fillFrom, updBy]
    rw [hid]
    rfl
  | succ n ih =>
    have helem : walkElem c a k s = .on (s.onTeam c.team (fun u => u.wrElem c.d a k (fillOf c.d))) := by
      simp only [walkElem, hop, if_true, walkNum_eq (by rw [hop]; decide : copyOp c.d ≠ 2)]
    rw [walkFromTo, helem]
    simp only [ih]
    rw [State.onTeam_onTeam _ _ (fun t => t.wrElem_uid _ _ _ _), Nat.add_right_comm k 1 n]
    rfl

/-- A fill of the whole window at the descriptor's buffer address: the blocks it writes lose their poison first (R125, R382). -/
def Team.filled (d : List DWord) (t : Team) : Team :=
  ({ t with poison := clearPoison t.poison (copyBuf d) (copyBytes d) } : Team).fillFrom d (copyBuf d) 0 (copyCount d)

/-- The whole walk of a fill that has no ring slot. -/
theorem walkRest_fill {c : CopyCmd} (hop : copyOp c.d = 5) (hat : c.at_ = 0) (hslot : c.slot = none) (s : State) :
    walkRest s c = (s.onTeam c.team (Team.filled c.d), copyCount c.d, none) := by
  have hin : ¬(copyOut c.d ∨ c.at_ ≠ 0) := by simp [copyOut, hop, hat]
  simp only [walkRest, copyAt, hslot]
  rw [if_neg hin, hat, walkFromTo_fill hop, State.onTeam_onTeam _ _ (by intro; rfl), Nat.sub_zero, Nat.zero_add]
  rfl

/-- The bytes of a fill value (R125). -/
theorem byte_fillOf {d : List DWord} (hop : copyOp d = 5) (hfmt : copyFmt d ≠ 4) {j : Nat} (hj : j < elemSize (copyFmt d)) :
    BitVec.ofNat 8 (fillOf d / 256 ^ j) = BitVec.ofNat 8 (copyFill d / 256 ^ j) := by
  obtain ⟨m, hm⟩ := Nat.exists_eq_add_of_lt hj
  have hfill : fillOf d = copyFill d % (256 ^ j * 256 ^ (m + 1)) := by
    rw [← Nat.pow_add, ← Nat.add_assoc, ← hm, fillOf, hop, if_neg (by decide), if_neg hfmt, Nat.pow_mul]
  apply BitVec.eq_of_toNat_eq
  rw [BitVec.toNat_ofNat, BitVec.toNat_ofNat, hfill, Nat.mod_mul_right_div_self]
  exact Nat.mod_mod_of_dvd _ ⟨256 ^ m, Nat.pow_succ'⟩

theorem elemSize_pos (fmt : Nat) : 0 < elemSize fmt := by
  unfold elemSize
  repeat' split
  all_goals decide

/-- An element of the window that stands in the ABUF. -/
theorem Team.wrElem_abuf {d : List DWord} (hfmt : copyFmt d ≠ 4) {a n : Nat} (hin : a + (n + 1) * elemSize (copyFmt d) ≤ 2 ^ 28) (t : Team) (x : Nat) :
    t.wrElem d a n x = { t with abuf := wrBytes t.abuf (a + n * elemSize (copyFmt d)) (elemSize (copyFmt d)) x } := by
  have hpos := elemSize_pos (copyFmt d)
  have hlt : a + n * elemSize (copyFmt d) < 2 ^ 28 := by
    rw [Nat.succ_mul] at hin
    omega
  rw [Team.wrElem, if_neg hfmt, Team.wr, Nat.div_eq_of_lt hlt, Nat.mod_eq_of_lt hlt]
  rfl

/-- From `t` to `u` the bytes of `n` elements at `a` of the ABUF took a fill value, and no other byte of a buffer changed. -/
def filledBy (d : List DWord) (a n : Nat) (t u : Team) : Prop :=
  swf (0 : Byte) u.abuf = true ∧ u.wbuf = t.wbuf ∧ u.cbuf = t.cbuf ∧ ∀ b, rdByte u.abuf b =
    if a ≤ b ∧ b < a + n * elemSize (copyFmt d) then BitVec.ofNat 8 (copyFill d / 256 ^ ((b - a) % elemSize (copyFmt d))) else rdByte t.abuf b

/-- A fill changes the bytes of its elements (R125). -/
theorem Team.filledBy_fillFrom {d : List DWord} (hop : copyOp d = 5) (hfmt : copyFmt d ≠ 4) {a n : Nat} (hin : a + n * elemSize (copyFmt d) ≤ 2 ^ 28) (t : Team)
    (ht : swf (0 : Byte) t.abuf = true) : filledBy d a n t (t.fillFrom d a 0 n) := by
  induction n with
  | zero => exact ⟨ht, rfl, rfl, fun b => by rw [if_neg (by omega)]; rfl⟩
  | succ n ih =>
    have hn : (n + 1) * elemSize (copyFmt d) = n * elemSize (copyFmt d) + elemSize (copyFmt d) := Nat.succ_mul _ _
    obtain ⟨hwf, hwb, hcb, hbytes⟩ := ih (by omega)
    have hstep : t.fillFrom d a 0 (n + 1) = (t.fillFrom d a 0 n).wrElem d a n (fillOf d) := by
      simp [Team.fillFrom, List.range'_concat]
    rw [hstep, Team.wrElem_abuf hfmt hin]
    refine ⟨wf_wrBytes _ _ _ _ hwf, hwb, hcb, fun b => ?_⟩
    by_cases hb : a + n * elemSize (copyFmt d) ≤ b ∧ b < a + (n + 1) * elemSize (copyFmt d)
    · obtain ⟨j, rfl⟩ := Nat.exists_eq_add_of_le hb.1
      have hj : j < elemSize (copyFmt d) := by omega
      have hmod : (a + n * elemSize (copyFmt d) + j - a) % elemSize (copyFmt d) = j := by
        rw [show a + n * elemSize (copyFmt d) + j - a = j + n * elemSize (copyFmt d) by omega, Nat.add_mul_mod_self_right, Nat.mod_eq_of_lt hj]
      rw [if_pos ⟨by omega, hb.2⟩, hmod, ← byte_fillOf hop hfmt hj]
      exact rdByte_wrBytes_in _ _ _ _ _ hwf hj
    · refine (rdByte_wrBytes_out _ _ _ _ _ hwf (by omega)).trans ((hbytes b).trans (if_congr ?_ rfl rfl))
      omega

/-- A fill that ends (R125): every element of the window has the fill value, and nothing else of the buffers changed. -/
theorem copyComplete_fills {id : Nat} {c : CopyCmd} {s : State} (h : s.copyCmd id = some c) (hst : c.stage = .walking) (hf : c.faulted = false)
    (hop : copyOp c.d = 5) (hfmt : copyFmt c.d ≠ 4) (hat : c.at_ = 0) (hslot : c.slot = none) (hbar : c.bar = 63) (hteam : ∃ tm ∈ s.teams, tm.uid = c.team)
    (hwf : swf (0 : Byte) (s.team c.team).abuf = true) (hin : copyBuf c.d + copyBytes c.d ≤ 2 ^ 28) :
    ∃ t, exec (.copyComplete id) s = .next t ∧ t.mem = s.mem ∧ (∀ x ∈ t.copyq, x.id ≠ id) ∧
      (∀ g, s.only g → g.uid = c.gid → ∃ y ∈ t.allGroups, y.uid = g.uid ∧ y.lanes = g.lanes ∧
        y.ops = updBy (fun o => o.id == c.op) (fun o => { o with open_ := false }) g.ops) ∧
      filledBy c.d (copyBuf c.d) (copyCount c.d) (s.team c.team) (t.team c.team) := by
  have hbytes : copyBytes c.d = copyCount c.d * elemSize (copyFmt c.d) := if_neg hfmt
  have hexec := copyComplete_ends h hst hf (walkRest_fill hop hat hslot s) hslot (Or.inr hbar)
  rw [hbar, State.signal_none] at hexec
  refine ⟨_, hexec, rfl, fun x hx => ?_, fun g hg hu => State.mem_closeOp hg.1 hu c.op, ?_⟩
  · simpa using (List.mem_filter.1 hx).2
  · have hfilled : (s.onTeam c.team (Team.filled c.d)).team c.team = (s.team c.team).filled c.d := State.team_onTeam hteam fun t => Team.fillFrom_uid _ _ _ _ _
    exact (congrArg (filledBy _ _ _ _) hfilled).mpr (Team.filledBy_fillFrom hop hfmt (hbytes ▸ hin) _ hwf)

/-- Settles O44: what COPY posts, who takes a slot or starts, and what a walk that stops or ends leaves, each by its own rule. -/
theorem copyEngine : Obligations.CopyEngine := by
  unfold Obligations.CopyEngine
  constructor
  · intro f s hm he on d bar
    refine ⟨fun hon => ?_, fun hon => ⟨fun hill => ?_, fun i hi => ?_, fun hok => ?_⟩⟩
    · exact exec_copy_of_nil he hon
    · exact exec_copy_raises he hon (copyFault_illegal hill)
    · exact exec_copy_raises he hon hi
    · obtain ⟨t, c, hexec, hmem, hcopyq, hops, hlanes, rfl, hteams⟩ := exec_copy_spec he hon hok
      refine ⟨t, _, hexec, hmem, hcopyq, hops, hlanes, rfl, rfl, rfl, rfl, rfl, rfl, rfl, rfl, rfl, fun hfree => ⟨?_, ?_⟩, fun hring hcount => ⟨?_, ?_⟩⟩
      · exact if_neg (Bool.eq_false_iff.1 (usesRing_eq_false hfree))
      · exact hteams.trans (State.postCopy_teams_queued (usesRing_eq_false hfree))
      · exact if_pos (usesRing_eq_true hring hcount)
      · exact hteams.trans (State.postCopy_teams_ring (usesRing_eq_true hring hcount))
  · intro id c s h r
    refine ⟨fun l w rest hwaits hbefore hrole => ?_, ⟨copyStart_starts h, copyStart_waits h⟩,
      fun hno => ⟨copyWalkFault_idle h hno, copyComplete_idle h (hno.imp_right Or.inl)⟩,
      fun hst hf => ⟨fun s1 k x hx => ⟨copyComplete_stopped h (congrArg (fun p => p.2.2) hx), copyWalkFault_stops h hst hf hx⟩,
        fun hturn hbar => copyComplete_idle h (Or.inr (Or.inr ⟨hturn, hbar⟩)), fun s1 k hx hslot hturn => ?_, fun hop hfmt hat hslot hbar hteam hwf hin => ?_⟩⟩
    · have hw : r.waits.find? (fun v => v.reader == copyOut c.d) = some w := by
        rw [hwaits, List.find?_append, List.find?_eq_none.2 (by simpa using hbefore), Option.none_or]
        exact List.find?_cons_of_pos (by simp [hrole])
      refine ⟨fun hno => copyRingAcquire_waits h hw hno, fun hid hst hum hthere => ⟨_, ?_, ?_, ?_, ?_, copyRingAcquire_takes h hw hid hst hum hthere⟩⟩
      · rfl
      · intro hr
        rw [hr]
        rfl
      · intro hr
        rw [hr]
        rfl
      · exact Ring.owner_heldBy _ _ _
    · have hexec := copyComplete_ends h hst hf hx hslot hturn
      refine ⟨_, copyWalkFault_ended h (congrArg (fun p => p.2.2) hx), hexec, State.signal_mem _ _ _, State.signal_copyq _ _ _⟩
    · obtain ⟨t, hexec, hmem, hcopyq, hgroups, -, hwb, hcb, hbytes⟩ := copyComplete_fills h hst hf hop hfmt hat hslot hbar hteam hwf hin
      rw [show copyBytes c.d = copyCount c.d * elemSize (copyFmt c.d) from if_neg hfmt]
      exact ⟨t, hexec, hmem, hcopyq, hgroups, hwb, hcb, hbytes⟩

end Sys2Proof.Machine
end

section
/-! The matrix engine's tasks: TILE (R109, R112, R114, R270), a task's readiness (R118), what the array keeps of a task and gives back (R120), and a task's end (R122). -/

namespace Sys2Proof.Machine

/-! TILE (R270) -/

/-- The task that a post adds to the quad's table, with what it captures (R114, R116). -/
def State.newTask (s : State) (g : Group) (op : Nat) (lanes : QWord) (pc : DWord) (kind : TileOp) (t : List DWord) : Task :=
  { id := s.nextId, op := op, gid := g.uid, lanes := lanes, pc := pc, team := g.team, quad := s.unitOf g / 4, core := s.unitOf g, kind := kind, t := t,
    seed := sget 0 g.sseed (Block.seedIx (tileAtag t)), phase0 := s.phaseOf (s.team g.team) (tileWait t 0), phase1 := s.phaseOf (s.team g.team) (tileWait t 1),
    stage := .waiting, pass := 0, since := s.cycle, poisoned := false }

theorem State.phaseOf_eq {code : Nat} (h : code ≠ 63) (s : State) (t : Team) : s.phaseOf t code = (s.bar t code).phase := if_neg h

/-- The first checks of R112 are those of the sizes and the mode. -/
theorem tileFault_illegal {g : Group} {tm : Team} {op : TileOp} {t : List DWord} (h : 256 < tileM t ∨ 256 < tileN t ∨ 1 < tileMode t) :
    tileFault g tm op t = some { cause := .illegal } := by
  have hill : tileIllegal op t = true := by
    rcases h with h | h | h <;> simp [tileIllegal, h]
  rw [tileFault, if_pos hill]

section
variable {f : Fields} {s : State} {fn : BitVec 3} {op : TileOp} (he : entryStop ⟨0x32, fn, 0⟩ f s = none)
include he

theorem tile_of_nil (hon : s.actives f.gd = []) : tile fn op f s = .next ((s.count 3 false).advance f.form.len) := by
  rw [tile, run_go he, if_pos (by simp [State.anyActive_of_nil hon])]

variable (hon : s.actives f.gd ≠ [])
include hon

theorem tile_raises {i : FaultInfo} (hi : tileFault s.grp s.myTeam op (s.grp.scalars (sclNum f.a) 4) = some i) : tile fn op f s = .next (raiseWith i s) := by
  rw [tile, run_go he, if_neg (by simp [State.anyActive_of_ne_nil hon])]
  simp only [hi]

/-- A TILE that passes the checks is one more task and one more open operation (R81, R112, R114, R270). -/
theorem tile_posts (hok : tileFault s.grp s.myTeam op (s.grp.scalars (sclNum f.a) 4) = none) :
    ∃ t x, tile fn op f s = .next t ∧ t.mem = s.mem ∧ t.teams = s.teams ∧ t.tasks = s.tasks ++ [x] ∧
      t.grp.ops = s.grp.ops ++ [{ id := s.nextId, cls := 3, open_ := true }] ∧ t.grp.lanes = (s.advance f.form.len).grp.lanes ∧
      x = (s.count 3 true).newTask s.grp s.nextId (s.activeMask f.gd) s.bundle.pc op (s.grp.scalars (sclNum f.a) 4) := by
  let d := s.grp.scalars (sclNum f.a) 4
  let p := (s.count 3 true).postTile s.grp s.nextId (s.activeMask f.gd) s.bundle.pc op d
  have hexec : tile fn op f s = .next ((p.scbNote (s.nextId + 1) (.tile op) f.md (d.getD 0 0) (d.map (fun x => x.setWidth 128))).advance f.form.len) := by
    rw [tile, run_go he, if_neg (by simp [State.anyActive_of_ne_nil hon])]
    simp only [hok]
    rfl
  obtain ⟨hteams, -, htasks, -⟩ := p.scbNote_engines (s.nextId + 1) (.tile op) f.md (d.getD 0 0) (d.map (fun x => x.setWidth 128))
  obtain ⟨hops, hlanes⟩ := State.posted_grp (s := s) (p := p) (id := s.nextId + 1) (op := .tile op) (md := f.md) (addr := d.getD 0 0)
    (data := d.map (fun x => x.setWidth 128)) (len := f.form.len) rfl rfl
  exact ⟨_, _, hexec, tile_keepsMem _ hexec, hteams, htasks, hops, hlanes, rfl⟩

end

/-- The five operations of TILE begin with the same checks. -/
theorem exec_tile_eq {f : Fields} {s : State} {c : Instr × Key × TileOp}
    (hc : c ∈ ([(.tileMma f, ⟨0x32, 0, 0⟩, .mma), (.tileMmaz f, ⟨0x32, 1, 0⟩, .mmaz), (.tileQout f, ⟨0x32, 2, 0⟩, .qout), (.tileTrot f, ⟨0x32, 3, 0⟩, .trot),
        (.tileTzero f, ⟨0x32, 4, 0⟩, .tzero)] : List (Instr × Key × TileOp))) : ∃ fn, c.2.1 = ⟨0x32, fn, 0⟩ ∧ exec c.1 s = tile fn c.2.2 f s := by
  simp only [List.mem_cons, List.not_mem_nil, or_false] at hc
  rcases hc with rfl | rfl | rfl | rfl | rfl
  · exact ⟨0, rfl, (rfl : execTileMma f s = _)⟩
  · exact ⟨1, rfl, (rfl : execTileMmaz f s = _)⟩
  · exact ⟨2, rfl, (rfl : execTileQout f s = _)⟩
  · exact ⟨3, rfl, (rfl : execTileTrot f s = _)⟩
  · exact ⟨4, rfl, (rfl : execTileTzero f s = _)⟩

/-! A task's readiness (R118) -/

/-- The task waits on its wait barrier `i` no more: it has none, or the barrier has flipped since the post. -/
def State.waitOver (s : State) (x : Task) (i : Nat) (ph : Bool) : Prop := tileWait x.t i = 63 ∨ (s.bar (s.team x.team) (tileWait x.t i)).phase ≠ ph

/-- An older task of the stream has passes to make. -/
def State.olderTask (s : State) (id : Nat) (x : Task) : Prop :=
  ∃ y ∈ s.tasks, y.id < id ∧ y.team = x.team ∧ tileStream y.t = tileStream x.t ∧ y.stage ≠ .draining

theorem State.flipped_iff {s : State} {x : Task} {i : Nat} {ph : Bool} : flipped s (s.team x.team) (tileWait x.t i) ph = true ↔ s.waitOver x i ph := by
  simp [flipped, State.waitOver]

theorem State.any_olderTask_iff {s : State} {id : Nat} {x : Task} :
    s.tasks.any (fun y => decide (y.id < id) && y.team == x.team && tileStream y.t == tileStream x.t && y.stage != .draining) = true ↔ s.olderTask id x := by
  simp [State.olderTask, and_assoc]

section
variable {id : Nat} {x : Task} {s : State} (h : s.task id = some x)
include h

theorem State.task_id : x.id = id := by
  simpa using List.find?_some h

theorem taskReady_becomes (hst : x.stage = .waiting) (h0 : s.waitOver x 0 x.phase0) (h1 : s.waitOver x 1 x.phase1) (hold : ¬s.olderTask id x)
    (hum : s.unmatched x.gid id = false) : exec (.taskReady id) s = .next (s.onTask id (fun y => { y with stage := .ready, since := s.cycle })) := by
  change execTaskReady id s = _
  simp only [execTaskReady, h]
  have hnone : (!s.tasks.any (fun y => decide (y.id < id) && y.team == x.team && tileStream y.t == tileStream x.t && y.stage != .draining)) = true := by
    rw [Bool.not_eq_true', Bool.eq_false_iff, ne_eq, State.any_olderTask_iff]
    exact hold
  rw [if_pos ⟨hst, State.flipped_iff.2 h0, State.flipped_iff.2 h1, hnone, by rw [hum]; rfl⟩]

theorem taskReady_waits (hno : x.stage ≠ .waiting ∨ ¬s.waitOver x 0 x.phase0 ∨ ¬s.waitOver x 1 x.phase1 ∨ s.olderTask id x ∨ s.unmatched x.gid id = true) :
    exec (.taskReady id) s = .next s := by
  change execTaskReady id s = _
  simp only [execTaskReady, h]
  rw [if_neg]
  rintro ⟨hst, h0, h1, hold, hum⟩
  rcases hno with hno | hno | hno | hno | hno
  · exact hno hst
  · exact hno (State.flipped_iff.1 h0)
  · exact hno (State.flipped_iff.1 h1)
  · rw [State.any_olderTask_iff.2 hno] at hold
    cases hold
  · rw [hno] at hum
    cases hum

end

/-! Words of C (R108, R120) -/

/-- What holds of a team before the words of a tile are written one by one, and through each of them, holds after them. -/
theorem eachWord_ind {P : Team → Prop} {t : List DWord} {f : Nat → Nat → Team → Team} {tm : Team}
    (hf : ∀ m n u, m < tileM t → n < tileN t → P u → P (f m n u))
    (h : P tm) : P (eachWord t f tm) :=
  List.foldlRecOn _ _ h fun _ hu m hm => List.foldlRecOn _ _ hu fun _ hv n hn => hf m n _ (List.mem_range.1 hm) (List.mem_range.1 hn) hv

/-- Number and barriers of a team. -/
def Team.frame (t : Team) : Nat × List Bar := (t.uid, t.bars)

theorem Team.wr_frame (t : Team) (a n x : Nat) : (t.wr a n x).frame = t.frame := by
  unfold Team.wr Team.write
  split <;> rfl

theorem layWords_frame (t : List DWord) (w : List Nat) (tm : Team) : (layWords t w tm).frame = tm.frame :=
  eachWord_ind (P := fun u => u.frame = tm.frame) (fun _ _ u _ _ hu => (u.wr_frame _ _ _).trans hu) rfl

/-! What the array gives back (R120) -/

/-- The array's writing back is a change of one team beside the array itself. -/
theorem State.writeArray_only (s : State) (quad : Nat) :
    ∃ arrays u f, s.writeArray quad = { s.onTeam u f with arrays := arrays } ∧ ∀ t, Team.frame (f t) = t.frame := by
  have hid (u : Nat) : s.onTeam u (fun t => t) = s := by simp [State.onTeam, updBy]
  unfold State.writeArray
  split
  · exact ⟨s.arrays, 0, fun t => t, by rw [hid], fun _ => rfl⟩
  · next a _ =>
    dsimp only
    split
    · exact ⟨(s.setArray quad none).arrays, 0, fun t => t, by rw [hid]; rfl, fun _ => rfl⟩
    · refine ⟨(s.setArray quad none).arrays, _, _, rfl, fun t => ?_⟩
      split
      · exact layWords_frame _ _ _
      · exact layWords_frame _ _ _

theorem State.writeArray_keeps (s : State) (quad : Nat) :
    (s.writeArray quad).tasks = s.tasks ∧ (s.writeArray quad).allGroups = s.allGroups ∧ (s.writeArray quad).cycle = s.cycle := by
  obtain ⟨arrays, u, f, heq, -⟩ := s.writeArray_only quad
  rw [heq]
  exact ⟨rfl, rfl, rfl⟩

/-- Number and barriers of every team are as before. -/
theorem State.frame_onTeam (s : State) (u v : Nat) {f : Team → Team} (hf : ∀ t, Team.frame (f t) = t.frame) : ((s.onTeam u f).team v).frame = (s.team v).frame := by
  rw [State.team, State.onTeam_teams, find?_updBy (by intro t; rw [(Prod.mk.inj (hf t)).1]), State.team]
  cases s.teams.find? (fun t => t.uid == v) with
  | none => rfl
  | some t =>
    simp only [Option.map_some, Option.getD_some]
    split
    · exact hf t
    · rfl

theorem State.writeArray_frame (s : State) (quad v : Nat) : ((s.writeArray quad).team v).frame = (s.team v).frame := by
  obtain ⟨arrays, u, f, heq, hf⟩ := s.writeArray_only quad
  rw [heq]
  exact s.frame_onTeam u v hf

/-! A task's end (R120, R122) -/

/-- What the array still keeps of a task has gone to CBUF, and the task is gone. -/
def State.taskGone (s : State) (id : Nat) (x : Task) : State :=
  let s0 := if (s.array x.quad).any (fun a => a.task == id) then s.writeArray x.quad else s
  { s0 with tasks := s0.tasks.filter (fun y => y.id != id) }

theorem State.taskGone_keeps (s : State) (id : Nat) (x : Task) :
    (s.taskGone id x).tasks = s.tasks.filter (fun y => y.id != id) ∧ (s.taskGone id x).allGroups = s.allGroups ∧
      ∀ v, ((s.taskGone id x).team v).frame = (s.team v).frame := by
  unfold State.taskGone
  dsimp only
  split
  · obtain ⟨htasks, hgroups, -⟩ := s.writeArray_keeps x.quad
    exact ⟨by rw [htasks], hgroups, s.writeArray_frame x.quad⟩
  · exact ⟨rfl, rfl, fun _ => rfl⟩

/-- A signal that is not the last arrival of its barrier of the team (R46, R110). -/
theorem State.signal_counts {s : State} {tu code : Nat} (hcode : code < 48) (hu : (s.team tu).uid = tu) (hlen : code < (s.team tu).bars.length)
    (hpend : 1 < ((s.team tu).bars.getD code default).pending.toNat) :
    (((s.signal tu code).team tu).bars.getD code default).pending = ((s.team tu).bars.getD code default).pending - 1 := by
  have hbar (u : State) : u.bar (s.team tu) code = (u.team tu).bars.getD code default := by
    rw [State.bar, if_pos hcode, hu]
  have hthere : s.hasBar (s.team tu) code := by
    rw [State.hasBar, if_pos hcode, hu]
    rw [State.team] at hlen
    cases hfind : s.teams.find? (fun t => t.uid == tu) with
    | none =>
      rw [hfind] at hlen
      exact absurd hlen (Nat.not_lt_zero code)
    | some t =>
      rw [hfind] at hlen
      exact ⟨t, rfl, hlen⟩
  rw [State.signal, if_neg (by omega), State.arrive_of_lt (by rw [hbar]; exact hpend), ← hbar, State.bar_onBar hthere, hbar]
  rfl

section
variable {id : Nat} {x : Task} {s : State} (h : s.task id = some x)
include h

theorem taskComplete_waits (hno : x.stage ≠ .draining ∨ (s.turn ≠ 0 ∧ tileSig x.t ≠ 63)) : exec (.taskComplete id) s = .next s := by
  change execTaskComplete id s = _
  simp only [execTaskComplete, h]
  rw [if_neg]
  rintro ⟨hst, hturn⟩
  rcases hno with hno | ⟨h0, h63⟩
  · exact hno hst
  · exact hturn.elim h0 h63

/-- A task that made its passes signals and closes its operation (R122). -/
theorem taskComplete_ends (hst : x.stage = .draining) (hpois : x.poisoned = false) (hturn : s.turn = 0 ∨ tileSig x.t = 63) :
    exec (.taskComplete id) s = .next (((s.taskGone id x).signal x.team (tileSig x.t)).closeOp x.gid x.op) := by
  change execTaskComplete id s = _
  simp only [execTaskComplete, h]
  rw [if_pos ⟨hst, hturn⟩]
  simp only [hpois]
  rfl

/-- The end of a task without a signal. -/
theorem taskComplete_unsignalled (hst : x.stage = .draining) (hpois : x.poisoned = false) (hsig : tileSig x.t = 63) :
    ∃ t, exec (.taskComplete id) s = .next t ∧ t.mem = s.mem ∧
      t.teams = (if (s.array x.quad).any (fun a => a.task == id) then s.writeArray x.quad else s).teams ∧ t.tasks = s.tasks.filter (fun y => y.id != id) ∧
      ∀ g, s.only g → g.uid = x.gid → ∃ y ∈ t.allGroups, y.uid = g.uid ∧ y.lanes = g.lanes ∧
        y.ops = updBy (fun o => o.id == x.op) (fun o => { o with open_ := false }) g.ops := by
  have hexec := taskComplete_ends h hst hpois (Or.inr hsig)
  rw [hsig, State.signal_none] at hexec
  obtain ⟨htasks, hgroups, -⟩ := s.taskGone_keeps id x
  exact ⟨_, hexec, execTaskComplete_keepsMem id s _ hexec, rfl, htasks, fun g hg hu => State.mem_closeOp (hgroups ▸ hg.1) hu x.op⟩

/-- The end of a task whose signal is not the last arrival that its barrier expects. -/
theorem taskComplete_counts (hst : x.stage = .draining) (hturn : s.turn = 0) (hpois : x.poisoned = false) (hcode : tileSig x.t < 48)
    (hu : (s.team x.team).uid = x.team) (hlen : tileSig x.t < (s.team x.team).bars.length)
    (hpend : 1 < ((s.team x.team).bars.getD (tileSig x.t) default).pending.toNat) : ∃ t, exec (.taskComplete id) s = .next t ∧
      ((t.team x.team).bars.getD (tileSig x.t) default).pending = ((s.team x.team).bars.getD (tileSig x.t) default).pending - 1 := by
  obtain ⟨-, -, hframe⟩ := s.taskGone_keeps id x
  obtain ⟨huid, hbars⟩ := Prod.mk.inj (hframe x.team)
  rw [← hbars] at hlen hpend ⊢
  exact ⟨_, taskComplete_ends h hst hpois (Or.inl hturn), State.signal_counts (s := s.taskGone id x) hcode (huid.trans hu) hlen hpend⟩

end

end Sys2Proof.Machine
end

section
/-! Passes: the arbiter's choice (R119), what a pass changes (R120), its second run in an assay context (R385), the values of TZERO and of int8 MMA (R104, R111), and
`Obligations.MatrixEngine`. -/

namespace Sys2Proof.Machine

/-! The arbiter (R119) -/

/-- The tasks the arbiter of a quad chooses among. -/
def State.mayPass (s : State) (quad : Nat) (y : Task) : Prop := y ∈ s.tasks ∧ y.quad = quad ∧ (y.stage = .ready ∨ y.stage = .active) ∧ y.pass < y.passes

theorem effective_le_of_beats {now cur : Nat} {x y : Task} (h : beats now cur x y = true) : effective now y ≤ effective now x := by
  simp only [beats, Bool.or_eq_true, Bool.and_eq_true, decide_eq_true_eq, beq_iff_eq] at h
  omega

/-- The arbiter chooses a task of highest effective priority. -/
theorem State.arbiter_spec {s : State} {quad : Nat} {x : Task} (h : s.arbiter quad = some x) :
    s.mayPass quad x ∧ ∀ y, s.mayPass quad y → effective s.cycle y ≤ effective s.cycle x := by
  have hmem (y : Task) :
      y ∈ s.tasks.filter (fun x => x.quad == quad && (x.stage == .ready || x.stage == .active) && decide (x.pass < x.passes)) ↔ s.mayPass quad y := by
    simp [State.mayPass, and_assoc]
  unfold State.arbiter at h
  dsimp only at h
  have hall := List.find?_some h
  exact ⟨(hmem x).1 (List.mem_of_find?_eq_some h), fun y hy => effective_le_of_beats (List.all_eq_true.1 hall y ((hmem y).2 hy))⟩

theorem passGrant_none {s : State} {quad : Nat} (h : s.arbiter quad = none) : exec (.passGrant quad) s = .next s := by
  change execPassGrant quad s = _
  simp only [execPassGrant, h]

theorem passGrant_some {s : State} {quad : Nat} {x : Task} (h : s.arbiter quad = some x) : exec (.passGrant quad) s = .next (s.pass quad x) := by
  change execPassGrant quad s = _
  simp only [execPassGrant, h]

/-! What a pass changes (R120) -/

theorem State.array_setArray (s : State) {quad : Nat} {a : Accu} (h : a.quad = quad) : (s.setArray quad (some a)).array quad = some a := by
  have hnone : (s.arrays.filter (fun x => x.quad != quad)).find? (fun a => a.quad == quad) = none := by
    rw [List.find?_eq_none]
    intro y hy
    simpa using (List.mem_filter.1 hy).2
  rw [State.array, State.setArray, List.find?_append, hnone, Option.none_or]
  exact List.find?_cons_of_pos (beq_iff_eq.2 h)

/-- A pass: the array keeps the task's accumulators, the buffers and the task change as R120 says, and nothing else of teams and tasks. -/
theorem State.pass_spec (s : State) (quad : Nat) (x : Task) :
    let mine := (s.array quad).filter (fun a => a.task == x.id)
    let u := if mine.isSome then s else s.writeArray quad
    let tm := u.team x.team
    let fresh := x.kind = .tzero ∨ (x.kind = .mmaz ∧ x.pass = 0)
    let r := runPass x ((mine.map (fun a => a.words)).getD (cWords x.t tm)) tm
    let after (y : Task) : Task :=
      { y with pass := y.pass + 1, since := s.cycle, stage := if x.passes ≤ x.pass + 1 then .draining else .active,
               poisoned := y.poisoned || passHurt x tm (mine.isNone && decide ¬fresh) }
    (∃ a, (s.pass quad x).array quad = some a ∧ a.task = x.id ∧ a.words = r.2) ∧
      (s.pass quad x).teams = updBy (fun y => y.uid == x.team) (fun _ => passClean x r.1) u.teams ∧
      (s.pass quad x).tasks = updBy (fun y => y.id == x.id) after s.tasks := by
  intro mine u tm fresh r after
  have hu : u.tasks = s.tasks ∧ u.cycle = s.cycle := by
    obtain ⟨htasks, -, hcycle⟩ := s.writeArray_keeps quad
    dsimp only [u]
    split
    · exact ⟨rfl, rfl⟩
    · exact ⟨htasks, hcycle⟩
  have hfresh : (x.kind == .tzero || (x.kind == .mmaz && x.pass == 0)) = decide fresh := by
    simp [fresh, Bool.decide_or, Bool.decide_and, beq_eq_decide]
  refine ⟨⟨_, (State.array_setArray _ rfl : (s.pass quad x).array quad = _), rfl, rfl⟩, rfl, ?_⟩
  refine congrArg₂ (updBy (fun y => y.id == x.id)) (funext fun y => ?_ : _ = after) hu.1
  simp only [after]
  rw [hfresh, hu.2, ← decide_not]
  simp only [decide_eq_true_eq]
  rfl

/-! The second run of a pass (R385) -/

section
variable {quad : Nat} {a : Accu} {x : Task} {s : State} {again : List Nat} (ha : s.array quad = some a) (hx : s.task a.task = some x)
include ha hx

theorem passAgain_agrees (h : s.isAssay x.gid = false ∨ again = a.words) : execPassAgain quad again s = .next s := by
  rw [State.array] at ha
  rw [State.task] at hx
  simp only [execPassAgain, ha, hx]
  rw [if_pos (h.imp_left (by simp))]

end

/-- A group is found by its number exactly when one that is resident has it. -/
theorem State.exists_group_iff {s : State} {u : Nat} : (∃ g, s.group u = some g) ↔ ∃ g ∈ s.allGroups, g.uid = u := by
  unfold State.group State.allGroups
  by_cases h : s.grp.uid = u
  · simp [h]
  · simp [h, ← Option.isSome_iff_exists]

/-- The group of an assay context is resident. -/
theorem State.group_of_isAssay {s : State} {u : Nat} (h : s.isAssay u = true) : ∃ g, s.group u = some g := by
  unfold State.isAssay at h
  split at h
  · next g hg => exact ⟨g, hg⟩
  · cases h

/-- A fault of held lanes is recorded, and leaves memory, teams and tasks (R360, R382). -/
theorem State.faultHeld_spec {s : State} {u : Nat} {g : Group} (hg : s.group u = some g) (m : QWord) (i : FaultInfo) :
    (s.faultHeld u m i).teams = s.teams ∧ (s.faultHeld u m i).tasks = s.tasks ∧
      ∃ p ∈ (s.faultHeld u m i).faults, p.cause = i.cause ∧ p.gid = u ∧ p.lanes = m ∧ ∀ pc, i.from_ = some pc → p.pc = pc := by
  unfold State.faultHeld
  rw [hg]
  refine ⟨rfl, rfl, _, List.mem_append_right _ List.mem_cons_self, rfl, rfl, rfl, fun pc hpc => ?_⟩
  rw [hpc]
  rfl

/-- A disagreement of an assay context: what it has not sent is dropped, and its lanes take the fault (R385). -/
theorem State.assayRaise_spec {s : State} {u : Nat} {g : Group} (hg : s.group u = some g) (m : QWord) (pc addr : DWord) :
    (s.assayRaise u m pc addr).teams = s.teams ∧ (∀ y ∈ (s.assayRaise u m pc addr).tasks, y ∈ s.tasks) ∧
      ∃ p ∈ (s.assayRaise u m pc addr).faults, p.cause = .assay ∧ p.gid = u ∧ p.lanes = m ∧ p.pc = pc := by
  obtain ⟨y, hy⟩ : ∃ y, ((s.dropUnsent (fun v => v == u)).onGroup u (fun y => { y with log := [], lvq := [], scb := [] })).group u = some y := by
    obtain ⟨g, hmem, rfl⟩ := State.exists_group_iff.1 ⟨g, hg⟩
    have hdropped : { g with rels := g.rels.filter (fun r => !(g.uid == g.uid && s.unmatched g.uid r.id)) } ∈ (s.dropUnsent (fun v => v == g.uid)).allGroups := by
      rcases List.mem_cons.1 hmem with rfl | hmem
      · exact List.mem_cons_self
      · exact List.mem_cons_of_mem _ (List.mem_map.2 ⟨g, hmem, rfl⟩)
    exact State.exists_group_iff.2 ⟨_, State.mem_onGroup hdropped _, rfl⟩
  obtain ⟨hteams, htasks, p, hp, hcause, hgid, hlanes, hpc⟩ := State.faultHeld_spec hy m { cause := .assay, addr := addr, from_ := some pc }
  refine ⟨hteams, fun z hz => ?_, p, hp, hcause, hgid, hlanes, hpc pc rfl⟩
  exact (List.mem_filter.1 (htasks ▸ hz)).1

/-- A second run that differs raises ASSAY, and the task is gone (R385). -/
theorem passAgain_differs {quad : Nat} {a : Accu} {x : Task} {s : State} {again : List Nat} (ha : s.array quad = some a) (hx : s.task a.task = some x)
    (h : s.isAssay x.gid = true) (hne : again ≠ a.words) : ∃ t, execPassAgain quad again s = .next t ∧ t.mem = s.mem ∧ t.teams = s.teams ∧
      (∀ y ∈ t.tasks, y.id ≠ x.id) ∧ ∃ p ∈ t.faults, p.cause = .assay ∧ p.gid = x.gid ∧ p.lanes = x.lanes ∧ p.pc = x.pc := by
  let s1 : State := { s with arrays := s.arrays.filter (fun y => y.quad != quad), tasks := s.tasks.filter (fun y => y.id != x.id) }
  have hexec : execPassAgain quad again s = .next (s1.assayRaise x.gid x.lanes x.pc 0) := by
    rw [State.array] at ha
    rw [State.task] at hx
    simp only [execPassAgain, ha, hx]
    rw [if_neg (by simp [h, hne])]
  obtain ⟨g, hg⟩ := State.group_of_isAssay h
  obtain ⟨hteams, htasks, hfault⟩ := State.assayRaise_spec (s := s1) hg x.lanes x.pc 0
  refine ⟨_, hexec, execPassAgain_keepsMem quad again s _ hexec, hteams, fun y hy => ?_, hfault⟩
  simpa using (List.mem_filter.1 (htasks y hy)).2

/-! Words of CBUF (R36, R111) -/

theorem rdBytes_lt (m : Sparse Byte) (a n : Nat) : rdBytes m a n < 256 ^ n := by
  induction n generalizing a with
  | zero => exact Nat.one_pos
  | succ n ih =>
    have hb := (rdByte m a).isLt
    have ht := ih (a + 1)
    rw [rdBytes, Nat.pow_succ]
    omega

/-- Bytes read as zero together exactly when each does. -/
theorem rdBytes_eq_zero_iff {m : Sparse Byte} {a n : Nat} : rdBytes m a n = 0 ↔ ∀ i < n, rdByte m (a + i) = 0 := by
  constructor
  · intro h i hi
    rw [← rdBytes_byte m a n i hi, h, Nat.zero_div]
    rfl
  · intro h
    induction n generalizing a with
    | zero => rfl
    | succ n ih =>
      have h0 : rdByte m a = 0 := h 0 (Nat.succ_pos n)
      rw [rdBytes, h0, ih fun i hi => by rw [Nat.add_assoc, Nat.add_comm 1 i]; exact h (i + 1) (by omega)]
      rfl

/-- Zeros written anywhere keep zeros. -/
theorem rdBytes_wrBytes_zero {m : Sparse Byte} {a n b k : Nat} (hm : Memory.wf m = true) (h : rdBytes m b k = 0) : rdBytes (wrBytes m a n 0) b k = 0 := by
  rw [rdBytes_eq_zero_iff] at h ⊢
  intro i hi
  by_cases hin : a ≤ b + i ∧ b + i < a + n
  · obtain ⟨j, hj⟩ := Nat.exists_eq_add_of_le hin.1
    rw [hj, rdByte_wrBytes_in m a n 0 j hm (by omega), Nat.zero_div]
    rfl
  · rw [rdByte_wrBytes_out m a n 0 _ hm (by omega), h i hi]

theorem Team.wr_cbuf {a : Nat} (h : a / 2 ^ 28 = 2) (t : Team) (n x : Nat) : t.wr a n x = { t with cbuf := wrBytes t.cbuf (a % 2 ^ 28) n x } := by
  rw [Team.wr, h]
  rfl

theorem Team.rd_cbuf {a : Nat} (h : a / 2 ^ 28 = 2) (t : Team) (n : Nat) : t.rd a n = rdBytes t.cbuf (a % 2 ^ 28) n := by
  rw [Team.rd, h]
  rfl

/-- CBUF is in canonical form. -/
def Team.cbufWf (t : Team) : Prop := swf (0 : Byte) t.cbuf = true

theorem Team.cbufWf_wr {a : Nat} (h : a / 2 ^ 28 = 2) {t : Team} (ht : t.cbufWf) (n x : Nat) : (t.wr a n x).cbufWf := by
  rw [Team.wr_cbuf h]
  exact wf_wrBytes _ _ _ _ ht

/-- A value written to CBUF is read back. -/
theorem Team.rd_wr_cbuf {a : Nat} (h : a / 2 ^ 28 = 2) {t : Team} (ht : t.cbufWf) (n x : Nat) : (t.wr a n x).rd a n = x % 256 ^ n := by
  rw [Team.rd_cbuf h, Team.wr_cbuf h]
  exact rdBytes_wrBytes _ _ _ _ ht

/-- The operand buffers are as before a write to CBUF. -/
theorem Team.rd_operand {a b : Nat} (h : a / 2 ^ 28 = 2) (hb : b < 2 ^ 29) (t : Team) (n x k : Nat) : (t.wr a n x).rd b k = t.rd b k := by
  have hregion : b / 2 ^ 28 = 0 ∨ b / 2 ^ 28 = 1 := by omega
  rw [Team.wr_cbuf h, Team.rd, Team.rd]
  rcases hregion with hr | hr <;> rw [hr] <;> rfl

/-- The words of C stand in CBUF. -/
theorem cAt_region {t : List DWord} (hr : tileC t / 2 ^ 28 = 2) (hin : tileC t + tileCBytes t ≤ 3 * 2 ^ 28) {m n : Nat} (hm : m < tileM t) (hn : n < tileN t) :
    cAt t m n / 2 ^ 28 = 2 := by
  have hrow : m * tileCstr t ≤ (tileM t - 1) * tileCstr t := Nat.mul_le_mul_right _ (by omega)
  have hbytes : tileCBytes t = (tileM t - 1) * tileCstr t + 4 * tileN t := rfl
  rw [cAt]
  omega

/-! TZERO (R111) -/

/-- What one step of a fold brings about, and every step keeps, holds after the fold. -/
theorem foldl_reaches {α β : Type} {P Q : β → Prop} {f : β → α → β} {l : List α} {b : β} {x : α} (hx : x ∈ l) (hP : ∀ u, P u → ∀ y ∈ l, P (f u y))
    (hset : ∀ u, P u → Q (f u x)) (hkeep : ∀ u, P u → Q u → ∀ y ∈ l, Q (f u y)) (h : P b) : P (l.foldl f b) ∧ Q (l.foldl f b) := by
  obtain ⟨l1, l2, rfl⟩ := List.append_of_mem hx
  have hmem {y : α} (hy : y ∈ l2) : y ∈ l1 ++ x :: l2 := List.mem_append_right _ (List.mem_cons_of_mem _ hy)
  have h1 : P (l1.foldl f b) := List.foldlRecOn l1 f h fun u hu y hy => hP u hu y (List.mem_append_left _ hy)
  rw [List.foldl_append, List.foldl_cons]
  exact List.foldlRecOn (motive := fun u => P u ∧ Q u) l2 f ⟨hP _ h1 x hx, hset _ h1⟩ fun u hu y hy => ⟨hP u hu.1 y (hmem hy), hkeep u hu.1 hu.2 y (hmem hy)⟩

/-- What the step of one word of a tile brings about, and every step keeps, holds after all of them. -/
theorem eachWord_reaches {P Q : Team → Prop} {t : List DWord} {f : Nat → Nat → Team → Team} {tm : Team} {m n : Nat} (hm : m < tileM t) (hn : n < tileN t)
    (hP : ∀ i j u, i < tileM t → j < tileN t → P u → P (f i j u)) (hset : ∀ u, P u → Q (f m n u))
    (hkeep : ∀ i j u, i < tileM t → j < tileN t → P u → Q u → Q (f i j u)) (h : P tm) : Q (eachWord t f tm) := by
  have hrow (i : Nat) (hi : i < tileM t) (u : Team) (hu : P u) : P ((List.range (tileN t)).foldl (fun y j => f i j y) u) :=
    List.foldlRecOn _ _ hu fun v hv j hj => hP i j v hi (List.mem_range.1 hj) hv
  refine (foldl_reaches (P := P) (List.mem_range.2 hm) (fun u hu i hi => hrow i (List.mem_range.1 hi) u hu) (fun u hu => ?_) (fun u hu hq i hi => ?_) h).2
  · exact (foldl_reaches (P := P) (List.mem_range.2 hn) (fun v hv j hj => hP m j v hm (List.mem_range.1 hj) hv) hset
      (fun v hv hq j hj => hkeep m j v hm (List.mem_range.1 hj) hv hq) hu).2
  · have hboth : P ((List.range (tileN t)).foldl (fun y j => f i j y) u) ∧ Q ((List.range (tileN t)).foldl (fun y j => f i j y) u) :=
      List.foldlRecOn (motive := fun v => P v ∧ Q v) _ _ ⟨hu, hq⟩ fun v hv j hj =>
        ⟨hP i j v (List.mem_range.1 hi) (List.mem_range.1 hj) hv.1, hkeep i j v (List.mem_range.1 hi) (List.mem_range.1 hj) hv.1 hv.2⟩
    exact hboth.2

section
variable {t : List DWord} {tm : Team} (hr : tileC t / 2 ^ 28 = 2) (hin : tileC t + tileCBytes t ≤ 3 * 2 ^ 28) (hwf : tm.cbufWf)
include hr hin hwf

theorem layWords_cbufWf (w : List Nat) : (layWords t w tm).cbufWf :=
  eachWord_ind (P := Team.cbufWf) (fun _ _ _ hm hn hu => Team.cbufWf_wr (cAt_region hr hin hm hn) hu _ _) hwf

/-- Zeros in every word of C read as zeros, though the words may overlap. -/
theorem rd_zeroed {m n : Nat} (hm : m < tileM t) (hn : n < tileN t) : (eachWord t (fun m n u => u.wr (cAt t m n) 4 0) tm).rd (cAt t m n) 4 = 0 := by
  have hc := cAt_region hr hin hm hn
  refine eachWord_reaches (P := Team.cbufWf) (Q := fun u => u.rd (cAt t m n) 4 = 0) hm hn (fun i j u hi hj hu => Team.cbufWf_wr (cAt_region hr hin hi hj) hu _ _)
    (fun u hu => Team.rd_wr_cbuf hc hu 4 0) (fun i j u hi hj hu hq => ?_) hwf
  rw [Team.rd_cbuf hc] at hq ⊢
  rw [Team.wr_cbuf (cAt_region hr hin hi hj)]
  exact rdBytes_wrBytes_zero hu hq

end

theorem cWords_length (t : List DWord) (tm : Team) : (cWords t tm).length = tileM t * tileN t := by
  simp [cWords, cRow, List.length_flatMap]

/-- TZERO clears the accumulators (R111, R120). -/
theorem runPass_tzero {x : Task} {tm : Team} (acc : List Nat) (hk : x.kind = .tzero) (hr : tileC x.t / 2 ^ 28 = 2) (hin : tileC x.t + tileCBytes x.t ≤ 3 * 2 ^ 28)
    (hwf : tm.cbufWf) : (runPass x acc tm).2.length = tileM x.t * tileN x.t ∧ ∀ w ∈ (runPass x acc tm).2, w = 0 := by
  refine ⟨cWords_length _ _, fun w hw => ?_⟩
  simp only [runPass, passOn, hk, cWords, cRow, List.mem_flatMap, List.mem_map, List.mem_range] at hw
  obtain ⟨m, hm, n, hn, rfl⟩ := hw
  exact rd_zeroed hr hin (layWords_cbufWf hr hin hwf acc) hm hn

/-! A tile of one word (R104, R111) -/

section
variable {t : List DWord} (hM : tileM t = 1) (hN : tileN t = 1)
include hM hN

theorem eachWord_one (f : Nat → Nat → Team → Team) (tm : Team) : eachWord t f tm = f 0 0 tm := by
  simp [eachWord, hM, hN]

theorem layWords_one (w : List Nat) (tm : Team) : layWords t w tm = tm.wr (tileC t) 4 (w.getD 0 0) := by
  rw [layWords, eachWord_one hM hN]
  simp [cAt]

theorem cWords_one (tm : Team) : cWords t tm = [tm.rd (tileC t) 4] := by
  simp [cWords, cRow, hM, hN, cAt]

end

/-- The array's accumulator of a tile of one word goes to CBUF (R120). -/
theorem State.rd_writeArray {s : State} {quad : Nat} {a : Accu} {x : Task} (ha : s.array quad = some a) (hx : s.task a.task = some x)
    (hM : tileM x.t = 1) (hN : tileN x.t = 1) (hr : tileC x.t / 2 ^ 28 = 2) (hteam : ∃ tm ∈ s.teams, tm.uid = x.team) (hwf : (s.team x.team).cbufWf) :
    ((s.writeArray quad).team x.team).rd (tileC x.t) 4 = a.words.getD 0 0 % 2 ^ 32 := by
  have hlaid : (layWords x.t a.words (s.team x.team)).rd (tileC x.t) 4 = a.words.getD 0 0 % 2 ^ 32 := by
    rw [layWords_one hM hN]
    exact Team.rd_wr_cbuf hr hwf 4 _
  have huid (tm : Team) : (layWords x.t a.words tm).uid = tm.uid := (Prod.mk.inj (layWords_frame x.t a.words tm)).1
  simp only [State.writeArray, ha, hx]
  rw [State.team_onTeam (s := s.setArray quad none) hteam (fun tm => by split <;> exact huid tm)]
  split <;> exact hlaid

/-- A chunk of int8 products is their sum (R104). -/
theorem chunkInt_map (a b : Nat → Nat) (n : Nat) : Block.chunkInt ((List.range n).map a) ((List.range n).map b) =
    ((List.range n).map (fun k => (BitVec.ofNat 8 (a k)).toInt * (BitVec.ofNat 8 (b k)).toInt)).sum := by
  rw [Block.chunkInt, ← List.sum_eq_foldl, List.zipWith_map, List.zipWith_self]
  rfl

/-- An operand chunk of bytes in the operand buffers, whatever CBUF holds (R108). -/
theorem operandChunk_wr {c fmt a k : Nat} (hr : c / 2 ^ 28 = 2) (h1 : fmt ≠ 1) (h4 : fmt ≠ 4) (hin : a + 32 * k + 32 ≤ 2 ^ 29) (tm : Team) (n x : Nat) :
    operandChunk (tm.wr c n x) fmt a k = (List.range 32).map (fun i => tm.rd (a + 32 * k + i) 1) := by
  refine List.map_congr_left fun i hi => ?_
  have hi32 : i < 32 := List.mem_range.1 hi
  rw [operandElem, if_neg h1, if_neg h4, Team.rd_operand hr (by omega), Nat.add_assoc]

/-- A pass of int8 MMA adds 32 products to the accumulator, and CBUF keeps what it held (R104, R111, R120). -/
theorem runPass_int8 {x : Task} {tm : Team} (acc : List Nat) (hk : x.kind = .mma) (hmode : tileMode x.t = 1) (hM : tileM x.t = 1) (hN : tileN x.t = 1)
    (h1 : tileAfmt x.t ≠ 1) (h4 : tileAfmt x.t ≠ 4) (hA : tileA x.t + 32 * x.pass + 32 ≤ 2 ^ 29) (hB : tileB x.t + 32 * x.pass + 32 ≤ 2 ^ 29)
    (hr : tileC x.t / 2 ^ 28 = 2) (hwf : tm.cbufWf) :
    let a (k : Nat) : Int := (BitVec.ofNat 8 (tm.rd (tileA x.t + 32 * x.pass + k) 1)).toInt
    let b (k : Nat) : Int := (BitVec.ofNat 8 (tm.rd (tileB x.t + 32 * x.pass + k) 1)).toInt
    (runPass x acc tm).1.rd (tileC x.t) 4 = tm.rd (tileC x.t) 4 ∧ ∃ v, (runPass x acc tm).2 = [v] ∧
      BitVec.ofNat 32 v = BitVec.ofNat 32 (acc.getD 0 0) + BitVec.ofInt 32 ((List.range 32).map (fun k => a k * b k)).sum := by
  intro a b
  let v : BitVec 32 := BitVec.ofNat 32 (acc.getD 0 0) + BitVec.ofInt 32 ((List.range 32).map (fun k => a k * b k)).sum
  let laid := tm.wr (tileC x.t) 4 (acc.getD 0 0)
  have hlaid : laid.cbufWf := Team.cbufWf_wr hr hwf _ _
  have hacc : BitVec.ofNat 32 (laid.rd (tileC x.t) 4) = BitVec.ofNat 32 (acc.getD 0 0) := by
    apply BitVec.eq_of_toNat_eq
    rw [Team.rd_wr_cbuf hr hwf, BitVec.toNat_ofNat, BitVec.toNat_ofNat]
    exact Nat.mod_mod _ _
  have hdone : passOn x laid = laid.wr (tileC x.t) 4 v.toNat := by
    have hc : cAt x.t 0 0 = tileC x.t := by simp [cAt]
    simp only [passOn, hk, eachWord_one hM hN, mmaWord, hmode, if_true, Bool.false_eq_true, if_false, Nat.zero_mul, Nat.add_zero, hc, hacc]
    rw [operandChunk_wr hr h1 h4 hA, operandChunk_wr hr h1 h4 hB, chunkInt_map]
  have hrun : runPass x acc tm = ((laid.wr (tileC x.t) 4 v.toNat).wr (tileC x.t) 4 (tm.rd (tileC x.t) 4), [v.toNat]) := by
    have hv : v.toNat % 256 ^ 4 = v.toNat := Nat.mod_eq_of_lt v.isLt
    simp only [runPass, layWords_one hM hN, cWords_one hM hN]
    rw [show tm.wr (tileC x.t) 4 (acc.getD 0 0) = laid from rfl, hdone, Team.rd_wr_cbuf hr hlaid, hv]
    rfl
  rw [hrun]
  refine ⟨?_, _, rfl, (BitVec.ofNat_toNat 32 v).trans (BitVec.setWidth_eq v)⟩
  rw [Team.rd_wr_cbuf hr (Team.cbufWf_wr hr hlaid _ _), Team.rd_cbuf hr]
  exact Nat.mod_eq_of_lt (rdBytes_lt _ _ _)

/-- Settles O45: what TILE posts, who becomes ready, what the arbiter grants and a pass changes, and how a task ends, each by its own rule. -/
theorem matrixEngine : Obligations.MatrixEngine := by
  unfold Obligations.MatrixEngine
  refine ⟨?_, ?_, ?_⟩
  · intro f s hm on d c hc he
    obtain ⟨fn, hkey, hexec⟩ := exec_tile_eq (s := s) hc
    rw [hkey] at he
    rw [hexec]
    refine ⟨tile_of_nil he, fun hon => ⟨fun hill => tile_raises he hon (tileFault_illegal hill), fun i => tile_raises he hon, fun hok => ?_⟩⟩
    obtain ⟨t, x, hnext, hmem, hteams, htasks, hops, hlanes, rfl⟩ := tile_posts he hon hok
    exact ⟨t, _, hnext, hmem, hteams, htasks, hops, hlanes, rfl, rfl, rfl, rfl, rfl, rfl, rfl, rfl, rfl, rfl,
      fun h0 => State.phaseOf_eq h0 _ _, fun h1 => State.phaseOf_eq h1 _ _⟩
  · intro id x s h gone older
    exact ⟨taskReady_becomes h, taskReady_waits h, taskComplete_waits h, taskComplete_unsignalled h, taskComplete_counts h⟩
  · intro quad s
    refine ⟨passGrant_none, fun x hx => ?_, fun a x ha hx => ⟨fun again => passAgain_agrees ha hx, fun again has hne => ?_,
        fun hM hN hr _ => State.rd_writeArray ha hx hM hN hr⟩,
      fun x tm acc hwf hr hin => ⟨fun hk => runPass_tzero acc hk hr hin hwf,
        fun hk hmode hM hN h1 h4 hA hB => runPass_int8 acc hk hmode hM hN h1 h4 hA hB hr hwf⟩⟩
    · obtain ⟨hcan, hbest⟩ := State.arbiter_spec hx
      obtain ⟨harray, hteams, htasks⟩ := s.pass_spec quad x
      exact ⟨hcan, hbest, _, passGrant_some hx, s.pass_mem quad x, harray, hteams, htasks⟩
    · obtain ⟨t, hexec, hmem, hteams, htasks, hfault⟩ := passAgain_differs ha hx has hne
      exact ⟨t, hexec, hmem, hteams, htasks, fun _ => hfault⟩

end Sys2Proof.Machine
end

section
/-! The function store's instructions (R129 to R137, R142, R143, R271 to R275, R300): the handle's checks, the lookups that FCALL and FPROBE send, the inserts of FRET, the hold of
FINVAL, and FSTAT. -/

namespace Sys2Proof.Machine

/-! The handle (R130, R271) -/

section
variable {f : Fields} {s : State} {fn : BitVec 3} {body : BitVec 1024 → State → State} (he : entryStop ⟨0x33, fn, 0⟩ f s = none)
include he

theorem fst_of_nil (hon : s.actives f.gd = []) : fst fn f s body = .next (s.advance f.form.len) := by
  rw [fst, run_go he, if_pos (by simp [State.anyActive_of_nil hon])]

variable (hon : s.actives f.gd ≠ [])
include hon

theorem fst_bad (hd : s.routine s.grp (handleOf f s) = .bad) : fst fn f s body = .next (raise .storedesc s) := by
  rw [fst, run_go he, if_neg (by simp [State.anyActive_of_ne_nil hon]), hd]

theorem fst_awaited (hd : s.routine s.grp (handleOf f s) = .awaited) : fst fn f s body = .next s := by
  rw [fst, run_go he, if_neg (by simp [State.anyActive_of_ne_nil hon]), hd]

theorem fst_ok {d : BitVec 1024} (hd : s.routine s.grp (handleOf f s) = .ok d) : fst fn f s body = .next (body d s) := by
  rw [fst, run_go he, if_neg (by simp [State.anyActive_of_ne_nil hon]), hd]

end

/-- The five instructions of the function store begin with the same checks. -/
theorem exec_fst_eq {f : Fields} {s : State} {c : Instr × Key}
    (hc : c ∈ ([(.fcall f, ⟨0x33, 0, 0⟩), (.fprobe f, ⟨0x33, 1, 0⟩), (.fret f, ⟨0x33, 2, 0⟩), (.finval f, ⟨0x33, 3, 0⟩), (.fstat f, ⟨0x33, 4, 0⟩)] : List (Instr × Key))) :
    ∃ fn body, c.2 = ⟨0x33, fn, 0⟩ ∧ exec c.1 s = fst fn f s body := by
  simp only [List.mem_cons, List.not_mem_nil, or_false] at hc
  rcases hc with rfl | rfl | rfl | rfl | rfl
  · exact ⟨0, _, rfl, (rfl : execFcall f s = _)⟩
  · exact ⟨1, _, rfl, (rfl : execFprobe f s = _)⟩
  · exact ⟨2, _, rfl, (rfl : execFret f s = _)⟩
  · exact ⟨3, _, rfl, (rfl : execFinval f s = _)⟩
  · exact ⟨4, _, rfl, (rfl : execFstat f s = _)⟩

/-- The predicate that FPROBE writes. -/
def probeOf (f : Fields) : BitVec 4 :=
  match f.d with
  | .prd p => p
  | _ => 0

/-- FCALL and FPROBE are one operation, with a predicate to write or none (R272). -/
theorem exec_lookups_eq {f : Fields} {s : State} {c : Instr × Key × Option (BitVec 4)}
    (hc : c ∈ ([(.fcall f, ⟨0x33, 0, 0⟩, none), (.fprobe f, ⟨0x33, 1, 0⟩, some (probeOf f))] : List (Instr × Key × Option (BitVec 4)))) :
    ∃ fn, c.2.1 = ⟨0x33, fn, 0⟩ ∧ exec c.1 s = fst fn f s (lookups f c.2.2) := by
  simp only [List.mem_cons, List.not_mem_nil, or_false] at hc
  rcases hc with rfl | rfl
  · exact ⟨0, rfl, (rfl : execFcall f s = _)⟩
  · exact ⟨1, rfl, (rfl : execFprobe f s = _)⟩

/-! The lanes of a bundle one after the other -/

/-- Each listed lane changes by `k`, in the order of the list. -/
def eachLane (k : Nat × Lane → Lane → Lane) (ps : List (Nat × Lane)) (ls : List Lane) : List Lane :=
  ps.foldl (fun ls p => mapLanes (fun i x => if i = p.1 then k p x else x) 0 ls) ls

theorem eachLane_eq_mapLanes (k : Nat × Lane → Lane → Lane) (ps : List (Nat × Lane)) (ls : List Lane) :
    eachLane k ps ls = mapLanes (fun j x => (ps.filter (fun p => p.1 == j)).foldl (fun x p => k p x) x) 0 ls := by
  induction ps generalizing ls with
  | nil => exact (mapLanes_same fun _ _ _ => rfl).symm
  | cons p ps ih =>
    rw [eachLane, List.foldl_cons, ← eachLane, ih, mapLanes_mapLanes]
    refine mapLanes_congr fun j x _ => ?_
    rw [Nat.zero_add, List.filter_cons]
    by_cases hj : p.1 = j
    · simp [hj]
    · simp [hj, Ne.symm hj]

/-- A guard-true lane is listed once, and no other lane is. -/
theorem State.actives_filter_fst {s : State} {gd : Guard} {l : Nat} {x : Lane} (hx : s.grp.lanes[l]? = some x) :
    (s.actives gd).filter (fun p => p.1 == l) = if s.active gd l x = true then [(l, x)] else [] := by
  have hmem (p : Nat × Lane) : p ∈ (s.actives gd).filter (fun p => p.1 == l) ↔ s.active gd l x = true ∧ p = (l, x) := by
    obtain ⟨j, y⟩ := p
    simp only [List.mem_filter, State.mem_actives, beq_iff_eq, Prod.mk.injEq]
    constructor
    · rintro ⟨⟨hy, ha⟩, rfl⟩
      obtain rfl : x = y := by simpa [hx] using hy
      exact ⟨ha, rfl, rfl⟩
    · rintro ⟨ha, rfl, rfl⟩
      exact ⟨⟨hx, ha⟩, rfl⟩
  split
  · next ha =>
    have hnd : ((s.actives gd).filter (fun p => p.1 == l)).Nodup := (s.nodup_actives gd).of_map.filter _
    exact List.perm_singleton.1 ((List.perm_ext_iff_of_nodup hnd (List.nodup_singleton _)).2 fun p => by simp [hmem, ha])
  · next ha => exact List.eq_nil_iff_forall_not_mem.2 fun p hp => ha ((hmem p).1 hp).1

/-- A change of each guard-true lane after the others have moved past is a split of the bundle. -/
theorem eachLane_actives {s : State} {f : Fields} {k : Nat × Lane → Lane → Lane} :
    eachLane k (s.actives f.gd) (s.passFalse f).grp.lanes = moved s f (fun l x => k (l, x) x) := by
  rw [eachLane_eq_mapLanes]
  refine moved_eq (fun l x hx ha => ?_) (fun l x y hx ha => ?_)
  · rw [State.actives_filter_fst hx, if_pos ha, List.foldl_cons, List.foldl_nil]
  · rw [State.actives_filter_fst hx, if_neg (by simp [ha]), List.foldl_nil]

/-! FCALL and FPROBE (R134, R135, R272, R300) -/

/-- What a bundle's lookups take of the issuing group, which none of them changes: its number, its die, its context, and the core cycle. -/
structure Caller where
  uid : Nat
  die : Nat
  asid : Nat
  cycle : Nat

def State.caller (s : State) : Caller := { uid := s.grp.uid, die := s.dieOf s.grp, asid := s.asidOf s.grp, cycle := s.cycle }

theorem State.caller_onLane (s : State) (u l : Nat) (k : Lane → Lane) : (s.onLane u l k).caller = s.caller := by
  unfold State.caller State.onLane
  rw [State.onGroup_grp]
  split <;> rfl

/-- What a lookup does to its own lane: the bundle's stall, or a miss at once. -/
def askLane (d : BitVec 1024) (bundle : Nat) (probe : Option (BitVec 4)) (len now : Nat) (p : Nat × Lane) (y : Lane) : Lane :=
  match cellsOf d (argsOf p.2 0 (rdN d)) with
  | some _ => { y with hold := .stall bundle }
  | none => missLane now probe (p.2.pc + BitVec.ofNat 64 len) (rdEntry d) y

/-- The lookup of a lane whose argument has the cells `cs`. -/
def State.newLookup (s : State) (d : BitVec 1024) (handle bundle : Nat) (probe : Option (BitVec 4)) (len : Nat) (p : Nat × Lane) (cs : List Int) : FLookup :=
  let h := cellKey handle (s.asidOf s.grp) cs
  { id := s.nextId, bundle := bundle, gid := s.grp.uid, lane := p.1, die := s.dieOf s.grp, slice := keySlice h, set := keySet h, key := h,
    handle := handle, asid := s.asidOf s.grp, desc := d, x := argsOf p.2 0 (rdN d), probe := probe, next := p.2.pc + BitVec.ofNat 64 len, entry := rdEntry d, ans := none }

/-- What a lookup carries of its bundle (R134, R135): the caller, the routine, and the place that its argument's key names. -/
def FLookup.carries (l : FLookup) (who : Caller) (d : BitVec 1024) (handle : Nat) (probe : Option (BitVec 4)) : Prop :=
  l.gid = who.uid ∧ l.die = who.die ∧ l.handle = handle ∧ l.asid = who.asid ∧ l.desc = d ∧ l.entry = rdEntry d ∧ l.probe = probe ∧
    ∀ cs, cellsOf d l.x = some cs → l.key = cellKey handle who.asid cs ∧ l.slice = (l.key.extractLsb' 60 4).toNat ∧ l.set = (l.key.extractLsb' 52 8).toNat

theorem keySet_eq (h : DWord) : keySet h = (h.extractLsb' 52 8).toNat := Nat.mod_eq_of_lt (h.extractLsb' 52 8).isLt

section
variable {d : BitVec 1024} {handle bundle : Nat} {probe : Option (BitVec 4)} {len : Nat} {p : Nat × Lane} {s : State}

theorem State.newLookup_carries {cs : List Int} (hcs : cellsOf d (argsOf p.2 0 (rdN d)) = some cs) :
    (s.newLookup d handle bundle probe len p cs).carries s.caller d handle probe := by
  refine ⟨rfl, rfl, rfl, rfl, rfl, rfl, rfl, fun cs' hcs' => ?_⟩
  obtain rfl : cs = cs' := Option.some.inj (hcs.symm.trans hcs')
  exact ⟨rfl, rfl, keySet_eq _⟩

/-- One lane's lookup: the lane waits or misses at once, and a lookup is sent when its argument has a key. -/
theorem lookupLane_spec : ∃ s1 : State, lookupLane d handle bundle probe len s p = s1.onLane s.grp.uid p.1 (askLane d bundle probe len s.cycle p) ∧ s1.grp = s.grp ∧
    s1.caller = s.caller ∧ s1.frecs = s.frecs ∧ s1.lookups = s.lookups ++ ((cellsOf d (argsOf p.2 0 (rdN d))).map (s.newLookup d handle bundle probe len p)).toList := by
  unfold askLane
  simp only [lookupLane]
  cases cellsOf d (argsOf p.2 0 (rdN d)) with
  | none => exact ⟨s.fbump (s.dieOf s.grp) (s.asidOf s.grp) handle 1, rfl, rfl, rfl, rfl, (List.append_nil _).symm⟩
  | some cs => exact ⟨{ s with lookups := s.lookups ++ [s.newLookup d handle bundle probe len p cs], nextId := s.nextId + 1 }, rfl, rfl, rfl, rfl, rfl⟩

theorem State.onLane_own_lanes {s : State} {u : Nat} (hu : s.grp.uid = u) (l : Nat) (k : Lane → Lane) :
    (s.onLane u l k).grp.lanes = mapLanes (fun i x => if i = l then k x else x) 0 s.grp.lanes := by
  rw [State.onLane, State.onGroup_grp, if_pos hu]

/-- The lookups of a bundle, lane by lane: each lane waits or misses at once, and a lookup is sent for each argument that has a key. -/
theorem foldl_lookupLane (ps : List (Nat × Lane)) {who : Caller} (hwho : s.caller = who) :
    let t := ps.foldl (lookupLane d handle bundle probe len) s
    t.frecs = s.frecs ∧ t.grp.lanes = eachLane (askLane d bundle probe len who.cycle) ps s.grp.lanes ∧ ∃ q, t.lookups = s.lookups ++ q ∧
      q.map (fun l => (l.lane, l.x, l.bundle, l.ans)) = (ps.filter (fun p => (cellsOf d (argsOf p.2 0 (rdN d))).isSome)).map (fun p => (p.1, argsOf p.2 0 (rdN d), bundle, none)) ∧
      ∀ l ∈ q, l.carries who d handle probe := by
  subst hwho
  induction ps generalizing s with
  | nil => exact ⟨rfl, rfl, [], (List.append_nil _).symm, rfl, fun _ h => absurd h List.not_mem_nil⟩
  | cons p ps ih =>
    obtain ⟨s1, hstep, hgrp, hsame, hfrecs1, hlookups1⟩ := lookupLane_spec (d := d) (handle := handle) (bundle := bundle) (probe := probe) (len := len) (p := p) (s := s)
    obtain ⟨hfrecs, hlanes, q, hq, hmap, hcarry⟩ := ih (s := lookupLane d handle bundle probe len s p)
    rw [List.foldl_cons]
    rw [hstep] at hfrecs hlanes hq hcarry ⊢
    rw [State.onLane_own_lanes (by rw [hgrp]), hgrp, State.caller_onLane, hsame] at hlanes
    rw [State.onLane_lookups, hlookups1, List.append_assoc] at hq
    rw [State.caller_onLane, hsame] at hcarry
    refine ⟨hfrecs.trans hfrecs1, hlanes, _, hq, ?_, fun l hl => ?_⟩
    · rw [List.map_append, hmap, List.filter_cons]
      cases cellsOf d (argsOf p.2 0 (rdN d)) <;> rfl
    · refine (List.mem_append.1 hl).elim (fun hnew => ?_) (hcarry l)
      obtain ⟨cs, hcs, rfl⟩ := Option.map_eq_some_iff.1 (Option.mem_toList.1 hnew)
      exact State.newLookup_carries hcs

end

section
variable {f : Fields} {s : State} {fn : BitVec 3} {probe : Option (BitVec 4)} {d : BitVec 1024} (he : entryStop ⟨0x33, fn, 0⟩ f s = none) (hon : s.actives f.gd ≠ [])
  (hd : s.routine s.grp (handleOf f s) = .ok d)
include he hon hd

theorem lookups_beyond (hv : s.grp.vcount < max (rdN d) (8 + rdM d)) : fst fn f s (lookups f probe) = .next (raise .regrange s) := by
  rw [fst_ok he hon hd, lookups, if_pos hv]

/-- FCALL and FPROBE whose registers exist and hold no mark. -/
theorem lookups_spec (hv : max (rdN d) (8 + rdM d) ≤ s.grp.vcount) (hmark : markedFault f.gd [(0, rdN d), (8, rdM d)] s = none) :
    ∃ t, fst fn f s (lookups f probe) = .next t ∧ t.mem = s.mem ∧ t.frecs = s.frecs ∧
      t.grp.lanes = moved s f (fun l y => askLane d s.nextId probe f.form.len s.cycle (l, y) y) ∧
      ∃ q, t.lookups = s.lookups ++ q ∧ q.map (fun l => (l.lane, l.x, l.bundle, l.ans)) =
        ((s.actives f.gd).filter (fun p => (cellsOf d (argsOf p.2 0 (rdN d))).isSome)).map (fun p => (p.1, argsOf p.2 0 (rdN d), s.nextId, none)) ∧
        ∀ l ∈ q, l.carries s.caller d (handleOf f s) probe := by
  have hexec : fst fn f s (lookups f probe) = .next ((s.actives f.gd).foldl (lookupLane d (handleOf f s) s.nextId probe f.form.len)
      { s.passFalse f with nextId := s.nextId + 1 }) := by
    rw [fst_ok he hon hd, lookups, if_neg (by omega)]
    simp only [hmark]
  obtain ⟨hfrecs, hlanes, q, hq, hmap, hcarry⟩ := foldl_lookupLane (d := d) (handle := handleOf f s) (bundle := s.nextId) (probe := probe) (len := f.form.len)
    (s := { s.passFalse f with nextId := s.nextId + 1 }) (who := s.caller) (s.actives f.gd) rfl
  exact ⟨_, hexec, fst_keepsMem (fun d => lookups_mem f probe d s) _ hexec, hfrecs, hlanes.trans eachLane_actives, q, hq, hmap, hcarry⟩

end

/-! FRET (R137, R273) -/

theorem State.scbNote_store (s : State) (id : Nat) (op : Sent) (md : BitVec 8) (addr : DWord) (data : List QWord) :
    (s.scbNote id op md addr data).frecs = s.frecs ∧ (s.scbNote id op md addr data).inserts = s.inserts := by
  unfold State.scbNote State.scbAdd
  split <;> exact ⟨rfl, rfl⟩

/-- A lane's argument has a key and its results are finite, so that an insert is sent (R137). -/
def sendsInsert (d : BitVec 1024) (x : Lane) : Bool :=
  (cellsOf d (argsOf x 0 (rdN d))).isSome && (argsOf x 8 (rdM d)).all finite32 && (argsOf x 16 (rdN d * rdM d)).all finite32

/-- What an insert takes from its lane. -/
def insertOf (d : BitVec 1024) (p : Nat × Lane) : Nat × BitVec 1024 × List Word × List Word × List Word :=
  (p.1, d, argsOf p.2 0 (rdN d), argsOf p.2 8 (rdM d), argsOf p.2 16 (rdN d * rdM d))

/-- The same, read off an insert. -/
def FInsert.taken (i : FInsert) : Nat × BitVec 1024 × List Word × List Word × List Word := (i.lane, i.desc, i.x, i.f, i.j)

section
variable {d : BitVec 1024} {handle : Nat} {s : State}

/-- One lane's insert is sent, or a rejected one is counted. -/
theorem insertLane_spec (p : Nat × Lane) : (insertLane d handle s p).frecs = s.frecs ∧ (insertLane d handle s p).grp.lanes = s.grp.lanes ∧
    ∃ q, (insertLane d handle s p).inserts = s.inserts ++ q ∧
      q.map FInsert.taken = ([p].filter (fun p => sendsInsert d p.2)).map (insertOf d) := by
  have hnone (h : sendsInsert d p.2 = false) : ([] : List FInsert).map FInsert.taken = ([p].filter (fun p => sendsInsert d p.2)).map (insertOf d) := by
    rw [List.filter_singleton, h]
    rfl
  unfold insertLane
  dsimp only
  split
  · next cs hcs =>
    split
    · next hfin =>
      obtain ⟨hf, hj⟩ := hfin
      have hsends : sendsInsert d p.2 = true := by simp [sendsInsert, hcs, hf, hj]
      refine ⟨(State.scbNote_store _ _ _ _ _ _).1, ?_, [_], (State.scbNote_store _ _ _ _ _ _).2, ?_⟩
      · obtain ⟨l, hl⟩ := State.scbNote_grp _ _ _ _ _ _
        rw [hl]
      · rw [List.filter_singleton, hsends]
        rfl
    · next hfin =>
      exact ⟨rfl, rfl, [], (List.append_nil _).symm, hnone (by simpa [sendsInsert, hcs] using hfin)⟩
  · next hcs =>
    exact ⟨rfl, rfl, [], (List.append_nil _).symm, hnone (by simp [sendsInsert, hcs])⟩

theorem foldl_insertLane (ps : List (Nat × Lane)) : let t := ps.foldl (insertLane d handle) s
    t.frecs = s.frecs ∧ t.grp.lanes = s.grp.lanes ∧ ∃ q, t.inserts = s.inserts ++ q ∧
      q.map FInsert.taken = (ps.filter (fun p => sendsInsert d p.2)).map (insertOf d) := by
  induction ps generalizing s with
  | nil => exact ⟨rfl, rfl, [], (List.append_nil _).symm, rfl⟩
  | cons p ps ih =>
    obtain ⟨hfrecs1, hlanes1, q1, hq1, hmap1⟩ := insertLane_spec (d := d) (handle := handle) (s := s) p
    obtain ⟨hfrecs, hlanes, q, hq, hmap⟩ := ih (s := insertLane d handle s p)
    refine ⟨hfrecs.trans hfrecs1, hlanes.trans hlanes1, q1 ++ q, ?_, ?_⟩
    · rw [List.foldl_cons, hq, hq1, List.append_assoc]
    · rw [List.map_append, hmap1, hmap, ← List.map_append, ← List.filter_append, List.singleton_append]

end

theorem bitsOf_eq_zero {n : Nat} {x : BitVec n} {lo w : Nat} : bitsOf x lo w = 0 ↔ x.extractLsb' lo w = 0 :=
  ⟨fun h => BitVec.eq_of_toNat_eq (h.trans (by simp)), fun h => by simp [bitsOf, h]⟩

section
variable {f : Fields} {s : State} {d : BitVec 1024} (he : entryStop ⟨0x33, 2, 0⟩ f s = none) (hon : s.actives f.gd ≠ [])
  (hd : s.routine s.grp (handleOf f s) = .ok d) (hmark : markedFault f.gd [(0, rdN d), (8, rdM d)] s = none)
include he hon hd hmark

/-- A misaligned link is the fault of the lowest lane that has one (R273). -/
theorem fret_misaligned {l r : List (Nat × Lane)} {p : Nat × Lane} (hp : s.actives f.gd = l ++ p :: r)
    (hl : ∀ q ∈ l, (q.2.pair 62).extractLsb' 0 2 = 0) (hne : (p.2.pair 62).extractLsb' 0 2 ≠ 0) :
    exec (.fret f) s = .next (raiseWith { cause := .align, addr := p.2.pair 62 } s) := by
  have hfind : (s.actives f.gd).find? (fun p => bitsOf (p.2.pair 62) 0 2 ≠ 0) = some p :=
    List.find?_eq_some_iff_append.2 ⟨by simpa [bitsOf_eq_zero] using hne, l, r, hp, fun q hq => by simpa [bitsOf_eq_zero] using hl q hq⟩
  change execFret f s = _
  rw [execFret, fst_ok he hon hd]
  simp only [hmark, hfind]

/-- FRET sends the inserts, and its guard-true lanes go to their links (R137, R273). -/
theorem fret_spec (hlink : ∀ p ∈ s.actives f.gd, (p.2.pair 62).extractLsb' 0 2 = 0) :
    ∃ t, exec (.fret f) s = .next t ∧ t.mem = s.mem ∧ t.frecs = s.frecs ∧ t.grp.lanes = moved s f (fun _ y => { y with pc := y.pair 62 }) ∧
      ∃ q, t.inserts = s.inserts ++ q ∧ q.map FInsert.taken = ((s.actives f.gd).filter (fun p => sendsInsert d p.2)).map (insertOf d) := by
  have hfind : (s.actives f.gd).find? (fun p => bitsOf (p.2.pair 62) 0 2 ≠ 0) = none :=
    List.find?_eq_none.2 fun p hp => by simpa [bitsOf_eq_zero] using hlink p hp
  let u := (s.actives f.gd).foldl (insertLane d (handleOf f s)) s
  have hexec : exec (.fret f) s = .next (u.onLanes (fun l x => if s.inBundle l then
      if guardOf f.gd x then { x with pc := x.pair 62 } else { x with pc := x.pc + BitVec.ofNat 64 f.form.len } else x)) := by
    change execFret f s = _
    rw [execFret, fst_ok he hon hd]
    simp only [hmark, hfind]
    rfl
  obtain ⟨hfrecs, hlanes, q, hq, hmap⟩ := foldl_insertLane (d := d) (handle := handleOf f s) (s := s) (s.actives f.gd)
  refine ⟨_, hexec, execFret_keepsMem f s _ hexec, hfrecs, ?_, q, hq, hmap⟩
  rw [State.onLanes_grp_lanes, hlanes, moved]
  refine mapLanes_congr fun j x _ => ?_
  cases s.inBundle (0 + j) <;> cases guardOf f.gd x <;> rfl

end

/-! FINVAL and FSTAT (R142, R143, R268, R274, R275) -/

/-- A bundle held by a waiter: its guard-true lanes stall under the waiter's number (R268). -/
theorem State.holdFor_lanes (s : State) (f : Fields) (k : WaitKind) (owed : List Nat) :
    (s.holdFor f k owed).grp.lanes = moved s f (fun _ y => { y with hold := .stall s.nextId }) := by
  refine moved_eq (k := fun l x => if (s.activeMask f.gd).getLsbD l then { x with hold := .stall s.nextId } else x) (fun l x hx ha => ?_) (fun l x y hx ha => ?_)
  · rw [State.getLsbD_activeMask hx, if_pos ha]
  · rw [State.getLsbD_activeMask hx, if_neg (by simp [ha])]

section
variable {f : Fields} {s : State} {d : BitVec 1024} (hon : s.actives f.gd ≠ []) (hd : s.routine s.grp (handleOf f s) = .ok d)
include hon hd

theorem finval_holds (he : entryStop ⟨0x33, 3, 0⟩ f s = none) : ∃ t w, exec (.finval f) s = .next t ∧ t.mem = s.mem ∧ t.waiters = s.waiters ++ [w] ∧
    w.kind = .finval (s.asidOf s.grp) (handleOf f s) ∧ w.owed = s.liveDies ∧ t.grp.lanes = moved s f (fun _ y => { y with hold := .stall w.id }) := by
  have hexec : exec (.finval f) s = .next (s.holdFor f (.finval (s.asidOf s.grp) (handleOf f s)) s.liveDies) := by
    change execFinval f s = _
    rw [execFinval, fst_ok he hon hd]
  exact ⟨_, _, hexec, rfl, rfl, rfl, rfl, s.holdFor_lanes f _ _⟩

theorem exec_fstat_eq (he : entryStop ⟨0x33, 4, 0⟩ f s = none) : exec (.fstat f) s = .next (if 7 < numOf f.a % 64 then raise .illegal s
    else (s.setScl (sclNum f.d) ((s.fcounter (s.dieOf s.grp) (s.asidOf s.grp) (handleOf f s) (numOf f.a % 64)).setWidth 64)).advance f.form.len) := by
  change execFstat f s = _
  rw [execFstat, fst_ok he hon hd]

end

end Sys2Proof.Machine
end

section
/-! The steps of the store's slices (R131 to R142, R272, R274): the record that a lookup hits, how the lanes of an answered lookup go on, what an insert stores, the steps of an
invalidation, and `Obligations.FunctionStore`. -/

namespace Sys2Proof.Machine

/-! Lists of records -/

theorem length_updFirst {α : Type} (p : α → Bool) (k : α → α) (l : List α) : (updFirst p k l).length = l.length := by
  induction l with
  | nil => rfl
  | cons x xs ih =>
    rw [updFirst]
    split
    · rfl
    · rw [List.length_cons, ih, List.length_cons]

theorem mem_updFirst_self {α : Type} [DecidableEq α] {q : α} {l : List α} (h : q ∈ l) (k : α → α) : k q ∈ updFirst (fun r => r == q) k l := by
  induction l with
  | nil => exact absurd h List.not_mem_nil
  | cons x xs ih =>
    rw [updFirst]
    by_cases hx : x = q
    · rw [if_pos (by simp [hx]), hx]
      exact List.mem_cons_self
    · rw [if_neg (by simp [hx])]
      exact List.mem_cons_of_mem _ (ih (List.mem_of_ne_of_mem (Ne.symm hx) h))

/-- A record that is found is changed under its number. -/
theorem mem_updBy_of_find? {α : Type} {p : α → Bool} {l : List α} {x : α} (h : l.find? p = some x) (k : α → α) : k x ∈ updBy p k l :=
  List.mem_map.2 ⟨x, List.mem_of_find?_eq_some h, if_pos (List.find?_some h)⟩

theorem State.setRecs_filter (s : State) (die slice set : Nat) (p : FRec → Bool) :
    (s.setRecs die slice set).filter p = s.frecs.filter (fun q => q.inSet die slice set && p q) := by
  rw [State.setRecs, List.filter_filter]
  exact List.filter_congr fun q _ => Bool.and_comm _ _

/-! STORE_LOOKUP (R135, R136) -/

theorem mem_newestFirst {now : BitVec 32} {l : List FRec} {q : FRec} : q ∈ newestFirst now l ↔ q ∈ l := List.mem_mergeSort

/-- The first record of the order that satisfies `p` is the newest that does. -/
theorem newest_of_find? {now : BitVec 32} {l : List FRec} {p : FRec → Bool} {q : FRec} (h : (newestFirst now l).find? p = some q) :
    q ∈ l ∧ p q = true ∧ ∀ r ∈ l, p r = true → ageOf now q.ins ≤ ageOf now r.ins := by
  refine ⟨mem_newestFirst.1 (List.mem_of_find?_eq_some h), List.find?_some h, fun r hr hpr => ?_⟩
  obtain ⟨-, before, after, hsplit, hbefore⟩ := List.find?_eq_some_iff_append.1 h
  have hsorted : (newestFirst now l).Pairwise (fun a b => decide (ageOf now a.ins ≤ ageOf now b.ins) = true) :=
    List.pairwise_mergeSort (fun a b c hab hbc => by simp only [decide_eq_true_eq] at *; omega) (fun a b => by simp only [Bool.or_eq_true, decide_eq_true_eq]; omega) l
  have hr' : r ∈ before ++ q :: after := hsplit ▸ mem_newestFirst.2 hr
  rw [hsplit, List.pairwise_append, List.pairwise_cons] at hsorted
  obtain ⟨-, ⟨hafter, -⟩, -⟩ := hsorted
  rcases List.mem_append.1 hr' with hb | hq
  · exact absurd hpr (by simpa using hbefore r hb)
  · rcases List.mem_cons.1 hq with rfl | ha
    · exact Nat.le_refl _
    · exact of_decide_eq_true (hafter r ha)

/-- With no uncorrectable error nothing is dropped, and the first record that contains the argument hits. -/
theorem examine_clean (x : List Word) (l : List FRec) : examine x (fun _ => false) l = ([], l.find? (fun q => q.contains x)) := by
  induction l with
  | nil => rfl
  | cons q qs ih =>
    rw [examine, if_neg Bool.false_ne_true, List.find?_cons]
    cases q.contains x with
    | true => rfl
    | false => exact ih

/-- The records that a lookup examines, newest first (R134, R135). -/
def State.examined (s : State) (l : FLookup) : List FRec :=
  newestFirst (s.eventCount l.die l.slice) ((s.setRecs l.die l.slice l.set).filter (fun q => q.matches_ l.desc l.handle l.asid l.key l.x))

section
variable {id : Nat} {s : State} {l : FLookup} (h : s.lookups.find? (fun y => y.id == id) = some l) (hans : l.ans = none)
  (hturn : s.sliceTurn l.die (((s.group l.gid).map (fun g => s.unitOf g)).getD 0) l.gid l.lane l.slice id = true)
include h hans hturn

/-- A lookup is answered by the first examined record that contains its argument, or as a miss. -/
theorem storeLookup_answers : ∃ t, exec (.storeLookup id []) s = .next t ∧ t.mem = s.mem ∧ t.frecs.length = s.frecs.length ∧
    ∃ y ∈ t.lookups, y.id = id ∧ y.lane = l.lane ∧ y.ans = some (((s.examined l).find? (fun q => q.contains l.x)).map (fun q => q.answer l.x)) := by
  have hid : l.id = id := by simpa using List.find?_some h
  have hgo : ¬(l.ans.isSome = true ∨ (!s.sliceTurn l.die (((s.group l.gid).map (fun g => s.unitOf g)).getD 0) l.gid l.lane l.slice id) = true) := by
    simp [hans, hturn]
  cases hfind : (s.examined l).find? (fun q => q.contains l.x) with
  | none =>
    have hexec : exec (.storeLookup id []) s = .next { (s.fbump l.die l.asid l.handle 1) with
        lookups := updBy (fun y => y.id == id) (fun y => { y with ans := some none }) s.lookups } := by
      change execStoreLookup id [] s = _
      simp only [execStoreLookup, h]
      rw [if_neg hgo]
      simp only [List.any_nil, examine_clean]
      rw [show List.find? _ (newestFirst _ _) = none from hfind]
      rfl
    exact ⟨_, hexec, execStoreLookup_keepsMem id [] s _ hexec, rfl, _, mem_updBy_of_find? h _, hid, rfl, rfl⟩
  | some q =>
    have hexec : exec (.storeLookup id []) s = .next
        { ((({ s with frecs := updFirst (fun r => r == q) (fun r => { r with hit := s.eventCount l.die l.slice }) s.frecs } : State).tickSlice l.die l.slice).fbump
            l.die l.asid l.handle 0) with lookups := updBy (fun y => y.id == id) (fun y => { y with ans := some (some (q.answer l.x)) }) s.lookups } := by
      change execStoreLookup id [] s = _
      simp only [execStoreLookup, h]
      rw [if_neg hgo]
      simp only [List.any_nil, examine_clean]
      rw [show List.find? _ (newestFirst _ _) = some q from hfind]
      rfl
    exact ⟨_, hexec, execStoreLookup_keepsMem id [] s _ hexec, length_updFirst _ _ _, _, mem_updBy_of_find? h _, hid, rfl, rfl⟩

end

/-- A record answers a lookup: it stands in the set that the key names, matches the argument and contains it (R134, R135). -/
def State.answeredBy (s : State) (l : FLookup) (q : FRec) : Prop :=
  q ∈ s.frecs ∧ q.inSet l.die l.slice l.set = true ∧ q.matches_ l.desc l.handle l.asid l.key l.x = true ∧ q.contains l.x = true

section
variable {s : State} {l : FLookup} {q : FRec}

theorem State.answeredBy_iff : s.answeredBy l q ↔ q ∈ s.examined l ∧ q.contains l.x = true := by
  rw [State.examined, mem_newestFirst, State.setRecs_filter, List.mem_filter, Bool.and_eq_true, and_assoc, and_assoc]
  exact Iff.rfl

theorem State.find?_examined_eq_none (h : ∀ q, ¬s.answeredBy l q) : (s.examined l).find? (fun q => q.contains l.x) = none :=
  List.find?_eq_none.2 fun q hq hc => h q (State.answeredBy_iff.2 ⟨hq, hc⟩)

/-- The hit of a lookup is the newest of the records that answer it (R135). -/
theorem State.find?_examined_eq_some (h : ∃ q, s.answeredBy l q) : ∃ q, (s.examined l).find? (fun q => q.contains l.x) = some q ∧ s.answeredBy l q ∧
    ∀ r, s.answeredBy l r → ageOf (s.eventCount l.die l.slice) q.ins ≤ ageOf (s.eventCount l.die l.slice) r.ins := by
  obtain ⟨q0, hq0⟩ := h
  obtain ⟨q, hq⟩ := Option.isSome_iff_exists.1 (List.find?_isSome (p := fun q : FRec => q.contains l.x).2 ⟨q0, State.answeredBy_iff.1 hq0⟩)
  obtain ⟨hmem, hc, hnewest⟩ := newest_of_find? hq
  refine ⟨q, hq, State.answeredBy_iff.2 ⟨mem_newestFirst.2 hmem, hc⟩, fun r hr => ?_⟩
  obtain ⟨hr, hrc⟩ := State.answeredBy_iff.1 hr
  exact hnewest r (mem_newestFirst.1 hr) hrc

end

/-! LOOKUP_ANSWER (R135, R272, R300) -/

theorem Lane.setPred_preds_congr {x y : Lane} (h : x.preds = y.preds) (n : Nat) (b : Bool) : (x.setPred n b).preds = (y.setPred n b).preds := by
  unfold Lane.setPred
  split
  · exact h
  · simp only [h]

theorem foldl_setReg_preds (l : List (Nat × Word)) (r : Nat) (x : Lane) : (l.foldl (fun (u : Lane) p => u.setReg (r + p.1) p.2) x).preds = x.preds := by
  induction l generalizing x with
  | nil => rfl
  | cons p l ih => rw [List.foldl_cons, ih, Lane.setReg_preds]

section
variable {now : Nat} {probe : Option (BitVec 4)} {next entry : DWord} {x : Lane}

/-- A lane that leaves by a hit or a miss issues from the next core cycle on (R135). -/
theorem hitLane_free (y : List Word) : (hitLane now probe next y x).hold = .none ∧ (hitLane now probe next y x).free = now + 1 ∧
    (hitLane now probe next y x).pc = next := by
  unfold hitLane
  cases probe <;> exact ⟨rfl, rfl, rfl⟩

theorem hitLane_v (y : List Word) :
    (hitLane now probe next y x).v = (((List.range y.length).zip y).foldl (fun (u : Lane) p => u.setReg (8 + p.1) p.2) x).v := by
  unfold hitLane
  cases probe with
  | none => rfl
  | some p => exact Lane.setPred_v _ _ _

theorem hitLane_preds (p : BitVec 4) (y : List Word) : (hitLane now (some p) next y x).preds = (x.setPred p.toNat true).preds :=
  Lane.setPred_preds_congr (foldl_setReg_preds _ 8 x) _ _

theorem missLane_free : (missLane now probe next entry x).hold = .none ∧ (missLane now probe next entry x).free = now + 1 := by
  unfold missLane
  cases probe <;> exact ⟨rfl, rfl⟩

end

/-- What the answer of a lookup makes of its lane, while the lane still waits for it. -/
def FLookup.release (l : FLookup) (now : Nat) (x : Lane) : Lane :=
  if x.hold = .stall l.bundle then
    match l.ans with
    | some (some r) => hitLane now l.probe l.next r x
    | _ => missLane now l.probe l.next l.entry x
  else x

/-- A lane that waits for an answer takes the results of a hit and goes on; after a miss it enters the routine with its link, or goes on with the predicate false (R272). -/
theorem FLookup.release_spec {l : FLookup} {x : Lane} {a : Option (List Word)} (now : Nat) (hhold : x.hold = .stall l.bundle) (hans : l.ans = some a) :
    let z := l.release now x
    z.hold = .none ∧ z.free = now + 1 ∧ (a = none → l.probe = none → z.pc = l.entry ∧ z.v = (x.setPair 62 l.next).v) ∧
      (∀ p, a = none → l.probe = some p → z.pc = l.next ∧ z.v = x.v ∧ z.preds = (x.setPred p.toNat false).preds) ∧
      (∀ r, a = some r → z.pc = l.next ∧ z.v = (((List.range r.length).zip r).foldl (fun (u : Lane) p => u.setReg (8 + p.1) p.2) x).v ∧
        ∀ p, l.probe = some p → z.preds = (x.setPred p.toNat true).preds) := by
  rw [FLookup.release, if_pos hhold, hans]
  cases a with
  | none =>
    obtain ⟨hnone, hfree⟩ := missLane_free (now := now) (probe := l.probe) (next := l.next) (entry := l.entry) (x := x)
    refine ⟨hnone, hfree, fun _ hp => ?_, fun p _ hp => ?_, fun r hr => (nomatch hr)⟩
    · rw [hp]
      exact ⟨rfl, rfl⟩
    · rw [hp]
      exact ⟨rfl, Lane.setPred_v _ _ _, rfl⟩
  | some r =>
    obtain ⟨hnone, hfree, hpc⟩ := hitLane_free (now := now) (probe := l.probe) (next := l.next) (x := x) r
    refine ⟨hnone, hfree, fun hr => (nomatch hr), fun p hr => (nomatch hr), fun r' hr => ?_⟩
    obtain rfl := Option.some.inj hr
    exact ⟨hpc, hitLane_v r, fun p hp => by rw [hp]; exact hitLane_preds p r⟩

/-- A lane of a group that changes alone. -/
theorem State.mem_onLane {s : State} {g : Group} (hg : g ∈ s.allGroups) {l : Nat} (hl : l < g.lanes.length) (k : Lane → Lane) :
    ∃ y ∈ (s.onLane g.uid l k).allGroups, y.uid = g.uid ∧ y.lanes.getD l default = k (g.lanes.getD l default) :=
  ⟨_, State.mem_onGroup hg _, rfl, (getD_mapLanes hl _).trans (if_pos rfl)⟩

section
variable {id : Nat} {s : State} {l : FLookup} (h : s.lookups.find? (fun y => y.id == id) = some l)
include h

theorem lookupAnswer_waits (hwait : ∃ y ∈ s.lookups.filter (fun y => y.bundle == l.bundle && y.slice == l.slice), y.ans = none) : exec (.lookupAnswer id) s = .next s := by
  obtain ⟨y, hy, hans⟩ := hwait
  change execLookupAnswer id s = _
  simp only [execLookupAnswer, h]
  rw [if_pos (List.any_eq_true.2 ⟨y, hy, by simp [hans]⟩)]

/-- The answer of a bundle's only lookup at a slice. -/
theorem lookupAnswer_releases {a : Option (List Word)} (hmates : s.lookups.filter (fun y => y.bundle == l.bundle && y.slice == l.slice) = [l]) (hans : l.ans = some a) :
    exec (.lookupAnswer id) s = .next (({ s with lookups := s.lookups.filter (fun y => !(y.bundle == l.bundle && y.slice == l.slice)) } : State).onLane l.gid l.lane
      (l.release s.cycle)) := by
  change execLookupAnswer id s = _
  simp only [execLookupAnswer, h, hmates]
  rw [if_neg (by simp [hans])]
  rfl

end

/-! STORE_INSERT (R138) -/

/-- The records that an insert examines (R134, R138). -/
def State.rivals (s : State) (i : FInsert) : List FRec := (s.setRecs i.die i.slice i.set).filter (fun q => q.matches_ i.desc i.handle i.asid i.key i.x)

/-- A record grown to contain an argument (R138). -/
def FRec.grown (q : FRec) (now : BitVec 32) (x : List Word) : FRec :=
  { q with rad := List.zipWith (fun r e => if fix32 r ≤ fix32 (mag32 e) then mag32 e else r) q.rad (q.diffs x), hit := now }

/-- What an insert makes of the store once it is taken from its queue: rejected, a duplicate, a growth, or a new record (R138). -/
def State.takeInsert (s : State) (i : FInsert) : State :=
  if s.storeRoom i.die i.slice = 0 then s.fbump i.die i.asid i.handle 6
  else if (s.rivals i).any (fun q => q.contains i.x) then s.fbump i.die i.asid i.handle 4
  else match nearest (s.eventCount i.die i.slice) i.x (s.rivals i) with
  | some q =>
    if mayGrow i.desc q i then
      ({ s with frecs := updFirst (fun r => r == q) (fun _ => q.grown (s.eventCount i.die i.slice) i.x) s.frecs }.tickSlice i.die i.slice).fbump i.die i.asid i.handle 3
    else s.newRecord i.desc i
  | none => s.newRecord i.desc i

theorem exec_storeInsert_eq {id : Nat} {s : State} {i : FInsert} (h : s.inserts.find? (fun y => y.id == id) = some i)
    (hturn : s.sliceTurn i.die i.core i.gid i.lane i.slice id = true) (hshadow : s.unmatched i.gid id = false) :
    exec (.storeInsert id) s = .next (({ s with inserts := s.inserts.filter (fun j => j.id != id) } : State).takeInsert i) := by
  change execStoreInsert id s = _
  simp only [execStoreInsert, h]
  rw [if_neg (by simp [hturn, hshadow])]
  rfl

theorem State.newRecord_inserts (s : State) (d : BitVec 1024) (i : FInsert) : (s.newRecord d i).inserts = s.inserts := by
  simp only [State.newRecord]
  split <;> rfl

section
variable {s : State} {i : FInsert}

theorem State.takeInsert_inserts : (s.takeInsert i).inserts = s.inserts := by
  unfold State.takeInsert
  split
  · rfl
  · split
    · rfl
    · split
      · split
        · rfl
        · exact State.newRecord_inserts _ _ _
      · exact State.newRecord_inserts _ _ _

/-- Where the store has no way, or holds a record that contains the argument, an insert only counts. -/
theorem State.takeInsert_keeps (h : s.storeRoom i.die i.slice = 0 ∨ ∃ q ∈ s.rivals i, q.contains i.x = true) : (s.takeInsert i).frecs = s.frecs := by
  unfold State.takeInsert
  split
  · rfl
  · next hroom => rw [if_pos (List.any_eq_true.2 (h.resolve_left hroom))]; rfl

/-- The record that an insert makes (R138). -/
def State.recordOf (s : State) (i : FInsert) : FRec :=
  { die := i.die, slice := i.slice, set := i.set, way := s.freeWay i.die i.slice i.set, handle := i.handle, asid := i.asid, n := rdN i.desc, m := rdM i.desc,
    ins := s.eventCount i.die i.slice, hit := s.eventCount i.die i.slice, key := i.key, x0 := i.x, rad := (List.range (rdN i.desc)).map (rdR0 i.desc), y0 := i.f, jac := i.j }

theorem nearest_nil (now : BitVec 32) (x : List Word) : nearest now x [] = none := by simp [nearest, newestFirst]

theorem nearest_singleton (now : BitVec 32) (x : List Word) (q : FRec) : nearest now x [q] = some q := by
  simp [nearest, newestFirst]

/-- Where the routine's quota and the set leave room, a new record is added and none is evicted. -/
theorem State.takeInsert_new (hrivals : s.rivals i = [])
    (hquota : ((s.setRecs i.die i.slice i.set).filter (fun q => q.handle == i.handle && q.asid == i.asid)).length < rdQuota i.desc)
    (hroom : (s.setRecs i.die i.slice i.set).length < s.storeRoom i.die i.slice) : (s.takeInsert i).frecs = s.frecs ++ [s.recordOf i] := by
  have hnew : s.takeInsert i = s.newRecord i.desc i := by
    rw [State.takeInsert, if_neg (by omega), hrivals, List.any_nil, if_neg Bool.false_ne_true, nearest_nil]
  rw [hnew]
  simp only [State.newRecord]
  rw [if_neg (by omega), if_neg (by omega)]
  rfl

/-- The only record of the argument's cell grows to contain it, where R138's tests allow it. -/
theorem State.takeInsert_grows {q : FRec} (hrivals : s.rivals i = [q]) (hout : q.contains i.x = false) (hgrow : mayGrow i.desc q i = true)
    (hroom : s.storeRoom i.die i.slice ≠ 0) : (s.takeInsert i).frecs = updFirst (fun r => r == q) (fun _ => q.grown (s.eventCount i.die i.slice) i.x) s.frecs := by
  rw [State.takeInsert, if_neg hroom, hrivals, if_neg (by simp [hout]), nearest_singleton]
  simp only [hgrow, if_true]
  rfl

end

/-! STORE_INVALIDATE and FINVAL_DONE (R142, R274) -/

section
variable {id asid handle : Nat} {s : State} {w : Waiter} (h : s.waiter id = some w) (hk : w.kind = .finval asid handle)
include h hk

theorem exec_storeInvalidate_eq {die : Nat} (hdie : die ∈ w.owed) : exec (.storeInvalidate die id) s = .next
    { s with
      frecs := s.frecs.filter (fun q => !(q.die == die && q.asid == asid && q.handle == handle))
      waiters := updBy (fun x => x.id == id) (fun x => { x with owed := x.owed.filter (fun d => d != die) }) s.waiters } := by
  change execStoreInvalidate die id s = _
  simp only [execStoreInvalidate, h, hk]
  rw [if_pos (List.contains_iff_mem.2 hdie)]
  rfl

theorem finvalDone_waits (howed : w.owed ≠ []) : exec (.finvalDone id) s = .next s := by
  change execFinvalDone id s = _
  simp only [execFinvalDone, h, hk]
  rw [if_neg (by simpa using howed)]

theorem finvalDone_leaves (howed : w.owed = []) : exec (.finvalDone id) s = .next (s.leave w) := by
  change execFinvalDone id s = _
  simp only [execFinvalDone, h, hk]
  rw [if_pos (by simp [howed])]

end

theorem State.leave_waiters (s : State) (w : Waiter) : (s.leave w).waiters = s.waiters.filter (fun x => x.id != w.id) := rfl

/-- The lanes that a waiter holds go on (R268). -/
theorem State.mem_leave {s : State} {w : Waiter} {g : Group} (hg : g ∈ s.allGroups) (hu : g.uid = w.gid) : ∃ y ∈ (s.leave w).allGroups, y.uid = g.uid ∧
    ∀ l, l < g.lanes.length → w.lanes.getLsbD l = true → (g.lanes.getD l default).hold = .stall w.id →
      y.lanes.getD l default = (g.lanes.getD l default).wake s.cycle w.next := by
  unfold State.leave
  rw [← hu]
  refine ⟨_, State.mem_onGroup (s := { s with waiters := s.waiters.filter (fun x => x.id != w.id) }) hg _, rfl, fun l hl hm hx => ?_⟩
  rw [getD_mapLanes hl, hx]
  simp only [hm, beq_self_eq_true, Bool.and_self, if_true]

/-- Settles O46: the five instructions share the handle's checks, and what each sends is read off its bundle lane by lane; each step of a slice is described by its own rule. -/
theorem functionStore : Obligations.FunctionStore := by
  unfold Obligations.FunctionStore
  refine ⟨fun f s _ => ⟨fun c hc he => ?_, fun d hon hd => ⟨fun c hc he => ?_, fun he hmark => ⟨fun l p r => fret_misaligned he hon hd hmark, fret_spec he hon hd hmark⟩,
    finval_holds hon hd, fun he => ⟨fun hix => ?_, fun hix n hn => ?_⟩⟩⟩,
    fun id s => ⟨fun l h hans hturn => ?_, fun l h => ⟨lookupAnswer_waits h, fun a hmates hans => ?_⟩, fun i h hturn hshadow => ?_, fun w asid handle h hk =>
      ⟨fun die => exec_storeInvalidate_eq h hk, finvalDone_waits h hk, fun howed => ?_⟩⟩⟩
  · obtain ⟨fn, body, hkey, hexec⟩ := exec_fst_eq (s := s) hc
    rw [hkey] at he
    rw [hexec]
    exact ⟨fst_of_nil he, fst_bad he, fst_awaited he⟩
  · obtain ⟨fn, hkey, hexec⟩ := exec_lookups_eq (s := s) hc
    rw [hkey] at he
    rw [hexec]
    exact ⟨lookups_beyond he hon hd, lookups_spec he hon hd⟩
  · rw [exec_fstat_eq hon hd he, if_pos hix]
  · rw [exec_fstat_eq hon hd he, if_neg (by omega), hn]
    rfl
  · obtain ⟨t, hexec, hmem, hlen, y, hy, hid, hlane, hanswer⟩ := storeLookup_answers h hans hturn
    refine ⟨fun hno => ?_, fun hsome => ?_⟩
    · exact ⟨t, hexec, hmem, hlen, y, hy, hid, hlane, by rw [hanswer, State.find?_examined_eq_none hno]; rfl⟩
    · obtain ⟨q, hq, hgood, hnewest⟩ := State.find?_examined_eq_some hsome
      exact ⟨q, hgood, hnewest, t, hexec, hmem, hlen, y, hy, hid, hlane, by rw [hanswer, hq]; rfl⟩
  · refine ⟨_, lookupAnswer_releases h hmates hans, rfl, fun hl => ?_, fun g hg hu hlt hhold => ?_⟩
    · simpa using (List.mem_filter.1 hl).2
    · rw [← hu]
      obtain ⟨y, hy, hyu, hlane⟩ := State.mem_onLane (s := { s with lookups := s.lookups.filter (fun y => !(y.bundle == l.bundle && y.slice == l.slice)) }) hg.1 hlt (l.release s.cycle)
      exact ⟨y, hy, hyu, hlane ▸ l.release_spec s.cycle hhold hans⟩
  · let s0 : State := { s with inserts := s.inserts.filter (fun j => j.id != id) }
    have hexec := exec_storeInsert_eq h hturn hshadow
    have hrivals : s0.rivals i = s.frecs.filter (fun q => q.inSet i.die i.slice i.set && q.matches_ i.desc i.handle i.asid i.key i.x) := s.setRecs_filter _ _ _ _
    have hown := s.setRecs_filter i.die i.slice i.set (fun q => q.handle == i.handle && q.asid == i.asid)
    refine ⟨_, hexec, execStoreInsert_keepsMem id s _ hexec, fun y hy => ?_, fun hkeep => ?_, fun hnone hquota hroom => ?_, fun q hq hout hgrow hroom => ?_⟩
    · rw [State.takeInsert_inserts] at hy
      simpa using (List.mem_filter.1 hy).2
    · exact State.takeInsert_keeps (s := s0) (hrivals ▸ hkeep)
    · exact State.takeInsert_new (s := s0) (hrivals.trans hnone) (hown.symm ▸ hquota) hroom
    · have hmem : q ∈ s.frecs := List.mem_of_mem_filter (hq ▸ List.mem_singleton_self q)
      have hfrecs := State.takeInsert_grows (s := s0) (hrivals.trans hq) hout hgrow hroom
      rw [hfrecs]
      exact ⟨length_updFirst _ _ _, q.grown (s.eventCount i.die i.slice) i.x, mem_updFirst_self hmem _, rfl, rfl, rfl, rfl⟩
  · have hid : w.id = id := by simpa using List.find?_some h
    refine ⟨_, finvalDone_leaves h hk howed, rfl, fun x hx => ?_, fun g hg hu => ?_⟩
    · rw [State.leave_waiters, hid] at hx
      simpa using (List.mem_filter.1 hx).2
    · obtain ⟨y, hy, hyu, hlanes⟩ := State.mem_leave hg.1 hu
      refine ⟨y, hy, hyu, fun l hl hm hhold => ?_⟩
      rw [hlanes l hl hm (hid.symm ▸ hhold)]
      exact ⟨rfl, rfl, rfl⟩

end Sys2Proof.Machine
end

section
/-! Numbered operations at their requester (R156 to R159, R277): replies and failures. -/

namespace Sys2Proof.Machine

/-! The end of a call -/

theorem deliverCall_keeps (c : Call) (status cause : Nat) (res : List Word) (s : State) : (deliverCall c status cause res s).ocopies = s.ocopies ∧
    (deliverCall c status cause res s).calls = s.calls ∧ (deliverCall c status cause res s).mgmt = s.mgmt ∧ (deliverCall c status cause res s).rops = s.rops ∧
    (deliverCall c status cause res s).rmsgs = s.rmsgs := by
  unfold deliverCall
  split <;> exact ⟨rfl, rfl, rfl, rfl, rfl⟩

theorem State.endCall_keeps (s : State) (c : Call) (status cause : Nat) : (s.endCall c status cause).calls = s.calls.filter (fun x => x.id != c.id) ∧
    (s.endCall c status cause).rops = s.rops ∧ (s.endCall c status cause).rmsgs = s.rmsgs := by
  obtain ⟨-, hcalls, -, hrops, hmsgs⟩ := deliverCall_keeps c status cause [] { s with calls := s.calls.filter (fun x => x.id != c.id) }
  exact ⟨hcalls, hrops, hmsgs⟩

/-! Results that an absent group keeps (R159, R357) -/

theorem Group.hold_keeps (g : Group) (h : Held) : (g.hold h).uid = g.uid ∧ (g.hold h).lanes = g.lanes := by
  unfold Group.hold
  split
  · split <;> exact ⟨rfl, rfl⟩
  · exact ⟨rfl, rfl⟩

/-- The first REMOTE cause of a lane stands among the held results of its group. -/
theorem Group.hold_first {g : Group} {h : Held} (hfirst : ∀ k ∈ g.held, k.kind ≠ 4 ∨ k.lane ≠ h.lane) : (g.hold h).held = g.held ++ [h] := by
  have hnone : g.held.any (fun k => k.kind == 4 && k.lane == h.lane && (decide (0x600 ≤ h.dst) == decide (0x600 ≤ k.dst)) && (decide (h.dst < 0x600) || k.dst == h.dst)) = false :=
    List.any_eq_false.2 fun k hk hc => by
      simp only [Bool.and_eq_true, beq_iff_eq] at hc
      obtain ⟨⟨⟨hkind, hlane⟩, -⟩, -⟩ := hc
      exact (hfirst k hk).elim (· hkind) (· hlane)
  rw [Group.hold, if_neg (by simp [hnone])]

/-! Operations that did not complete (R158, R159) -/

theorem State.rop_id {s : State} {id : Nat} {n : Rop} (h : s.rop id = some n) : n.id = id := by simpa using List.find?_some h

/-- The REMOTE cause of an atomic, for its destination (R158). -/
def Rop.remoteOf (n : Rop) (r : Req) (cause : Nat) : Marked := { reg := r.dst, n := r.ext.words_, addr := r.va, rsn := n.rsn, rcause := cause, pc := r.pc }

/-- The cause that a destination of a lane carries: its own, or the lane's first one (log 104). -/
def Lane.remoteMark (x : Lane) (own : Marked) : Marked :=
  match x.remote with
  | some k => { k with reg := own.reg, n := own.n }
  | none => own

/-- A lane whose atomic did not complete: the destination is pending no more, and carries a mark. -/
def Lane.unanswered (id : Nat) (own : Marked) (x : Lane) : Lane := { x with marked := x.marked ++ [x.remoteMark own], pend := x.pend.filter (fun p => p.src != id) }

/-- The lane of an absent group, which marks nothing yet. -/
def Lane.unpended (id : Nat) (x : Lane) : Lane := { x with pend := x.pend.filter (fun p => p.src != id) }

/-- The held result by which an absent group learns of an atomic that did not complete (R357). -/
def Rop.heldRemote (n : Rop) (r : Req) (cause : Nat) : Held :=
  { kind := 4, dst := r.dst, lane := r.lane, vals := [n.rsn, BitVec.ofNat 32 cause], mark := some (n.remoteOf r cause) }

/-- A group with one lane changed. -/
def Group.onLane (l : Nat) (k : Lane → Lane) (g : Group) : Group := { g with lanes := mapLanes (fun i x => if i = l then k x else x) 0 g.lanes }

theorem Group.getD_onLane {g : Group} {l : Nat} (hl : l < g.lanes.length) (k : Lane → Lane) : (g.onLane l k).lanes.getD l default = k (g.lanes.getD l default) :=
  (getD_mapLanes hl _).trans (if_pos rfl)

section
variable {s : State} {n : Rop} {r : Req} {cause : Nat} {g : Group}

theorem atomFails_here (h : s.away r.gid = false) : atomFails s n r cause = (s.onLane r.gid r.lane (Lane.unanswered r.id (n.remoteOf r cause))).dropReq r.id := by
  simp only [atomFails, h, Bool.false_eq_true, if_false]
  rfl

theorem atomFails_away (h : s.away r.gid = true) : atomFails s n r cause =
    ((s.onLane r.gid r.lane (Lane.unpended r.id)).holdResult r.gid (n.heldRemote r cause)).dropReq r.id := by
  simp only [atomFails, h, if_true]
  rfl

theorem mem_atomFails_here (haway : s.away r.gid = false) (hg : g ∈ s.allGroups) (hu : g.uid = r.gid) :
    g.onLane r.lane (Lane.unanswered r.id (n.remoteOf r cause)) ∈ (atomFails s n r cause).allGroups := by
  rw [atomFails_here haway, ← hu]
  exact State.mem_onGroup hg (Group.onLane r.lane (Lane.unanswered r.id (n.remoteOf r cause)))

theorem mem_atomFails_away (haway : s.away r.gid = true) (hg : g ∈ s.allGroups) (hu : g.uid = r.gid) :
    (g.onLane r.lane (Lane.unpended r.id)).hold (n.heldRemote r cause) ∈ (atomFails s n r cause).allGroups := by
  rw [atomFails_away haway, ← hu]
  exact State.mem_onGroup (State.mem_onGroup hg (Group.onLane r.lane (Lane.unpended r.id))) (fun g => g.hold (n.heldRemote r cause))

end

/-- What an atomic that did not complete leaves in its lane: a mark for its destination, which is pending no more, or a result that its absent group holds. -/
def atomFailed (s t : State) (n : Rop) (r : Req) (cause : Nat) : Prop :=
  (∀ q ∈ t.reqs, q.id ≠ r.id) ∧ ∀ g, s.only g → g.uid = r.gid → r.lane < g.lanes.length → ∃ y ∈ t.allGroups, y.uid = g.uid ∧
    let z := y.lanes.getD r.lane default
    let x := g.lanes.getD r.lane default
    z.v = x.v ∧ z.pc = x.pc ∧ z.pend = x.pend.filter (fun p => p.src != r.id) ∧
      (s.away r.gid = false → (x.remote = none → z.marked = x.marked ++ [n.remoteOf r cause]) ∧
        (∀ k, x.remote = some k → z.marked = x.marked ++ [{ k with reg := r.dst, n := r.ext.words_ }])) ∧
      (s.away r.gid = true → z.marked = x.marked ∧ ((∀ k ∈ g.held, k.kind ≠ 4 ∨ k.lane ≠ r.lane) → ∃ h, y.held = g.held ++ [h] ∧ h.kind = 4 ∧ h.lane = r.lane ∧
        h.mark = some (n.remoteOf r cause)))

theorem atomFails_failed (s : State) (n : Rop) (r : Req) (cause : Nat) : atomFailed s (atomFails s n r cause) n r cause := by
  refine ⟨fun q hq => by simpa using (List.mem_filter.1 hq).2, fun g honly hu hl => ?_⟩
  obtain ⟨hg, -⟩ := honly
  cases haway : s.away r.gid with
  | false =>
    refine ⟨_, mem_atomFails_here haway hg hu, rfl, ?_⟩
    rw [Group.getD_onLane hl]
    refine ⟨rfl, rfl, rfl, fun _ => ⟨fun hnone => ?_, fun k hk => ?_⟩, fun h => nomatch h⟩
    · rw [Lane.unanswered, Lane.remoteMark, hnone]
    · rw [Lane.unanswered, Lane.remoteMark, hk]
      rfl
  | true =>
    obtain ⟨huid, hlanes⟩ := (g.onLane r.lane (Lane.unpended r.id)).hold_keeps (n.heldRemote r cause)
    refine ⟨_, mem_atomFails_away haway hg hu, huid, ?_⟩
    rw [hlanes, Group.getD_onLane hl]
    exact ⟨rfl, rfl, rfl, fun h => (nomatch h), fun _ => ⟨rfl, fun hfirst => ⟨_, Group.hold_first hfirst, rfl, rfl, rfl⟩⟩⟩

/-- What a LAUNCH that did not complete leaves of its launcher: a mark for s[D]. -/
def launchFailed (s t : State) (n : Rop) (g : Grid) (cause : Nat) : Prop :=
  ∀ x, s.only x → x.uid = g.by_ → ∃ y ∈ t.allGroups, (y.uid = x.uid ∧ ∀ k ∈ x.markedS, k.reg ≠ 0x600 + g.sd) →
    ∃ m, y.markedS = x.markedS ++ [m] ∧ m.reg = 0x600 + g.sd ∧ m.rsn = n.rsn ∧ m.rcause = cause ∧ m.pc = g.pc

/-- The REMOTE cause of a LAUNCH, for s[D]. -/
def Rop.remoteLaunch (n : Rop) (g : Grid) (cause : Nat) : Marked := { reg := 0x600 + g.sd, n := 1, addr := 0, rsn := n.rsn, rcause := cause, pc := g.pc }

/-- A launcher whose LAUNCH did not complete: s[D] is pending no more, and carries its first mark. -/
def Group.unlaunched (lid : Nat) (own : Marked) (x : Group) : Group :=
  { x with markedS := if x.markedS.any (fun m => m.reg == own.reg) then x.markedS else x.markedS ++ [own], pendS := x.pendS.filter (fun p => p.2 != lid) }

theorem launchFails_failed {s : State} {n : Rop} {lid cause : Nat} {g : Grid} (hgrid : s.grids.find? (fun g => g.lid == lid) = some g) (hby : g.by_ ≠ 0)
    (haway : s.away g.by_ = false) : launchFailed s (launchFails s n lid cause) n g cause := by
  intro x honly hu
  obtain ⟨hx, -⟩ := honly
  have heq : launchFails s n lid cause = s.onGroup g.by_ (Group.unlaunched lid (n.remoteLaunch g cause)) := by
    simp only [launchFails, hgrid, haway, hby, Bool.false_eq_true, if_false]
    rfl
  rw [heq, ← hu]
  exact ⟨_, State.mem_onGroup hx _, fun ⟨_, hfree⟩ => ⟨n.remoteLaunch g cause, if_neg (by simpa [Rop.remoteLaunch] using hfree), rfl, rfl, rfl, rfl⟩⟩

section
variable {s : State} {n : Rop} {cause : Nat}

/-- What a failed operation leaves of its die's ROU: the operation is gone, and copies of it on their way go on (R157). -/
theorem State.failRop_keeps (s : State) (n : Rop) (cause : Nat) : (s.failRop n cause).rops = s.rops.filter (fun x => x.id != n.id) ∧ (s.failRop n cause).rmsgs = s.rmsgs := by
  unfold State.failRop
  dsimp only
  split
  · unfold atomFails
    dsimp only
    split <;> exact ⟨rfl, rfl⟩
  · unfold launchFails
    split
    · exact ⟨rfl, rfl⟩
    · split
      · exact ⟨rfl, rfl⟩
      · dsimp only
        split <;> exact ⟨rfl, rfl⟩
  · split
    · obtain ⟨-, hrops, hmsgs⟩ := (s.dropRop n.id).endCall_keeps (‹Call› : Call) (if cause = 3 then 3 else 2) cause
      exact ⟨hrops, hmsgs⟩
    · exact ⟨rfl, rfl⟩
  · exact ⟨rfl, rfl⟩
  · exact ⟨rfl, rfl⟩

theorem State.failRop_atom {r : Req} (hw : n.what = .atom r) : s.failRop n cause = atomFails (s.dropRop n.id) n r cause := by
  simp only [State.failRop, hw]

theorem State.failRop_launch {lid : Nat} (hw : n.what = .launch lid) : s.failRop n cause = launchFails (s.dropRop n.id) n lid cause := by
  simp only [State.failRop, hw]

/-- The call of an append that failed has ended (R277). -/
theorem State.failRop_append {c : Call} (hw : n.what = .append c) : ∀ k ∈ (s.failRop n cause).calls, k.id ≠ c.id := by
  intro k hk
  simp only [State.failRop, hw] at hk
  split at hk
  · next c' hc =>
    obtain ⟨hcalls, -⟩ := (s.dropRop n.id).endCall_keeps c' (if cause = 3 then 3 else 2) cause
    have hid : c'.id = c.id := by simpa using List.find?_some hc
    rw [hcalls, hid] at hk
    simpa using (List.mem_filter.1 hk).2
  · next hnone => simpa using List.find?_eq_none.1 hnone k hk

/-- A flush that failed poisons its line (R63, R158). -/
theorem State.failRop_flush {r : Req} (hw : n.what = .flush r) : (∀ q ∈ (s.failRop n cause).reqs, q.id ≠ r.id) ∧
    (s.failRop n cause).poison = addPoison s.poison (128 * lineOf r.addr) 128 := by
  simp only [State.failRop, hw]
  exact ⟨fun q hq => by simpa using (List.mem_filter.1 hq).2, rfl⟩

/-- What an operation leaves that did not complete, by what it carried (R158, Table 8 of 07). -/
def ropFailed (s t : State) (n : Rop) (cause : Nat) : Prop :=
  t.mem = s.mem ∧ t.rops = s.rops.filter (fun x => x.id != n.id) ∧ (∀ r, n.what = .atom r → atomFailed s t n r cause) ∧
    (∀ c, n.what = .append c → ∀ k ∈ t.calls, k.id ≠ c.id) ∧
    (∀ r, n.what = .flush r → (∀ q ∈ t.reqs, q.id ≠ r.id) ∧ t.poison = addPoison s.poison (128 * lineOf r.addr) 128) ∧
    ∀ l g, n.what = .launch l → s.grids.find? (fun g => g.lid == l) = some g → g.by_ ≠ 0 → s.away g.by_ = false → launchFailed s t n g cause

theorem State.failRop_failed (s : State) (n : Rop) (cause : Nat) : ropFailed s (s.failRop n cause) n cause := by
  obtain ⟨hrops, -⟩ := s.failRop_keeps n cause
  refine ⟨State.failRop_mem s n cause, hrops, fun r hw => ?_, fun c => State.failRop_append, fun r => State.failRop_flush, fun l g hw hgrid hby haway => ?_⟩
  · rw [State.failRop_atom hw]
    exact atomFails_failed (s.dropRop n.id) n r cause
  · rw [State.failRop_launch hw]
    exact launchFails_failed (s := s.dropRop n.id) hgrid hby haway

end

/-! Operations that complete (R157) -/

theorem State.tellW_core (s : State) (r : Req) (w : Nat) : ((s.tellW r w).core r.core).maxW = max (s.core r.core).maxW w := by
  have hcores : (s.tellW r w).core = (if (s.core r.core).maxW < w then s.onCore r.core (fun c => { c with maxW := w }) else s).core := State.core_congr rfl
  rw [hcores]
  split
  · next h => rw [State.core_onCore, Nat.max_eq_right (Nat.le_of_lt h)]
  · next h => exact (Nat.max_eq_left (Nat.le_of_not_lt h)).symm

theorem State.tellW_rops (s : State) (r : Req) (w : Nat) : (s.tellW r w).rops = s.rops ∧ (s.tellW r w).reqs = s.reqs := by
  unfold State.tellW
  dsimp only
  split
  · unfold State.onCore
    split <;> exact ⟨rfl, rfl⟩
  · exact ⟨rfl, rfl⟩

section
variable {s : State} {n : Rop} {v : QWord} {w : Nat}

theorem State.finishRop_atom {r : Req} (hw : n.what = .atom r) : s.finishRop n v w =
    { s with rops := s.rops.filter (fun x => x.id != n.id), reqs := updBy (fun q => q.id == r.id) (fun q => { q with stage := .served, val := v, w := w }) s.reqs } := by
  simp only [State.finishRop, hw]
  rfl

theorem State.finishRop_append {c : Call} (hw : n.what = .append c) : s.finishRop n v w =
    { s with rops := s.rops.filter (fun x => x.id != n.id), calls := updBy (fun k => k.id == c.id) (fun k => { k with stage := .numbered v.toNat }) s.calls } := by
  simp only [State.finishRop, hw]
  rfl

theorem State.finishRop_flush {r : Req} (hw : n.what = .flush r) : (s.finishRop n v w).rops = s.rops.filter (fun x => x.id != n.id) ∧
    (s.finishRop n v w).reqs = s.reqs.filter (fun q => q.id != r.id) ∧ ((s.finishRop n v w).core r.core).maxW = max (s.core r.core).maxW w := by
  obtain ⟨hrops, hreqs⟩ := (s.dropRop n.id).tellW_rops r w
  simp only [State.finishRop, hw]
  exact ⟨hrops, congrArg (List.filter _) hreqs, (s.dropRop n.id).tellW_core r w⟩

/-- The launch of grid `g` has been answered by die `d`. -/
def State.launchAnswered (s : State) (lid d : Nat) (g : Grid) : State :=
  { s with grids := updBy (fun x => x.lid == lid) (fun x => { x with owed := g.owed.filter (fun k => k != d) }) s.grids }

theorem State.finishRop_launch {lid : Nat} {g : Grid} (hw : n.what = .launch lid) (hgrid : s.grids.find? (fun g => g.lid == lid) = some g) : s.finishRop n v w =
    if (g.owed.filter (fun k => k != n.dst)).isEmpty then ((s.dropRop n.id).launchAnswered lid n.dst g).launchStatus g.by_ g.sd lid 0
    else (s.dropRop n.id).launchAnswered lid n.dst g := by
  have hgrid' : (s.dropRop n.id).grids.find? (fun g => g.lid == lid) = some g := hgrid
  simp only [State.finishRop, hw, hgrid']
  rfl

theorem State.launchStatus_keeps (s : State) (u sd src : Nat) (status : DWord) : (s.launchStatus u sd src status).rops = s.rops ∧ (s.launchStatus u sd src status).grids = s.grids := by
  unfold State.launchStatus State.snapNote
  split
  · exact ⟨rfl, rfl⟩
  · split
    · exact ⟨rfl, rfl⟩
    · dsimp only
      split <;> exact ⟨rfl, rfl⟩

theorem State.allGroups_snapNote (s : State) (u : Nat) : (s.snapNote u).allGroups = s.allGroups := by
  unfold State.snapNote
  split <;> rfl

/-- The status of a LAUNCH reaches its launcher's scalar, which is pending no more (R280). -/
theorem State.mem_launchStatus {s : State} {x : Group} (hx : x ∈ s.allGroups) (hu : x.uid ≠ 0) (haway : s.away x.uid = false) (sd src : Nat) (status : DWord) :
    { x with s := sput 0 x.s sd status, pendS := x.pendS.filter (fun p => p.2 != src) } ∈ (s.launchStatus x.uid sd src status).allGroups := by
  rw [State.launchStatus, if_neg hu, if_neg (by simp [haway])]
  exact State.mem_onGroup (s := s.snapNote x.uid) ((s.allGroups_snapNote x.uid).symm ▸ hx) (fun g => { g with s := sput 0 g.s sd status, pendS := g.pendS.filter (fun p => p.2 != src) })

/-- A die's answer to a LAUNCH: it owes none any more, and with the last one s[D] takes 0. -/
theorem State.finishRop_launched {lid : Nat} {g : Grid} (hw : n.what = .launch lid) (hgrid : s.grids.find? (fun g => g.lid == lid) = some g) :
    (s.finishRop n v w).rops = s.rops.filter (fun x => x.id != n.id) ∧
    (∃ g' ∈ (s.finishRop n v w).grids, g'.lid = lid ∧ g'.owed = g.owed.filter (fun d => d != n.dst)) ∧
    ((∀ d ∈ g.owed, d = n.dst) → g.by_ ≠ 0 → s.away g.by_ = false → ∀ x, s.only x → x.uid = g.by_ → ∃ y ∈ (s.finishRop n v w).allGroups, y.uid = x.uid ∧
      y.s = sput 0 x.s g.sd 0 ∧ y.pendS = x.pendS.filter (fun p => p.2 != lid)) := by
  have hlid : g.lid = lid := by simpa using List.find?_some hgrid
  have howed : ∃ g' ∈ ((s.dropRop n.id).launchAnswered lid n.dst g).grids, g'.lid = lid ∧ g'.owed = g.owed.filter (fun d => d != n.dst) :=
    ⟨_, mem_updBy_of_find? hgrid _, hlid, rfl⟩
  rw [State.finishRop_launch hw hgrid]
  refine ⟨?_, ?_, fun hlast hby haway x honly hu => ?_⟩
  · split
    · exact (State.launchStatus_keeps _ _ _ _ _).1
    · rfl
  · split
    · rw [(State.launchStatus_keeps _ _ _ _ _).2]
      exact howed
    · exact howed
  · obtain ⟨hx, -⟩ := honly
    rw [if_pos (by simpa using hlast), ← hu]
    exact ⟨_, State.mem_launchStatus (s := (s.dropRop n.id).launchAnswered lid n.dst g) hx (hu ▸ hby) (hu ▸ haway) g.sd lid 0, rfl, rfl, rfl⟩

end

/-! NUMBERED_REPLY (R157) -/

section
variable {s : State} {id : Nat} {n : Rop} (h : s.rop id = some n)
include h

theorem numberedReply_none (hr : n.replies = []) : exec (.numberedReply id) s = .next s := by
  change execNumberedReply id s = _
  simp only [execNumberedReply, h, hr]

variable {c : Nat} {more : List (Nat × Reply)}

theorem numberedReply_result {v : QWord} {w : Nat} (hr : n.replies = (c, .result v w) :: more) : exec (.numberedReply id) s = .next (s.finishRop n v w) := by
  change execNumberedReply id s = _
  simp only [execNumberedReply, h, hr]

theorem numberedReply_held (hr : n.replies = (c, .held) :: more) : exec (.numberedReply id) s = .next (s.onRop id (fun r => { r with replies := more, isHeld := true })) := by
  change execNumberedReply id s = _
  simp only [execNumberedReply, h, hr]

theorem numberedReply_busy (hr : n.replies = (c, .busy) :: more) :
    exec (.numberedReply id) s = .next (s.onRop id (fun r => { r with replies := more, lastBusy := r.lastBusy || c == r.copies })) := by
  change execNumberedReply id s = _
  simp only [execNumberedReply, h, hr]

/-- A final reply other than a result fails the operation with its cause (Table 8 of 07). -/
theorem numberedReply_fails {k : Reply × Nat} (hk : k ∈ ([(.stale, 2), (.noAtomic, 4), (.contention, 5)] : List (Reply × Nat))) (hr : n.replies = (c, k.1) :: more) :
    exec (.numberedReply id) s = .next (s.failRop n k.2) := by
  change execNumberedReply id s = _
  simp only [List.mem_cons, List.not_mem_nil, or_false] at hk
  rcases hk with rfl | rfl | rfl <;> simp only [execNumberedReply, h, hr]

end

/-! Retransmission and give-up (R157, R277) -/

/-- The operation as it is after a further copy of it was sent. -/
def State.sentAgain (s : State) (n : Rop) : Rop := { n with copies := n.copies + 1, sentAt := s.gtime n.die, lastBusy := false }

theorem State.resend_lost {s : State} {n : Rop} (hlost : s.portLost n = true) : (s.resend n).rops = updBy (fun r => r.id == n.id) (fun _ => s.sentAgain n) s.rops ∧
    (s.resend n).rmsgs = s.rmsgs := by
  have heq : s.resend n = s.onRop n.id (fun _ => s.sentAgain n) := if_pos (show (s.onRop n.id (fun _ => s.sentAgain n)).portLost (s.sentAgain n) = true from hlost)
  rw [heq]
  exact ⟨rfl, rfl⟩

theorem State.resend_sent {s : State} {n : Rop} (hlost : s.portLost n = false) : (s.resend n).rops = updBy (fun r => r.id == n.id) (fun _ => s.sentAgain n) s.rops ∧
    (s.resend n).rmsgs = s.rmsgs ++ [{ rop := n.id, copy := n.copies + 1, at_ := n.dst, hdr := (s.onRop n.id (fun _ => s.sentAgain n)).ropHeader (s.sentAgain n), what := n.what }] := by
  have hlost' : (s.onRop n.id (fun _ => s.sentAgain n)).portLost (s.sentAgain n) = false := hlost
  have heq : s.resend n = { s.onRop n.id (fun _ => s.sentAgain n) with
      rmsgs := s.rmsgs ++ [{ rop := n.id, copy := n.copies + 1, at_ := n.dst, hdr := (s.onRop n.id (fun _ => s.sentAgain n)).ropHeader (s.sentAgain n), what := n.what }] } :=
    if_neg (by rw [Bool.not_eq_true]; exact hlost')
  rw [heq]
  exact ⟨rfl, rfl⟩

/-- What a further copy of an operation leaves: it is counted, and is on its way unless its port is lost. -/
def copySent (s t : State) (n : Rop) : Prop :=
  t.mem = s.mem ∧ t.rops = updBy (fun r => r.id == n.id) (fun _ => s.sentAgain n) s.rops ∧
    if s.portLost n = true then t.rmsgs = s.rmsgs
    else ∃ h : Jdp, t.rmsgs = s.rmsgs ++ [{ rop := n.id, copy := n.copies + 1, at_ := n.dst, hdr := h, what := n.what }] ∧ h.rsn = n.rsn ∧ h.reqinc = n.reqinc ∧ h.owninc = n.owninc ∧
      h.ackw = (s.onRop n.id (fun _ => s.sentAgain n)).ackw n.die ∧ h.src.toNat = n.die % 2 ^ 6 ∧ h.dst.toNat = n.dst % 2 ^ 6 ∧ h.reqid.toNat = n.die % 2 ^ 8 ∧
      h.rqtag.toNat = n.rqtag % 2 ^ 16

theorem State.resend_copySent (s : State) (n : Rop) : copySent s (s.resend n) n := by
  refine ⟨State.resend_mem s n, ?_⟩
  cases hlost : s.portLost n with
  | true =>
    obtain ⟨hrops, hmsgs⟩ := State.resend_lost hlost
    exact ⟨hrops, hmsgs⟩
  | false =>
    obtain ⟨hrops, hmsgs⟩ := State.resend_sent hlost
    exact ⟨hrops, _, hmsgs, rfl, rfl, rfl, rfl, BitVec.toNat_ofNat .., BitVec.toNat_ofNat .., BitVec.toNat_ofNat .., BitVec.toNat_ofNat ..⟩

theorem resendDue_held {now : Nat} {n : Rop} (hheld : n.isHeld = true) : resendDue now n = true ↔ n.sentAt + 4000 ≤ now := by
  simp [resendDue, hheld]

/-- The times of the copies: each interval is twice the one before, from 4 µs on, and the sixth ends at 252 µs. -/
theorem resendAt_getElem? (k : Nat) : resendAt[k]? = if k < 6 then some (4000 * (2 ^ (k + 1) - 1)) else none := by
  rcases k with _ | _ | _ | _ | _ | _ | k
  case succ.succ.succ.succ.succ.succ => rw [if_neg (by omega)]; rfl
  all_goals rfl

theorem resendDue_copies {now k : Nat} {n : Rop} (hheld : n.isHeld = false) (hk : n.copies = k + 1) :
    resendDue now n = true ↔ k < 6 ∧ n.start + 4000 * (2 ^ (k + 1) - 1) ≤ now := by
  have hk' : n.copies - 1 = k := by omega
  rw [resendDue, hheld, hk', resendAt_getElem?]
  by_cases h6 : k < 6 <;> simp [h6]

section
variable {s : State} {id : Nat} {n : Rop} (h : s.rop id = some n)
include h

theorem rouRetransmit_sends (hdue : resendDue (s.gtime n.die) n = true) (hscb : s.ropInScb n.what = false) : exec (.rouRetransmit id) s = .next (s.resend n) := by
  change execRouRetransmit id s = _
  simp [execRouRetransmit, h, hdue, hscb]

theorem rouRetransmit_waits (hwait : resendDue (s.gtime n.die) n = false ∨ s.ropInScb n.what = true) : exec (.rouRetransmit id) s = .next s := by
  change execRouRetransmit id s = _
  rcases hwait with hw | hw <;> simp [execRouRetransmit, h, hw]

theorem rouGiveUp_waits (hwait : n.isHeld = true ∨ ¬n.start + giveUpTicks n ≤ s.gtime n.die ∨ s.ropInScb n.what = true) : exec (.rouGiveUp id) s = .next s := by
  change execRouGiveUp id s = _
  rcases hwait with hw | hw | hw <;> simp [execRouGiveUp, h, hw]

theorem rouGiveUp_fails (hheld : n.isHeld = false) (hlate : n.start + giveUpTicks n ≤ s.gtime n.die) (hscb : s.ropInScb n.what = false) :
    exec (.rouGiveUp id) s = .next (s.failRop n (if n.lastBusy then 3 else 1)) := by
  change execRouGiveUp id s = _
  simp [execRouGiveUp, h, hheld, hlate, hscb]

end

/-! The tail read of a call (R277) -/

section
variable {s : State} {id : Nat} {c : Call} (hrop : s.rop id = none) (hcall : s.call id = some c) (hstage : c.stage = .asked) (happend : s.appendRop id = none)
include hrop hcall hstage happend

theorem rouRetransmit_asks {t : Nat} (ht : resendAt[c.tries]? = some t) (hdue : c.at_ + t ≤ s.gtime c.die) :
    exec (.rouRetransmit id) s = .next { s with calls := updBy (fun x => x.id == id) (fun x => { x with tries := x.tries + 1 }) s.calls } := by
  change execRouRetransmit id s = _
  simp [execRouRetransmit, hrop, hcall, hstage, happend, tailDue, ht, hdue]

theorem rouGiveUp_ends (hlate : c.at_ + 256000 ≤ s.gtime c.die) : exec (.rouGiveUp id) s = .next (s.endCall c 2 1) := by
  change execRouGiveUp id s = _
  simp [execRouGiveUp, hrop, hcall, hstage, happend, hlate]

theorem rouGiveUp_early (hearly : s.gtime c.die < c.at_ + 256000) : exec (.rouGiveUp id) s = .next s := by
  change execRouGiveUp id s = _
  simp [execRouGiveUp, hrop, hcall, hstage, happend, Nat.not_le.2 hearly]

end

/-! Host atomics (R160, R161, R376) -/

theorem State.portOp_rop {s : State} {id : Nat} {x : Receipt} {r : Req} (h : s.portOp id = some (x, r)) : x.rop = id := by
  obtain ⟨y, -, hy⟩ := List.exists_of_findSome?_eq_some h
  split at hy
  · split at hy
    · next hc =>
      cases hy
      exact hc.1
    · cases hy
  · cases hy

/-- A host atomic has ended with reply `y`: its receipt is DONE, and the reply is on its way. -/
def portEnded (s t : State) (x : Receipt) (y : Reply) : Prop :=
  t.mem = s.mem ∧ t.receipts = (s.onReceipt x (fun z => { z with done := some y })).receipts ∧
    t.rops = updBy (fun n => n.id == x.rop) (fun n => { n with replies := n.replies ++ [(x.copy, y)] }) s.rops

theorem State.receiptDone_ended {s u : State} (hmem : u.mem = s.mem) (hreceipts : u.receipts = s.receipts) (hrops : u.rops = s.rops) (x : Receipt) (y : Reply) :
    portEnded s (u.receiptDone x y) x y :=
  ⟨hmem, congrArg (updBy _ _) hreceipts, congrArg (updBy _ _) hrops⟩

theorem State.hostPut_window {s : State} {asid core pa n : Nat} {data mask : QWord} (hpeer : isPeer pa = false) :
    s.hostPut asid core pa n data mask = { s with out := s.out ++ [.hostWrite (s.pasidOf asid) pa data mask] } := by
  rw [State.hostPut, if_neg (by simp [hpeer])]

/-- A port's loop after one more CAS, from the value seen (R161). -/
def State.casSent (s : State) (x : Receipt) (r : Req) (asks : List Out) (seen free : Nat) : State :=
  { s with
    receipts := (s.onReceipt x (fun y => { y with casTries := y.casTries + 1, casSeen := BitVec.ofNat 128 seen })).receipts,
    out := s.out ++ asks ++ [.hostAtomic (x.owner - 16) x.rop (s.pasidOf r.asid) r.addr r.n .cas (BitVec.ofNat 128 seen) (BitVec.ofNat 128 (r.newVal seen))], free := free }

theorem State.askHost_pasidOf (s : State) (r : Req) (asid : Nat) : (s.askHost r).pasidOf asid = s.pasidOf asid := by
  unfold State.pasidOf
  rfl

theorem State.onReceipt_pasidOf (s : State) (x : Receipt) (f : Receipt → Receipt) (asid : Nat) : (s.onReceipt x f).pasidOf asid = s.pasidOf asid := by
  unfold State.pasidOf
  rfl

theorem State.casLoop_asked (s : State) (x : Receipt) (r : Req) (seen : Nat) :
    (s.askHost r).casLoop x r seen = s.casSent x r [.hostRead (s.pasidOf r.asid) r.addr r.n] seen (s.free + 1) := by
  rw [State.casLoop, State.toHost, State.onReceipt_pasidOf, State.askHost_pasidOf]
  simp only [State.casSent, State.onReceipt, State.askHost, State.useFree]

theorem State.casLoop_sent (s : State) (x : Receipt) (r : Req) (seen : Nat) : s.casLoop x r seen = s.casSent x r [] seen s.free := by
  simp only [State.casSent, List.append_nil]
  rfl

/-- The port of a device-locked page has read the word and written the atomic's value of it (R160). -/
def State.lockedAtomic (s : State) (x : Receipt) (r : Req) : State :=
  ((s.askHost r).hostPut r.asid r.core r.addr r.n (BitVec.ofNat 128 (r.newVal (s.hostValue r.n))) (fullMask r.n)).portResult x (BitVec.ofNat 128 (s.hostValue r.n))

theorem State.lockedAtomic_ended {s : State} {x : Receipt} {r : Req} (hpeer : isPeer r.addr = false) : (s.lockedAtomic x r).free = s.free + 1 ∧
    (s.lockedAtomic x r).out = s.out ++ [.hostRead (s.pasidOf r.asid) r.addr r.n, .hostWrite (s.pasidOf r.asid) r.addr (BitVec.ofNat 128 (r.newVal (s.hostValue r.n))) (fullMask r.n)] ∧
    portEnded s (s.lockedAtomic x r) x (.result (BitVec.ofNat 128 (s.hostValue r.n)) 0) := by
  rw [State.lockedAtomic, State.hostPut_window hpeer]
  exact ⟨rfl, List.append_assoc .., State.receiptDone_ended (by rfl) (by rfl) (by rfl) x _⟩

section
variable {s : State} {id : Nat} {x : Receipt} {r : Req} (h : s.portOp id = some (x, r))
include h

theorem hostAtomic_waits (hturn : s.portTurn r = false) : exec (.hostAtomic id) s = .next s := by
  change execHostAtomic id s = _
  simp [execHostAtomic, h, hturn]

theorem hostCasCompletion_waits (hturn : s.portTurn r = false) (ok no : Bool) (seen : BitVec 128) : exec (.hostCasCompletion id ok no seen) s = .next s := by
  change execHostCasCompletion id ok no seen s = _
  simp [execHostCasCompletion, h, hturn]

section
variable (hturn : s.portTurn r = true) (htries : x.casTries = 0)
include hturn htries

theorem hostAtomic_locked (hlock : r.lock = true) : exec (.hostAtomic id) s = .next (s.lockedAtomic x r) := by
  change execHostAtomic id s = _
  simp [execHostAtomic, h, hturn, htries, hlock, State.lockedAtomic]

theorem hostAtomic_single (hlock : r.lock = false) (hsingle : r.acc.single = true) :
    exec (.hostAtomic id) s = .next ((s.onReceipt x (fun x => { x with casTries := 1 })).toHost x r r.acc r.cmp r.data) := by
  change execHostAtomic id s = _
  simp [execHostAtomic, h, hturn, htries, hlock, hsingle]

theorem hostAtomic_loops (hlock : r.lock = false) (hsingle : r.acc.single = false) : exec (.hostAtomic id) s =
    .next (s.casSent x r [.hostRead (s.pasidOf r.asid) r.addr r.n] (s.hostValue r.n) (s.free + 1)) := by
  change execHostAtomic id s = _
  simp [execHostAtomic, h, hturn, htries, hlock, hsingle, State.casLoop_asked]

end

section
variable (hturn : s.portTurn r = true) (htries : x.casTries ≠ 0) {ok : Bool} {seen : BitVec 128}
include hturn htries

theorem hostCasCompletion_refused : exec (.hostCasCompletion id ok true seen) s = .next (s.receiptDone x .noAtomic) := by
  change execHostCasCompletion id ok true seen s = _
  simp [execHostCasCompletion, h, hturn, htries]

theorem hostCasCompletion_single (hsingle : r.acc.single = true) : exec (.hostCasCompletion id ok false seen) s = .next (s.portResult x (seen &&& fullMask r.n)) := by
  change execHostCasCompletion id ok false seen s = _
  simp [execHostCasCompletion, h, hturn, htries, hsingle]

variable (hsingle : r.acc.single = false)
include hsingle

theorem hostCasCompletion_succeeds : exec (.hostCasCompletion id true false seen) s = .next (s.portResult x x.casSeen) := by
  change execHostCasCompletion id true false seen s = _
  simp [execHostCasCompletion, h, hturn, htries, hsingle]

theorem hostCasCompletion_contended (hmany : 4096 ≤ x.casTries) : exec (.hostCasCompletion id false false seen) s = .next (s.receiptDone x .contention) := by
  change execHostCasCompletion id false false seen s = _
  simp [execHostCasCompletion, h, hturn, htries, hsingle, hmany]

theorem hostCasCompletion_repeats (hfew : x.casTries < 4096) : exec (.hostCasCompletion id false false seen) s =
    .next (s.casSent x r [] (seen &&& fullMask r.n).toNat s.free) := by
  change execHostCasCompletion id false false seen s = _
  simp [execHostCasCompletion, h, hturn, htries, hsingle, Nat.not_le.2 hfew, State.casLoop_sent]

end

end

/-- Settles O53: a reply completes an operation, leaves it in flight or fails it with its cause; copies and the give-up follow from the times after the first send, and a host atomic from
what its port has sent and seen. -/
theorem remoteOperations : Obligations.RemoteOperations := by
  unfold Obligations.RemoteOperations
  refine ⟨fun id n s h => ?_, fun id x r s h => ?_, fun id c s hrop hcall hstage happend => ⟨fun t => rouRetransmit_asks hrop hcall hstage happend, fun hlate => ?_,
    rouGiveUp_early hrop hcall hstage happend⟩⟩
  · obtain rfl := State.rop_id h
    intro failed now late
    have hfails : ∀ cause, failed (s.failRop n cause) cause := s.failRop_failed n
    refine ⟨numberedReply_none h, fun c v w more hr => ?_, fun c more => numberedReply_held h, fun c more => numberedReply_busy h,
      fun k hk c more hr => ⟨_, numberedReply_fails h hk hr, hfails k.2⟩, ?_, rouGiveUp_waits h, fun hheld hlate hscb => ?_⟩
    · rw [numberedReply_result h hr]
      refine ⟨fun r hw => congrArg Host.Outcome.next (State.finishRop_atom hw), fun c hw => congrArg Host.Outcome.next (State.finishRop_append hw), fun r hw => ?_, fun l g hw hgrid => ?_⟩
      · obtain ⟨hrops, hreqs, hmaxw⟩ := State.finishRop_flush (s := s) (v := v) (w := w) hw
        exact ⟨_, rfl, State.finishRop_mem .., hrops, hreqs, hmaxw⟩
      · exact ⟨_, rfl, State.finishRop_mem .., State.finishRop_launched hw hgrid⟩
    · have hagain : ∀ hdue : resendDue now n = true, s.ropInScb n.what = false → ∃ t, exec (.rouRetransmit n.id) s = .next t ∧ copySent s t n :=
        fun hdue hscb => ⟨_, rouRetransmit_sends h hdue hscb, s.resend_copySent n⟩
      refine ⟨fun hscb => rouRetransmit_waits h (.inr hscb), fun hscb hheld hdue => hagain ((resendDue_held hheld).2 hdue) hscb,
        fun hheld hearly => rouRetransmit_waits h (.inl ?_), fun k hheld hk => ⟨fun h6 hdue hscb => hagain ((resendDue_copies hheld hk).2 ⟨h6, hdue⟩) hscb,
        fun hearly => rouRetransmit_waits h (.inl ?_)⟩⟩
      · rw [← Bool.not_eq_true, resendDue_held hheld]
        exact Nat.not_le.2 hearly
      · rw [← Bool.not_eq_true, resendDue_copies hheld hk]
        rintro ⟨h6, hdue⟩
        exact hearly.elim (Nat.not_le.2 h6) (Nat.not_lt.2 hdue)
    · exact ⟨_, rouGiveUp_fails h hheld hlate hscb, (s.failRop_keeps n _).2, hfails _⟩
  · obtain rfl := State.portOp_rop h
    intro v pasid ask out port again ended
    have hdone : ∀ y, ended (s.receiptDone x y) y := fun y => State.receiptDone_ended rfl rfl rfl x y
    refine ⟨fun hturn => ⟨hostAtomic_waits h hturn, hostCasCompletion_waits h hturn⟩, fun hturn htries => ⟨fun hlock hpeer => ?_, hostAtomic_single h hturn htries, fun hlock hsingle => ?_⟩,
      fun hturn htries ok seen => ⟨⟨_, hostCasCompletion_refused h hturn htries, hdone _⟩, fun hsingle => ⟨_, hostCasCompletion_single h hturn htries hsingle, hdone _⟩,
        fun hsingle hok => ?_, fun hsingle hok hmany => ?_, fun hsingle hok hfew => ?_⟩⟩
    · exact ⟨_, hostAtomic_locked h hturn htries hlock, State.lockedAtomic_ended hpeer⟩
    · exact hostAtomic_loops h hturn htries hlock hsingle
    · subst hok
      exact ⟨_, hostCasCompletion_succeeds h hturn htries hsingle, hdone _⟩
    · subst hok
      exact ⟨_, hostCasCompletion_contended h hturn htries hsingle hmany, hdone _⟩
    · subst hok
      exact hostCasCompletion_repeats h hturn htries hsingle hfew
  · exact ⟨_, rouGiveUp_ends hrop hcall hstage happend hlate, State.endCall_mem .., (s.endCall_keeps c 2 1).1⟩

end Sys2Proof.Machine
end

section
/-! The end of a call on a die whose replay engine is quarantined, and the refutation of `Obligations.ReplayedObjects`. -/

namespace Sys2Proof.Machine

/-! The copies that the end of a call lets go (R148, R154, R394)

A die whose replay engine is quarantined keeps its copy of an object only while a call waits for one there (log 123), so the end of the last such call drops the copy.
`Obligations.ReplayedObjects` says of an OSYNC that it leaves every copy as it is, without asking whether its die is in service. -/

theorem State.dropObjCopies_congr {s t : State} (ho : t.ocopies = s.ocopies) (hc : t.calls = s.calls) (hm : t.mgmt = s.mgmt) : t.dropObjCopies.ocopies = s.dropObjCopies.ocopies := by
  simp only [State.dropObjCopies, ho, hc, hm]

/-- Of the copies the end of a call drops those that only this call kept. -/
theorem State.endCall_ocopies (s : State) (c : Call) (status cause : Nat) :
    (s.endCall c status cause).ocopies = ({ s with calls := s.calls.filter (fun x => x.id != c.id) } : State).dropObjCopies.ocopies := by
  obtain ⟨ho, hc, hm, -⟩ := deliverCall_keeps c status cause [] { s with calls := s.calls.filter (fun x => x.id != c.id) }
  exact State.dropObjCopies_congr ho hc hm

/-- An OSYNC whose copy has applied every entry below its T ends with OK (R148, R277). -/
theorem readOnlyCall_sync {id t0 : Nat} {k : Call} {o : Obj} {s : State} (hobj : s.objAt k.obj = some o) (hcall : s.call id = some k) (hst : k.stage = .tail t0)
    (hresync : (s.ocopy k.on k.obj).resync = none) (happlied : t0 ≤ (s.ocopy k.on k.obj).applied) (hsync : k.sync = true) :
    exec (.readOnlyCall id) s = .next (s.endCall k 0 0) := by
  change execReadOnlyCall id s = _
  simp only [execReadOnlyCall, hcall, hobj, hst]
  rw [if_neg (by simp [hresync, happlied]), if_pos hsync]

/-- The OSYNC of a lane that has no group any more, on the copy of object 0 that die 0 keeps; it has read its tail. -/
def lastSync : Call := { (default : Call) with id := 1, sync := true, stage := .tail 0 }

/-- Die 0 serves `lastSync`, the only call, from its copy of object 0, while its replay engine is quarantined. -/
def lastSyncState : State :=
  { State.reset with
    objs := [default]
    ocopies := [default]
    calls := [lastSync]
    mgmt := { Mgmt.reset with quarantine := [replayUnit 0] } }

/-- With its last call die 0 lets the copy go: it would have to load a checkpoint again. -/
theorem resync_lastSyncState : (lastSyncState.endCall lastSync 0 0).ocopies.map (fun c => c.resync) = [some 0] := by
  rw [State.endCall_ocopies]
  decide +kernel

/-- Refutes O47: in `lastSyncState` an OSYNC that returns OK changes a copy. -/
theorem not_replayedObjects : ¬ Obligations.ReplayedObjects := by
  unfold Obligations.ReplayedObjects
  intro h
  obtain ⟨-, hcalls, -⟩ := h
  obtain ⟨-, -, htail⟩ := hcalls 1 lastSync default lastSyncState rfl
  obtain ⟨-, hsync, -⟩ := htail 0 rfl rfl
  obtain ⟨t, hexec, -, hkept⟩ := hsync rfl (Nat.zero_le _) rfl
  obtain rfl : lastSyncState.endCall lastSync 0 0 = t :=
    Host.Outcome.next.inj ((readOnlyCall_sync (t0 := 0) (o := default) rfl rfl rfl rfl (Nat.zero_le _) rfl).symm.trans hexec)
  have hresync := resync_lastSyncState
  rw [hkept] at hresync
  exact absurd hresync (by decide +kernel)

end Sys2Proof.Machine
end

section
/-! Numbered flushes at their owner (R63, R158), and the refutation of `Obligations.Receipts`. -/

namespace Sys2Proof.Machine

/-! The answer of a numbered flush

`portFlush` answers with the W of the bytes that the request names, and folds the four bytes of its word. Every flush that a core sends names four bytes (`flushReq`), so the two agree there.
`Obligations.Receipts` speaks of every state, so also of one where a flush names more bytes, and a later line of them has a later W. -/

/-- A list in which only one value has an answer. -/
theorem findSome?_of_only {α β : Type} {f : α → Option β} {l : List α} {a : α} (ha : a ∈ l) (h : ∀ y ∈ l, f y = none ∨ y = a) : l.findSome? f = f a := by
  induction l with
  | nil => exact absurd ha List.not_mem_nil
  | cons y l ih =>
    rw [List.findSome?_cons]
    cases hy : f y with
    | some b =>
      obtain rfl : y = a := (h y List.mem_cons_self).resolve_left (by simp [hy])
      exact hy.symm
    | none =>
      by_cases hmem : a ∈ l
      · exact ih hmem fun z hz => h z (List.mem_cons_of_mem _ hz)
      · obtain rfl : a = y := (List.mem_cons.1 ha).resolve_right hmem
        exact (List.findSome?_eq_none_iff.2 fun z hz => (h z (List.mem_cons_of_mem _ hz)).resolve_right fun e => hmem (e ▸ hz)).trans hy.symm

section
variable {id : Nat} {x : Receipt} {r : Req} {s : State} (hx : x ∈ s.receipts) (hrop : x.rop = id) (hdone : x.done = none) (hplace : x.place ≠ 0) (hr : x.what.access = some r)
  (honly : ∀ y ∈ s.receipts, y.rop = id → y.done = none → y.place ≠ 0 → y = x)
include hx hrop hdone hplace hr honly

/-- The slice goes on with the one access that an operation left there. -/
theorem State.portStep_of_only : s.portStep id = s.portServe x r := by
  rw [State.portStep, findSome?_of_only hx fun y hy => ?_, hr]
  · simp [hrop, hdone, hplace]
  · cases y.what.access with
    | none => exact Or.inl rfl
    | some q =>
      by_cases hact : y.rop = id ∧ y.done = none ∧ y.place ≠ 0
      · obtain ⟨hyrop, hydone, hyplace⟩ := hact
        exact Or.inr (honly y hy hyrop hydone hyplace)
      · refine Or.inl (if_neg fun hc => hact ?_)
        simpa [and_assoc] using hc

/-- A numbered flush that is the first of its slice's input queue is folded. -/
theorem numberedRequest_flush (hacc : r.acc.isFlush = true) (hfirst : ∀ k ∈ s.queueAt x.owner (sliceOf r.addr), x.place ≤ k) :
    exec (.numberedRequest id) s = .next (portFlush s x r) := by
  change execNumberedRequest id s = _
  have hnone : (s.queueAt x.owner (sliceOf r.addr)).any (fun k => decide (k < x.place)) = false := by simpa using hfirst
  rw [execNumberedRequest, State.portStep_of_only hx hrop hdone hplace hr honly, State.portServe]
  simp [hacc, hnone]

end

theorem State.onLine_receipts (s : State) (ln : Nat) (f : Line → Line) : (s.onLine ln f).receipts = s.receipts := by
  unfold State.onLine
  split <;> rfl

theorem State.writePhys_receipts (s : State) (pa n : Nat) (data mask : QWord) : (s.writePhys pa n data mask).receipts = s.receipts := by
  unfold State.writePhys
  split
  · rfl
  · dsimp only
    split <;> rfl

theorem State.orderWrite_receipts (s : State) (d : Nat) (lease : BitVec 2) (pa n : Nat) (data mask : QWord) : (s.orderWrite d lease pa n data mask).receipts = s.receipts := by
  have hlines (f : Nat → Line → Line) (ls : List Nat) (t : State) : (ls.foldl (fun t ln => t.onLine ln (f ln)) t).receipts = t.receipts := by
    induction ls generalizing t with
    | nil => rfl
    | cons l ls ih => exact (ih _).trans (t.onLine_receipts l (f l))
  rw [State.orderWrite_eq, State.writePhys_receipts]
  exact hlines _ _ _

theorem State.flushHome_receipts (s : State) (r : Req) (op : CommOp) : (s.flushHome r op).receipts = s.receipts := by
  unfold State.flushHome
  dsimp only
  split
  · exact State.orderWrite_receipts _ _ _ _ _ _ _
  · exact (State.onLine_receipts _ _ _).trans (State.orderWrite_receipts _ _ _ _ _ _ _)

/-- The receipt of a numbered flush is DONE with the W of the bytes that the request names. -/
theorem portFlush_receipts {s : State} {x : Receipt} {r : Req} {op : CommOp} (hacc : r.acc = .flush op) : (portFlush s x r).receipts =
    updBy (fun y => y.is x.owner x.reqid x.rsn) (fun y => { y with done := some (.result 0 (s.nextW r.addr r.n)) }) s.receipts := by
  simp only [portFlush, hacc]
  change updBy _ _ (s.flushHome r op).receipts = _
  rw [State.flushHome_receipts]

/-- A flush of the first two lines of memory. -/
def wideFlush : Req := { (default : Req) with acc := .flush .iadd, n := 256 }

/-- The receipt of `wideFlush` at die 0: EXECUTING, and the first of its slice's input queue. -/
def wideFlushReceipt : Receipt := { (default : Receipt) with rop := 1, what := .flush wideFlush, place := 1 }

/-- `wideFlush` stands before its slice, and a write of the second line has a W that lies far ahead. -/
def wideFlushState : State := { State.reset with receipts := [wideFlushReceipt], lines := [(1, { (default : Line) with w := 1000000 })] }

theorem numberedRequest_wideFlushState : exec (.numberedRequest 1) wideFlushState = .next (portFlush wideFlushState wideFlushReceipt wideFlush) :=
  numberedRequest_flush (List.mem_singleton_self _) rfl rfl (by decide) rfl (fun _ hy _ _ _ => List.mem_singleton.1 hy) rfl (by decide +kernel)

/-- The W of the second line is among those of the flush's bytes, and not among those of its word. -/
theorem nextW_wideFlushState : wideFlushState.nextW 0 256 ≠ wideFlushState.nextW 0 4 := by decide +kernel

/-- Refutes O52: in `wideFlushState` the reply to a numbered flush does not bring the W of its word. -/
theorem not_receipts : ¬ Obligations.Receipts := by
  unfold Obligations.Receipts
  intro h
  obtain ⟨-, hserved, -⟩ := h
  obtain ⟨-, hflush⟩ := hserved 1 wideFlushReceipt wideFlush wideFlushState (List.mem_singleton_self _) rfl rfl (by decide) rfl (fun _ hy _ => List.mem_singleton.1 hy)
  obtain ⟨t, hexec, -, hreceipts, -⟩ := hflush .iadd rfl (by decide +kernel) ⟨by decide, rfl, fun _ hd => nomatch hd⟩
  obtain rfl : portFlush wideFlushState wideFlushReceipt wideFlush = t := Host.Outcome.next.inj (numberedRequest_wideFlushState.symm.trans hexec)
  rw [portFlush_receipts rfl] at hreceipts
  have hreply : [some (Reply.result 0 (wideFlushState.nextW 0 256))] = [some (Reply.result 0 (wideFlushState.nextW 0 4))] := congrArg (List.map Receipt.done) hreceipts
  exact nextW_wideFlushState (by simpa using hreply)

end Sys2Proof.Machine
end

section
/-! Hints (R180, R263, R264, R283, R284): what translations read, the lines that PFI and PFD start, and trace markers. -/

namespace Sys2Proof.Machine

/-! What a translation reads -/

/-- Two states that translate alike: the same tables, and no flushed word of a line on its way in one of them alone. -/
structure SameTables (s t : State) : Prop where
  mem : t.mem = s.mem
  free : t.free = s.free
  tlbs : t.tlbs = s.tlbs
  hostMode : t.hostMode = s.hostMode
  ctxs : t.ctxs = s.ctxs
  dies : t.dies = s.dies
  partials : t.partials = s.partials
  flushes : ∀ ln, t.flushesOf ln = s.flushesOf ln

section
variable {s t : State} (h : SameTables s t)
include h

theorem SameTables.readPhys_eq (pa n : Nat) : t.readPhys pa n = s.readPhys pa n := by
  simp only [State.readPhys, State.hostValue, h.mem, h.free]

theorem SameTables.windowGone_eq (pa : Nat) : t.windowGone pa = s.windowGone pa := by
  simp only [State.windowGone, State.die, h.dies]

theorem SameTables.walkFrom_eq (w : Who) (va a : Nat) (lvls : List Nat) : walkFrom t w va a lvls = walkFrom s w va a lvls := by
  induction lvls generalizing a with
  | nil => rfl
  | cons lvl rest ih => simp only [walkFrom, h.readPhys_eq, h.windowGone_eq, ih]

theorem SameTables.ctx_eq (asid : Nat) : t.ctx asid = s.ctx asid := by
  simp only [State.ctx, h.ctxs]

theorem SameTables.translate_eq (w : Who) (va : Nat) : t.translate w va = s.translate w va := by
  simp only [State.translate, State.walk, h.tlbs, h.hostMode, h.ctx_eq, h.walkFrom_eq]

theorem SameTables.reach_eq (w : Who) (k : Touch) (va : Nat) : t.reach w k va = s.reach w k va := by
  simp only [State.reach, h.translate_eq, h.windowGone_eq]

theorem SameTables.foldedMem_eq (m : List Host.Cell) (ln : Nat) : ({ t with mem := m } : State).foldedMem ln = ({ s with mem := m } : State).foldedMem ln := by
  simp only [State.foldedMem, State.partialsOf, h.partials]

theorem SameTables.readCombined_eq (pa n : Nat) : t.readCombined pa n = s.readCombined pa n := by
  simp only [State.readCombined, h.foldedMem_eq]
  simp only [h.flushes, h.partials, h.readPhys_eq, h.mem]

theorem SameTables.tableWord_eq (w : Who) (va : Nat) : t.tableWord w va = s.tableWord w va := by
  simp only [State.tableWord, h.reach_eq, h.readCombined_eq]

theorem SameTables.pageFmt_eq (w : Who) (e : TlbEntry) : pageFmt t w e = pageFmt s w e := by
  simp only [pageFmt, State.fmtEntry, h.tableWord_eq, h.ctx_eq]

theorem SameTables.frameAt_eq (w : Who) (e : TlbEntry) (va n : Nat) : t.frameAt w e va n = s.frameAt w e va n := by
  rw [State.frameAt, State.frameAt, h.pageFmt_eq]

end

theorem SameTables.refl (s : State) : SameTables s s := ⟨rfl, rfl, rfl, rfl, rfl, rfl, rfl, fun _ => rfl⟩

theorem SameTables.trans {s t u : State} (h : SameTables s t) (k : SameTables t u) : SameTables s u :=
  ⟨k.mem.trans h.mem, k.free.trans h.free, k.tlbs.trans h.tlbs, k.hostMode.trans h.hostMode, k.ctxs.trans h.ctxs, k.dies.trans h.dies, k.partials.trans h.partials,
    fun ln => (k.flushes ln).trans (h.flushes ln)⟩

/-! What hints leave as it is -/

/-- State `t` differs from `s` in what cores count and in requests that no translation reads. -/
structure Hinted (s t : State) : Prop where
  grp : t.grp = s.grp
  bundle : t.bundle = s.bundle
  me : t.me = s.me
  unit : t.unitOf t.grp = s.unitOf s.grp
  tables : SameTables s t

theorem Hinted.refl (s : State) : Hinted s s := ⟨rfl, rfl, rfl, rfl, SameTables.refl s⟩

theorem Hinted.trans {s t u : State} (h : Hinted s t) (k : Hinted t u) : Hinted s u :=
  ⟨k.grp.trans h.grp, k.bundle.trans h.bundle, k.me.trans h.me, k.unit.trans h.unit, h.tables.trans k.tables⟩

theorem Hinted.advance_grp {s t : State} (h : Hinted s t) (len : Nat) : (t.advance len).grp = (s.advance len).grp := by
  unfold State.advance State.onLanes State.inBundle
  rw [h.grp, h.bundle]

theorem State.onCore_hinted (s : State) (c : Nat) (f : Core → Core) : Hinted s (s.onCore c f) := by
  unfold State.onCore
  split <;> exact ⟨rfl, rfl, rfl, rfl, rfl, rfl, rfl, rfl, rfl, rfl, rfl, fun _ => rfl⟩

theorem State.addReq_load {r : Req} (hr : r.acc = .load) (s : State) : s.addReq r = { s with reqs := s.reqs ++ [{ r with id := s.nextId }], nextId := s.nextId + 1 } := by
  rw [State.addReq, if_pos hr]

theorem State.addReq_hinted {r : Req} (hr : r.acc = .load) (s : State) : Hinted s (s.addReq r) := by
  rw [State.addReq_load hr]
  refine ⟨rfl, rfl, rfl, rfl, rfl, rfl, rfl, rfl, rfl, rfl, rfl, fun ln => ?_⟩
  simp [State.flushesOf, hr]

/-! PFI (R283, R339) -/

/-- A core after a line of a PFI, by what the translation of its address gives. -/
def Core.prefetched (k : Core) (w : Who) (va : DWord) : Found → Core
  | .page e => k.askLine w.asid (lineOf (e.phys va.toNat))
  | .fail _ _ => { k with pfdrop := k.pfdrop + 1 }
  | .awaited => { k with pfis := k.pfis ++ [(w.bench, w.asid, va)] }

theorem prefetchAt_eq (c : Nat) (w : Who) (va : DWord) (s : State) : prefetchAt c w va s = s.onCore c (fun k => k.prefetched w va (s.reach w .fetch va.toNat)) := rfl

/-- What the lines of a PFI leave of their core, from `k` to `k'`: a fill on its way, a dropped line, or one whose translation is awaited. -/
def linesAsked (s : State) (w : Who) (k k' : Core) (l : List Nat) : Prop :=
  let bad (v : Nat) : Bool := match s.reach w .fetch v with | .fail _ _ => true | _ => false
  let waits (v : Nat) : Bool := match s.reach w .fetch v with | .awaited => true | _ => false
  k'.pfdrop = k.pfdrop + BitVec.ofNat 64 (l.filter bad).length ∧ k'.icache = k.icache ∧
    k'.pfis = k.pfis ++ (l.filter waits).map (fun v => (w.bench, w.asid, BitVec.ofNat 64 v)) ∧
    ∀ x, x ∈ k'.fills ↔ x ∈ k.fills ∨ (x ∉ k.icache ∧ ∃ v ∈ l, ∃ e, s.reach w .fetch v = .page e ∧ x = lineOf (e.phys v))

theorem linesAsked_nil (s : State) (w : Who) (k : Core) : linesAsked s w k k [] := by
  simp [linesAsked]

theorem linesAsked_cons {s : State} {w : Who} {k k1 k2 : Core} {v : Nat} {l : List Nat} (h1 : linesAsked s w k k1 [v]) (h2 : linesAsked s w k1 k2 l) : linesAsked s w k k2 (v :: l) := by
  obtain ⟨hdrop, hcache, hwait, hfill⟩ := h1
  obtain ⟨hdrop', hcache', hwait', hfill'⟩ := h2
  refine ⟨?_, hcache'.trans hcache, ?_, fun x => ?_⟩
  · rw [hdrop', hdrop, BitVec.add_assoc, ← BitVec.ofNat_add, ← List.length_append, ← List.filter_append, List.singleton_append]
  · rw [hwait', hwait, List.append_assoc, ← List.map_append, ← List.filter_append, List.singleton_append]
  · rw [hfill', hfill, hcache]
    simp only [List.mem_cons, List.not_mem_nil, or_false, exists_eq_or_imp, exists_eq_left]
    rw [or_assoc, ← and_or_left]

theorem Core.mem_askLine (k : Core) (asid line x : Nat) : x ∈ (k.askLine asid line).fills ↔ x ∈ k.fills ∨ (x ∉ k.icache ∧ x = line) := by
  unfold Core.askLine
  split
  · next h =>
    simp only [Bool.or_eq_true, List.contains_iff_mem] at h
    refine ⟨.inl, ?_⟩
    rintro (hx | ⟨hx, rfl⟩)
    · exact hx
    · exact h.resolve_left hx
  · next h =>
    simp only [Bool.or_eq_true, List.contains_iff_mem, not_or] at h
    simp only [List.mem_append, List.mem_singleton]
    exact or_congr_right ⟨fun hx => ⟨hx ▸ h.1, hx⟩, fun hx => hx.2⟩

theorem Core.askLine_keeps (k : Core) (asid line : Nat) : (k.askLine asid line).pfdrop = k.pfdrop ∧ (k.askLine asid line).icache = k.icache ∧ (k.askLine asid line).pfis = k.pfis := by
  unfold Core.askLine
  split <;> exact ⟨rfl, rfl, rfl⟩

theorem Core.prefetched_asks (s : State) (w : Who) (k : Core) (va : DWord) : linesAsked s w k (k.prefetched w va (s.reach w .fetch va.toNat)) [va.toNat] := by
  cases hreach : s.reach w .fetch va.toNat with
  | page e =>
    obtain ⟨hdrop, hcache, hwait⟩ := k.askLine_keeps w.asid (lineOf (e.phys va.toNat))
    refine ⟨?_, hcache, ?_, fun x => (k.mem_askLine _ _ x).trans ?_⟩
    · simp [Core.prefetched, hreach, hdrop]
    · simp [Core.prefetched, hreach, hwait]
    · simp [hreach]
  | fail a b => simp [linesAsked, Core.prefetched, hreach]
  | awaited => simp [linesAsked, Core.prefetched, hreach]

/-- The lines of a PFI one after the other. -/
theorem foldl_prefetchAt {s t : State} (h : Hinted s t) (c : Nat) (w : Who) (l : List DWord) :
    Hinted s (l.foldl (fun t v => prefetchAt c w v t) t) ∧ (l.foldl (fun t v => prefetchAt c w v t) t).reqs = t.reqs ∧
      linesAsked s w (t.core c) ((l.foldl (fun t v => prefetchAt c w v t) t).core c) (l.map BitVec.toNat) := by
  induction l generalizing t with
  | nil => exact ⟨h, rfl, linesAsked_nil s w (t.core c)⟩
  | cons v l ih =>
    have hstep : prefetchAt c w v t = t.onCore c (fun k => k.prefetched w v (s.reach w .fetch v.toNat)) := by
      rw [prefetchAt_eq, h.tables.reach_eq]
    have hasks := Core.prefetched_asks s w (t.core c) v
    obtain ⟨hh, hreqs, hlines⟩ := ih (h.trans (t.onCore_hinted c (fun k => k.prefetched w v (s.reach w .fetch v.toNat))))
    rw [State.core_onCore] at hlines
    rw [List.foldl_cons, hstep]
    exact ⟨hh, hreqs.trans (t.onCore_reqs c _), linesAsked_cons hasks hlines⟩

/-- The address of a line of a PFI: the `i`th after that of `va`, modulo 2^64. -/
def lineAfter (va : DWord) (i : Nat) : DWord := BitVec.ofNat 64 (va.toNat / 128 * 128 + 128 * i)

theorem prefetchLines_eq (n : Nat) (va : DWord) (s : State) :
    prefetchLines n va s = ((List.range (n + 1)).map (lineAfter va)).foldl (fun t v => prefetchAt (s.unitOf s.grp) s.me v t) s := by
  rw [List.foldl_map]
  rfl

/-- A PFI that has moved past, with the lines it asked for. -/
def pfiIssued (s t : State) (f : Fields) (l : List Nat) : Prop :=
  t.mem = s.mem ∧ t.grp = (s.advance f.form.len).grp ∧ t.reqs = s.reqs ∧ linesAsked s s.me (s.core (s.unitOf s.grp)) (t.core (s.unitOf s.grp)) l

theorem prefetchLines_issued (n : Nat) (va : DWord) (f : Fields) (s : State) :
    pfiIssued s ((prefetchLines n va s).advance f.form.len) f ((List.range (n + 1)).map (fun i => (lineAfter va i).toNat)) := by
  obtain ⟨hh, hreqs, hlines⟩ := foldl_prefetchAt (Hinted.refl s) (s.unitOf s.grp) s.me ((List.range (n + 1)).map (lineAfter va))
  rw [← prefetchLines_eq] at hh hreqs hlines
  rw [List.map_map] at hlines
  exact ⟨hh.tables.mem, hh.advance_grp _, hreqs, hlines⟩

theorem advance_issued (f : Fields) (s : State) : pfiIssued s (s.advance f.form.len) f [] :=
  ⟨rfl, rfl, rfl, linesAsked_nil s s.me (s.core (s.unitOf s.grp))⟩

/-- A branch offset in words, as a byte offset. -/
theorem ofInt_sextNat {w : Nat} (imm : BitVec 24) : BitVec.ofInt 64 (4 * sextNat w imm.toNat) = (imm.setWidth w).signExtend 64 <<< 2 := by
  rw [sextNat, BitVec.ofNat_toNat, BitVec.shiftLeft_eq_mul_twoPow, BitVec.signExtend, BitVec.ofInt_mul, BitVec.mul_comm]
  rfl

/-! PFD (R263) -/

/-- Where a lane's PFD goes: the lane and the first byte of the line, for a page of the device. -/
def pfdHit (s : State) (f : Fields) (p : Nat × Lane) : Option (Nat × Nat) :=
  match s.reach s.me .load (vaWith s.grp f (immOff f) p.2).toNat with
  | .page e =>
    let pa := (s.spot s.me 0 p.1 (vaWith s.grp f (immOff f) p.2) 1 e).pa
    if isHost pa then none else some (p.1, pa / 128 * 128)
  | _ => none

/-- A lane whose line cannot be translated. -/
def pfdDrops (s : State) (f : Fields) (p : Nat × Lane) : Bool :=
  match s.reach s.me .load (vaWith s.grp f (immOff f) p.2).toNat with
  | .page _ => false
  | _ => true

/-- The request of a lane's PFD. -/
def pfdReq (slice : Bool) (f : Fields) (s : State) (p : Nat × Lane) (e : TlbEntry) : Req :=
  let sp := s.spot s.me 0 p.1 (vaWith s.grp f (immOff f) p.2) 1 e
  { spotReq s { f with md := 0 } .load sp with
    addr := sp.pa / 128 * 128, n := 1, mask := 0, six := 0, ext := .none, l1 := slice, target := s.routeOf (s.dieOf s.grp) sp.pa }

theorem prefetch_page {slice : Bool} {f : Fields} {s : State} {p : Nat × Lane} {e : TlbEntry} (h : s.reach s.me .load (vaWith s.grp f (immOff f) p.2).toNat = .page e) :
    prefetch slice f s p = if isHost (s.spot s.me 0 p.1 (vaWith s.grp f (immOff f) p.2) 1 e).pa then s else s.addReq (pfdReq slice f s p e) := by
  simp only [prefetch, h]
  rfl

theorem pfdHit_page {f : Fields} {s : State} {p : Nat × Lane} {e : TlbEntry} (h : s.reach s.me .load (vaWith s.grp f (immOff f) p.2).toNat = .page e) :
    pfdHit s f p = if isHost (s.spot s.me 0 p.1 (vaWith s.grp f (immOff f) p.2) 1 e).pa then none
      else some (p.1, (s.spot s.me 0 p.1 (vaWith s.grp f (immOff f) p.2) 1 e).pa / 128 * 128) := by
  simp only [pfdHit, h]

theorem prefetch_dropped {slice : Bool} {f : Fields} {s : State} {p : Nat × Lane} (h : pfdDrops s f p = true) :
    prefetch slice f s p = s.onCore (s.unitOf s.grp) (fun c => { c with pfdrop := c.pfdrop + 1 }) := by
  unfold pfdDrops at h
  unfold prefetch
  split at h
  · cases h
  · next hnone =>
    dsimp only
    split
    · next e he => exact absurd he (hnone e)
    · rfl

/-- What the lanes of a PFD leave, from `t` to `t'`: their loads, which fill no register, and the count of those dropped. -/
def pfdLanes (s t t' : State) (slice : Bool) (f : Fields) (l : List (Nat × Lane)) : Prop :=
  Hinted s t' ∧ (∃ q, t'.reqs = t.reqs ++ q ∧ q.map (fun r => (r.lane, r.addr)) = l.filterMap (pfdHit s f) ∧
    ∀ r ∈ q, r.acc = .load ∧ r.l1 = slice ∧ r.ext.words_ = 0 ∧ r.op = 0 ∧ r.gid = s.grp.uid) ∧
  (t'.core (s.unitOf s.grp)).pfdrop = (t.core (s.unitOf s.grp)).pfdrop + BitVec.ofNat 64 (l.filter (pfdDrops s f)).length

section
variable {s t : State} {slice : Bool} {f : Fields}

/-- A lane whose line goes nowhere and is not dropped: it lies in a window. -/
theorem pfdLanes_same (h : Hinted s t) {l : List (Nat × Lane)} (hhit : l.filterMap (pfdHit s f) = []) (hdrop : l.filter (pfdDrops s f) = []) : pfdLanes s t t slice f l := by
  refine ⟨h, ⟨[], (List.append_nil _).symm, hhit.symm, fun r hr => absurd hr List.not_mem_nil⟩, ?_⟩
  simp [hdrop]

theorem pfdLanes_cons {t1 t2 : State} {p : Nat × Lane} {l : List (Nat × Lane)} (h1 : pfdLanes s t t1 slice f [p]) (h2 : pfdLanes s t1 t2 slice f l) :
    pfdLanes s t t2 slice f (p :: l) := by
  obtain ⟨-, ⟨q, hreqs, hmap, hall⟩, hdrop⟩ := h1
  obtain ⟨hh, ⟨q', hreqs', hmap', hall'⟩, hdrop'⟩ := h2
  refine ⟨hh, ⟨q ++ q', ?_, ?_, fun r hr => (List.mem_append.1 hr).elim (hall r) (hall' r)⟩, ?_⟩
  · rw [hreqs', hreqs, List.append_assoc]
  · rw [List.map_append, hmap, hmap', ← List.filterMap_append, List.singleton_append]
  · rw [hdrop', hdrop, BitVec.add_assoc, ← BitVec.ofNat_add, ← List.length_append, ← List.filter_append, List.singleton_append]

variable (h : Hinted s t)
include h

theorem Hinted.reach_eq (p : Nat × Lane) : t.reach t.me .load (vaWith t.grp f (immOff f) p.2).toNat = s.reach s.me .load (vaWith s.grp f (immOff f) p.2).toNat := by
  rw [h.tables.reach_eq, h.me, h.grp]

theorem Hinted.spot_pa_eq (p : Nat × Lane) (e : TlbEntry) :
    (t.spot t.me 0 p.1 (vaWith t.grp f (immOff f) p.2) 1 e).pa = (s.spot s.me 0 p.1 (vaWith s.grp f (immOff f) p.2) 1 e).pa := by
  rw [h.grp, h.me]
  exact congrArg Prod.fst (h.tables.frameAt_eq _ _ _ _)

theorem prefetch_lane (p : Nat × Lane) : pfdLanes s t (prefetch slice f t p) slice f [p] := by
  cases hreach : s.reach s.me .load (vaWith s.grp f (immOff f) p.2).toNat with
  | page e =>
    have hdrop : [p].filter (pfdDrops s f) = [] := by simp [pfdDrops, hreach]
    rw [prefetch_page ((h.reach_eq p).trans hreach), h.spot_pa_eq]
    split
    · next hhost => exact pfdLanes_same h (List.filterMap_cons_none ((pfdHit_page hreach).trans (if_pos hhost))) hdrop
    · next hhost =>
      have hload : (pfdReq slice f t p e).acc = .load := rfl
      have hhit : [p].filterMap (pfdHit s f) = [((pfdReq slice f t p e).lane, (pfdReq slice f t p e).addr)] := by
        refine List.filterMap_cons_some ((pfdHit_page hreach).trans ((if_neg hhost).trans ?_))
        rw [← h.spot_pa_eq]
        rfl
      refine ⟨h.trans (State.addReq_hinted hload t), ?_, ?_⟩
      · rw [State.addReq_load hload]
        refine ⟨[{ pfdReq slice f t p e with id := t.nextId }], rfl, hhit.symm, fun r hr => ?_⟩
        obtain rfl := List.mem_singleton.1 hr
        exact ⟨rfl, rfl, rfl, rfl, congrArg Group.uid h.grp⟩
      · rw [State.addReq_load hload, hdrop, List.length_nil]
        exact (BitVec.add_zero _).symm
  | _ =>
    have hdrops : pfdDrops s f p = true := by simp [pfdDrops, hreach]
    rw [prefetch_dropped (by rw [pfdDrops, h.reach_eq, hreach]), h.unit]
    refine ⟨h.trans (t.onCore_hinted _ _), ⟨[], by rw [State.onCore_reqs, List.append_nil], by simp [pfdHit, hreach], fun r hr => absurd hr List.not_mem_nil⟩, ?_⟩
    rw [State.core_onCore]
    simp [hdrops]

theorem foldl_prefetch (l : List (Nat × Lane)) : pfdLanes s t (l.foldl (prefetch slice f) t) slice f l := by
  induction l generalizing t with
  | nil => exact pfdLanes_same h rfl rfl
  | cons p l ih =>
    have hstep : pfdLanes s t (prefetch slice f t p) slice f [p] := prefetch_lane h p
    exact pfdLanes_cons hstep (ih hstep.1)

end

section
variable {s : State} {slice : Bool} {f : Fields}

theorem pfd_of_noBase (hbase : hintBase s f = false) : pfd slice f s = s.advance f.form.len := by
  simp [pfd, hbase]

theorem pfd_awaits (hbase : hintBase s f = true) (hwait : ∃ p ∈ s.actives f.gd, pfAwaited s f p = true) : pfd slice f s = s := by
  simp only [pfd, hbase, Bool.true_and, List.any_eq_true.2 hwait, if_true]

theorem pfd_goes (hbase : hintBase s f = true) (hready : ∀ p ∈ s.actives f.gd, pfAwaited s f p = false) :
    pfd slice f s = ((s.actives f.gd).foldl (prefetch slice f) s).advance f.form.len := by
  have hany : (s.actives f.gd).any (pfAwaited s f) = false := List.any_eq_false.2 fun p hp => by simp [hready p hp]
  simp only [pfd, hbase, hany, Bool.true_and, Bool.false_eq_true, if_false, if_true]

end

/-! HINT (R284, R401) -/

theorem State.onLine_issuer (s : State) (ln : Nat) (k : Line → Line) : (s.onLine ln k).grp = s.grp ∧ (s.onLine ln k).bundle = s.bundle := by
  unfold State.onLine
  split <;> exact ⟨rfl, rfl⟩

theorem foldl_onLine_issuer (k : Nat → Line → Line) (ls : List Nat) (s : State) :
    (ls.foldl (fun t ln => t.onLine ln (k ln)) s).grp = s.grp ∧ (ls.foldl (fun t ln => t.onLine ln (k ln)) s).bundle = s.bundle := by
  induction ls generalizing s with
  | nil => exact ⟨rfl, rfl⟩
  | cons l ls ih =>
    obtain ⟨hg, hb⟩ := s.onLine_issuer l (k l)
    obtain ⟨hg', hb'⟩ := ih (s.onLine l (k l))
    exact ⟨hg'.trans hg, hb'.trans hb⟩

theorem State.writePhys_issuer (s : State) (pa n : Nat) (data mask : QWord) : (s.writePhys pa n data mask).grp = s.grp ∧ (s.writePhys pa n data mask).bundle = s.bundle := by
  unfold State.writePhys
  split
  · exact ⟨rfl, rfl⟩
  · dsimp only
    split <;> exact ⟨rfl, rfl⟩

/-- A write at its home leaves the issuing group and its bundle alone. -/
theorem State.orderWrite_issuer (s : State) (d : Nat) (lease : BitVec 2) (pa n : Nat) (data mask : QWord) :
    (s.orderWrite d lease pa n data mask).grp = s.grp ∧ (s.orderWrite d lease pa n data mask).bundle = s.bundle := by
  obtain ⟨hg, hb⟩ := foldl_onLine_issuer (s.marked lease pa n) (linesOf pa n) s
  rw [State.orderWrite_eq]
  obtain ⟨hg', hb'⟩ := (((linesOf pa n).foldl (fun t ln => t.onLine ln (s.marked lease pa n ln)) s).noteWrite d (granuleOf pa)).writePhys_issuer pa n data (s.openMask pa mask n)
  exact ⟨hg'.trans hg, hb'.trans hb⟩

theorem State.sendMsix_issuer (s : State) (v : Nat) : (s.sendMsix v).grp = s.grp ∧ (s.sendMsix v).bundle = s.bundle ∧ (s.sendMsix v).cores = s.cores := by
  unfold State.sendMsix
  split
  · exact ⟨rfl, rfl, rfl⟩
  · dsimp only
    split <;> exact ⟨rfl, rfl, rfl⟩

theorem State.failRestoring_issuer (s : State) (kind : Nat) (unit : BitVec 32) :
    (s.failRestoring kind unit).grp = s.grp ∧ (s.failRestoring kind unit).bundle = s.bundle ∧ (s.failRestoring kind unit).cores = s.cores := by
  unfold State.failRestoring
  split <;> exact ⟨rfl, rfl, rfl⟩

/-- An entry of the error log leaves the issuing group, its bundle and the cores alone. -/
theorem State.logError_issuer (s : State) (die kind : Nat) (unit : BitVec 32) (tag : Nat) (addr : DWord) :
    (s.logError die kind unit tag addr).grp = s.grp ∧ (s.logError die kind unit tag addr).bundle = s.bundle ∧ (s.logError die kind unit tag addr).cores = s.cores := by
  obtain ⟨hg, hb, hc⟩ := s.failRestoring_issuer kind unit
  obtain ⟨hg', hb', hc'⟩ := (s.failRestoring kind unit).sendMsix_issuer Config.errorVector
  exact ⟨hg'.trans hg, hb'.trans hb, hc'.trans hc⟩

/-- Beside the discovery structure every byte of a write is written (R370). -/
theorem State.openMask_beside {s : State} {pa n : Nat} (hdisc : ∀ d, s.hub.disc = some d → pa + n ≤ d * 2 ^ 37 ∨ d * 2 ^ 37 + 2112 ≤ pa) (mask : QWord) : s.openMask pa mask n = mask := by
  induction n with
  | zero => rfl
  | succ n ih =>
    rw [State.openMask, ih fun d hd => (hdisc d hd).imp_left (Nat.le_of_succ_le)]
    cases hd : s.hub.disc with
    | none => rfl
    | some d =>
      have := hdisc d hd
      exact if_neg (by omega)

theorem and_fullMask_16 (x : QWord) : x &&& fullMask 16 = x := by
  have h : fullMask 16 = BitVec.allOnes 128 := by decide
  rw [h, BitVec.and_allOnes]

theorem and_not_fullMask_16 (x : QWord) : x &&& ~~~fullMask 16 = 0 := by
  have h : ~~~fullMask 16 = (0 : QWord) := by decide
  rw [h]
  exact BitVec.and_zero

/-- A write of 16 whole bytes in device memory, beside the discovery structure. -/
theorem State.orderWrite_whole {s : State} {pa : Nat} (hdisc : ∀ d, s.hub.disc = some d → pa + 16 ≤ d * 2 ^ 37 ∨ d * 2 ^ 37 + 2112 ≤ pa) (hhost : isHost pa = false) (d : Nat) (lease : BitVec 2)
    (data : QWord) : (s.orderWrite d lease pa 16 data (fullMask 16)).mem = wrBytes s.mem pa 16 data.toNat := by
  rw [State.orderWrite_mem, State.openMask_beside hdisc, State.writePhys, if_neg (by simp [hhost]), and_fullMask_16]
  show wrBytes s.mem pa 16 ((BitVec.ofNat 128 (rdBytes s.mem pa 16) &&& ~~~fullMask 16) ||| data).toNat = _
  rw [and_not_fullMask_16]
  exact congrArg (fun x => wrBytes s.mem pa 16 (BitVec.toNat x)) BitVec.zero_or

theorem traceMark_off {s : State} {v : Nat} (h : (s.core (s.unitOf s.grp)).trace = none ∨ s.isSealed = true) : traceMark v s = s := by
  cases htrace : (s.core (s.unitOf s.grp)).trace with
  | none => simp [traceMark, htrace]
  | some x =>
    have hsealed : s.isSealed = true := h.resolve_left (by simp [htrace])
    simp [traceMark, htrace, hsealed]

section
variable {s : State} {v len used : Nat} {a : DWord} (hsealed : s.isSealed = false) (htrace : (s.core (s.unitOf s.grp)).trace = some (a, len, used))
include hsealed htrace

theorem traceMark_full (hfull : len < used + 16) : traceMark v s =
    (s.onCore (s.unitOf s.grp) (fun k => { k with trace := none })).logError (s.dieOf s.grp) 2 (coreUnit (s.unitOf s.grp)) 0 a := by
  simp [traceMark, htrace, hsealed, hfull]

theorem traceMark_room (hroom : used + 16 ≤ len) : traceMark v s =
    (s.orderWrite (s.dieOf s.grp) 1 (a.toNat + used) 16 (BitVec.ofNat 128 (traceEntry s v)) (fullMask 16)).onCore (s.unitOf s.grp)
      (fun k => { k with trace := some (a, len, used + 16) }) := by
  simp [traceMark, htrace, hsealed, Nat.not_lt.2 hroom]

theorem traceMark_issuer : (traceMark v s).grp = s.grp ∧ (traceMark v s).bundle = s.bundle := by
  by_cases hfull : len < used + 16
  · rw [traceMark_full hsealed htrace hfull]
    obtain ⟨hg, hb, -⟩ := (s.onCore (s.unitOf s.grp) (fun k => { k with trace := none })).logError_issuer (s.dieOf s.grp) 2 (coreUnit (s.unitOf s.grp)) 0 a
    have hcore := s.onCore_hinted (s.unitOf s.grp) (fun k => { k with trace := none })
    exact ⟨hg.trans hcore.grp, hb.trans hcore.bundle⟩
  · rw [traceMark_room hsealed htrace (Nat.not_lt.1 hfull)]
    obtain ⟨hg, hb⟩ := s.orderWrite_issuer (s.dieOf s.grp) 1 (a.toNat + used) 16 (BitVec.ofNat 128 (traceEntry s v)) (fullMask 16)
    have hcore := (s.orderWrite (s.dieOf s.grp) 1 (a.toNat + used) 16 (BitVec.ofNat 128 (traceEntry s v)) (fullMask 16)).onCore_hinted (s.unitOf s.grp)
      (fun k => { k with trace := some (a, len, used + 16) })
    exact ⟨hcore.grp.trans hg, hcore.bundle.trans hb⟩

/-- A full buffer stops tracing and leaves memory as it is. -/
theorem traceMark_stops (hfull : len < used + 16) : (traceMark v s).mem = s.mem ∧ ((traceMark v s).core (s.unitOf s.grp)).trace = none := by
  rw [traceMark_full hsealed htrace hfull]
  obtain ⟨-, -, hcores⟩ := (s.onCore (s.unitOf s.grp) (fun k => { k with trace := none })).logError_issuer (s.dieOf s.grp) 2 (coreUnit (s.unitOf s.grp)) 0 a
  rw [State.core_congr hcores, State.core_onCore, State.logError_mem, State.onCore_mem]
  exact ⟨rfl, rfl⟩

/-- A marker stands behind the ones before it. -/
theorem traceMark_writes (hroom : used + 16 ≤ len) (hhost : isHost (a.toNat + used) = false)
    (hdisc : ∀ d, s.hub.disc = some d → a.toNat + used + 16 ≤ d * 2 ^ 37 ∨ d * 2 ^ 37 + 2112 ≤ a.toNat + used) :
    (traceMark v s).mem = wrBytes s.mem (a.toNat + used) 16 (traceEntry s v % 2 ^ 128) ∧ ((traceMark v s).core (s.unitOf s.grp)).trace = some (a, len, used + 16) := by
  rw [traceMark_room hsealed htrace hroom, State.core_onCore, State.onCore_mem, State.orderWrite_whole hdisc hhost, BitVec.toNat_ofNat]
  exact ⟨rfl, rfl⟩

end

/-! The hints' instructions -/

section
variable {s : State} {f : Fields}

theorem exec_hinted {i : Instr} (hi : i ∈ ([.pfi f, .pfiX f, .pfdL1 f, .pfdSlice f, .yield f, .hint f] : List Instr)) : ∃ t, exec i s = hinted s t := by
  simp only [List.mem_cons, List.not_mem_nil, or_false] at hi
  rcases hi with rfl | rfl | rfl | rfl | rfl | rfl <;> exact ⟨_, rfl⟩

theorem hinted_method {m : Method} (hm : s.grp.method = some m) (t : State) : hinted s t = .next (methodTrap 3 m s) := by
  rw [hinted, hm]

variable (hm : s.grp.method = none)
include hm

theorem hinted_none (t : State) : hinted s t = .next t := by
  rw [hinted, hm]

theorem exec_pfi : exec (.pfi f) s = .next ((prefetchLines 0 (s.bundle.pc + ((f.imm.setWidth 24 : BitVec 24).signExtend 64 <<< 2)) s).advance f.form.len) := by
  rw [← ofInt_sextNat]
  exact hinted_none hm _

/-- The target of an extended PFI: its literal, or an offset from the PC. -/
def pfiTarget (s : State) (f : Fields) : DWord := if f.form.hasLit then f.lit else s.bundle.pc + ((f.imm.setWidth 16 : BitVec 16).signExtend 64 <<< 2)

theorem exec_pfiX : exec (.pfiX f) s = .next ((if s.anyActive f.gd then prefetchLines (f.md.toNat % 8) (pfiTarget s f) s else s).advance f.form.len) := by
  rw [pfiTarget, ← ofInt_sextNat]
  exact hinted_none hm _

theorem exec_pfd {k : Instr × Bool} (hk : k ∈ ([(.pfdL1 f, false), (.pfdSlice f, true)] : List (Instr × Bool))) : exec k.1 s = .next (pfd k.2 f s) := by
  simp only [List.mem_cons, List.not_mem_nil, or_false] at hk
  rcases hk with rfl | rfl <;> exact hinted_none hm _

theorem exec_hint : exec (.hint f) s = .next ((if s.anyActive f.gd then traceMark f.imm.toNat s else s).advance f.form.len) := hinted_none hm _

end

/-- Settles O51: in a method a hint is a method trap; elsewhere it moves past, with the lines it started or the marker it wrote. -/
theorem hints : Obligations.Hints := by
  unfold Obligations.Hints
  intro f s c on starts line
  refine ⟨fun m hm i hi => ?_, fun hm => ⟨?_, ?_, fun k hk => ?_, hinted_none hm _, fun hoff => ?_, fun a len used hon hsealed htrace => ?_⟩⟩
  · obtain ⟨t, ht⟩ := exec_hinted (s := s) hi
    rw [ht, hinted_method hm]
  · exact ⟨_, exec_pfi hm, prefetchLines_issued 0 _ f s⟩
  · refine ⟨_, exec_pfiX hm, ?_⟩
    by_cases hon : on = []
    · rw [if_pos hon, State.anyActive_of_nil hon]
      exact advance_issued f s
    · rw [if_neg hon, State.anyActive_of_ne_nil hon]
      exact prefetchLines_issued (f.md.toNat % 8) (pfiTarget s f) f s
  · rw [exec_pfd hm hk]
    refine ⟨fun hbase => congrArg Host.Outcome.next (pfd_of_noBase hbase), fun hbase hwait => congrArg Host.Outcome.next (pfd_awaits hbase hwait), fun hbase hready => ?_⟩
    obtain ⟨hh, ⟨q, hreqs, hmap, hall⟩, hdrop⟩ := foldl_prefetch (slice := k.2) (f := f) (Hinted.refl s) on
    exact ⟨_, q, congrArg Host.Outcome.next (pfd_goes hbase hready), hh.tables.mem, hh.advance_grp _, hreqs, hmap, hall, hdrop⟩
  · rw [exec_hint hm]
    rcases hoff with hnone | hoff
    · rw [State.anyActive_of_nil hnone, if_neg Bool.false_ne_true]
    · rw [traceMark_off hoff, ite_self]
  · obtain ⟨hgrp, hbundle⟩ := traceMark_issuer (v := f.imm.toNat) hsealed htrace
    refine ⟨_, exec_hint hm, ?_⟩
    rw [State.anyActive_of_ne_nil hon, if_pos rfl]
    refine ⟨State.advance_lanes_congr (congrArg Group.lanes hgrp) hbundle _, traceMark_stops hsealed htrace, fun hroom hhost hinv hdisc => ?_⟩
    obtain ⟨hmem, hcore⟩ := traceMark_writes (v := f.imm.toNat) hsealed htrace hroom hhost hdisc
    rw [State.advance_mem, hmem]
    refine ⟨hcore, fun b hb => rdByte_wrBytes_out s.mem _ 16 _ b hinv hb, (rdBytes_wrBytes s.mem _ 16 _ hinv).trans ?_⟩
    exact Nat.mod_mod _ _

end Sys2Proof.Machine
end

section
/-! Operand codes and fields of words (R166 to R171): what the encoder puts into a field the decoder reads back, and what it reads is in range. -/

namespace Sys2Proof.Enc

/-! Operand codes (R169 to R171) -/

/-- An operand that a code names has a code. -/
theorem codable_of_operandOf {x : BitVec 11} {o : Operand} (h : operandOf x = some o) : codable o = true := by
  unfold operandOf at h
  repeat' split at h
  all_goals cases h
  all_goals simp only [codable, decide_eq_true_eq]
  · assumption
  · bv_omega

/-- Table 6 read back: the code of an operand names it. -/
theorem operandOf_codeOf {o : Operand} (h : codable o = true) : operandOf (codeOf o) = some o := by
  cases o with
  | vec n => exact if_pos (of_decide_eq_true h)
  | scl n => revert n; decide
  | prd n => revert n; decide
  | gap c => revert c; decide +kernel
  | int c => revert c; decide
  | fp c => revert c; decide
  | none | num | lit => cases h

theorem low_low (n : Nat) (x : BitVec 11) : low n (low n x) = low n x := by
  simp only [low, BitVec.and_assoc, BitVec.and_self]

/-! Fields by slot -/

/-- A base field read as its slot says is within its range. -/
theorem slotBaseOk_slotBase (s : Slot) (x : BitVec 6) : slotBaseOk s (slotBase s x) = true := by
  unfold slotBase slotBaseOk
  split
  · rfl
  · rw [Bool.and_eq_true, decide_eq_true_eq, beq_iff_eq, low_low]
    refine ⟨?_, rfl⟩
    rw [BitVec.lt_def, low, BitVec.toNat_and]
    exact Nat.lt_of_le_of_lt Nat.and_le_left (by bv_omega)
  · split <;> simp only [decide_eq_true_eq]
    · have : (x &&& 7).toNat ≤ 7 := by rw [BitVec.toNat_and]; exact Nat.and_le_right
      bv_omega
    · bv_omega
    · bv_omega

/-- An extended field read as its slot says is within its range. -/
theorem slotExtOk_of_slotExt {s : Slot} {x : BitVec 11} {o : Operand} (h : slotExt s x = .ok o) : slotExtOk s o = true := by
  unfold slotExt at h
  unfold slotExtOk
  split at h
  · cases h; rfl
  · next b n =>
    cases h
    by_cases hn : n = 0 <;> simp [hn, low_low]
  · split at h <;> cases h
    next ho => exact codable_of_operandOf ho

theorem setWidth_setWidth_of_lt {n : BitVec 11} (h : n < 64) : (n.setWidth 6).setWidth 11 = n := by bv_omega

/-- A base field within its range is read back from its six bits. -/
theorem slotBase_field6 {s : Slot} {o : Operand} (h : slotBaseOk s o = true) : slotBase s (field6 o) = o := by
  unfold slotBaseOk at h
  unfold slotBase
  split at h
  · exact (of_decide_eq_true h).symm
  · split at h
    · next x =>
      obtain ⟨hx, hl⟩ := Bool.and_eq_true_iff.mp h
      simp only [field6, setWidth_setWidth_of_lt (of_decide_eq_true hx), beq_iff_eq.mp hl]
    · cases h
  · split at h
    · split at h
      · next n =>
        have hn : n < 8 := of_decide_eq_true h
        simp only [field6]
        congr 1
        revert n
        decide
      · cases h
    · split at h
      · rfl
      · cases h
    · split at h
      · rfl
      · cases h
    · split at h
      · simp only [field6, setWidth_setWidth_of_lt (of_decide_eq_true h)]
      · cases h
    · split at h
      · simp only [field6, setWidth_setWidth_of_lt (of_decide_eq_true h)]
      · cases h

/-- An extended field within its range is read back from its code. -/
theorem slotExt_codeOf {s : Slot} {o : Operand} (h : slotExtOk s o = true) : slotExt s (codeOf o) = .ok o := by
  unfold slotExtOk at h
  unfold slotExt
  split at h
  · rw [of_decide_eq_true h]
  · next b n =>
    split at h
    · next hn => rw [of_decide_eq_true h, hn]; rfl
    · next hn =>
      split at h
      · simp only [hn, if_false, codeOf, beq_iff_eq.mp h]
      · cases h
  · rw [operandOf_codeOf h]

/-! Fields of words (R166, R168, R170) -/

theorem extractLsb'_all {w lo : Nat} (x : BitVec w) (h : lo = 0) : x.extractLsb' lo w = x := by
  rw [h, BitVec.extractLsb'_eq_self]

@[simp] theorem formOf_word0 (form : Form) (maj : BitVec 6) (b : BitVec 24) : formOf (word0 form maj b) = form := by
  have hlen : fld (word0 form maj b) 30 2 = lenBits form := by
    simp (disch := decide) only [fld, word0, BitVec.extractLsb'_append_eq_of_le, extractLsb'_all, -Nat.reduceAdd]
  rw [formOf, hlen]
  cases form <;> rfl

@[simp] theorem fld_word0_maj (form : Form) (maj : BitVec 6) (b : BitVec 24) : fld (word0 form maj b) 24 6 = maj := by
  simp (disch := decide) only [fld, word0, BitVec.extractLsb'_append_eq_of_le, BitVec.extractLsb'_append_eq_of_add_le, extractLsb'_all, -Nat.reduceAdd]

theorem fld_word0_of_le (form : Form) (maj : BitVec 6) (b : BitVec 24) {lo n : Nat} (h : lo + n ≤ 24) :
    fld (word0 form maj b) lo n = b.extractLsb' lo n := by
  simp (disch := omega) only [fld, word0, BitVec.extractLsb'_append_eq_of_add_le, -Nat.reduceAdd]

/-- The two words of a literal, low word first, are the literal (R167). -/
theorem litWords_append (x : BitVec 64) : ((x >>> 32).setWidth 32 ++ x.setWidth 32 : BitVec 64) = x := by
  have hlo : x.setWidth 32 = x.extractLsb' 0 32 := by ext; simp
  have hhi : (x >>> 32).setWidth 32 = x.extractLsb' 32 32 := by ext; simp
  rw [hlo, hhi]
  exact (BitVec.extractLsb'_append_extractLsb'_eq_extractLsb' rfl).trans (extractLsb'_all x rfl)

theorem bit_eq_one (b : Bool) : (bit b == 1) = b := by cases b <;> rfl

end Sys2Proof.Enc
end

section
/-! What the encoding tables say of a signature beside its slots (R168, R170, R177): facts of all keys. -/

namespace Sys2Proof.Enc

/-- True for a major whose operations are of format B3, so that their base form holds FN (R168). -/
def isB3 (maj : Nat) : Bool :=
  match sigOf maj 0 0 with
  | some s => s.fmt == .b3
  | none => true

/-- What the signature of every operation keeps: where the immediate stands as operand B, B is an operand (R206); SETS has no destination (R209) and a
branch no operand B (R188); NOP, TGT, the dual form and the hints have no signature; only majors below 0x38 have a base form; SUB is 0, or 1 in four majors; FN is 0 where
a format has no FN and where FN does not select; and the operations of one major are all of format B3 or none is. -/
structure Tabled (k : Key) (s : Sig) : Prop where
  immTakes : immB k.maj.toNat = true → takesLit s.b = true
  setsD : k.maj.toNat = 0x14 → s.d = .no
  branchB : k.maj.toNat = 0x01 ∨ k.maj.toNat = 0x02 → s.b = .no
  maj : k.maj.toNat ≠ 0 ∧ k.maj.toNat ≠ 5 ∧ k.maj.toNat ≠ 0x39 ∧ k.maj.toNat < 0x3C
  base : s.fmt = .x ∨ k.maj.toNat < 0x38
  sub : k.sub.toNat = 0 ∨ k.sub.toNat = 1 ∧ (k.maj.toNat = 0x08 ∨ k.maj.toNat = 0x0A ∨ k.fn.toNat = 0 ∧ (k.maj.toNat = 0x2A ∨ k.maj.toNat = 0x2B))
  fn : k.maj.toNat ∈ [0x01, 0x02, 0x04, 0x06, 0x13, 0x14, 0x15, 0x16, 0x17, 0x18, 0x25, 0x2C, 0x31, 0x37] → k.fn.toNat = 0
  b3 : k.maj.toNat < 0x38 → k.sub.toNat = 0 → isB3 k.maj.toNat = (s.fmt == .b3)

theorem sub_le_one {m fn sub : Nat} {s : Sig} (h : sigOf m fn sub = some s) : sub < 2 := by
  match sub, h with
  | 0, _ => omega
  | 1, _ => omega
  | n + 2, h =>
    unfold sigOf iarith logic atom at h
    split at h <;> simp at h

theorem sigOf_slots : ∀ (m : Fin 64) (fn : Fin 8) (sub : Fin 2), ∀ s ∈ sigOf m fn sub,
    (immB m = true → takesLit s.b = true) ∧ (m.val = 0x14 → s.d = .no) ∧ (m.val = 0x01 ∨ m.val = 0x02 → s.b = .no) ∧
    (s.fmt = .x ∨ m.val < 0x38) := by
  decide +kernel

theorem sigOf_keys : ∀ (m : Fin 64) (fn : Fin 8) (sub : Fin 2), (sigOf m fn sub).isSome = true →
    (m.val ≠ 0 ∧ m.val ≠ 5 ∧ m.val ≠ 0x39 ∧ m.val < 0x3C) ∧
    (sub.val = 0 ∨ sub.val = 1 ∧ (m.val = 0x08 ∨ m.val = 0x0A ∨ fn.val = 0 ∧ (m.val = 0x2A ∨ m.val = 0x2B))) ∧
    (m.val ∈ [0x01, 0x02, 0x04, 0x06, 0x13, 0x14, 0x15, 0x16, 0x17, 0x18, 0x25, 0x2C, 0x31, 0x37] → fn.val = 0) := by
  decide +kernel

theorem sigOf_formats : ∀ (m : Fin 64) (fn : Fin 8) (sub : Fin 2), ∀ s ∈ sigOf m fn sub,
    m.val < 0x38 → sub.val = 0 → isB3 m = (s.fmt == .b3) := by
  decide +kernel

section
variable {form : Form} {k : Key} {s : Sig}

theorem sigFor_eq_some : sigFor form k = some s ↔ sigOf k.maj.toNat k.fn.toNat k.sub.toNat = some s ∧ ¬(s.fmt = .x ∧ form.isExt = false) := by
  unfold sigFor
  split
  · next h => simp [h]
  · next z h =>
    rw [h]
    split
    · next hx =>
      simp only [Option.some.injEq, reduceCtorEq, false_iff]
      rintro ⟨rfl, hn⟩
      exact hn hx
    · next hx =>
      simp only [Option.some.injEq]
      constructor
      · rintro rfl
        exact ⟨rfl, hx⟩
      · exact And.left

theorem tabled_of_sigFor (h : sigFor form k = some s) : Tabled k s := by
  have hs := (sigFor_eq_some.mp h).1
  obtain ⟨himm, hsets, hbranch, hbase⟩ := sigOf_slots ⟨_, k.maj.isLt⟩ ⟨_, k.fn.isLt⟩ ⟨_, sub_le_one hs⟩ s hs
  obtain ⟨hmaj, hsub, hfn⟩ := sigOf_keys ⟨_, k.maj.isLt⟩ ⟨_, k.fn.isLt⟩ ⟨_, sub_le_one hs⟩ (Option.isSome_of_eq_some hs)
  exact ⟨himm, hsets, hbranch, hmaj, hbase, hsub, hfn, sigOf_formats ⟨_, k.maj.isLt⟩ ⟨_, k.fn.isLt⟩ ⟨_, sub_le_one hs⟩ s hs⟩

end

end Sys2Proof.Enc
end

section
/-! The fields of a base form, LEN 00 and 01 (R166 to R169): within their ranges, and read back from the words the encoder writes. -/

namespace Sys2Proof.Enc

/-! Operand B and its literal (R167) -/

/-- Operand B read back: the literal the instruction carries, or the field. -/
theorem litOr_eq {c plain : Bool} {f : Fields} {o : Operand} (h : (if c then isLit f.b else plain) = true) (ho : plain = true → o = f.b) :
    (if c then .lit (litOf f) else o) = f.b := by
  cases c
  · exact ho h
  · unfold litOf
    simp only [if_true, isLit] at h ⊢
    split at h
    · next hb => simp only [hb]
    · cases h

/-! What each format reads (R168, R169) -/

section
variable {form : Form} {maj : Nat} {k : Key} {s : Sig} {f : Fields}

/-- The fields of a base form that no word holds: the default TYPE and the rounding of the FP class. -/
def baseBlank (form : Form) (s : Sig) : Fields := { blank form with ty := s.tys.headD 0, md := if s.fp then 5 &&& s.mods else 0 }

/-- Operand B of a base form: the literal takes the place of an operand. -/
def baseB (form : Form) (s : Sig) (lit : BitVec 64) (o : Operand) : Operand := if form.hasLit && takesLit s.b then .lit lit else o

theorem baseFields_b3 (h : s.fmt = .b3) (w : Word) (lit : BitVec 64) : baseFields form maj s w lit =
    { baseBlank form s with
      d := slotBase s.d (fld w 18 6), a := slotBase s.a (fld w 12 6), b := baseB form s lit (slotBase s.b (fld w 6 6)),
      gd := ⟨(fld w 3 3).setWidth 4, false⟩ } := by
  simp only [baseFields, h]; rfl

theorem baseFields_gets (h : s.fmt = .bi) (w : Word) (lit : BitVec 64) : baseFields form 0x13 s w lit =
    { baseBlank form s with
      d := if (fld w 12 6).getLsbD 1 then .scl (fld w 18 6) else .vec ((fld w 18 6).setWidth 11),
      c := if (fld w 12 6).getLsbD 1 then .num 0 else .num ((fld w 12 6 &&& 1).setWidth 11), imm := (fld w 0 12).setWidth 24 } := by
  simp only [baseFields, h]
  cases (fld w 12 6).getLsbD 1 <;> rfl

theorem baseFields_sets (h : s.fmt = .bi) (w : Word) (lit : BitVec 64) : baseFields form 0x14 s w lit =
    { baseBlank form s with
      a := if (fld w 18 6).getLsbD 1 then .scl (fld w 12 6) else .vec ((fld w 12 6).setWidth 11),
      c := if (fld w 18 6).getLsbD 1 then .num 0 else .num ((fld w 18 6 &&& 1).setWidth 11), imm := (fld w 0 12).setWidth 24 } := by
  simp only [baseFields, h]
  cases (fld w 18 6).getLsbD 1 <;> rfl

theorem baseFields_imm (h : s.fmt = .bi) (hi : immB maj = true) (w : Word) (lit : BitVec 64) : baseFields form maj s w lit =
    { baseBlank form s with
      d := slotBase s.d (fld w 18 6), a := slotBase s.a (fld w 12 6), b := baseB form s lit .none,
      imm := if form.hasLit then 0 else (fld w 0 12).setWidth 24 } := by
  have hm : maj ≠ 0x13 ∧ maj ≠ 0x14 := by
    constructor <;> rintro rfl <;> cases hi
  simp only [baseFields, h, if_neg hm.1, if_neg hm.2, hi, if_true]; rfl

theorem baseFields_bi (h : s.fmt = .bi) (hi : immB maj = false) (h13 : maj ≠ 0x13) (h14 : maj ≠ 0x14) (w : Word) (lit : BitVec 64) :
    baseFields form maj s w lit =
      { baseBlank form s with d := slotBase s.d (fld w 18 6), a := slotBase s.a (fld w 12 6), imm := (fld w 0 12).setWidth 24 } := by
  simp only [baseFields, h, if_neg h13, if_neg h14, hi]; rfl

theorem baseFields_bj (h : s.fmt = .bj) (w : Word) (lit : BitVec 64) : baseFields form maj s w lit =
    { baseBlank form s with imm := (fld w 0 20).setWidth 24, gd := ⟨(fld w 21 3).setWidth 4, (fld w 20 1) == 1⟩ } := by
  simp only [baseFields, h]; rfl

theorem baseFields_bo (h : s.fmt = .bo) (w : Word) (lit : BitVec 64) : baseFields form maj s w lit = { baseBlank form s with imm := fld w 0 24 } := by
  simp only [baseFields, h]; rfl

theorem baseFields_bw (h : s.fmt = .bw) (w : Word) (lit : BitVec 64) : baseFields form maj s w lit =
    { baseBlank form s with
      d := slotBase s.d (fld w 18 6), a := slotBase s.a (fld w 12 6), b := slotBase s.b (fld w 6 6), c := slotBase s.c (fld w 0 6) } := by
  simp only [baseFields, h]; rfl

/-! What each format allows -/

/-- Fields of a base form that no word holds. -/
def baseFixed (k : Key) (s : Sig) (f : Fields) : Prop :=
  f.ty = s.tys.headD 0 ∧ f.md = (if s.fp then 5 &&& s.mods else 0) ∧ f.lit = 0 ∧ k.sub = 0 ∧ (s.fmt = .b3 ∨ k.fn = 0)

theorem baseOk_b3 (h : s.fmt = .b3) : baseOk k s f = true ↔ baseFixed k s f ∧ slotBaseOk s.d f.d = true ∧ slotBaseOk s.a f.a = true ∧
    (if f.form.hasLit && takesLit s.b then isLit f.b else slotBaseOk s.b f.b) = true ∧ f.c = .none ∧ f.gd.p < 8 ∧ f.gd.neg = false ∧ f.imm = 0 := by
  simp only [baseOk, baseFixed, h, Bool.and_eq_true, decide_eq_true_eq, Bool.or_eq_true, and_assoc]

theorem baseOk_gets (h : s.fmt = .bi) (hk : k.maj = 0x13) : baseOk k s f = true ↔
    baseFixed k s f ∧ f.gd = ⟨0, false⟩ ∧ f.imm < 0x1000 ∧ getsOk f.d f.c = true ∧ f.a = .none ∧ f.b = .none := by
  simp only [baseOk, baseFixed, h, hk, if_true, Bool.and_eq_true, decide_eq_true_eq, Bool.or_eq_true, and_assoc]

theorem baseOk_sets (h : s.fmt = .bi) (hk : k.maj = 0x14) : baseOk k s f = true ↔
    baseFixed k s f ∧ f.gd = ⟨0, false⟩ ∧ f.imm < 0x1000 ∧ getsOk f.a f.c = true ∧ f.d = .none ∧ f.b = .none := by
  have hne : (0x14 : BitVec 6) ≠ 0x13 := by decide
  simp only [baseOk, baseFixed, h, hk, if_neg hne, if_true, Bool.and_eq_true, decide_eq_true_eq, Bool.or_eq_true, and_assoc]

theorem baseOk_imm (h : s.fmt = .bi) (hi : immB k.maj.toNat = true) : baseOk k s f = true ↔
    baseFixed k s f ∧ f.gd = ⟨0, false⟩ ∧ f.imm < 0x1000 ∧ slotBaseOk s.d f.d = true ∧ slotBaseOk s.a f.a = true ∧ f.c = .none ∧
      (if f.form.hasLit && takesLit s.b then isLit f.b else f.b = .none) = true ∧ (f.form.hasLit = false ∨ f.imm = 0) := by
  have h13 : k.maj ≠ 0x13 := by intro e; rw [e] at hi; cases hi
  have h14 : k.maj ≠ 0x14 := by intro e; rw [e] at hi; cases hi
  simp only [baseOk, baseFixed, h, if_neg h13, if_neg h14, hi, if_true, Bool.and_eq_true, decide_eq_true_eq, Bool.or_eq_true, and_assoc, beq_iff_eq]

theorem baseOk_bi (h : s.fmt = .bi) (hi : immB k.maj.toNat = false) (h13 : k.maj ≠ 0x13) (h14 : k.maj ≠ 0x14) : baseOk k s f = true ↔
    baseFixed k s f ∧ f.gd = ⟨0, false⟩ ∧ f.imm < 0x1000 ∧ slotBaseOk s.d f.d = true ∧ slotBaseOk s.a f.a = true ∧ f.c = .none ∧ f.b = .none := by
  simp only [baseOk, baseFixed, h, if_neg h13, if_neg h14, hi, Bool.false_eq_true, if_false, Bool.and_eq_true, decide_eq_true_eq, Bool.or_eq_true, and_assoc]

theorem baseOk_bj (h : s.fmt = .bj) : baseOk k s f = true ↔
    baseFixed k s f ∧ f.d = .none ∧ f.a = .none ∧ f.b = .none ∧ f.c = .none ∧ f.gd.p < 8 ∧ f.imm < 0x100000 := by
  simp only [baseOk, baseFixed, h, Bool.and_eq_true, decide_eq_true_eq, Bool.or_eq_true, and_assoc]

theorem baseOk_bo (h : s.fmt = .bo) : baseOk k s f = true ↔
    baseFixed k s f ∧ f.d = .none ∧ f.a = .none ∧ f.b = .none ∧ f.c = .none ∧ f.gd = ⟨0, false⟩ := by
  simp only [baseOk, baseFixed, h, Bool.and_eq_true, decide_eq_true_eq, Bool.or_eq_true, and_assoc]

theorem baseOk_bw (h : s.fmt = .bw) : baseOk k s f = true ↔
    baseFixed k s f ∧ slotBaseOk s.d f.d = true ∧ slotBaseOk s.a f.a = true ∧ slotBaseOk s.b f.b = true ∧ slotBaseOk s.c f.c = true ∧
      f.gd = ⟨0, false⟩ ∧ f.imm = 0 := by
  simp only [baseOk, baseFixed, h, Bool.and_eq_true, decide_eq_true_eq, Bool.or_eq_true, and_assoc]

/-! In range -/

theorem setWidth_lt {n m : Nat} (x : BitVec n) (h : n < m) : x.setWidth m < BitVec.ofNat m (2 ^ n) := by
  have hx := x.isLt
  have hnm : 2 ^ n < 2 ^ m := Nat.pow_lt_pow_right (by omega) h
  rw [BitVec.lt_def, BitVec.toNat_setWidth, BitVec.toNat_ofNat, Nat.mod_eq_of_lt hnm, Nat.mod_eq_of_lt (by omega)]
  exact hx

/-- The register operand of a base GETS or SETS with its HI bit is in range (R208, R209). -/
theorem getsOk_read (x y : BitVec 6) : getsOk (if y.getLsbD 1 then .scl x else .vec (x.setWidth 11))
    (if y.getLsbD 1 then .num 0 else .num ((y &&& 1).setWidth 11)) = true := by
  cases y.getLsbD 1
  · have hbit : (y &&& 1).toNat ≤ 1 := by rw [BitVec.toNat_and]; exact Nat.and_le_right
    exact Bool.and_eq_true_iff.mpr ⟨decide_eq_true (setWidth_lt x (by omega)), decide_eq_true (by bv_omega)⟩
  · rfl

/-- What the decoder reads from a base word is in range. -/
theorem baseOk_baseFields (hfmt : s.fmt ≠ .x) (hsub : k.sub = 0) (hfn : s.fmt = .b3 ∨ k.fn = 0)
    (ht : Tabled k s) (w : Word) (lit : BitVec 64) : baseOk k s (baseFields form k.maj.toNat s w lit) = true := by
  have hfix : baseFixed k s (baseBlank form s) := ⟨rfl, rfl, rfl, hsub, hfn⟩
  have himm12 : (fld w 0 12).setWidth 24 < 0x1000 := setWidth_lt _ (by omega)
  cases hm : s.fmt with
  | b3 =>
    rw [baseFields_b3 hm, baseOk_b3 hm]
    refine ⟨hfix, slotBaseOk_slotBase _ _, slotBaseOk_slotBase _ _, ?_, rfl, setWidth_lt _ (by omega), rfl, rfl⟩
    cases hc : form.hasLit && takesLit s.b <;> simp [baseB, baseBlank, blank, hc, slotBaseOk_slotBase, isLit]
  | bi =>
    by_cases h13 : k.maj = 0x13
    · rw [h13, show (0x13 : BitVec 6).toNat = 0x13 from rfl, baseFields_gets hm, baseOk_gets hm h13]
      exact ⟨hfix, rfl, himm12, getsOk_read _ _, rfl, rfl⟩
    by_cases h14 : k.maj = 0x14
    · rw [h14, show (0x14 : BitVec 6).toNat = 0x14 from rfl, baseFields_sets hm, baseOk_sets hm h14]
      exact ⟨hfix, rfl, himm12, getsOk_read _ _, rfl, rfl⟩
    cases hi : immB k.maj.toNat with
    | false =>
      rw [baseFields_bi hm hi (fun e => h13 (BitVec.eq_of_toNat_eq e)) (fun e => h14 (BitVec.eq_of_toNat_eq e)), baseOk_bi hm hi h13 h14]
      exact ⟨hfix, rfl, himm12, slotBaseOk_slotBase _ _, slotBaseOk_slotBase _ _, rfl, rfl⟩
    | true =>
      rw [baseFields_imm hm hi, baseOk_imm hm hi]
      refine ⟨hfix, rfl, ?_, slotBaseOk_slotBase _ _, slotBaseOk_slotBase _ _, rfl, ?_, ?_⟩
      · dsimp only
        split
        · decide
        · exact himm12
      all_goals cases hl : form.hasLit <;> simp [baseB, baseBlank, blank, hl, ht.immTakes hi, isLit]
  | bj =>
    rw [baseFields_bj hm, baseOk_bj hm]
    exact ⟨hfix, rfl, rfl, rfl, rfl, setWidth_lt _ (by omega), setWidth_lt _ (by omega)⟩
  | bo =>
    rw [baseFields_bo hm, baseOk_bo hm]
    exact ⟨hfix, rfl, rfl, rfl, rfl, rfl⟩
  | bw =>
    rw [baseFields_bw hm, baseOk_bw hm]
    exact ⟨hfix, slotBaseOk_slotBase _ _, slotBaseOk_slotBase _ _, slotBaseOk_slotBase _ _, slotBaseOk_slotBase _ _, rfl, rfl⟩
  | x => exact absurd hm hfmt

/-! Read back -/

theorem Fields.eq_of_eq {f g : Fields} (hform : f.form = g.form) (hd : f.d = g.d) (ha : f.a = g.a) (hb : f.b = g.b) (hc : f.c = g.c) (hgd : f.gd = g.gd)
    (hty : f.ty = g.ty) (hmd : f.md = g.md) (himm : f.imm = g.imm) (hlit : f.lit = g.lit) : f = g := by
  cases f; cases g; simp_all

/-- What a base form reads, once its operands, guard and immediate are read back. -/
theorem baseBlank_with_eq (h : baseFixed k s f) {d a b c : Operand} {gd : Guard} {imm : BitVec 24} (hd : d = f.d) (ha : a = f.a) (hb : b = f.b) (hc : c = f.c)
    (hgd : gd = f.gd) (himm : imm = f.imm) :
    { baseBlank f.form s with d := d, a := a, b := b, c := c, gd := gd, imm := imm } = f := by
  obtain ⟨hty, hmd, hlit, -, -⟩ := h
  exact Fields.eq_of_eq rfl hd ha hb hc hgd hty.symm hmd.symm himm hlit.symm

theorem setWidth_setWidth_of_lt_two_pow {n m : Nat} {x : BitVec m} (h : x < BitVec.ofNat m (2 ^ n)) (hnm : n < m) : (x.setWidth n).setWidth m = x := by
  have hp : 2 ^ n < 2 ^ m := Nat.pow_lt_pow_right (by omega) hnm
  rw [BitVec.lt_def, BitVec.toNat_ofNat, Nat.mod_eq_of_lt hp] at h
  apply BitVec.eq_of_toNat_eq
  rw [BitVec.toNat_setWidth, BitVec.toNat_setWidth, Nat.mod_eq_of_lt h, Nat.mod_eq_of_lt (by omega)]

theorem guard_read {gd : Guard} (hp : gd.p < 8) (hn : gd.neg = false) : (⟨(gd.p.setWidth 3).setWidth 4, false⟩ : Guard) = gd := by
  obtain ⟨p, neg⟩ := gd
  rw [setWidth_setWidth_of_lt_two_pow (n := 3) hp (by omega), ← hn]

theorem and_one_eq (y : BitVec 6) : (y &&& 1).setWidth 11 = if y.getLsbD 0 then 1 else 0 := by
  revert y
  decide

/-- The register operand of a base GETS or SETS and its HI bit are read back from the register's bits, SC and HI (R208, R209). -/
theorem gets_read {r c : Operand} (h : getsOk r c = true) {x y : BitVec 6} (hx : x = field6 r) (hsc : y.getLsbD 1 = (scBit r).getLsbD 0)
    (hhi : y.getLsbD 0 = (hiBit c).getLsbD 0) :
    (if y.getLsbD 1 then .scl x else .vec (x.setWidth 11)) = r ∧ (if y.getLsbD 1 then .num 0 else .num ((y &&& 1).setWidth 11)) = c := by
  rw [hx, and_one_eq, hsc, hhi]
  cases r with
  | scl n =>
    have hone : (scBit (.scl n)).getLsbD 0 = true := by simp [scBit]
    rw [if_pos hone, if_pos hone]
    exact ⟨rfl, (of_decide_eq_true h).symm⟩
  | vec n =>
    obtain ⟨hn, hc⟩ := Bool.and_eq_true_iff.mp h
    have hzero : ¬(scBit (.vec n)).getLsbD 0 = true := by simp [scBit]
    rw [if_neg hzero, if_neg hzero]
    refine ⟨congrArg Operand.vec (setWidth_setWidth_of_lt (of_decide_eq_true hn)), ?_⟩
    cases c with
    | num m =>
      have hm : m < 2 := of_decide_eq_true hc
      clear hhi h hc
      revert m
      decide
    | _ => cases hc
  | _ => cases h

/-- What the encoder writes into a base word the decoder reads back. -/
theorem baseFields_word0_body (hok : baseOk k s f = true) : baseFields f.form k.maj.toNat s (word0 f.form k.maj (body k s f)) (litOf f) = f := by
  cases hm : s.fmt with
  | b3 =>
    obtain ⟨hfix, hd, ha, hb, hc, hp, hn, himm⟩ := (baseOk_b3 hm).mp hok
    rw [baseFields_b3 hm, body, hm]
    simp (disch := decide) only [fld, word0, BitVec.extractLsb'_append_eq_of_le, BitVec.extractLsb'_append_eq_of_add_le, extractLsb'_all, -Nat.reduceAdd]
    exact baseBlank_with_eq hfix (slotBase_field6 hd) (slotBase_field6 ha) (litOr_eq hb slotBase_field6) hc.symm (guard_read hp hn) himm.symm
  | bi =>
    by_cases h13 : k.maj = 0x13
    · obtain ⟨hfix, hgd, himm, hdc, ha, hb⟩ := (baseOk_gets hm h13).mp hok
      rw [h13, show (0x13 : BitVec 6).toNat = 0x13 from rfl, baseFields_gets hm, body, hm]
      simp (disch := decide) only [h13, if_true, fld, word0, BitVec.extractLsb'_append_eq_of_le, BitVec.extractLsb'_append_eq_of_add_le, extractLsb'_all, -Nat.reduceAdd]
      obtain ⟨hd, hc⟩ := gets_read hdc rfl (y := BitVec.extractLsb' (12 - 12) 6 (field6 f.d ++ (0 : BitVec 4) ++ scBit f.d ++ hiBit f.c))
        (by simp only [BitVec.getLsbD_extractLsb', BitVec.getLsbD_append, -Nat.reduceAdd]; rfl)
        (by simp only [BitVec.getLsbD_extractLsb', BitVec.getLsbD_append, -Nat.reduceAdd]; rfl)
      exact baseBlank_with_eq hfix hd ha.symm hb.symm hc hgd.symm (setWidth_setWidth_of_lt_two_pow (n := 12) himm (by omega))
    by_cases h14 : k.maj = 0x14
    · obtain ⟨hfix, hgd, himm, hac, hd, hb⟩ := (baseOk_sets hm h14).mp hok
      rw [h14, show (0x14 : BitVec 6).toNat = 0x14 from rfl, baseFields_sets hm, body, hm]
      simp (disch := decide) only [h14, if_true, if_neg (show (0x14 : BitVec 6) ≠ 0x13 by decide), fld, word0, BitVec.extractLsb'_append_eq_of_le,
        BitVec.extractLsb'_append_eq_of_add_le, extractLsb'_all, -Nat.reduceAdd]
      obtain ⟨ha, hc⟩ := gets_read hac rfl (y := (0 : BitVec 4) ++ scBit f.a ++ hiBit f.c)
        (by simp only [BitVec.getLsbD_append, -Nat.reduceAdd]; rfl) (by simp only [BitVec.getLsbD_append, -Nat.reduceAdd]; rfl)
      exact baseBlank_with_eq hfix hd.symm ha hb.symm hc hgd.symm (setWidth_setWidth_of_lt_two_pow (n := 12) himm (by omega))
    cases hi : immB k.maj.toNat with
    | false =>
      obtain ⟨hfix, hgd, himm, hd, ha, hc, hb⟩ := (baseOk_bi hm hi h13 h14).mp hok
      rw [baseFields_bi hm hi (fun e => h13 (BitVec.eq_of_toNat_eq e)) (fun e => h14 (BitVec.eq_of_toNat_eq e)), body, hm]
      simp (disch := decide) only [if_neg h13, if_neg h14, fld, word0, BitVec.extractLsb'_append_eq_of_le, BitVec.extractLsb'_append_eq_of_add_le,
        extractLsb'_all, -Nat.reduceAdd]
      exact baseBlank_with_eq hfix (slotBase_field6 hd) (slotBase_field6 ha) hb.symm hc.symm hgd.symm
        (setWidth_setWidth_of_lt_two_pow (n := 12) himm (by omega))
    | true =>
      obtain ⟨hfix, hgd, himm, hd, ha, hc, hb, himm0⟩ := (baseOk_imm hm hi).mp hok
      rw [baseFields_imm hm hi, body, hm]
      simp (disch := decide) only [if_neg h13, if_neg h14, fld, word0, BitVec.extractLsb'_append_eq_of_le, BitVec.extractLsb'_append_eq_of_add_le,
        extractLsb'_all, -Nat.reduceAdd]
      refine baseBlank_with_eq hfix (slotBase_field6 hd) (slotBase_field6 ha) (litOr_eq hb (fun h => (of_decide_eq_true h).symm)) hc.symm hgd.symm ?_
      split
      · next hl => exact (himm0.resolve_left (by simp [hl])).symm
      · exact setWidth_setWidth_of_lt_two_pow (n := 12) himm (by omega)
  | bj =>
    obtain ⟨hfix, hd, ha, hb, hc, hp, himm⟩ := (baseOk_bj hm).mp hok
    rw [baseFields_bj hm, body, hm]
    simp (disch := decide) only [fld, word0, BitVec.extractLsb'_append_eq_of_le, BitVec.extractLsb'_append_eq_of_add_le, extractLsb'_all, -Nat.reduceAdd]
    refine baseBlank_with_eq hfix hd.symm ha.symm hb.symm hc.symm ?_ ?_
    · rw [bit_eq_one, setWidth_setWidth_of_lt_two_pow (n := 3) hp (by omega)]
    · exact setWidth_setWidth_of_lt_two_pow (n := 20) himm (by omega)
  | bo =>
    obtain ⟨hfix, hd, ha, hb, hc, hgd⟩ := (baseOk_bo hm).mp hok
    rw [baseFields_bo hm, body, hm]
    simp (disch := decide) only [fld, word0, BitVec.extractLsb'_append_eq_of_add_le, extractLsb'_all, -Nat.reduceAdd]
    exact baseBlank_with_eq hfix hd.symm ha.symm hb.symm hc.symm hgd.symm rfl
  | bw =>
    obtain ⟨hfix, hd, ha, hb, hc, hgd, himm⟩ := (baseOk_bw hm).mp hok
    rw [baseFields_bw hm, body, hm]
    simp (disch := decide) only [fld, word0, BitVec.extractLsb'_append_eq_of_le, BitVec.extractLsb'_append_eq_of_add_le, extractLsb'_all, -Nat.reduceAdd]
    exact baseBlank_with_eq hfix (slotBase_field6 hd) (slotBase_field6 ha) (slotBase_field6 hb) (slotBase_field6 hc) hgd.symm himm.symm
  | x => simp [baseOk, hm] at hok

end

end Sys2Proof.Enc
end

section
/-! The fields of an extended form, LEN 10 and 11 (R170, R171): within their ranges, and read back from the words the encoder writes. -/

namespace Sys2Proof.Enc

section
variable {form : Form} {k : Key} {s : Sig} {f : Fields}

/-- The immediate of an extended form: the bits of IMM16 that its entry uses. -/
def extImm (s : Sig) (w2 : Word) : BitVec 16 := fld w2 0 16 &&& s.imm

/-- Operand B of an extended form: a literal in its place, none where the immediate stands for it, or its field (R167, R206). -/
def extB (form : Form) (k : Key) (s : Sig) (w1 w2 : Word) (lit : BitVec 64) : Except Reject Operand :=
  if form.hasLit && takesLit s.b then .ok (.lit lit)
  else if immB k.maj.toNat && (extImm s w2 != 0 || fld w1 21 11 == 0) then .ok .none
  else slotExt s.b (fld w1 21 11)

/-- Operand C of an extended form, which SHFL uses under its fill option only and SETS for HI (R209, R235). -/
def extC (k : Key) (s : Sig) (w0 w1 w2 : Word) : Except Reject Operand :=
  if k.maj = 0x20 && extImm s w2 == 0 then .ok .none
  else if k.maj = 0x14 then .ok (.num (low 1 (fld w0 13 11)))
  else slotExt s.c (fld w1 10 11)

/-- An extended branch: its literal is the target (R188). -/
def isFar (form : Form) (k : Key) : Bool := (k.maj == 0x01 || k.maj == 0x02) && form.hasLit

/-- The fields of an extended form, given its operands. -/
def extWith (form : Form) (k : Key) (s : Sig) (w1 w2 : Word) (lit : BitVec 64) (d a b c : Operand) : Fields :=
  { form := form, d := d, a := a, b := b, c := c, gd := ⟨fld w1 6 4, (fld w1 5 1) == 1⟩, ty := if s.tys = [] then 0 else fld w1 0 5,
    md := fld w2 16 8 &&& s.mods, imm := if isFar form k || (immB k.maj.toNat && form.hasLit) then 0 else (extImm s w2).setWidth 24,
    lit := if isFar form k then lit else 0 }

theorem ite_bind {c : Prop} [Decidable c] {α β : Type} (x y : Except Reject α) (g : α → Except Reject β) :
    ((if c then x else y) >>= g) = if c then x >>= g else y >>= g := by split <;> rfl

/-- An extended form is read operand by operand (R170). -/
theorem extFields_eq_ok {w0 w1 w2 : Word} {lit : BitVec 64} : extFields form k s w0 w1 w2 lit = .ok f ↔
    ∃ d a b c, slotExt s.d (fld w0 13 11) = .ok d ∧ slotExt s.a (fld w0 2 11) = .ok a ∧ extB form k s w1 w2 lit = .ok b ∧ extC k s w0 w1 w2 = .ok c ∧
      f = extWith form k s w1 w2 lit d a b c := by
  have heq : extFields form k s w0 w1 w2 lit = (do
      let d ← slotExt s.d (fld w0 13 11)
      let a ← slotExt s.a (fld w0 2 11)
      let b ← extB form k s w1 w2 lit
      let c ← extC k s w0 w1 w2
      .ok (extWith form k s w1 w2 lit d a b c)) := by
    simp only [extFields, extB, extC, ite_bind]
    rfl
  rw [heq]
  constructor
  · intro h
    cases hd : slotExt s.d (fld w0 13 11) with
    | error => rw [hd] at h; cases h
    | ok d =>
      cases ha : slotExt s.a (fld w0 2 11) with
      | error => rw [hd, ha] at h; cases h
      | ok a =>
        cases hb : extB form k s w1 w2 lit with
        | error => rw [hd, ha, hb] at h; cases h
        | ok b =>
          cases hc : extC k s w0 w1 w2 with
          | error => rw [hd, ha, hb, hc] at h; cases h
          | ok c =>
            rw [hd, ha, hb, hc] at h
            cases h
            exact ⟨d, a, b, c, rfl, rfl, rfl, rfl, rfl⟩
  · rintro ⟨d, a, b, c, hd, ha, hb, hc, rfl⟩
    rw [hd, ha, hb, hc]
    rfl

/-- What an extended form allows. -/
theorem extOk_iff : extOk k s f = true ↔
    (s.tys ≠ [] ∨ f.ty = 0) ∧ f.md &&& s.mods = f.md ∧ f.imm &&& s.imm.setWidth 24 = f.imm ∧
    ((isFar f.form k || (immB k.maj.toNat && f.form.hasLit)) = false ∨ f.imm = 0) ∧ (isFar f.form k = true ∨ f.lit = 0) ∧
    slotExtOk s.d f.d = true ∧ slotExtOk s.a f.a = true ∧
    (if f.form.hasLit && takesLit s.b then isLit f.b
     else if immB k.maj.toNat && (f.imm ≠ 0 || f.b = .none) then f.b = .none
     else slotExtOk s.b f.b && (immB k.maj.toNat == false || f.b ≠ .vec 0)) = true ∧
    (if k.maj = 0x20 && f.imm = 0 then decide (f.c = .none) else if k.maj = 0x14 then numBit f.c else slotExtOk s.c f.c) = true := by
  simp only [extOk, isFar, Bool.and_eq_true, Bool.or_eq_true, decide_eq_true_eq, beq_iff_eq, and_assoc]

theorem setWidth_eq_zero {n m : Nat} {x : BitVec n} (h : n ≤ m) : x.setWidth m = 0 ↔ x = 0 := by
  constructor
  · intro he
    have := congrArg BitVec.toNat he
    rw [BitVec.toNat_setWidth_of_le h] at this
    exact BitVec.eq_of_toNat_eq this
  · rintro rfl
    simp

/-- Only a vector register's own number names it. -/
theorem eq_of_operandOf_vec {x n : BitVec 11} (h : operandOf x = some (.vec n)) : x = n := by
  unfold operandOf at h
  repeat' split at h
  all_goals cases h
  rfl

/-- Where the immediate stands for operand B of an extended form there is none, and its field is no zero where it does not (R206). -/
theorem extB_ok (htab : Tabled k s) {w1 w2 : Word} {lit : BitVec 64} {b : Operand} {imm : BitVec 24}
    (h : extB form k s w1 w2 lit = .ok b) (hi : form.hasLit = false → immB k.maj.toNat = true → extImm s w2 = 0 → imm = 0) :
    (if form.hasLit && takesLit s.b then isLit b
     else if immB k.maj.toNat && (imm ≠ 0 || b = .none) then b = .none
     else slotExtOk s.b b && (immB k.maj.toNat == false || b ≠ .vec 0)) = true := by
  unfold extB at h
  split at h
  · next ht =>
    cases h
    rw [if_pos ht]
    rfl
  · next ht =>
    rw [if_neg ht]
    split at h
    · next hz =>
      cases h
      rw [if_pos (by simp [(Bool.and_eq_true_iff.mp hz).1])]
      rfl
    · next hz =>
      have hok : slotExtOk s.b b = true := slotExtOk_of_slotExt h
      cases hb : immB k.maj.toNat with
      | false => simp [hok]
      | true =>
        have htakes := htab.immTakes hb
        have hlit : form.hasLit = false := by simpa [htakes] using ht
        have hzero : extImm s w2 = 0 ∧ fld w1 21 11 ≠ 0 := by simpa [hb] using hz
        have hvec : b ≠ .vec 0 := by
          rintro rfl
          unfold slotExt at h
          cases hs : s.b with
          | no => rw [hs] at htakes; cases htakes
          | num => rw [hs] at htakes; cases htakes
          | opd =>
            rw [hs] at h
            simp only at h
            split at h <;> cases h
            next ho => exact hzero.2 (eq_of_operandOf_vec ho)
        by_cases hn : b = .none
        · simp [hn]
        · simpa [hok, hn, hi hlit hb hzero.1] using hvec

/-- Operand C of an extended form is in range. -/
theorem extC_ok {w0 w1 w2 : Word} {c : Operand} {imm : BitVec 24} (h : extC k s w0 w1 w2 = .ok c) (hi : k.maj = 0x20 → (imm = 0 ↔ extImm s w2 = 0)) :
    (if k.maj = 0x20 && imm = 0 then decide (c = .none) else if k.maj = 0x14 then numBit c else slotExtOk s.c c) = true := by
  unfold extC at h
  split at h
  · next hz =>
    cases h
    obtain ⟨hk, hz⟩ := Bool.and_eq_true_iff.mp hz
    have hk : k.maj = 0x20 := of_decide_eq_true hk
    have hz : imm = 0 := (hi hk).mpr (beq_iff_eq.mp hz)
    simp [hk, hz]
  · next hz =>
    have hn : ¬(k.maj = 0x20 && imm = 0 : Bool) = true := by
      intro hc
      obtain ⟨hk, hc⟩ := Bool.and_eq_true_iff.mp hc
      have hk : k.maj = 0x20 := of_decide_eq_true hk
      exact hz (by simp [hk, (hi hk).mp (of_decide_eq_true hc)])
    rw [if_neg hn]
    split at h
    · next h14 =>
      cases h
      rw [if_pos h14]
      refine decide_eq_true ?_
      have hle : (low 1 (fld w0 13 11)).toNat ≤ 1 := by rw [low, BitVec.toNat_and]; exact Nat.and_le_right
      bv_omega
    · next h14 =>
      rw [if_neg h14]
      exact slotExtOk_of_slotExt h

/-- What the decoder reads from an extended form is in range. -/
theorem extOk_of_extFields (ht : Tabled k s) {w0 w1 w2 : Word} {lit : BitVec 64}
    (h : extFields form k s w0 w1 w2 lit = .ok f) : extOk k s f = true ∧ f.form = form := by
  obtain ⟨d, a, b, c, hd, ha, hb, hc, rfl⟩ := extFields_eq_ok.mp h
  refine ⟨extOk_iff.mpr ⟨?_, ?_, ?_, ?_, ?_, slotExtOk_of_slotExt hd, slotExtOk_of_slotExt ha, extB_ok ht hb ?_, extC_ok hc ?_⟩, rfl⟩
  · by_cases hts : s.tys = [] <;> simp [extWith, hts]
  · simp only [extWith, BitVec.and_assoc, BitVec.and_self]
  · simp only [extWith]
    split
    · simp
    · rw [← BitVec.setWidth_and, extImm, BitVec.and_assoc, BitVec.and_self]
  · by_cases hz : (isFar form k || (immB k.maj.toNat && form.hasLit)) = true <;> simp_all [extWith]
  · by_cases hz : isFar form k = true <;> simp_all [extWith]
  · intro _ _ hz
    simp only [extWith, hz]
    split <;> rfl
  · intro hk
    have hfar : (isFar form k || (immB k.maj.toNat && form.hasLit)) = false := by simp [isFar, hk, immB]
    rw [extWith, hfar]
    exact setWidth_eq_zero (n := 16) (m := 24) (by omega)

/-- The low word's bits of an immediate in use are the whole of it. -/
theorem setWidth_and_imm {x : BitVec 24} {m : BitVec 16} (h : x &&& m.setWidth 24 = x) : (x.setWidth 16 &&& m).setWidth 24 = x := by
  have hlt : x.toNat < 2 ^ 16 := by
    rw [← h, BitVec.toNat_and, BitVec.toNat_setWidth_of_le (by omega)]
    exact Nat.lt_of_le_of_lt Nat.and_le_right m.isLt
  have hx : (x.setWidth 16).setWidth 24 = x := by bv_omega
  rw [BitVec.setWidth_and, hx, h]

/-- Operand B of an extended form is read back. -/
theorem extB_read (ht : Tabled k s) (hok : extOk k s f = true) {w1 w2 : Word} (hw1 : fld w1 21 11 = codeOf f.b)
    (hw2 : extImm s w2 = 0 ↔ f.imm = 0) : extB f.form k s w1 w2 (litOf f) = .ok f.b := by
  obtain ⟨-, -, -, -, -, -, -, hb, -⟩ := extOk_iff.mp hok
  unfold extB
  rw [hw1]
  split at hb
  · next hc =>
    have hl := litOr_eq (plain := false) (o := .none) (c := true) hb (fun h => nomatch h)
    rw [if_pos hc, ← hl]
    rfl
  · next hc =>
    rw [if_neg hc]
    split at hb
    · next hi =>
      have hnone : f.b = .none := of_decide_eq_true hb
      obtain ⟨hi, -⟩ := Bool.and_eq_true_iff.mp hi
      rw [if_pos (by simp [hi, hnone, codeOf]), hnone]
    · next hi =>
      obtain ⟨hs, hv⟩ := Bool.and_eq_true_iff.mp hb
      rw [if_neg, slotExt_codeOf hs]
      cases himm : immB k.maj.toNat with
      | false => simp
      | true =>
        obtain ⟨himm0, hbn⟩ : f.imm = 0 ∧ f.b ≠ .none := by simpa [himm] using hi
        have hbv : f.b ≠ .vec 0 := by simpa [himm] using hv
        have hcode : codeOf f.b ≠ 0 := by
          intro he
          have htakes := ht.immTakes himm
          cases hsb : s.b with
          | no => rw [hsb] at htakes; cases htakes
          | num => rw [hsb] at htakes; cases htakes
          | opd =>
            rw [hsb] at hs
            have := operandOf_codeOf hs
            rw [he] at this
            exact hbv (Option.some.inj this).symm
        simpa [hw2.mpr himm0] using hcode

/-- Operand C of an extended form is read back, for SETS from the field of its destination. -/
theorem extC_read (hok : extOk k s f = true) {w0 w1 w2 : Word} (hw0 : k.maj = 0x14 → fld w0 13 11 = (hiBit f.c).setWidth 11)
    (hw1 : k.maj ≠ 0x14 → fld w1 10 11 = codeOf f.c) (hw2 : extImm s w2 = 0 ↔ f.imm = 0) : extC k s w0 w1 w2 = .ok f.c := by
  obtain ⟨-, -, -, -, -, -, -, -, hc⟩ := extOk_iff.mp hok
  unfold extC
  split at hc
  · next hi =>
    obtain ⟨hk, hi⟩ := Bool.and_eq_true_iff.mp hi
    have hk : k.maj = 0x20 := of_decide_eq_true hk
    have hnone : f.c = .none := of_decide_eq_true hc
    rw [if_pos (by simp [hk, hw2.mpr (of_decide_eq_true hi)]), hnone]
  · next hi =>
    have hn : ¬(decide (k.maj = 0x20) && extImm s w2 == 0) = true := by
      intro h
      obtain ⟨hk, h⟩ := Bool.and_eq_true_iff.mp h
      exact hi (by simp [of_decide_eq_true hk, hw2.mp (beq_iff_eq.mp h)])
    rw [if_neg hn]
    split at hc
    · next h14 =>
      rw [if_pos h14, hw0 h14]
      cases hcn : f.c with
      | num m =>
        rw [hcn] at hc
        have hm : m < 2 := of_decide_eq_true hc
        clear * - hm
        revert m
        decide
      | _ => rw [hcn] at hc; cases hc
    · next h14 => rw [if_neg h14, hw1 h14, slotExt_codeOf hc]

/-- The literal of an extended branch is its target, as it has no operand B (R188). -/
theorem litOf_far (ht : Tabled k s) (hfar : isFar f.form k = true)
    (hb : (if f.form.hasLit && takesLit s.b then isLit f.b
     else if immB k.maj.toNat && (f.imm ≠ 0 || f.b = .none) then f.b = .none
     else slotExtOk s.b f.b && (immB k.maj.toNat == false || f.b ≠ .vec 0)) = true) : litOf f = f.lit := by
  have hk : k.maj = 0x01 ∨ k.maj = 0x02 := by
    simpa [isFar] using (Bool.and_eq_true_iff.mp hfar).1
  have hsb : s.b = .no := ht.branchB (hk.imp (fun h => by rw [h]; rfl) (fun h => by rw [h]; rfl))
  have himm : immB k.maj.toNat = false := by
    rcases hk with h | h <;> rw [h] <;> rfl
  have hnone : f.b = .none := by simpa [hsb, takesLit, himm, slotExtOk] using hb
  rw [litOf, hnone]

/-- What the encoder writes into the three words of an extended form the decoder reads back. -/
theorem extFields_long (ht : Tabled k s) (hok : extOk k s f = true) :
    extFields f.form k s (word0 f.form k.maj ((if k.maj = 0x14 then (hiBit f.c).setWidth 11 else codeOf f.d) ++ codeOf f.a ++ (0 : BitVec 2)))
      (codeOf f.b ++ (if k.maj = 0x14 then 0 else codeOf f.c) ++ f.gd.p ++ bit f.gd.neg ++ f.ty) (k.fn ++ k.sub ++ f.md ++ f.imm.setWidth 16)
      (litOf f) = .ok f := by
  obtain ⟨hty, hmd, him, hno, hlit, hd, ha, hb, hc⟩ := extOk_iff.mp hok
  have himm : extImm s (k.fn ++ k.sub ++ f.md ++ f.imm.setWidth 16) = f.imm.setWidth 16 &&& s.imm := by
    simp (disch := decide) only [extImm, fld, BitVec.extractLsb'_append_eq_of_add_le, extractLsb'_all, -Nat.reduceAdd]
  have himm0 : extImm s (k.fn ++ k.sub ++ f.md ++ f.imm.setWidth 16) = 0 ↔ f.imm = 0 := by
    rw [himm, ← setWidth_eq_zero (n := 16) (m := 24) (by omega), setWidth_and_imm him]
  rw [extFields_eq_ok]
  refine ⟨f.d, f.a, f.b, f.c, ?_, ?_, extB_read ht hok ?_ himm0, extC_read hok ?_ ?_ himm0, ?_⟩
  all_goals simp (disch := decide) only [extWith, himm, fld, word0, BitVec.extractLsb'_append_eq_of_le, BitVec.extractLsb'_append_eq_of_add_le, extractLsb'_all,
    -Nat.reduceAdd]
  · split
    · next h14 =>
      rw [ht.setsD (by rw [h14]; rfl)] at hd ⊢
      exact congrArg Except.ok (of_decide_eq_true hd).symm
    · exact slotExt_codeOf hd
  · exact slotExt_codeOf ha
  · exact fun h => if_pos h
  · exact fun h => if_neg h
  · refine Fields.eq_of_eq rfl rfl rfl rfl rfl ?_ ?_ hmd.symm ?_ ?_ <;> dsimp only
    · rw [bit_eq_one]
    · by_cases hts : s.tys = []
      · rw [if_pos hts, hty.resolve_left (absurd hts)]
      · rw [if_neg hts]
    · split
      · next h => exact hno.resolve_left (by rw [h]; decide)
      · exact (setWidth_and_imm him).symm
    · split
      · next hfar => rw [litOf_far ht hfar hb]
      · next hfar => exact hlit.resolve_left hfar

end

end Sys2Proof.Enc
end

section
/-! Operations and keys (R177): the constructor that a key selects has that key. -/

namespace Sys2Proof.Enc

section
variable {k : Key} {s : Sig} {f : Fields} {i : Instr}

theorem condFn_condOf (n : BitVec 3) : condFn (condOf n.toNat) = n := by revert n; decide
theorem fCondFn_fCondOf (n : BitVec 3) : fCondFn (fCondOf n.toNat) = n := by revert n; decide
theorem redOpFn_redOpOf (n : BitVec 3) : redOpFn (redOpOf n.toNat) = n := by revert n; decide
theorem widthFn_widthOf (n : BitVec 3) : widthFn (widthOf n.toNat) = n := by revert n; decide
theorem atomOpFn_atomOpOf (n : BitVec 3) : atomOpFn (atomOpOf n.toNat) = n := by revert n; decide
theorem commOpFn_of_commOpOf {n : BitVec 3} {op : CommOp} (h : commOpOf n.toNat = some op) : commOpFn op = n := by
  revert h op n
  decide

theorem eq_ofNat_of_toNat {w n : Nat} {x : BitVec w} (h : x.toNat = n) : x = BitVec.ofNat w n := by
  rw [← h, BitVec.ofNat_toNat, BitVec.setWidth_eq]

/-- SUB is 0 but in the majors that have a second row (R177). -/
theorem Tabled.sub_zero (ht : Tabled k s) (h : ¬(k.maj.toNat = 0x08 ∨ k.maj.toNat = 0x0A ∨ k.maj.toNat = 0x2A ∨ k.maj.toNat = 0x2B)) : k.sub.toNat = 0 := by
  have := ht.sub
  omega

theorem keyed_eq {maj : BitVec 6} {fn : BitVec 3} {sub : BitVec 5} (hm : k.maj.toNat = maj.toNat) (hn : k.fn.toNat = fn.toNat) (hr : k.sub.toNat = sub.toNat) :
    some ((⟨maj, fn, sub⟩ : Key), f) = some (k, f) := by
  rw [← BitVec.eq_of_toNat_eq hm, ← BitVec.eq_of_toNat_eq hn, ← BitVec.eq_of_toNat_eq hr]

/-- The operation that a defined key selects has that key (R177): the majors of one operation, those whose FN is a parameter of the operation, those with a second row
under SUB 1, and last those whose FN names the operation. -/
theorem parts_of_build (ht : Tabled k s) (h : build k f = some i) : parts i = some (k, f) := by
  have hsub := ht.sub_zero
  have hfn := ht.fn
  unfold build at h
  split at h
  case h_58 => cases h
  case h_4 hm | h_18 hm | h_19 hm | h_20 hm | h_21 hm | h_22 hm | h_23 hm | h_36 hm | h_43 hm | h_48 hm | h_54 hm =>
    cases h
    exact keyed_eq hm (hfn (by rw [hm]; decide)) (hsub (by omega))
  case h_1 hm | h_2 hm | h_5 hm =>
    have hn := hfn (by rw [hm]; decide)
    have hr := hsub (by omega)
    split at h <;> cases h <;> exact keyed_eq hm hn hr
  case h_12 hm | h_17 hm | h_47 hm =>
    cases h
    exact keyed_eq hm (congrArg BitVec.toNat (condFn_condOf k.fn).symm) (hsub (by omega))
  case h_27 hm =>
    cases h
    exact keyed_eq hm (congrArg BitVec.toNat (fCondFn_fCondOf k.fn).symm) (hsub (by omega))
  case h_33 hm | h_34 hm | h_35 hm =>
    cases h
    exact keyed_eq hm (congrArg BitVec.toNat (redOpFn_redOpOf k.fn).symm) (hsub (by omega))
  case h_37 hm | h_38 hm | h_39 hm | h_40 hm =>
    cases h
    exact keyed_eq hm (congrArg BitVec.toNat (widthFn_widthOf k.fn).symm) (hsub (by omega))
  case h_30 hm =>
    cases h
    exact keyed_eq hm rfl (hsub (by omega))
  case h_57 hm =>
    obtain ⟨op, hop, rfl⟩ := Option.map_eq_some_iff.mp h
    exact keyed_eq hm (congrArg BitVec.toNat (commOpFn_of_commOpOf hop).symm) (hsub (by omega))
  case h_41 hm | h_42 hm => 
    have hs := ht.sub
    split at h
    · next hone =>
      cases h
      exact keyed_eq hm (by bv_omega) (congrArg BitVec.toNat hone)
    · next hone =>
      cases h
      exact keyed_eq hm (congrArg BitVec.toNat (atomOpFn_atomOpOf k.fn).symm) (by bv_omega)
  case h_7 hm | h_9 hm =>
    have hs := ht.sub
    split at h
    · next hone =>
      have hr := congrArg BitVec.toNat hone
      split at h <;> cases h
      all_goals next hn => exact keyed_eq hm hn hr
    · next hone =>
      have hr : k.sub.toNat = 0 := by bv_omega
      split at h <;> cases h
      all_goals next hn => exact keyed_eq hm hn hr
  all_goals
    next hm =>
    have hr := hsub (by omega)
    split at h <;> cases h
    all_goals next hn => exact keyed_eq hm hn hr

end

end Sys2Proof.Enc
end

section
/-! What the decoder answers (R166, R174 to R177). -/

namespace Sys2Proof.Enc

section
variable {form : Form} {k : Key} {s : Sig} {f : Fields} {i : Instr} {w w0 w1 w2 : Word} {lit : BitVec 64}

/-- An instruction with a key is no step of another agent. -/
theorem isEvent_of_parts (h : parts i = some (k, f)) : isEvent i = false := by
  cases i <;> cases h <;> rfl

/-- An instruction with a key is well formed when its fields are. -/
theorem wellFormed_of_parts (h : parts i = some (k, f)) : i.wellFormed = partsOk k f := by
  cases i <;> cases h <;> rfl

theorem finish_eq_ok : finish k s f = .ok i ↔ check k s f = none ∧ build k f = some i := by
  unfold finish
  split
  · next h => simp [h]
  · next h =>
    split
    · next hb => simp [h, hb]
    · next hb => simp [h, hb]

/-- A keyed instruction whose fields are in range is well formed once it is finished. -/
theorem wellFormed_of_finish (hs : sigFor f.form k = some s) (hok : (if f.form.isExt then extOk k s f else baseOk k s f) = true)
    (h : finish k s f = .ok i) : i.wellFormed = true ∧ isEvent i = false := by
  obtain ⟨hcheck, hbuild⟩ := finish_eq_ok.mp h
  have hp := parts_of_build (tabled_of_sigFor hs) hbuild
  refine ⟨?_, isEvent_of_parts hp⟩
  rw [wellFormed_of_parts hp, partsOk, hs]
  simp only [hok, hcheck, Option.isNone_none, Bool.and_self]

/-! The hint region (R180, R263, R264, R283, R284) -/

theorem fld_even (h : ¬(fld w 12 1 == 1) = true) : ((fld w 12 6).setWidth 11).toNat % 2 = 0 := by
  rw [beq_iff_eq] at h
  simp only [fld] at h ⊢
  have hbit : (w.extractLsb' 12 1).toNat ≠ 1 := fun e => h (BitVec.eq_of_toNat_eq e)
  rw [BitVec.toNat_setWidth_of_le (by omega)]
  rw [BitVec.extractLsb'_toNat] at hbit ⊢
  omega

theorem pfd_short {n : BitVec 6} {p : BitVec 3} (hn : (n.setWidth 11).toNat % 2 = 0) (hform : form.isExt = false) :
    Instr.wellFormed.pfd { blank form with a := .vec (n.setWidth 11), gd := ⟨p.setWidth 4, false⟩ } = true := by
  have hp : p.setWidth 4 < 8 := setWidth_lt p (by omega)
  have hlt : n.setWidth 11 < 64 := setWidth_lt n (by omega)
  simpa [Instr.wellFormed.pfd, blank, pfdBase, slotBaseOk, hform] using And.intro hn ⟨hp, hlt⟩

theorem hintShort_wellFormed (hform : form.isExt = false) : (hintShort form w).wellFormed = true ∧ isEvent (hintShort form w) = false := by
  have hnop : (Instr.nop (blank form)).wellFormed = true ∧ isEvent (.nop (blank form)) = false := ⟨decide_eq_true rfl, rfl⟩
  unfold hintShort
  dsimp only
  split
  · split
    · next hb => subst hb; exact ⟨by simp [Instr.wellFormed, plain, blank], rfl⟩
    · exact hnop
  · split
    · exact hnop
    · next hbit =>
      split
      · exact ⟨pfd_short (fld_even hbit) hform, rfl⟩
      · split
        · exact ⟨pfd_short (fld_even hbit) hform, rfl⟩
        · exact hnop
  · split
    · exact ⟨by simp [Instr.wellFormed, blank, hform], rfl⟩
    · exact hnop
  · split
    · refine ⟨?_, rfl⟩
      have hp : (fld w 3 3).setWidth 4 < 8 := setWidth_lt _ (by omega)
      have himm : (fld w 6 12).setWidth 24 < 0x1000 := setWidth_lt _ (by omega)
      simpa [Instr.wellFormed, blank, hform] using And.intro hp himm
    · exact hnop

theorem hintLong_wellFormed (hform : form.isExt = true) :
    (hintLong form w0 w1 w2 lit).wellFormed = true ∧ isEvent (hintLong form w0 w1 w2 lit) = false := by
  have hnop : (Instr.nop (blank form)).wellFormed = true ∧ isEvent (.nop (blank form)) = false := ⟨decide_eq_true rfl, rfl⟩
  have himm : (fld w2 0 16).setWidth 24 < 0x10000 := setWidth_lt _ (by omega)
  unfold hintLong
  dsimp only
  split
  · exact hnop
  split
  · split
    · refine ⟨?_, rfl⟩
      have hmd : (fld w2 16 8 &&& 7) < 8 := by
        rw [BitVec.lt_def, BitVec.toNat_and]
        exact Nat.lt_of_le_of_lt Nat.and_le_right (by decide)
      cases hl : form.hasLit with
      | false => simpa [Instr.wellFormed, blank, hform, hl] using And.intro hmd himm
      | true => simpa [Instr.wellFormed, blank, hform, hl] using hmd
    · exact hnop
  · split
    · next a ha =>
      split
      · next hbase =>
        have hpfd : Instr.wellFormed.pfd { blank form with a := a, gd := ⟨fld w1 6 4, fld w1 5 1 == 1⟩, imm := (fld w2 0 16).setWidth 24 } = true := by
          simpa [Instr.wellFormed.pfd, blank, hform, hbase, codable_of_operandOf ha] using himm
        split
        · exact ⟨hpfd, rfl⟩
        · split
          · exact ⟨hpfd, rfl⟩
          · exact hnop
      · exact hnop
    · exact hnop
  · exact hnop

/-! Short and long forms -/

theorem baseFields_form (form : Form) (m : Nat) (s : Sig) (w : Word) (lit : BitVec 64) : (baseFields form m s w lit).form = form := by
  unfold baseFields
  dsimp only
  repeat' split
  all_goals rfl

/-- A base form of a major with a base form (R168, R178). -/
theorem decodeShort_keyed (h0 : fld w 24 6 ≠ 0) (h5 : fld w 24 6 ≠ 5) (h38 : fld w 24 6 < 0x38) :
    decodeShort form w lit =
      match sigFor form ⟨fld w 24 6, if isB3 (fld w 24 6).toNat then fld w 0 3 else 0, 0⟩ with
      | none => .error .undefinedOperation
      | some s => finish ⟨fld w 24 6, if isB3 (fld w 24 6).toNat then fld w 0 3 else 0, 0⟩ s (baseFields form (fld w 24 6).toNat s w lit) := by
  have h3C : ¬ 0x3C ≤ fld w 24 6 := by bv_omega
  have h39 : fld w 24 6 ≠ 0x39 := by bv_omega
  have hext : ¬ 0x38 ≤ fld w 24 6 := by bv_omega
  simp only [decodeShort, if_neg h0, if_neg h5, if_neg h3C, if_neg h39, if_neg hext]
  rfl

theorem decodeShort_wellFormed (hform : form.isExt = false) (h : decodeShort form w lit = .ok i) : i.wellFormed = true ∧ isEvent i = false := by
  by_cases h0 : fld w 24 6 = 0
  · rw [decodeShort, if_pos h0] at h
    cases h
    exact ⟨decide_eq_true rfl, rfl⟩
  by_cases h5 : fld w 24 6 = 5
  · rw [decodeShort, if_neg h0, if_pos h5] at h
    cases h
    exact ⟨by simp [Instr.wellFormed, plain, blank, hform], rfl⟩
  by_cases h3C : 0x3C ≤ fld w 24 6
  · rw [decodeShort, if_neg h0, if_neg h5, if_pos h3C] at h
    cases h
    exact hintShort_wellFormed hform
  by_cases h38 : 0x38 ≤ fld w 24 6
  · rw [decodeShort, if_neg h0, if_neg h5, if_neg h3C, if_pos h38] at h
    split at h <;> cases h
  rw [decodeShort_keyed h0 h5 (by bv_omega)] at h
  split at h
  · cases h
  · next s hs =>
    have ht := tabled_of_sigFor hs
    refine wellFormed_of_finish (s := s) (by rw [baseFields_form]; exact hs) ?_ h
    rw [baseFields_form, hform, if_neg Bool.false_ne_true]
    refine baseOk_baseFields (fun hx => (sigFor_eq_some.mp hs).2 ⟨hx, hform⟩) rfl ?_ ht _ _
    have hb := ht.b3 (by bv_omega) rfl
    by_cases hfmt : s.fmt = .b3
    · exact .inl hfmt
    · exact .inr (if_neg (by rw [hb]; simpa using hfmt))

theorem decodeLong_wellFormed (hform : form.isExt = true) (h : decodeLong form w0 w1 w2 lit = .ok i) : i.wellFormed = true ∧ isEvent i = false := by
  unfold decodeLong at h
  dsimp only at h
  split at h
  · cases h; exact ⟨decide_eq_true rfl, rfl⟩
  split at h
  · cases h; exact ⟨by simp [Instr.wellFormed, plain, blank], rfl⟩
  split at h
  · cases h; exact hintLong_wellFormed hform
  split at h
  · split at h
    · split at h
      · cases h
      · next hgap =>
        cases h
        rw [Bool.or_eq_true, not_or, Bool.not_eq_true, Bool.not_eq_true] at hgap
        exact ⟨by simp only [Instr.wellFormed, hgap.1, hgap.2]; rfl, rfl⟩
    · cases h
  split at h
  · cases h
  · next hs =>
    split at h
    · cases h
    · next hf =>
      obtain ⟨hok, hfm⟩ := extOk_of_extFields (tabled_of_sigFor hs) hf
      exact wellFormed_of_finish (hfm ▸ hs) (by rw [hfm, if_pos hform]; exact hok) h

end

end Sys2Proof.Enc
end

section
/-! Whatever decodes is well formed, and only its own words decide (R166, R182). -/

open Sys2Proof

namespace Sys2Proof.Enc

variable {ws : List Word} {i : Instr}

/-- What the words of one instruction decode to is well formed. -/
theorem decodeWords_wellFormed (h : decodeWords ws = .ok i) : i.wellFormed = true ∧ isEvent i = false := by
  unfold decodeWords at h
  split at h
  · cases h
  split at h
  · exact decodeShort_wellFormed rfl h
  · exact decodeShort_wellFormed rfl h
  · exact decodeLong_wellFormed rfl h
  · exact decodeLong_wellFormed rfl h
  · cases h

/-- The first word says how many words decide (R166). -/
theorem decodeWords_take (h : decodeWords ws = .ok i) :
    ∃ w rest, ws = w :: rest ∧ (formOf w).len ≤ 4 * ws.length ∧ decodeWords (ws.take ((formOf w).len / 4)) = .ok i := by
  match ws with
  | [] => cases h
  | w0 :: rest =>
    refine ⟨w0, rest, rfl, ?_⟩
    unfold decodeWords at h
    dsimp only at h
    split at h
    case h_5 => cases h
    all_goals
      next hform =>
      refine ⟨by simp only [hform, Form.len, List.length_cons]; omega, ?_⟩
      simp only [decodeWords, hform, Form.len, Nat.reduceDiv, List.take]
      exact h

end Sys2Proof.Enc

/-- Settles O23: each form reads fields in their ranges, and `finish` has met no ILLEGAL condition; LEN of the first word picks the words that are read. -/
theorem decodedWellFormed : Obligations.DecodedWellFormed := by
  unfold Obligations.DecodedWellFormed
  intro ws i h
  obtain ⟨hwf, hev⟩ := Enc.decodeWords_wellFormed h
  exact ⟨hwf, hev, Enc.decodeWords_take h⟩
end

section
/-! What the encoder writes the decoder reads back (R163, R166), for every well-formed instruction whose constructor is that of its form: a branch, a call or a JOIN in
an extended form is the X one (R188, R189). -/

namespace Sys2Proof.Enc

/-- The constructor fits the form: of a branch, a call and a JOIN the X one is the extended one. -/
def fitsForm : Instr → Bool
  | .bra f => !f.form.isExt
  | .braX f => f.form.isExt
  | .call f => !f.form.isExt
  | .callX f => f.form.isExt
  | .join f => !f.form.isExt
  | .joinX f => f.form.isExt
  | _ => true

section
variable {form : Form} {k : Key} {s : Sig} {f : Fields} {i : Instr} {w w0 w1 w2 : Word} {lit : BitVec 64} {maj : BitVec 6} {b : BitVec 24}

/-- The key of an operation selects it (R177). -/
theorem build_of_parts (h : parts i = some (k, f)) (hfit : fitsForm i = true) : build k f = some i := by
  cases i with
  | bra | call | join =>
    cases h
    exact congrArg some (if_neg (by simpa [fitsForm] using hfit))
  | braX | callX | joinX =>
    cases h
    exact congrArg some (if_pos hfit)
  | icmp c | scmp c | waitc c | fcmp c => cases c <;> cases h <;> rfl
  | rdx op | rstep op | scan op => cases op <;> cases h <;> rfl
  | atom op | atomb op | comm op => cases op <;> cases h <;> rfl
  | ldg w | stg w | ldb w | stb w => cases w <;> cases h <;> rfl
  | _ => cases h <;> rfl

theorem encode_of_parts (h : parts i = some (k, f)) : encode i = encodeParts k f := by
  cases i <;> cases h <;> rfl

/-! The words of a form -/

/-- The literal a form reads: none where it carries none. -/
def readLit (form : Form) (lit : BitVec 64) : BitVec 64 := if form.hasLit then lit else 0

theorem decodeWords_short (h : form.isExt = false) : decodeWords (short form maj b lit) = decodeShort form (word0 form maj b) (readLit form lit) := by
  cases form with
  | base => simp [short, decodeWords, Form.hasLit, readLit]
  | lit => simp [short, decodeWords, Form.hasLit, litWords, litWords_append, readLit]
  | ext | extLit => cases h

theorem decodeWords_long (h : form.isExt = true) : decodeWords (word0 form maj b :: w1 :: w2 :: (if form.hasLit then litWords lit else [])) =
    decodeLong form (word0 form maj b) w1 w2 (readLit form lit) := by
  cases form with
  | ext => simp [decodeWords, Form.hasLit, readLit]
  | extLit => simp [decodeWords, Form.hasLit, litWords, litWords_append, readLit]
  | base | lit => cases h

theorem baseFields_readLit {m : Nat} : baseFields form m s w (readLit form lit) = baseFields form m s w lit := by
  cases h : form.hasLit <;> simp [readLit, baseFields, h]

theorem extFields_readLit : extFields form k s w0 w1 w2 (readLit form lit) = extFields form k s w0 w1 w2 lit := by
  cases h : form.hasLit <;> simp [readLit, extFields, h]

/-- An extended form of a major with a signature, its fields read (R170). -/
theorem decodeLong_keyed (h0 : fld w0 24 6 ≠ 0) (h5 : fld w0 24 6 ≠ 5) (h39 : fld w0 24 6 ≠ 0x39) (h3C : fld w0 24 6 < 0x3C)
    (hs : sigFor form ⟨fld w0 24 6, fld w2 29 3, fld w2 24 5⟩ = some s) (hf : extFields form ⟨fld w0 24 6, fld w2 29 3, fld w2 24 5⟩ s w0 w1 w2 lit = .ok f) :
    decodeLong form w0 w1 w2 lit = finish ⟨fld w0 24 6, fld w2 29 3, fld w2 24 5⟩ s f := by
  have h3C : ¬ 0x3C ≤ fld w0 24 6 := by bv_omega
  simp only [decodeLong, if_neg h0, if_neg h5, if_neg h3C, if_neg h39, hs, hf]

theorem baseFixed_of_baseOk (hok : baseOk k s f = true) : baseFixed k s f := by
  simp only [baseOk, Bool.and_eq_true, decide_eq_true_eq, Bool.or_eq_true] at hok
  obtain ⟨⟨⟨⟨⟨hty, hmd⟩, hlit⟩, hsub⟩, hfn⟩, -⟩ := hok
  exact ⟨hty, hmd, hlit, hsub, hfn⟩

/-- FN of a base form is read back: from the word where the format has it, 0 elsewhere (R168). -/
theorem baseKey_read (ht : Tabled k s) (hok : baseOk k s f = true) (hmaj : k.maj.toNat < 0x38) :
    (⟨k.maj, if isB3 k.maj.toNat then fld (word0 f.form k.maj (body k s f)) 0 3 else 0, 0⟩ : Key) = k := by
  obtain ⟨-, -, -, hsub, hfn⟩ := baseFixed_of_baseOk hok
  have hread : (if isB3 k.maj.toNat then fld (word0 f.form k.maj (body k s f)) 0 3 else 0) = k.fn := by
    rw [ht.b3 hmaj (congrArg BitVec.toNat hsub)]
    split
    · next h =>
      rw [fld_word0_of_le _ _ _ (by omega), body, beq_iff_eq.mp h]
      simp (disch := decide) only [BitVec.extractLsb'_append_eq_of_add_le, extractLsb'_all, -Nat.reduceAdd]
    · next h => exact (hfn.resolve_left (by simpa using h)).symm
  rw [hread, ← hsub]

theorem longKey_read (md : BitVec 8) (imm : BitVec 16) : fld (k.fn ++ k.sub ++ md ++ imm) 29 3 = k.fn ∧ fld (k.fn ++ k.sub ++ md ++ imm) 24 5 = k.sub := by
  constructor <;>
    simp (disch := decide) only [fld, BitVec.extractLsb'_append_eq_of_le, BitVec.extractLsb'_append_eq_of_add_le, extractLsb'_all, -Nat.reduceAdd]

theorem decodeWords_encodeParts (hok : partsOk k f = true) (hb : build k f = some i) : decodeWords (encodeParts k f) = .ok i := by
  unfold partsOk at hok
  split at hok
  · cases hok
  next s hs =>
  obtain ⟨hok, hcheck⟩ := Bool.and_eq_true_iff.mp hok
  have ht := tabled_of_sigFor hs
  have hfin : finish k s f = .ok i := finish_eq_ok.mpr ⟨Option.isNone_iff_eq_none.mp hcheck, hb⟩
  obtain ⟨h0, h5, h39, h3C⟩ := ht.maj
  unfold encodeParts
  rw [hs]
  dsimp only
  split
  · next hext =>
    rw [if_pos hext] at hok
    rw [long]
    refine (decodeWords_long hext).trans ?_
    rw [decodeLong_keyed (s := s) (f := f)]
    all_goals rw [fld_word0_maj]
    · rw [(longKey_read _ _).1, (longKey_read _ _).2, hfin]
    · bv_omega
    · bv_omega
    · bv_omega
    · bv_omega
    · rw [(longKey_read _ _).1, (longKey_read _ _).2, hs]
    · rw [(longKey_read _ _).1, (longKey_read _ _).2, extFields_readLit, extFields_long ht hok]
  · next hext =>
    rw [if_neg hext] at hok
    have hbase := ht.base.resolve_left (fun hx => (sigFor_eq_some.mp hs).2 ⟨hx, Bool.not_eq_true _ ▸ hext⟩)
    rw [decodeWords_short (by simpa using hext), decodeShort_keyed (by rw [fld_word0_maj]; bv_omega) (by rw [fld_word0_maj]; bv_omega)
      (by rw [fld_word0_maj]; bv_omega)]
    rw [fld_word0_maj, baseKey_read ht hok hbase, hs]
    dsimp only
    rw [baseFields_readLit, baseFields_word0_body hok, hfin]

/-! NOP, TGT, the dual form and the hint region (R175, R179, R180) -/

theorem decodeWords_nop : decodeWords (encode (.nop (blank form))) = .ok (.nop (blank form)) := by
  cases form <;> rfl

theorem decodeWords_encodeFree_short {fn : BitVec 3} (h : f.form.isExt = false) :
    decodeWords (encodeFree maj fn b f) = decodeShort f.form (word0 f.form maj b) (readLit f.form f.lit) := by
  rw [encodeFree, h, if_neg Bool.false_ne_true, decodeWords_short h]

theorem decodeWords_encodeFree_long {fn : BitVec 3} (h : f.form.isExt = true) :
    decodeWords (encodeFree maj fn b f) = decodeLong f.form (word0 f.form maj ((0 : BitVec 11) ++ codeOf f.a ++ (0 : BitVec 2)))
      ((0 : BitVec 11) ++ (0 : BitVec 11) ++ f.gd.p ++ bit f.gd.neg ++ (0 : BitVec 5)) (fn ++ (0 : BitVec 5) ++ f.md ++ f.imm.setWidth 16) (readLit f.form f.lit) := by
  rw [encodeFree, h, if_pos rfl]
  exact decodeWords_long h

theorem decodeShort_hint (h : 0x3C ≤ maj) : decodeShort form (word0 form maj b) lit = .ok (hintShort form (word0 form maj b)) := by
  simp only [decodeShort, fld_word0_maj]
  rw [if_neg (by bv_omega), if_neg (by bv_omega), if_pos h]

theorem decodeLong_hint (h : 0x3C ≤ maj) : decodeLong form (word0 form maj b) w1 w2 lit = .ok (hintLong form (word0 form maj b) w1 w2 lit) := by
  simp only [decodeLong, fld_word0_maj]
  rw [if_neg (by bv_omega), if_neg (by bv_omega), if_pos h]

theorem decodeWords_tgt {x : BitVec 24} (hx : form.isExt = true → x = 0) :
    decodeWords (encode (.tgt { blank form with imm := x })) = .ok (.tgt { blank form with imm := x }) := by
  cases h : form.isExt with
  | false =>
    refine (decodeWords_encodeFree_short h).trans ?_
    simp only [decodeShort, fld_word0_maj]
    rw [if_neg (by decide), if_pos trivial, fld_word0_of_le _ _ _ (by omega), extractLsb'_all _ rfl]
    rfl
  | true =>
    rw [hx h]
    refine (decodeWords_encodeFree_long h).trans ?_
    simp only [decodeLong, fld_word0_maj]
    rw [if_neg (by decide), if_pos trivial]
    rfl

theorem decodeWords_dual {gd : Guard} {x y : DualOp} (hx : fnGap x.maj x.fn = false) (hy : fnGap y.maj y.fn = false) :
    decodeWords (encode (.dual gd x y)) = .ok (.dual gd x y) := by
  obtain ⟨p, neg⟩ := gd
  refine (decodeWords_long (form := .ext) (lit := 0) rfl).trans ?_
  simp only [decodeLong, fld_word0_maj]
  rw [if_neg (by decide), if_neg (by decide), if_neg (by decide), if_pos trivial, if_pos trivial]
  simp (disch := decide) only [dualOp, dualWord, fld, word0, BitVec.extractLsb'_append_eq_of_le, BitVec.extractLsb'_append_eq_of_add_le, extractLsb'_all, -Nat.reduceAdd]
  rw [hx, hy, bit_eq_one]
  rfl

theorem decodeWords_pfi {x : BitVec 24} : decodeWords (encode (.pfi { blank .base with imm := x })) = .ok (.pfi { blank .base with imm := x }) := by
  refine (decodeWords_encodeFree_short rfl).trans ?_
  rw [decodeShort_hint (by decide)]
  simp only [hintShort, fld_word0_maj]
  rw [fld_word0_of_le _ _ _ (by omega), extractLsb'_all _ rfl]
  rfl

/-- The guard of an extended word is read back. -/
theorem longGuard_read {gd : Guard} : (⟨fld ((0 : BitVec 11) ++ (0 : BitVec 11) ++ gd.p ++ bit gd.neg ++ (0 : BitVec 5)) 6 4,
    fld ((0 : BitVec 11) ++ (0 : BitVec 11) ++ gd.p ++ bit gd.neg ++ (0 : BitVec 5)) 5 1 == 1⟩ : Guard) = gd := by
  simp (disch := decide) only [fld, BitVec.extractLsb'_append_eq_of_le, BitVec.extractLsb'_append_eq_of_add_le, extractLsb'_all, bit_eq_one, -Nat.reduceAdd]

/-- FN, SUB, MOD and IMM16 of an extended word are read back. -/
theorem longTail_read {fn : BitVec 3} {md : BitVec 8} {imm : BitVec 16} :
    fld (fn ++ (0 : BitVec 5) ++ md ++ imm) 29 3 = fn ∧ fld (fn ++ (0 : BitVec 5) ++ md ++ imm) 24 5 = 0 ∧ fld (fn ++ (0 : BitVec 5) ++ md ++ imm) 16 8 = md ∧
      fld (fn ++ (0 : BitVec 5) ++ md ++ imm) 0 16 = imm := by
  and_intros <;>
    simp (disch := decide) only [fld, BitVec.extractLsb'_append_eq_of_le, BitVec.extractLsb'_append_eq_of_add_le, extractLsb'_all, -Nat.reduceAdd]

theorem decodeWords_pfiX {gd : Guard} {md : BitVec 8} {imm : BitVec 24} {x : BitVec 64} (hform : form.isExt = true) (hmd : md < 8)
    (himm : if form.hasLit then imm = 0 else imm < 0x10000 ∧ x = 0) :
    decodeWords (encode (.pfiX { blank form with gd := gd, md := md, imm := imm, lit := x })) = .ok (.pfiX { blank form with gd := gd, md := md, imm := imm, lit := x }) := by
  have hmd7 : md &&& 7 = md := by
    clear himm
    revert md
    decide
  obtain ⟨hfn, hsub, hmod, himm16⟩ := longTail_read (fn := 0) (md := md) (imm := imm.setWidth 16)
  refine (decodeWords_encodeFree_long hform).trans ?_
  rw [decodeLong_hint (by decide)]
  simp only [hintLong, fld_word0_maj, longGuard_read, hfn, hsub, hmod, himm16, hmd7, readLit]
  refine congrArg (fun f => Except.ok (Instr.pfiX f)) ?_
  cases hl : form.hasLit with
  | false =>
    rw [hl, if_neg Bool.false_ne_true] at himm
    obtain ⟨himm, rfl⟩ := himm
    have hread := setWidth_setWidth_of_lt_two_pow (n := 16) himm (by omega)
    simp only [blank, hl, hread, Bool.false_eq_true, if_false]
  | true =>
    rw [hl, if_pos rfl] at himm
    rw [himm]
    simp [blank, hl]

/-- A hint's word in base form: operand A, the guard and FN. -/
theorem hintWord_read (x y : BitVec 6) (p fn : BitVec 3) (z : BitVec 6) : 
    fld (word0 form maj (x ++ y ++ z ++ p ++ fn)) 12 6 = y ∧ fld (word0 form maj (x ++ y ++ z ++ p ++ fn)) 3 3 = p ∧ 
      fld (word0 form maj (x ++ y ++ z ++ p ++ fn)) 0 3 = fn := by
  and_intros <;> rw [fld_word0_of_le _ _ _ (by omega)] <;>
    simp (disch := decide) only [BitVec.extractLsb'_append_eq_of_le, BitVec.extractLsb'_append_eq_of_add_le, extractLsb'_all, -Nat.reduceAdd]

/-- An even register number has a clear low bit. -/
theorem fld_low_bit_of_even {b : BitVec 24} {n : BitVec 6} (h : b.extractLsb' 12 6 = n) (hn : n.toNat % 2 = 0) : ¬(fld (word0 form maj b) 12 1 == 1) = true := by
  rw [fld_word0_of_le _ _ _ (by omega), beq_iff_eq]
  intro he
  have h1 := congrArg BitVec.toNat he
  have h6 := congrArg BitVec.toNat h
  rw [BitVec.extractLsb'_toNat] at h1 h6
  have : (1 : BitVec 1).toNat = 1 := rfl
  omega

/-- PFD by FN (R263). -/
def pfdOf (fn : BitVec 3) (f : Fields) : Instr := if fn = 0 then .pfdL1 f else .pfdSlice f

/-- PFD in base form reads its register, its guard and FN back. -/
theorem hintShort_pfd {fn p : BitVec 3} {n : BitVec 6} (hfn : fn = 0 ∨ fn = 1) (hn : n.toNat % 2 = 0) :
    hintShort form (word0 form 0x3D ((0 : BitVec 6) ++ n ++ (0 : BitVec 6) ++ p ++ fn)) =
      pfdOf fn { blank form with a := .vec (n.setWidth 11), gd := ⟨p.setWidth 4, false⟩ } := by
  obtain ⟨ha, hp, hf⟩ := hintWord_read (form := form) (maj := 0x3D) 0 n p fn 0
  have hbit := fld_low_bit_of_even (form := form) (maj := 0x3D) (b := (0 : BitVec 6) ++ n ++ (0 : BitVec 6) ++ p ++ fn) (n := n)
    (by simp (disch := decide) only [BitVec.extractLsb'_append_eq_of_le, BitVec.extractLsb'_append_eq_of_add_le, extractLsb'_all, -Nat.reduceAdd]) hn
  simp only [hintShort, fld_word0_maj, ha, hp, hf, if_neg hbit, pfdOf]
  rcases hfn with rfl | rfl <;> rfl

/-- PFD in extended form reads its operand, its guard and FN back. -/
theorem hintLong_pfd {fn : BitVec 3} {a : Operand} {gd : Guard} {imm : BitVec 24} (hfn : fn = 0 ∨ fn = 1) (ha : codable a = true) (hbase : pfdBase a = true)
    (himm : imm < 0x10000) : hintLong form (word0 form 0x3D ((0 : BitVec 11) ++ codeOf a ++ (0 : BitVec 2)))
      ((0 : BitVec 11) ++ (0 : BitVec 11) ++ gd.p ++ bit gd.neg ++ (0 : BitVec 5)) (fn ++ (0 : BitVec 5) ++ (0 : BitVec 8) ++ imm.setWidth 16) lit =
      pfdOf fn { blank form with a := a, gd := gd, imm := imm } := by
  obtain ⟨hf, hsub, -, himm16⟩ := longTail_read (fn := fn) (md := 0) (imm := imm.setWidth 16)
  have hcode : fld (word0 form 0x3D ((0 : BitVec 11) ++ codeOf a ++ (0 : BitVec 2))) 2 11 = codeOf a := by
    rw [fld_word0_of_le _ _ _ (by omega)]
    simp (disch := decide) only [BitVec.extractLsb'_append_eq_of_le, BitVec.extractLsb'_append_eq_of_add_le, extractLsb'_all, -Nat.reduceAdd]
  have hread := setWidth_setWidth_of_lt_two_pow (n := 16) himm (by omega)
  simp only [hintLong, fld_word0_maj, longGuard_read, hf, hsub, himm16, hcode, operandOf_codeOf ha, hbase, hread, pfdOf]
  rcases hfn with rfl | rfl <;> rfl

/-- A well-formed PFD is read back. -/
theorem decodeWords_pfd {fn : BitVec 3} (hfn : fn = 0 ∨ fn = 1) (h : Instr.wellFormed.pfd f = true) :
    decodeWords (encodeFree 0x3D fn ((0 : BitVec 6) ++ field6 f.a ++ (0 : BitVec 6) ++ f.gd.p.setWidth 3 ++ fn) f) = .ok (pfdOf fn f) := by
  simp only [Instr.wellFormed.pfd, Bool.and_eq_true, decide_eq_true_eq] at h
  obtain ⟨⟨hbase, hf⟩, hok⟩ := h
  cases hext : f.form.isExt with
  | true =>
    rw [hext, if_pos rfl, Bool.and_eq_true, decide_eq_true_eq] at hok
    rw [decodeWords_encodeFree_long hext, decodeLong_hint (by decide), show f.md = 0 by rw [hf]; rfl, hintLong_pfd hfn hok.2 hbase hok.1, ← hf]
  | false =>
    rw [hext, if_neg Bool.false_ne_true] at hok
    simp only [Bool.and_eq_true, decide_eq_true_eq] at hok
    obtain ⟨⟨⟨himm, hp⟩, hneg⟩, ha⟩ := hok
    cases hfa : f.a with
    | vec n =>
      rw [hfa] at ha hbase
      have hn : n < 64 := of_decide_eq_true ha
      have heven : (n.setWidth 6).toNat % 2 = 0 := by
        have : n.toNat % 2 = 0 := of_decide_eq_true hbase
        bv_omega
      rw [decodeWords_encodeFree_short hext, decodeShort_hint (by decide), field6, hintShort_pfd hfn heven, setWidth_setWidth_of_lt hn, guard_read hp hneg, ← hfa]
      rw [himm] at hf
      exact congrArg (fun g => Except.ok (pfdOf fn g)) hf.symm
    | _ => rw [hfa] at ha; cases ha

theorem decodeWords_yield (hform : form.isExt = false) : decodeWords (encode (.yield (blank form))) = .ok (.yield (blank form)) := by
  refine (decodeWords_encodeFree_short hform).trans ?_
  rw [decodeShort_hint (by decide)]
  simp only [hintShort, fld_word0_maj]
  rw [fld_word0_of_le _ _ _ (by omega), extractLsb'_all _ rfl]
  rfl

theorem decodeWords_hint {gd : Guard} {imm : BitVec 24} (hform : form.isExt = false) (hp : gd.p < 8) (hneg : gd.neg = false) (himm : imm < 0x1000) :
    decodeWords (encode (.hint { blank form with gd := gd, imm := imm })) = .ok (.hint { blank form with gd := gd, imm := imm }) := by
  have hread := setWidth_setWidth_of_lt_two_pow (n := 12) himm (by omega)
  refine (decodeWords_encodeFree_short hform).trans ?_
  rw [decodeShort_hint (by decide)]
  simp (disch := decide) only [hintShort, fld, word0, BitVec.extractLsb'_append_eq_of_le, BitVec.extractLsb'_append_eq_of_add_le, extractLsb'_all,
    -Nat.reduceAdd]
  rw [guard_read hp hneg, hread]
  rfl

end

/-- Decoding the words of a well-formed instruction gives it back, when its constructor fits its form. -/
theorem decodeWords_encode {i : Instr} (hev : isEvent i = false) (hwf : i.wellFormed = true) (hfit : fitsForm i = true) : decodeWords (encode i) = .ok i := by
  match hp : parts i with
  | some (k, f) =>
    rw [encode_of_parts hp]
    exact decodeWords_encodeParts (wellFormed_of_parts hp ▸ hwf) (build_of_parts hp hfit)
  | none =>
    have hfree : ((parts i).isNone && !isEvent i) = true := by rw [hp, hev]; rfl
    cases i with
    | nop f =>
      rw [of_decide_eq_true hwf]
      exact decodeWords_nop
    | tgt f =>
      simp only [Instr.wellFormed, plain, Bool.and_eq_true, Bool.or_eq_true, decide_eq_true_eq, beq_iff_eq] at hwf
      obtain ⟨hf, hx⟩ := hwf
      rw [hf]
      exact decodeWords_tgt (fun h => hx.resolve_left (by rw [h]; decide))
    | dual gd x y =>
      simp only [Instr.wellFormed, Bool.and_eq_true, Bool.not_eq_true'] at hwf
      exact decodeWords_dual hwf.1 hwf.2
    | pfi f =>
      simp only [Instr.wellFormed, plain, Bool.and_eq_true, decide_eq_true_eq] at hwf
      obtain ⟨hform, hf⟩ := hwf
      rw [hf, hform]
      exact decodeWords_pfi
    | pfiX f =>
      simp only [Instr.wellFormed, Bool.and_eq_true, decide_eq_true_eq] at hwf
      obtain ⟨⟨⟨hform, hf⟩, hmd⟩, himm⟩ := hwf
      rw [hf]
      refine decodeWords_pfiX hform hmd ?_
      simpa using himm
    | pfdL1 f => exact decodeWords_pfd (fn := 0) (.inl rfl) hwf
    | pfdSlice f => exact decodeWords_pfd (fn := 1) (.inr rfl) hwf
    | yield f =>
      simp only [Instr.wellFormed, Bool.and_eq_true, decide_eq_true_eq, beq_iff_eq] at hwf
      obtain ⟨hform, hf⟩ := hwf
      rw [hf]
      exact decodeWords_yield hform
    | hint f =>
      simp only [Instr.wellFormed, Bool.and_eq_true, decide_eq_true_eq, beq_iff_eq] at hwf
      obtain ⟨⟨⟨⟨hform, hf⟩, hp⟩, hneg⟩, himm⟩ := hwf
      rw [hf]
      exact decodeWords_hint hform hp hneg himm
    | _ => cases hfree

end Sys2Proof.Enc
end

section
/-! The two statements about the encoder and the decoder that fixed instructions settle (R163, R166). -/

open Sys2Proof

/-- Refutes O22: BRA in an extended form is well formed, as `Instr.wellFormed` ties no constructor to its form, and its words are those of the X constructor.
Where the constructor fits the form the statement holds (`Enc.decodeWords_encode`). -/
theorem not_decodeEncode : ¬ Obligations.DecodeEncode := by
  unfold Obligations.DecodeEncode
  intro h
  have hback := h (.bra (Enc.blank .ext)) rfl (by decide)
  have hdecodes : decodeWords (encode (.bra (Enc.blank .ext))) = .ok (.braX (Enc.blank .ext)) := rfl
  rw [hdecodes] at hback
  simp at hback

/-- Settles O24: each pair of words and instruction, by evaluation of the decoder. -/
theorem knownWords : Obligations.KnownWords := by
  unfold Obligations.KnownWords
  simp only [List.forall_mem_cons, List.not_mem_nil, false_imp_iff, implies_true, and_true]
  and_intros <;> rfl

end


section
/-! Integer operations on words (R198, R199): the model's operations on naturals are those of bit vectors. -/

namespace Sys2Proof.Machine

/-! Logic (R198) -/

theorem not32_toNat (a : Word) : not32 a.toNat = (~~~a).toNat := by
  rw [not32, BitVec.toNat_not]
  omega

theorem ofNat_and_toNat (a b : Word) : BitVec.ofNat 32 (a.toNat &&& b.toNat) = a &&& b := by
  rw [← BitVec.toNat_and, BitVec.ofNat_toNat, BitVec.setWidth_eq]

theorem ofNat_or_toNat (a b : Word) : BitVec.ofNat 32 (a.toNat ||| b.toNat) = a ||| b := by
  rw [← BitVec.toNat_or, BitVec.ofNat_toNat, BitVec.setWidth_eq]

theorem ofNat_toNat_word (a : Word) : BitVec.ofNat 32 a.toNat = a := by
  rw [BitVec.ofNat_toNat, BitVec.setWidth_eq]

theorem logicOp_and (a b : Word) : BitVec.ofNat 32 (logicOp 0 a.toNat b.toNat) = a &&& b := ofNat_and_toNat a b
theorem logicOp_or (a b : Word) : BitVec.ofNat 32 (logicOp 1 a.toNat b.toNat) = a ||| b := ofNat_or_toNat a b
theorem logicOp_xor (a b : Word) : BitVec.ofNat 32 (logicOp 2 a.toNat b.toNat) = a ^^^ b := by
  rw [logicOp, ← BitVec.toNat_xor, ofNat_toNat_word]
theorem logicOp_andn (a b : Word) : BitVec.ofNat 32 (logicOp 3 a.toNat b.toNat) = a &&& ~~~b := by
  rw [logicOp, not32_toNat, ofNat_and_toNat]
theorem logicOp_orn (a b : Word) : BitVec.ofNat 32 (logicOp 4 a.toNat b.toNat) = a ||| ~~~b := by
  rw [logicOp, not32_toNat, ofNat_or_toNat]
theorem logicOp_xnor (a b : Word) : BitVec.ofNat 32 (logicOp 5 a.toNat b.toNat) = ~~~(a ^^^ b) := by
  rw [logicOp, ← BitVec.toNat_xor, not32_toNat, ofNat_toNat_word]
theorem logicOp_not (a b : Word) : BitVec.ofNat 32 (logicOp 6 a.toNat b.toNat) = ~~~a := by
  rw [logicOp, not32_toNat, ofNat_toNat_word]
theorem logicOp_mov (a b : Word) : BitVec.ofNat 32 (logicOp 7 a.toNat b.toNat) = a := ofNat_toNat_word a

/-- Bit `i` of LOP3's term for index `j`: the table's entry, where the three bits make up the index (R198). -/
theorem testBit_lop3Term (tab j : Nat) (a b c : Word) {i : Nat} (hi : i < 32) : (lop3Term tab j a.toNat b.toNat c.toNat).testBit i =
    (tab.testBit j && (a.getLsbD i == j.testBit 0) && (b.getLsbD i == j.testBit 1) && (c.getLsbD i == j.testBit 2)) := by
  have hpick (v : Word) (n : Nat) : (if j.testBit n = true then v.toNat else not32 v.toNat).testBit i = (v.getLsbD i == j.testBit n) := by
    rw [not32_toNat, apply_ite (Nat.testBit · i)]
    simp only [BitVec.testBit_toNat, BitVec.getLsbD_not, hi, decide_true, Bool.true_and]
    cases j.testBit n <;> simp
  unfold lop3Term
  dsimp only
  split
  · next h => simp only [Nat.testBit_and, hpick, h, Bool.true_and]
  · next h => simp [h]

/-- Bit `i` of LOP3 is the table's entry that the bits of the sources name (R198). -/
theorem testBit_lop3Op (tab : Nat) (a b c : Word) {i : Nat} (hi : i < 32) : (lop3Op tab a.toNat b.toNat c.toNat).testBit i =
    tab.testBit ((a.getLsbD i).toNat + 2 * (b.getLsbD i).toNat + 4 * (c.getLsbD i).toNat) := by
  simp only [lop3Op, List.range, List.range.loop, List.map_cons, List.map_nil, List.foldl_cons, List.foldl_nil, Nat.testBit_or, testBit_lop3Term _ _ _ _ _ hi]
  cases a.getLsbD i <;> cases b.getLsbD i <;> cases c.getLsbD i <;> simp [Nat.testBit, Nat.shiftRight_eq_div_pow]

/-! Shifts (R199) -/

theorem toS_toNat (a : Word) : toS 32 a.toNat = a.toInt := by
  rw [toS, sextNat, ofNat_toNat_word]

theorem ofNat_ofS (z : Int) : BitVec.ofNat 32 (ofS 32 z) = BitVec.ofInt 32 z := ofNat_toNat_word _

theorem shiftOp_shl (a b : Word) : BitVec.ofNat 32 (shiftOp 0 a.toNat b.toNat) = if 32 ≤ b.toNat then 0 else a <<< b.toNat := by
  change BitVec.ofNat 32 (if 32 ≤ b.toNat then 0 else a.toNat * 2 ^ b.toNat % 2 ^ 32) = _
  split
  · rfl
  · apply BitVec.eq_of_toNat_eq
    rw [BitVec.toNat_ofNat, BitVec.toNat_shiftLeft, Nat.shiftLeft_eq, Nat.mod_mod]

theorem shiftOp_shr (a b : Word) : BitVec.ofNat 32 (shiftOp 1 a.toNat b.toNat) = if 32 ≤ b.toNat then 0 else a >>> b.toNat := by
  change BitVec.ofNat 32 (if 32 ≤ b.toNat then 0 else a.toNat / 2 ^ b.toNat) = _
  split
  · rfl
  · rw [← Nat.shiftRight_eq_div_pow, ← BitVec.toNat_ushiftRight, ofNat_toNat_word]

theorem shiftOp_sar (a b : Word) : BitVec.ofNat 32 (shiftOp 2 a.toNat b.toNat) =
    if 32 ≤ b.toNat then (if a.msb then 0xFFFFFFFF else 0) else a.sshiftRight b.toNat := by
  have hshift (n : Nat) : BitVec.ofInt 32 (a.toInt / (2 ^ n : Nat)) = a.sshiftRight n := by
    rw [← Int.shiftRight_eq_div_pow, ← BitVec.toInt_sshiftRight, BitVec.ofInt_toInt]
  rw [shiftOp, toS_toNat, ofNat_ofS, hshift]
  split
  · next h =>
    rw [show min b.toNat 31 = 31 by omega]
    apply BitVec.eq_of_getLsbD_eq
    intro i hi
    have hsign : (a.sshiftRight 31).getLsbD i = a.msb := by
      rw [BitVec.getLsbD_sshiftRight, BitVec.msb_eq_getLsbD_last]
      rcases Nat.eq_zero_or_pos i with rfl | hpos
      · simp
      · simp [show ¬ 31 + i < 32 by omega, hi]
    rw [hsign, show (0xFFFFFFFF : Word) = BitVec.allOnes 32 from rfl]
    cases a.msb
    · exact BitVec.getLsbD_zero.symm
    · exact (BitVec.getLsbD_allOnes.trans (decide_eq_true hi)).symm
  · next h => rw [show min b.toNat 31 = b.toNat by omega]

theorem ofNat_rol (a : Word) (n : Nat) : BitVec.ofNat 32 (rol a.toNat n) = a.rotateLeft n := by
  have hk : n % 32 < 32 := Nat.mod_lt _ (by omega)
  have hpow : 2 ^ 32 = 2 ^ (32 - n % 32) * 2 ^ (n % 32) := by rw [← pow_add]; congr 1; omega
  have hlt : a.toNat >>> (32 - n % 32) < 2 ^ (n % 32) := by
    rw [Nat.shiftRight_eq_div_pow]
    exact Nat.div_lt_of_lt_mul (hpow ▸ a.isLt)
  have hhigh : a.toNat * 2 ^ (n % 32) % 2 ^ 32 = (a.toNat % 2 ^ (32 - n % 32)) <<< (n % 32) := by
    rw [hpow, Nat.mul_mod_mul_right, Nat.shiftLeft_eq]
  have hsum : rol a.toNat n = (a.rotateLeft n).toNat := by
    rw [rol, BitVec.toNat_rotateLeft, ← Nat.shiftRight_eq_div_pow, hhigh, Nat.shiftLeft_add_eq_or_of_lt hlt, ← hhigh, Nat.shiftLeft_eq]
  rw [hsum, ofNat_toNat_word]

theorem shiftOp_rol (a b : Word) : BitVec.ofNat 32 (shiftOp 3 a.toNat b.toNat) = a.rotateLeft (b.toNat % 32) := by
  rw [shiftOp, ofNat_rol]
  simp only [BitVec.rotateLeft_def, Nat.mod_mod]

theorem shiftOp_ror (a b : Word) : BitVec.ofNat 32 (shiftOp 4 a.toNat b.toNat) = a.rotateRight (b.toNat % 32) := by
  rw [shiftOp, ofNat_rol]
  apply BitVec.eq_of_getLsbD_eq
  intro i hi
  rw [BitVec.getLsbD_rotateLeft, BitVec.getLsbD_rotateRight, Nat.mod_mod]
  have hk : b.toNat % 32 < 32 := Nat.mod_lt _ (by omega)
  generalize b.toNat % 32 = k at hk
  rcases Nat.eq_zero_or_pos k with rfl | hpos
  · simp [hi]
  · rw [Nat.mod_eq_of_lt (show 32 - k < 32 by omega), show 32 - (32 - k) = k by omega]

/-- `brev` of the low `n` bits leaves the bits below 32 − n clear. -/
theorem two_pow_dvd_brev (x : Nat) {n : Nat} (hn : n ≤ 32) : 2 ^ (32 - n) ∣ brev x n := by
  induction n with
  | zero => exact Dvd.intro 0 rfl
  | succ n ih =>
    rw [brev]
    refine dvd_add ?_ ((pow_dvd_pow 2 (by omega)).trans (ih (by omega)))
    split
    · exact pow_dvd_pow 2 (by omega)
    · exact dvd_zero _

/-- `brev` of the low `n` bits sets bit 31 − i for every set bit i below `n`. -/
theorem testBit_brev (x : Nat) {n : Nat} (hn : n ≤ 32) (i : Nat) :
    (brev x n).testBit i = (decide (32 - n ≤ i ∧ i < 32) && x.testBit (31 - i)) := by
  induction n with
  | zero => simp [brev]
  | succ n ih =>
    obtain ⟨m, hm⟩ := two_pow_dvd_brev x (n := n) (by omega)
    have hlow : (if x.testBit n then 2 ^ (31 - n) else 0) < 2 ^ (32 - n) := by
      split
      · exact Nat.pow_lt_pow_right (by omega) (by omega)
      · exact Nat.two_pow_pos _
    have ih := ih (by omega)
    rw [brev, hm, Nat.add_comm, Nat.testBit_two_pow_mul_add _ hlow]
    rw [hm, Nat.testBit_two_pow_mul] at ih
    split
    · next hi =>
      rw [apply_ite (Nat.testBit · i), Nat.zero_testBit, Nat.testBit_two_pow]
      by_cases hin : 31 - n = i
      · rw [show 31 - i = n by omega]
        cases x.testBit n
        · simp
        · simp [hin]
          omega
      · rw [decide_eq_false hin, ite_self, decide_eq_false (show ¬ (32 - (n + 1) ≤ i ∧ i < 32) by omega), Bool.false_and]
    · next hi =>
      rw [decide_eq_true (show i ≥ 32 - n by omega), Bool.true_and] at ih
      rw [ih]
      congr 1
      exact decide_eq_decide.mpr (by omega)

theorem shiftOp_brev (a b : Word) : BitVec.ofNat 32 (shiftOp 5 a.toNat b.toNat) = a.reverse := by
  apply BitVec.eq_of_getLsbD_eq
  intro i hi
  rw [shiftOp, BitVec.getLsbD_ofNat, testBit_brev _ (Nat.le_refl 32), BitVec.getLsbD_reverse, BitVec.getMsbD]
  simp [hi, BitVec.testBit_toNat]

theorem popc_eq_countP (a : Word) (n : Nat) : popc a.toNat n = (List.range n).countP (fun i => a.getLsbD i) := by
  induction n with
  | zero => rfl
  | succ n ih => 
    rw [popc, ih, List.range_succ, List.countP_append, List.countP_singleton, BitVec.testBit_toNat, Nat.add_comm]

theorem shiftOp_popc (a b : Word) : BitVec.ofNat 32 (shiftOp 6 a.toNat b.toNat) = BitVec.ofNat 32 ((List.range 32).countP (fun i => a.getLsbD i)) := by
  rw [shiftOp, popc_eq_countP]

theorem shiftOp_clz (a b : Word) : BitVec.ofNat 32 (shiftOp 7 a.toNat b.toNat) =
    BitVec.ofNat 32 (((List.range 32).find? (fun i => a.getLsbD (31 - i))).getD 32) := by
  change BitVec.ofNat 32 (clz a.toNat) = _
  rw [clz, Nat.mod_eq_of_lt a.isLt]
  split
  · next h =>
    rw [List.find?_eq_none.mpr]
    · rfl
    · intro i _
      simp [BitVec.eq_of_toNat_eq (y := 0) h]
  · next h =>
    have hlog : a.toNat.log2 < 32 := (Nat.log2_lt h).mpr a.isLt
    have hfind : (List.range 32).find? (fun i => a.getLsbD (31 - i)) = some (31 - a.toNat.log2) := by
      refine List.find?_range_eq_some.mpr ⟨?_, List.mem_range.mpr (by omega), fun j hj => ?_⟩
      · rw [show 31 - (31 - a.toNat.log2) = a.toNat.log2 by omega, ← BitVec.testBit_toNat]
        exact Nat.testBit_log2 h
      · rw [← BitVec.testBit_toNat, Nat.testBit_lt_two_pow]
        · rfl
        · exact (Nat.log2_lt h).mp (by omega)
    rw [hfind]
    rfl

end Sys2Proof.Machine
end

section
/-! LOGIC, LOP3, SHIFT and the predicate operations (R198, R199, R202): each gives every guard-true lane the word its operation makes of the words of its sources. -/

namespace Sys2Proof.Machine

/-! Words of sources and destinations -/

theorem fpConst_lt (k : BitVec 4) : fpConst k < 2 ^ 32 := by
  revert k
  decide

theorem both_lt (x : Nat) : both x < 2 ^ 32 := by
  unfold both
  omega

/-- The integer types of one register: those whose operands are words. -/
def wordTy (t : Ty) : Prop := t = .i32 ∨ t = .un32 ∨ t = .i16x2 ∨ t = .i8x4

theorem wordTy_tyOf {f : Fields} (h : f.ty ∈ Enc.tI4) : wordTy (tyOf f) := by
  simp only [Enc.tI4, List.mem_cons, List.not_mem_nil, or_false] at h
  unfold wordTy tyOf
  rcases h with h | h | h | h <;> simp [h, Ty.ofCode]

theorem mem_tI4_of_mem_tI2 {t : BitVec 5} (h : t ∈ Enc.tI2) : t ∈ Enc.tI4 := by
  revert t
  decide

theorem isPair_of_wordTy {t : Ty} (h : wordTy t) : t.isPair = false := by
  rcases h with rfl | rfl | rfl | rfl <;> rfl

theorem constInt_lt {t : Ty} (h : wordTy t) (z : Int) : constInt t z < 2 ^ 32 := by
  rcases h with rfl | rfl | rfl | rfl
  · exact (BitVec.ofInt 32 z).isLt
  · exact (BitVec.ofInt 32 z).isLt
  · exact both_lt _
  · have := (BitVec.ofInt 8 z).isLt
    simp only [constInt]
    omega

theorem constFp_lt {t : Ty} (h : wordTy t) (k : BitVec 4) : constFp t k < 2 ^ 32 := by
  rcases h with rfl | rfl | rfl | rfl <;> exact fpConst_lt k

theorem srcVal_lt {g : Group} {t : Ty} (h : wordTy t) (x : Lane) (o : Operand) : srcVal g t x o < 2 ^ 32 := by
  cases o with
  | vec n => simpa [srcVal, isPair_of_wordTy h] using (x.reg n.toNat).isLt
  | scl n => simpa [srcVal, isPair_of_wordTy h] using Nat.mod_lt _ (by decide)
  | lit v => simpa [srcVal, isPair_of_wordTy h] using Nat.mod_lt _ (by decide)
  | prd n => exact constInt_lt h _
  | int c => exact constInt_lt h _
  | fp k => exact constFp_lt h k
  | none | num n | gap c => exact Nat.two_pow_pos 32

/-- An operand of a type of one register supplies its word (R172). -/
theorem srcVal_eq_wordOf {g : Group} {t : Ty} (h : wordTy t) (x : Lane) (o : Operand) : srcVal g t x o = (wordOf g t o x).toNat := by
  rw [wordOf, BitVec.toNat_ofNat, Nat.mod_eq_of_lt (srcVal_lt h x o)]

theorem dstVal_word {t : Ty} (h : wordTy t) (n : BitVec 11) (v : Nat) (x : Lane) : dstVal t (.vec n) v x = x.setReg n.toNat (BitVec.ofNat 32 v) := by
  simp [dstVal, isPair_of_wordTy h]

/-! The majors -/

section
variable {k : Key} {f : Fields} {s : State} {n : BitVec 11} {fn : Nat} {op : Word → Word → Word}

theorem runLanes_done {h h' : Lane → Lane} (hs : entryStop k f s = none) (heq : ∀ x, h x = h' x) : runLanes k f s (fun _ => h) = doneLanes f s h' := by
  rw [runLanes_ok _ _ _ _ hs, doneLanes, funext heq]

theorem logic_done (hd : f.d = .vec n) (hty : f.ty ∈ Enc.tI4) (hop : ∀ a b : Word, BitVec.ofNat 32 (logicOp fn a.toNat b.toNat) = op a b)
    (hs : entryStop k f s = none) : runLanes k f s (fun _ x => logicLane fn s.grp f x) =
      doneLanes f s (fun x => x.setReg n.toNat (op (wordOf s.grp (tyOf f) f.a x) (wordOf s.grp (tyOf f) f.b x))) := by
  have ht := wordTy_tyOf hty
  refine runLanes_done hs (fun x => ?_)
  simp only [logicLane, srcA, srcB, hd, dstVal_word ht, srcVal_eq_wordOf ht, hop]

theorem shift_done (hd : f.d = .vec n) (hty : f.ty ∈ Enc.tI2) (hop : ∀ a b : Word, BitVec.ofNat 32 (shiftOp fn a.toNat b.toNat) = op a b)
    (hs : entryStop k f s = none) : runLanes k f s (fun _ x => shiftLane fn s.grp f x) =
      doneLanes f s (fun x => x.setReg n.toNat (op (wordOf s.grp (tyOf f) f.a x) (wordOf s.grp (tyOf f) f.b x))) := by
  have ht := wordTy_tyOf (mem_tI4_of_mem_tI2 hty)
  refine runLanes_done hs (fun x => ?_)
  simp only [shiftLane, srcA, srcB, hd, dstVal_word ht, srcVal_eq_wordOf ht, hop]

/-- The word LOP3 gives a lane. -/
def lop3Word (s : State) (f : Fields) (x : Lane) : Word :=
  BitVec.ofNat 32 (lop3Op (f.imm.toNat % 256) (wordOf s.grp (tyOf f) f.a x).toNat (wordOf s.grp (tyOf f) f.b x).toNat (wordOf s.grp (tyOf f) (third f) x).toNat)

theorem lop3_done (hd : f.d = .vec n) (hty : f.ty ∈ Enc.tI4) (hs : entryStop k f s = none) :
    runLanes k f s (fun _ x => lop3Lane s.grp f x) = doneLanes f s (fun x => x.setReg n.toNat (lop3Word s f x)) := by
  have ht := wordTy_tyOf hty
  refine runLanes_done hs (fun x => ?_)
  simp only [lop3Lane, lop3Word, srcA, srcB, srcC, hd, dstVal_word ht, srcVal_eq_wordOf ht]

theorem getLsbD_lop3Word (x : Lane) {i : Nat} (hi : i < 32) : (lop3Word s f x).getLsbD i =
    f.imm.getLsbD (((wordOf s.grp (tyOf f) f.a x).getLsbD i).toNat + 2 * ((wordOf s.grp (tyOf f) f.b x).getLsbD i).toNat +
      4 * ((wordOf s.grp (tyOf f) (third f) x).getLsbD i).toNat) := by
  have hindex (a b c : Bool) : a.toNat + 2 * b.toNat + 4 * c.toNat < 8 := by
    cases a <;> cases b <;> cases c <;> decide
  rw [lop3Word, BitVec.getLsbD_ofNat, testBit_lop3Op _ _ _ _ hi, show 256 = 2 ^ 8 from rfl, Nat.testBit_mod_two_pow, decide_eq_true hi, decide_eq_true (hindex _ _ _),
    Bool.true_and, Bool.true_and, BitVec.testBit_toNat]

/-- A predicate operation with a literal in B's place: bit 0 of the literal (R167, log 48). -/
theorem pred_done {d a : BitVec 4} {v : BitVec 64} {op : Bool → Bool → Bool} (hd : f.d = .prd d) (ha : f.a = .prd a) (hb : f.b = .lit v)
    (hs : entryStop k f s = none) : runLanes k f s (fun _ x => predLane f op x) =
      doneLanes f s (fun x => if d = 0 then x else x.setPred d.toNat (op (x.pred a.toNat) (v.getLsbD 0))) := by
  refine runLanes_done hs (fun x => ?_)
  rw [predLane, hd, ha, hb]
  simp only [dstVal, prdVal]
  by_cases h : d = 0
  · rw [if_pos h, h]
    rfl
  · rw [if_neg h]
    refine congrArg (x.setPred d.toNat) ?_
    simp

end

end Sys2Proof.Machine

open Sys2Proof Sys2Proof.Machine

/-- Settles O2, by the operations on words above: the words of the sources go in, and the word of the operation comes out. -/
theorem logicAndShifts : Obligations.LogicAndShifts := by
  unfold Obligations.LogicAndShifts
  refine ⟨fun f s n hd hty => ?_, fun f s n hd hty hs => ⟨lop3Word s f, lop3_done hd hty hs, fun x i hi => getLsbD_lop3Word x hi⟩, fun f s n hd hty => ?_,
    fun f s d a v hd ha hb => ⟨pred_done hd ha hb, pred_done hd ha hb, pred_done hd ha hb, pred_done hd ha hb⟩⟩
  · simp only [List.forall_mem_cons, List.not_mem_nil, false_imp_iff, implies_true, and_true]
    exact ⟨logic_done hd hty logicOp_and, logic_done hd hty logicOp_or, logic_done hd hty logicOp_xor, logic_done hd hty logicOp_andn, logic_done hd hty logicOp_orn,
      logic_done hd hty logicOp_xnor, logic_done hd hty logicOp_not, logic_done hd hty logicOp_mov⟩
  · simp only [List.forall_mem_cons, List.not_mem_nil, false_imp_iff, implies_true, and_true]
    exact ⟨shift_done hd hty shiftOp_shl, shift_done hd hty shiftOp_shr, shift_done hd hty shiftOp_sar, shift_done hd hty shiftOp_rol, shift_done hd hty shiftOp_ror,
      shift_done hd hty shiftOp_brev, shift_done hd hty shiftOp_popc, shift_done hd hty shiftOp_clz⟩
end

section
/-! Branches, calls, jumps through registers and branch tables (R179, R188 to R192): the model's transfer is the statement's, and the checks over the guard-true lanes are taken in
order. -/

namespace Sys2Proof.Machine

/-! Targets -/

/-- An offset of `n` bits in words, added in bytes (R188). -/
theorem ofInt_four_sextNat {m : Nat} (n : Nat) (imm : BitVec m) :
    BitVec.ofInt 64 (4 * sextNat n imm.toNat) = (imm.setWidth n).signExtend 64 <<< 2 := by
  rw [BitVec.shiftLeft_eq_mul_twoPow, BitVec.mul_comm, BitVec.ofInt_mul, sextNat, BitVec.ofNat_toNat, BitVec.signExtend]
  exact congrArg (· * _) (by decide)

theorem branchTarget_short {f : Fields} (h : f.form.isExt = false) (pc : DWord) :
    branchTarget f pc = pc + ((f.imm.setWidth 20).signExtend 64 <<< 2) := by
  rw [← ofInt_four_sextNat, branchTarget]
  cases hf : f.form with
  | base | lit => rfl
  | ext | extLit => rw [hf] at h; cases h

theorem branchTarget_ext {f : Fields} (h : f.form = .ext) (pc : DWord) : branchTarget f pc = pc + ((f.imm.setWidth 16).signExtend 64 <<< 2) := by
  rw [← ofInt_four_sextNat, branchTarget, h]

theorem branchTarget_extLit {f : Fields} (h : f.form = .extLit) (pc : DWord) : branchTarget f pc = f.lit := by
  rw [branchTarget, h]

/-! The transfer -/

theorem State.onLanes_congr {s : State} {g h : Nat → Lane → Lane} (heq : ∀ l x, s.grp.lanes[l]? = some x → g l x = h l x) : s.onLanes g = s.onLanes h := by
  have hmap : mapLanes g 0 s.grp.lanes = mapLanes h 0 s.grp.lanes := mapLanes_congr (by simpa using heq)
  unfold State.onLanes
  rw [hmap]

section
variable {f : Fields} {s : State} {link : Bool} {t : Lane → DWord}

/-- A transfer, guard by guard: lanes outside the bundle stay, guard-false lanes move past, guard-true lanes go to their targets (R188, R189). -/
theorem State.transfer_eq : s.transfer f link t = s.onLanes (fun l x =>
    if s.inBundle l = false then x
    else if guardOf f.gd x = false then { x with pc := x.pc + BitVec.ofNat 64 f.form.len }
    else { (if link then x.setPair 62 (x.pc + BitVec.ofNat 64 f.form.len) else x) with pc := t x }) := by
  unfold State.transfer
  congr 1
  funext l x
  cases s.inBundle l <;> cases guardOf f.gd x <;> rfl

/-- A branch or a call is a transfer to its targets (R188). -/
theorem run_branch {k : Key} {t' : Lane → DWord} (h : entryStop k f s = none) (ht : ∀ x : Lane, branchTarget f x.pc = t' x) :
    run k f s (fun s => s.transfer f link (fun x => branchTarget f x.pc)) = .next (s.onLanes (fun l x =>
      if s.inBundle l = false then x
      else if guardOf f.gd x = false then { x with pc := x.pc + BitVec.ofNat 64 f.form.len }
      else { (if link then x.setPair 62 (x.pc + BitVec.ofNat 64 f.form.len) else x) with pc := t' x })) := by
  rw [run_ok _ _ _ _ h, funext ht, State.transfer_eq]

/-! Jumps through registers (R189, R190) -/

theorem bitsOf_ne_zero {x : DWord} : decide (bitsOf x 0 2 ≠ 0) = true ↔ x.extractLsb' 0 2 ≠ 0 := by
  rw [decide_eq_true_iff, Ne, bitsOf_eq_zero]

theorem jumpReg_aligned (h : ∀ p ∈ s.actives f.gd, (t p.2).extractLsb' 0 2 = 0) : jumpReg f link t s = s.transfer f link t := by
  have hfind : (s.actives f.gd).find? (fun p => bitsOf (t p.2) 0 2 ≠ 0) = none := by
    rw [List.find?_eq_none]
    exact fun p hp hb => bitsOf_ne_zero.mp hb (h p hp)
  rw [jumpReg, hfind]

theorem jumpReg_misaligned {l r : List (Nat × Lane)} {p : Nat × Lane} (hon : s.actives f.gd = l ++ p :: r) (hl : ∀ q ∈ l, (t q.2).extractLsb' 0 2 = 0)
    (hp : (t p.2).extractLsb' 0 2 ≠ 0) : jumpReg f link t s = raiseWith { cause := .align, addr := t p.2 } s := by
  have hfind : (s.actives f.gd).find? (fun p => bitsOf (t p.2) 0 2 ≠ 0) = some p := by
    rw [List.find?_eq_some_iff_append]
    refine ⟨bitsOf_ne_zero.mpr hp, l, r, hon, fun q hq => ?_⟩
    simpa [bitsOf_eq_zero] using hl q hq
  rw [jumpReg, hfind]

/-! Branch tables (R191) -/

theorem collect_ok {α β : Type} {g : β → Checked α} {w : β → α} {l : List β} (h : ∀ b ∈ l, g b = .ok (w b)) : collect (l.map g) = .ok (l.map w) := by
  induction l with
  | nil => rfl
  | cons b l ih =>
    obtain ⟨hb, hl⟩ := List.forall_mem_cons.mp h
    rw [List.map_cons, hb, collect, ih hl]
    rfl

/-- The first lane that fails decides. -/
theorem collect_fault {α β : Type} {g : β → Checked α} {l r : List β} {b : β} {x : FaultInfo} (hl : ∀ b ∈ l, ∃ w, g b = .ok w) (hb : g b = .fault x) :
    collect ((l ++ b :: r).map g) = .fault x := by
  induction l with
  | nil => rw [List.nil_append, List.map_cons, hb, collect]
  | cons c l ih =>
    obtain ⟨⟨w, hc⟩, hl⟩ := List.forall_mem_cons.mp hl
    rw [List.cons_append, List.map_cons, hc, collect, ih hl]

/-- A word that cannot be fetched gives FETCH with its address (R166). -/
theorem fetchWord_fault {w : Who} {va : DWord} {x : FaultInfo} (h : fetchWord s w va = .fault x) : x.cause = .fetch ∧ x.addr = va := by
  unfold fetchWord at h
  split at h
  · split at h <;> cases h
  · cases h
    exact ⟨rfl, rfl⟩
  · cases h

theorem tableEntry_eq (x : Lane) : tableEntry s.grp f x = x.pc + BitVec.ofNat 64 (f.form.len + 4 * (wordOf s.grp .un32 f.a x).toNat) := by
  rw [tableEntry, srcVal_eq_wordOf (.inr (.inl rfl))]

/-- Some guard-true lane's index is past the table: BTARGET. -/
theorem btab_over (h : ∃ p ∈ s.actives f.gd, f.imm.toNat ≤ (wordOf s.grp .un32 f.a p.2).toNat) : btab f s = raise .btarget s := by
  have hany : (s.actives f.gd).any (fun p => decide (tableLen f ≤ srcVal s.grp .un32 p.2 f.a)) = true := by
    simpa [tableLen, srcVal_eq_wordOf (.inr (.inl rfl) : wordTy .un32)] using h
  rw [btab, if_pos hany]

theorem within_table (h : ∀ p ∈ s.actives f.gd, (wordOf s.grp .un32 f.a p.2).toNat < f.imm.toNat) :
    ¬ (s.actives f.gd).any (fun p => decide (tableLen f ≤ srcVal s.grp .un32 p.2 f.a)) = true := by
  simpa [tableLen, srcVal_eq_wordOf (.inr (.inl rfl) : wordTy .un32)] using h

theorem btab_fetchFault {l r : List (Nat × Lane)} {p : Nat × Lane} {x : FaultInfo}
    (h : ∀ p ∈ s.actives f.gd, (wordOf s.grp .un32 f.a p.2).toNat < f.imm.toNat) (hon : s.actives f.gd = l ++ p :: r)
    (hl : ∀ q ∈ l, ∃ w, fetchWord s s.me (tableEntry s.grp f q.2) = .ok w) (hp : fetchWord s s.me (tableEntry s.grp f p.2) = .fault x) :
    btab f s = fetchFault x s := by
  rw [btab, if_neg (within_table h), hon, collect_fault (g := fun p : Nat × Lane => fetchWord s s.me (tableEntry s.grp f p.2)) hl hp]

theorem isTgt_iff {w : Word} : isTgt w = true ↔ w.extractLsb' 24 8 = 5 := by
  rw [isTgt, bitsOf, beq_iff_eq]
  exact ⟨fun h => BitVec.eq_of_toNat_eq h, fun h => congrArg BitVec.toNat h⟩

section
variable {w : Nat → Word} (h : ∀ p ∈ s.actives f.gd, (wordOf s.grp .un32 f.a p.2).toNat < f.imm.toNat)
  (hw : ∀ p ∈ s.actives f.gd, fetchWord s s.me (tableEntry s.grp f p.2) = .ok (w p.1))
include h hw

theorem btab_noTgt (hbad : ∃ p ∈ s.actives f.gd, (w p.1).extractLsb' 24 8 ≠ 5) : btab f s = raise .illegal s := by
  rw [btab, if_neg (within_table h), collect_ok hw]
  have hany : ((s.actives f.gd).map (fun p => w p.1)).any (fun w => !isTgt w) = true := by
    obtain ⟨p, hp, hp5⟩ := hbad
    rw [List.any_map, List.any_eq_true]
    exact ⟨p, hp, Bool.not_eq_true' _ ▸ Bool.eq_false_iff.mpr (fun h5 => hp5 (isTgt_iff.mp h5))⟩
  exact if_pos hany

omit h hw in
/-- The table word of a lane is found exactly for the guard-true lanes. -/
theorem find_word {l : Nat} {x : Lane} (hx : s.grp.lanes[l]? = some x) :
    (((s.actives f.gd).map (fun p => p.1)).zip ((s.actives f.gd).map (fun p => w p.1))).find? (fun q => q.1 == l) =
      if s.active f.gd l x then some (l, w l) else none := by
  have hfind := State.any_actives_fst (gd := f.gd) hx
  rw [List.zip_map', List.find?_map]
  cases hq : (s.actives f.gd).find? ((fun q : Nat × Word => q.1 == l) ∘ fun p : Nat × Lane => (p.1, w p.1)) with
  | some q =>
    have hl : q.1 = l := by simpa using List.find?_some hq
    have hon : s.active f.gd l x = true := hfind ▸ List.any_eq_true.mpr ⟨q, List.mem_of_find?_eq_some hq, beq_iff_eq.mpr hl⟩
    rw [hon, if_pos rfl, ← hl]
    rfl
  | none =>
    have hoff : s.active f.gd l x = false := hfind ▸ List.any_eq_false.mpr (List.find?_eq_none.mp hq)
    rw [hoff, if_neg Bool.false_ne_true]
    rfl

theorem btab_goes (hall : ∀ p ∈ s.actives f.gd, (w p.1).extractLsb' 24 8 = 5) : btab f s = s.onLanes (fun l x =>
    if s.inBundle l = false then x
    else if guardOf f.gd x = false then { x with pc := x.pc + BitVec.ofNat 64 (f.form.len + 4 * f.imm.toNat) }
    else { x with pc := tableEntry s.grp f x + (((w l).setWidth 24 : BitVec 24).signExtend 64 <<< 2) }) := by
  have hany : ¬ ((s.actives f.gd).map (fun p => w p.1)).any (fun w => !isTgt w) = true := by
    simpa [isTgt_iff] using hall
  rw [btab, if_neg (within_table h), collect_ok hw]
  refine (if_neg hany).trans (State.onLanes_congr (fun l x hx => ?_))
  rw [find_word hx, State.active, ← ofInt_four_sextNat]
  cases s.inBundle l <;> cases guardOf f.gd x <;> rfl

end

end

/-! The jumps of the statement -/

section
variable {k : Key} {f : Fields} {s : State} {link : Bool} {t : Lane → DWord}

/-- JMPR, CALLR and RET once their entry checks pass: `jumpReg` to targets `t`, but ILLEGAL in a sealed context where the entry says so (R189, R190). -/
theorem jump_done {mayRefuse : Bool} {body : State → State} (hs : entryStop k f s = none)
    (hbody : body s = if mayRefuse && s.isSealed then raise .illegal s else jumpReg f link t s) :
    (mayRefuse = true ∧ s.isSealed = true → run k f s body = .next (raise .illegal s)) ∧
    (mayRefuse = false ∨ s.isSealed = false →
      ((∀ p ∈ s.actives f.gd, (t p.2).extractLsb' 0 2 = 0) → run k f s body = .next (s.onLanes (fun l x =>
        if s.inBundle l = false then x
        else if guardOf f.gd x = false then { x with pc := x.pc + BitVec.ofNat 64 f.form.len }
        else { (if link then x.setPair 62 (x.pc + BitVec.ofNat 64 f.form.len) else x) with pc := t x }))) ∧
      ∀ l p r, s.actives f.gd = l ++ p :: r → (∀ q ∈ l, (t q.2).extractLsb' 0 2 = 0) → (t p.2).extractLsb' 0 2 ≠ 0 →
        run k f s body = .next (raiseWith { cause := .align, addr := t p.2 } s)) := by
  rw [run_ok _ _ _ _ hs, hbody]
  refine ⟨fun ⟨hr, hsealed⟩ => ?_, fun h => ?_⟩
  · rw [hr, hsealed]
    rfl
  · have hgo : ¬ (mayRefuse && s.isSealed) = true := by
      rcases h with h | h <;> simp [h]
    rw [if_neg hgo]
    exact ⟨fun hall => by rw [jumpReg_aligned hall, State.transfer_eq], fun l p r hon hl hp => by rw [jumpReg_misaligned hon hl hp]⟩

end

end Sys2Proof.Machine

open Sys2Proof Sys2Proof.Machine

/-- Settles O30: branches and calls are the transfer to their targets, the jumps through registers take ALIGN in the order of the lanes, and a branch table takes its checks over
every guard-true lane before any goes. -/
theorem branches : Obligations.Branches := by
  unfold Obligations.Branches
  intro f s len on go off20 off16
  refine ⟨rfl, rfl, fun h => ⟨fun hs => ?_, fun hs => ?_⟩, fun h => ⟨fun hs => ?_, fun hs => ?_⟩, fun h => ⟨fun hs => ?_, fun hs => ?_⟩, ?_, fun hs => ?_⟩
  · exact run_branch (link := false) hs (fun x => branchTarget_short h x.pc)
  · exact run_branch (link := true) hs (fun x => branchTarget_short h x.pc)
  · exact run_branch (link := false) hs (fun x => branchTarget_ext h x.pc)
  · exact run_branch (link := true) hs (fun x => branchTarget_ext h x.pc)
  · exact run_branch (link := false) hs (fun x => branchTarget_extLit h x.pc)
  · exact run_branch (link := true) hs (fun x => branchTarget_extLit h x.pc)
  · simp only [List.mem_cons, List.not_mem_nil, or_false]
    rintro c (rfl | rfl | rfl) hs
    · exact jump_done (link := false) (mayRefuse := true) (t := fun x => pairOf s.grp .i64 f.a x) hs rfl
    · exact jump_done (link := true) (mayRefuse := true) (t := fun x => pairOf s.grp .i64 f.a x) hs rfl
    · exact jump_done (link := false) (mayRefuse := false) (t := fun x => x.pair 62) hs rfl
  · have hexec : exec (.btab f) s = .next (btab f s) := run_ok _ _ _ _ hs
    intro n ix at_
    have hentry (x : Lane) : tableEntry s.grp f x = at_ x := tableEntry_eq x
    simp only [hexec, Host.Outcome.next.injEq]
    refine ⟨btab_over, fun hin l p r x hon hl hp => ?_, fun hin w hw => ?_⟩
    · obtain ⟨hcause, haddr⟩ := fetchWord_fault hp
      simp only [← hentry] at hl hp
      exact ⟨hcause, haddr, btab_fetchFault hin hon hl hp⟩
    · simp only [← hentry] at hw ⊢
      exact ⟨btab_noTgt hin hw, btab_goes hin hw⟩
end

section
/-! Every step goes on: each instruction and each step of an agent ends in a next state (R32, R183, R358). -/

namespace Sys2Proof.Machine

/-! The shapes of an outcome -/

theorem goesOn_next {t : State} : goesOn (.next t) := ⟨t, rfl⟩

theorem goesOn_ite {c : Prop} [Decidable c] {o p : Out3} (ho : goesOn o) (hp : goesOn p) : goesOn (if c then o else p) := by
  split <;> assumption

section
variable {k : Key} {f : Fields} {s : State} {fn : BitVec 3}

/-- Either a stop is taken or the body runs. -/
theorem run_goesOn {body : State → State} : goesOn (run k f s body) := ⟨_, run_next k f s body⟩

theorem runLanes_goesOn {h : Nat → Lane → Lane} : goesOn (runLanes k f s h) := run_goesOn
theorem runScalar_goesOn {h : State → Nat × Lane → State} : goesOn (runScalar k f s h) := run_goesOn
theorem runFp_goesOn {h : Nat → Lane → Lane × FFlags} : goesOn (runFp k f s h) := run_goesOn
theorem salu_goesOn {op : Nat} : goesOn (salu k op f s) := runScalar_goesOn
theorem ridx_goesOn {body : Nat → State → State} : goesOn (ridx fn f s body) := run_goesOn
theorem barOp_goesOn {body : State → State} : goesOn (barOp fn f s body) := run_goesOn
theorem ringOp_goesOn {body : Ring → State → State} : goesOn (ringOp fn f s body) := run_goesOn
theorem tile_goesOn {op : TileOp} : goesOn (tile fn op f s) := run_goesOn
theorem fst_goesOn {body : BitVec 1024 → State → State} : goesOn (fst fn f s body) := run_goesOn
theorem objOp_goesOn {body : Obj → State → State} : goesOn (objOp fn f s body) := run_goesOn
theorem sysOp_goesOn {body : State → State} : goesOn (sysOp fn f s body) := run_goesOn
theorem qntOp_goesOn {unit : Nat → Nat} {h : Nat → DWord → List Nat → Span} : goesOn (qntOp fn unit f s h) := run_goesOn

theorem hinted_goesOn {t : State} : goesOn (hinted s t) := by
  unfold hinted
  split <;> exact goesOn_next

/-! Instructions and steps with branches of their own -/

theorem execSel_goesOn : goesOn (execSel f s) := by
  unfold execSel
  exact run_goesOn

theorem execGets_goesOn : goesOn (execGets f s) := by
  unfold execGets
  split
  · exact runScalar_goesOn
  · exact runLanes_goesOn

theorem execSets_goesOn : goesOn (execSets f s) := goesOn_ite goesOn_next (goesOn_ite runLanes_goesOn runScalar_goesOn)

theorem execDual_goesOn {gd : Guard} {x y : DualOp} : goesOn (execDual gd x y s) := by
  unfold execDual
  split <;> exact goesOn_next

theorem execTableWalk_goesOn {bench asid : Nat} {va : BitVec 64} : goesOn (execTableWalk bench asid va s) := by
  unfold execTableWalk
  refine goesOn_ite goesOn_next (goesOn_ite goesOn_next ?_)
  split <;> exact goesOn_next

theorem execDoorbellStart_goesOn {slot : Nat} : goesOn (execDoorbellStart slot s) := by
  unfold execDoorbellStart
  dsimp only
  split
  · exact goesOn_next
  · refine goesOn_ite goesOn_next (goesOn_ite goesOn_next ?_)
    split
    · exact goesOn_next
    · exact goesOn_ite goesOn_next goesOn_next

theorem execKill_goesOn {tag : Nat} {unit : BitVec 32} : goesOn (execKill tag unit s) := by
  unfold execKill
  refine goesOn_ite goesOn_next ?_
  dsimp only
  split <;> exact goesOn_next

end

/-- Every instruction and every step of an agent goes on. -/
theorem exec_goesOn (i : Instr) (s : State) : goesOn (exec i s) := by
  cases i with
  | bra f => exact (run_goesOn : goesOn (execBra f s))
  | braX f => exact (run_goesOn : goesOn (execBraX f s))
  | call f => exact (run_goesOn : goesOn (execCall f s))
  | callX f => exact (run_goesOn : goesOn (execCallX f s))
  | ldg w f => exact (run_goesOn : goesOn (execLdg w f s))
  | stg w f => exact (run_goesOn : goesOn (execStg w f s))
  | ldb w f => exact (run_goesOn : goesOn (execLdb w f s))
  | stb w f => exact (run_goesOn : goesOn (execStb w f s))
  | atom op f => exact (run_goesOn : goesOn (execAtom op f s))
  | atomCas f => exact (run_goesOn : goesOn (execAtomCas f s))
  | comm op f => exact (run_goesOn : goesOn (execComm op f s))
  | wait f => exact (run_goesOn : goesOn (execWait f s))
  | fenceRel f => exact (run_goesOn : goesOn (execFenceRel f s))
  | fenceAcq f => exact (run_goesOn : goesOn (execFenceAcq f s))
  | fenceFull f => exact (run_goesOn : goesOn (execFenceFull f s))
  | fencePromote f => exact (run_goesOn : goesOn (execFencePromote f s))
  | fenceCflush f => exact (run_goesOn : goesOn (execFenceCflush f s))
  | waitc c f => exact (run_goesOn : goesOn (execWaitc c f s))
  | copy f => exact (run_goesOn : goesOn (execCopy f s))
  | oret f => exact (run_goesOn : goesOn (execOret f s))
  | launch f => exact (run_goesOn : goesOn (execLaunch f s))
  | snap f => exact (run_goesOn : goesOn (execSnap f s))
  | syscall f => exact (run_goesOn : goesOn (execSyscall f s))
  | jmpr | callr | ret | btab | join | joinX | exit | trap | rett | sleep | bkpt | atomb | atombCas => exact run_goesOn
  | iadd | isub | iaddc | isubb | imin | imax | umin | umax | iadds | isubs | uadds | usubs | iabs | imul | imulh | umulh | imad | idiv
  | udiv | irem | urem | and | or | xor | andn | orn | xnor | not | mov | lop3 | shl | shr | sar | rol | ror | brev | popc | clz | ctz | bfe
  | bfes | bfi | lea1 | lea2 | lea3 | prmt | icmp | pand | por | pxor | pandn | pset | p2v | v2p | iadd64 | isub64 | shl64 | shr64 | sar64
  | imulw | umulw | mov64 | s2v | scmp | movi | iaddi | dot4i | dot4u | putl => exact runLanes_goesOn
  | shflIdx | shflUp | shflDown | shflXor | shflUpw | shflDownw | shflXorw | shflRotw | voteAll | voteAny | voteBallot | voteElect | voteMatch | votePopa | voteLmask | voteActm => exact runLanes_goesOn
  | sel => exact execSel_goesOn
  | sadd | ssub | smul | sand | sor | sxor | sshl | sshr | ssar | smin | smax | sminu | smaxu | smov => exact salu_goesOn
  | v2s f => exact (runScalar_goesOn : goesOn (execV2s f s))
  | smovi f => exact (runScalar_goesOn : goesOn (execSmovi f s))
  | saddi f => exact (runScalar_goesOn : goesOn (execSaddi f s))
  | gets => exact execGets_goesOn
  | sets => exact execSets_goesOn
  | rget f => exact (ridx_goesOn : goesOn (execRget f s))
  | rset f => exact (ridx_goesOn : goesOn (execRset f s))
  | fadd | fsub | fmul | ffma | fmin | fmax | fminm | fmaxm | fabs | fneg | frnd | ffrac | fclass | fgetexp | fscale | fcopysign | frcp
  | frsq | fsqrt | fexp2 | flog2 | fsin | fcos | ftanh | fcmp | fdiv | hadd2 | hmul2 | hfma2 | badd2 | bmul2 | bfma2 | dot2b | dot2h | cvt
  | rdx | rstep | scan | scale => exact runFp_goesOn
  | qnt f => exact (qntOp_goesOn : goesOn (execQnt f s))
  | deq f => exact (qntOp_goesOn : goesOn (execDeq f s))
  | rot f => exact (qntOp_goesOn : goesOn (execRot f s))
  | irot f => exact (qntOp_goesOn : goesOn (execIrot f s))
  | dual => exact execDual_goesOn
  | barArrive f => exact (barOp_goesOn : goesOn (execBarArrive f s))
  | barWait f => exact (barOp_goesOn : goesOn (execBarWait f s))
  | barSync f => exact (barOp_goesOn : goesOn (execBarSync f s))
  | barInit f => exact (barOp_goesOn : goesOn (execBarInit f s))
  | barExpect f => exact (barOp_goesOn : goesOn (execBarExpect f s))
  | barTest f => exact (barOp_goesOn : goesOn (execBarTest f s))
  | ringAcq f => exact (ringOp_goesOn : goesOn (execRingAcq f s))
  | ringRel f => exact (ringOp_goesOn : goesOn (execRingRel f s))
  | ringPut f => exact (ringOp_goesOn : goesOn (execRingPut f s))
  | ringPub f => exact (ringOp_goesOn : goesOn (execRingPub f s))
  | ringInit f => exact (ringOp_goesOn : goesOn (execRingInit f s))
  | ringStat f => exact (ringOp_goesOn : goesOn (execRingStat f s))
  | tileMma | tileMmaz | tileQout | tileTrot | tileTzero => exact tile_goesOn
  | fcall f => exact (fst_goesOn : goesOn (execFcall f s))
  | fprobe f => exact (fst_goesOn : goesOn (execFprobe f s))
  | fret f => exact (fst_goesOn : goesOn (execFret f s))
  | finval f => exact (fst_goesOn : goesOn (execFinval f s))
  | fstat f => exact (fst_goesOn : goesOn (execFstat f s))
  | ocall f => exact (objOp_goesOn : goesOn (execOcall f s))
  | osync f => exact (objOp_goesOn : goesOn (execOsync f s))
  | ostat f => exact (objOp_goesOn : goesOn (execOstat f s))
  | barsave f => exact (sysOp_goesOn : goesOn (execBarsave f s))
  | barrst f => exact (sysOp_goesOn : goesOn (execBarrst f s))
  | shoot f => exact (sysOp_goesOn : goesOn (execShoot f s))
  | purge f => exact (sysOp_goesOn : goesOn (execPurge f s))
  | zerob f => exact (sysOp_goesOn : goesOn (execZerob f s))
  | park f => exact (sysOp_goesOn : goesOn (execPark f s))
  | rft f => exact (sysOp_goesOn : goesOn (execRft f s))
  | desc f => exact (sysOp_goesOn : goesOn (execDesc f s))
  | pfi | pfiX | pfdL1 | pfdSlice | yield | hint => exact hinted_goesOn
  | granuleCountHalving | atsTranslationResponse | dieBringup | pcieEnable | ident | contextEnd => exact goesOn_ite goesOn_next goesOn_next
  | headframeInit => exact goesOn_ite goesOn_next (goesOn_ite goesOn_next goesOn_next)
  | hostBar2Read | hostBar2Write | hostAtomicop =>
    exact goesOn_ite goesOn_next (goesOn_ite goesOn_next (goesOn_ite goesOn_next goesOn_next))
  | tableWalk => exact execTableWalk_goesOn
  | doorbellStart => exact execDoorbellStart_goesOn
  | kill => exact execKill_goesOn
  | _ => exact goesOn_next

end Sys2Proof.Machine
end

section
/-! The turn that a step takes goes on. -/

namespace Sys2Proof.Machine

theorem State.issueBundle_goesOn (s : State) : goesOn s.issueBundle := by
  unfold State.issueBundle
  split
  · exact goesOn_next
  · split
    · exact goesOn_next
    · split
      · exact goesOn_next
      · exact goesOn_next
      · split
        · exact goesOn_next
        · exact exec_goesOn _ _

theorem issueBench_goesOn (b : Nat) (s : State) : goesOn (issueBench b s) := goesOn_ite (State.issueBundle_goesOn _) goesOn_next

theorem issueSecond_goesOn (u : Nat) (m : QWord) (pc : DWord) (s : State) : goesOn (issueSecond u m pc s) :=
  goesOn_ite goesOn_next (State.issueBundle_goesOn _)

theorem serveAsk_goesOn (s : State) : goesOn (serveAsk s) := by
  unfold serveAsk
  split
  · exact goesOn_next
  · dsimp only
    split
    · exact goesOn_ite (exec_goesOn _ _) goesOn_next
    · exact goesOn_next

theorem takeOutside_goesOn (o : Outside) (s : State) : goesOn (takeOutside o s) := by
  cases o with
  | bar4Write => exact goesOn_ite goesOn_next (goesOn_ite goesOn_next goesOn_next)
  | _ => exact goesOn_next

theorem benchTurn_goesOn (lo : Nat) (s : State) : goesOn (benchTurn lo s) := by
  unfold benchTurn
  split
  · exact issueBench_goesOn _ _
  · exact goesOn_next

theorem defaultTurn_goesOn (s : State) : goesOn (defaultTurn s) := by
  unfold defaultTurn
  refine goesOn_ite ?_ (benchTurn_goesOn _ s)
  split
  · exact goesOn_next
  · exact benchTurn_goesOn 0 s

theorem takeTurn_goesOn (t : Turn) (s : State) : goesOn (takeTurn t s) := by
  cases t with
  | event i => exact goesOn_ite (serveAsk_goesOn _) (goesOn_ite (exec_goesOn i s) goesOn_next)
  | issue b => exact issueBench_goesOn b _
  | second u m pc => exact issueSecond_goesOn u m pc s
  | tick => exact goesOn_next
  | lag => exact goesOn_next
  | outside o => exact takeOutside_goesOn o s

theorem step_goesOn (s : State) : goesOn (step s) := by
  unfold step
  split
  · exact takeTurn_goesOn _ _
  · exact defaultTurn_goesOn s

end Sys2Proof.Machine
end

section
/-! What verified images the dies run: only steps of the boot and resets of a die change them. -/

namespace Sys2Proof.Machine

/-- The verified images of the dies, in the dies' order. -/
def State.images (s : State) : List (Option Signed) := s.dies.map (fun d => d.verified)

theorem State.images_of_dies {s t : State} (h : t.dies = s.dies) : t.images = s.images := congrArg (List.map _) h

/-- A die of a state with the same images has the same image. -/
theorem State.die_verified_of_images {s t : State} (h : t.images = s.images) {die : Nat} (hd : die < s.dies.length) :
    (t.die die).verified = (s.die die).verified := by
  have hl : t.dies.length = s.dies.length := by simpa [State.images] using congrArg List.length h
  have hv : t.images[die]? = s.images[die]? := by rw [h]
  simpa [State.images, State.die, hd, hl] using hv

theorem foldl_images {α : Type} (f : State → α → State) (hf : ∀ t a, (f t a).images = t.images) (l : List α) (s : State) :
    (l.foldl f s).images = s.images := by
  induction l generalizing s with
  | nil => rfl
  | cons a l ih => rw [List.foldl_cons, ih, hf]

/-- A change of a die that keeps its image. -/
theorem State.onDie_images {s : State} {d : Nat} {f : Die → Die} (hf : ∀ x, (f x).verified = x.verified) : (s.onDie d f).images = s.images := by
  apply List.ext_getElem?
  intro i
  simp only [State.images, State.onDie, List.getElem?_map, List.getElem?_modify]
  cases s.dies[i]? with
  | none => rfl
  | some x => by_cases h : d = i <;> simp [h, hf]

section
variable (s : State)

@[simp] theorem State.onLane_images (u l f) : (s.onLane u l f).images = s.images := rfl
@[simp] theorem State.onGroup_images (u f) : (s.onGroup u f).images = s.images := rfl
@[simp] theorem State.onObj_images (id f) : (s.onObj id f).images = s.images := rfl
@[simp] theorem State.holdResult_images (u h) : (s.holdResult u h).images = s.images := rfl
@[simp] theorem State.dropObjCopies_images : s.dropObjCopies.images = s.images := rfl
@[simp] theorem State.stopSlots_images (tag) : (s.stopSlots tag).images = s.images := rfl
@[simp] theorem State.dropUnsent_images (u) : (s.dropUnsent u).images = s.images := rfl
@[simp] theorem State.touchCopies_images (c pa n x m) : (s.touchCopies c pa n x m).images = s.images := rfl
@[simp] theorem State.supersedeWaiting_images (c pa n m) : (s.supersedeWaiting c pa n m).images = s.images := rfl
@[simp] theorem State.raiseWct_images (u w) : (s.raiseWct u w).images = s.images := rfl
@[simp] theorem State.stopCopy_images (die obj k) : (s.stopCopy die obj k).images = s.images := rfl
@[simp] theorem State.receiptDone_images (x y) : (s.receiptDone x y).images = s.images := rfl

@[simp] theorem State.onCore_images (c f) : (s.onCore c f).images = s.images := by
  unfold State.onCore
  split <;> rfl

@[simp] theorem State.onLine_images (ln f) : (s.onLine ln f).images = s.images := by
  unfold State.onLine
  split <;> rfl

@[simp] theorem State.ranHere_images (lid c) : (s.ranHere lid c).images = s.images := s.onCore_images _ _

@[simp] theorem State.snapNote_images (u) : (s.snapNote u).images = s.images := by
  unfold State.snapNote
  split <;> rfl

@[simp] theorem State.launchStatus_images (uid sd src x) : (s.launchStatus uid sd src x).images = s.images := by
  simp only [State.launchStatus]
  split
  · rfl
  · split
    · rfl
    · simp

@[simp] theorem State.queuedAnswer_images (die lid) : (s.queuedAnswer die lid).images = s.images := by
  simp only [State.queuedAnswer]
  split
  · simp
  · split
    · split
      · rw [State.launchStatus_images]
        rfl
      · rfl
    · rfl

@[simp] theorem State.unqueue_images (die g) : (State.unqueue die s g).images = s.images := State.queuedAnswer_images _ _ _

@[simp] theorem State.writePhys_images (pa n x m) : (s.writePhys pa n x m).images = s.images := by
  simp only [State.writePhys]
  split
  · rfl
  · split <;> rfl

@[simp] theorem State.orderRaw_images (d lease pa n x m) : (s.orderRaw d lease pa n x m).images = s.images := by
  rw [State.orderRaw, State.writePhys_images]
  exact foldl_images _ (fun t ln => t.onLine_images ln _) _ s

@[simp] theorem State.combineNow_images (ln) : (s.combineNow ln).images = s.images := by
  simp only [State.combineNow]
  split
  · rfl
  · rw [State.onLine_images]
    rfl

@[simp] theorem State.sendCopy_images (r) : (s.sendCopy r).images = s.images := by
  unfold State.sendCopy
  split <;> rfl

@[simp] theorem State.newRop_images (die dst tag w) : (s.newRop die dst tag w).images = s.images := by
  rw [State.newRop, State.sendCopy_images]
  exact State.onDie_images (fun _ => rfl)

@[simp] theorem State.hostPut_images (a c pa n x m) : (s.hostPut a c pa n x m).images = s.images := by
  simp only [State.hostPut]
  split
  · simp
  · rfl

@[simp] theorem State.putAt_images (w p n x) : (s.putAt w p n x).images = s.images := by
  simp only [State.putAt]
  split
  · simp
  · rw [State.orderWrite, State.orderRaw_images]
    exact foldl_images _ State.combineNow_images _ s

@[simp] theorem State.sysPut_images (w uid va x) : (s.sysPut w uid va x).images = s.images := by
  simp only [State.sysPut]
  split
  · simp [State.touchCore, State.putPage]
  · rfl

@[simp] theorem State.sysPuts_images (w uid va l) : (s.sysPuts w uid va l).images = s.images := foldl_images _ (fun t _ => t.sysPut_images _ _ _ _) l s

@[simp] theorem State.putFault_images (f) : (s.putFault f).1.images = s.images := by
  simp only [State.putFault]
  split
  · rfl
  · exact foldl_images _ (fun t _ => t.putAt_images _ _ _ _) _ s

@[simp] theorem State.recordFault_images (id) : (s.recordFault id).images = s.images := by
  simp only [State.recordFault]
  split
  · rfl
  · split
    · rfl
    · exact s.putFault_images _

@[simp] theorem State.recordFaults_images (p) : (s.recordFaults p).images = s.images := foldl_images _ (fun t (f : PFault) => t.recordFault_images f.id) _ s

@[simp] theorem State.removeTeams_images (p) : (s.removeTeams p).images = s.images := by
  have hran (l : List Team) (t : State) : (l.foldl (fun t x => t.ranHere x.lid (128 * x.die + x.core)) t).images = t.images :=
    foldl_images _ (fun t _ => t.ranHere_images _ _) l t
  exact (hran _ _).trans (by simp)

@[simp] theorem State.writeCompletion_images (lid) : (s.writeCompletion lid).images = s.images := by
  simp only [State.writeCompletion]
  split
  · rfl
  · split
    · rfl
    · split
      · exact s.sysPuts_images _ _ _ _
      · split
        · rfl
        · exact s.putFault_images _
      · rfl

@[simp] theorem State.endGrid_images (lid st cause unit rec) : (s.endGrid lid st cause unit rec).images = s.images := by
  simp only [State.endGrid]
  split
  · rfl
  · split
    · rfl
    · rw [State.writeCompletion_images]
      exact s.removeTeams_images _

@[simp] theorem State.purgeOn_images (tag die) : (s.purgeOn tag die).images = s.images := by
  rw [State.purgeOn, foldl_images _ (fun t g => t.unqueue_images die g)]
  exact s.removeTeams_images _

@[simp] theorem State.purgeAll_images (tag st unit) : (s.purgeAll tag st unit).images = s.images := by
  rw [State.purgeAll, State.stopSlots_images, State.endTag, foldl_images _ (fun t g => t.endGrid_images _ _ _ _ _)]
  exact foldl_images _ (fun t d => t.purgeOn_images tag d) _ s

@[simp] theorem deliverCall_images (c status cause res) : (deliverCall c status cause res s).images = s.images := by
  simp only [deliverCall]
  split <;> simp

@[simp] theorem State.endCall_images (c status cause) : (s.endCall c status cause).images = s.images := by
  rw [State.endCall, State.dropObjCopies_images, deliverCall_images]
  rfl

@[simp] theorem State.failObject_images (id) : (s.failObject id).images = s.images := by
  rw [State.failObject, foldl_images _ (fun t c => t.endCall_images c 4 0), State.onObj_images]

@[simp] theorem State.failThin_images : s.failThin.images = s.images := by
  unfold State.failThin
  split
  · refine foldl_images _ (fun t o => ?_) _ s
    split <;> simp
  · rfl

@[simp] theorem State.loseCopies_images (die) : (s.loseCopies die).images = s.images :=
  foldl_images _ (fun t (o : Obj) => t.stopCopy_images die o.id o.nextAgreed) s.objs s

@[simp] theorem State.loseDie_images (die) : (s.loseDie die).images = s.images := by
  have hpurge (l : List Nat) : (l.foldl (fun t tag => t.purgeAll tag 4 (unitId 7 die 0)) s).images = s.images :=
    foldl_images _ (fun t _ => t.purgeAll_images _ _ _) l s
  have hfail (l : List Nat) (t : State) : (l.foldl (fun t o => t.failObject o) t).images = t.images := foldl_images _ State.failObject_images l t
  exact (State.loseCopies_images _ die).trans ((hfail _ _).trans (hpurge _))

@[simp] theorem State.publish_images : s.publish.images = s.images := by
  unfold State.publish
  split
  · rfl
  · exact foldl_images _ (fun t _ => t.orderRaw_images _ _ _ _ _ _) _ s

@[simp] theorem State.failRestoring_dies (kind unit) : (s.failRestoring kind unit).dies = s.dies := by
  unfold State.failRestoring
  split <;> rfl

@[simp] theorem State.sendMsix_dies (v) : (s.sendMsix v).dies = s.dies := by
  simp only [State.sendMsix]
  split
  · rfl
  · split <;> rfl

@[simp] theorem State.logError_images (die kind unit tag addr) : (s.logError die kind unit tag addr).images = s.images := by
  rw [State.logError, State.onDie_images]
  · exact State.images_of_dies (by simp)
  · intro d
    split
    · rfl
    · split <;> rfl

end

/-- A die that was reset runs no image. -/
theorem State.resetDie_verified {s : State} {die : Nat} (hd : die < 16) (hl : die < s.dies.length) : ((s.resetDie die).die die).verified = none := by
  have hlen : (s.loseDie die).dies.length = s.dies.length := by simpa [State.images] using congrArg List.length (s.loseDie_images die)
  rw [State.resetDie, if_neg (by omega)]
  refine (State.die_verified_of_images ((State.publish_images _).trans (State.failThin_images _)) ?_).trans ?_
  · simpa [hlen] using hl
  · simp [State.die, hlen, hl, Die.reset]

end Sys2Proof.Machine
end

section
/-! The steps by which the hub reads and steers the device (R396 to R402), and `Obligations.StepsGoOn`. -/

namespace Sys2Proof.Machine

/-! Readings, the error log and the cap (R396 to R398) -/

theorem telemetryRefresh_done {i : Nat} {x : BitVec 64} {s : State} (hdue : sget 0 s.mgmt.readAt i + 1000000 ≤ s.gtime i)
    (hat : swf 0 s.mgmt.readAt = true) (hr : swf 0 s.mgmt.readings = true) :
    ∃ t, exec (.telemetryRefresh [(i, x)]) s = .next t ∧ t.mem = s.mem ∧ sget 0 t.mgmt.readings i = x ∧ sget 0 t.mgmt.readAt i = s.gtime i := by
  have hdue' : sget 0 s.mgmt.readAt i + ticksPerMs ≤ s.gtime i := hdue
  refine ⟨_, rfl, rfl, ?_⟩
  simp only [List.foldl_cons, List.foldl_nil, if_pos hdue']
  rw [sget_sput 0 _ 0 i i x hr, sget_sput 0 _ 0 i i _ hat]
  simp

theorem errorLogRead_done {die ix : Nat} {s : State} (h : ix < (s.die die).log.length) :
    exec (.errorLogRead die ix) s = .next { s with out := s.out ++ [.errlog die ix ((s.die die).log.getD ix [])] } := by
  simp [exec, execErrorLogRead, h]

theorem setPowerCap_done {n : Nat} {s : State} (hlo : 6000 ≤ n) (hhi : n ≤ 15000) (hstep : n % 100 = 0) :
    ∃ t, exec (.setPowerCap n) s = .next t ∧ t.mem = s.mem ∧ t.mgmt.capNext = n ∧ t.mgmt.cap = s.mgmt.cap := by
  refine ⟨{ s with mgmt := { s.mgmt with capNext := n } }, ?_, rfl, rfl, rfl⟩
  exact congrArg Host.Outcome.next (if_pos ⟨hlo, hhi, hstep⟩)

theorem powerWindow_done {mw : Nat} {s : State} (h : s.mgmt.windowAt + 1000000 ≤ s.refTime) :
    ∃ t, exec (.powerWindow mw) s = .next t ∧ t.mem = s.mem ∧ t.mgmt.cap = s.mgmt.capNext ∧ t.mgmt.windowAt = s.refTime := by
  have h' : s.mgmt.windowAt + ticksPerMs ≤ s.refTime := h
  refine ⟨_, rfl, execPowerWindow_keepsMem mw s _ rfl, ?_⟩
  simp only [if_pos h', and_self]

/-! Clocks of islands (R398, R399) -/

@[simp] theorem State.failRestoring_clocks (s : State) (kind unit) : (s.failRestoring kind unit).mgmt.clocks = s.mgmt.clocks := by
  unfold State.failRestoring
  split <;> rfl

@[simp] theorem State.sendMsix_clocks (s : State) (v) : (s.sendMsix v).mgmt.clocks = s.mgmt.clocks := by
  simp only [State.sendMsix]
  split
  · rfl
  · split <;> rfl

@[simp] theorem State.logError_clocks (s : State) (die kind unit tag addr) : (s.logError die kind unit tag addr).mgmt.clocks = s.mgmt.clocks :=
  (State.sendMsix_clocks _ _).trans (s.failRestoring_clocks _ _)

/-- An island that is set to a clock has it. -/
theorem State.setClock_clock {s : State} (i mhz : Nat) (h : swf 1200 s.mgmt.clocks = true) : (s.setClock i mhz).clock i = mhz := by
  unfold State.setClock
  split
  · assumption
  · rw [State.clock, State.logError_clocks]
    exact (sget_sput 1200 _ 0 i i mhz h).trans (if_pos rfl)

theorem State.slower_clock {s : State} (i : Nat) (h : swf 1200 s.mgmt.clocks = true) : (s.slower i).clock i = max 600 (s.clock i - 100) :=
  State.setClock_clock i _ h

theorem currentLimit_done {i x : Nat} {s : State} (hi : i < 16) (hx : 100 < x) (hc : swf 1200 s.mgmt.clocks = true) :
    ∃ t, exec (.currentLimit i x) s = .next t ∧ t.mem = s.mem ∧ t.clock i = max 600 (s.clock i - 100) := by
  refine ⟨_, rfl, execCurrentLimit_keepsMem i x s _ rfl, ?_⟩
  rw [if_neg (by omega), if_pos hx]
  exact State.slower_clock i hc

theorem thermalStep_done {i x : Nat} {s : State} (hi : i < 16) (hx : 100 ≤ x)
    (hdue : sget 0 s.mgmt.hotSince i = 0 ∨ sget 0 s.mgmt.hotSince i + 100000 ≤ s.refTime + 1) (hc : swf 1200 s.mgmt.clocks = true) :
    ∃ t, exec (.thermalStep i x) s = .next t ∧ t.mem = s.mem ∧ t.clock i = max 600 (s.clock i - 100) := by
  have hd : s.heatDue i = true := by
    simpa [State.heatDue, State.isHot, ticksPer100Us] using hdue
  refine ⟨_, rfl, execThermalStep_keepsMem i x s _ rfl, ?_⟩
  rw [if_neg (by omega), if_neg (by omega), if_pos ⟨.inl hx, hd⟩]
  exact State.slower_clock i hc

/-- A die at 110 °C is reset, and runs no image (R399). -/
theorem thermalTrip_done {die x : Nat} {s : State} (hx : 110 ≤ x) (hd : die < 16) (hl : die < s.dies.length) :
    ∃ t, exec (.thermalTrip die x) s = .next t ∧ (t.die die).verified = none := by
  have hlen : (s.logError die 9 (unitId 7 die 0) 0 0).dies.length = s.dies.length := by
    simpa [State.images] using congrArg List.length (s.logError_images die 9 (unitId 7 die 0) 0 0)
  refine ⟨_, rfl, ?_⟩
  rw [if_pos ⟨hx, hd⟩]
  exact State.resetDie_verified hd (hlen ▸ hl)

/-! Firmware (R400) -/

theorem firmwareUpdate_done {i : Signed} {s : State} (h : s.hub.update = none) : ∃ t, exec (.firmwareUpdate i) s = .next t ∧ t.mem = s.mem ∧
    t.hub.update = some i ∧ t.hub.runsB = s.hub.runsB ∧ t.hub.fwA = s.hub.fwA ∧ t.hub.fwB = s.hub.fwB := by
  refine ⟨{ s with hub := { s.hub with update := some i } }, ?_, rfl, rfl, rfl, rfl, rfl⟩
  exact congrArg Host.Outcome.next (if_neg (by simp [h]))

/-- The slot that runs keeps its image, and the other takes the update's. -/
theorem endUpdate_done {i : Signed} {s : State} (h : s.hub.update = some i) : ∃ t, endUpdate s = .next t ∧ t.mem = s.mem ∧ t.hub.update = none ∧
    t.hub.runsB = s.hub.runsB ∧
    (if s.hub.runsB then t.hub.fwB = s.hub.fwB ∧ t.hub.fwA = some i else t.hub.fwA = s.hub.fwA ∧ t.hub.fwB = some i) := by
  refine ⟨_, rfl, endUpdate_keepsMem s _ rfl, ?_⟩
  cases hb : s.hub.runsB <;> simp [h, hb]

theorem securityVersionCommit_done {i : Signed} {s : State} (hst : s.hub.stage = 6) (hrun : s.hub.running = some i) :
    ∃ t, exec .securityVersionCommit s = .next t ∧ t.mem = s.mem ∧ t.hub.secver.toNat = max s.hub.secver.toNat (imageVersion i).toNat := by
  refine ⟨_, rfl, execSecurityVersionCommit_keepsMem s _ rfl, ?_⟩
  rw [if_neg (by simp [hst])]
  simp only [hrun]
  split <;> omega

/-! Tracing and tests (R401, R402) -/

theorem traceEnable_done (core len : Nat) (va : BitVec 64) (s : State) :
    ∃ t, exec (.traceEnable core va len) s = .next t ∧ t.mem = s.mem ∧ (t.core core).trace = some (va, len, 0) := by
  refine ⟨_, rfl, execTraceEnable_keepsMem core va len s _ rfl, ?_⟩
  rw [State.core_onCore]

/-- A unit whose type field is 0 may be tested. -/
theorem restorable_of_core {u : BitVec 32} (h : bitsOf u 28 4 = 0) : restorable u = true := by
  have ht : unitType u = 0 := by
    simp only [bitsOf, BitVec.extractLsb'_toNat, Nat.shiftRight_eq_div_pow] at h
    have hu := u.isLt
    unfold unitType
    omega
  simp [restorable, ht]

theorem restore_done {u : BitVec 32} {ok : Bool} {s : State} (hq : u ∈ s.mgmt.quarantine) (hu : bitsOf u 28 4 = 0)
    (hr : ∀ r ∈ s.mgmt.restoring, r.unit ≠ u) : ∃ t, exec (.restore u ok) s = .next t ∧ t.mem = s.mem ∧ t.mgmt.quarantine = s.mgmt.quarantine ∧
      t.mgmt.restoring = s.mgmt.restoring ++ [{ unit := u, at_ := s.gtime (unitDie u), passed := ok }] := by
  have hfree : ¬(!s.mgmt.quarantine.contains u ∨ !restorable u ∨ s.mgmt.restoring.any (fun r => r.unit == u)) := by
    simpa [hq, restorable_of_core hu] using hr
  refine ⟨_, congrArg Host.Outcome.next (if_neg hfree), rfl, rfl, rfl⟩

/-- Settles O28: every instruction and every turn of an agent ends in a next state, and each management step has the effect that its lemma above states. -/
theorem stepsGoOn : Obligations.StepsGoOn :=
  ⟨step_goesOn,
    fun _ _ => rfl,
    fun _ _ _ hdue hat hr => telemetryRefresh_done hdue hat hr,
    fun _ _ _ h => errorLogRead_done h,
    fun _ _ hlo hhi hstep => setPowerCap_done hlo hhi hstep,
    fun _ _ h => powerWindow_done h,
    fun _ _ _ hi hx hc => currentLimit_done hi hx hc,
    fun _ _ _ hi hx hdue hc => thermalStep_done hi hx hdue hc,
    fun _ _ _ hx hd hl => thermalTrip_done hx hd hl,
    fun _ _ h => firmwareUpdate_done h,
    fun _ _ h => endUpdate_done h,
    fun _ _ hst hrun => securityVersionCommit_done hst hrun,
    traceEnable_done,
    fun _ _ _ hq hu hr => restore_done hq hu hr⟩

end Sys2Proof.Machine
end

section
/-! The dual form on lane registers out of canonical form: `Obligations.DualForm` does not ask that a lane's register list rises. -/

namespace Sys2Proof.Machine

theorem execDual_ok {gd : Guard} {x y : DualOp} {s : State} (h : dualStop gd x y s = none) : execDual gd x y s = .next (dualGo gd x y s) := by
  unfold execDual
  split
  · next i hi => exact nomatch h.symm.trans hi
  · rfl

/-- The words of MOV d, a as one half of a dual instruction. -/
def movHalf (d a : BitVec 8) : DualOp := { maj := 0x0A, fn := 7, d := d, a := a, b := 0, c := 0 }

/-- One lane at 0x1000 whose registers are listed in falling order: v5 holds 9 and v2 holds 7. -/
def fallingLanes : State :=
  { State.reset with
    grp := { Group.none with uid := 7, vcount := 64, lanes := [{ (default : Lane) with v := [(5, 9), (2, 7)], pc := 0x1000 }] }
    bundle := { lanes := 1, pc := 0x1000, secondary := false } }

/-- The guard p0, always true. -/
def noGuard : Guard := ⟨0, false⟩

/-- MOV v5, v8 beside MOV v2, v12: the first drops v5's entry, so the second finds v2's and drops it too. -/
theorem dualGo_fallingLanes : ((dualGo noGuard (movHalf 5 8) (movHalf 2 12) fallingLanes).laneAt 0).reg 2 = 0 := by decide +kernel

/-- The fields of MOV v2, v12 alone, in the extended form. -/
def movAlone : Fields := dualFields (movHalf 2 12) noGuard

/-- Its write of 0 stops at v5's entry, above the register it looks for, and v2 keeps its 7. -/
theorem movAlone_fallingLanes : ((fallingLanes.lanewise movAlone (fun _ x => logicLane 7 fallingLanes.grp movAlone x)).laneAt 0).reg 2 = 7 := by
  decide +kernel

/-- Refutes O21: on registers that are not in canonical form a write does not always reach its register, so what one half of a dual instruction
writes decides whether the other's write does. -/
theorem not_dualForm : ¬ Obligations.DualForm := by
  unfold Obligations.DualForm
  intro h
  have hstop : dualStop noGuard (movHalf 5 8) (movHalf 2 12) fallingLanes = none := by decide +kernel
  have hentry : entryStop ⟨0x0A, 7, 0⟩ movAlone fallingLanes = none := by decide +kernel
  obtain ⟨t, _, v, ht, -, hv, -, hlanes⟩ := (h noGuard (movHalf 5 8) (movHalf 2 12) fallingLanes rfl).2
    (.mov (dualFields (movHalf 5 8) noGuard)) (.mov movAlone) hstop (.inr rfl) rfl rfl
  obtain ⟨hregs, -⟩ := hlanes 0 (by decide)
  have hsame : (t.laneAt 0).reg 2 = (v.laneAt 0).reg 2 := hregs 2 (by decide)
  cases (execDual_ok hstop).symm.trans ht
  cases (runLanes_ok _ _ _ _ hentry).symm.trans hv
  rw [dualGo_fallingLanes, movAlone_fallingLanes] at hsame
  exact absurd hsame (by decide)

end Sys2Proof.Machine
end

section
/-! What an operation may write in a lane: the registers and predicates of a list, and nothing else (R183, R185). -/

namespace Sys2Proof.Machine

/-- A register that reads as written leaves every other as it is, whatever the order of the list. -/
theorem sget_sput_ne {β : Type} [DecidableEq β] {d : β} (m : Sparse β) {k j : Nat} (x : β) (hj : j ≠ k) : sget d (sput d m k x) j = sget d m j := by
  by_cases hx : x = d
  · subst hx
    induction m with
    | nil => simp [sput]
    | cons p m ih =>
      obtain ⟨a, y⟩ := p
      by_cases hlt : k < a
      · simp [sput, hlt]
      · by_cases heq : k = a
        · subst heq
          simp [sput, sget, Ne.symm hj]
        · simp [sput, sget, hlt, heq, ih]
  · exact sget_sput_of_ne m hx hj

theorem Lane.reg_setReg_ne (x : Lane) {n r : Nat} (w : Word) (h : r ≠ n) : (x.setReg n w).reg r = x.reg r := sget_sput_ne x.v w h

theorem Lane.pred_setPred_ne (x : Lane) {n p : Nat} (b : Bool) (h : p ≠ n) : (x.setPred n b).pred p = x.pred p := by
  have hbit : (BitVec.ofNat 16 (2 ^ n)).getLsbD p = false := by
    rw [BitVec.getLsbD_ofNat, Nat.testBit_two_pow_of_ne (Ne.symm h), Bool.and_false]
  unfold Lane.setPred
  split
  · rfl
  · cases b
    · by_cases hp : p < 16
      · simp only [Lane.pred, Bool.false_eq_true, if_false, BitVec.getLsbD_and, BitVec.getLsbD_not, hbit, hp, decide_true, Bool.not_false, Bool.and_true]
      · simp only [Lane.pred, Bool.false_eq_true, if_false, BitVec.getLsbD_of_ge _ p (Nat.le_of_not_lt hp)]
    · simp only [Lane.pred, if_true, BitVec.getLsbD_or, hbit, Bool.or_false]

/-- `y` is `x` but for the registers and predicates whose codes are in `l`. -/
structure WritesIn (l : List (Nat × Nat)) (x y : Lane) : Prop where
  rest : y = { x with v := y.v, preds := y.preds }
  regs : ∀ r, r < 0x600 → isIn l r = false → y.reg r = x.reg r
  preds : ∀ p, p < 16 → isIn l (0x640 + p) = false → y.pred p = x.pred p

section
variable {l : List (Nat × Nat)} {x y z : Lane} {n : Nat}

theorem WritesIn.refl : WritesIn l x x := ⟨rfl, fun _ _ _ => rfl, fun _ _ _ => rfl⟩

theorem WritesIn.trans (h : WritesIn l x y) (h' : WritesIn l y z) : WritesIn l x z where
  rest := by
    rw [h'.rest, h.rest]
  regs r hr hl := (h'.regs r hr hl).trans (h.regs r hr hl)
  preds p hp hl := (h'.preds p hp hl).trans (h.preds p hp hl)

theorem WritesIn.setReg (w : Word) (h : isIn l n = true) : WritesIn l x (x.setReg n w) where
  rest := rfl
  regs r _ hl := x.reg_setReg_ne w (by rintro rfl; simp [h] at hl)
  preds _ _ _ := rfl

theorem WritesIn.setPair (w : DWord) (h : isIn l n = true) (h' : isIn l (n + 1) = true) : WritesIn l x (x.setPair n w) :=
  (WritesIn.setReg _ h).trans (WritesIn.setReg _ h')

theorem WritesIn.setPred (b : Bool) (h : isIn l (0x640 + n) = true) : WritesIn l x (x.setPred n b) where
  rest := by
    unfold Lane.setPred
    split <;> rfl
  regs r _ _ := by rw [Lane.reg, Lane.setPred_v, ← Lane.reg]
  preds p _ hl := x.pred_setPred_ne b (by rintro rfl; simp [h] at hl)

end

/-! The registers an instruction may write -/

section
variable {k : Key} {f : Fields} {sg : Sig} {x : Lane} {c : Nat}

/-- Its destination is among them, where the instruction is not V2P, which names its predicates itself. -/
theorem isIn_mayWrite (hs : Enc.sigFor f.form k = some sg) (hv : ¬(k.maj = 0x0E ∧ k.fn = 7)) (h : isIn (slotRegs k f sg.d f.d) c = true) :
    isIn (mayWrite k f) c = true := by
  simp only [mayWrite, hs, if_neg hv]
  split
  · exact Bool.or_eq_true_iff.mpr (.inr h)
  · exact h

/-- IADDC and ISUBB may write p7 (R195). -/
theorem isIn_mayWrite_carry {fn : BitVec 3} (h : fn = 2 ∨ fn = 3) : isIn (mayWrite ⟨0x08, fn, 0⟩ f) 0x647 = true := by
  rw [mayWrite, if_pos ⟨rfl, rfl, h⟩]
  rfl

/-- V2P may write every predicate (R202). -/
theorem isIn_mayWrite_v2p {p : Nat} (h : p < 16) : isIn (mayWrite ⟨0x0E, 7, 0⟩ f) (0x640 + p) = true := by
  simp [mayWrite, isIn]
  omega

theorem regsOf_pos (w : Wd) : 1 ≤ Enc.regsOf w k f := by
  cases w <;> simp only [Enc.regsOf, Enc.cvtSrcRegs, Enc.cvtDstRegs] <;> (repeat' split) <;> omega

/-- A value written to the destination, as one register or as a pair where it names two. -/
theorem dstVal_in {t : Ty} {v : Nat} {cl : Cls} {w : Wd} (hs : Enc.sigFor f.form k = some sg) (hv : ¬(k.maj = 0x0E ∧ k.fn = 7)) (hd : sg.d = .opd cl w)
    (ht : ∀ n, f.d = .vec n → t.isPair = true → Enc.regsOf w k f = 2) : WritesIn (mayWrite k f) x (dstVal t f.d v x) := by
  have hin {c : Nat} (h : isIn (slotRegs k f (.opd cl w) f.d) c = true) : isIn (mayWrite k f) c = true := isIn_mayWrite hs hv (by rwa [hd])
  unfold dstVal
  split
  · next n hn =>
    have hpos : 1 ≤ Enc.regsOf w k f := regsOf_pos w
    have h0 : isIn (mayWrite k f) n.toNat = true := hin (by simp [slotRegs, hn, isIn]; omega)
    split
    · next hp => exact .setPair _ h0 (hin (by simp [slotRegs, hn, isIn, ht n hn hp]))
    · exact .setReg _ h0
  · next n hn => exact .setPred _ (hin (by simp [slotRegs, hn, isIn, regCode]))
  · exact .refl

end

/-! Destinations by the encoding tables -/

/-- True where a signature's destination is an operand that an instruction's TYPE measures: its registers follow TYPE, or it is a predicate, or no
TYPE of the signature is a pair's. -/
def fitsType (s : Sig) : Bool :=
  match s.d with
  | .opd cl w => w == .ty || cl == .pred || (!s.tys.isEmpty && s.tys.all (fun t => !Enc.isPairTy t))
  | _ => false

/-- The operations whose destination takes a value in the instruction's TYPE. -/
def typedDst (maj fn : Nat) : Bool :=
  decide (0x08 ≤ maj ∧ maj ≤ 0x0D) || (maj == 0x0E && fn == 0) || (maj == 0x11 && fn == 7) || maj == 0x13 || maj == 0x15 || maj == 0x17 || maj == 0x19 ||
    (maj == 0x1A && !(fn == 4 || fn == 5)) || maj == 0x1B || (maj == 0x1D && fn == 0) || maj == 0x20 || maj == 0x25

/-- The operations whose destination is a pair in every TYPE. -/
def wideDst (maj fn : Nat) : Bool := maj == 0x0F || (maj == 0x21 && (fn == 2 || fn == 6 || fn == 7))

theorem fitsType_of_typedDst : ∀ (m : Fin 64) (fn : Fin 8) (sub : Fin 2), typedDst m fn = true → ∀ s ∈ Enc.sigOf m fn sub, fitsType s = true := by
  decide +kernel

theorem wide_of_wideDst : ∀ (m : Fin 64) (fn : Fin 8) (sub : Fin 2), wideDst m fn = true → ∀ s ∈ Enc.sigOf m fn sub, s.d = Enc.v2 := by
  decide +kernel

/-- True for a slot that names an operand. -/
def namesOperand : Slot → Bool
  | .opd _ _ => true
  | _ => false

theorem namesOperand_iff {sl : Slot} : namesOperand sl = true ↔ ∃ cl w, sl = .opd cl w := by
  cases sl <;> simp [namesOperand]

/-- The lane-wise operations, V2P apart, which writes no destination operand. -/
def hasDst (maj fn : Nat) : Bool :=
  (decide (0x08 ≤ maj ∧ maj ≤ 0x0F) && !(maj == 0x0E && fn == 7)) || decide (0x11 ≤ maj ∧ maj ≤ 0x13) || maj == 0x15 || maj == 0x17 || decide (0x19 ≤ maj ∧ maj ≤ 0x25)

theorem namesOperand_of_hasDst : ∀ (m : Fin 64) (fn : Fin 8) (sub : Fin 2), hasDst m fn = true → ∀ s ∈ Enc.sigOf m fn sub, namesOperand s.d = true := by
  decide +kernel

/-! Values written to the destination of a well-formed instruction -/

theorem tyOf_isPair (f : Fields) : (tyOf f).isPair = Enc.isPairTy f.ty := by
  have h : ∀ t : BitVec 5, (Ty.ofCode t).isPair = Enc.isPairTy t := by decide
  exact h f.ty

section
variable {k : Key} {f : Fields} {sg : Sig} {x : Lane} {v : Nat} {t : Ty}

/-- What the check of a well-formed instruction says of its TYPE and of a destination that is a vector register (R171, R182). -/
theorem partsOk_checked (h : Enc.partsOk k f = true) : ∃ sg, Enc.sigFor f.form k = some sg ∧ (sg.tys ≠ [] → f.ty ∈ sg.tys) ∧
    (∀ cl w n, sg.d = .opd cl w → f.d = .vec n → Enc.accepts cl (.vec n) = true) ∧ Enc.checkEntry k f = none := by
  unfold Enc.partsOk at h
  split at h
  · cases h
  · next sg hs =>
    refine ⟨sg, hs, ?_⟩
    obtain ⟨-, hc⟩ := Bool.and_eq_true_iff.mp h
    rw [Option.isNone_iff_eq_none] at hc
    unfold Enc.check at hc
    split at hc
    · cases hc
    · next hty =>
      simp only [Option.orElse_eq_orElse, Option.orElse_eq_or, Option.or_eq_none_iff] at hc
      obtain ⟨⟨hslot, -⟩, hentry⟩ := hc
      refine ⟨fun hne => by_contra fun hn => hty ⟨hne, hn⟩, fun cl w n hd hn => ?_, hentry⟩
      by_contra hacc
      have hreject : Enc.checkSlot k f sg.d f.d = some .operandClass := by
        rw [hd, hn]
        exact if_pos (Bool.eq_false_iff.mpr hacc)
      exact nomatch hreject.symm.trans hslot

/-- The destination's slot of a lane-wise operation. -/
theorem dst_of_partsOk (h : Enc.partsOk k f = true) (hk : hasDst k.maj.toNat k.fn.toNat = true) :
    ∃ sg cl w, Enc.sigFor f.form k = some sg ∧ sg.d = .opd cl w ∧ ¬(k.maj = 0x0E ∧ k.fn = 7) := by
  obtain ⟨sg, hs, -⟩ := partsOk_checked h
  obtain ⟨hsig, -⟩ := Enc.sigFor_eq_some.mp hs
  obtain ⟨cl, w, hd⟩ := namesOperand_iff.mp (namesOperand_of_hasDst ⟨_, k.maj.isLt⟩ ⟨_, k.fn.isLt⟩ ⟨_, Enc.sub_le_one hsig⟩ hk sg hsig)
  refine ⟨sg, cl, w, hs, hd, ?_⟩
  rintro ⟨hm, hf⟩
  simp [hm, hf, hasDst] at hk

/-- A value of one word. -/
theorem dstVal_word_in (h : Enc.partsOk k f = true) (hk : hasDst k.maj.toNat k.fn.toNat = true) (ht : t.isPair = false) :
    WritesIn (mayWrite k f) x (dstVal t f.d v x) := by
  obtain ⟨sg, cl, w, hs, hd, hv⟩ := dst_of_partsOk h hk
  exact dstVal_in hs hv hd (fun n _ hp => by simp [ht] at hp)

/-- A value of two words, where the destination is a pair in every TYPE. -/
theorem dstVal_wide_in (h : Enc.partsOk k f = true) (hk : wideDst k.maj.toNat k.fn.toNat = true) : WritesIn (mayWrite k f) x (dstVal t f.d v x) := by
  obtain ⟨sg, hs, -⟩ := partsOk_checked h
  obtain ⟨hsig, -⟩ := Enc.sigFor_eq_some.mp hs
  have hd : sg.d = Enc.v2 := wide_of_wideDst ⟨_, k.maj.isLt⟩ ⟨_, k.fn.isLt⟩ ⟨_, Enc.sub_le_one hsig⟩ hk sg hsig
  refine dstVal_in hs ?_ hd (fun n _ _ => rfl)
  rintro ⟨hm, hf⟩
  simp [hm, hf, wideDst] at hk

/-- A value in the instruction's TYPE. -/
theorem dstVal_tyOf_in (h : Enc.partsOk k f = true) (hk : typedDst k.maj.toNat k.fn.toNat = true) : WritesIn (mayWrite k f) x (dstVal (tyOf f) f.d v x) := by
  obtain ⟨sg, hs, hty, hacc, -⟩ := partsOk_checked h
  obtain ⟨hsig, -⟩ := Enc.sigFor_eq_some.mp hs
  have hfits := fitsType_of_typedDst ⟨_, k.maj.isLt⟩ ⟨_, k.fn.isLt⟩ ⟨_, Enc.sub_le_one hsig⟩ hk sg hsig
  unfold fitsType at hfits
  split at hfits
  · next cl w hd =>
    refine dstVal_in hs ?_ hd (fun n hn hp => ?_)
    · rintro ⟨hm, hf⟩
      simp [hm, hf, typedDst] at hk
    · rw [tyOf_isPair] at hp
      simp only [Bool.or_eq_true, beq_iff_eq, Bool.and_eq_true, Bool.not_eq_true', List.isEmpty_eq_false_iff, List.all_eq_true] at hfits
      obtain (rfl | rfl) | ⟨hne, hall⟩ := hfits
      · exact if_pos hp
      · exact nomatch hacc _ _ n hd hn
      · exact absurd hp (by simp [hall _ (hty hne)])
  · cases hfits

/-- The code of a CVT. -/
def cvtCode (o : Operand) : Nat :=
  match o with
  | .num n => n.toNat % 64
  | _ => 0

/-- CVT's destination names two registers where its code's result is a pair (R227). -/
theorem cvtDstRegs_of_isPair {o : Operand} (hdef : Enc.cvtDefined (Enc.numOf o) = true) (hp : (cvtDst (cvtCode o)).isPair = true) :
    Enc.cvtDstRegs (Enc.numOf o) = 2 := by
  have hcode : cvtCode o = Enc.numOf o % 64 := by cases o <;> rfl
  have htable : ∀ c, c < 36 → (cvtDst c).isPair = true → Enc.cvtDstRegs c = 2 := by decide
  have hlt : Enc.numOf o < 36 := by
    simp only [Enc.cvtDefined, Bool.or_eq_true, Bool.and_eq_true, decide_eq_true_eq] at hdef
    omega
  rw [hcode, Nat.mod_eq_of_lt (by omega)] at hp
  exact htable _ hlt hp

theorem dstVal_cvt_in {rnd : BitVec 3} (h : Enc.partsOk ⟨0x1F, rnd, 0⟩ f = true) :
    WritesIn (mayWrite ⟨0x1F, rnd, 0⟩ f) x (dstVal (cvtDst (cvtCode f.b)) f.d v x) := by
  obtain ⟨sg, hs, -, -, hentry⟩ := partsOk_checked h
  obtain ⟨hsig, -⟩ := Enc.sigFor_eq_some.mp hs
  have hdef : Enc.cvtDefined (Enc.numOf f.b) = true := by
    by_contra hn
    simp [Enc.checkEntry, hn] at hentry
  cases hsig
  exact dstVal_in hs (by simp) rfl (fun n _ hp => cvtDstRegs_of_isPair hdef hp)

/-! Operations with a shape of their own -/

/-- IADD to UMAX: IADDC and ISUBB write p7 beside the destination. -/
theorem iarithLane_in {fn : BitVec 3} {g : Group} (h : Enc.partsOk ⟨0x08, fn, 0⟩ f = true) :
    WritesIn (mayWrite ⟨0x08, fn, 0⟩ f) x (iarithLane fn.toNat g f x) := by
  have hdst {v : Nat} : WritesIn (mayWrite ⟨0x08, fn, 0⟩ f) x (dstVal (tyOf f) f.d v x) := dstVal_tyOf_in h (by simp [typedDst])
  unfold iarithLane
  dsimp only
  split
  · next hfn => exact hdst.trans (.setPred _ (isIn_mayWrite_carry (.inl (BitVec.eq_of_toNat_eq hfn))))
  · next hfn => exact hdst.trans (.setPred _ (isIn_mayWrite_carry (.inr (BitVec.eq_of_toNat_eq hfn))))
  · exact hdst

/-- V2P writes predicates alone. -/
theorem v2p_in {p : BitVec 16} : WritesIn (mayWrite ⟨0x0E, 7, 0⟩ f) x { x with preds := p } where
  rest := rfl
  regs _ _ _ := rfl
  preds _ hq hn := nomatch (isIn_mayWrite_v2p hq).symm.trans hn

theorem funaryLane_in {fn : BitVec 3} {g : Group} (h : Enc.partsOk ⟨0x1A, fn, 0⟩ f = true) :
    WritesIn (mayWrite ⟨0x1A, fn, 0⟩ f) x (funaryLane fn.toNat g f x).1 := by
  have hword {v : Nat} : WritesIn (mayWrite ⟨0x1A, fn, 0⟩ f) x (dstVal .i32 f.d v x) := dstVal_word_in h (by simp [hasDst]) rfl
  have hdst (h4 : fn.toNat ≠ 4) (h5 : fn.toNat ≠ 5) {v : Nat} : WritesIn (mayWrite ⟨0x1A, fn, 0⟩ f) x (dstVal (tyOf f) f.d v x) :=
    dstVal_tyOf_in h (by simp [typedDst, h4, h5])
  unfold funaryLane
  dsimp only
  split
  case h_5 | h_6 => exact hword
  all_goals exact hdst (by omega) (by omega)

theorem shflLane_in {fn : BitVec 3} {s : State} {l : Nat} (h : Enc.partsOk ⟨0x20, fn, 0⟩ f = true) :
    WritesIn (mayWrite ⟨0x20, fn, 0⟩ f) x (shflLane fn.toNat f s l x) := by
  have hdst {v : Nat} : WritesIn (mayWrite ⟨0x20, fn, 0⟩ f) x (dstVal (tyOf f) f.d v x) := dstVal_tyOf_in h (by simp [typedDst])
  unfold shflLane
  split
  · exact hdst
  · split
    · exact hdst
    · exact .refl

end

end Sys2Proof.Machine
end

section
/-! What a lane-wise instruction leaves alone, and `Obligations.LaneFrame` (R183, R185, R214). -/

namespace Sys2Proof.Machine

/-- Lane `l` before and after, `x` and `y`, as the frame of a lane-wise instruction relates them: untouched outside the bundle; inside it moved past the
instruction, a guard-false lane no more than that but for SEL; nothing written but what the instruction names, and flags only added, where it may raise them. -/
structure LaneFramed (k : Key) (f : Fields) (s : State) (l : Nat) (x y : Lane) : Prop where
  outside : s.inBundle l = false → y = x
  pc : s.inBundle l = true → y.pc = x.pc + BitVec.ofNat 64 f.form.len
  only : s.inBundle l = true → onlyRegs x y
  guardFalse : s.inBundle l = true → guardOf f.gd x = false → ¬(k.maj = 0x0E ∧ k.fn = 0) → y = { x with pc := y.pc }
  regs : s.inBundle l = true → ∀ r, r < 0x600 → isIn (mayWrite k f) r = false → y.reg r = x.reg r
  preds : s.inBundle l = true → ∀ p, p < 16 → isIn (mayWrite k f) (0x640 + p) = false → y.pred p = x.pred p
  noFlags : s.inBundle l = true → mayFlag k = false → y.fflags = x.fflags
  flags : s.inBundle l = true → y.fflags &&& x.fflags = x.fflags

/-- The frame of a lane-wise instruction: the issuing group's lanes change, each within its own frame, and nothing else does. -/
structure Framed (k : Key) (f : Fields) (s t : State) : Prop where
  only : onlyLanes s t
  length : t.grp.lanes.length = s.grp.lanes.length
  lanes : ∀ l, l < s.grp.lanes.length → LaneFramed k f s l (s.laneAt l) (t.laneAt l)

section
variable {k : Key} {f : Fields} {s t : State} {l : Nat} {x y : Lane}

/-- A lane of the bundle that becomes `y` and adds the flags `e`, then moves past the instruction. -/
theorem laneFramed_of_writes {z : Lane} {e : FFlags} (hin : s.inBundle l = true)
    (hz : z = { y with pc := x.pc + BitVec.ofNat 64 f.form.len, fflags := x.fflags ||| e }) (hw : WritesIn (mayWrite k f) x y)
    (hg : guardOf f.gd x = false → ¬(k.maj = 0x0E ∧ k.fn = 0) → y = x ∧ e = 0) (he : mayFlag k = false → e = 0) : LaneFramed k f s l x z := by
  subst hz
  exact
    { outside := fun h => nomatch hin.symm.trans h
      pc := fun _ => rfl
      only := fun _ => by
        rw [onlyRegs, hw.rest]
      guardFalse := fun _ hf hk => by
        obtain ⟨rfl, rfl⟩ := hg hf hk
        simp
      regs := fun _ => hw.regs
      preds := fun _ => hw.preds
      noFlags := fun _ hk => by simp [he hk]
      flags := fun _ => by
        ext i
        simp only [BitVec.getElem_and, BitVec.getElem_or]
        cases x.fflags[i] <;> simp }

theorem laneFramed_outside (hout : s.inBundle l = false) : LaneFramed k f s l x x where
  outside _ := rfl
  pc h := nomatch hout.symm.trans h
  only h := nomatch hout.symm.trans h
  guardFalse h := nomatch hout.symm.trans h
  regs h := nomatch hout.symm.trans h
  preds h := nomatch hout.symm.trans h
  noFlags h := nomatch hout.symm.trans h
  flags h := nomatch hout.symm.trans h

theorem framed_onLanes {c : Nat → Lane → Lane} (h : ∀ l x, LaneFramed k f s l x (c l x)) : Framed k f s (s.onLanes c) where
  only := rfl
  length := by simp
  lanes l hl := by
    rw [State.laneAt_onLanes s c l hl]
    exact h l _

/-- An instruction that writes what it may in every guard-true lane, and whose flags are added beside. -/
theorem framed_lanewise {h : Nat → Lane → Lane} {e : Nat → Lane → FFlags} (hw : ∀ l x, WritesIn (mayWrite k f) x (h l x))
    (he : mayFlag k = false → ∀ l x, e l x = 0) : Framed k f s (s.lanewise f (fun l x => { h l x with fflags := x.fflags ||| e l x })) := by
  refine framed_onLanes (fun l x => ?_)
  cases hin : s.inBundle l with
  | false => exact laneFramed_outside hin
  | true =>
    cases hgd : guardOf f.gd x with
    | true => exact laneFramed_of_writes (y := h l x) (e := e l x) hin rfl (hw l x) (fun hf => nomatch hgd.symm.trans hf) (fun hk => he hk l x)
    | false => exact laneFramed_of_writes (e := 0) hin (by simp) .refl (fun _ _ => ⟨rfl, rfl⟩) (fun _ => rfl)

theorem framed_runLanes {h : Nat → Lane → Lane} (hs : entryStop k f s = none) (hw : ∀ l x, WritesIn (mayWrite k f) x (h l x))
    (ht : runLanes k f s h = .next t) : Framed k f s t := by
  cases (runLanes_ok k f s h hs).symm.trans ht
  have hh : h = fun l x => { h l x with fflags := x.fflags ||| (0 : FFlags) } := by
    funext l x
    rw [(hw l x).rest]
    simp
  rw [hh]
  exact framed_lanewise hw (fun _ _ _ => rfl)

/-- Without an enabled exception an FP instruction ends with its lanes' results and flags (R32, R214). -/
theorem fpComplete_quiet {h : Nat → Lane → Lane × FFlags} (hq : quietTraps s.grp) :
    fpComplete f h s = s.lanewise f (fun l x => { (h l x).1 with fflags := x.fflags ||| (h l x).2 }) := by
  obtain hen | hv := hq
  · simpa [fpComplete, hen] using userTrap_quiet 0 (trapDst f.d) f.form.len _ _ _
  · simp only [fpComplete, userTrap, trapGroup]
    rw [if_pos (.inr ⟨trivial, hv⟩)]

theorem framed_runFp {h : Nat → Lane → Lane × FFlags} (hs : entryStop k f s = none) (hk : mayFlag k = true) (hq : mayFlag k = true → quietTraps s.grp)
    (hw : ∀ l x, WritesIn (mayWrite k f) x (h l x).1) (ht : runFp k f s h = .next t) : Framed k f s t := by
  cases (run_ok k f s _ hs).symm.trans ht
  rw [fpComplete_quiet (hq hk)]
  exact framed_lanewise hw (fun hn => nomatch hk.symm.trans hn)

/-- SEL writes in every lane of the bundle. -/
theorem framed_sel (hok : Enc.partsOk ⟨0x0E, 0, 0⟩ f = true) (hs : entryStop ⟨0x0E, 0, 0⟩ f s = none) (ht : execSel f s = .next t) :
    Framed ⟨0x0E, 0, 0⟩ f s t := by
  unfold execSel at ht
  cases (run_ok _ f s _ hs).symm.trans ht
  refine framed_onLanes (fun l x => ?_)
  cases hin : s.inBundle l with
  | false => exact laneFramed_outside hin
  | true =>
    have hw : WritesIn (mayWrite ⟨0x0E, 0, 0⟩ f) x
        (dstVal (tyOf f) f.d (if guardOf f.gd x then srcA s.grp (tyOf f) f x else srcB s.grp (tyOf f) f x) x) := dstVal_tyOf_in hok rfl
    refine laneFramed_of_writes (e := 0) hin ?_ hw (fun _ hk => absurd ⟨rfl, rfl⟩ hk) (fun _ => rfl)
    rw [if_pos rfl, hw.rest]
    simp

end

end Sys2Proof.Machine
end

section
/-! The lane-wise instructions one by one, and `Obligations.LaneFrame`. -/

namespace Sys2Proof.Machine

/-- The instructions whose key and fields are those of a lane-wise operation. -/
def isLaneWise (i : Instr) : Bool :=
  match Enc.parts i with
  | some p => laneWise p.1 p.2
  | none => false

theorem isLaneWise_of_parts {i : Instr} {k : Key} {f : Fields} (hp : Enc.parts i = some (k, f)) (hl : laneWise k f = true) : isLaneWise i = true := by
  rw [isLaneWise, hp]
  exact hl

section
variable {f : Fields} {s t : State}

theorem framed_gets (hok : Enc.partsOk ⟨0x13, 0, 0⟩ f = true) (hl : laneWise ⟨0x13, 0, 0⟩ f = true) (hs : entryStop ⟨0x13, 0, 0⟩ f s = none)
    (ht : execGets f s = .next t) : Framed ⟨0x13, 0, 0⟩ f s t := by
  unfold execGets at ht
  split at ht
  · next r hr => simp [laneWise, hr] at hl
  · exact framed_runLanes hs (fun _ _ => dstVal_tyOf_in hok rfl) ht

theorem framed_putl (hok : Enc.partsOk ⟨0x25, 0, 0⟩ f = true) (hs : entryStop ⟨0x25, 0, 0⟩ f s = none) (ht : execPutl f s = .next t) :
    Framed ⟨0x25, 0, 0⟩ f s t := by
  unfold execPutl at ht
  refine framed_runLanes hs (fun l x => ?_) ht
  split
  · exact dstVal_tyOf_in hok rfl
  · exact .refl

variable {o : RedOp} (hq : quietTraps s.grp)
include hq

theorem framed_rstep (hok : Enc.partsOk ⟨0x23, Enc.redOpFn o, 0⟩ f = true) (hs : entryStop ⟨0x23, Enc.redOpFn o, 0⟩ f s = none)
    (ht : execRstep o f s = .next t) : Framed ⟨0x23, Enc.redOpFn o, 0⟩ f s t := by
  have heither {c : Prop} [Decidable c] {x : Lane} {p q : Nat × FFlags} :
      WritesIn (mayWrite ⟨0x23, Enc.redOpFn o, 0⟩ f) x (if c then fpDst .i32 f x p else fpDst .i32 f x q).1 := by
    split <;> exact dstVal_word_in hok (by simp [hasDst]) rfl
  exact framed_runFp hs rfl (fun _ => hq) (fun _ _ => heither) ht

theorem framed_cvt {rnd : BitVec 3} (hok : Enc.partsOk ⟨0x1F, rnd, 0⟩ f = true) (hs : entryStop ⟨0x1F, rnd, 0⟩ f s = none)
    (ht : execCvt rnd f s = .next t) : Framed ⟨0x1F, rnd, 0⟩ f s t :=
  framed_runFp hs rfl (fun _ => hq) (fun _ _ => dstVal_cvt_in hok) ht

end

/-- Each lane-wise instruction that passes its entry checks keeps to its frame. -/
theorem exec_framed {i : Instr} {k : Key} {f : Fields} {s t : State} (hp : Enc.parts i = some (k, f)) (hok : Enc.partsOk k f = true)
    (hl : laneWise k f = true) (hs : entryStop k f s = none) (hq : mayFlag k = true → quietTraps s.grp) (ht : exec i s = .next t) : Framed k f s t := by
  have hi := isLaneWise_of_parts hp hl
  cases i with
  | iadd | isub | iaddc | isubb | imin | imax | umin | umax =>
    cases hp
    exact framed_runLanes hs (fun _ _ => iarithLane_in hok) ht
  | iadds | isubs | uadds | usubs | iabs | imul | imulh | umulh | imad | idiv | udiv | irem | urem | and | or | xor | andn | orn | xnor | not | mov | lop3
  | shl | shr | sar | rol | ror | brev | popc | clz | ctz | bfe | bfes | bfi | lea1 | lea2 | lea3 | prmt | s2v | movi | iaddi =>
    cases hp
    exact framed_runLanes hs (fun _ _ => dstVal_tyOf_in hok rfl) ht
  | icmp =>
    cases hp
    exact framed_runLanes hs (fun _ _ => dstVal_tyOf_in hok (by simp [typedDst])) ht
  | pand | por | pxor | pandn | pset | p2v | dot4i | dot4u | voteAll | voteAny | voteElect | voteMatch | votePopa =>
    cases hp
    exact framed_runLanes hs (fun _ _ => dstVal_word_in hok rfl rfl) ht
  | scmp =>
    cases hp
    exact framed_runLanes hs (fun _ _ => dstVal_word_in hok (by simp [hasDst]) rfl) ht
  | iadd64 | isub64 | shl64 | shr64 | sar64 | imulw | umulw | mov64 | voteBallot | voteLmask | voteActm =>
    cases hp
    exact framed_runLanes hs (fun _ _ => dstVal_wide_in hok rfl) ht
  | shflIdx | shflUp | shflDown | shflXor | shflUpw | shflDownw | shflXorw | shflRotw =>
    cases hp
    exact framed_runLanes hs (fun _ _ => shflLane_in hok) ht
  | v2p =>
    cases hp
    exact framed_runLanes hs (fun _ _ => v2p_in) ht
  | sel =>
    cases hp
    exact framed_sel hok hs ht
  | gets =>
    cases hp
    exact framed_gets hok hl hs ht
  | putl =>
    cases hp
    exact framed_putl hok hs ht
  | fadd | fsub | fmul | ffma | fmin | fmax | fminm | fmaxm | frcp | frsq | fsqrt | fexp2 | flog2 | fsin | fcos | ftanh | fdiv =>
    cases hp
    exact framed_runFp hs rfl hq (fun _ _ => dstVal_tyOf_in hok rfl) ht
  | fabs | fneg | frnd | ffrac | fclass | fgetexp | fscale | fcopysign =>
    cases hp
    exact framed_runFp hs rfl hq (fun _ _ => funaryLane_in hok) ht
  | hadd2 | hmul2 | hfma2 | badd2 | bmul2 | bfma2 | dot2b | dot2h =>
    cases hp
    exact framed_runFp hs rfl hq (fun _ _ => dstVal_word_in hok rfl rfl) ht
  | fcmp | rdx | scan =>
    cases hp
    exact framed_runFp hs rfl hq (fun _ _ => dstVal_word_in hok (by simp [hasDst]) rfl) ht
  | rstep =>
    cases hp
    exact framed_rstep (hq rfl) hok hs ht
  | cvt =>
    cases hp
    exact framed_cvt (hq rfl) hok hs ht
  | _ => exact nomatch hi

/-- Settles O16: the frame of every lane-wise instruction, lane by lane. -/
theorem laneFrame : Obligations.LaneFrame := by
  unfold Obligations.LaneFrame
  intro i k f s t hp hwf hl hs hq ht
  obtain ⟨honly, hlen, hlanes⟩ := exec_framed hp (Enc.wellFormed_of_parts hp ▸ hwf) hl hs hq ht
  refine ⟨honly, hlen, fun l hlt => ?_⟩
  have h := hlanes l hlt
  exact ⟨h.outside, fun hin => ⟨h.pc hin, h.only hin, h.guardFalse hin, h.regs hin, h.preds hin, h.noFlags hin, h.flags hin⟩⟩

end Sys2Proof.Machine
end
